-- ==== Sys2Proof/Word.lean ====
section
/-!
DEFINITION. The word types of the package and the indices of its units (spec/00 R8, spec/01 R15, R16, R28).
-/

namespace Sys2Proof

/-- One byte of any memory of the package. -/
abbrev Byte := BitVec 8

/-- A general register of a control core, and every 64-bit quantity (R166). -/
abbrev Word := BitVec 64

/-- An FP32 bit pattern, a counter value or any other 32-bit quantity. -/
abbrev Half := BitVec 32

/-- A tile by its global index 64 d + 8 c + t (R16). -/
abbrev Tile := Fin 256

/-- A stack, its base die and its Sumac engine (R15). -/
abbrev Stack := Fin 24

/-- A compute die CD0 to CD3. -/
abbrev Die := Fin 4

/-- A cluster by its global index 8 d + c (R16). -/
abbrev Cluster := Fin 32

/-- A partition number (R28). -/
abbrev Part := Fin 4

/-- A host port HP0 to HP3. -/
abbrev HPort := Fin 4

/-- A storage root port LP0 to LP3. -/
abbrev LPort := Fin 4

/-- A fabric port FP0 to FP11. -/
abbrev FPort := Fin 12

/-- A fabric node identity (R30). -/
abbrev Node := BitVec 12

/-- A step index, 48 bits (R9). -/
abbrev StepIx := BitVec 48

/-- A Step Time value: step index in [63:16], phase in [15:0] (R9). -/
abbrev STime := BitVec 64

end Sys2Proof
end

