-- ==== Sys2Proof/Syntax.lean ====
section
/-!
DEFINITION. The commands of the block: one constructor for each row of spec/opcode_table.json, in the table's order.
An operand is what the sender of the command supplies: a register value written, a frame that arrives, bytes read from a host, a measured value.
-/

namespace Sys2Proof

/-- A BAR0 (or BAR4) write as it arrives: port, byte offset, size in bytes, value (R13, R504). -/
structure Access where
  port : HPort
  off  : Nat
  size : Nat
  val  : Word
  deriving DecidableEq, Repr

/-- A shard-map entry: the (NODE, STACK) of a hash home and the LSHARD (R95). -/
structure Home where
  node   : Node
  stack  : BitVec 5
  lshard : BitVec 15
  deriving DecidableEq, Repr

/-- One index entry of a look-up request as the owner receives it (R104, R107). -/
structure LookupEntry where
  bag    : Nat
  pos    : Nat
  row    : BitVec 40
  shard  : BitVec 20
  lshard : BitVec 15
  weight : Half
  deriving DecidableEq, Repr

/-- A look-up request (R107): sub-bags of one hash home, in bag order. -/
structure LookupReq where
  src     : Node
  srcUnit : BitVec 16
  msgId   : Half
  table   : BitVec 10
  ver     : BitVec 16
  digest  : Half
  pool    : BitVec 3
  wtFp32  : Bool
  step    : StepIx
  stack   : BitVec 5
  entries : List LookupEntry
  deriving DecidableEq, Repr

/-- A forwarded request (R101): rows of one original request that one serving engine holds. -/
structure FwdReq where
  home     : Node
  homeStack : BitVec 5
  msgId    : Half
  table    : BitVec 10
  ver      : BitVec 16
  pool     : BitVec 3
  wtFp32   : Bool
  step     : StepIx
  stack    : BitVec 5
  entries  : List LookupEntry
  deriving DecidableEq, Repr

/-- FP32 elements returned for one bag (pooled) or one entry (RAW). `fmt16` says that a RAW row is BF16 bits. -/
structure RowData where
  key   : Nat
  fmt16 : Bool
  elems : List Half
  deriving DecidableEq, Repr

/-- An owner's reply to a look-up request, or a serving engine's reply to a forwarded one (R108, R110). -/
structure LookupResp where
  msgId    : Half
  node     : Node
  stack    : BitVec 5
  status   : Byte
  data     : List RowData
  absent   : Nat
  redirect : Nat
  deriving DecidableEq, Repr

/-- A contribution (R139). -/
structure Contribution where
  row     : BitVec 40
  table   : BitVec 10
  ver     : BitVec 16
  step    : StepIx
  srcNode : Node
  srcCluster : BitVec 5
  seq     : BitVec 16
  count   : Half
  shard   : BitVec 20
  lshard  : BitVec 15
  stack   : BitVec 5
  digest  : Half
  fwd     : Bool
  grad    : List Half
  deriving DecidableEq, Repr

/-- An acknowledgement of a contribution by its owner or by the owner's partner (R137, R140). -/
structure ContribAck where
  cluster : Cluster
  seq     : BitVec 16
  row     : BitVec 40
  node    : Node
  partner : Bool
  deriving DecidableEq, Repr

/-- A withdrawal of every contribution of one source cluster and SEQ (R138). -/
structure Withdrawal where
  srcNode : Node
  srcCluster : BitVec 5
  seq     : BitVec 16
  step    : StepIx
  deriving DecidableEq, Repr

/-- A migration copy of one row to its new home (R162). -/
structure MigCopy where
  src     : Node
  srcStack : BitVec 5
  row     : BitVec 40
  table   : BitVec 10
  ver     : BitVec 16
  shard   : BitVec 20
  digest  : Half
  home    : Home
  record  : List Byte
  deriving DecidableEq, Repr

/-- A hot-row fetch read (R118, R119): the fetch step r, the die and slot that asked. -/
structure HotRead where
  src     : Node
  die     : Die
  set     : Fin 32
  slot    : Nat
  table   : BitVec 10
  ver     : BitVec 16
  row     : BitVec 40
  shard   : BitVec 20
  digest  : Half
  home    : Home
  fetchStep : StepIx
  fwd     : Bool
  deriving DecidableEq, Repr

/-- A reply to a hot-row fetch read: its status (R97, R108), the record, or none for an absent row, and the entries of the codebook of a frozen
row (R117). -/
structure HotReply where
  die    : Die
  set    : Fin 32
  slot   : Nat
  status : Byte
  record : Option (List Byte)
  book   : List (BitVec 16) := []
  deriving DecidableEq, Repr

/-- A readiness report (R43, R58, R518): the value it is for and, when it carries one, its vote. -/
structure Report where
  sender : Node
  value  : STime
  vote   : Option Bool
  deriving DecidableEq, Repr

/-- A beacon (02 Beacons). -/
structure Beacon where
  sender   : Node
  st       : STime
  master   : Node
  decision : Bool
  skip     : Bool
  deriving DecidableEq, Repr

/-- A step-decision partial or result (R304 to R306). -/
structure SdMsg where
  sender  : Node
  step    : StepIx
  sumsq   : Half
  nonfin  : Half
  skipReq : Bool
  deriving DecidableEq, Repr

/-- A counter of the package: die counter i of die d, or fabric counter j of partition p's share (R253). -/
inductive CtrRef where
  | die (d : Die) (i : Fin 4096)
  | fab (p : Part) (j : Fin 1024)
  deriving DecidableEq, Repr

/-- A remote increment as it arrives (R264). -/
structure RemoteInc where
  src      : Node
  srcUnit  : BitVec 16
  index    : BitVec 12
  amount   : Half
  admitted : Bool
  deriving DecidableEq, Repr

/-- What a traffic generator has done when it ends (R292): its accesses, how many words it read that miscompared, and of the first of
them the channel offset and what was read there. -/
structure TgResult where
  accesses : Half
  errs     : Half
  errAddr  : BitVec 30
  readWord : Word
  deriving DecidableEq, Repr

/-- The attributes a HELLO carries (R318). -/
structure Hello where
  node       : Node
  pfx        : BitVec 36
  jobId      : Word
  maxPayload : BitVec 2
  deriving DecidableEq, Repr

/-- What a key-agreement message of a peer carries (R431), with the device ID of its chain. -/
structure PeerProof where
  chain      : List Byte
  member     : List Byte
  measure6   : List Byte
  sig        : List Byte
  deviceId   : BitVec 384
  pub        : List Byte
  rnd        : BitVec 256
  deriving DecidableEq, Repr

/-- A DMA COPY access to this node's memory by another node (R258, R271, R316): RAW or checked, stack, offset, and the bytes to write or
the length to read. -/
structure RemoteAccess where
  raw   : Bool
  stack : BitVec 5
  off   : BitVec 36
  bytes : List Byte
  read  : Nat
  deriving DecidableEq, Repr

/-- An entry of an input-log record (R354). -/
structure InputEntry where
  port   : HPort
  queue  : Byte
  seq    : BitVec 16
  bytes  : Half
  digest : BitVec 384
  deriving DecidableEq, Repr

/-- An input-log record: a step, its outcome and its entries in completion order (R354). -/
structure InputRec where
  step    : Nat
  skip    : Bool
  entries : List InputEntry
  deriving DecidableEq, Repr

/-- A Redirect entry in state ACTIVE (R100). -/
structure RedirectEnt where
  row : Nat
  table : Nat
  ver : Nat
  node : Nat
  stack : Nat
  lshard : Nat
  deriving DecidableEq, Repr

/-- A row of a migration batch: 0 not copied, 1 copied and not acknowledged, 2 moved, 3 left where it was. `acks` counts the missing
acknowledgements; `old` is the place of the old copy: node, stack, LSHARD, slot (R162). -/
structure MigRow where
  row : Nat
  table : Nat
  ver : Nat
  node : Nat
  stack : Nat
  lshard : Nat
  phase : Nat
  acks : Nat
  old  : Option (Nat × Nat × Nat × Nat)
  deriving DecidableEq, Repr

/-- A migration batch held by an engine (R161). -/
structure MigBatch where
  stack : Nat
  id    : Nat
  step  : Nat
  rows  : List MigRow
  ready : Bool
  installed : Bool
  deriving DecidableEq, Repr

/-- A record of a journal drive or of staging (R348 to R350). -/
inductive JRec where
  | image (stack off : Nat) (bytes : List Byte)
  | engine (stack : Nat) (redirects : List RedirectEnt) (batches : List MigBatch)
  | dense (index addr : Nat) (bytes : List Byte)
  | inputs (r : InputRec)
  | seal (epoch step : Nat)
  deriving DecidableEq, Repr

/-- A superblock (R348). `crcOk`: its CRC-32C holds. -/
structure Superblock where
  seq       : Nat
  jobId     : Nat
  baseSel   : Bool
  baseStep  : Nat
  baseEpoch : Nat
  tail      : Nat
  crcOk     : Bool := true
  deriving DecidableEq, Repr

/-- A record of the ring, with the LBA at which it begins. `crcOk`: its CRC-32C holds (R350). -/
structure RingRec where
  lba   : Nat
  crcOk : Bool := true
  body  : JRec
  deriving DecidableEq, Repr

/-- What a journal drive holds (R348): the superblocks at LBAs 0 and 1, what lies at the LBAs of base areas, and the ring's records in the
order of writing. `ok`: the drive can be read; the reservation keys registered on
it, and the key that holds the Write Exclusive reservation (R387). -/
structure DriveImage where
  ok    : Bool
  sb0   : Option Superblock := none
  sb1   : Option Superblock := none
  bases : List (Nat × List JRec) := []
  ring  : List RingRec := []
  resvKeys : List Nat := []
  holder : Option Nat := none
  deriving DecidableEq, Repr

/-- Key programming of an IDE stream (R425): a key goes into one of its two key sets, a stream goes to a key set or stops. `start` programs
key set 0 and goes to it. -/
inductive IdeKm where
  | program (set : Bool) (key : BitVec 256)
  | go (set : Bool)
  | stop
  | start (key : BitVec 256)
  deriving DecidableEq, Repr

/-- An SPDM request (R424); `ideKm` is key programming inside a secured session, of the link stream or the selective stream (R425). -/
inductive SpdmReq where
  | getVersion | getCapabilities | negotiateAlgorithms | getDigests | getCertificate (slot : Nat := 0) | challenge | getMeasurements
  | keyExchange | finish | heartbeat | keyUpdate | endSession | ideKm (selective : Bool := false) (km : IdeKm := .start 0) | other
  deriving DecidableEq, Repr

/-- An algorithm that the SPDM responders support (R424). -/
inductive SpdmAlg where
  | ecdsaP384 | sha384 | secp384r1 | aesGcm256
  deriving DecidableEq, Repr

/-- What a row of a command that takes time stands for (R437, R420): the whole command, its start, or its end. -/
inductive CmdPhase where
  | whole | begins | ends
  deriving DecidableEq, Repr

/-- A hash home's order to the engine of another node that holds the old copy of a row: mark it MOVED, or release it (R162, R164). -/
structure MovedMsg where
  stack   : BitVec 5
  lshard  : BitVec 15
  table   : BitVec 10
  ver     : BitVec 16
  row     : BitVec 40
  retired : Bool
  deriving DecidableEq, Repr

/-- A frame as the receiver's MAC hands it up (R310, R313, R315, R320). `cls` is the traffic class, `body` the payload; `macCtl` marks a MAC
control frame. -/
structure Frame where
  etype    : BitVec 16 := 0x88B5
  macCtl   : Bool := false
  last     : Bool := true
  retx     : Bool := false
  msgId    : Half := 0
  fcsOk    : Bool
  tagOk    : Bool
  ver      : BitVec 4
  cls      : BitVec 4
  rsvd     : Bool
  len      : Nat
  dst      : Node
  src      : Node
  seq      : StepIx
  epoch    : Byte
  ttl      : BitVec 4
  ackValid : Bool
  ackSeq   : StepIx
  srcUnit  : BitVec 16
  stripe   : BitVec 5
  body     : List Byte
  /-- The access of a DMA COPY frame (CLASS 0x6, REGION 0x4), when the payload is one. -/
  access   : Option RemoteAccess
  /-- The payload is the acknowledgement that a DMA write is visible (R258), or an order about an old copy (R162, R164). -/
  visible  : Bool := false
  moved    : Option MovedMsg := none
  deriving DecidableEq, Repr

/-- A segment of a collective (R328, R332): FP32 partials in the reduction, converted bits in the gather. -/
structure Segment where
  groupId : BitVec 16
  digest  : Half
  chunk   : Nat
  off     : Nat
  reduce  : Bool
  data    : List Byte
  deriving DecidableEq, Repr

/-- A copy, echo or mark for a watch slot (R339, R341, R344). -/
structure CopyMsg where
  forNode : Node
  typ     : Byte
  step    : StepIx
  payload : List Byte
  contrib : Option Contribution
  deriving DecidableEq, Repr

/-- Voltage and current read of one rail (R463). -/
structure RailRead where
  ok : Bool
  mv : Nat
  ma : Nat
  deriving DecidableEq, Repr

/-- The part of a tile that fails self-test (R17): the control core, one of its memories, or an engine (0 matrix, 1 vector, 2 row, 3 DMA). -/
inductive SelfTest where
  | core | scratchpad | instrMem | dataMem | accMem | sideMem
  | engine (e : Fin 4)
  deriving DecidableEq, Repr

/-- The grade fuses (R1): for a 240-tile part, per compute die, which four of its eight clusters lose a tile (one of the 70 choices), and the
place of that tile in each (three bits a cluster). -/
structure Fuses where
  grade240 : Bool
  clusters : List (Fin 70)
  places   : List (BitVec 12)
  deriving DecidableEq, Repr

/-- What the boot of R475 meets: the manufacturing test input (R512), the fuses, parts that fail self-test, the verified image, which store
and PHYs are good. `headerOk` is check 1 of R419 of the delivered image, `imageOk` says that its checks 3 to 6 pass. -/
structure BootFacts where
  mfgTest     : Bool := false
  vordaustOk  : Bool := true
  railsOk     : Bool := true
  imageOk     : Bool := true
  imageSvn    : BitVec 7 := 0
  cosigned    : Bool := false
  storeOk     : Bool := true
  fuses       : Fuses := ⟨false, [], []⟩
  failed      : List (Tile × SelfTest) := []
  unitsOk     : Bool := true
  hbmOk       : Bool := true
  fabFailed   : List FPort := []
  bootMs      : Nat := 0
  headerOk    : Bool := true
  deriving DecidableEq, Repr

/-- A fault message as its source sends it (R442). `part` names the partition of a partition's unit. -/
structure FaultMsg where
  source : BitVec 16
  kind   : BitVec 12
  cls    : BitVec 2
  part   : Option Part
  addr   : Word
  detail : Byte
  deriving DecidableEq, Repr

/-- A memory word or atom in which an ECC event is met (R221, R251, R285, R286). -/
inductive EccMem where
  | sp (t : Tile)
  | clm (c : Cluster)
  | hbm (k : Stack) (off : BitVec 36)
  | acc
  | side
  deriving DecidableEq, Repr

/-- The ECC event a command meets, if any. -/
inductive Ecc where
  | none
  | corrected (m : EccMem)
  | uncorrected (m : EccMem)
  deriving DecidableEq, Repr

/-- The commands, in the order of opcode_table.json. -/
inductive Instr where
  | alu (t : Tile) (rd rs1 rs2 : BitVec 5) (funct : BitVec 11)
  | addi (t : Tile) (rd rs1 : BitVec 5) (imm : BitVec 16)
  | andi (t : Tile) (rd rs1 : BitVec 5) (imm : BitVec 16)
  | ori (t : Tile) (rd rs1 : BitVec 5) (imm : BitVec 16)
  | xori (t : Tile) (rd rs1 : BitVec 5) (imm : BitVec 16)
  | shi (t : Tile) (rd rs1 : BitVec 5) (imm : BitVec 16)
  | lui (t : Tile) (rd rs1 : BitVec 5) (imm : BitVec 16)
  | fpu (t : Tile) (rd rs1 rs2 : BitVec 5) (funct : BitVec 11)
  | insi (t : Tile) (rd rs1 : BitVec 5) (imm : BitVec 16)
  | ldd (t : Tile) (rd rs1 : BitVec 5) (imm : BitVec 16)
  | ldw (t : Tile) (rd rs1 : BitVec 5) (imm : BitVec 16)
  | ldws (t : Tile) (rd rs1 : BitVec 5) (imm : BitVec 16)
  | ldb (t : Tile) (rd rs1 : BitVec 5) (imm : BitVec 16)
  | std (t : Tile) (rs2 rs1 : BitVec 5) (imm : BitVec 16)
  | stw (t : Tile) (rs2 rs1 : BitVec 5) (imm : BitVec 16)
  | stb (t : Tile) (rs2 rs1 : BitVec 5) (imm : BitVec 16)
  | beq (t : Tile) (rs1 rs2 : BitVec 5) (off : BitVec 16)
  | bne (t : Tile) (rs1 rs2 : BitVec 5) (off : BitVec 16)
  | blt (t : Tile) (rs1 rs2 : BitVec 5) (off : BitVec 16)
  | bge (t : Tile) (rs1 rs2 : BitVec 5) (off : BitVec 16)
  | bltu (t : Tile) (rs1 rs2 : BitVec 5) (off : BitVec 16)
  | bgeu (t : Tile) (rs1 rs2 : BitVec 5) (off : BitVec 16)
  | jal (t : Tile) (off : BitVec 26)
  | jalr (t : Tile) (rd rs1 : BitVec 5) (imm : BitVec 16)
  | push (t : Tile) (q k : BitVec 3) (rsvd : BitVec 20)
  | qstat (t : Tile) (rd rs1 : BitVec 5) (imm : BitVec 16)
  | sig (t : Tile) (rd rs1 rs2 : BitVec 5) (funct : BitVec 11)
  | wait (t : Tile) (rd rs1 rs2 : BitVec 5) (funct : BitVec 11)
  | waitRelease (t : Tile)
  | vsum (t : Tile) (rd rs1 : BitVec 5) (imm : BitVec 16)
  | rdsr (t : Tile) (rd rs1 : BitVec 5) (imm : BitVec 16)
  | wrsr (t : Tile) (rd rs1 : BitVec 5) (imm : BitVec 16)
  | fence (t : Tile) (rd rs1 : BitVec 5) (imm : BitVec 16)
  | fenceRelease (t : Tile)
  | halt (t : Tile) (rd rs1 : BitVec 5) (imm : BitVec 16)
  | tileStart (port : HPort) (t : Tile) (val : Half)
  | tileStop (port : HPort) (t : Tile) (val : Half)
  | qreset (port : HPort) (t : Tile) (mask : BitVec 5)
  | commandComplete (t : Tile) (q : Fin 5)
  | mma (t : Tile) (deferred : Bool) (ecc : Ecc)
  | mdrain (t : Tile) (deferred : Bool) (ecc : Ecc)
  | mtload (t : Tile) (deferred : Bool) (ecc : Ecc := .none)
  | mbind (t : Tile) (deferred : Bool) (ecc : Ecc := .none)
  | mslot (t : Tile) (deferred : Bool)
  | vadd (t : Tile) (ecc : Ecc := .none)
  | vsub (t : Tile) (ecc : Ecc := .none)
  | vmul (t : Tile) (ecc : Ecc := .none)
  | vfma (t : Tile) (ecc : Ecc := .none)
  | vmin (t : Tile) (ecc : Ecc := .none)
  | vmax (t : Tile) (ecc : Ecc := .none)
  | vcmp (t : Tile) (ecc : Ecc := .none)
  | vsel (t : Tile) (ecc : Ecc := .none)
  | vcvt (t : Tile) (ecc : Ecc := .none)
  | vred (t : Tile) (ecc : Ecc := .none)
  | idxgen (t : Tile) (ecc : Ecc := .none)
  | smaxF (t : Tile) (ecc : Ecc)
  | smaxB (t : Tile) (ecc : Ecc := .none)
  | normF (t : Tile) (ecc : Ecc := .none)
  | normB (t : Tile) (ecc : Ecc)
  | copy (t : Tile) (ext : List Byte) (ecc : Ecc)
  | stream (t : Tile) (ecc : Ecc := .none)
  | streamChunkStart (t : Tile)
  | streamChunkLanded (t : Tile) (ext : List Byte) (ecc : Ecc := .none)
  | dcopy (t : Tile) (ecc : Ecc := .none)
  | lookup (t : Tile) (ext : List Byte) (ecc : Ecc := .none)
  | merge (t : Tile) (ext : List Byte) (ecc : Ecc := .none)
  | tload (t : Tile) (ext : List Byte) (ecc : Ecc := .none)
  | tstart (t : Tile)
  | lookupRequestReceive (p : Part) (m : LookupReq) (ecc : Ecc)
  | forwardedRequestReceive (p : Part) (m : FwdReq) (ecc : Ecc := .none)
  | lookupReplyReceive (p : Part) (m : LookupResp)
  | lookupComplete (t : Tile)
  | lookupTimeout (t : Tile)
  | install (port : HPort) (table : BitVec 10) (ver : BitVec 16)
  | seal (port : HPort) (table : BitVec 10) (ver : BitVec 16)
  | abort (port : HPort) (table : BitVec 10) (ver : BitVec 16)
  | free (port : HPort) (table : BitVec 10) (ver : BitVec 16)
  | activate (port : HPort) (table : BitVec 10) (ver : BitVec 16)
  | versionRetire (p : Part) (table : BitVec 10) (slot : Fin 4)
  | clovePassDone (c : Cluster) (ext : List Byte) (ecc : Ecc := .none)
  | contributionReceive (p : Part) (m : Contribution) (ecc : Ecc := .none)
  | contributionAckReceive (p : Part) (m : ContribAck)
  | withdrawalReceive (p : Part) (m : Withdrawal)
  | mergeComplete (c : Cluster)
  | mergeTimeout (c : Cluster)
  | forwardedContributionReceive (p : Part) (m : Contribution) (ecc : Ecc := .none)
  | applyStepFinished (k : Stack)
  | migrate (port : HPort) (ecc : Ecc := .none)
  | migrationCopyStart (k : Stack) (batch : Byte) (ext : List (List Byte)) (ecc : Ecc := .none)
  | migrationCopyReceive (p : Part) (m : MigCopy) (ecc : Ecc := .none)
  | migrationCopyAck (k : Stack) (row : BitVec 40) (table : BitVec 10) (ver : BitVec 16) (stored : Bool)
  | loadSnapshot (port : HPort) (val : Half)
  | stEnableWrite (a : Access)
  | stNowWrite (a : Access)
  | readinessReportSend (p : Part)
  | readinessReportReceive (p : Part) (m : Report)
  | stMasterAdvance (p : Part) (ecc : Ecc := .none)
  | beaconReceive (p : Part) (m : Beacon) (ecc : Ecc := .none)
  | beaconTimeout (p : Part)
  | eventArm (a : Access)
  | eventDisarm (a : Access)
  | hotrowFetchReadReceive (p : Part) (m : HotRead) (ecc : Ecc := .none)
  | hotrowFetchDone (p : Part) (d : Die) (set : Fin 32)
  | hotrowSwap (p : Part)
  | migrationRetire (p : Part)
  | epochClose (p : Part) (ecc : Ecc := .none)
  | normPassDone (k : Stack)
  | sdLocalPartial (p : Part)
  | sdSubtreeSend (p : Part)
  | sdPartialReceive (p : Part) (m : SdMsg)
  | sdResultReceive (p : Part) (m : SdMsg)
  | normTimeout (p : Part)
  | voteSet (port : HPort)
  | weightWriteRelease (t : Tile)
  | incrementApply (c : CtrRef)
  | remoteIncrementReceive (p : Part) (m : RemoteInc)
  | syncHostSig (port : HPort) (val : Word)
  | counterWrite (bar4 : Bool) (a : Access)
  /-- `also` lists waits that expire in the same cycle (R263). -/
  | syncTimeout (t : Tile) (dma : Bool) (also : List (Tile × Bool) := [])
  | tgStart (port : HPort) (k : Stack)
  | tgStop (port : HPort) (k : Stack)
  | tgDone (k : Stack) (pc : Fin 64) (r : TgResult)
  | portEnable (port : HPort) (f : FPort)
  | portDisable (port : HPort) (f : FPort)
  | retrain (port : HPort) (f : FPort)
  /-- Bit i of `lanes` is set when lane i is locked (R310, R312). -/
  | linkTrained (f : FPort) (lanes : BitVec 4)
  | linkTrainTimeout (f : FPort)
  | linkDown (f : FPort) (lanes : BitVec 4)
  | helloReceive (f : FPort) (i : Fin 32) (h : Hello)
  | helloRepeat (f : FPort) (i : Fin 32)
  | ka1 (f : FPort) (i : Fin 32) (m : PeerProof)
  | ka2 (f : FPort) (i : Fin 32) (m : PeerProof)
  | ka3 (f : FPort) (i : Fin 32) (m : PeerProof)
  | ka4 (f : FPort) (i : Fin 32)
  | handshakeTimeout (f : FPort) (i : Fin 32)
  | peerEntryWrite (port : HPort) (f : FPort) (i : Fin 32) (val : BitVec 16)
  | frameReceive (f : FPort) (i : Fin 32) (m : Frame) (ecc : Ecc := .none)
  | nakReceive (f : FPort) (i : Fin 32) (expected : StepIx)
  | ackReceive (f : FPort) (i : Fin 32) (ackSeq : StepIx)
  | replayTimeout (f : FPort) (i : Fin 32)
  | transitFrame (f : FPort) (m : Frame)
  | nodeUnreachable (p : Part) (hop : Node)
  | faultBeaconSend (f : FPort)
  | faultBeaconReceive (f : FPort) (i : Fin 32) (node : Node) (kind : BitVec 12)
  | collArm (a : Access) (ecc : Ecc := .none)
  | collDisarm (a : Access)
  | collTrigger (p : Part) (k : Fin 64) (ecc : Ecc := .none)
  | collSegmentReceive (p : Part) (m : Segment)
  | collDone (p : Part) (k : Fin 64)
  | collTimeout (p : Part) (k : Fin 64)
  | takeoverReceive (p : Part) (f : FPort) (i : Fin 32) (cert : List Byte)
  | rsHold (port : HPort)
  | rewind (port : HPort)
  | reload (port : HPort)
  | verify (port : HPort) (cert : List Byte) (ecc : Ecc := .none)
  | assume (port : HPort)
  | restore (port : HPort) (slot : Fin 4) (image : Option DriveImage) (shares : List CopyMsg)
  | seed (port : HPort) (slot : Fin 4) (image : Option DriveImage)
  | watchModeWrite (port : HPort) (w : Fin 4) (val : Half)
  | copyReceive (p : Part) (m : CopyMsg)
  | seedingDone (p : Part) (w : Fin 4)
  | lapseNoticeReceive (p : Part) (src : Node)
  | journalFormat (port : HPort)
  | journalEnable (port : HPort) (en : Bool) (acquired : Bool := true)
  | journalCompact (p : Part) (port : Option HPort := none)
  | compactionDone (p : Part)
  | journalSealDone (p : Part)
  | journalIo (p : Part)
  | exportStart (port : HPort)
  | importExport (port : HPort) (chunks : List (List Byte)) (image : DriveImage) (nonces : List Nat := [])
  | linkLoss (port : HPort)
  | d3hotEntry (port : HPort)
  | flr (port : HPort)
  | bmeClear (port : HPort)
  | mseClear (port : HPort)
  | scrubDone (p : Part)
  | windowWrite (a : Access)
  | preset (port : HPort) (key : Byte)
  | partitionResetDone (p : Part)
  | resume (port : HPort)
  | modeVote (port : HPort) (newMode : BitVec 2) (vote : Bool)
  | flushReadDone (p : Part) (q : Fin 256) (sqIdx : BitVec 16) (ok : Bool) (port : HPort := 0)
  | lpEnable (port : HPort) (k : LPort) (en : Bool)
  | storageLinkDown (k : LPort)
  | nvmeCompletion (k : LPort) (ok : Bool)
  | queueEnable (a : Access)
  | queueDisable (a : Access)
  | queueOwnerWrite (a : Access)
  | sqDb (port : HPort) (q : Fin 256) (size : Nat) (val : Half)
  | cqDb (port : HPort) (q : Fin 256) (size : Nat) (val : Half)
  | descriptorFetchReturn (p : Part) (q : Fin 256) (descs : List (List Byte))
  | descriptorReread (p : Part) (q : Fin 256) (desc : List Byte)
  | nop (p : Part) (q : Fin 256)
  | input (p : Part) (q : Fin 256) (data : List Byte) (ecc : Ecc := .none)
  | output (p : Part) (q : Fin 256) (ecc : Ecc := .none)
  | queueWait (p : Part) (q : Fin 256)
  | queueWaitTimeout (p : Part) (q : Fin 256)
  | hostTload (p : Part) (q : Fin 256) (ext : List Byte) (ecc : Ecc := .none)
  | hostTstart (p : Part) (q : Fin 256)
  | descriptorComplete (p : Part) (q : Fin 256) (sqIdx : BitVec 16)
  | irqHoldoffExpiry (p : Part) (q : Fin 256)
  | hbmKeyLoad (port : HPort) (phase : CmdPhase := .whole)
  | jobImport (port : HPort) (sealIt : Bool) (blob : List Byte) (phase : CmdPhase := .whole) (ecc : Ecc := .none)
  | memberLoad (port : HPort) (blob : List Byte) (phase : CmdPhase := .whole) (ecc : Ecc := .none)
  | jobClear (port : HPort) (phase : CmdPhase := .whole)
  | dbgChallenge (port : HPort) (phase : CmdPhase := .whole)
  | dbgUnlock (port : HPort) (blob : List Byte) (phase : CmdPhase := .whole) (ecc : Ecc := .none)
  | svnCommit (port : HPort) (phase : CmdPhase := .whole)
  | ownerEnrol (port : HPort) (blob : List Byte) (phase : CmdPhase := .whole) (ecc : Ecc := .none)
  | recoveryGo (image : List Byte) (boot : BootFacts) (phase : CmdPhase := .whole)
  | spdmRequest (port : Option HPort) (req : SpdmReq)
  | ideCheckFail (port : HPort) (selective : Bool := false)
  | vordaustFault
  | faultMessage (m : FaultMsg)
  | settleExpiry (cls : BitVec 2) (scope : BitVec 16)
  | fcAck (port : HPort) (seq : Half)
  | faultRingEnable (port : HPort) (val : Half)
  | faultRingHeadWrite (port : HPort) (head : BitVec 16)
  | injGo (port : HPort) (val : Half)
  | pairFault (group : Fin 5) (idx : Byte)
  | signalPairBroken (group : Fin 5) (idx : Byte)
  | forwardedPartialReceive (p : Part) (m : LookupResp)
  | forwardedAckReceive (p : Part) (stack : BitVec 5) (row : BitVec 40) (table : BitVec 10) (step : StepIx) (partner : Bool)
  | hotrowFetchReplyReceive (p : Part) (m : HotReply)
  | epochCloseAckReceive (p : Part)
  /-- `retries` counts the flit retries of the link up to now that are not yet counted: 16 or more unless it lost lock (R26, R453). -/
  | d2dLinkFailed (l : Fin 8) (retries : Nat := 16)
  | powerOn (b : BootFacts)
  | railTimeout (i : Fin 16) (boot : BootFacts := {}) (image : List Byte := [])
  | powerRemoved (torn : Nat := 0) (blown : Nat := 0)
  | capEvaluate (p : Part) (power : Nat) (diePower : List Nat)
  | thermalEvaluate (temps : List Int) (retried : List Nat := [])
  | levelMoveDone (d : Die)
  | currentLimit (d : Die) (ma : Nat)
  | avsPoll (link : Fin 5) (reads : List RailRead)
  | pwrApply (port : HPort) (profile : BitVec 4)
  | pwrCapWrite (port : HPort) (val : Half)
  | setNode (port : HPort)
  | setSubsys (port : HPort)
  | setIdeReq (port : HPort)
  | setPkgCap (port : HPort)
  | csCompact (port : HPort)
  | csCompactionDone (ok : Bool) (erased : Bool := true)
  | csRecordCommit (ok : Bool)
  | frzPairAssert (equalLevels : Bool)
  | frzPairRelease
  | frzPkgFreeze (port : HPort)
  | frzPkgThaw (port : HPort)
  | quiescent (p : Part)
  | freezeForced (p : Part)
  | stFreezeResume (port : HPort)
  | dumpStart (port : HPort) (hostOk : Bool)
  | dbgWindowAccess (port : HPort) (write : Bool) (off : Nat) (val : Word)
  | accDbgAccess (port : HPort) (t : Tile) (write : Bool) (val : Word) (half : Option Bool := none)
  | sideDbgAccess (port : HPort) (t : Tile) (write : Bool) (val : Word) (half : Option Bool := none)
  | extest (cells : BitVec 61)
  | idcode
  | samplePreload (load : Option (BitVec 61)) (pins : BitVec 61)
  | clamp
  | bypass (tdi : Bool)
  | dbgAccessRead
  | dbgAccessWrite (data : Word)
  | dbgAccessAddress (addr : Word)
  | dbgAuth (token : List Byte)
  | dbgChal
  | registerWrite (a : Access)
  | barAccessInvalid (port : HPort) (write : Bool) (off size : Nat)
  | hostLinkUp (port : HPort) (speed width : Nat) (flit : Bool)
  | storageLinkUp (k : LPort) (speed width : Nat) (fmtOk : Bool) (lbas : Word)
  | completionTimeout (issuer : (Part × Fin 256) ⊕ Tile)
  | lifeRecordUpdate
  deriving DecidableEq, Repr

end Sys2Proof
end

