-- ==== Sys2Proof/Decode.lean ====
section
/-!
DEFINITION. Words that spell commands. The table gives no command a bit, so no word spells one (spec/98: no row has fixed bits or fields).
-/

namespace Sys2Proof

/-- The command a table word spells: none, since no row of the table gives bits. -/
def decodeTableWord (_nbits _w : Nat) : Option Instr := none

end Sys2Proof
end

