-- ==== Sys2Proof/Machine/Fp.lean ====
section
/-!
DEFINITION. Element formats and their arithmetic (spec/03 R61 to R66, R69, R70, R73, R82): IEEE formats by exact dyadic numbers,
rounded once; the canonical NaN; -0 below +0 in minimum and maximum; stochastic rounding; K12.
-/

namespace Sys2Proof.Machine

/-- A binary format: exponent bits and stored significand bits (R61). -/
structure FFmt where
  expBits : Nat
  manBits : Nat
  deriving DecidableEq, Repr

/-- FMT 0x0. -/
def fp32 : FFmt := ⟨8, 23⟩
/-- FMT 0x1. -/
def bf16 : FFmt := ⟨8, 7⟩
/-- FMT 0x2. -/
def fp16 : FFmt := ⟨5, 10⟩

/-- A decoded number: (-1)^neg * m * 2^e, an infinity, or a NaN. -/
inductive FVal where
  | fin (neg : Bool) (m : Nat) (e : Int)
  | inf (neg : Bool)
  | nan
  deriving DecidableEq, Repr

/-- Rounding directions used: to nearest, ties to even (R64); magnitude up (RU of R73, for non-negative values). -/
inductive Rnd where
  | rne | up
  deriving DecidableEq, Repr

def FFmt.bias (f : FFmt) : Nat := 2 ^ (f.expBits - 1) - 1
/-- The bit pattern of +infinity. -/
def FFmt.infBits (f : FFmt) : Nat := (2 ^ f.expBits - 1) * 2 ^ f.manBits
def FFmt.signBit (f : FFmt) : Nat := 2 ^ (f.expBits + f.manBits)
/-- The canonical quiet NaN (R63). -/
def FFmt.nanBits (f : FFmt) : Nat := f.infBits + 2 ^ (f.manBits - 1)
def FFmt.neg (f : FFmt) (b : Nat) : Bool := decide (f.signBit ≤ b % (2 * f.signBit))
def FFmt.mag (f : FFmt) (b : Nat) : Nat := b % f.signBit
/-- Exponent of the unit in the last place of a subnormal. -/
def FFmt.minQ (f : FFmt) : Int := 1 - (f.bias : Int) - f.manBits

/-- The value of a bit pattern, subnormals included (R62). -/
def FFmt.decode (f : FFmt) (b : Nat) : FVal :=
  let s := f.neg b
  let g := f.mag b
  let ex := g / 2 ^ f.manBits
  let mn := g % 2 ^ f.manBits
  if ex = 2 ^ f.expBits - 1 then (if mn = 0 then .inf s else .nan)
  else if ex = 0 then .fin s mn f.minQ
  else .fin s (mn + 2 ^ f.manBits) (f.minQ + (ex - 1 : Nat))

/-- Number of significant bits. -/
def bitLen (m : Nat) : Nat := if m = 0 then 0 else Nat.log2 m + 1

/-- Round (m + sticky) * 2^e to the format; `sticky` says that a nonzero tail below m was dropped. Overflow gives infinity (R64). -/
def FFmt.roundWith (f : FFmt) (r : Rnd) (neg : Bool) (m : Nat) (e : Int) (sticky : Bool) : Nat :=
  let sg := if neg then f.signBit else 0
  if m = 0 ∧ !sticky then sg
  else
    let q := max (e + bitLen m - 1 - f.manBits) f.minQ
    let mant :=
      if q ≤ e then
        let x := m * 2 ^ (e - q).toNat
        if sticky ∧ r = .up then x + 1 else x
      else
        let sh := (q - e).toNat
        let x := m / 2 ^ sh
        let rem := m % 2 ^ sh
        let half := 2 ^ (sh - 1)
        let bump := match r with
          | .rne => decide (half < rem) || (decide (rem = half) && (sticky || x % 2 == 1))
          | .up => decide (0 < rem) || sticky
        if bump then x + 1 else x
    let g := (q - f.minQ).toNat * 2 ^ f.manBits + mant
    sg + (if f.infBits ≤ g then f.infBits else g)

/-- Round an exact number to nearest, ties to even; a NaN becomes the canonical NaN. -/
def FFmt.encode (f : FFmt) : FVal → Nat
  | .fin n m e => f.roundWith .rne n m e false
  | .inf n => (if n then f.signBit else 0) + f.infBits
  | .nan => f.nanBits

/-- Convert between formats (R64). -/
def cvtF (src dst : FFmt) (b : Nat) : Nat := dst.encode (src.decode b)

/-- Exact sum; an exact cancellation is +0, and -0 + -0 is -0. -/
def FVal.add : FVal → FVal → FVal
  | .nan, _ => .nan
  | _, .nan => .nan
  | .inf a, .inf b => if a = b then .inf a else .nan
  | .inf a, _ => .inf a
  | _, .inf b => .inf b
  | .fin n1 m1 e1, .fin n2 m2 e2 =>
    if m1 = 0 ∧ m2 = 0 then .fin (n1 && n2) 0 e1
    else
      let e := min e1 e2
      let a := m1 * 2 ^ (e1 - e).toNat
      let b := m2 * 2 ^ (e2 - e).toNat
      if n1 = n2 then .fin n1 (a + b) e
      else if a = b then .fin false 0 e
      else if b < a then .fin n1 (a - b) e
      else .fin n2 (b - a) e

def FVal.negate : FVal → FVal
  | .nan => .nan
  | .inf a => .inf (!a)
  | .fin n m e => .fin (!n) m e

/-- Exact product. -/
def FVal.mul : FVal → FVal → FVal
  | .nan, _ => .nan
  | _, .nan => .nan
  | .inf a, .inf b => .inf (a != b)
  | .inf a, .fin n m _ => if m = 0 then .nan else .inf (a != n)
  | .fin n m _, .inf b => if m = 0 then .nan else .inf (n != b)
  | .fin n1 m1 e1, .fin n2 m2 e2 => .fin (n1 != n2) (m1 * m2) (e1 + e2)

/-- Quotient rounded once to `f`. -/
def FFmt.divWith (f : FFmt) (r : Rnd) : FVal → FVal → Nat
  | .nan, _ => f.nanBits
  | _, .nan => f.nanBits
  | .inf _, .inf _ => f.nanBits
  | .inf a, .fin n _ _ => f.encode (.inf (a != n))
  | .fin n _ _, .inf b => f.encode (.fin (n != b) 0 0)
  | .fin n1 m1 e1, .fin n2 m2 e2 =>
    if m2 = 0 then (if m1 = 0 then f.nanBits else f.encode (.inf (n1 != n2)))
    else
      let k := 64 + bitLen m2
      let x := m1 * 2 ^ k
      f.roundWith r (n1 != n2) (x / m2) (e1 - e2 - k) (decide (x % m2 ≠ 0))

/-- Integer square root, bit by bit from bit k - 1. -/
def isqrtAux (n : Nat) : Nat → Nat → Nat
  | 0, r => r
  | k + 1, r => isqrtAux n k (if (r + 2 ^ k) * (r + 2 ^ k) ≤ n then r + 2 ^ k else r)

def isqrt (n : Nat) : Nat := isqrtAux n (bitLen n / 2 + 1) 0

/-- Square root rounded once to `f`; of a negative number the canonical NaN; of -0 it is -0. -/
def FFmt.sqrt (f : FFmt) : FVal → Nat
  | .nan => f.nanBits
  | .inf n => if n then f.nanBits else f.infBits
  | .fin n m e =>
    if m = 0 then f.encode (.fin n 0 0)
    else if n then f.nanBits
    else
      let j := 128 + (e.toNat % 2 + (-e).toNat % 2)
      let x := m * 2 ^ j
      let s := isqrt x
      f.roundWith .rne false s ((e - j) / 2) (decide (s * s ≠ x))

/-- A total order on non-NaN patterns with -0 below +0 (R63). -/
def FFmt.key (f : FFmt) (b : Nat) : Int := if f.neg b then -(f.mag b : Int) - 1 else f.mag b

def FFmt.isNan (f : FFmt) (b : Nat) : Bool := decide (f.infBits < f.mag b)
/-- Neither an infinity nor a NaN. -/
def FFmt.isFinite (f : FFmt) (b : Nat) : Bool := decide (f.mag b < f.infBits)

/-- A 32-bit operand as a number. -/
def f32v (a : Half) : FVal := fp32.decode a.toNat
/-- A number as FP32 bits, rounded to nearest even. -/
def f32 (v : FVal) : Half := BitVec.ofNat 32 (fp32.encode v)

def canonNan32 : Half := 0x7FC00000#32

def fAdd (a b : Half) : Half := f32 ((f32v a).add (f32v b))
def fSub (a b : Half) : Half := f32 ((f32v a).add (f32v b).negate)
def fMul (a b : Half) : Half := f32 ((f32v a).mul (f32v b))
def fDiv (a b : Half) : Half := BitVec.ofNat 32 (fp32.divWith .rne (f32v a) (f32v b))
def fSqrt (a : Half) : Half := BitVec.ofNat 32 (fp32.sqrt (f32v a))
/-- a * b + c with one rounding (R231). -/
def fFma (a b c : Half) : Half := f32 (((f32v a).mul (f32v b)).add (f32v c))
def fIsNan (a : Half) : Bool := fp32.isNan a.toNat
def fIsFinite (a : Half) : Bool := fp32.isFinite a.toNat
def fMin (a b : Half) : Half :=
  if fIsNan a || fIsNan b then canonNan32 else if fp32.key a.toNat ≤ fp32.key b.toNat then a else b
def fMax (a b : Half) : Half :=
  if fIsNan a || fIsNan b then canonNan32 else if fp32.key a.toNat ≤ fp32.key b.toNat then b else a
/-- Comparisons: false on a NaN, +0 equals -0 (R63). -/
def fEq (a b : Half) : Bool :=
  !(fIsNan a || fIsNan b) && (a == b || (fp32.mag a.toNat == 0 && fp32.mag b.toNat == 0))
def fLt (a b : Half) : Bool :=
  !(fIsNan a || fIsNan b) && !(fp32.mag a.toNat == 0 && fp32.mag b.toNat == 0)
    && decide (fp32.key a.toNat < fp32.key b.toNat)
def fLe (a b : Half) : Bool := fLt a b || fEq a b
/-- FABS and FNEG: the canonical NaN of a NaN, else a sign operation (R172). -/
def fAbs (a : Half) : Half := if fIsNan a then canonNan32 else a &&& 0x7FFFFFFF#32
def fNeg (a : Half) : Half := if fIsNan a then canonNan32 else a ^^^ 0x80000000#32

/-- FCVTSW: a signed 32-bit integer to FP32, to nearest even (R171). -/
def fCvtSW (a : Half) : Half := f32 (.fin (decide (a.toInt < 0)) a.toInt.natAbs 0)

/-- Magnitude of a number truncated to an integer. -/
def truncMag (m : Nat) (e : Int) : Nat := if 0 ≤ e then m * 2 ^ e.toNat else m / 2 ^ (-e).toNat

/-- Magnitude of a number rounded to the nearest integer, ties to even. -/
def rneMag (m : Nat) (e : Int) : Nat :=
  if 0 ≤ e then m * 2 ^ e.toNat
  else
    let d := 2 ^ (-e).toNat
    let x := m / d
    if d < 2 * (m % d) ∨ (d = 2 * (m % d) ∧ x % 2 = 1) then x + 1 else x

/-- FCVTWS: FP32 to a signed 32-bit integer, toward zero, saturating; NaN gives 0 (R171). -/
def fCvtWS (a : Half) : Half :=
  match f32v a with
  | .nan => 0
  | .inf n => if n then 0x80000000#32 else 0x7FFFFFFF#32
  | .fin n m e =>
    let t := truncMag m e
    if n then (if 0x80000000 ≤ t then 0x80000000#32 else -(BitVec.ofNat 32 t))
    else (if 0x7FFFFFFF ≤ t then 0x7FFFFFFF#32 else BitVec.ofNat 32 t)

/-! ### Correctly rounded functions (R240) -/

/-- ln 2 with 160 fraction bits. -/
def ln2Fix : Nat := 1013035739299659071135698605846798551586536899366

/-- Sum of r^i / i! for i below the fuel, in fixed point with 160 fraction bits. -/
def expTerms (r : Int) : Nat → Nat → Int → Int → Int
  | 0, _, _, acc => acc
  | k + 1, i, term, acc => expTerms r k (i + 1) (term * r / 2 ^ 160 / (i + 1 : Nat)) (acc + term)

/-- exp of a FP32 number: 1 below magnitude 2^-26, infinity or 0 from 256 up, else by a series in 160-bit fixed point, whose error is far
below the distance of any FP32 exponential from a rounding boundary. -/
def fExp (a : Half) : Half :=
  match f32v a with
  | .nan => canonNan32
  | .inf n => if n then 0 else 0x7F800000#32
  | .fin n m e =>
    if m = 0 then 0x3F800000#32
    else
      let top := e + bitLen m
      if top < -26 then 0x3F800000#32
      else if 8 < top then (if n then 0 else 0x7F800000#32)
      else
        let mag : Int := m * 2 ^ (e + 160).toNat
        let x : Int := if n then -mag else mag
        let k := (2 * x + ln2Fix) / (2 * ln2Fix)
        let r := x - k * ln2Fix
        let y := expTerms r 48 0 (2 ^ 160) 0
        BitVec.ofNat 32 (fp32.roundWith .rne false y.toNat (k - 160) true)

/-- 1 / sqrt of a FP32 number; of a negative number the canonical NaN. -/
def fRsqrt (a : Half) : Half :=
  match f32v a with
  | .nan => canonNan32
  | .inf n => if n then canonNan32 else 0
  | .fin n m e =>
    if m = 0 then (if n then 0xFF800000#32 else 0x7F800000#32)
    else if n then canonNan32
    else
      let odd := (e % 2).toNat
      let m := m * 2 ^ odd
      let k := 64 + bitLen m
      let q := isqrt (2 ^ (2 * k) / m)
      BitVec.ofNat 32 (fp32.roundWith .rne false q (-((e - odd) / 2) - k) (decide (q * q * m ≠ 2 ^ (2 * k))))

/-! ### Stored 16-bit forms (R64) -/

def bf16ToF32 (b : BitVec 16) : Half := BitVec.ofNat 32 (cvtF bf16 fp32 b.toNat)
def fp16ToF32 (b : BitVec 16) : Half := BitVec.ofNat 32 (cvtF fp16 fp32 b.toNat)
def f32ToBf16 (a : Half) : BitVec 16 := BitVec.ofNat 16 (cvtF fp32 bf16 a.toNat)
def f32ToFp16 (a : Half) : BitVec 16 := BitVec.ofNat 16 (cvtF fp32 fp16 a.toNat)

/-- Stochastic rounding of an FP32 value with 16 random bits (R82). -/
def srRound (a : Half) (r : BitVec 16) : BitVec 16 :=
  if fIsNan a then 0x7FC0#16
  else if fp32.mag a.toNat = fp32.infBits then (if a.msb then 0xFF80#16 else 0x7F80#16)
  else
    let g := (fp32.mag a.toNat + r.toNat) / 2 ^ 16
    BitVec.ofNat 16 ((if a.msb then 2 ^ 15 else 0) + g)

/-- RU(a / b) onto BF16 for non-negative numbers (R73, R75, R76). -/
def ruQuot (a b : FVal) : BitVec 16 := BitVec.ofNat 16 (bf16.divWith .up a b)

/-! ### K12 (R66, R71) -/

/-- The value of a K12 pattern. -/
def k12Val (k : BitVec 12) : FVal :=
  let e := k.toNat / 64 % 32
  let m := k.toNat % 64
  if e = 0 then .fin (k.msb) 0 0 else .fin (k.msb) (64 + m) ((e : Int) - 15 - 6)

/-- A finite BF16 entry rounded to a 7-bit significand: (m, e) with 64 ≤ m ≤ 127, or none for zero. -/
def round7 (b : BitVec 16) : Option (Nat × Int) :=
  match bf16.decode b.toNat with
  | .fin _ m e =>
    if m = 0 then none
    else
      let sh : Int := (bitLen m : Int) - 7
      let x := rneMag m (-sh)
      if x = 128 then some (64, e + sh + 1) else some (x, e + sh)
  | _ => none

/-- Exponent of the leading bit of a rounded entry. -/
def round7Exp : Option (Nat × Int) → Option Int
  | none => none
  | some (_, e) => some (e + 6)

/-- The offset X = E - 16 of a codebook; 0 when every entry is zero (R71). -/
def k12Offset (entries : List (BitVec 16)) : Int :=
  match entries.foldl (fun (acc : Option Int) b =>
      match round7Exp (round7 b), acc with
      | none, a => a
      | some x, none => some x
      | some x, some y => some (max x y)) none with
  | none => 0
  | some e => e - 16

/-- A codebook entry as K12 under offset x: zero below exponent E - 30 (R71). -/
def k12Of (x : Int) (b : BitVec 16) : BitVec 12 :=
  match round7 b with
  | none => BitVec.ofNat 12 ((if b.msb then 2 ^ 11 else 0))
  | some (m, e) =>
    let ex := e + 6
    if ex < x + 16 - 30 then BitVec.ofNat 12 (if b.msb then 2 ^ 11 else 0)
    else BitVec.ofNat 12 ((if b.msb then 2 ^ 11 else 0) + (ex - x + 15).toNat * 64 + (m - 64))

end Sys2Proof.Machine
end

