-- ==== Sys2Proof/Config.lean ====
section
/-!
DEFINITION. What the specification leaves open: free values and the primitives of named standards, constants without a body.
A theorem about the model holds whatever they are.
-/

namespace Sys2Proof.Config

/-- Byte `addr` of HBM that was not written under the key and history named by `gen` (spec/03 R85, spec/10 R288). -/
opaque hbmByte (gen addr : Nat) : Byte

/-- Byte `i` of an undefined range, drawn with tag `tag` (spec/06 R190, spec/07 R222, spec/08 R252). -/
opaque freeByte (tag i : Nat) : Byte

/-- A value the specification does not state: a cycle count, a measured time, a drawn random word. -/
opaque freeNat (tag i : Nat) : Nat

/-- SHA-384 (spec/16). -/
opaque sha384 (bytes : List Byte) : Nat

/-- ECDSA P-384 verification of a signature over bytes under a public key (spec/16). -/
opaque ecdsaOk (pub msg sig : List Byte) : Bool

/-- The plain text of an authenticated cipher text under a key, or none when the tag fails (AES-256-GCM, spec/16). -/
opaque gcmOpen (key : Nat) (aad ct : List Byte) : Option (List Byte)

/-- The cipher text and tag of a plain text under a key (AES-256-GCM, spec/16, spec/13 R353). -/
opaque gcmSeal (key : Nat) (aad pt : List Byte) : List Byte

/-- HKDF-SHA-384 expansion of a secret with a label (spec/16 R430, R432). -/
opaque hkdf (secret : Nat) (label : List Byte) : Nat

/-- The shared secret of an ECDH P-384 exchange (spec/16 R431). -/
opaque ecdh (priv : Nat) (pub : List Byte) : Nat

/-- X.509 facts that the manual names and a standard encodes: the public key, the device identity and the measurements of a certificate (spec/16). -/
opaque certPub (cert : List Byte) : List Byte
opaque certField (cert : List Byte) (field : Nat) : Nat

/-- The bytes of register fields in a digest whose layout is not stated (spec/12 R328). -/
opaque fieldBytes (fields : List Nat) : List Byte

/-- The header of an export chunk before its tag, from its fields in the order of R353; their places are not stated (spec/13 R353). -/
opaque exportHeader (fields : List Nat) : List Byte

/-- The bytes of a journal record whose layout is not stated, from its numbers (spec/13 R348 to R350, R353). -/
opaque journalBytes (fields : List Nat) : List Byte

/-- Byte `i` of a watch-log entry whose payload has no stated layout, by its type and content (spec/13 R344). -/
opaque logByte (typ content i : Nat) : Byte

/-- The 64-bit word that a traffic generator writes at a channel offset in DATA_MODE 1 and 2, whose sequences are not stated (spec/10 R292). -/
opaque tgWord (mode : Nat) (seed off : Word) : Word

/-- The ROM code, the header and the payload's digest of the image that the flash was delivered with, and the Vendor ID fuses (spec/14 R364,
spec/16 R418, R423). -/
opaque romCode : List Byte
opaque imageHead : List Byte
opaque vendorId : Nat

/-- Payload bytes of a message whose layout is not stated, by its kind and the number of its elements (spec/12 R315, R320). -/
opaque msgLen (kind count : Nat) : Nat

/-- NODE, STACK and LSHARD of shard j of a table version on another node, in the shard map of partition `part`: bits [11:0], [16:12], [31:17]
(spec/04 R95, R118: where a hot-row fetch finds the map is not stated). -/
opaque shardHome (part table ver j : Nat) : Nat
/-- Entry `code` of the codebook of a frozen shard that another node holds (R69, log 17). -/
opaque shardBook (part table ver j code : Nat) : BitVec 16

/-- A certificate chain verifies up to the Flezel root and its DIK certificate has the device ID (spec/16 R417, R431). -/
opaque chainVerifies (chain : List Byte) (device : Nat) : Bool

/-- The DBG_AUTH field that a measurement-6 block shows (spec/16 R431); the block's layout is not stated. -/
opaque blockDebug (block : List Byte) : Bool

/-- A point lies on the curve P-384 (spec/16 R427). -/
opaque onCurve (pub : List Byte) : Bool

/-- HKDF-Extract of input key material under a salt (RFC 5869, spec/16 R432). -/
opaque hkdfExtract (salt ikm : Nat) : Nat

/-- The public key of a P-384 private key in its 97-byte form, and an ECDSA P-384 signature over bytes (spec/16 R414, R416). -/
opaque ecPub (priv : Nat) : List Byte
opaque ecdsaSign (priv : Nat) (msg : List Byte) : List Byte

/-- An X.509 certificate in DER that a key signs: the subject's public key and an extension (spec/16 R417). -/
opaque certDer (signer : Nat) (subject ext : List Byte) : List Byte

/-- The certificates of the one-time-programmable store: 0 the Flezel root, 1 the device CA, 2 the DIK (spec/16 R417). -/
opaque otpCert (i : Nat) : List Byte

/-- The device's unique secret, and the public keys whose hashes the ROM holds (spec/16 R414, R417, R434). -/
opaque uds : Nat
opaque flezelRoot : List Byte
opaque flezelDebug : List Byte

/-- The device identity key: derived with the label "CK4 identity" (spec/16 R414). -/
def dikSecret : Nat := hkdf uds ([67, 75, 52, 32, 105, 100, 101, 110, 116, 105, 116, 121].map (BitVec.ofNat 8))

/-- The device ID: SHA-384 of the DIK public key (spec/16 R416). -/
def deviceId : Nat := sha384 (ecPub dikSecret)

/-- The fused voltage of a compute die at a level, in mV before the bound of 850, and its current limit in mA (spec/18 R467, R469). -/
opaque fuseMv (die level : Nat) : Nat
opaque fuseMa (die : Nat) : Nat

/-- The host of a port has enabled PASID in configuration space (spec/14 R367, spec/15 R391). -/
opaque hostPasid (port : Nat) : Bool

/-- Fused values: GRADE, STEP_MAJOR, STEP_MINOR of DEV_ID, and Flezel's JEP106 code (R5, R498). -/
opaque fuseId (field : Nat) : Nat

end Sys2Proof.Config
end

