-- ==== Sys2Proof/Machine/Crc.lean ====
section
/-!
DEFINITION. Little-endian bytes (spec/00 R8), CRC-32C (spec/03 R83) and the stochastic-rounding generator (spec/03 R80).
-/

namespace Sys2Proof.Machine

/-- Little-endian value of bytes. -/
def leNat : List Byte → Nat
  | [] => 0
  | b :: bs => b.toNat + 256 * leNat bs

/-- n little-endian bytes of a number. -/
def leBytes : Nat → Nat → List Byte
  | 0, _ => []
  | n + 1, x => BitVec.ofNat 8 x :: leBytes n (x / 256)

/-- Bits [hi:lo] of a number, by position and width. -/
def bitsOf (x lsb width : Nat) : Nat := x / 2 ^ lsb % 2 ^ width

/-- Byte i of a number, and n bytes from byte i. -/
def byteAt (x i : Nat) : Nat := bitsOf x (8 * i) 8
def bytesAt (x i n : Nat) : Nat := bitsOf x (8 * i) (8 * n)

def bitAt (x i : Nat) : Bool := x / 2 ^ i % 2 == 1

/-- Signed reading of the low w bits. -/
def signedOf (w x : Nat) : Int :=
  let y := x % 2 ^ w
  if y < 2 ^ (w - 1) then y else (y : Int) - 2 ^ w

/-- Two's-complement low w bits of an integer. -/
def toBits (w : Nat) (i : Int) : Nat := (i % (2 ^ w : Int)).toNat

/-- n shift steps of the reflected register. -/
def crcShift : Nat → Nat → Nat
  | 0, c => c
  | n + 1, c => crcShift n (if c % 2 = 1 then (c / 2) ^^^ 0x82F63B78 else c / 2)

/-- The register after more bytes. -/
def crcUpdate (c : Nat) (bs : List Byte) : Nat := bs.foldl (fun c b => crcShift 8 (c ^^^ b.toNat)) c

/-- CRC-32C of bytes. -/
def crc32c (bs : List Byte) : Nat := crcUpdate 0xFFFFFFFF bs ^^^ 0xFFFFFFFF

/-- The mixing function of R80. -/
def mix64 (x k : Word) : Word :=
  let x := x ^^^ k
  let x := x ^^^ (x >>> 32)
  let x := x * 0xA3C59F2B41E76D8D#64
  let x := x ^^^ (x >>> 29)
  let x := x * 0x5B7E13C9E02F8A67#64
  x ^^^ (x >>> 32)

/-- sr_bits(e, sid, step) under a job key (R80, R81). -/
def srBits (keyLo keyHi : Word) (e : Word) (sid : Half) (step : Word) : BitVec 16 :=
  let x := e >>> 2
  let x := mix64 (x + step) keyLo
  let x := mix64 (x ^^^ sid.setWidth 64) keyHi
  let x := mix64 x (keyLo ^^^ keyHi ^^^ (step <<< 16))
  (x >>> (16 * (e.toNat % 4))).setWidth 16

end Sys2Proof.Machine
end

