-- ==== Sys2Proof/Machine/Flags.lean ====
section
/-!
DEFINITION. Fault kinds with their classes (the last table of each chapter of spec/; ranges in spec/17) and completion status codes
(spec/15 R412 and the block codes of spec/16, spec/18, spec/19).
-/

namespace Sys2Proof.Machine

/-- A fault kind and the class its table gives it. -/
structure Kind where
  code : Nat
  cls  : Nat
  deriving DecidableEq, Repr

namespace K

def DESC_NOT_READY : Kind := ⟨0x000, 1⟩
def DOORBELL_INVALID : Kind := ⟨0x001, 1⟩
def QUEUE_CFG : Kind := ⟨0x002, 0⟩
def DESC_INVALID : Kind := ⟨0x003, 1⟩
def OP_NOT_GRANTED : Kind := ⟨0x004, 1⟩
def QUEUE_WAIT_TIMEOUT : Kind := ⟨0x005, 1⟩
def BAR_ACCESS_INVALID : Kind := ⟨0x040, 0⟩
def BAR4_LOCKED : Kind := ⟨0x041, 0⟩
def DOORBELL_FOREIGN : Kind := ⟨0x042, 0⟩
def HOST_WINDOW_DENIED : Kind := ⟨0x043, 1⟩
def HOST_DMA_ERROR : Kind := ⟨0x044, 1⟩
def HOST_LINK_LOSS : Kind := ⟨0x045, 0⟩
def FEEDER_LINK_LOSS : Kind := ⟨0x046, 0⟩
def PARTITION_RESET_DONE : Kind := ⟨0x047, 0⟩
def RESUME_REFUSED : Kind := ⟨0x048, 0⟩
def STORAGE_LINK_DOWN : Kind := ⟨0x049, 1⟩
def FAULT_RING_CFG : Kind := ⟨0x0f0, 0⟩
def FAULT_RING_OVERFLOW : Kind := ⟨0x0f1, 0⟩
def QUEUE_OVERRUN : Kind := ⟨0x100, 1⟩
def ILLEGAL_INSTR : Kind := ⟨0x101, 1⟩
def DMEM_RANGE : Kind := ⟨0x102, 1⟩
def PC_RANGE : Kind := ⟨0x103, 1⟩
def BAD_DESC : Kind := ⟨0x104, 1⟩
def IMEM_LOAD_REFUSED : Kind := ⟨0x105, 0⟩
def PARTITION_BOUNDARY : Kind := ⟨0x106, 1⟩
def ACC_SLOT_STATE : Kind := ⟨0x110, 1⟩
def ACC_ECC_CORRECTED : Kind := ⟨0x111, 0⟩
def ACC_ECC_UNCORRECTED : Kind := ⟨0x112, 2⟩
def ACC_DEBUG_BUSY : Kind := ⟨0x113, 0⟩
def SIDE_ECC_CORRECTED : Kind := ⟨0x120, 0⟩
def SIDE_ECC_UNCORRECTED : Kind := ⟨0x121, 2⟩
def SIDE_DEBUG_BUSY : Kind := ⟨0x122, 0⟩
def SR_STEP_STALE : Kind := ⟨0x123, 1⟩
def CODEBOOK_INVALID : Kind := ⟨0x1a0, 1⟩
def SP_ECC_CORRECTED : Kind := ⟨0x200, 0⟩
def SP_ECC_UNCORRECTED : Kind := ⟨0x201, 2⟩
def CLM_ECC_CORRECTED : Kind := ⟨0x202, 0⟩
def CLM_ECC_UNCORRECTED : Kind := ⟨0x203, 2⟩
def HBM_ECC_THRESHOLD : Kind := ⟨0x204, 0⟩
def HBM_UNCORRECTABLE : Kind := ⟨0x205, 2⟩
def HBM_KEY_ABSENT : Kind := ⟨0x206, 2⟩
def TG_REFUSED : Kind := ⟨0x207, 0⟩
def TG_MISCOMPARE : Kind := ⟨0x208, 0⟩
def CHECKSUM_MISMATCH : Kind := ⟨0x2a0, 2⟩
def LOOKUP_MISROUTED : Kind := ⟨0x300, 2⟩
def LOOKUP_TIMEOUT : Kind := ⟨0x301, 2⟩
def LOOKUP_FAILED : Kind := ⟨0x302, 2⟩
def VERSION_REFUSED : Kind := ⟨0x303, 0⟩
def VERSION_SWAP_FAILED : Kind := ⟨0x304, 2⟩
def HOTROW_LATE : Kind := ⟨0x305, 2⟩
def REDIRECT_BROKEN : Kind := ⟨0x306, 2⟩
def SHARD_INVALID : Kind := ⟨0x307, 2⟩
def TABLE_WRITE_REFUSED : Kind := ⟨0x308, 0⟩
def VERSION_RACE : Kind := ⟨0x309, 2⟩
def HOTROW_CFG : Kind := ⟨0x30a, 0⟩
def UPDATE_MISROUTED : Kind := ⟨0x310, 2⟩
def CONTRIB_OVERFLOW : Kind := ⟨0x311, 2⟩
def CONTRIB_AHEAD : Kind := ⟨0x312, 2⟩
def LATE_CONTRIBUTION : Kind := ⟨0x313, 2⟩
def UPDATE_VERSION : Kind := ⟨0x314, 2⟩
def UPDATE_REPLAY : Kind := ⟨0x315, 2⟩
def WEIGHT_NONFINITE : Kind := ⟨0x316, 2⟩
def CLIP_MISSING : Kind := ⟨0x317, 2⟩
def CREATE_DROPPED : Kind := ⟨0x318, 0⟩
def COEFF_IN_USE : Kind := ⟨0x319, 0⟩
def MIG_RETIRE_FAILED : Kind := ⟨0x31a, 2⟩
def MIG_TARGET_FULL : Kind := ⟨0x31b, 0⟩
def RECORD_CRC : Kind := ⟨0x3a0, 2⟩
def MOMENT_NONFINITE : Kind := ⟨0x3a1, 2⟩
def LINK_DOWN : Kind := ⟨0x400, 1⟩
def LINK_DEGRADED : Kind := ⟨0x401, 0⟩
def LINK_TRAIN_FAIL : Kind := ⟨0x402, 0⟩
def LINK_AUTH_FAIL : Kind := ⟨0x403, 0⟩
def LINK_KEY_EXHAUSTED : Kind := ⟨0x404, 1⟩
def SESSION_REFUSED : Kind := ⟨0x405, 0⟩
def NODE_ID_CONFLICT : Kind := ⟨0x406, 2⟩
def NO_ROUTE : Kind := ⟨0x407, 1⟩
def ROUTE_DROP : Kind := ⟨0x408, 0⟩
def NODE_UNREACHABLE : Kind := ⟨0x409, 2⟩
def FRAME_MALFORMED : Kind := ⟨0x40a, 0⟩
def PEER_SAFE : Kind := ⟨0x40b, 0⟩
def COLL_CFG : Kind := ⟨0x40c, 0⟩
def COLL_MISMATCH : Kind := ⟨0x40d, 2⟩
def COLL_TIMEOUT : Kind := ⟨0x40e, 2⟩
def SYNC_TIMEOUT : Kind := ⟨0x500, 2⟩
def COUNTER_NAME : Kind := ⟨0x501, 1⟩
def REMOTE_INC_REFUSED : Kind := ⟨0x502, 0⟩
def INC_IN_HOLD : Kind := ⟨0x503, 0⟩
def COUNTER_WRITE_REFUSED : Kind := ⟨0x504, 0⟩
def BEACON_SEQUENCE : Kind := ⟨0x580, 2⟩
def BEACON_SOURCE : Kind := ⟨0x581, 2⟩
def BEACON_TIMEOUT : Kind := ⟨0x582, 2⟩
def BEACON_DUPLICATE : Kind := ⟨0x583, 0⟩
def BEACON_IN_HOLD : Kind := ⟨0x584, 0⟩
def EVENT_REJECTED : Kind := ⟨0x585, 0⟩
def EVENT_MISSED : Kind := ⟨0x586, 0⟩
def EVENT_MISMATCH : Kind := ⟨0x587, 2⟩
def STEP_EXHAUSTED : Kind := ⟨0x588, 2⟩
def NORM_STALE : Kind := ⟨0x590, 2⟩
def NORM_TIMEOUT : Kind := ⟨0x591, 2⟩
def NORM_DUPLICATE : Kind := ⟨0x592, 0⟩
def NORM_UNEXPECTED : Kind := ⟨0x593, 2⟩
def FW_VERIFY_FAIL : Kind := ⟨0x600, 0⟩
def ROLLBACK_REFUSED : Kind := ⟨0x601, 0⟩
def RECOVERY_REJECTED : Kind := ⟨0x602, 0⟩
def SVN_COMMITTED : Kind := ⟨0x603, 0⟩
def JOB_IMPORT_REFUSED : Kind := ⟨0x604, 0⟩
def MEMBER_REFUSED : Kind := ⟨0x605, 0⟩
def SEAL_INVALID : Kind := ⟨0x606, 0⟩
def HBM_KEY_REFUSED : Kind := ⟨0x607, 0⟩
def IDE_NOT_SECURE : Kind := ⟨0x608, 0⟩
def IDE_CHECK_FAIL : Kind := ⟨0x609, 2⟩
def DEBUG_AUTH_FAIL : Kind := ⟨0x60a, 0⟩
def DEBUG_AUTHORISED : Kind := ⟨0x60b, 0⟩
def VORDAUST_FAULT : Kind := ⟨0x60c, 3⟩
def SUPPLY_FAULT : Kind := ⟨0x700, 3⟩
def CLOCK_FAULT : Kind := ⟨0x701, 3⟩
def THERMAL_TRIP : Kind := ⟨0x702, 3⟩
def SIGNAL_PAIR_BROKEN : Kind := ⟨0x703, 3⟩
def D2D_LINK_FAILED : Kind := ⟨0x704, 3⟩
def FRZ_PAIR_INVALID : Kind := ⟨0x705, 0⟩
def FAULT_RECORD_LOST : Kind := ⟨0x706, 0⟩
def TILE_RETIRED : Kind := ⟨0x710, 0⟩
def BOOT_SELFTEST_FAIL : Kind := ⟨0x711, 3⟩
def HBM_TRAIN_FAIL : Kind := ⟨0x712, 3⟩
def THROTTLE_THERMAL : Kind := ⟨0x713, 0⟩
def TEMP_OVER_MAX : Kind := ⟨0x714, 0⟩
def POWER_CAP_UNMET : Kind := ⟨0x715, 0⟩
def AVS_LINK_FAIL : Kind := ⟨0x716, 0⟩
def FAB_PHY_CAL_FAIL : Kind := ⟨0x717, 0⟩
def CFG_STORE_FORMATTED : Kind := ⟨0x718, 0⟩
def CFG_STORE_IO : Kind := ⟨0x719, 0⟩
def CS_CMD_REFUSED : Kind := ⟨0x71a, 0⟩
def PARTNER_LAPSED : Kind := ⟨0x800, 1⟩
def WINDOW_OVERFLOW : Kind := ⟨0x801, 1⟩
def MIRROR_DIVERGED : Kind := ⟨0x802, 1⟩
def UNWATCHED_COPY : Kind := ⟨0x803, 0⟩
def EPOCH_FAILED : Kind := ⟨0x804, 2⟩
def JOURNAL_LAG : Kind := ⟨0x805, 0⟩
def JOURNAL_IO : Kind := ⟨0x806, 1⟩
def INPUT_LOG_OVERFLOW : Kind := ⟨0x807, 2⟩
def REPLAY_MISMATCH : Kind := ⟨0x808, 2⟩
def HOLD_REQUESTED : Kind := ⟨0x809, 2⟩
def CERT_REJECTED : Kind := ⟨0x80a, 0⟩
def RESTORE_FAILED : Kind := ⟨0x80b, 2⟩
def EXPORT_FAILED : Kind := ⟨0x80c, 1⟩

end K

namespace St

def OK : Nat := 0x0
def DESC_NOT_READY : Nat := 0x1
def UNIT_ABSENT : Nat := 0x2
def IMEM_BUSY : Nat := 0x3
def BAD_DESC : Nat := 0x4
def CHECKSUM_MISMATCH : Nat := 0x5
def VERSION_RETIRED : Nat := 0x6
def PARTITION_RESET : Nat := 0x7
def ACCESS_DENIED : Nat := 0x8
def TIMEOUT : Nat := 0x9
def REDIRECT_FULL : Nat := 0xa
def STEP_SKIPPED : Nat := 0xb
def LOOKUP_MISROUTED : Nat := 0x80
def VERSION_NOT_READY : Nat := 0x81
def VERSION_SLOTS_FULL : Nat := 0x82
def VERSION_ORDER : Nat := 0x83
def WRONG_STATE : Nat := 0x84
def MIG_SLOTS_FULL : Nat := 0x85
def TILE_BUSY : Nat := 0x90
def ACC_SLOT_STATE : Nat := 0x91
def STEP_STALE : Nat := 0x92
def NO_ROUTE : Nat := 0xa0
def REPLAY_MISMATCH : Nat := 0xb0
def CERT_INVALID : Nat := 0xb1
def STATE_STALE : Nat := 0xb2
def NOT_IN_HOLD : Nat := 0xb3
def SOURCE_FAILED : Nat := 0xb4
def HOST_ABORT : Nat := 0xc0
def QUEUE_ABORTED : Nat := 0xd0
def SIG_INVALID : Nat := 0xe0
def WRONG_JOB : Nat := 0xe1
def SEC_NOT_HOLD : Nat := 0xe2
def ROLLBACK : Nat := 0xe3
def DEBUG_ACTIVE : Nat := 0xe4
def ALREADY_SET : Nat := 0xe5
def CS_NOT_HOLD : Nat := 0xf0
def CS_IO_ERROR : Nat := 0xf1
def CS_OWNER_LOCK : Nat := 0xf2
def DUMP_NOT_FROZEN : Nat := 0xf8

end St

end Sys2Proof.Machine
end

