-- ==== Sys2Proof/Machine/Regs.lean ====
section
/-!
DEFINITION. The register fields of BAR0 and BAR4 that hold a value, one constant a field, with offset, bits, access code and reset value
as the spec's register tables give them (R5 to R505; offsets by spec/20). A field whose value the device derives (FILL, PRESENT, ROLE ...) is
computed where it is read and has no constant here. "boot" and "fuse" fields have reset 0 here; the boot writes them.
-/

namespace Sys2Proof.Machine

/-- The access codes of R11. -/
inductive AccessCode where
  | ro | rw | w1c | wo | rwl | dbg
  deriving DecidableEq, Repr

/-- One field of a register or register array: byte offset of element (0, 0), the two strides and counts, the bits, the reset value
and the access code. `pkg` marks a field of a package-wide array (indexed by tile, stack, die or port); other fields exist once a partition. -/
structure Reg where
  base    : Nat
  lsb     : Nat
  width   : Nat
  reset   : Nat
  acc     : AccessCode
  stride  : Nat := 0
  count   : Nat := 1
  stride2 : Nat := 0
  count2  : Nat := 1
  pkg     : Bool := false
  deriving DecidableEq, Repr

namespace R

/-- R35 -/
def PART_CFG_PART_STATE : Reg where base := 0x8; lsb := 24; width := 2; reset := 1; acc := .ro
/-- R35 -/
def PART_CFG_EVER_READY : Reg where base := 0x8; lsb := 26; width := 1; reset := 0; acc := .ro
/-- R51 -/
def ST_NOW_STEP : Reg where base := 0x200000; lsb := 16; width := 48; reset := 0; acc := .rw
/-- R51 -/
def ST_NOW_PHASE : Reg where base := 0x200000; lsb := 0; width := 16; reset := 0; acc := .rw
/-- R51 -/
def ST_CTRL_ENABLE : Reg where base := 0x200008; lsb := 0; width := 1; reset := 0; acc := .rwl
/-- R51 -/
def ST_CTRL_ROLE : Reg where base := 0x200008; lsb := 1; width := 1; reset := 0; acc := .rwl
/-- R51 -/
def ST_CTRL_PHASE_CNT : Reg where base := 0x200008; lsb := 8; width := 5; reset := 0; acc := .rwl
/-- R51 -/
def ST_CTRL_LOCK : Reg where base := 0x200008; lsb := 31; width := 1; reset := 0; acc := .rwl
/-- R51 -/
def ST_STATUS_ACTIVE : Reg where base := 0x20000c; lsb := 0; width := 1; reset := 0; acc := .ro
/-- R51 -/
def ST_STATUS_REPORTED : Reg where base := 0x20000c; lsb := 1; width := 1; reset := 0; acc := .ro
/-- R51 -/
def ST_STATUS_CFG_ERR : Reg where base := 0x20000c; lsb := 2; width := 1; reset := 0; acc := .w1c
/-- R51 -/
def ST_STATUS_SKIP_VOTE : Reg where base := 0x20000c; lsb := 3; width := 1; reset := 0; acc := .ro
/-- R51 -/
def ST_STATUS_PHASE_OFF : Reg where base := 0x20000c; lsb := 4; width := 1; reset := 0; acc := .ro
/-- R51 -/
def ST_STATUS_PHASE_IDX : Reg where base := 0x20000c; lsb := 8; width := 4; reset := 0; acc := .ro
/-- R51 -/
def ST_TREE_PARENT_NODE : Reg where base := 0x200010; lsb := 0; width := 12; reset := 0; acc := .rwl
/-- R51 -/
def ST_TREE_CHILD_CNT : Reg where base := 0x200010; lsb := 12; width := 4; reset := 0; acc := .rwl
/-- R51 -/
def ST_TREE_MASTER_NODE : Reg where base := 0x200010; lsb := 16; width := 12; reset := 0; acc := .rwl
/-- R51 -/
def ST_GATE_GATE_CTR : Reg where base := 0x200014; lsb := 0; width := 10; reset := 0; acc := .rwl
/-- R51 -/
def ST_GATE_GATE_INC : Reg where base := 0x200014; lsb := 16; width := 16; reset := 0; acc := .rwl
/-- R51 -/
def ST_GATE_TGT_TARGET : Reg where base := 0x200018; lsb := 0; width := 32; reset := 0; acc := .rw
/-- R51 -/
def ST_TICK_TICK_CTR : Reg where base := 0x20001c; lsb := 0; width := 12; reset := 0; acc := .rwl
/-- R51 -/
def ST_TICK_TICK_EN : Reg where base := 0x20001c; lsb := 31; width := 1; reset := 0; acc := .rwl
/-- R51 -/
def ST_BEACON_TO_TIMEOUT : Reg where base := 0x200020; lsb := 0; width := 32; reset := 62500; acc := .rw
/-- R51 -/
def ST_CHILD_NODE : Reg where base := 0x200028; lsb := 0; width := 12; reset := 0; acc := .rwl; stride := 0x2; count := 12
/-- R51 -/
def ST_PHASE_PHASE : Reg where base := 0x200040; lsb := 0; width := 16; reset := 0; acc := .rwl; stride := 0x2; count := 16
/-- R53 -/
def EVENT_EV_WHEN : Reg where base := 0x201000; lsb := 0; width := 64; reset := 0; acc := .rw; stride := 0x20; count := 256
/-- R53 -/
def EVENT_KIND : Reg where base := 0x201008; lsb := 0; width := 8; reset := 0; acc := .rw; stride := 0x20; count := 256
/-- R53 -/
def EVENT_STATE : Reg where base := 0x201008; lsb := 8; width := 2; reset := 0; acc := .ro; stride := 0x20; count := 256
/-- R53 -/
def EVENT_ERR : Reg where base := 0x201008; lsb := 10; width := 1; reset := 0; acc := .w1c; stride := 0x20; count := 256
/-- R53 -/
def EVENT_ARM : Reg where base := 0x201008; lsb := 16; width := 1; reset := 0; acc := .wo; stride := 0x20; count := 256
/-- R53 -/
def EVENT_DISARM : Reg where base := 0x201008; lsb := 17; width := 1; reset := 0; acc := .wo; stride := 0x20; count := 256
/-- R53 -/
def EVENT_EV_TARGET : Reg where base := 0x20100c; lsb := 0; width := 32; reset := 0; acc := .rw; stride := 0x20; count := 256
/-- R53 -/
def EVENT_EV_ARG0 : Reg where base := 0x201010; lsb := 0; width := 64; reset := 0; acc := .rw; stride := 0x20; count := 256
/-- R53 -/
def EVENT_EV_ARG1 : Reg where base := 0x201018; lsb := 0; width := 64; reset := 0; acc := .rw; stride := 0x20; count := 256
/-- R59 -/
def ST_PTM_HEAD_HEAD : Reg where base := 0x200024; lsb := 0; width := 6; reset := 0; acc := .ro
/-- R78 -/
def SR_KEY_LO_KEY_LO : Reg where base := 0x203000; lsb := 0; width := 64; reset := 0; acc := .rwl
/-- R78 -/
def SR_KEY_HI_KEY_HI : Reg where base := 0x203008; lsb := 0; width := 64; reset := 0; acc := .rwl
/-- R89 -/
def TABLE_DESC_WIDTH_32 : Reg where base := 0xa10000; lsb := 16; width := 6; reset := 0; acc := .rw; stride := 0x80; count := 1024
/-- R89 -/
def TABLE_DESC_FMT : Reg where base := 0xa10000; lsb := 24; width := 4; reset := 0; acc := .rw; stride := 0x80; count := 1024
/-- R89 -/
def TABLE_DESC_OPT : Reg where base := 0xa10000; lsb := 28; width := 4; reset := 0; acc := .rw; stride := 0x80; count := 1024
/-- R89 -/
def TABLE_DESC_SHARD_CNT : Reg where base := 0xa10004; lsb := 0; width := 20; reset := 0; acc := .rw; stride := 0x80; count := 1024
/-- R89 -/
def TABLE_DESC_HASH_SEED : Reg where base := 0xa10008; lsb := 0; width := 64; reset := 0; acc := .rw; stride := 0x80; count := 1024
/-- R89 -/
def TABLE_DESC_CUR_VER : Reg where base := 0xa10010; lsb := 0; width := 16; reset := 0; acc := .ro; stride := 0x80; count := 1024
/-- R89 -/
def TABLE_DESC_CUR_VALID : Reg where base := 0xa10010; lsb := 16; width := 1; reset := 0; acc := .ro; stride := 0x80; count := 1024
/-- R89 -/
def TABLE_DESC_NEXT_VALID : Reg where base := 0xa10010; lsb := 17; width := 1; reset := 0; acc := .ro; stride := 0x80; count := 1024
/-- R89 -/
def TABLE_DESC_NEXT_VER : Reg where base := 0xa10014; lsb := 0; width := 16; reset := 0; acc := .ro; stride := 0x80; count := 1024
/-- R89 -/
def TABLE_DESC_NEXT_STEP : Reg where base := 0xa10018; lsb := 0; width := 48; reset := 0; acc := .ro; stride := 0x80; count := 1024
/-- R89 -/
def TABLE_DESC_SLOT_VER : Reg where base := 0xa10020; lsb := 0; width := 16; reset := 0; acc := .ro; stride := 0x80; count := 1024; stride2 := 0x10; count2 := 4
/-- R89 -/
def TABLE_DESC_SLOT_STATE : Reg where base := 0xa10020; lsb := 16; width := 3; reset := 0; acc := .ro; stride := 0x80; count := 1024; stride2 := 0x10; count2 := 4
/-- R89 -/
def TABLE_DESC_INFLIGHT : Reg where base := 0xa10024; lsb := 0; width := 32; reset := 0; acc := .ro; stride := 0x80; count := 1024; stride2 := 0x10; count2 := 4
/-- R89 -/
def TABLE_DESC_SLOT_STEP : Reg where base := 0xa10028; lsb := 0; width := 48; reset := 0; acc := .ro; stride := 0x80; count := 1024; stride2 := 0x10; count2 := 4
/-- R115 -/
def HOTROW_SET_HR_TABLE : Reg where base := 0xa30000; lsb := 0; width := 10; reset := 0; acc := .rw; stride := 0x40; count := 32
/-- R115 -/
def HOTROW_SET_HR_VER : Reg where base := 0xa30000; lsb := 16; width := 16; reset := 0; acc := .rw; stride := 0x40; count := 32
/-- R115 -/
def HOTROW_SET_SLOT_LOG2 : Reg where base := 0xa30004; lsb := 0; width := 5; reset := 0; acc := .rw; stride := 0x40; count := 32
/-- R115 -/
def HOTROW_SET_HR_ENABLE : Reg where base := 0xa30004; lsb := 8; width := 1; reset := 0; acc := .rw; stride := 0x40; count := 32
/-- R115 -/
def HOTROW_SET_ACTIVE_BUF : Reg where base := 0xa30004; lsb := 9; width := 1; reset := 0; acc := .ro; stride := 0x40; count := 32
/-- R115 -/
def HOTROW_SET_FETCH_BUSY : Reg where base := 0xa30004; lsb := 10; width := 1; reset := 0; acc := .ro; stride := 0x40; count := 32
/-- R115 -/
def HOTROW_SET_BUF0_OFF : Reg where base := 0xa30008; lsb := 0; width := 32; reset := 0; acc := .rw; stride := 0x40; count := 32
/-- R115 -/
def HOTROW_SET_BUF1_OFF : Reg where base := 0xa3000c; lsb := 0; width := 32; reset := 0; acc := .rw; stride := 0x40; count := 32
/-- R115 -/
def HOTROW_SET_FETCH_CTR : Reg where base := 0xa30010; lsb := 0; width := 12; reset := 0; acc := .rw; stride := 0x40; count := 32
/-- R115 -/
def HOTROW_SET_FETCHED : Reg where base := 0xa30014; lsb := 0; width := 32; reset := 0; acc := .ro; stride := 0x40; count := 32
/-- R115 -/
def HOTROW_SET_HITS : Reg where base := 0xa30018; lsb := 0; width := 64; reset := 0; acc := .ro; stride := 0x40; count := 32
/-- R126 -/
def TD_CMD_CMD_TABLE : Reg where base := 0xa00010; lsb := 0; width := 10; reset := 0; acc := .wo
/-- R126 -/
def TD_CMD_CMD_VER : Reg where base := 0xa00010; lsb := 16; width := 16; reset := 0; acc := .wo
/-- R126 -/
def TD_CMD_CMD_OP : Reg where base := 0xa00010; lsb := 32; width := 3; reset := 0; acc := .wo
/-- R126 -/
def TD_ARG_CMD_STEP : Reg where base := 0xa00018; lsb := 0; width := 48; reset := 0; acc := .rw
/-- R126 -/
def TD_STATUS_CMD_RESULT : Reg where base := 0xa00020; lsb := 0; width := 8; reset := 0; acc := .ro
/-- R126 -/
def TD_STATUS_CMD_BUSY : Reg where base := 0xa00020; lsb := 8; width := 1; reset := 0; acc := .ro
/-- R127 -/
def SUMAC_CTRL_SU_ENABLE : Reg where base := 0xa00000; lsb := 0; width := 1; reset := 0; acc := .rwl
/-- R127 -/
def SUMAC_CTRL_SU_LOCK : Reg where base := 0xa00000; lsb := 31; width := 1; reset := 0; acc := .rwl
/-- R127 -/
def LU_TIMEOUT_LU_TO : Reg where base := 0xa00008; lsb := 0; width := 32; reset := 62500; acc := .rw
/-- R127 -/
def SHARD_DIR_BASE_SD_BASE : Reg where base := 0xa00200; lsb := 0; width := 64; reset := 0; acc := .rwl; stride := 0x8; count := 24; pkg := true
/-- R150 -/
def COEFF_SET_ETA : Reg where base := 0xa31000; lsb := 0; width := 32; reset := 0; acc := .rw; stride := 0x40; count := 64
/-- R150 -/
def COEFF_SET_BETA1 : Reg where base := 0xa31004; lsb := 0; width := 32; reset := 0; acc := .rw; stride := 0x40; count := 64
/-- R150 -/
def COEFF_SET_BETA2 : Reg where base := 0xa31008; lsb := 0; width := 32; reset := 0; acc := .rw; stride := 0x40; count := 64
/-- R150 -/
def COEFF_SET_EPS : Reg where base := 0xa3100c; lsb := 0; width := 32; reset := 0; acc := .rw; stride := 0x40; count := 64
/-- R150 -/
def COEFF_SET_LAMBDA : Reg where base := 0xa31010; lsb := 0; width := 32; reset := 0; acc := .rw; stride := 0x40; count := 64
/-- R150 -/
def COEFF_SET_BC1 : Reg where base := 0xa31014; lsb := 0; width := 32; reset := 0; acc := .rw; stride := 0x40; count := 64
/-- R150 -/
def COEFF_SET_BC2 : Reg where base := 0xa31018; lsb := 0; width := 32; reset := 0; acc := .rw; stride := 0x40; count := 64
/-- R150 -/
def COEFF_SET_INIT_AMP : Reg where base := 0xa3101c; lsb := 0; width := 32; reset := 0; acc := .rw; stride := 0x40; count := 64
/-- R150 -/
def COEFF_SET_CLIP_EN : Reg where base := 0xa31020; lsb := 0; width := 1; reset := 0; acc := .rw; stride := 0x40; count := 64
/-- R150 -/
def COEFF_SET_INIT : Reg where base := 0xa31020; lsb := 1; width := 2; reset := 0; acc := .rw; stride := 0x40; count := 64
/-- R150 -/
def TBL_COEFF_SET : Reg where base := 0xa32000; lsb := 0; width := 6; reset := 0; acc := .rw; stride := 0x4; count := 1024
/-- R158 -/
def BUCKET_READS : Reg where base := 0xa40000; lsb := 0; width := 32; reset := 0; acc := .ro; stride := 0x8000; count := 24; stride2 := 0x8; count2 := 4096; pkg := true
/-- R158 -/
def BUCKET_UPDATES : Reg where base := 0xa40000; lsb := 32; width := 32; reset := 0; acc := .ro; stride := 0x8000; count := 24; stride2 := 0x8; count2 := 4096; pkg := true
/-- R165 -/
def UPD_CFG_APPLY_CTR : Reg where base := 0xa00028; lsb := 0; width := 12; reset := 0; acc := .rwl
/-- R165 -/
def MIG_ADDR_MIG_LIST : Reg where base := 0xa00030; lsb := 0; width := 64; reset := 0; acc := .rw
/-- R165 -/
def MIG_ARG_ENTRY_CNT : Reg where base := 0xa00038; lsb := 0; width := 13; reset := 0; acc := .rw
/-- R165 -/
def MIG_ARG_STACK : Reg where base := 0xa00038; lsb := 16; width := 5; reset := 0; acc := .rw
/-- R165 -/
def MIG_ARG_BATCH_ID : Reg where base := 0xa00038; lsb := 24; width := 8; reset := 0; acc := .rw
/-- R165 -/
def MIG_STEP_STEP : Reg where base := 0xa00040; lsb := 0; width := 48; reset := 0; acc := .rw
/-- R165 -/
def MIG_CMD_OP : Reg where base := 0xa00048; lsb := 0; width := 3; reset := 0; acc := .wo
/-- R165 -/
def MIG_STATUS_MIG_RESULT : Reg where base := 0xa00050; lsb := 0; width := 8; reset := 0; acc := .ro
/-- R165 -/
def MIG_STATUS_MIG_BUSY : Reg where base := 0xa00050; lsb := 8; width := 1; reset := 0; acc := .ro
/-- R165 -/
def LOAD_CTRL_SNAP : Reg where base := 0xa00058; lsb := 0; width := 1; reset := 0; acc := .wo
/-- R165 -/
def LOAD_CTRL_SNAP_BUSY : Reg where base := 0xa00058; lsb := 1; width := 1; reset := 0; acc := .ro
/-- R165 -/
def LOAD_CTRL_SNAP_CTR : Reg where base := 0xa00058; lsb := 4; width := 12; reset := 0; acc := .rw
/-- R165 -/
def UPD_DECIDED_DECIDED_STEP : Reg where base := 0xa00060; lsb := 0; width := 48; reset := 281474976710655; acc := .rw
/-- R165 -/
def CONTRIB_BASE_CB_ADDR : Reg where base := 0xa00300; lsb := 0; width := 64; reset := 0; acc := .rwl; stride := 0x8; count := 24; pkg := true
/-- R165 -/
def CONTRIB_SIZE_CB_BYTES : Reg where base := 0xa00400; lsb := 0; width := 64; reset := 0; acc := .rwl; stride := 0x8; count := 24; pkg := true
/-- R165 -/
def SHARD_STATE_BASE_SS_ADDR : Reg where base := 0xa00500; lsb := 0; width := 64; reset := 0; acc := .rwl; stride := 0x8; count := 24; pkg := true
/-- R165 -/
def REDIRECT_USE_ACTIVE_CNT : Reg where base := 0xa00600; lsb := 0; width := 16; reset := 0; acc := .ro; stride := 0x8; count := 24; pkg := true
/-- R165 -/
def UPD_STATE_LAST_STEP : Reg where base := 0xa00700; lsb := 0; width := 48; reset := 0; acc := .ro; stride := 0x8; count := 24; pkg := true
/-- R165 -/
def UPD_STATE_LAST_STATUS : Reg where base := 0xa00700; lsb := 48; width := 8; reset := 0; acc := .ro; stride := 0x8; count := 24; pkg := true
/-- R181 -/
def ENGQ_STATUS_QSTATE : Reg where base := 0x800010; lsb := 16; width := 2; reset := 0; acc := .ro; stride := 0x1000; count := 256; stride2 := 0x8; count2 := 5; pkg := true
/-- R181 -/
def ENGQ_STATUS_LAST_STATUS : Reg where base := 0x800010; lsb := 24; width := 8; reset := 0; acc := .ro; stride := 0x1000; count := 256; stride2 := 0x8; count2 := 5; pkg := true
/-- R181 -/
def ENGQ_STATUS_DONE : Reg where base := 0x800010; lsb := 32; width := 32; reset := 0; acc := .ro; stride := 0x1000; count := 256; stride2 := 0x8; count2 := 5; pkg := true
/-- R192 -/
def TILE_STATUS_STATE : Reg where base := 0x800000; lsb := 0; width := 2; reset := 0; acc := .ro; stride := 0x1000; count := 256; pkg := true
/-- R192 -/
def TILE_STATUS_LOADING : Reg where base := 0x800000; lsb := 2; width := 1; reset := 0; acc := .ro; stride := 0x1000; count := 256; pkg := true
/-- R192 -/
def TILE_STATUS_HALT_CODE : Reg where base := 0x800000; lsb := 8; width := 8; reset := 0; acc := .ro; stride := 0x1000; count := 256; pkg := true
/-- R192 -/
def TILE_STATUS_PC : Reg where base := 0x800000; lsb := 16; width := 14; reset := 0; acc := .ro; stride := 0x1000; count := 256; pkg := true
/-- R192 -/
def TILE_STATUS_FAULT_KIND : Reg where base := 0x800000; lsb := 32; width := 12; reset := 0; acc := .ro; stride := 0x1000; count := 256; pkg := true
/-- R192 -/
def TILE_CTRL_START : Reg where base := 0x800008; lsb := 0; width := 1; reset := 0; acc := .wo; stride := 0x1000; count := 256; pkg := true
/-- R192 -/
def TILE_CTRL_STOP : Reg where base := 0x800008; lsb := 1; width := 1; reset := 0; acc := .wo; stride := 0x1000; count := 256; pkg := true
/-- R192 -/
def TILE_CTRL_START_PC : Reg where base := 0x800008; lsb := 16; width := 14; reset := 0; acc := .rw; stride := 0x1000; count := 256; pkg := true
/-- R192 -/
def ENGQ_CTRL_QRESET : Reg where base := 0x800040; lsb := 0; width := 5; reset := 0; acc := .wo; stride := 0x1000; count := 256; pkg := true
/-- R219 -/
def MX_CTRL_DEF_SHARE : Reg where base := 0x800100; lsb := 0; width := 4; reset := 0; acc := .rw; stride := 0x1000; count := 256; pkg := true
/-- R219 -/
def MX_STATUS_ARRAY_BUSY : Reg where base := 0x800108; lsb := 0; width := 1; reset := 0; acc := .ro; stride := 0x1000; count := 256; pkg := true
/-- R219 -/
def MX_STATUS_DRAIN_BUSY : Reg where base := 0x800108; lsb := 1; width := 1; reset := 0; acc := .ro; stride := 0x1000; count := 256; pkg := true
/-- R219 -/
def MX_STATUS_PATH_BUSY : Reg where base := 0x800108; lsb := 2; width := 1; reset := 0; acc := .ro; stride := 0x1000; count := 256; pkg := true
/-- R219 -/
def MX_STATUS_DBG_OPEN : Reg where base := 0x800108; lsb := 3; width := 1; reset := 0; acc := .ro; stride := 0x1000; count := 256; pkg := true
/-- R219 -/
def MX_STATUS_DEF_POS : Reg where base := 0x800108; lsb := 4; width := 3; reset := 0; acc := .ro; stride := 0x1000; count := 256; pkg := true
/-- R219 -/
def MX_STATUS_ECC_CORR : Reg where base := 0x800108; lsb := 16; width := 16; reset := 0; acc := .ro; stride := 0x1000; count := 256; pkg := true
/-- R219 -/
def ACC_DBG_ADDR_WORD : Reg where base := 0x800110; lsb := 3; width := 15; reset := 0; acc := .dbg; stride := 0x1000; count := 256; pkg := true
/-- R219 -/
def ACC_DBG_DATA_DATA : Reg where base := 0x800118; lsb := 0; width := 64; reset := 0; acc := .dbg; stride := 0x1000; count := 256; pkg := true
/-- R219 -/
def MX_PT_VALID_PT : Reg where base := 0x800120; lsb := 0; width := 4; reset := 0; acc := .ro; stride := 0x1000; count := 256; pkg := true
/-- R219 -/
def MX_SLOT_INFO_STATE : Reg where base := 0x800180; lsb := 0; width := 2; reset := 0; acc := .ro; stride := 0x1000; count := 256; stride2 := 0x4; count2 := 32; pkg := true
/-- R219 -/
def MX_SLOT_INFO_FP16 : Reg where base := 0x800180; lsb := 2; width := 1; reset := 0; acc := .ro; stride := 0x1000; count := 256; stride2 := 0x4; count2 := 32; pkg := true
/-- R219 -/
def MX_SLOT_INFO_SHAPE : Reg where base := 0x800180; lsb := 3; width := 2; reset := 0; acc := .ro; stride := 0x1000; count := 256; stride2 := 0x4; count2 := 32; pkg := true
/-- R219 -/
def MX_SLOT_INFO_OFFSET_SUM : Reg where base := 0x800180; lsb := 8; width := 10; reset := 0; acc := .ro; stride := 0x1000; count := 256; stride2 := 0x4; count2 := 32; pkg := true
/-- R219 -/
def MX_CB_A_VALID : Reg where base := 0x800200; lsb := 0; width := 1; reset := 0; acc := .ro; stride := 0x1000; count := 256; stride2 := 0x8; count2 := 4; pkg := true
/-- R219 -/
def MX_CB_A_CB_FMT : Reg where base := 0x800200; lsb := 4; width := 4; reset := 0; acc := .ro; stride := 0x1000; count := 256; stride2 := 0x8; count2 := 4; pkg := true
/-- R219 -/
def MX_CB_A_X : Reg where base := 0x800200; lsb := 8; width := 9; reset := 0; acc := .ro; stride := 0x1000; count := 256; stride2 := 0x8; count2 := 4; pkg := true
/-- R219 -/
def MX_CB_A_CB_ID : Reg where base := 0x800200; lsb := 32; width := 32; reset := 0; acc := .ro; stride := 0x1000; count := 256; stride2 := 0x8; count2 := 4; pkg := true
/-- R249 -/
def VR_STATUS_VX_BUSY : Reg where base := 0x800300; lsb := 0; width := 1; reset := 0; acc := .ro; stride := 0x1000; count := 256; pkg := true
/-- R249 -/
def VR_STATUS_RE_BUSY : Reg where base := 0x800300; lsb := 1; width := 1; reset := 0; acc := .ro; stride := 0x1000; count := 256; pkg := true
/-- R249 -/
def VR_STATUS_SIDE_DBG_OPEN : Reg where base := 0x800300; lsb := 2; width := 1; reset := 0; acc := .ro; stride := 0x1000; count := 256; pkg := true
/-- R249 -/
def VR_STATUS_SIDE_ECC_CORR : Reg where base := 0x800300; lsb := 16; width := 16; reset := 0; acc := .ro; stride := 0x1000; count := 256; pkg := true
/-- R249 -/
def SIDE_DBG_ADDR_WORD : Reg where base := 0x800308; lsb := 3; width := 15; reset := 0; acc := .dbg; stride := 0x1000; count := 256; pkg := true
/-- R249 -/
def SIDE_DBG_DATA_DATA : Reg where base := 0x800310; lsb := 0; width := 64; reset := 0; acc := .dbg; stride := 0x1000; count := 256; pkg := true
/-- R249 -/
def VX_SUM_SUM : Reg where base := 0x800400; lsb := 0; width := 32; reset := 0; acc := .ro; stride := 0x1000; count := 256; stride2 := 0x20; count2 := 8; pkg := true
/-- R249 -/
def VX_MAX_MAX : Reg where base := 0x800408; lsb := 0; width := 32; reset := 0; acc := .ro; stride := 0x1000; count := 256; stride2 := 0x20; count2 := 8; pkg := true
/-- R249 -/
def VX_MIN_MIN : Reg where base := 0x800410; lsb := 0; width := 32; reset := 0; acc := .ro; stride := 0x1000; count := 256; stride2 := 0x20; count2 := 8; pkg := true
/-- R249 -/
def VX_NONFIN_NONFIN : Reg where base := 0x800418; lsb := 0; width := 32; reset := 0; acc := .ro; stride := 0x1000; count := 256; stride2 := 0x20; count2 := 8; pkg := true
/-- R268 -/
def DIE_CTR_VALUE : Reg where base := 0x300000; lsb := 0; width := 32; reset := 0; acc := .rw; stride := 0x4000; count := 4; stride2 := 0x4; count2 := 4096; pkg := true
/-- R268 -/
def SYNC_WDOG_TIMEOUT : Reg where base := 0x320000; lsb := 0; width := 32; reset := 62500000; acc := .rw
/-- R268 -/
def SYNC_STATUS_HOLD_DROPS : Reg where base := 0x320008; lsb := 0; width := 32; reset := 0; acc := .ro
/-- R268 -/
def SYNC_STATUS_TO_COUNT : Reg where base := 0x320008; lsb := 32; width := 16; reset := 0; acc := .ro
/-- R268 -/
def SYNC_TO_INFO_TO_NAME : Reg where base := 0x320010; lsb := 0; width := 32; reset := 0; acc := .ro
/-- R268 -/
def SYNC_TO_INFO_TO_TARGET : Reg where base := 0x320010; lsb := 32; width := 32; reset := 0; acc := .ro
/-- R268 -/
def SYNC_TO_VALUE_TO_VALUE : Reg where base := 0x320018; lsb := 0; width := 32; reset := 0; acc := .ro
/-- R268 -/
def SYNC_TO_VALUE_TO_TILE : Reg where base := 0x320018; lsb := 32; width := 8; reset := 0; acc := .ro
/-- R268 -/
def SYNC_TO_VALUE_TO_DMA : Reg where base := 0x320018; lsb := 40; width := 1; reset := 0; acc := .ro
/-- R268 -/
def SYNC_TO_VALUE_TO_VALID : Reg where base := 0x320018; lsb := 41; width := 1; reset := 0; acc := .w1c
/-- R268 -/
def SYNC_HOST_SIG_HS_NAME : Reg where base := 0x320020; lsb := 0; width := 32; reset := 0; acc := .wo
/-- R268 -/
def SYNC_HOST_SIG_HS_INC : Reg where base := 0x320020; lsb := 32; width := 31; reset := 0; acc := .wo
/-- R293 -/
def HBM_ECC_CORR_CNT : Reg where base := 0x600000; lsb := 0; width := 32; reset := 0; acc := .ro; stride := 0x10; count := 24; pkg := true
/-- R293 -/
def HBM_ECC_UE_CNT : Reg where base := 0x600000; lsb := 32; width := 16; reset := 0; acc := .ro; stride := 0x10; count := 24; pkg := true
/-- R293 -/
def HBM_ECC_UE_PC : Reg where base := 0x600000; lsb := 48; width := 6; reset := 0; acc := .ro; stride := 0x10; count := 24; pkg := true
/-- R293 -/
def HBM_UE_OFF_UE_OFF : Reg where base := 0x600008; lsb := 0; width := 36; reset := 0; acc := .ro; stride := 0x10; count := 24; pkg := true
/-- R293 -/
def HBM_ECC_THRESH_THRESH : Reg where base := 0x600180; lsb := 0; width := 32; reset := 4096; acc := .rw
/-- R293 -/
def HBM_KEY_STATE_STATE : Reg where base := 0x600188; lsb := 0; width := 2; reset := 0; acc := .ro
/-- R293 -/
def SP_ECC_CORR : Reg where base := 0x601000; lsb := 0; width := 16; reset := 0; acc := .ro; stride := 0x4; count := 256; pkg := true
/-- R293 -/
def CLM_ECC_CORR : Reg where base := 0x601400; lsb := 0; width := 16; reset := 0; acc := .ro; stride := 0x4; count := 32; pkg := true
/-- R293 -/
def TG_CTRL_START : Reg where base := 0x602000; lsb := 0; width := 1; reset := 0; acc := .wo; stride := 0x8; count := 24; pkg := true
/-- R293 -/
def TG_CTRL_STOP : Reg where base := 0x602000; lsb := 1; width := 1; reset := 0; acc := .wo; stride := 0x8; count := 24; pkg := true
/-- R293 -/
def TG_CTRL_RUNNING : Reg where base := 0x602000; lsb := 2; width := 1; reset := 0; acc := .ro; stride := 0x8; count := 24; pkg := true
/-- R293 -/
def TG_CTRL_DONE : Reg where base := 0x602000; lsb := 3; width := 1; reset := 0; acc := .ro; stride := 0x8; count := 24; pkg := true
/-- R293 -/
def TG_CTRL_MISCOMPARE : Reg where base := 0x602000; lsb := 4; width := 1; reset := 0; acc := .ro; stride := 0x8; count := 24; pkg := true
/-- R293 -/
def TG_MASK_PC_EN : Reg where base := 0x602100; lsb := 0; width := 64; reset := 0; acc := .rw; stride := 0x8; count := 24; pkg := true
/-- R293 -/
def TG_CFG_ADDR_MODE : Reg where base := 0x610000; lsb := 0; width := 2; reset := 0; acc := .rw; stride := 0x1000; count := 24; stride2 := 0x40; count2 := 64; pkg := true
/-- R293 -/
def TG_CFG_DATA_MODE : Reg where base := 0x610000; lsb := 2; width := 2; reset := 0; acc := .rw; stride := 0x1000; count := 24; stride2 := 0x40; count2 := 64; pkg := true
/-- R293 -/
def TG_CFG_BURST_LOG2 : Reg where base := 0x610000; lsb := 4; width := 3; reset := 0; acc := .rw; stride := 0x1000; count := 24; stride2 := 0x40; count2 := 64; pkg := true
/-- R293 -/
def TG_CFG_RD_PCT : Reg where base := 0x610000; lsb := 8; width := 7; reset := 0; acc := .rw; stride := 0x1000; count := 24; stride2 := 0x40; count2 := 64; pkg := true
/-- R293 -/
def TG_CFG_CHECK : Reg where base := 0x610000; lsb := 16; width := 1; reset := 0; acc := .rw; stride := 0x1000; count := 24; stride2 := 0x40; count2 := 64; pkg := true
/-- R293 -/
def TG_CFG_STOP_ON_ERR : Reg where base := 0x610000; lsb := 17; width := 1; reset := 0; acc := .rw; stride := 0x1000; count := 24; stride2 := 0x40; count2 := 64; pkg := true
/-- R293 -/
def TG_STRIDE_STRIDE : Reg where base := 0x610004; lsb := 0; width := 32; reset := 0; acc := .rw; stride := 0x1000; count := 24; stride2 := 0x40; count2 := 64; pkg := true
/-- R293 -/
def TG_BASE_BASE : Reg where base := 0x610008; lsb := 0; width := 30; reset := 0; acc := .rw; stride := 0x1000; count := 24; stride2 := 0x40; count2 := 64; pkg := true
/-- R293 -/
def TG_LEN_LEN : Reg where base := 0x610010; lsb := 0; width := 31; reset := 0; acc := .rw; stride := 0x1000; count := 24; stride2 := 0x40; count2 := 64; pkg := true
/-- R293 -/
def TG_SEED_SEED : Reg where base := 0x610018; lsb := 0; width := 64; reset := 0; acc := .rw; stride := 0x1000; count := 24; stride2 := 0x40; count2 := 64; pkg := true
/-- R293 -/
def TG_COUNT_COUNT : Reg where base := 0x610020; lsb := 0; width := 32; reset := 0; acc := .rw; stride := 0x1000; count := 24; stride2 := 0x40; count2 := 64; pkg := true
/-- R293 -/
def TG_ERRS_ERRS : Reg where base := 0x610024; lsb := 0; width := 32; reset := 0; acc := .ro; stride := 0x1000; count := 24; stride2 := 0x40; count2 := 64; pkg := true
/-- R293 -/
def TG_DONE_CNT_DONE_CNT : Reg where base := 0x610028; lsb := 0; width := 32; reset := 0; acc := .ro; stride := 0x1000; count := 24; stride2 := 0x40; count2 := 64; pkg := true
/-- R293 -/
def TG_ERR_ADDR_ERR_ADDR : Reg where base := 0x610030; lsb := 0; width := 30; reset := 0; acc := .ro; stride := 0x1000; count := 24; stride2 := 0x40; count2 := 64; pkg := true
/-- R293 -/
def TG_ERR_BITS_ERR_BITS : Reg where base := 0x610038; lsb := 0; width := 64; reset := 0; acc := .ro; stride := 0x1000; count := 24; stride2 := 0x40; count2 := 64; pkg := true
/-- R309 -/
def SD_CFG_SD_EN : Reg where base := 0x204000; lsb := 0; width := 1; reset := 0; acc := .rwl
/-- R309 -/
def SD_CFG_SPARSE_EN : Reg where base := 0x204000; lsb := 1; width := 1; reset := 0; acc := .rwl
/-- R309 -/
def SD_CFG_COLLECT_PHASE : Reg where base := 0x204000; lsb := 16; width := 16; reset := 0; acc := .rwl
/-- R309 -/
def SD_CTR_DONE_FCTR : Reg where base := 0x204004; lsb := 0; width := 10; reset := 0; acc := .rwl
/-- R309 -/
def SD_REC_NR_OFF : Reg where base := 0x204008; lsb := 0; width := 22; reset := 0; acc := .rwl
/-- R309 -/
def SD_REC_DR_OFF : Reg where base := 0x204008; lsb := 32; width := 22; reset := 0; acc := .rwl
/-- R309 -/
def SD_CLIP_MAX_CLIP_MAX : Reg where base := 0x204010; lsb := 0; width := 32; reset := 0; acc := .rw
/-- R309 -/
def SD_TO_TIMEOUT : Reg where base := 0x204014; lsb := 0; width := 32; reset := 62500; acc := .rw
/-- R309 -/
def SD_CMD_VOTE_SET : Reg where base := 0x204018; lsb := 0; width := 1; reset := 0; acc := .wo
/-- R309 -/
def SD_TILE_MASK_MASK : Reg where base := 0x204020; lsb := 0; width := 64; reset := 0; acc := .rwl; stride := 0x8; count := 4
/-- R309 -/
def SD_STATUS_SD_STEP : Reg where base := 0x204040; lsb := 0; width := 48; reset := 0; acc := .ro
/-- R309 -/
def SD_STATUS_SD_STATE : Reg where base := 0x204040; lsb := 48; width := 3; reset := 0; acc := .ro
/-- R309 -/
def SD_STATUS_FLAG : Reg where base := 0x204040; lsb := 51; width := 1; reset := 0; acc := .ro
/-- R309 -/
def SD_STATUS_SKIP : Reg where base := 0x204040; lsb := 52; width := 1; reset := 0; acc := .ro
/-- R309 -/
def SD_STATUS_DECIDING : Reg where base := 0x204040; lsb := 53; width := 1; reset := 0; acc := .ro
/-- R309 -/
def SD_LOCAL_LOCAL_SUMSQ : Reg where base := 0x204048; lsb := 0; width := 32; reset := 0; acc := .ro
/-- R309 -/
def SD_LOCAL_LOCAL_NONFIN : Reg where base := 0x204048; lsb := 32; width := 32; reset := 0; acc := .ro
/-- R309 -/
def SD_RESULT_SUMSQ : Reg where base := 0x204050; lsb := 0; width := 32; reset := 0; acc := .ro
/-- R309 -/
def SD_RESULT_CLIP : Reg where base := 0x204050; lsb := 32; width := 32; reset := 0; acc := .ro
/-- R309 -/
def SD_RESULT_NF_NONFIN : Reg where base := 0x204058; lsb := 0; width := 32; reset := 0; acc := .ro
/-- R309 -/
def SD_RESULT_NF_SKIP_REQ_ANY : Reg where base := 0x204058; lsb := 32; width := 1; reset := 0; acc := .ro
/-- R335 -/
def FAB_CTRL_FAB_EN : Reg where base := 0x500000; lsb := 0; width := 1; reset := 0; acc := .rwl
/-- R335 -/
def FAB_CTRL_VLAN_EN : Reg where base := 0x500000; lsb := 1; width := 1; reset := 0; acc := .rwl
/-- R335 -/
def FAB_CTRL_MAX_PAYLOAD : Reg where base := 0x500000; lsb := 2; width := 2; reset := 3; acc := .rwl
/-- R335 -/
def FAB_CTRL_CFG_ERR : Reg where base := 0x500000; lsb := 4; width := 1; reset := 0; acc := .w1c
/-- R335 -/
def FAB_CTRL_FAB_LOCK : Reg where base := 0x500000; lsb := 31; width := 1; reset := 0; acc := .rwl
/-- R335 -/
def FAB_NODE_NODE_ID : Reg where base := 0x500004; lsb := 0; width := 12; reset := 0; acc := .ro
/-- R335 -/
def FAB_NODE_VLAN_ID : Reg where base := 0x500004; lsb := 16; width := 12; reset := 0; acc := .rwl
/-- R335 -/
def FAB_NODE_VLAN_PCP : Reg where base := 0x500004; lsb := 28; width := 3; reset := 0; acc := .rwl
/-- R335 -/
def FAB_PREFIX_PREFIX : Reg where base := 0x500008; lsb := 0; width := 36; reset := 536870912; acc := .rwl
/-- R335 -/
def FAB_ETYPE_ETYPE : Reg where base := 0x500010; lsb := 0; width := 16; reset := 34997; acc := .rwl
/-- R335 -/
def FAB_COLL_TO_COLL_TO : Reg where base := 0x500014; lsb := 0; width := 32; reset := 62500; acc := .rw
/-- R335 -/
def FAB_UNREACH_TO_UNREACH_TO : Reg where base := 0x500018; lsb := 0; width := 32; reset := 6250000; acc := .rw
/-- R335 -/
def FAB_JOB_ID_JOB_ID : Reg where base := 0x500020; lsb := 0; width := 64; reset := 0; acc := .rwl
/-- R335 -/
def FAB_STATUS_HOLD_RX_DROPS : Reg where base := 0x500028; lsb := 0; width := 32; reset := 0; acc := .ro
/-- R335 -/
def FAB_STATUS_ROUTE_DROPS : Reg where base := 0x500028; lsb := 32; width := 16; reset := 0; acc := .ro
/-- R335 -/
def FAB_STATUS_OTHER_RX : Reg where base := 0x500028; lsb := 48; width := 16; reset := 0; acc := .ro
/-- R335 -/
def FAB_WEIGHT_W : Reg where base := 0x500030; lsb := 0; width := 40; reset := 4311810305; acc := .rw
/-- R335 -/
def FP_CTRL_EN : Reg where base := 0x500100; lsb := 0; width := 1; reset := 0; acc := .rw; stride := 0x20; count := 12; pkg := true
/-- R335 -/
def FP_CTRL_HALF_OK : Reg where base := 0x500100; lsb := 1; width := 1; reset := 0; acc := .rw; stride := 0x20; count := 12; pkg := true
/-- R335 -/
def FP_CTRL_RETRAIN : Reg where base := 0x500100; lsb := 2; width := 1; reset := 0; acc := .wo; stride := 0x20; count := 12; pkg := true
/-- R335 -/
def FP_CTRL_PHY_MODE : Reg where base := 0x500100; lsb := 3; width := 2; reset := 0; acc := .rw; stride := 0x20; count := 12; pkg := true
/-- R335 -/
def FP_STATUS_PSTATE : Reg where base := 0x500104; lsb := 0; width := 3; reset := 0; acc := .ro; stride := 0x20; count := 12; pkg := true
/-- R335 -/
def FP_STATUS_LANE_LOCK : Reg where base := 0x500104; lsb := 8; width := 4; reset := 0; acc := .ro; stride := 0x20; count := 12; pkg := true
/-- R335 -/
def FP_STATUS_SESS_UP : Reg where base := 0x500104; lsb := 12; width := 6; reset := 0; acc := .ro; stride := 0x20; count := 12; pkg := true
/-- R335 -/
def FP_FEC_FEC_CORR : Reg where base := 0x500108; lsb := 0; width := 32; reset := 0; acc := .ro; stride := 0x20; count := 12; pkg := true
/-- R335 -/
def FP_FEC_FEC_UNCORR : Reg where base := 0x500108; lsb := 32; width := 32; reset := 0; acc := .ro; stride := 0x20; count := 12; pkg := true
/-- R335 -/
def FP_RETRY_REPLAYS : Reg where base := 0x500110; lsb := 0; width := 32; reset := 0; acc := .ro; stride := 0x20; count := 12; pkg := true
/-- R335 -/
def FP_RETRY_AUTH_FAILS : Reg where base := 0x500110; lsb := 32; width := 32; reset := 0; acc := .ro; stride := 0x20; count := 12; pkg := true
/-- R335 -/
def FP_TRAIN_TRAIN_FAILS : Reg where base := 0x500118; lsb := 0; width := 16; reset := 0; acc := .ro; stride := 0x20; count := 12; pkg := true
/-- R335 -/
def FP_TRAIN_DOWN_CNT : Reg where base := 0x500118; lsb := 16; width := 16; reset := 0; acc := .ro; stride := 0x20; count := 12; pkg := true
/-- R335 -/
def FP_PEER_NODE : Reg where base := 0x500800; lsb := 0; width := 12; reset := 0; acc := .rw; stride := 0x40; count := 12; stride2 := 0x2; count2 := 32; pkg := true
/-- R335 -/
def FP_PEER_OPEN : Reg where base := 0x500800; lsb := 14; width := 1; reset := 0; acc := .ro; stride := 0x40; count := 12; stride2 := 0x2; count2 := 32; pkg := true
/-- R335 -/
def FP_PEER_VALID : Reg where base := 0x500800; lsb := 15; width := 1; reset := 0; acc := .rw; stride := 0x40; count := 12; stride2 := 0x2; count2 := 32; pkg := true
/-- R335 -/
def ROUTE_NEXT_HOP : Reg where base := 0x501000; lsb := 0; width := 12; reset := 0; acc := .rw; stride := 0x2; count := 4096
/-- R335 -/
def ROUTE_VALID : Reg where base := 0x501000; lsb := 15; width := 1; reset := 0; acc := .rw; stride := 0x2; count := 4096
/-- R335 -/
def COLL_SLOT_KIND : Reg where base := 0x504000; lsb := 0; width := 4; reset := 0; acc := .rw; stride := 0x40; count := 64
/-- R335 -/
def COLL_SLOT_IFMT : Reg where base := 0x504000; lsb := 4; width := 4; reset := 0; acc := .rw; stride := 0x40; count := 64
/-- R335 -/
def COLL_SLOT_OFMT : Reg where base := 0x504000; lsb := 8; width := 4; reset := 0; acc := .rw; stride := 0x40; count := 64
/-- R335 -/
def COLL_SLOT_DECODE : Reg where base := 0x504000; lsb := 12; width := 1; reset := 0; acc := .rw; stride := 0x40; count := 64
/-- R335 -/
def COLL_SLOT_ERR : Reg where base := 0x504000; lsb := 13; width := 1; reset := 0; acc := .w1c; stride := 0x40; count := 64
/-- R335 -/
def COLL_SLOT_CSTATE : Reg where base := 0x504000; lsb := 16; width := 2; reset := 0; acc := .ro; stride := 0x40; count := 64
/-- R335 -/
def COLL_SLOT_ARM : Reg where base := 0x504000; lsb := 18; width := 1; reset := 0; acc := .wo; stride := 0x40; count := 64
/-- R335 -/
def COLL_SLOT_DISARM : Reg where base := 0x504000; lsb := 19; width := 1; reset := 0; acc := .wo; stride := 0x40; count := 64
/-- R335 -/
def COLL_SLOT_RANK_CNT : Reg where base := 0x504004; lsb := 0; width := 13; reset := 0; acc := .rw; stride := 0x40; count := 64
/-- R335 -/
def COLL_SLOT_MY_RANK : Reg where base := 0x504004; lsb := 16; width := 13; reset := 0; acc := .ro; stride := 0x40; count := 64
/-- R335 -/
def COLL_SLOT_GROUP_ADDR : Reg where base := 0x504008; lsb := 0; width := 64; reset := 0; acc := .rw; stride := 0x40; count := 64
/-- R335 -/
def COLL_SLOT_BUF_ADDR : Reg where base := 0x504010; lsb := 0; width := 64; reset := 0; acc := .rw; stride := 0x40; count := 64
/-- R335 -/
def COLL_SLOT_ELEM_CNT : Reg where base := 0x504018; lsb := 0; width := 40; reset := 0; acc := .rw; stride := 0x40; count := 64
/-- R335 -/
def COLL_SLOT_GROUP_ID : Reg where base := 0x504018; lsb := 48; width := 16; reset := 0; acc := .rw; stride := 0x40; count := 64
/-- R335 -/
def COLL_SLOT_TRIG_NAME : Reg where base := 0x504020; lsb := 0; width := 32; reset := 0; acc := .rw; stride := 0x40; count := 64
/-- R335 -/
def COLL_SLOT_TRIG_TGT : Reg where base := 0x504024; lsb := 0; width := 32; reset := 0; acc := .rw; stride := 0x40; count := 64
/-- R335 -/
def COLL_SLOT_TRIG_INC : Reg where base := 0x504028; lsb := 0; width := 16; reset := 0; acc := .rw; stride := 0x40; count := 64
/-- R335 -/
def COLL_SLOT_DONE_NAME : Reg where base := 0x50402c; lsb := 0; width := 32; reset := 0; acc := .rw; stride := 0x40; count := 64
/-- R335 -/
def COLL_SLOT_SRC_ADDR : Reg where base := 0x504030; lsb := 0; width := 64; reset := 0; acc := .rw; stride := 0x40; count := 64
/-- R335 -/
def COLL_SLOT_RUNS : Reg where base := 0x504038; lsb := 0; width := 32; reset := 0; acc := .ro; stride := 0x40; count := 64
/-- R335 -/
def COLL_SLOT_ROW_LEN : Reg where base := 0x50403c; lsb := 0; width := 17; reset := 0; acc := .rw; stride := 0x40; count := 64
/-- R362 -/
def RS_CTRL_RS_EN : Reg where base := 0xe00000; lsb := 0; width := 1; reset := 0; acc := .rwl
/-- R362 -/
def RS_CTRL_RS_LOCK : Reg where base := 0xe00000; lsb := 31; width := 1; reset := 0; acc := .rwl
/-- R362 -/
def RS_LIST_ADDR_ADDR : Reg where base := 0xe00008; lsb := 0; width := 64; reset := 0; acc := .rwl
/-- R362 -/
def RS_LIST_CNT_CNT : Reg where base := 0xe00010; lsb := 0; width := 13; reset := 0; acc := .rwl
/-- R362 -/
def RS_EPOCH_TGT_TARGET : Reg where base := 0xe00014; lsb := 0; width := 32; reset := 0; acc := .rw
/-- R362 -/
def RS_EPOCH_CFG_GATE_CTR : Reg where base := 0xe00018; lsb := 0; width := 12; reset := 0; acc := .rwl
/-- R362 -/
def RS_EPOCH_CFG_GATE_INC : Reg where base := 0xe00018; lsb := 16; width := 16; reset := 0; acc := .rwl
/-- R362 -/
def RS_EPOCH_CFG_DONE_CTR : Reg where base := 0xe00018; lsb := 32; width := 12; reset := 0; acc := .rwl
/-- R362 -/
def RS_EPOCH_LAST_EPOCH : Reg where base := 0xe00020; lsb := 0; width := 32; reset := 0; acc := .ro
/-- R362 -/
def RS_EPOCH_STEP_EPOCH_STEP : Reg where base := 0xe00028; lsb := 0; width := 48; reset := 0; acc := .ro
/-- R362 -/
def RS_CMD_OP : Reg where base := 0xe00030; lsb := 0; width := 4; reset := 0; acc := .wo
/-- R362 -/
def RS_CMD_SLOT : Reg where base := 0xe00030; lsb := 4; width := 2; reset := 0; acc := .wo
/-- R362 -/
def RS_CMD_STEP_STEP : Reg where base := 0xe00038; lsb := 0; width := 48; reset := 0; acc := .rw
/-- R362 -/
def RS_STATUS_CMD_RESULT : Reg where base := 0xe00040; lsb := 0; width := 8; reset := 0; acc := .ro
/-- R362 -/
def RS_STATUS_CMD_BUSY : Reg where base := 0xe00040; lsb := 8; width := 1; reset := 0; acc := .ro
/-- R362 -/
def RS_STATUS_PLAN : Reg where base := 0xe00040; lsb := 9; width := 1; reset := 0; acc := .ro
/-- R362 -/
def RS_STATUS_LAPSED : Reg where base := 0xe00040; lsb := 10; width := 1; reset := 0; acc := .ro
/-- R362 -/
def TK_CERT_ADDR_ADDR : Reg where base := 0xe00048; lsb := 0; width := 64; reset := 0; acc := .rw
/-- R362 -/
def TK_LAST_SEQ_SEQ : Reg where base := 0xe00050; lsb := 0; width := 32; reset := 0; acc := .ro
/-- R362 -/
def WS_CFG_NODE : Reg where base := 0xe00100; lsb := 0; width := 12; reset := 0; acc := .rw; stride := 0x40; count := 4
/-- R362 -/
def WS_CFG_MODE : Reg where base := 0xe00100; lsb := 12; width := 2; reset := 0; acc := .rw; stride := 0x40; count := 4
/-- R362 -/
def WS_CFG_PORT : Reg where base := 0xe00100; lsb := 14; width := 2; reset := 0; acc := .rw; stride := 0x40; count := 4
/-- R362 -/
def WS_CFG_WSTATE : Reg where base := 0xe00100; lsb := 16; width := 3; reset := 0; acc := .ro; stride := 0x40; count := 4
/-- R362 -/
def WS_LOG_BASE_BASE : Reg where base := 0xe00108; lsb := 0; width := 64; reset := 0; acc := .rw; stride := 0x40; count := 4
/-- R362 -/
def WS_LOG_SIZE_SIZE : Reg where base := 0xe00110; lsb := 0; width := 64; reset := 0; acc := .rw; stride := 0x40; count := 4
/-- R362 -/
def WS_LOG_USED_USED : Reg where base := 0xe00118; lsb := 0; width := 64; reset := 0; acc := .ro; stride := 0x40; count := 4
/-- R362 -/
def WS_APPLIED_STEP : Reg where base := 0xe00120; lsb := 0; width := 48; reset := 0; acc := .ro; stride := 0x40; count := 4
/-- R362 -/
def WS_DURABLE_STEP : Reg where base := 0xe00128; lsb := 0; width := 48; reset := 0; acc := .ro; stride := 0x40; count := 4
/-- R362 -/
def WS_DENSE_STEP : Reg where base := 0xe00130; lsb := 0; width := 48; reset := 0; acc := .ro; stride := 0x40; count := 4
/-- R362 -/
def WS_EPOCH_EPOCH : Reg where base := 0xe00138; lsb := 0; width := 32; reset := 0; acc := .ro; stride := 0x40; count := 4
/-- R362 -/
def IL_STATUS_LAST_STEP : Reg where base := 0xe01000; lsb := 0; width := 48; reset := 0; acc := .ro
/-- R362 -/
def EXP_CTRL_START : Reg where base := 0xe01100; lsb := 0; width := 1; reset := 0; acc := .wo
/-- R362 -/
def EXP_CTRL_IMPORT : Reg where base := 0xe01100; lsb := 1; width := 1; reset := 0; acc := .wo
/-- R362 -/
def EXP_CTRL_EXP_BUSY : Reg where base := 0xe01100; lsb := 2; width := 1; reset := 0; acc := .ro
/-- R362 -/
def EXP_CTRL_WINDOW : Reg where base := 0xe01100; lsb := 8; width := 8; reset := 0; acc := .rw
/-- R362 -/
def EXP_OFF_OFF : Reg where base := 0xe01108; lsb := 0; width := 48; reset := 0; acc := .rw
/-- R362 -/
def EXP_STEP_STEP : Reg where base := 0xe01110; lsb := 0; width := 48; reset := 0; acc := .ro
/-- R362 -/
def PARTNER_MAP_TARGET : Reg where base := 0xe02000; lsb := 0; width := 12; reset := 0; acc := .rwl; stride := 0x2; count := 4096
/-- R362 -/
def PARTNER_MAP_KIND : Reg where base := 0xe02000; lsb := 12; width := 2; reset := 0; acc := .rwl; stride := 0x2; count := 4096
/-- R362 -/
def RS_GROUP_NODE : Reg where base := 0xe04000; lsb := 0; width := 12; reset := 0; acc := .rwl; stride := 0x20; count := 64; stride2 := 0x2; count2 := 16
/-- R362 -/
def RS_GROUP_VALID : Reg where base := 0xe04000; lsb := 15; width := 1; reset := 0; acc := .rwl; stride := 0x20; count := 64; stride2 := 0x2; count2 := 16
/-- R362 -/
def JNL_CTRL_JNL_EN : Reg where base := 0xe06000; lsb := 0; width := 1; reset := 0; acc := .rw
/-- R362 -/
def JNL_CTRL_FORMAT : Reg where base := 0xe06000; lsb := 1; width := 1; reset := 0; acc := .wo
/-- R362 -/
def JNL_CTRL_COMPACT : Reg where base := 0xe06000; lsb := 2; width := 1; reset := 0; acc := .wo
/-- R362 -/
def JNL_STATUS_JSTATE : Reg where base := 0xe06008; lsb := 0; width := 3; reset := 0; acc := .ro
/-- R362 -/
def JNL_STATUS_FILL_PCT : Reg where base := 0xe06008; lsb := 8; width := 7; reset := 0; acc := .ro
/-- R362 -/
def JNL_STATUS_LAGGED : Reg where base := 0xe06008; lsb := 16; width := 16; reset := 0; acc := .ro
/-- R362 -/
def JNL_STATUS_IO_ERRS : Reg where base := 0xe06008; lsb := 32; width := 32; reset := 0; acc := .ro
/-- R362 -/
def JNL_DURABLE_STEP : Reg where base := 0xe06010; lsb := 0; width := 48; reset := 0; acc := .ro
/-- R362 -/
def JNL_DURABLE_EPOCH_EPOCH : Reg where base := 0xe06018; lsb := 0; width := 32; reset := 0; acc := .ro
/-- R362 -/
def JNL_RING_LBA_LBA : Reg where base := 0xe06020; lsb := 0; width := 48; reset := 0; acc := .rwl
/-- R362 -/
def JNL_RING_LEN_LEN : Reg where base := 0xe06028; lsb := 0; width := 48; reset := 0; acc := .rwl
/-- R362 -/
def JNL_BASE_LBA0_LBA : Reg where base := 0xe06030; lsb := 0; width := 48; reset := 0; acc := .rwl
/-- R362 -/
def JNL_BASE_LBA1_LBA : Reg where base := 0xe06038; lsb := 0; width := 48; reset := 0; acc := .rwl
/-- R362 -/
def JNL_BASE_LEN_LEN : Reg where base := 0xe06040; lsb := 0; width := 48; reset := 0; acc := .rwl
/-- R362 -/
def JNL_STAGE_BASE_ADDR : Reg where base := 0xe06048; lsb := 0; width := 64; reset := 0; acc := .rwl
/-- R362 -/
def JNL_STAGE_SIZE_SIZE : Reg where base := 0xe06050; lsb := 0; width := 64; reset := 0; acc := .rwl
/-- R362 -/
def JNL_DIRTY_BASE_ADDR : Reg where base := 0xe06200; lsb := 0; width := 64; reset := 0; acc := .rwl; stride := 0x8; count := 24; pkg := true
/-- R362 -/
def JNL_LIMIT_LIMIT : Reg where base := 0xe06300; lsb := 0; width := 36; reset := 0; acc := .rwl; stride := 0x8; count := 24; pkg := true
/-- R367 -/
def WIN_CFG_OWNER : Reg where base := 0x101000; lsb := 0; width := 2; reset := 0; acc := .rw; stride := 0x20; count := 256
/-- R367 -/
def WIN_CFG_VALID : Reg where base := 0x101000; lsb := 2; width := 1; reset := 0; acc := .rw; stride := 0x20; count := 256
/-- R367 -/
def WIN_CFG_RD : Reg where base := 0x101000; lsb := 3; width := 1; reset := 0; acc := .rw; stride := 0x20; count := 256
/-- R367 -/
def WIN_CFG_WR : Reg where base := 0x101000; lsb := 4; width := 1; reset := 0; acc := .rw; stride := 0x20; count := 256
/-- R367 -/
def WIN_CFG_NS : Reg where base := 0x101000; lsb := 5; width := 1; reset := 1; acc := .rw; stride := 0x20; count := 256
/-- R367 -/
def WIN_CFG_RO_ATTR : Reg where base := 0x101000; lsb := 6; width := 1; reset := 0; acc := .rw; stride := 0x20; count := 256
/-- R367 -/
def WIN_CFG_PASID_EN : Reg where base := 0x101000; lsb := 7; width := 1; reset := 0; acc := .rw; stride := 0x20; count := 256
/-- R367 -/
def WIN_CFG_PASID : Reg where base := 0x101000; lsb := 8; width := 20; reset := 0; acc := .rw; stride := 0x20; count := 256
/-- R367 -/
def WIN_CFG_WIN_BUSY : Reg where base := 0x101000; lsb := 28; width := 1; reset := 0; acc := .ro; stride := 0x20; count := 256
/-- R367 -/
def WIN_BASE_BASE : Reg where base := 0x101008; lsb := 12; width := 52; reset := 0; acc := .rw; stride := 0x20; count := 256
/-- R367 -/
def WIN_SIZE_SIZE : Reg where base := 0x101010; lsb := 0; width := 48; reset := 0; acc := .rw; stride := 0x20; count := 256
/-- R380 -/
def PART_CTRL_PRESET : Reg where base := 0x30; lsb := 0; width := 1; reset := 0; acc := .wo
/-- R380 -/
def PART_CTRL_RESUME : Reg where base := 0x30; lsb := 1; width := 1; reset := 0; acc := .wo
/-- R380 -/
def PART_CTRL_RESET_BUSY : Reg where base := 0x30; lsb := 2; width := 1; reset := 0; acc := .ro
/-- R380 -/
def PART_CTRL_RESUME_ERR : Reg where base := 0x30; lsb := 3; width := 1; reset := 0; acc := .w1c
/-- R380 -/
def PART_CTRL_SCRUB_BUSY : Reg where base := 0x30; lsb := 4; width := 1; reset := 0; acc := .ro
/-- R380 -/
def PART_CTRL_KEY : Reg where base := 0x30; lsb := 8; width := 8; reset := 0; acc := .wo
/-- R380 -/
def PART_MODE_REQ_NEW_MODE : Reg where base := 0x38; lsb := 0; width := 2; reset := 0; acc := .rw
/-- R380 -/
def PART_MODE_REQ_VOTE : Reg where base := 0x38; lsb := 8; width := 1; reset := 0; acc := .rw
/-- R380 -/
def PART_MODE_REQ_VOTED : Reg where base := 0x38; lsb := 16; width := 4; reset := 0; acc := .ro
/-- R380 -/
def PART_RESET_INFO_RESET_CAUSE : Reg where base := 0x40; lsb := 0; width := 3; reset := 0; acc := .ro
/-- R383 -/
def HP_STATUS_LINK_UP : Reg where base := 0x100000; lsb := 0; width := 1; reset := 0; acc := .ro; stride := 0x10; count := 4; pkg := true
/-- R383 -/
def HP_STATUS_SPEED : Reg where base := 0x100000; lsb := 1; width := 3; reset := 0; acc := .ro; stride := 0x10; count := 4; pkg := true
/-- R383 -/
def HP_STATUS_WIDTH : Reg where base := 0x100000; lsb := 4; width := 4; reset := 0; acc := .ro; stride := 0x10; count := 4; pkg := true
/-- R383 -/
def HP_STATUS_FLIT : Reg where base := 0x100000; lsb := 8; width := 1; reset := 0; acc := .ro; stride := 0x10; count := 4; pkg := true
/-- R383 -/
def HP_STATUS_IDE_ACTIVE : Reg where base := 0x100000; lsb := 9; width := 1; reset := 0; acc := .ro; stride := 0x10; count := 4; pkg := true
/-- R383 -/
def HP_STATUS_PTM_VALID : Reg where base := 0x100000; lsb := 10; width := 1; reset := 0; acc := .ro; stride := 0x10; count := 4; pkg := true
/-- R383 -/
def HP_STATUS_BME : Reg where base := 0x100000; lsb := 11; width := 1; reset := 0; acc := .ro; stride := 0x10; count := 4; pkg := true
/-- R383 -/
def HP_STATUS_LOSS_CNT : Reg where base := 0x100000; lsb := 16; width := 16; reset := 0; acc := .ro; stride := 0x10; count := 4; pkg := true
/-- R383 -/
def HP_STATUS_DMA_ERRS : Reg where base := 0x100000; lsb := 32; width := 32; reset := 0; acc := .ro; stride := 0x10; count := 4; pkg := true
/-- R388 -/
def LP_CTRL_EN : Reg where base := 0xe80000; lsb := 0; width := 1; reset := 0; acc := .rw; stride := 0x100; count := 4; pkg := true
/-- R388 -/
def LP_STATUS_LINK_UP : Reg where base := 0xe80008; lsb := 0; width := 1; reset := 0; acc := .ro; stride := 0x100; count := 4; pkg := true
/-- R388 -/
def LP_STATUS_SPEED : Reg where base := 0xe80008; lsb := 1; width := 3; reset := 0; acc := .ro; stride := 0x100; count := 4; pkg := true
/-- R388 -/
def LP_STATUS_WIDTH : Reg where base := 0xe80008; lsb := 4; width := 3; reset := 0; acc := .ro; stride := 0x100; count := 4; pkg := true
/-- R388 -/
def LP_STATUS_DRIVE_READY : Reg where base := 0xe80008; lsb := 8; width := 1; reset := 0; acc := .ro; stride := 0x100; count := 4; pkg := true
/-- R388 -/
def LP_STATUS_FMT_OK : Reg where base := 0xe80008; lsb := 9; width := 1; reset := 0; acc := .ro; stride := 0x100; count := 4; pkg := true
/-- R388 -/
def LP_STATUS_RESV_HELD : Reg where base := 0xe80008; lsb := 10; width := 1; reset := 0; acc := .ro; stride := 0x100; count := 4; pkg := true
/-- R388 -/
def LP_STATUS_LOSS_CNT : Reg where base := 0xe80008; lsb := 16; width := 16; reset := 0; acc := .ro; stride := 0x100; count := 4; pkg := true
/-- R388 -/
def LP_NS1_LBAS_LBAS : Reg where base := 0xe80010; lsb := 0; width := 64; reset := 0; acc := .ro; stride := 0x100; count := 4; pkg := true
/-- R388 -/
def LP_HEALTH_CRIT_WARN : Reg where base := 0xe80018; lsb := 0; width := 8; reset := 0; acc := .ro; stride := 0x100; count := 4; pkg := true
/-- R388 -/
def LP_HEALTH_PCT_USED : Reg where base := 0xe80018; lsb := 8; width := 8; reset := 0; acc := .ro; stride := 0x100; count := 4; pkg := true
/-- R413 -/
def Q_CFG_Q_EN : Reg where base := 0x110000; lsb := 0; width := 1; reset := 0; acc := .rw; stride := 0x40; count := 256
/-- R413 -/
def Q_CFG_OWNER : Reg where base := 0x110000; lsb := 1; width := 2; reset := 0; acc := .rw; stride := 0x40; count := 256
/-- R413 -/
def Q_CFG_LOG2_SIZE : Reg where base := 0x110000; lsb := 3; width := 5; reset := 0; acc := .rw; stride := 0x40; count := 256
/-- R413 -/
def Q_CFG_VECTOR : Reg where base := 0x110000; lsb := 8; width := 9; reset := 0; acc := .rw; stride := 0x40; count := 256
/-- R413 -/
def Q_CFG_IRQ_EN : Reg where base := 0x110000; lsb := 17; width := 1; reset := 0; acc := .rw; stride := 0x40; count := 256
/-- R413 -/
def Q_CFG_PASID_EN : Reg where base := 0x110000; lsb := 18; width := 1; reset := 0; acc := .rw; stride := 0x40; count := 256
/-- R413 -/
def Q_CFG_CFG_ERR : Reg where base := 0x110000; lsb := 19; width := 1; reset := 0; acc := .w1c; stride := 0x40; count := 256
/-- R413 -/
def Q_CFG_PASID : Reg where base := 0x110000; lsb := 32; width := 20; reset := 0; acc := .rw; stride := 0x40; count := 256
/-- R413 -/
def SQ_BASE_BASE : Reg where base := 0x110008; lsb := 12; width := 52; reset := 0; acc := .rw; stride := 0x40; count := 256
/-- R413 -/
def CQ_BASE_BASE : Reg where base := 0x110010; lsb := 12; width := 52; reset := 0; acc := .rw; stride := 0x40; count := 256
/-- R413 -/
def Q_IRQ_IRQ_CNT : Reg where base := 0x110018; lsb := 0; width := 8; reset := 1; acc := .rw; stride := 0x40; count := 256
/-- R413 -/
def Q_IRQ_IRQ_HOLDOFF : Reg where base := 0x110018; lsb := 8; width := 16; reset := 0; acc := .rw; stride := 0x40; count := 256
/-- R413 -/
def Q_WAIT_TO_TIMEOUT : Reg where base := 0x11001c; lsb := 0; width := 32; reset := 62500000; acc := .rw; stride := 0x40; count := 256
/-- R393: the doorbell pages of BAR2, from 0x800_0000 here -/
def SQ_DB_VALUE : Reg where base := 0x8000000; lsb := 0; width := 32; reset := 0; acc := .rw; stride := 0x1000; count := 256
/-- R393 -/
def CQ_DB_VALUE : Reg where base := 0x8000004; lsb := 0; width := 32; reset := 0; acc := .rw; stride := 0x1000; count := 256
/-- R413 -/
def Q_SQ_STATUS_SQ_HEAD : Reg where base := 0x110020; lsb := 0; width := 16; reset := 0; acc := .ro; stride := 0x40; count := 256
/-- R413 -/
def Q_SQ_STATUS_SQ_TAIL : Reg where base := 0x110020; lsb := 16; width := 16; reset := 0; acc := .ro; stride := 0x40; count := 256
/-- R413 -/
def Q_SQ_STATUS_EXP_SEQ : Reg where base := 0x110020; lsb := 32; width := 16; reset := 0; acc := .ro; stride := 0x40; count := 256
/-- R413 -/
def Q_SQ_STATUS_EXP_PHASE : Reg where base := 0x110020; lsb := 48; width := 1; reset := 0; acc := .ro; stride := 0x40; count := 256
/-- R413 -/
def Q_CQ_STATUS_CQ_TAIL : Reg where base := 0x110028; lsb := 0; width := 16; reset := 0; acc := .ro; stride := 0x40; count := 256
/-- R413 -/
def Q_CQ_STATUS_CQ_HEAD : Reg where base := 0x110028; lsb := 16; width := 16; reset := 0; acc := .ro; stride := 0x40; count := 256
/-- R413 -/
def Q_CQ_STATUS_CQ_PHASE : Reg where base := 0x110028; lsb := 32; width := 1; reset := 0; acc := .ro; stride := 0x40; count := 256
/-- R413 -/
def Q_STATE_QSTATE : Reg where base := 0x110030; lsb := 0; width := 2; reset := 2; acc := .ro; stride := 0x40; count := 256
/-- R413 -/
def Q_STATE_INFLIGHT : Reg where base := 0x110030; lsb := 8; width := 8; reset := 0; acc := .ro; stride := 0x40; count := 256
/-- R413 -/
def Q_STATE_STALL_KIND : Reg where base := 0x110030; lsb := 16; width := 12; reset := 0; acc := .ro; stride := 0x40; count := 256
/-- R413 -/
def Q_STATE_DONE : Reg where base := 0x110030; lsb := 32; width := 32; reset := 0; acc := .ro; stride := 0x40; count := 256
/-- R438 -/
def SEC_STATUS_FUSE_SVN : Reg where base := 0xd00000; lsb := 0; width := 7; reset := 0; acc := .ro; pkg := true
/-- R438 -/
def SEC_STATUS_IMAGE_SVN : Reg where base := 0xd00000; lsb := 8; width := 7; reset := 0; acc := .ro; pkg := true
/-- R438 -/
def SEC_STATUS_OWNER_ENROLLED : Reg where base := 0xd00000; lsb := 16; width := 1; reset := 0; acc := .ro; pkg := true
/-- R438 -/
def SEC_STATUS_COSIGNED : Reg where base := 0xd00000; lsb := 17; width := 1; reset := 0; acc := .ro; pkg := true
/-- R438 -/
def SEC_STATUS_RECOVERED : Reg where base := 0xd00000; lsb := 18; width := 1; reset := 0; acc := .ro; pkg := true
/-- R438 -/
def SEC_STATUS_IDE_REQ : Reg where base := 0xd00000; lsb := 19; width := 1; reset := 0; acc := .ro
/-- R438 -/
def SEC_STATUS_JOB_LOADED : Reg where base := 0xd00000; lsb := 20; width := 1; reset := 0; acc := .ro
/-- R438 -/
def SEC_STATUS_MEMBER_LOADED : Reg where base := 0xd00000; lsb := 21; width := 1; reset := 0; acc := .ro
/-- R438 -/
def SEC_STATUS_DBG_AUTH : Reg where base := 0xd00000; lsb := 22; width := 1; reset := 0; acc := .ro
/-- R438 -/
def SEC_STATUS_DBG_COUNT : Reg where base := 0xd00000; lsb := 32; width := 32; reset := 0; acc := .ro; pkg := true
/-- R438 -/
def SEC_CMD_OP : Reg where base := 0xd00008; lsb := 0; width := 4; reset := 0; acc := .wo
/-- R438 -/
def SEC_CMD_SEAL : Reg where base := 0xd00008; lsb := 4; width := 1; reset := 0; acc := .wo
/-- R438 -/
def SEC_CMD_ADDR_ADDR : Reg where base := 0xd00010; lsb := 0; width := 64; reset := 0; acc := .rw
/-- R438 -/
def SEC_RESULT_CMD_RESULT : Reg where base := 0xd00018; lsb := 0; width := 8; reset := 0; acc := .ro
/-- R438 -/
def SEC_RESULT_CMD_BUSY : Reg where base := 0xd00018; lsb := 8; width := 1; reset := 0; acc := .ro
/-- R438 -/
def REC_CTRL_GO : Reg where base := 0xd00100; lsb := 0; width := 1; reset := 0; acc := .wo; pkg := true
/-- R438 -/
def REC_CTRL_PERSIST : Reg where base := 0xd00100; lsb := 1; width := 1; reset := 0; acc := .rw; pkg := true
/-- R438 -/
def REC_CTRL_REC_WAIT : Reg where base := 0xd00100; lsb := 2; width := 1; reset := 0; acc := .ro; pkg := true
/-- R438 -/
def REC_CTRL_REC_BUSY : Reg where base := 0xd00100; lsb := 3; width := 1; reset := 0; acc := .ro; pkg := true
/-- R438 -/
def REC_CTRL_REC_RESULT : Reg where base := 0xd00100; lsb := 8; width := 8; reset := 0; acc := .ro; pkg := true
/-- R438 -/
def REC_ADDR_ADDR : Reg where base := 0xd00108; lsb := 12; width := 52; reset := 0; acc := .rw; pkg := true
/-- R438 -/
def REC_LEN_LEN : Reg where base := 0xd00110; lsb := 0; width := 25; reset := 0; acc := .rw; pkg := true
/-- R459 -/
def FC_RING_BASE_FR_BASE : Reg where base := 0x400000; lsb := 12; width := 52; reset := 0; acc := .rw
/-- R459 -/
def FC_RING_CFG_FR_EN : Reg where base := 0x400008; lsb := 0; width := 1; reset := 0; acc := .rw
/-- R459 -/
def FC_RING_CFG_LOG2_SIZE : Reg where base := 0x400008; lsb := 1; width := 4; reset := 0; acc := .rw
/-- R459 -/
def FC_RING_CFG_IRQ_EN : Reg where base := 0x400008; lsb := 5; width := 1; reset := 0; acc := .rw
/-- R459 -/
def FC_RING_CFG_VECTOR : Reg where base := 0x400008; lsb := 6; width := 9; reset := 0; acc := .rw
/-- R459 -/
def FC_RING_CFG_CFG_ERR : Reg where base := 0x400008; lsb := 15; width := 1; reset := 0; acc := .w1c
/-- R459 -/
def FC_RING_IDX_HEAD : Reg where base := 0x40000c; lsb := 0; width := 16; reset := 0; acc := .rw
/-- R459 -/
def FC_RING_IDX_TAIL : Reg where base := 0x40000c; lsb := 16; width := 16; reset := 0; acc := .ro
/-- R459 -/
def FC_ACK_ACK_SEQ : Reg where base := 0x400010; lsb := 0; width := 32; reset := 0; acc := .wo
/-- R459 -/
def FC_SETTLE_SETTLE : Reg where base := 0x400014; lsb := 0; width := 32; reset := 625000; acc := .rw
/-- R459 -/
def FC_CFG_FLT_ON_HOLD : Reg where base := 0x400018; lsb := 0; width := 1; reset := 0; acc := .rw
/-- R459 -/
def FC_STATUS_UNACK_F1 : Reg where base := 0x400020; lsb := 0; width := 11; reset := 0; acc := .ro
/-- R459 -/
def FC_STATUS_F2_STATE : Reg where base := 0x400020; lsb := 12; width := 2; reset := 0; acc := .ro
/-- R459 -/
def FC_STATUS_OCCUPANCY : Reg where base := 0x400020; lsb := 16; width := 11; reset := 0; acc := .ro; pkg := true
/-- R459 -/
def FC_STATUS_LAST_SEQ : Reg where base := 0x400020; lsb := 32; width := 32; reset := 0; acc := .ro
/-- R459 -/
def FC_LOSS_NOTE_DROPS : Reg where base := 0x400028; lsb := 0; width := 16; reset := 0; acc := .ro
/-- R459 -/
def FC_LOSS_LOST : Reg where base := 0x400028; lsb := 16; width := 16; reset := 0; acc := .ro
/-- R459 -/
def FC_PAIRS_BROKEN : Reg where base := 0x400030; lsb := 0; width := 5; reset := 0; acc := .ro; pkg := true
/-- R459 -/
def FC_INJECT_INJ_SOURCE : Reg where base := 0x400038; lsb := 0; width := 16; reset := 0; acc := .dbg
/-- R459 -/
def FC_INJECT_INJ_KIND : Reg where base := 0x400038; lsb := 16; width := 12; reset := 0; acc := .dbg
/-- R459 -/
def FC_INJECT_INJ_CLASS : Reg where base := 0x400038; lsb := 28; width := 2; reset := 0; acc := .dbg
/-- R459 -/
def FC_INJECT_INJ_GO : Reg where base := 0x400038; lsb := 30; width := 1; reset := 0; acc := .dbg
/-- R459 -/
def D2D_RETRY_RETRIES : Reg where base := 0x400100; lsb := 0; width := 32; reset := 0; acc := .ro; stride := 0x8; count := 8; pkg := true
/-- R477 -/
def BOOT_STATUS_STAGE : Reg where base := 0x48; lsb := 0; width := 4; reset := 1; acc := .ro; pkg := true
/-- R477 -/
def BOOT_STATUS_FAIL_STEP : Reg where base := 0x48; lsb := 4; width := 4; reset := 0; acc := .ro; pkg := true
/-- R477 -/
def BOOT_STATUS_BOOT_MS : Reg where base := 0x48; lsb := 16; width := 16; reset := 0; acc := .ro; pkg := true
/-- R484 -/
def PWR_CAP_CAP_W : Reg where base := 0xc00000; lsb := 0; width := 12; reset := 0; acc := .rw
/-- R484 -/
def PWR_PKG_CAP_PKG_CAP_W : Reg where base := 0xc00004; lsb := 0; width := 12; reset := 0; acc := .ro; pkg := true
/-- R484 -/
def PWR_STATUS_POWER_W : Reg where base := 0xc00008; lsb := 0; width := 12; reset := 0; acc := .ro
/-- R484 -/
def PWR_STATUS_PKG_POWER_W : Reg where base := 0xc00008; lsb := 12; width := 12; reset := 0; acc := .ro
/-- R484 -/
def PWR_STATUS_CAP_LIMITING : Reg where base := 0xc00008; lsb := 24; width := 1; reset := 0; acc := .ro
/-- R484 -/
def PWR_STATUS_THERMAL_LIMITING : Reg where base := 0xc00008; lsb := 25; width := 1; reset := 0; acc := .ro
/-- R484 -/
def PWR_STATUS_CURRENT_LIMITING : Reg where base := 0xc00008; lsb := 26; width := 1; reset := 0; acc := .ro
/-- R484 -/
def PWR_STATUS_ACTIVE_PROFILE : Reg where base := 0xc00008; lsb := 32; width := 4; reset := 0; acc := .ro
/-- R484 -/
def PWR_CTRL_PROFILE_SEL : Reg where base := 0xc00010; lsb := 0; width := 4; reset := 0; acc := .wo
/-- R484 -/
def PWR_CTRL_APPLY : Reg where base := 0xc00010; lsb := 4; width := 1; reset := 0; acc := .wo
/-- R484 -/
def PWR_PROFILE_LVL : Reg where base := 0xc00100; lsb := 0; width := 16; reset := 0; acc := .rw; stride := 0x4; count := 16
/-- R484 -/
def PWR_DIE_EFF_LVL : Reg where base := 0xc00200; lsb := 0; width := 3; reset := 0; acc := .ro; stride := 0x8; count := 4; pkg := true
/-- R484 -/
def PWR_DIE_PROF_LVL : Reg where base := 0xc00200; lsb := 3; width := 3; reset := 0; acc := .ro; stride := 0x8; count := 4; pkg := true
/-- R484 -/
def PWR_DIE_CAP_LVL : Reg where base := 0xc00200; lsb := 6; width := 3; reset := 0; acc := .ro; stride := 0x8; count := 4; pkg := true
/-- R484 -/
def PWR_DIE_THERM_LVL : Reg where base := 0xc00200; lsb := 9; width := 3; reset := 0; acc := .ro; stride := 0x8; count := 4; pkg := true
/-- R484 -/
def PWR_DIE_AVS_HELD : Reg where base := 0xc00200; lsb := 12; width := 1; reset := 0; acc := .ro; stride := 0x8; count := 4; pkg := true
/-- R484 -/
def PWR_DIE_VDD_MV : Reg where base := 0xc00200; lsb := 16; width := 12; reset := 0; acc := .ro; stride := 0x8; count := 4; pkg := true
/-- R484 -/
def PWR_DIE_FREQ_MHZ : Reg where base := 0xc00200; lsb := 32; width := 12; reset := 1100; acc := .ro; stride := 0x8; count := 4; pkg := true
/-- R484 -/
def THERM_TEMP : Reg where base := 0xc00300; lsb := 0; width := 16; reset := 0; acc := .ro; stride := 0x4; count := 29; pkg := true
/-- R484 -/
def THERM_TEMP_MAX : Reg where base := 0xc00300; lsb := 16; width := 16; reset := 0; acc := .ro; stride := 0x4; count := 29; pkg := true
/-- R484 -/
def LIFE_BOOTS_BOOTS : Reg where base := 0xc00400; lsb := 0; width := 32; reset := 0; acc := .ro; pkg := true
/-- R484 -/
def LIFE_HOURS_HOURS : Reg where base := 0xc00404; lsb := 0; width := 32; reset := 0; acc := .ro; pkg := true
/-- R484 -/
def LIFE_EVENTS_TRIPS : Reg where base := 0xc00408; lsb := 0; width := 16; reset := 0; acc := .ro; pkg := true
/-- R484 -/
def LIFE_EVENTS_SAFES : Reg where base := 0xc00408; lsb := 16; width := 16; reset := 0; acc := .ro; pkg := true
/-- R484 -/
def CS_CMD_OP : Reg where base := 0xc00800; lsb := 0; width := 4; reset := 0; acc := .wo; pkg := true
/-- R484 -/
def CS_ARG_ARG : Reg where base := 0xc00808; lsb := 0; width := 64; reset := 0; acc := .rw
/-- R484 -/
def CS_STATUS_CS_RESULT : Reg where base := 0xc00810; lsb := 0; width := 8; reset := 0; acc := .ro
/-- R484 -/
def CS_STATUS_CS_BUSY : Reg where base := 0xc00810; lsb := 8; width := 1; reset := 0; acc := .ro; pkg := true
/-- R484 -/
def CS_STATUS_COMPACTING : Reg where base := 0xc00810; lsb := 9; width := 1; reset := 0; acc := .ro; pkg := true
/-- R484 -/
def CS_STATUS_BANK : Reg where base := 0xc00810; lsb := 10; width := 1; reset := 0; acc := .ro; pkg := true
/-- R484 -/
def CS_STATUS_FILL_PCT : Reg where base := 0xc00810; lsb := 16; width := 7; reset := 0; acc := .ro; pkg := true
/-- R484 -/
def CS_STATUS_CS_LOST : Reg where base := 0xc00810; lsb := 32; width := 16; reset := 0; acc := .ro; pkg := true
/-- R484 -/
def CS_HIST_SEL_IDX : Reg where base := 0xc00818; lsb := 0; width := 14; reset := 0; acc := .rw
/-- R495 -/
def DBG_ADDR_WORD : Reg where base := 0x11003000; lsb := 3; width := 19; reset := 0; acc := .dbg; stride := 0x10000; count := 256; pkg := true
/-- R495 -/
def DBG_ADDR_MEM : Reg where base := 0x11003000; lsb := 24; width := 3; reset := 0; acc := .dbg; stride := 0x10000; count := 256; pkg := true
/-- R501 -/
def ST_FREEZE_RESUME : Reg where base := 0x205000; lsb := 0; width := 1; reset := 0; acc := .wo
/-- R501 -/
def ST_FREEZE_FSTATE : Reg where base := 0x205000; lsb := 1; width := 2; reset := 0; acc := .ro
/-- R501 -/
def ST_FREEZE_FORCED : Reg where base := 0x205000; lsb := 3; width := 1; reset := 0; acc := .ro
/-- R501 -/
def ST_FREEZE_SRC : Reg where base := 0x205000; lsb := 4; width := 3; reset := 0; acc := .ro
/-- R501 -/
def ST_FREEZE_FRZ_COUNT : Reg where base := 0x205000; lsb := 16; width := 16; reset := 0; acc := .ro
/-- R501 -/
def FRZ_PKG_CTRL_FREEZE : Reg where base := 0x10000000; lsb := 0; width := 1; reset := 0; acc := .dbg; pkg := true
/-- R501 -/
def FRZ_PKG_CTRL_THAW : Reg where base := 0x10000000; lsb := 1; width := 1; reset := 0; acc := .dbg; pkg := true
/-- R501 -/
def FRZ_PKG_CTRL_HELD : Reg where base := 0x10000000; lsb := 2; width := 1; reset := 0; acc := .ro; pkg := true
/-- R501 -/
def FRZ_PKG_CTRL_PAIR : Reg where base := 0x10000000; lsb := 3; width := 1; reset := 0; acc := .ro; pkg := true
/-- R501 -/
def DUMP_CTRL_START : Reg where base := 0x10000010; lsb := 0; width := 1; reset := 0; acc := .dbg
/-- R501 -/
def DUMP_CTRL_DUMP_BUSY : Reg where base := 0x10000010; lsb := 1; width := 1; reset := 0; acc := .ro
/-- R501 -/
def DUMP_CTRL_DUMP_WIN : Reg where base := 0x10000010; lsb := 8; width := 8; reset := 0; acc := .dbg
/-- R501 -/
def DUMP_CTRL_DUMP_RESULT : Reg where base := 0x10000010; lsb := 16; width := 8; reset := 0; acc := .ro
/-- R501 -/
def DUMP_OFF_OFF : Reg where base := 0x10000018; lsb := 0; width := 48; reset := 0; acc := .dbg
/-- R501 -/
def DUMP_LEN_LEN : Reg where base := 0x10000020; lsb := 0; width := 64; reset := 0; acc := .ro
/-- R219 -/
def MX_CB_B_VALID : Reg where base := 0x800220; lsb := 0; width := 1; reset := 0; acc := .ro; stride := 0x1000; count := 256; stride2 := 0x8; count2 := 4; pkg := true
/-- R219 -/
def MX_CB_B_CB_FMT : Reg where base := 0x800220; lsb := 4; width := 4; reset := 0; acc := .ro; stride := 0x1000; count := 256; stride2 := 0x8; count2 := 4; pkg := true
/-- R219 -/
def MX_CB_B_X : Reg where base := 0x800220; lsb := 8; width := 9; reset := 0; acc := .ro; stride := 0x1000; count := 256; stride2 := 0x8; count2 := 4; pkg := true
/-- R219 -/
def MX_CB_B_CB_ID : Reg where base := 0x800220; lsb := 32; width := 32; reset := 0; acc := .ro; stride := 0x1000; count := 256; stride2 := 0x8; count2 := 4; pkg := true
/-- R495 -/
def CLM_SEL_WORD : Reg where base := 0x12000000; lsb := 3; width := 21; reset := 0; acc := .dbg; stride := 0x100; count := 32; pkg := true
/-- R268 -/
def FAB_CTR_VALUE : Reg where base := 0x310000; lsb := 0; width := 32; reset := 0; acc := .rw; stride := 0x4; count := 1024

/-- Fields 0 onward, in the order of the spec. -/
def all0 : List Reg :=
  [PART_CFG_PART_STATE, PART_CFG_EVER_READY, ST_NOW_STEP, ST_NOW_PHASE,
   ST_CTRL_ENABLE, ST_CTRL_ROLE, ST_CTRL_PHASE_CNT, ST_CTRL_LOCK,
   ST_STATUS_ACTIVE, ST_STATUS_REPORTED, ST_STATUS_CFG_ERR, ST_STATUS_SKIP_VOTE,
   ST_STATUS_PHASE_OFF, ST_STATUS_PHASE_IDX, ST_TREE_PARENT_NODE, ST_TREE_CHILD_CNT,
   ST_TREE_MASTER_NODE, ST_GATE_GATE_CTR, ST_GATE_GATE_INC, ST_GATE_TGT_TARGET,
   ST_TICK_TICK_CTR, ST_TICK_TICK_EN, ST_BEACON_TO_TIMEOUT, ST_CHILD_NODE,
   ST_PHASE_PHASE, EVENT_EV_WHEN, EVENT_KIND, EVENT_STATE,
   EVENT_ERR, EVENT_ARM, EVENT_DISARM, EVENT_EV_TARGET,
   EVENT_EV_ARG0, EVENT_EV_ARG1, ST_PTM_HEAD_HEAD, SR_KEY_LO_KEY_LO,
   SR_KEY_HI_KEY_HI, TABLE_DESC_WIDTH_32, TABLE_DESC_FMT, TABLE_DESC_OPT]

/-- Fields 40 onward, in the order of the spec. -/
def all1 : List Reg :=
  [TABLE_DESC_SHARD_CNT, TABLE_DESC_HASH_SEED, TABLE_DESC_CUR_VER, TABLE_DESC_CUR_VALID,
   TABLE_DESC_NEXT_VALID, TABLE_DESC_NEXT_VER, TABLE_DESC_NEXT_STEP, TABLE_DESC_SLOT_VER,
   TABLE_DESC_SLOT_STATE, TABLE_DESC_INFLIGHT, TABLE_DESC_SLOT_STEP, HOTROW_SET_HR_TABLE,
   HOTROW_SET_HR_VER, HOTROW_SET_SLOT_LOG2, HOTROW_SET_HR_ENABLE, HOTROW_SET_ACTIVE_BUF,
   HOTROW_SET_FETCH_BUSY, HOTROW_SET_BUF0_OFF, HOTROW_SET_BUF1_OFF, HOTROW_SET_FETCH_CTR,
   HOTROW_SET_FETCHED, HOTROW_SET_HITS, TD_CMD_CMD_TABLE, TD_CMD_CMD_VER,
   TD_CMD_CMD_OP, TD_ARG_CMD_STEP, TD_STATUS_CMD_RESULT, TD_STATUS_CMD_BUSY,
   SUMAC_CTRL_SU_ENABLE, SUMAC_CTRL_SU_LOCK, LU_TIMEOUT_LU_TO, SHARD_DIR_BASE_SD_BASE,
   COEFF_SET_ETA, COEFF_SET_BETA1, COEFF_SET_BETA2, COEFF_SET_EPS,
   COEFF_SET_LAMBDA, COEFF_SET_BC1, COEFF_SET_BC2, COEFF_SET_INIT_AMP]

/-- Fields 80 onward, in the order of the spec. -/
def all2 : List Reg :=
  [COEFF_SET_CLIP_EN, COEFF_SET_INIT, TBL_COEFF_SET, BUCKET_READS,
   BUCKET_UPDATES, UPD_CFG_APPLY_CTR, MIG_ADDR_MIG_LIST, MIG_ARG_ENTRY_CNT,
   MIG_ARG_STACK, MIG_ARG_BATCH_ID, MIG_STEP_STEP, MIG_CMD_OP,
   MIG_STATUS_MIG_RESULT, MIG_STATUS_MIG_BUSY, LOAD_CTRL_SNAP, LOAD_CTRL_SNAP_BUSY,
   LOAD_CTRL_SNAP_CTR, UPD_DECIDED_DECIDED_STEP, CONTRIB_BASE_CB_ADDR, CONTRIB_SIZE_CB_BYTES,
   SHARD_STATE_BASE_SS_ADDR, REDIRECT_USE_ACTIVE_CNT, UPD_STATE_LAST_STEP, UPD_STATE_LAST_STATUS,
   ENGQ_STATUS_QSTATE, ENGQ_STATUS_LAST_STATUS, ENGQ_STATUS_DONE, TILE_STATUS_STATE,
   TILE_STATUS_LOADING, TILE_STATUS_HALT_CODE, TILE_STATUS_PC, TILE_STATUS_FAULT_KIND,
   TILE_CTRL_START, TILE_CTRL_STOP, TILE_CTRL_START_PC, ENGQ_CTRL_QRESET,
   MX_CTRL_DEF_SHARE, MX_STATUS_ARRAY_BUSY, MX_STATUS_DRAIN_BUSY, MX_STATUS_PATH_BUSY]

/-- Fields 120 onward, in the order of the spec. -/
def all3 : List Reg :=
  [MX_STATUS_DBG_OPEN, MX_STATUS_DEF_POS, MX_STATUS_ECC_CORR, ACC_DBG_ADDR_WORD,
   ACC_DBG_DATA_DATA, MX_PT_VALID_PT, MX_SLOT_INFO_STATE, MX_SLOT_INFO_FP16,
   MX_SLOT_INFO_SHAPE, MX_SLOT_INFO_OFFSET_SUM, MX_CB_A_VALID, MX_CB_A_CB_FMT,
   MX_CB_A_X, MX_CB_A_CB_ID, VR_STATUS_VX_BUSY, VR_STATUS_RE_BUSY,
   VR_STATUS_SIDE_DBG_OPEN, VR_STATUS_SIDE_ECC_CORR, SIDE_DBG_ADDR_WORD, SIDE_DBG_DATA_DATA,
   VX_SUM_SUM, VX_MAX_MAX, VX_MIN_MIN, VX_NONFIN_NONFIN,
   DIE_CTR_VALUE, SYNC_WDOG_TIMEOUT, SYNC_STATUS_HOLD_DROPS, SYNC_STATUS_TO_COUNT,
   SYNC_TO_INFO_TO_NAME, SYNC_TO_INFO_TO_TARGET, SYNC_TO_VALUE_TO_VALUE, SYNC_TO_VALUE_TO_TILE,
   SYNC_TO_VALUE_TO_DMA, SYNC_TO_VALUE_TO_VALID, SYNC_HOST_SIG_HS_NAME, SYNC_HOST_SIG_HS_INC,
   HBM_ECC_CORR_CNT, HBM_ECC_UE_CNT, HBM_ECC_UE_PC, HBM_UE_OFF_UE_OFF]

/-- Fields 160 onward, in the order of the spec. -/
def all4 : List Reg :=
  [HBM_ECC_THRESH_THRESH, HBM_KEY_STATE_STATE, SP_ECC_CORR, CLM_ECC_CORR,
   TG_CTRL_START, TG_CTRL_STOP, TG_CTRL_RUNNING, TG_CTRL_DONE,
   TG_CTRL_MISCOMPARE, TG_MASK_PC_EN, TG_CFG_ADDR_MODE, TG_CFG_DATA_MODE,
   TG_CFG_BURST_LOG2, TG_CFG_RD_PCT, TG_CFG_CHECK, TG_CFG_STOP_ON_ERR,
   TG_STRIDE_STRIDE, TG_BASE_BASE, TG_LEN_LEN, TG_SEED_SEED,
   TG_COUNT_COUNT, TG_ERRS_ERRS, TG_DONE_CNT_DONE_CNT, TG_ERR_ADDR_ERR_ADDR,
   TG_ERR_BITS_ERR_BITS, SD_CFG_SD_EN, SD_CFG_SPARSE_EN, SD_CFG_COLLECT_PHASE,
   SD_CTR_DONE_FCTR, SD_REC_NR_OFF, SD_REC_DR_OFF, SD_CLIP_MAX_CLIP_MAX,
   SD_TO_TIMEOUT, SD_CMD_VOTE_SET, SD_TILE_MASK_MASK, SD_STATUS_SD_STEP,
   SD_STATUS_SD_STATE, SD_STATUS_FLAG, SD_STATUS_SKIP, SD_STATUS_DECIDING]

/-- Fields 200 onward, in the order of the spec. -/
def all5 : List Reg :=
  [SD_LOCAL_LOCAL_SUMSQ, SD_LOCAL_LOCAL_NONFIN, SD_RESULT_SUMSQ, SD_RESULT_CLIP,
   SD_RESULT_NF_NONFIN, SD_RESULT_NF_SKIP_REQ_ANY, FAB_CTRL_FAB_EN, FAB_CTRL_VLAN_EN,
   FAB_CTRL_MAX_PAYLOAD, FAB_CTRL_CFG_ERR, FAB_CTRL_FAB_LOCK, FAB_NODE_NODE_ID,
   FAB_NODE_VLAN_ID, FAB_NODE_VLAN_PCP, FAB_PREFIX_PREFIX, FAB_ETYPE_ETYPE,
   FAB_COLL_TO_COLL_TO, FAB_UNREACH_TO_UNREACH_TO, FAB_JOB_ID_JOB_ID, FAB_STATUS_HOLD_RX_DROPS,
   FAB_STATUS_ROUTE_DROPS, FAB_STATUS_OTHER_RX, FAB_WEIGHT_W, FP_CTRL_EN,
   FP_CTRL_HALF_OK, FP_CTRL_RETRAIN, FP_CTRL_PHY_MODE, FP_STATUS_PSTATE,
   FP_STATUS_LANE_LOCK, FP_STATUS_SESS_UP, FP_FEC_FEC_CORR, FP_FEC_FEC_UNCORR,
   FP_RETRY_REPLAYS, FP_RETRY_AUTH_FAILS, FP_TRAIN_TRAIN_FAILS, FP_TRAIN_DOWN_CNT,
   FP_PEER_NODE, FP_PEER_OPEN, FP_PEER_VALID, ROUTE_NEXT_HOP]

/-- Fields 240 onward, in the order of the spec. -/
def all6 : List Reg :=
  [ROUTE_VALID, COLL_SLOT_KIND, COLL_SLOT_IFMT, COLL_SLOT_OFMT,
   COLL_SLOT_DECODE, COLL_SLOT_ERR, COLL_SLOT_CSTATE, COLL_SLOT_ARM,
   COLL_SLOT_DISARM, COLL_SLOT_RANK_CNT, COLL_SLOT_MY_RANK, COLL_SLOT_GROUP_ADDR,
   COLL_SLOT_BUF_ADDR, COLL_SLOT_ELEM_CNT, COLL_SLOT_GROUP_ID, COLL_SLOT_TRIG_NAME,
   COLL_SLOT_TRIG_TGT, COLL_SLOT_TRIG_INC, COLL_SLOT_DONE_NAME, COLL_SLOT_SRC_ADDR,
   COLL_SLOT_RUNS, COLL_SLOT_ROW_LEN, RS_CTRL_RS_EN, RS_CTRL_RS_LOCK,
   RS_LIST_ADDR_ADDR, RS_LIST_CNT_CNT, RS_EPOCH_TGT_TARGET, RS_EPOCH_CFG_GATE_CTR,
   RS_EPOCH_CFG_GATE_INC, RS_EPOCH_CFG_DONE_CTR, RS_EPOCH_LAST_EPOCH, RS_EPOCH_STEP_EPOCH_STEP,
   RS_CMD_OP, RS_CMD_SLOT, RS_CMD_STEP_STEP, RS_STATUS_CMD_RESULT,
   RS_STATUS_CMD_BUSY, RS_STATUS_PLAN, RS_STATUS_LAPSED, TK_CERT_ADDR_ADDR]

/-- Fields 280 onward, in the order of the spec. -/
def all7 : List Reg :=
  [TK_LAST_SEQ_SEQ, WS_CFG_NODE, WS_CFG_MODE, WS_CFG_PORT,
   WS_CFG_WSTATE, WS_LOG_BASE_BASE, WS_LOG_SIZE_SIZE, WS_LOG_USED_USED,
   WS_APPLIED_STEP, WS_DURABLE_STEP, WS_DENSE_STEP, WS_EPOCH_EPOCH,
   IL_STATUS_LAST_STEP, EXP_CTRL_START, EXP_CTRL_IMPORT, EXP_CTRL_EXP_BUSY,
   EXP_CTRL_WINDOW, EXP_OFF_OFF, EXP_STEP_STEP, PARTNER_MAP_TARGET,
   PARTNER_MAP_KIND, RS_GROUP_NODE, RS_GROUP_VALID, JNL_CTRL_JNL_EN,
   JNL_CTRL_FORMAT, JNL_CTRL_COMPACT, JNL_STATUS_JSTATE, JNL_STATUS_FILL_PCT,
   JNL_STATUS_LAGGED, JNL_STATUS_IO_ERRS, JNL_DURABLE_STEP, JNL_DURABLE_EPOCH_EPOCH,
   JNL_RING_LBA_LBA, JNL_RING_LEN_LEN, JNL_BASE_LBA0_LBA, JNL_BASE_LBA1_LBA,
   JNL_BASE_LEN_LEN, JNL_STAGE_BASE_ADDR, JNL_STAGE_SIZE_SIZE, JNL_DIRTY_BASE_ADDR]

/-- Fields 320 onward, in the order of the spec. -/
def all8 : List Reg :=
  [JNL_LIMIT_LIMIT, WIN_CFG_OWNER, WIN_CFG_VALID, WIN_CFG_RD,
   WIN_CFG_WR, WIN_CFG_NS, WIN_CFG_RO_ATTR, WIN_CFG_PASID_EN,
   WIN_CFG_PASID, WIN_CFG_WIN_BUSY, WIN_BASE_BASE, WIN_SIZE_SIZE,
   PART_CTRL_PRESET, PART_CTRL_RESUME, PART_CTRL_RESET_BUSY, PART_CTRL_RESUME_ERR,
   PART_CTRL_SCRUB_BUSY, PART_CTRL_KEY, PART_MODE_REQ_NEW_MODE, PART_MODE_REQ_VOTE,
   PART_MODE_REQ_VOTED, PART_RESET_INFO_RESET_CAUSE, HP_STATUS_LINK_UP, HP_STATUS_SPEED,
   HP_STATUS_WIDTH, HP_STATUS_FLIT, HP_STATUS_IDE_ACTIVE, HP_STATUS_PTM_VALID,
   HP_STATUS_BME, HP_STATUS_LOSS_CNT, HP_STATUS_DMA_ERRS, LP_CTRL_EN,
   LP_STATUS_LINK_UP, LP_STATUS_SPEED, LP_STATUS_WIDTH, LP_STATUS_DRIVE_READY,
   LP_STATUS_FMT_OK, LP_STATUS_RESV_HELD, LP_STATUS_LOSS_CNT, LP_NS1_LBAS_LBAS]

/-- Fields 360 onward, in the order of the spec. -/
def all9 : List Reg :=
  [LP_HEALTH_CRIT_WARN, LP_HEALTH_PCT_USED, Q_CFG_Q_EN, Q_CFG_OWNER,
   Q_CFG_LOG2_SIZE, Q_CFG_VECTOR, Q_CFG_IRQ_EN, Q_CFG_PASID_EN,
   Q_CFG_CFG_ERR, Q_CFG_PASID, SQ_BASE_BASE, CQ_BASE_BASE,
   Q_IRQ_IRQ_CNT, Q_IRQ_IRQ_HOLDOFF, Q_WAIT_TO_TIMEOUT, Q_SQ_STATUS_SQ_HEAD,
   Q_SQ_STATUS_SQ_TAIL, Q_SQ_STATUS_EXP_SEQ, Q_SQ_STATUS_EXP_PHASE, Q_CQ_STATUS_CQ_TAIL,
   Q_CQ_STATUS_CQ_HEAD, Q_CQ_STATUS_CQ_PHASE, Q_STATE_QSTATE, Q_STATE_INFLIGHT,
   Q_STATE_STALL_KIND, Q_STATE_DONE, SEC_STATUS_FUSE_SVN, SEC_STATUS_IMAGE_SVN,
   SEC_STATUS_OWNER_ENROLLED, SEC_STATUS_COSIGNED, SEC_STATUS_RECOVERED, SEC_STATUS_IDE_REQ,
   SEC_STATUS_JOB_LOADED, SEC_STATUS_MEMBER_LOADED, SEC_STATUS_DBG_AUTH, SEC_STATUS_DBG_COUNT,
   SEC_CMD_OP, SEC_CMD_SEAL, SEC_CMD_ADDR_ADDR, SEC_RESULT_CMD_RESULT]

/-- Fields 400 onward, in the order of the spec. -/
def all10 : List Reg :=
  [SEC_RESULT_CMD_BUSY, REC_CTRL_GO, REC_CTRL_PERSIST, REC_CTRL_REC_WAIT,
   REC_CTRL_REC_BUSY, REC_CTRL_REC_RESULT, REC_ADDR_ADDR, REC_LEN_LEN,
   FC_RING_BASE_FR_BASE, FC_RING_CFG_FR_EN, FC_RING_CFG_LOG2_SIZE, FC_RING_CFG_IRQ_EN,
   FC_RING_CFG_VECTOR, FC_RING_CFG_CFG_ERR, FC_RING_IDX_HEAD, FC_RING_IDX_TAIL,
   FC_ACK_ACK_SEQ, FC_SETTLE_SETTLE, FC_CFG_FLT_ON_HOLD, FC_STATUS_UNACK_F1,
   FC_STATUS_F2_STATE, FC_STATUS_OCCUPANCY, FC_STATUS_LAST_SEQ, FC_LOSS_NOTE_DROPS,
   FC_LOSS_LOST, FC_PAIRS_BROKEN, FC_INJECT_INJ_SOURCE, FC_INJECT_INJ_KIND,
   FC_INJECT_INJ_CLASS, FC_INJECT_INJ_GO, D2D_RETRY_RETRIES, BOOT_STATUS_STAGE,
   BOOT_STATUS_FAIL_STEP, BOOT_STATUS_BOOT_MS, PWR_CAP_CAP_W, PWR_PKG_CAP_PKG_CAP_W,
   PWR_STATUS_POWER_W, PWR_STATUS_PKG_POWER_W, PWR_STATUS_CAP_LIMITING, PWR_STATUS_THERMAL_LIMITING]

/-- Fields 440 onward, in the order of the spec. -/
def all11 : List Reg :=
  [PWR_STATUS_CURRENT_LIMITING, PWR_STATUS_ACTIVE_PROFILE, PWR_CTRL_PROFILE_SEL, PWR_CTRL_APPLY,
   PWR_PROFILE_LVL, PWR_DIE_EFF_LVL, PWR_DIE_PROF_LVL, PWR_DIE_CAP_LVL,
   PWR_DIE_THERM_LVL, PWR_DIE_AVS_HELD, PWR_DIE_VDD_MV, PWR_DIE_FREQ_MHZ,
   THERM_TEMP, THERM_TEMP_MAX, LIFE_BOOTS_BOOTS, LIFE_HOURS_HOURS,
   LIFE_EVENTS_TRIPS, LIFE_EVENTS_SAFES, CS_CMD_OP, CS_ARG_ARG,
   CS_STATUS_CS_RESULT, CS_STATUS_CS_BUSY, CS_STATUS_COMPACTING, CS_STATUS_BANK,
   CS_STATUS_FILL_PCT, CS_STATUS_CS_LOST, CS_HIST_SEL_IDX, DBG_ADDR_WORD,
   DBG_ADDR_MEM, ST_FREEZE_RESUME, ST_FREEZE_FSTATE, ST_FREEZE_FORCED,
   ST_FREEZE_SRC, ST_FREEZE_FRZ_COUNT, FRZ_PKG_CTRL_FREEZE, FRZ_PKG_CTRL_THAW,
   FRZ_PKG_CTRL_HELD, FRZ_PKG_CTRL_PAIR, DUMP_CTRL_START, DUMP_CTRL_DUMP_BUSY]

/-- Fields 480 onward, in the order of the spec. -/
def all12 : List Reg :=
  [DUMP_CTRL_DUMP_WIN, DUMP_CTRL_DUMP_RESULT, DUMP_OFF_OFF, DUMP_LEN_LEN,
   MX_CB_B_VALID, MX_CB_B_CB_FMT, MX_CB_B_X, MX_CB_B_CB_ID,
   CLM_SEL_WORD, FAB_CTR_VALUE]

/-- Every field that holds a value. -/
def all : List Reg :=
  all0 ++ all1 ++ all2 ++ all3 ++ all4 ++ all5 ++ all6 ++ all7 ++ all8 ++ all9 ++ all10 ++ all11 ++ all12

end R

end Sys2Proof.Machine
end

