-- ==== Sys2Proof/Machine/State.lean ====
section
/-!
DEFINITION. The state of the package: its registers, memories, queues and the state of its units, as plain data.
-/

namespace Sys2Proof.Machine

/-- A finite map on naturals, keys strictly rising. -/
abbrev NatMap (β : Type) := List (Nat × β)

/-- A command entry of an engine queue: 32 bytes, byte 0 in bits [7:0] (R175). -/
abbrev Cmd := BitVec 256

/-- What a stalled control core waits for (R186, R260). -/
inductive Stall where
  | wait (name target : Half)
  | fence (mask : BitVec 5)
  deriving DecidableEq, Repr

/-- A fault a command raises when it completes. -/
structure CmdFault where
  kind : Nat
  cls  : Nat
  addr : Nat
  deriving DecidableEq, Repr

/-- A waiting entry and ST_NOW.STEP of its die when it was pushed (R81, R175). -/
structure QEntry where
  cmd  : Cmd
  step : Nat
  deriving DecidableEq, Repr

/-- A command its engine has started and not completed (R177). `status` is decided once `finished`. -/
structure RunCmd where
  cmd      : Cmd
  step     : Nat := 0
  finished : Bool := true
  status   : Nat := 0
  fault    : Option CmdFault := none
  /-- STREAM: chunks started and chunks landed (R282). -/
  started  : Nat := 0
  landed   : Nat := 0
  /-- VRED and the other summarising commands: the values their slot takes at completion (R237). -/
  summary  : Option (Nat × List Half) := none
  /-- The tile whose memory it loads (R191). -/
  loading  : Option Nat := none
  /-- Bytes kept for the end of the command: a stream descriptor (R281), the slot contents before an MMA (R200, R222), or the operand
  block of a weight write that waits (R308). -/
  keep     : List Byte := []
  /-- The step of an SR weight write that waits for its decision (R308). -/
  waitStep : Option Nat := none
  /-- Bytes left undefined should the command be abandoned: in HBM or on chip, key, length (R190, R252). -/
  undef    : List (Bool × Nat × Nat) := []
  /-- MMA: the operand elements as they stood when it started (R200). MDRAIN: the bytes of `undef` before it wrote (R222). -/
  codes    : List Nat := []
  /-- COPY to another node: its MSG_ID, and the frames that node has not acknowledged (R258). -/
  ackId    : Nat := 0
  acks     : Nat := 0
  /-- The host port of a HOST_DMA_ERROR (R383). -/
  errPort  : Option Nat := none
  old      : List (Option Byte) := []
  deriving DecidableEq, Repr

/-- One engine queue of a tile; its state, LAST_STATUS and DONE are registers (R181). -/
structure EngQueue where
  waiting : List QEntry := []
  running : List RunCmd := []
  deriving DecidableEq, Repr, Inhabited

/-- State of a tile that is no register and no memory. -/
structure TileState where
  /-- General registers by number; g0 is never written (R166). -/
  gpr       : NatMap Word := []
  stall     : Option Stall := none
  /-- START_PC of a START or TSTART that is held until a load completes (R189). -/
  heldStart : Option Nat := none
  /-- SR_CYCLE when it was last read or cleared (R174). -/
  cycle     : Nat := 0
  /-- Sources whose loads of this tile wait, in order of arrival (R191). -/
  loadWaits : List Nat := []
  queues    : NatMap EngQueue := []
  /-- K12 entries of a valid binding, by 4 * side + index (R71, R215). -/
  k12       : NatMap (List (BitVec 12)) := []
  /-- Product tables by index 0 to 3 (R72, R216). -/
  products  : NatMap (List Half) := []
  deriving DecidableEq, Repr, Inhabited

/-- An increment issued and not yet applied (R257). -/
structure Increment where
  ref    : CtrRef
  source : Nat
  amount : Half
  deriving DecidableEq, Repr

/-- Partition modes (R27, R28). -/
inductive PMode where
  | pm1 | pm2 | pm4
  deriving DecidableEq, Repr, Inhabited

/-- A fault message on its way to the collector, with ST_NOW of each partition at detection (R442, R443). -/
structure PendFault where
  msg : FaultMsg
  st  : List Nat
  deriving DecidableEq, Repr

/-- A stored fault record and the collector's bookkeeping of it (R443, R450). `st` holds ST_NOW of partition 0, 1, … at detection. -/
structure FaultRec where
  slot     : Nat
  source   : Nat
  kind     : Nat
  cls      : Nat
  origCls  : Nat
  secondary : Bool
  pkg      : Bool
  part     : Nat
  addr     : Nat
  st       : List Nat
  seq      : Nat
  detail   : Nat
  /-- Partitions for which records were lost before this one. -/
  loss     : List Nat
  /-- Partitions that have not acknowledged it, and partitions whose ring still lacks it. -/
  unacked  : List Nat
  unmirrored : List Nat
  deriving DecidableEq, Repr

/-- An escalation scope that is not CLEAR: class 1 with a source ID, or class 2 with a partition (R445). -/
structure Scope where
  cls     : Nat
  id      : Nat
  settled : Bool
  deriving DecidableEq, Repr

/-- A bank as the package is delivered: the header of generation 0, committed, and no record (R478; DESIGN CHOICE, log 86). -/
def freshBank : List Byte :=
  ([0x43, 0x46, 0x53, 0x54, 0, 0, 0, 0, 0x28, 0x70, 0xbf, 0xe0] ++ List.replicate 52 0).map (BitVec.ofNat 8)

/-- A record of the configuration store (R479). -/
structure CsRec where
  typ     : Nat
  key     : Nat
  payload : List Byte
  deriving DecidableEq, Repr

/-- Who waits for a record to be committed (R483). -/
inductive CsWhy where
  | plain | cmd | error | modeChange (m : PMode) | sealed (p : Nat)
  deriving DecidableEq, Repr

/-- A write that left through a host port, with its attributes: No Snoop, Relaxed Ordering, PASID (R363, R367, R370; log 3). -/
structure HostWrite where
  port    : Nat
  addr    : Nat
  bytes   : List Byte
  ns      : Bool := false
  relaxed : Bool := false
  pasid   : Option Nat := none
  deriving DecidableEq, Repr

/-- A read that left through a host port, with its attributes. A flush read has length 0 (R370, R373). -/
structure HostRead where
  port  : Nat
  addr  : Nat
  len   : Nat
  ns    : Bool := false
  pasid : Option Nat := none
  deriving DecidableEq, Repr

/-- What a key-agreement message carries (R431). -/
structure KaMsg where
  pub      : List Byte := []
  rnd      : Nat := 0
  chain    : List Byte := []
  member   : List Byte := []
  measure6 : List Byte := []
  sig      : List Byte := []
  deriving DecidableEq, Repr

/-- What a LINK frame carries (R316). -/
inductive LinkMsg where
  | hello
  | ka (n : Nat) (m : KaMsg := {})
  | ack (seq : Nat)
  | nak (seq : Nat)
  | beacon (node kind : Nat)
  deriving DecidableEq, Repr

/-- What a unit of a partition sends to another node or unit (log 3). -/
inductive Body where
  | write (node : Nat) (raw : Bool) (stack off : Nat) (bytes : List Byte)
  | read (node : Nat) (raw : Bool) (stack off len : Nat)
  | inc (node : Nat) (src : Nat) (index : Nat) (amount : Half)
  | lookupReq (node : Nat) (m : LookupReq)
  | fwdReq (node : Nat) (m : FwdReq)
  | lookupResp (node : Nat) (m : LookupResp)
  | partialResp (node : Nat) (m : LookupResp)
  | hotRead (m : HotRead)
  | hotReply (node : Nat) (m : HotReply)
  | contribution (node : Nat) (m : Contribution)
  | contribAck (node : Nat) (m : ContribAck)
  | fwdAck (node stack row table step : Nat) (partner : Bool)
  | withdrawal (node : Nat) (m : Withdrawal)
  | migCopy (node : Nat) (m : MigCopy)
  | migAck (node stack row table ver : Nat) (stored : Bool)
  | copy (node : Nat) (m : CopyMsg)
  | report (node : Nat) (m : Report)
  | beacon (node : Nat) (m : Beacon)
  | sdPartial (node : Nat) (m : SdMsg)
  | sdResult (node : Nat) (m : SdMsg)
  | moved (node : Nat) (m : MovedMsg)
  /-- An entry of a watch slot's window, sent to the replacement over STATE_STREAM (R359). -/
  | share (node : Nat) (m : CopyMsg)
  | readData (node : Nat) (bytes : List Byte)
  | visible (node : Nat)
  | segment (node : Nat) (m : Segment) (stripe : Nat) (slot : Nat)
  | frame (m : Frame)
  | link (f i : Nat) (m : LinkMsg)
  | takeover (f i : Nat) (cert : List Byte)
  deriving DecidableEq, Repr

structure Sent where
  part : Nat
  body : Body
  deriving DecidableEq, Repr

/-- A frame of a message: the origin's SRC_UNIT and MSG_ID, which frame of the message it is, and whether it is the last (R313, R315). -/
structure FabFrame where
  msg   : Sent
  unit  : Nat
  msgId : Nat
  frag  : Nat := 0
  last  : Bool := true
  deriving DecidableEq, Repr

/-- A frame that a session has sent, with the hop fields (R315, R320, R321). Acknowledgements leave in LINK frames, so a sequenced frame
carries none (R320, log 3). -/
structure WireFrame where
  sess  : Nat
  seq   : Nat
  epoch : Byte
  retx  : Bool
  frame : FabFrame
  ver   : Nat := 1
  ttl   : Nat := 15
  ackValid : Bool := false
  ackSeq : Nat := 0
  deriving DecidableEq, Repr

/-- A frame as a session sends it: TTL is 15 at its origin, and what the transit left of it at a later hop (R315). -/
def wireFrame (k seq : Nat) (epoch : Byte) (retx : Bool) (x : FabFrame) : WireFrame :=
  { sess := k, seq := seq, epoch := epoch, retx := retx, frame := x
    ttl := match x.msg.body with | .frame m => m.ttl.toNat | _ => 15 }

/-- A frame in a replay buffer, and how often it has been replayed in succession (R320). -/
structure Unacked where
  seq     : Nat
  replays : Nat := 0
  frame   : FabFrame
  deriving DecidableEq, Repr

/-- A scheduled event that fires (R54, R56). -/
structure FiredEv where
  kind   : Nat
  when_  : Nat
  target : Nat
  arg0   : Nat
  arg1   : Nat
  /-- Its index in the table, and the outcome of a COMMIT_DECIDE. -/
  idx    : Nat
  skip   : Bool
  deriving DecidableEq, Repr

/-! ### Fabric (spec/12) -/

/-- A peer entry of a port (R318 to R321): the handshake's stage (0 none, 1 HELLO taken, 2 KA2 sent, 3 KA3 sent) and the name of its
transcript, what the refusal episode has noted, and the session's sequence state: the next SEQ each way, the LINK counter, the key
epochs, the frames sent and taken under the present keys. While the handshake runs, `eph` is the own ephemeral key, `trans` the transcript so
far and `z` the shared secret (R431); the secrets S(d, e) of the session's directions are those of the present epochs (R432). -/
structure Sess where
  stage    : Nat := 0
  tag      : Nat := 0
  refused  : Bool := false
  conflict : Bool := false
  device   : BitVec 384 := 0
  tx       : Nat := 0
  link     : Nat := 0
  txEpoch  : Byte := 0
  txKey    : Nat := 0
  rx       : Nat := 0
  rxEpoch  : Byte := 0
  rxKey    : Nat := 0
  authSeen : Bool := false
  eph      : Nat := 0
  trans    : List Byte := []
  z        : Nat := 0
  txSecret : Nat := 0
  rxSecret : Nat := 0
  /-- The frames not acknowledged, oldest first. -/
  unacked  : List Unacked := []
  deriving DecidableEq, Repr, Inhabited

/-- A partition's job secrets (R414, R427, R428). -/
structure JobKeys where
  secret  : Nat
  authPub : List Byte
  member  : Option (List Byte) := none
  deriving DecidableEq, Repr, Inhabited

/-- An IDE stream of a host port (R425): whether it is Secure, the key set it uses, and the keys of its two key sets. -/
structure IdeStream where
  secure : Bool := false
  set    : Bool := false
  key0   : BitVec 256 := 0
  key1   : BitVec 256 := 0
  deriving DecidableEq, Repr, Inhabited

/-- A security command that runs (R437): bits [4:0] of SEC_CMD, the blob's address and the port that issued it. -/
structure SecRun where
  op   : Nat
  addr : Nat
  port : Nat
  deriving DecidableEq, Repr

/-- What an SPDM response carries (R424): the algorithms supported, certificate digests, a chain, or measurement digests by index. -/
inductive SpdmBody where
  | empty
  | algorithms (l : List SpdmAlg)
  | digests (l : List Nat)
  | chain (l : List (List Byte))
  | measurements (l : List (Nat × Nat))
  deriving DecidableEq, Repr

/-- An SPDM response: the responder (a host port, 4 the sideband), the request, whether it is no ERROR, its content and, where SPDM signs the
response, its signature by the alias key (R424). -/
structure SpdmOut where
  who  : Nat
  req  : SpdmReq
  ok   : Bool
  body : SpdmBody := .empty
  sig  : Option (List Byte) := none
  deriving DecidableEq, Repr

/-- A collective slot that is ARMED or RUNNING (R328 to R333). `input` holds the buffer's (or the own segment's) bytes at the start,
`got` the segments taken (reduce, chunk, offset, length), `early` those that wait for the trigger. -/
structure CollRun where
  digest : Half
  next   : Nat
  prev   : Nat := 0
  /-- An error has ended it before its last byte (R298). -/
  failed : Bool := false
  input  : List Byte := []
  got    : List (Bool × Nat × Nat × Nat) := []
  parts  : List (Nat × Nat × List Byte) := []
  early  : List Segment := []
  deriving DecidableEq, Repr

/-! ### Embedding (spec/04, spec/05) -/

/-- An entry of a look-up at its requester, with the value of a hot copy (R104, R117). -/
structure LookRow where
  bag   : Nat
  pos   : Nat
  row   : Nat
  shard : Nat
  node  : Nat
  stack : Nat
  lshard : Nat
  weight : Half
  /-- A hit in a hot-row set: its row, or none when the copy's row is absent; and whether the copy fails its checks (R117). -/
  hot   : Option (Option RowData)
  corrupt : Bool := false
  deriving DecidableEq, Repr

/-- A look-up that its requester has issued and not completed (R104 to R112). `waiting` lists the homes that have not replied. -/
structure LookRun where
  tile    : Nat
  msgId   : Nat
  desc    : List Byte
  /-- The version slot whose INFLIGHT it holds (R121). -/
  slot    : Option Nat
  ver     : Nat
  width   : Nat
  bags    : Nat
  rows    : List LookRow
  waiting : List (Nat × Nat)
  replies : List LookupResp
  status  : Nat
  fault   : Option CmdFault
  /-- 0: requests are out; 1: the output is written; 2: the status word too. `status` and `fault` are final from 1 on (R111). -/
  phase   : Nat := 0
  /-- Frames written to another node and not yet visible there (R258). -/
  acks    : Nat := 0
  deriving DecidableEq, Repr

/-- A contribution held by an engine, or by a mirror watch slot for it (R141, R343). -/
structure Held where
  slot  : Option Nat
  stack : Nat
  c     : Contribution
  deriving DecidableEq, Repr

/-- A request an owner has forwarded in part: its version slot, the homes that have not answered, and their answers (R101, R108). -/
structure OwnRun where
  part : Nat
  slot : Option Nat
  req  : LookupReq
  waiting : List (Nat × Nat)
  got  : List LookupResp
  deriving DecidableEq, Repr

/-- A request that waits for a row or a stack, with the version slot whose INFLIGHT it holds (R37, R121, R145, R162, R291). -/
inductive WaitReq where
  | look (m : LookupReq) (slot : Option Nat)
  | fwd (m : FwdReq) (slot : Option Nat)
  | hot (m : HotRead) (slot : Option Nat)
  deriving DecidableEq, Repr

/-- A request of the update path or of another node that waits for a stack that a traffic generator drives (R291). -/
inductive StackReq where
  | contrib (m : Contribution)
  | fwd (m : Contribution)
  | mig (m : MigCopy)
  | access (src unit msg : Nat) (a : RemoteAccess)
  | migAck (k row table ver : Nat) (stored : Bool)
  | moved (m : MovedMsg)
  /-- Register commands: MIGRATE, and ARM of a collective slot. -/
  | migrate
  | arm (slot : Nat)
  deriving DecidableEq, Repr

/-- A command of the host outlives a HOLD. -/
def StackReq.isCommand : StackReq → Bool
  | .migrate | .arm _ => true
  | _ => false

/-- The coefficient set in use for a table (R150 to R153). -/
structure Coeff where
  eta : Half
  beta1 : Half
  beta2 : Half
  eps : Half
  lambda : Half
  bc1 : Half
  bc2 : Half
  amp : Half
  clipEn : Bool
  init : Nat
  deriving DecidableEq, Repr

/-- A row of a committed step whose lock another operation holds, or whose stack a traffic generator drives: it is applied later with the
clip factor and the coefficients that the step found (R143, R147, R291). -/
structure RowLock where
  part  : Nat
  stack : Nat
  step  : Nat
  key   : Nat
  clip  : Option Half
  coeff : Coeff
  deriving DecidableEq, Repr

/-- Contributions of a step whose row writes are made and that INFLIGHT still counts (R148). -/
structure VerHold where
  part  : Nat
  stack : Nat
  step  : Nat
  table : Nat
  ver   : Nat
  count : Nat
  deriving DecidableEq, Repr

/-- A forwarded contribution whose acknowledgements are missing (R145, R340). -/
structure FwdOut where
  stack : Nat
  row   : Nat
  table : Nat
  ver   : Nat
  step  : Nat
  /-- The serving engine's stack. -/
  serve : Nat
  own   : Bool
  partner : Bool
  deriving DecidableEq, Repr

/-- A key entry in Clove's store (R130). -/
structure MergeKey where
  row : Nat
  pos : Nat
  node : Nat
  stack : Nat
  lshard : Nat
  shard : Nat
  gradRow : Nat
  coef : BitVec 16
  deriving DecidableEq, Repr

/-- A merge that runs on a Clove unit (R128 to R138). `waiting` lists (row, node, partner) of the acknowledgements that are missing. -/
structure CloveRun where
  tile    : Nat
  desc    : List Byte
  step    : Nat
  ver     : Nat
  seq     : Nat
  keys    : List MergeKey
  passes  : Nat
  done    : Nat
  sent    : Bool
  waiting : List (Nat × Nat × Bool)
  unique  : Nat
  maxCount : Nat
  status  : Nat
  fault   : Option CmdFault
  /-- Frames written to another node and not yet visible there, and their message number (R258). -/
  acks    : Nat := 0
  msgId   : Nat := 0
  /-- The status word is written; `status` and `fault` are final. -/
  worded  : Bool := false
  deriving DecidableEq, Repr

/-- A hot-row fetch of one die (R118). -/
structure HotFetch where
  part : Nat
  die  : Nat
  set  : Nat
  step : Nat
  waiting : List Nat
  copied : Nat
  failed : Bool
  deriving DecidableEq, Repr

/-- A norm pass of an engine (R302). -/
structure NormPass where
  step : Nat
  done : Bool
  sumsq : Half
  nonfin : Half
  deriving DecidableEq, Repr

/-! ### Host queues (spec/15) -/

/-- A descriptor that a queue has accepted and not completed (R403, R404). `wrote` lists the ports its data left through, ascending, with the
last address written on each. -/
structure QDesc where
  idx      : Nat
  bytes    : List Byte
  started  : Bool := false
  finished : Bool := false
  status   : Nat := 0
  fault    : Option CmdFault := none
  info     : Nat := 0
  /-- The port of a HOST_DMA_ERROR. -/
  errPort  : Option Nat := none
  wrote    : List (Nat × Nat) := []
  /-- INPUT: its log entry, and the bytes kept for delivery after the comparison with a replay plan (R398). -/
  entry    : Option InputEntry := none
  late     : Option (List Byte) := none
  /-- It is complete but for its flush reads; the ports whose read has not completed (R373, R374). -/
  flushing : Bool := false
  flushWait : List Nat := []
  loading  : Option Nat := none
  undef    : List (Bool × Nat × Nat) := []
  deriving DecidableEq, Repr

/-- A completion record that is not yet in its ring (R405, R407). -/
structure QRec where
  tag    : Nat
  idx    : Nat
  seq    : Nat
  status : Nat
  info   : Nat
  counts : Bool
  deriving DecidableEq, Repr

/-- A queue: its accepted descriptors in ring order, records that wait for room, re-reads of the descriptor at SQ_HEAD, counted records
since the last message (R403, R407, R410). -/
structure HQueue where
  descs   : List QDesc := []
  held    : List QRec := []
  rereads : Nat := 0
  counted : Nat := 0
  deriving DecidableEq, Repr, Inhabited

set_option maxRecDepth 4096 in
/-- The state of the package. Registers that hold a value are in `regs`; the rest is typed. -/
structure State where
  /-- The commands that wait, first in, first out. -/
  pending : List Instr := []
  /-- Register fields that differ from their reset value, by field key (spec/20). -/
  regs    : NatMap Nat := []
  /-- Scratchpads, cluster, accumulator, side, instruction, data and resident memories: bytes that are not 0. -/
  sram    : List Host.Cell := []
  /-- HBM bytes written since the present keys and histories began (spec/03 R85, spec/10 R287, R288). -/
  hbm     : List Host.Cell := []
  /-- Names the present history of unwritten HBM bytes (the model's own). -/
  hbmGen  : Nat := 0
  /-- Names the next free value (the model's own). -/
  freeCtr : Nat := 0
  mode    : PMode := .pm1
  /-- The package is in SAFE (spec/17 R455). -/
  safe    : Bool := false
  /-- Tiles fused off (R1, R2), read at the first boot; tiles and engines (tile, engine) retired at boot (R17). -/
  fusedTiles : List Nat := []
  fusesRead  : Bool := false
  retiredTiles : List Nat := []
  retiredEngines : List (Nat × Nat) := []
  tiles   : NatMap TileState := []
  /-- Traffic generators that run, as a mask by stack, and stacks told to stop (R291, R292). -/
  tgRun   : NatMap Nat := []
  tgStop  : List Nat := []
  /-- Partitions whose HOLD has discarded an increment (R265), and frozen partitions whose HOLD acts at resume (R491). -/
  incDropped : List Nat := []
  holdLater  : List Nat := []
  /-- Frames that frozen partitions hold, in order of arrival: the partition, and the command in which the frame acts (R489, R492). -/
  heldRx  : List (Nat × Instr) := []
  /-- Partitions in HOLD for a fault of class F2 (R454). -/
  heldForF2  : List Nat := []
  /-- The last step whose COMMIT_DECIDE fired at a die, and whether it was skipped (R308). -/
  dieDecided : NatMap (Nat × Bool) := []
  incs    : List Increment := []
  /-- Increments beyond the eighth that wait in their counter's unit (R257). -/
  incWait : List Increment := []
  faultQ  : List PendFault := []
  recs    : List FaultRec := []
  /-- The collector: the next sequence number, its scopes, records lost for a partition and not yet told, secondary F2 records of the
  present HOLD, ring phases, rings whose mirroring waits, and whether SAFE's last mirroring has been made (R442 to R455). -/
  seq     : Half := 0
  scopes  : List Scope := []
  lostRecs : NatMap Nat := []
  secondF2 : NatMap Nat := []
  ringPhase : NatMap Nat := []
  ringWaits : List Nat := []
  safeMirrored : Bool := false
  /-- The configuration store: the records of the current bank in order, its generation, and the records still to be committed; the programmed
  bytes of the two banks of the flash, beyond which a bank is erased; how many records the bank held when its compaction began (R478 to
  R480). -/
  store   : List CsRec := []
  storeGen : Half := 0
  csWants : List (CsRec × CsWhy) := []
  bank0   : List Byte := freshBank
  bank1   : List Byte := []
  compactAt : Option Nat := none
  /-- Partner nodes that told a partition that they lapsed (R342). -/
  lapsed  : List (Nat × Nat) := []
  /-- Readiness reports counted: (sender, value, vote) by partition, and the values for which a context has sent its own since ST_NOW took
  its value (R43, R518). -/
  reports : NatMap (List (Nat × Nat × Option Bool)) := []
  reported : NatMap (List Nat) := []
  /-- The PTM log: (ST_NOW, host time) by 64 * partition + index (R59). -/
  ptmLog  : NatMap (Nat × Nat) := []
  /-- The step-decision unit: norm records read (SUMSQ, NONFIN, SKIP_REQ), children's partials, the local SKIP_REQ, and whether the
  subtree partial is sent (R303 to R305). -/
  sdRecs  : NatMap (List (Half × Half × Bool)) := []
  sdParts : NatMap (List SdMsg) := []
  sdSkip  : List Nat := []
  sdSent  : List Nat := []
  /-- The events of the present Step Time that still wait, in firing order, by partition (R56). -/
  firing  : NatMap (List FiredEv) := []
  /-- The next message number of a requester (the model's own; R107). -/
  msgSeq  : Half := 0
  looks   : List LookRun := []
  ownRuns : List OwnRun := []
  /-- Requests that wait at the engines of a partition (R37). -/
  waitReqs : List (Nat × WaitReq) := []
  fetches : List HotFetch := []
  /-- Codebooks of the frozen rows that hot-row slots copy, by the key of the slot (R117). -/
  hotBooks : NatMap (List (BitVec 16)) := []
  /-- Redirect tables by stack, and those a mirror watch slot keeps for another node: key 24 * (w + 1) + stack (R100, R343). -/
  redirects : NatMap (List RedirectEnt) := []
  held    : List Held := []
  fwdOuts : List FwdOut := []
  rowLocks : List RowLock := []
  verHolds : List VerHold := []
  /-- Engines that have finished a step since the partition's reset (R149, R161). -/
  stepped : List Nat := []
  /-- Requests that wait for a stack that a traffic generator drives, by partition (R291). -/
  stackReqs : List (Nat × StackReq) := []
  /-- The HBM atom that the read in progress finds poisoned (the model's own: none between commands; R286). -/
  poison  : Option Nat := none
  /-- Steps that engines apply, not finished: (step, skipped) by stack (R149). -/
  applying : NatMap (List (Nat × Bool)) := []
  batches : List MigBatch := []
  /-- The coefficients that a table used up to and with the step at which an OPT_COEFF replaced its set, oldest first, by 1024 * p + table
  (R145, R151). -/
  coeffPast : NatMap (List (Nat × Coeff)) := []
  /-- READS, UPDATES and OCC by 32768 * stack + LSHARD (R159). -/
  shardCnt : NatMap (Nat × Nat × Nat) := []
  clove   : NatMap CloveRun := []
  /-- The step for which a cluster has given out sequence numbers, and how many (R138). -/
  cloveSeq : NatMap (Nat × Nat) := []
  /-- Tiles whose MERGE waits for the Clove unit of a cluster, in order of arrival (R128). -/
  cloveWait : NatMap (List Nat) := []
  norms   : NatMap NormPass := []
  /-- The clip factor of the last step for which a partition has one (R153, R307). -/
  clips   : NatMap (Nat × Half) := []
  /-- Host ports in D3hot (R381). -/
  d3hot   : List Nat := []
  outbox  : List Sent := []
  /-- The frames that sessions have sent, oldest first (log 3). -/
  wire    : List WireFrame := []
  /-- Sessions by 32 * port + entry, and frames that wait for a session to a next hop, oldest first: (partition, hop, frame) (R324). -/
  sess    : NatMap Sess := []
  fabWait : List (Nat × Nat × FabFrame) := []
  /-- Accepted takeovers of a partition: (partition, node, device ID) (R319, R360). -/
  rebound : List (Nat × Nat × Nat) := []
  colls   : NatMap CollRun := []
  /-- Job secrets by partition, certificates verified (partition, hash), and HBM keys by partition (R414, R431, R433). -/
  jobs    : NatMap JobKeys := []
  certCache : List (Nat × Nat) := []
  hbmKeys : NatMap Nat := []
  /-- Outstanding debug challenges by partition, 4 for the TAP (R434, R498); the enrolled owner's key, and the one
  that was enrolled when the device booted (R422); ports whose first access
  without a Secure stream has been noted (R426); SPDM sessions by responder, 4 the sideband, and answers given (R424). -/
  dbgChal : NatMap Nat := []
  ownerKey : Option (List Byte) := none
  ownerBoot : Option (List Byte) := none
  ideNoted : List Nat := []
  spdm    : NatMap Nat := []
  spdmOut : List SpdmOut := []
  /-- The alias key of this boot and its certificate (R414, R417); IDE streams by 2 * port, the selective stream one more (R425); the security
  command that runs, by partition (R437). -/
  aliasKey : Nat := 0
  aliasCert : List Byte := []
  ideStreams : NatMap IdeStream := []
  secRun  : NatMap SecRun := []
  /-- Measurements 1 to 5 as recorded at boot: value and digest by index; the measurements that an answer carried, as (responder, index,
  digest) (R423). -/
  measures : NatMap (List Byte × Nat) := []
  measured : List (Nat × Nat × Nat) := []
  /-- Resilience (spec/13): watch-slot logs by 4 * partition + slot, oldest first; staging by partition; what the drive of a storage root
  port holds; an epoch that waits for its partner, by partition: (epoch, step, acknowledgements missing); partitions whose journal builds
  its other base area; the engine tables that an engine image last held, by stack; input descriptors fetched, each with its step; closed
  input-log records (partition, record); replay plans; verified takeover certificates; for a SEEDING slot the step of the seal it read;
  migration batches that a mirror keeps: (partition, slot, batch). -/
  watch   : NatMap (List CopyMsg) := []
  staging : NatMap (List JRec) := []
  drives  : NatMap DriveImage := []
  epochWait : NatMap (Nat × Nat × Nat) := []
  compacting : List Nat := []
  lastEngine : NatMap (List RedirectEnt × List MigBatch) := []
  inputs  : NatMap (List (Nat × InputEntry)) := []
  ilogs   : List (Nat × InputRec) := []
  plans   : NatMap InputRec := []
  certs   : NatMap (List Byte) := []
  seedFrom : NatMap Nat := []
  /-- Where the next entry of a watch slot's log begins in its ring, by 4 * partition + slot (R344). -/
  logTail : NatMap Nat := []
  mirBatches : List (Nat × Nat × MigBatch) := []
  /-- The kind of the fault that caused SAFE (R327). -/
  safeKind : Nat := 0
  /-- Host ports with Memory Space Enable clear (R381), and ports whose access to locked BAR4 has been noted (R366). -/
  mseOff  : List Nat := []
  bar4Noted : List Nat := []
  /-- Fabric ports whose PHY failed calibration at boot (R475); voltage setpoints of the compute dies in mV (R468). -/
  fabBad  : List Nat := []
  /-- Training failures of a port, unsaturated (R312). -/
  trainFails : NatMap Nat := []
  vset    : NatMap Nat := []
  /-- Per die, the sensors that caused throttling and the 100 µs intervals since all of them were at 97.0 °C or less (R473); sensors in an
  excursion above 105.0 °C (R474). -/
  thermBy : NatMap (List Nat) := []
  thermCool : NatMap Nat := []
  tempOver : List Nat := []
  /-- Per partition, milliseconds below 95 % of the cap, and above it with every die at CAP_LVL 7 (R471). -/
  capLow  : NatMap Nat := []
  capHigh : NatMap Nat := []
  /-- Dies limited for current (R469); by 4 * link + rail select, failed AVSBus transactions in succession and the last ten readings in mV and
  mA, newest first; links that have failed (R463). -/
  curLim  : List Nat := []
  avsFails : NatMap Nat := []
  rails   : NatMap (List (Nat × Nat)) := []
  avsDown : List Nat := []
  /-- The always-on domain is up, and the outputs PWR_EN[g], bit g (R461, R462). -/
  vao     : Bool := true
  pwrEn   : Nat := 0
  /-- Host queues by 256 * partition + queue. -/
  hqueues : NatMap HQueue := []
  /-- The queue of a host port that has started a descriptor last (R404). -/
  qLast   : NatMap Nat := []
  /-- Subsystem identity of configuration space (R364); the manufacturing test mode (R512); a firmware image that a recovery load wrote to
  flash (R420). -/
  subsys  : Nat := 0
  mfgTest : Bool := false
  flash   : Option (List Byte) := none
  /-- The code of the check of R419 that the image in flash has failed (R420). -/
  flashBad : Option Nat := none
  /-- The debug TAP (R498, R499): instruction register, bypass bit, boundary cells and whether they drive the pins, access address, the
  access register's DATA and ERR, the last CMD_RESULT of DBG_AUTH, and what the last capture returned. -/
  tapIr   : Nat := 1
  tapBypass : Bool := false
  bscan   : BitVec 61 := 0
  bscanDrive : Bool := false
  tapAddr : Word := 0
  tapData : Word := 0
  tapErr  : Bool := false
  tapResult : Nat := 0
  tapOut  : Nat := 0
  /-- The word that the last debug read through a port returned (R220, R250, R496). -/
  readOut : Word := 0
  hostOut : List HostWrite := []
  hostReads : List HostRead := []
  /-- MSI-X table words that differ from their reset value, by 2048 * port + word, and vectors pending while masked: (port, vector) (R363,
  R365). -/
  msix    : NatMap Nat := []
  msixPend : List (Nat × Nat) := []
  /-- MSI-X vectors raised: (port, vector). -/
  irqs    : List (Nat × Nat) := []
  deriving DecidableEq, Repr

/-- Why a command stops the machine. No meaning raises it: every address is checked by the command that names it, as the
specification says (safe: it never hides an effect). -/
inductive Fault where
  | noSuchCell
  deriving DecidableEq, Repr

/-- Why a command has no meaning. Raised only by the arms of Dispatch.lean that name the command (safe). -/
inductive Refusal where
  | notModelled (mnemonic : String)
  deriving DecidableEq, Repr

/-- Right after power-on reset (spec/18 R475, R477): registers at their reset values, memories with nothing listed, no command waiting. -/
def State.reset : State := { }

end Sys2Proof.Machine
end

