-- ==== Sys2Proof/Machine/Ops.lean ====
section
/-!
DEFINITION. The named operations on the state: maps, register fields, memories, signals, fault messages, and the entries of
HOLD and SAFE. Every meaning is written over these.
-/

namespace Sys2Proof.Machine

/-! ### Maps with rising keys -/

def mapGet {β : Type} (dflt : β) : NatMap β → Nat → β
  | [], _ => dflt
  | (k, v) :: m, i => if k = i then v else mapGet dflt m i

def mapFind {β : Type} : NatMap β → Nat → Option β
  | [], _ => none
  | (k, v) :: m, i => if k = i then some v else mapFind m i

def mapSet {β : Type} : NatMap β → Nat → β → NatMap β
  | [], i, v => [(i, v)]
  | (k, w) :: m, i, v => if i < k then (i, v) :: (k, w) :: m else if i = k then (i, v) :: m else (k, w) :: mapSet m i v

def mapErase {β : Type} : NatMap β → Nat → NatMap β
  | [], _ => []
  | (k, w) :: m, i => if k = i then mapErase m i else (k, w) :: mapErase m i

/-- Keys outside [lo, hi). -/
def mapDropRange {β : Type} (m : NatMap β) (lo hi : Nat) : NatMap β :=
  m.filter (fun kv => kv.1 < lo || hi ≤ kv.1)

/-! ### Register fields (R11, R12, R502) -/

/-- The bit address of a field: partition (4 for package-wide arrays), byte offset and lowest bit. -/
def fieldKey (f : Reg) (p i j : Nat) : Nat :=
  (if f.pkg then 4 else p) * 2 ^ 40 + 8 * (f.base + i * f.stride + j * f.stride2) + f.lsb

/-- The value of field f of partition p, element (i, j). -/
def rd (s : State) (p : Nat) (f : Reg) (i : Nat := 0) (j : Nat := 0) : Nat :=
  mapGet f.reset s.regs (fieldKey f p i j)

/-- s with field f of partition p, element (i, j), holding v modulo the field's width. -/
def wr (s : State) (p : Nat) (f : Reg) (v : Nat) (i : Nat := 0) (j : Nat := 0) : State :=
  let v := v % 2 ^ f.width
  let k := fieldKey f p i j
  { s with regs := if v = f.reset then mapErase s.regs k else mapSet s.regs k v }

/-- A one-bit field. -/
def rdb (s : State) (p : Nat) (f : Reg) (i : Nat := 0) (j : Nat := 0) : Bool := rd s p f i j == 1
def wrb (s : State) (p : Nat) (f : Reg) (b : Bool) (i : Nat := 0) (j : Nat := 0) : State := wr s p f b.toNat i j

/-- Add n, stopping at the largest value of the field ("saturates"). -/
def wrSat (s : State) (p : Nat) (f : Reg) (n : Nat) (i : Nat := 0) (j : Nat := 0) : State :=
  wr s p f (min (rd s p f i j + n) (2 ^ f.width - 1)) i j

/-- Add n modulo the field's width ("wraps silently"). -/
def wrAdd (s : State) (p : Nat) (f : Reg) (n : Nat) (i : Nat := 0) (j : Nat := 0) : State :=
  wr s p f (rd s p f i j + n) i j

/-! ### Parts of the package (R15, R16, R28, R31) -/

def partCount : PMode → Nat
  | .pm1 => 1 | .pm2 => 2 | .pm4 => 4

def partOfDie (s : State) (d : Nat) : Nat :=
  match s.mode with
  | .pm1 => 0 | .pm2 => d / 2 | .pm4 => d

def dieOfTile (t : Nat) : Nat := t / 64
def clusterOfTile (t : Nat) : Nat := t / 8
def partOfTile (s : State) (t : Nat) : Nat := partOfDie s (t / 64)
def partOfCluster (s : State) (c : Nat) : Nat := partOfDie s (c / 8)
def partOfStack (s : State) (k : Nat) : Nat := partOfDie s (k / 6)
def partOfFPort (s : State) (f : Nat) : Nat := partOfDie s (f / 3)
def partOfLPort (s : State) (k : Nat) : Nat := partOfDie s k

def diesOf (s : State) (p : Nat) : List Nat := (List.range 4).filter (fun d => partOfDie s d = p)
def tilesOf (s : State) (p : Nat) : List Nat := (List.range 256).filter (fun t => partOfTile s t = p)
def stacksOf (s : State) (p : Nat) : List Nat := (List.range 24).filter (fun k => partOfStack s k = p)
def clustersOf (s : State) (p : Nat) : List Nat := (List.range 32).filter (fun c => partOfCluster s c = p)
def fportsOf (s : State) (p : Nat) : List Nat := (List.range 12).filter (fun f => partOfFPort s f = p)
def partsAll (s : State) : List Nat := List.range (partCount s.mode)

/-- Fabric counters of one partition's share (R31). -/
def fabShare (s : State) : Nat :=
  match s.mode with
  | .pm1 => 1024 | .pm2 => 512 | .pm4 => 256

/-- The controlling host port of a partition (R28). -/
def ctrlPort (s : State) (p : Nat) : Nat :=
  match s.mode with
  | .pm1 => 0 | .pm2 => 2 * p | .pm4 => p

/-- A port's role, PART_CFG.ROLE: 0 controlling, 1 feeder, 2 unassigned (R28, R29, R35). -/
def portRole (s : State) (h : Nat) : Nat :=
  match s.mode with
  | .pm1 => if h = 0 then 0 else 1
  | .pm2 => if h % 2 = 0 then 0 else 2
  | .pm4 => 0

/-- The partition of a port; 0 for an unassigned one (R35). -/
def portPart (s : State) (h : Nat) : Nat :=
  match s.mode with
  | .pm1 => 0
  | .pm2 => if h % 2 = 0 then h / 2 else 0
  | .pm4 => h

/-- PART_STATE (R35): 0 READY, 1 HOLD, 2 SAFE. -/
def partState (s : State) (p : Nat) : Nat := if s.safe then 2 else rd s p R.PART_CFG_PART_STATE
def isReady (s : State) (p : Nat) : Bool := partState s p == 0
def isHold (s : State) (p : Nat) : Bool := partState s p == 1

/-- A freeze source covers the partition and it has not thawed (spec/19 R486, R501). -/
def frozen (s : State) (p : Nat) : Bool := rd s p R.ST_FREEZE_FSTATE != 0

/-- Units of the partition may start work: not SAFE, READY, not frozen. -/
def running (s : State) (p : Nat) : Bool := !s.safe && isReady s p && !frozen s p

/-- Clocks run: not SAFE and not frozen (HOLD included). -/
def clocked (s : State) (p : Nat) : Bool := !s.safe && !frozen s p

/-- ST_NOW of a partition as one 64-bit value (R9, R51). -/
def stNow (s : State) (p : Nat) : Nat := rd s p R.ST_NOW_STEP * 65536 + rd s p R.ST_NOW_PHASE
def setStNow (s : State) (p v : Nat) : State := wr (wr s p R.ST_NOW_STEP (v / 65536)) p R.ST_NOW_PHASE v

/-! ### Tiles -/

def tile (s : State) (t : Nat) : TileState := mapGet default s.tiles t
def setTile (s : State) (t : Nat) (x : TileState) : State := { s with tiles := mapSet s.tiles t x }
def queue (s : State) (t q : Nat) : EngQueue := mapGet default (tile s t).queues q
def setQueue (s : State) (t q : Nat) (x : EngQueue) : State :=
  setTile s t { tile s t with queues := mapSet (tile s t).queues q x }

/-- A general register; g0 reads 0 (R166). -/
def getG (s : State) (t : Nat) (r : BitVec 5) : Word := if r = 0 then 0 else mapGet 0 (tile s t).gpr r.toNat

/-- Write a general register; a write to g0 is discarded (R166). -/
def setG (s : State) (t : Nat) (r : BitVec 5) (v : Word) : State :=
  if r = 0 then s else setTile s t { tile s t with gpr := mapSet (tile s t).gpr r.toNat v }

/-! ### Memories -/

/-- Insert or replace a cell, keeping addresses rising. -/
def cellSet : List Host.Cell → Nat → Byte → List Host.Cell
  | [], a, b => [(a, b)]
  | (k, c) :: m, a, b => if a < k then (a, b) :: (k, c) :: m else if a = k then (a, b) :: m else (k, c) :: cellSet m a b

def cellErase : List Host.Cell → Nat → List Host.Cell
  | [], _ => []
  | (k, c) :: m, a => if a = k then m else (k, c) :: cellErase m a

def cellGet : List Host.Cell → Nat → Option Byte
  | [], _ => none
  | (k, c) :: m, a => if k = a then some c else cellGet m a

/-- Addresses strictly rise from above `lo`. -/
def cellsRise : Option Nat → List Host.Cell → Bool
  | _, [] => true
  | none, (k, _) :: m => cellsRise (some k) m
  | some l, (k, _) :: m => decide (l < k) && cellsRise (some k) m

/-- The canonical form of the on-chip memories: addresses rise and no listed byte is 0, what an unlisted address reads as. -/
def Memory.wf (m : List Host.Cell) : Bool := cellsRise none m && m.all (fun c => c.2 != 0)

/-- The canonical form of HBM: addresses rise; an unlisted byte has no known value, so every listed byte differs from it. -/
def Memory.wfHbm (m : List Host.Cell) : Bool := cellsRise none m

def sramGet (s : State) (a : Nat) : Byte := (cellGet s.sram a).getD 0
def sramSetCell (m : List Host.Cell) (a : Nat) (b : Byte) : List Host.Cell := if b = 0 then cellErase m a else cellSet m a b
def sramSet (s : State) (a : Nat) (b : Byte) : State := { s with sram := sramSetCell s.sram a b }

def sramCells : List Host.Cell → Nat → List Byte → List Host.Cell
  | m, _, [] => m
  | m, a, b :: bs => sramCells (sramSetCell m a b) (a + 1) bs
def sramWrite (s : State) (a : Nat) (bs : List Byte) : State := { s with sram := sramCells s.sram a bs }
def sramRead (s : State) (a n : Nat) : List Byte := (List.range n).map (fun i => sramGet s (a + i))

def hbmCells : List Host.Cell → Nat → List Byte → List Host.Cell
  | m, _, [] => m
  | m, a, b :: bs => hbmCells (cellSet m a b) (a + 1) bs
def hbmWrite (s : State) (a : Nat) (bs : List Byte) : State := { s with hbm := hbmCells s.hbm a bs }
/-- A byte of HBM as an unchecked reader sees it; unwritten bytes are free values (R288). -/
def hbmGet (s : State) (a : Nat) : Byte := (cellGet s.hbm a).getD (Config.hbmByte s.hbmGen a)
def hbmRead (s : State) (a n : Nat) : List Byte := (List.range n).map (fun i => hbmGet s (a + i))
/-- The bytes when every one of them is known. -/
def hbmKnown (s : State) (a n : Nat) : Option (List Byte) := (List.range n).mapM (fun i => cellGet s.hbm (a + i))

/-- Forget the cells of [a, a + n). -/
def cellsDrop (m : List Host.Cell) (a n : Nat) : List Host.Cell := m.filter (fun c => c.1 < a || a + n ≤ c.1)

/-- HBM bytes of a range become unknown. -/
def hbmForget (s : State) (a n : Nat) : State := { s with hbm := cellsDrop s.hbm a n, hbmGen := s.hbmGen + 1 }

/-- n free bytes with a fresh tag. -/
def freshBytes (s : State) (n : Nat) : List Byte := (List.range n).map (Config.freeByte s.freeCtr)
def freshNat (s : State) (i : Nat := 0) : Nat := Config.freeNat s.freeCtr i
def tickFree (s : State) : State := { s with freeCtr := s.freeCtr + 1 }

/-- On-chip bytes of a range take free values (R190, R222, R252). -/
def sramForget (s : State) (a n : Nat) : State := tickFree (sramWrite s a (freshBytes s n))

/-- Keys of the on-chip memories (R166, R167, R203, R241, R272). -/
def spKey (t off : Nat) : Nat := 1 * 2 ^ 40 + t * 2 ^ 22 + off
def clmKey (c off : Nat) : Nat := 2 * 2 ^ 40 + c * 2 ^ 24 + off
def accKey (t off : Nat) : Nat := 3 * 2 ^ 40 + t * 2 ^ 18 + off
def sideKey (t off : Nat) : Nat := 4 * 2 ^ 40 + t * 2 ^ 18 + off
def imemKey (t off : Nat) : Nat := 5 * 2 ^ 40 + t * 2 ^ 16 + off
def dmemKey (t off : Nat) : Nat := 6 * 2 ^ 40 + t * 2 ^ 16 + off
def resKey (t off : Nat) : Nat := 7 * 2 ^ 40 + t * 2 ^ 15 + off
/-- Key of an HBM byte. -/
def hbmKey (stack off : Nat) : Nat := stack * 2 ^ 36 + off

/-! ### What leaves the package -/

/-- A write through a host port: without attributes, but for data written through a window (R370). -/
def hostWrite (s : State) (port addr : Nat) (bs : List Byte) (ns relaxed : Bool := false) (pasid : Option Nat := none) : State :=
  { s with hostOut := s.hostOut ++ [⟨port, addr, bs, ns, relaxed, pasid⟩] }
def hostRead (s : State) (port addr len : Nat) (ns : Bool := false) (pasid : Option Nat := none) : State :=
  { s with hostReads := s.hostReads ++ [⟨port, addr, len, ns, pasid⟩] }

/-- Word i of a port's MSI-X table; word 3 of a vector is its control word, which resets masked (R363, R365, log 69). -/
def msixWord (s : State) (h i : Nat) : Nat := mapGet (if i % 4 = 3 then 1 else 0) s.msix (2048 * h + i)
def vecMasked (s : State) (h v : Nat) : Bool := bitAt (msixWord s h (4 * v + 3)) 0

/-- Raise an MSI-X vector: a masked one is pending. -/
def raiseIrq (s : State) (port vec : Nat) : State :=
  if vecMasked s port vec then { s with msixPend := s.msixPend.filter (· != (port, vec)) ++ [(port, vec)] }
  else { s with irqs := s.irqs ++ [(port, vec)] }

/-! ### Source IDs (R441) -/

def srcTile (t sub : Nat) : Nat := (t / 64) * 2 ^ 13 + (t % 64) * 2 ^ 7 + sub
def srcCluster (c sub : Nat) : Nat := (c / 8) * 2 ^ 13 + (8 * (c % 8)) * 2 ^ 7 + sub
def srcDie (d sub : Nat) : Nat := d * 2 ^ 13 + sub
def srcHub (unit sub : Nat) : Nat := 4 * 2 ^ 13 + unit * 2 ^ 7 + sub
def srcQueue (p q : Nat) : Nat := srcHub (32 + 2 * p + q / 128) (q % 128)
def srcStack (k sub : Nat) : Nat := 5 * 2 ^ 13 + k * 2 ^ 7 + sub

def srcTransport : Nat := srcHub 20 0
/-- Session k = 32 * port + entry. -/
def srcSess (k : Nat) : Nat := srcHub (8 + k / 32) (1 + k % 32)

/-! ### Fault messages (R442) -/

/-- Queue a message for the collector with the Step Times at detection (R442, R443). -/
def sendFault (s : State) (m : FaultMsg) : State := { s with faultQ := s.faultQ ++ [⟨m, (partsAll s).map (stNow s)⟩] }

def mkFault (src : Nat) (k : Kind) (p : Nat) (addr detail : Nat) : FaultMsg :=
  { source := BitVec.ofNat 16 src, kind := BitVec.ofNat 12 k.code, cls := BitVec.ofNat 2 k.cls,
    part := some (Fin.ofNat 4 p), addr := BitVec.ofNat 64 addr, detail := BitVec.ofNat 8 detail }

/-! ### Frames and sessions (R316, R320, R322 to R324) -/

/-- The node a message is for; none for a LINK frame. -/
def bodyNode : Body → Option Nat
  | .write n _ _ _ _ | .read n _ _ _ _ | .inc n _ _ _ | .lookupReq n _ | .fwdReq n _ | .lookupResp n _ | .partialResp n _
  | .hotReply n _ | .contribution n _ | .contribAck n _ | .fwdAck n _ _ _ _ _ | .withdrawal n _ | .migCopy n _ | .migAck n _ _ _ _ _
  | .copy n _ | .share n _ | .report n _ | .beacon n _ | .sdPartial n _ | .sdResult n _ | .moved n _ | .readData n _ | .visible n
  | .segment n _ _ _ => some n
  | .hotRead m => some m.home.node.toNat
  | .frame m => some m.dst.toNat
  | .link _ _ _ | .takeover _ _ _ => none

/-- Traffic classes (R316). A copy of a contribution, a withdrawal or a migration copy for the partner is of the class of what it copies. -/
def bodyClass : Body → Nat
  | .lookupReq _ _ | .fwdReq _ _ | .hotRead _ => 1
  | .lookupResp _ _ | .partialResp _ _ | .hotReply _ _ => 2
  | .contribution _ _ | .contribAck _ _ | .fwdAck _ _ _ _ _ _ | .withdrawal _ _ | .migCopy _ _ | .migAck _ _ _ _ _ _ | .moved _ _ => 3
  | .inc _ _ _ _ => 4
  | .report _ _ | .beacon _ _ | .sdPartial _ _ | .sdResult _ _ => 5
  | .write _ _ _ _ _ | .read _ _ _ _ _ | .readData _ _ | .visible _ | .segment _ _ _ _ => 6
  | .copy _ m => if m.contrib.isSome || m.typ == 3 || m.typ == 4 then 3 else 7
  | .share _ _ => 7
  | .frame m => m.cls.toNat
  | .link _ _ _ => 0
  | .takeover _ _ _ => 8

/-- SRC_UNIT where the message itself names its origin (R315, R441): a Sumac engine, a Clove unit, the Step Time unit, the resilience unit,
the counter's source; else the transport unit. -/
def bodyUnit : Body → Nat
  | .lookupReq _ m => m.srcUnit.toNat
  | .fwdReq _ m => srcStack m.homeStack.toNat 0
  | .lookupResp _ m | .partialResp _ m => srcStack m.stack.toNat 0
  | .contribution _ m => srcCluster m.srcCluster.toNat 0x40
  | .withdrawal _ m => srcCluster m.srcCluster.toNat 0x40
  | .fwdAck _ k _ _ _ _ | .migAck _ k _ _ _ _ => srcStack k 0
  | .migCopy _ m => srcStack m.srcStack.toNat 0
  | .inc _ src _ _ => src
  | .report _ _ | .beacon _ _ => srcHub 21 0
  | .copy _ _ | .share _ _ | .takeover _ _ _ => srcHub 30 0
  | .segment _ _ _ slot => srcHub 20 (0x10 + slot)
  | .frame m => m.srcUnit.toNat
  | _ => srcTransport

/-- STRIPE of a message (R315). -/
def bodyStripe : Body → Nat
  | .segment _ _ stripe _ => stripe
  | .frame m => m.stripe.toNat
  | _ => 0

/-- MSG_ID where the message itself holds it (R315). -/
def bodyMsgId : Body → Nat
  | .lookupReq _ m => m.msgId.toNat
  | .fwdReq _ m => m.msgId.toNat
  | .lookupResp _ m | .partialResp _ m => m.msgId.toNat
  | .frame m => m.msgId.toNat
  | _ => 0

/-- Payload bytes of a message: those that it carries, or those of a message whose layout is not stated (Config). -/
def bodyLen : Body → Nat
  | .write _ _ _ _ bs | .readData _ bs => bs.length
  | .segment _ m _ _ => m.data.length
  | .frame m => m.body.length
  | .copy _ m | .share _ m => m.payload.length
  | .takeover _ _ cert => cert.length
  | .lookupReq _ m => Config.msgLen 1 m.entries.length
  | .fwdReq _ m => Config.msgLen 2 m.entries.length
  | .lookupResp _ m | .partialResp _ m => Config.msgLen 3 ((m.data.map (fun r => r.elems.length)).foldl (· + ·) 0)
  | .hotReply _ m => Config.msgLen 4 (match m.record with | some bs => bs.length | none => 0)
  | .contribution _ m => Config.msgLen 5 m.grad.length
  | .migCopy _ m => Config.msgLen 6 m.record.length
  | _ => Config.msgLen 0 0

/-- Largest payload of a frame (R335). -/
def maxPayload (s : State) (p : Nat) : Nat := 1024 * 2 ^ rd s p R.FAB_CTRL_MAX_PAYLOAD

/-- Frames of n payload bytes. -/
def frameCount (s : State) (p n : Nat) : Nat := max 1 ((n + maxPayload s p - 1) / maxPayload s p)

def sess (s : State) (k : Nat) : Sess := mapGet default s.sess k
def setSess (s : State) (k : Nat) (x : Sess) : State := { s with sess := mapSet s.sess k x }
def sessOpen (s : State) (k : Nat) : Bool := rdb s 4 R.FP_PEER_OPEN (k / 32) (k % 32)

/-- The admitted sessions of a partition to a next hop, in ascending port number (R323). -/
def sessionsTo (s : State) (p hop : Nat) : List Nat :=
  (fportsOf s p).flatMap (fun f => ((List.range 32).map (fun i => 32 * f + i)).filter
    (fun k => sessOpen s k && rd s 4 R.FP_PEER_NODE f (k % 32) == hop))

/-- The hash of a flow and its stripe (R323). -/
def flowHash (src unit : Nat) (b : Body) (dst : Nat) : Nat × Nat :=
  let src := match b with | .frame m => m.src.toNat | _ => src
  (crc32c (leBytes 2 src ++ leBytes 2 unit ++ leBytes 2 dst ++ leBytes 1 (bodyClass b)), bodyStripe b)

/-- Bytes of a frame in the replay buffer: its payload and 66 bytes, or 70 with the tag (R313). -/
def frameBytes (s : State) (x : FabFrame) : Nat :=
  let p := x.msg.part
  min (maxPayload s p) (bodyLen x.msg.body - x.frag * maxPayload s p) + if rdb s p R.FAB_CTRL_VLAN_EN then 70 else 66

/-- Bytes that wait for acknowledgement in a port's replay buffer (R320). -/
def replayBytes (s : State) (f : Nat) : Nat :=
  (List.range 32).foldl (fun a i => (sess s (32 * f + i)).unacked.foldl (fun a u => a + frameBytes s u.frame) a) 0

/-- A direction of a session has a new key after every 2^40 frames (R321). -/
def countKey (n : Nat) (e : Byte) : Nat × Byte := if n + 1 = 2 ^ 40 then (0, e + 1) else (n + 1, e)

/-- "next" (R432). -/
def labelNext : List Byte := [110, 101, 120, 116].map (BitVec.ofNat 8)

/-- With the first frame of a new key the direction's secret is the next one, and the former is erased (R432). -/
def nextSecret (n secret : Nat) : Nat := if n = 0 then Config.hkdf secret labelNext else secret

/-- A session sends a frame: it takes the next SEQ and stays in the replay buffer (R320, R321). -/
def sendSess (s : State) (k : Nat) (x : FabFrame) : State :=
  let e := sess s k
  let (n, ep) := countKey e.txKey e.txEpoch
  let s := setSess s k { e with tx := e.tx + 1, txKey := n, txEpoch := ep, txSecret := nextSecret n e.txSecret, unacked := e.unacked ++ [{ seq := e.tx, frame := x }] }
  { s with wire := s.wire ++ [wireFrame k e.tx e.txEpoch false x] }

/-- The session of a frame's flow among those to a next hop (R323); a takeover announcement is for one peer entry (R359). -/
def flowSess (s : State) (hop : Nat) (x : FabFrame) : Option Nat :=
  match x.msg.body with
  | .takeover f i _ => if sessOpen s (32 * f + i) then some (32 * f + i) else none
  | _ =>
  let l := sessionsTo s x.msg.part hop
  let (h, j) := flowHash (rd s x.msg.part R.FAB_NODE_NODE_ID) x.unit x.msg.body ((bodyNode x.msg.body).getD 0)
  l[(h + j) % l.length]?

/-- SESS_UP follows the OPEN bits of the port. -/
def countSess (s : State) (f : Nat) : State :=
  wr s 4 R.FP_STATUS_SESS_UP (((List.range 32).map (fun i => 32 * f + i)).filter (sessOpen s)).length f

/-- An entry has no session any more: the frames it has not had acknowledged wait ahead of later ones (R324). What its refusal episode has
noted stays. -/
def shutSess (s : State) (k : Nat) : State :=
  let e := sess s k
  let s := setSess s k { refused := e.refused, conflict := e.conflict }
  if sessOpen s k then
    let s := countSess (wrb s 4 R.FP_PEER_OPEN false (k / 32) (k % 32)) (k / 32)
    { s with fabWait := e.unacked.map (fun u => (partOfFPort s (k / 32), rd s 4 R.FP_PEER_NODE (k / 32) (k % 32), u.frame)) ++ s.fabWait }
  else s

/-- A session of a counter that would reach 2^48 under its key closes (R321). -/
def exhaustSess (s : State) (k : Nat) : State :=
  sendFault (shutSess s k) (mkFault (srcSess k) K.LINK_KEY_EXHAUSTED (partOfFPort s (k / 32)) 0 0)

/-- The peer entry that an announcement is for. -/
def bodyEntry : Body → Option (Nat × Nat)
  | .takeover f i _ => some (f, i)
  | _ => none

/-- Two frames are of one flow (R323). -/
def sameFlow (x y : FabFrame) : Bool :=
  bodyEntry x.msg.body == bodyEntry y.msg.body &&
  x.unit == y.unit && bodyNode x.msg.body == bodyNode y.msg.body && bodyClass x.msg.body == bodyClass y.msg.body
    && bodyStripe x.msg.body == bodyStripe y.msg.body

/-- Send a frame to a next hop on the session of its flow; it waits for a session (R324), for room in the port's replay buffer (R320), or
behind frames of its flow that wait. -/
def sendHop (s : State) (hop : Nat) (x : FabFrame) : State :=
  let wait (s : State) : State := { s with fabWait := s.fabWait ++ [(x.msg.part, hop, x)] }
  if s.fabWait.any (fun w => w.1 == x.msg.part && w.2.1 == hop && sameFlow w.2.2 x) then wait s
  else match flowSess s hop x with
    | some k =>
      if 2 ^ 48 - 1 ≤ (sess s k).tx then wait (exhaustSess s k)
      else if replayBytes s (k / 32) + frameBytes s x ≤ 2 ^ 20 then sendSess s k x else wait s
    | none => wait s

/-- Frames of a partition that wait are offered to their sessions again, in order. -/
def drainWait (s : State) (p : Nat) : State :=
  if s.fabWait.any (fun w => w.1 == p) then
    (s.fabWait.filter (fun w => w.1 == p)).foldl (fun s w => sendHop s w.2.1 w.2.2) { s with fabWait := s.fabWait.filter (fun w => w.1 != p) }
  else s

/-- The frames of a message (R313, R315). -/
def msgFrames (s : State) (x : Sent) (unit msgId : Nat) : List FabFrame :=
  let n := frameCount s x.part (bodyLen x.body)
  (List.range n).map (fun i => ⟨x, unit, msgId, i, i + 1 == n⟩)

/-- A message leaves its unit: the hub hands one for the own node to its unit, another goes to the node's next hop (R322); a takeover
announcement goes to its peer entry (R359). -/
def post (s : State) (p : Nat) (b : Body) (unit : Nat := bodyUnit b) (msgId : Nat := bodyMsgId b) : State :=
  let s := { s with outbox := s.outbox ++ [⟨p, b⟩] }
  match b, bodyNode b with
  | .takeover f i _, _ => sendHop s (rd s 4 R.FP_PEER_NODE f i) ⟨⟨p, b⟩, unit, msgId, 0, true⟩
  | _, some n => if n = rd s p R.FAB_NODE_NODE_ID ∨ !rdb s p R.ROUTE_VALID n then s
      else drainWait ((msgFrames s ⟨p, b⟩ unit msgId).foldl (fun s x => sendHop s (rd s p R.ROUTE_NEXT_HOP n) x) s) p
  | _, none => s

end Sys2Proof.Machine
end

