-- ==== Sys2Proof/Machine/Operands.lean ====
section
/-!
DEFINITION. Operand forms: command headers (spec/06 R176), counter names (spec/09 R254, R255), device addresses (spec/10 R269 to R271)
and host windows (spec/14 R368).
-/

namespace Sys2Proof.Machine

/-! ### Presence (R17 to R22) -/

/-- Engine of a queue: 0 matrix, 1 vector, 2 row, 3 DMA; queue 4 follows the matrix engine (R181). -/
def engineOfQueue (q : Nat) : Nat := if q = 4 then 0 else q

def tilePresent (s : State) (t : Nat) : Bool := !(s.fusedTiles.contains t || s.retiredTiles.contains t)
def enginePresent (s : State) (t e : Nat) : Bool := tilePresent s t && !(s.retiredEngines.contains (t, e))

/-- The presence byte of a tile (R21, R22). -/
def presenceByte (s : State) (t : Nat) : Nat :=
  if tilePresent s t then
    1 + (List.range 4).foldl (fun a e => a + if enginePresent s t e then 2 ^ (e + 1) else 0) 0
  else 0

/-- Depth of a queue; 0 when its engine is absent (R175, R209). -/
def queueDepth (s : State) (t q : Nat) : Nat :=
  if enginePresent s t (engineOfQueue q) then (match q with | 0 => 16 | 1 => 16 | 2 => 8 | _ => 32) else 0

/-! ### Outcomes of a refused command -/

/-- A completion status and the fault that goes with it. -/
structure Refuse where
  status : Nat
  fault  : Option CmdFault := none
  deriving DecidableEq, Repr

def withFault (st : Nat) (k : Kind) (addr : Nat := 0) : Refuse := ⟨st, some ⟨k.code, k.cls, addr⟩⟩
def badDesc : Refuse := withFault St.BAD_DESC K.BAD_DESC
def denied : Refuse := withFault St.ACCESS_DENIED K.PARTITION_BOUNDARY
def unitAbsent : Refuse := ⟨St.UNIT_ABSENT, none⟩
def checksumBad : Refuse := withFault St.CHECKSUM_MISMATCH K.CHECKSUM_MISMATCH
def keyAbsent : Refuse := withFault St.ACCESS_DENIED K.HBM_KEY_ABSENT
def hostAbort : Refuse := withFault St.HOST_ABORT K.HOST_DMA_ERROR
def windowDenied : Refuse := withFault St.ACCESS_DENIED K.HOST_WINDOW_DENIED

/-- The first failing check. -/
def firstRefuse : List (Option Refuse) → Option Refuse
  | [] => none
  | some r :: _ => some r
  | none :: rs => firstRefuse rs

/-- The refusal of several checks: BAD_DESC goes before every other one, for it has no other effect (R180); else the first. -/
def pickRefuse (l : List (Option Refuse)) : Option Refuse := if l.contains (some badDesc) then some badDesc else firstRefuse l

def checkIf (bad : Bool) (r : Refuse) : Option Refuse := if bad then some r else none

/-! ### Counter names -/

/-- What a counter name names. -/
inductive NameRes where
  | ctr (c : CtrRef)
  | remote (node : Nat) (index : Nat)
  | malformed
  | foreign
  deriving DecidableEq, Repr

/-- The node identities of the other partitions of the package; a partition's own identity names itself, also where another has the same. -/
def otherNodes (s : State) (p : Nat) : List Nat :=
  (((partsAll s).filter (· != p)).map (fun p' => rd s p' R.FAB_NODE_NODE_ID)).filter (· != rd s p R.FAB_NODE_NODE_ID)

/-- Resolve a counter name of partition p (R254, R255). -/
def resolveName (s : State) (p : Nat) (n : Half) : NameRes :=
  let x := n.toNat
  let idx := bitsOf x 0 12
  let die := bitsOf x 12 2
  let sp := bitsOf x 14 2
  let node := bitsOf x 16 12
  let fab := if idx < fabShare s then NameRes.ctr (.fab (Fin.ofNat 4 p) (Fin.ofNat 1024 idx)) else .malformed
  if bitsOf x 28 4 ≠ 0 ∨ sp = 3 ∨ (sp ≠ 0 ∧ die ≠ 0) ∨ (sp < 2 ∧ node ≠ 0) then .malformed
  else if sp = 0 then
    (if partOfDie s die = p then .ctr (.die (Fin.ofNat 4 die) (Fin.ofNat 4096 idx)) else .foreign)
  else if sp = 1 then fab
  else if node = rd s p R.FAB_NODE_NODE_ID then fab
  else if (otherNodes s p).contains node then .foreign
  else .remote node idx

/-- The value of a counter. -/
def ctrVal (s : State) : CtrRef → Nat
  | .die d i => rd s 4 R.DIE_CTR_VALUE d i
  | .fab p j => rd s p R.FAB_CTR_VALUE j

def setCtr (s : State) (c : CtrRef) (v : Nat) : State :=
  match c with
  | .die d i => wr s 4 R.DIE_CTR_VALUE v d i
  | .fab p j => wr s p R.FAB_CTR_VALUE v j

/-- The partition that owns a counter. -/
def ctrPart (s : State) : CtrRef → Nat
  | .die d _ => partOfDie s d
  | .fab p _ => p

/-- (int32)(x - t) >= 0 (R260). -/
def reached (x t : Half) : Bool := !(x - t).msb

def waitMet (s : State) (c : CtrRef) (target : Half) : Bool := reached (BitVec.ofNat 32 (ctrVal s c)) target

/-- Issue an increment to a counter of the package (R256, R257). -/
def issueInc (s : State) (c : CtrRef) (src : Nat) (amount : Nat) : State :=
  { s with incs := s.incs ++ [⟨c, src, BitVec.ofNat 32 amount⟩] }

/-- A die-counter field of a descriptor, applied on die d: adds 1 (R254, R256). -/
def signalDie (s : State) (d i : Nat) (src : Nat) : State :=
  issueInc s (.die (Fin.ofNat 4 d) (Fin.ofNat 4096 i)) src 1

/-! ### Device addresses -/

inductive Space where
  | hbm (raw : Bool) (stack off : Nat)
  | clm (c off : Nat)
  | sp (t off : Nat)
  | win (w off : Nat)
  | remote (raw : Bool) (node stack off : Nat)
  | inter (raw : Bool) (die off : Nat)
  deriving DecidableEq, Repr

/-- The data bytes of a stack: below the side area (R278). -/
def hbmData : Nat := 0xFFC000000
/-- The data bytes of a die's interleaved space (R269). -/
def interData : Nat := 0x5FE8000000

/-- Parse a device address; none for a reserved region, a reserved bit or a stack above 23 (R269, R271). -/
def parseDev (a : Nat) : Option Space :=
  match a / 2 ^ 60 with
  | 0 => if bitsOf a 41 18 = 0 ∧ bitsOf a 36 5 < 24 then some (.hbm (bitAt a 59) (bitsOf a 36 5) (bitsOf a 0 36)) else none
  | 1 => if bitsOf a 29 31 = 0 then some (.clm (bitsOf a 24 5) (bitsOf a 0 24)) else none
  | 2 => if bitsOf a 30 30 = 0 then some (.sp (bitsOf a 22 8) (bitsOf a 0 22)) else none
  | 3 => if bitsOf a 56 4 = 0 then some (.win (bitsOf a 48 8) (bitsOf a 0 48)) else none
  | 4 => if bitsOf a 53 6 = 0 ∧ bitsOf a 36 5 < 24 then
      some (.remote (bitAt a 59) (bitsOf a 41 12) (bitsOf a 36 5) (bitsOf a 0 36)) else none
  | 5 => if bitsOf a 41 18 = 0 then some (.inter (bitAt a 59) (bitsOf a 39 2) (bitsOf a 0 39)) else none
  | _ => none

/-- One past the last addressable byte of a space (R271, R278). -/
def Space.size : Space → Nat
  | .hbm .. => hbmData
  | .clm .. => 2 ^ 24
  | .sp .. => 2 ^ 22
  | .win .. => 2 ^ 48
  | .remote .. => hbmData
  | .inter .. => interData

def Space.off : Space → Nat
  | .hbm _ _ o => o | .clm _ o => o | .sp _ o => o | .win _ o => o | .remote _ _ _ o => o | .inter _ _ o => o

/-- The same space n bytes further. -/
def Space.plus (x : Space) (n : Nat) : Space :=
  match x with
  | .hbm r k o => .hbm r k (o + n)
  | .clm c o => .clm c (o + n)
  | .sp t o => .sp t (o + n)
  | .win w o => .win w (o + n)
  | .remote r nd k o => .remote r nd k (o + n)
  | .inter r d o => .inter r d (o + n)

/-- Direct form of byte `off` of die d's interleaved space (R270). -/
def interToDirect (d off : Nat) : Nat × Nat :=
  let g := off / 4096
  (6 * d + g % 6, g / 6 * 4096 + off % 4096)

/-- HBM_KEY_STATE is LOADED (R288). -/
def keyLoaded (s : State) (p : Nat) : Bool := rd s p R.HBM_KEY_STATE_STATE == 1

/-- IDE_REQ is set and the port has no Secure stream (R426). -/
def ideBlocked (s : State) (h : Nat) : Bool :=
  portRole s h != 2 && rdb s (portPart s h) R.SEC_STATUS_IDE_REQ && !rdb s 4 R.HP_STATUS_IDE_ACTIVE h

/-- DMA may go through a port: link up, not in D3hot, Bus Master Enable set (R368), and no Secure stream missing (R426). -/
def portUsable (s : State) (h : Nat) : Bool :=
  rdb s 4 R.HP_STATUS_LINK_UP h && rdb s 4 R.HP_STATUS_BME h && !(s.d3hot.contains h) && !ideBlocked s h

/-- Checks of R368 for an access of n bytes. -/
def checkWindow (s : State) (p w off n : Nat) (write : Bool) : Option Refuse :=
  let ow := rd s p R.WIN_CFG_OWNER w
  firstRefuse [
    checkIf (!(rdb s p R.WIN_CFG_VALID w) || decide (rd s p R.WIN_SIZE_SIZE w < off + n)) badDesc,
    checkIf (!(rdb s p (if write then R.WIN_CFG_WR else R.WIN_CFG_RD) w)) windowDenied,
    checkIf (!(portUsable s ow)) hostAbort]

/-- The partition's own node identity (R30). -/
def ownNode (s : State) (p : Nat) : Nat := rd s p R.FAB_NODE_NODE_ID

/-- A frame for the node has a valid route entry (R322). -/
def hasRoute (s : State) (p node : Nat) : Bool := rdb s p R.ROUTE_VALID node
def noRoute : Refuse := withFault St.NO_ROUTE K.NO_ROUTE

/-- REGION 0x4 of the partition's own node is handed to the addressed unit as if it had arrived (R322). -/
def localSpace (s : State) (p : Nat) : Space → Space
  | .remote raw nd k o => if nd = ownNode s p then .hbm raw k o else .remote raw nd k o
  | x => x

/-- Checks of R271, R288 and R368 for n bytes at a device address used by partition p, in the order of R271's table. -/
def checkDev (s : State) (p a n : Nat) (write : Bool) : Option Refuse :=
  match (parseDev a).map (localSpace s p) with
  | none => some badDesc
  | some x =>
    if x.size < x.off + n then some badDesc
    else match x with
      | .hbm _ k _ => firstRefuse [checkIf (partOfStack s k != p) denied, checkIf (!keyLoaded s p) keyAbsent]
      | .inter _ d _ => firstRefuse [checkIf (partOfDie s d != p) denied, checkIf (!keyLoaded s p) keyAbsent]
      | .clm c _ => checkIf (partOfCluster s c != p) denied
      | .sp t _ => firstRefuse [checkIf (partOfTile s t != p) denied, checkIf (!tilePresent s t) unitAbsent]
      | .win w o => checkWindow s p w o n write
      | .remote _ nd _ _ =>
        firstRefuse [checkIf ((otherNodes s p).contains nd) denied, checkIf (!hasRoute s p nd) noRoute]

/-! ### Reading and writing through a device address -/

/-- The space of an address that passed its checks. -/
def devSpace (s : State) (p a : Nat) : Space := localSpace s p ((parseDev a).getD (.sp 0 0))

/-- Split n bytes at offset o into pieces that end at 4 KiB boundaries: (distance from the start, length). -/
def pieces (o n : Nat) : List (Nat × Nat) :=
  let first := min n (4096 - o % 4096)
  if n = 0 then []
  else (0, first) :: (List.range ((n - first + 4095) / 4096)).map (fun i => (first + 4096 * i, min 4096 (n - first - 4096 * i)))

/-- Offset of the CRC of the block at direct offset b (R278). -/
def crcOff (b : Nat) : Nat := 0xFFC000000 + 4 * (b / 4096)

/-- None of the n bytes at an HBM key lies in the atom that the read in progress finds poisoned (R286). -/
def unpoisoned (s : State) (key n : Nat) : Bool :=
  match s.poison with
  | some a => decide (key + n ≤ a ∨ a + 64 ≤ key)
  | none => true

/-- A block that passes the check of R86: every byte and its CRC known and matching. -/
def blockGood (s : State) (k b : Nat) : Bool :=
  unpoisoned s (hbmKey k b) 4096 && unpoisoned s (hbmKey k (crcOff b)) 4 &&
  match hbmKnown s (hbmKey k b) 4096, hbmKnown s (hbmKey k (crcOff b)) 4 with
  | some bs, some c => crc32c bs == leNat c
  | _, _ => false

/-- Write part of a block as its producer: the whole block's CRC is stored after the data (R85). None: the check failed. -/
def blockPut (s : State) (k off : Nat) (bs : List Byte) : Option State :=
  let b := off / 4096 * 4096
  if bs.length = 4096 ∨ blockGood s k b then
    let s := hbmWrite s (hbmKey k off) bs
    some (hbmWrite s (hbmKey k (crcOff b)) (leBytes 4 (crc32c (hbmRead s (hbmKey k b) 4096))))
  else none

/-- Read within one block of a stack: as a checked consumer (R86), or RAW, which a poisoned atom alone fails (R286). -/
def readBlock (s : State) (raw : Bool) (k o n : Nat) : Except Refuse (List Byte) :=
  if raw then (if unpoisoned s (hbmKey k o) n then .ok (hbmRead s (hbmKey k o) n) else .error ⟨St.CHECKSUM_MISMATCH, none⟩)
  else if blockGood s k (o / 4096 * 4096) then .ok (hbmRead s (hbmKey k o) n)
  else .error checksumBad

/-- One piece of a read; `ext` holds the bytes that come from outside, at the same distance. -/
def readPiece (s : State) (x : Space) (d n : Nat) (ext : List Byte) : Except Refuse (List Byte) :=
  match x.plus d with
  | .hbm raw k o => readBlock s raw k o n
  | .inter raw die o =>
    let (k, o') := interToDirect die o
    readBlock s raw k o' n
  | .clm c o => .ok (sramRead s (clmKey c o) n)
  | .sp t o => .ok (sramRead s (spKey t o) n)
  | .win _ _ => if d + n ≤ ext.length then .ok ((ext.drop d).take n) else .error hostAbort
  | .remote .. => if d + n ≤ ext.length then .ok ((ext.drop d).take n) else .error checksumBad

/-- Read n bytes, blocks in ascending order; on a failing block the bytes before it are delivered and the failure is returned. -/
def readPieces (s : State) (x : Space) (ext : List Byte) : List (Nat × Nat) → List Byte × Option Refuse
  | [] => ([], none)
  | (d, n) :: ps =>
    match readPiece s x d n ext with
    | .error r => ([], some r)
    | .ok bs => let (rest, e) := readPieces s x ext ps; (bs ++ rest, e)

def devRead (s : State) (x : Space) (n : Nat) (ext : List Byte) : List Byte × Option Refuse :=
  readPieces s x ext (pieces x.off n)

/-- The PASID that accesses through a window carry (R367). -/
def winPasid (s : State) (p w : Nat) : Option Nat := if rdb s p R.WIN_CFG_PASID_EN w then some (rd s p R.WIN_CFG_PASID w) else none

/-- Where a window offset lies: the owner's port and the host address. -/
def winPort (s : State) (p w : Nat) : Nat := rd s p R.WIN_CFG_OWNER w
def winAddr (s : State) (p w o : Nat) : Nat := rd s p R.WIN_BASE_BASE w * 4096 + o

/-- What a read that was issued earlier returns: nothing through a port that is lost or may no longer issue DMA (R381, R382). -/
def liveExt (s : State) (p : Nat) (x : Space) (ext : List Byte) : List Byte :=
  match x with
  | .win w _ => if portUsable s (winPort s p w) then ext else []
  | _ => ext

/-- A read of another node's HBM sends its request (R322); one through a window leaves with the window's attributes (R363, R367, R370). -/
def noteRead (s : State) (p : Nat) (x : Space) (n : Nat) (unit : Nat := srcTransport) (msg : Nat := 0) : State :=
  match x with
  | .remote raw nd k o => post s p (.read nd raw k o n) unit msg
  | .win w o => if n = 0 then s else hostRead s (winPort s p w) (winAddr s p w o) n (rdb s p R.WIN_CFG_NS w) (winPasid s p w)
  | _ => s

/-- One piece of a write of partition p, for a unit and its message number; a window's data carries the window's attributes (R370), and is
discarded when the port is lost or may issue no DMA (R381, R382). -/
def writePiece (s : State) (p : Nat) (x : Space) (unit msg d : Nat) (bs : List Byte) : Except Refuse State :=
  match x.plus d with
  | .hbm raw k o =>
    if raw then .ok (hbmWrite s (hbmKey k o) bs)
    else match blockPut s k o bs with | some s => .ok s | none => .error checksumBad
  | .inter raw die o =>
    let (k, o') := interToDirect die o
    if raw then .ok (hbmWrite s (hbmKey k o') bs)
    else match blockPut s k o' bs with | some s => .ok s | none => .error checksumBad
  | .clm c o => .ok (sramWrite s (clmKey c o) bs)
  | .sp t o => .ok (sramWrite s (spKey t o) bs)
  | .win w o => .ok (if portUsable s (winPort s p w) then
      hostWrite s (winPort s p w) (winAddr s p w o) bs (rdb s p R.WIN_CFG_NS w) (rdb s p R.WIN_CFG_RO_ATTR w) (winPasid s p w)
    else s)
  | .remote raw nd k o => .ok (post s p (.write nd raw k o bs) unit msg)

def writePieces (s : State) (p : Nat) (x : Space) (unit msg : Nat) (bs : List Byte) : List (Nat × Nat) → State × Option Refuse
  | [] => (s, none)
  | (d, n) :: ps =>
    match writePiece s p x unit msg d ((bs.drop d).take n) with
    | .error r => (s, some r)
    | .ok s' => writePieces s' p x unit msg bs ps

/-- Write bytes, blocks in ascending order, stopping at a block whose check fails (R85). Writes to another node carry the source ID and the
message number of the command. -/
def devWrite (s : State) (p : Nat) (x : Space) (bs : List Byte) (unit : Nat := srcTransport) (msg : Nat := 0) : State × Option Refuse :=
  writePieces s p x unit msg bs (pieces x.off bs.length)

/-- Rows (address, bytes) of one command, those that follow one another in one space joined: a block that they cover together is written
whole (R85). Where rows overlap the later one stands. -/
def joinRows (s : State) (p : Nat) : List (Nat × List Byte) → List (Nat × List Byte)
  | [] => []
  | (a, bs) :: r =>
    match joinRows s p r with
    | [] => [(a, bs)]
    | (b, cs) :: rest =>
      if a ≤ b ∧ b ≤ a + bs.length ∧ devSpace s p b = (devSpace s p a).plus (b - a) then
        (a, bs.take (b - a) ++ cs ++ bs.drop (b - a + cs.length)) :: rest
      else (a, bs) :: (b, cs) :: rest

/-- Write runs of bytes in turn; the first failure ends the writing. -/
def writeRuns (s : State) (p : Nat) (runs : List (Nat × List Byte)) (unit : Nat := srcTransport) (msg : Nat := 0) : State × Option Refuse :=
  match runs with
  | [] => (s, none)
  | (a, bs) :: r =>
    match devWrite s p (devSpace s p a) bs unit msg with
    | (s', some e) => (s', some e)
    | (s', none) => writeRuns s' p r unit msg

/-- Frames in which n bytes go to a space of another node (R258, R313). -/
def remoteFrames (s : State) (p : Nat) (x : Space) (n : Nat) : Nat :=
  match x with
  | .remote _ _ _ o => (pieces o n).foldl (fun a d => a + frameCount s p d.2) 0
  | _ => 0

/-- Frames in which runs of bytes go to another node. -/
def runFrames (s : State) (p : Nat) (runs : List (Nat × List Byte)) : Nat :=
  (runs.map (fun x => remoteFrames s p (devSpace s p x.1) x.2.length)).sum

/-- The bytes of a range become undefined. -/
def devForget (s : State) (x : Space) (n : Nat) : State :=
  match x with
  | .hbm _ k o => hbmForget s (hbmKey k o) n
  | .inter _ die o =>
    (pieces o n).foldl (fun s (d, m) => let (k, o') := interToDirect die (o + d); hbmForget s (hbmKey k o') m) s
  | .clm c o => sramForget s (clmKey c o) n
  | .sp t o => sramForget s (spKey t o) n
  | .win .. => s
  | .remote .. => s

/-- An access that begins later than its command meets its stacks' key again (R288). -/
def spaceKeyed (s : State) (p a : Nat) : Option Refuse :=
  match devSpace s p a with
  | .hbm .. => checkIf (!keyLoaded s p) keyAbsent
  | .inter .. => checkIf (!keyLoaded s p) keyAbsent
  | _ => none

/-- Stacks a range touches. -/
def devStacks (x : Space) (n : Nat) : List Nat :=
  match x with
  | .hbm _ k _ => [k]
  | .inter _ die o => (pieces o n).map (fun (d, _) => (interToDirect die (o + d)).1)
  | _ => []

/-- A traffic generator runs on the stack, or on a stack of the range (R291). -/
def tgBusy (s : State) (k : Nat) : Bool := rdb s 4 R.TG_CTRL_RUNNING k
def devTgBusy (s : State) (x : Space) (n : Nat) : Bool := (devStacks x n).any (tgBusy s)

/-! ### Access through BAR0 (R366, R426, R503) -/

/-- The device waits for a recovery load (R420). -/
def recovering (s : State) : Bool := rd s 4 R.BOOT_STATUS_STAGE == 0xE

/-- The partition whose controlling blocks a write of port h reaches, by the first rows of R503. -/
def ctrlAccess (s : State) (h : Nat) : Option Nat :=
  if s.safe || s.mseOff.contains h || portRole s h != 0 || ideBlocked s h || rdb s (portPart s h) R.PART_CTRL_RESET_BUSY || recovering s then none
  else some (portPart s h)

/-- The port controls the partition of the tile and the tile is present (R188, R192). -/
def tileAccess (s : State) (h t : Nat) : Bool := ctrlAccess s h == some (partOfTile s t) && tilePresent s t

/-- The bytes of a range as spans: in HBM or on chip, key, length. Windows and other nodes hold none. -/
def devSpans (x : Space) (n : Nat) : List (Bool × Nat × Nat) :=
  match x with
  | .hbm _ k o => [(true, hbmKey k o, n)]
  | .inter _ die o => (pieces o n).map (fun (d, m) => let (k, o') := interToDirect die (o + d); (true, hbmKey k o', m))
  | .clm c o => [(false, clmKey c o, n)]
  | .sp t o => [(false, spKey t o, n)]
  | .win .. => []
  | .remote .. => []

end Sys2Proof.Machine
end

