-- ==== Sys2Proof/Machine/Mma.lean ====
section
/-!
DEFINITION. Operands and the arithmetic of a matrix multiply (spec/07 R193 to R203), and what an abandoned one leaves (R222).
-/

namespace Sys2Proof.Machine

def opcOf (c : Cmd) : Nat := byteAt c.toNat 0
/-- Byte i, and n bytes from byte i, of a command. -/
def cb (c : Cmd) (i : Nat) : Nat := byteAt c.toNat i
def cbs (c : Cmd) (i n : Nat) : Nat := bytesAt c.toNat i n
/-- n bits from bit b of the little-endian field that begins at byte i. -/
def cbits (c : Cmd) (i b n : Nat) : Nat := bitsOf c.toNat (8 * i + b) n
def cbit (c : Cmd) (i b : Nat) : Bool := bitAt c.toNat (8 * i + b)

/-! ### Operands (R193, R195, R196, R201) -/

def shapeM (sh : Nat) : Nat := match sh with | 0 => 64 | 1 => 32 | _ => 128
def shapeN (sh : Nat) : Nat := match sh with | 0 => 64 | 1 => 128 | _ => 32

/-- Bits of an element of a matrix format. -/
def elemBits (fmt : Nat) : Nat := match fmt with | 3 => 8 | 4 => 4 | _ => 16
/-- K must be a multiple of this (R193). -/
def kMultiple (fmt : Nat) : Nat := match fmt with | 3 => 2 | 4 => 4 | _ => 1

/-- The element of `w` bits at a bit position from an on-chip byte address (R69: even CB4 elements in the low nibble). -/
def sramElem (s : State) (base pos w : Nat) : Nat :=
  leNat (sramRead s (base + pos / 8) ((w + 7) / 8)) / 2 ^ (pos % 8) % 2 ^ w

/-- Fields of one operand of an MMA. -/
structure Operand where
  addr64   : Nat
  stride64 : Nat
  trans    : Bool
  res      : Bool
  valid    : Nat
  width    : Nat
  deriving DecidableEq, Repr

/-- Bit position of element (x, k): x is the row of A or the column of B. `sideB` swaps the roles of R196's table. -/
def Operand.pos (o : Operand) (sideB : Bool) (w x k : Nat) : Nat :=
  if o.res then 8 * (64 * o.addr64) + (k * o.width + x) * w
  else if o.trans == sideB then 8 * (64 * o.addr64) + x * (8 * 64 * o.stride64) + k * w
  else 8 * (64 * o.addr64) + k * (8 * 64 * o.stride64) + x * w

/-- Every operand byte lies in its memory (R197). -/
def Operand.inRange (o : Operand) (sideB : Bool) (w k : Nat) : Bool :=
  let last := o.pos sideB w (o.valid - 1) (k - 1) + w
  if o.res then decide (last ≤ 8 * 2 ^ 15) else decide (last ≤ 8 * 2 ^ 22)

/-- A command's MMA fields (R195). -/
structure MmaCmd where
  a : Operand
  b : Operand
  k : Nat
  shape : Nat
  fmt : Nat
  acc : Nat
  accFp16 : Bool
  init : Bool
  hold : Bool
  cbA : Nat
  cbB : Nat
  rsvd : Bool
  deriving DecidableEq, Repr

def mmaOf (c : Cmd) : MmaCmd :=
  let sh := cbits c 16 16 2
  { a := ⟨cbits c 8 0 16, cbits c 8 16 16, cbit c 16 22, cbit c 20 20, cb c 20, shapeM sh⟩
    b := ⟨cbits c 12 0 16, cbits c 12 16 16, cbit c 16 23, cbit c 20 21, cb c 21, shapeN sh⟩
    k := cbs c 16 2, shape := sh, fmt := cbits c 16 18 4, acc := cbits c 16 24 5, accFp16 := cbit c 16 29
    init := cbit c 16 30, hold := cbit c 16 31, cbA := cbits c 20 16 2, cbB := cbits c 20 18 2
    rsvd := cbits c 20 22 10 != 0 || cbs c 24 8 != 0 }

/-! ### The accumulation (R198, R203, R222) -/

/-- The product of two operand codes, rounded to FP32 only where it leaves its range (R198). -/
def mmaProd (ts : TileState) (m : MmaCmd) (x y : Nat) : FVal :=
  match m.fmt with
  | 1 => fp32.decode (fp32.encode ((bf16.decode x).mul (bf16.decode y)))
  | 2 => (fp16.decode x).mul (fp16.decode y)
  | 3 => (k12Val ((mapGet [] ts.k12 m.cbA).getD x 0)).mul (k12Val ((mapGet [] ts.k12 (4 + m.cbB)).getD y 0))
  | _ => f32v ((mapGet [] ts.products m.cbA).getD (16 * x + y) 0)

/-- The elements of the K slices of an operand's valid rows or columns, as memory holds them. -/
def operandCodes (s : State) (t : Nat) (o : Operand) (sideB : Bool) (w k : Nat) : List Nat :=
  (List.range o.valid).flatMap (fun x => (List.range k).map (fun i =>
    sramElem s (if o.res then resKey t 0 else spKey t 0) (o.pos sideB w x i) w))

/-- The elements of A, then those of B. -/
def mmaCodes (s : State) (t : Nat) (m : MmaCmd) : List Nat :=
  operandCodes s t m.a false (elemBits m.fmt) m.k ++ operandCodes s t m.b true (elemBits m.fmt) m.k

/-- One accumulation in ascending k, one rounding each, over k-slices 0 to n - 1 of the elements `cs`. -/
def mmaElem (ts : TileState) (m : MmaCmd) (cs : List Nat) (n i j : Nat) (c0 : Nat) : Nat :=
  let f := if m.accFp16 then fp16 else fp32
  (List.range n).foldl (fun c k =>
    f.encode ((f.decode c).add (mmaProd ts m (cs.getD (i * m.k + k) 0) (cs.getD ((m.a.valid + j) * m.k + k) 0)))) c0

/-- Address of element (i, j) of the tile in accumulator memory (R203). -/
def accElemKey (t acc : Nat) (isFp16 : Bool) (n i j : Nat) : Nat :=
  accKey t (8192 * acc + (if isFp16 then 2 else 4) * (n * i + j))

/-- The tile after accumulating n k-slices; INIT starts every element at +0 (R196, R198). -/
def mmaTile (s : State) (t : Nat) (m : MmaCmd) (cs : List Nat) (n : Nat) : State :=
  let sz := if m.accFp16 then 2 else 4
  let nn := shapeN m.shape
  let s0 := if m.init then sramWrite s (accKey t (8192 * m.acc)) (List.replicate (sz * 4096) 0) else s
  (List.range m.a.valid).foldl (fun st i => (List.range m.b.valid).foldl (fun st j =>
    let key := accElemKey t m.acc m.accFp16 nn i j
    sramWrite st key (leBytes sz (mmaElem (tile s t) m cs n i j (leNat (sramRead s0 key sz))))) st) s0

/-- The elements a running MMA has read: one that another engine has changed since the start was read old or new (R200, log 58). -/
def mmaSeen (s : State) (t : Nat) (r : RunCmd) : List Nat :=
  (r.codes.zip (mmaCodes s t (mmaOf r.cmd))).zipIdx.map (fun ((old, new), i) =>
    if old = new ∨ freshNat s (i + 1) % 2 = 0 then old else new)

/-- A running MMA after n k-slices of what it has read. -/
def mmaRedo (s : State) (t : Nat) (r : RunCmd) (n : Nat) : State :=
  let m := mmaOf r.cmd
  tickFree (mmaTile (sramWrite s (accKey t (8192 * m.acc)) r.keep) t m (mmaSeen s t r) n)

/-- An MMA ends: where its operands were written while it ran, the tile holds what its reads saw (R200). -/
def settleMma (s : State) (t : Nat) (r : RunCmd) : State :=
  if r.status = St.OK ∧ mmaCodes s t (mmaOf r.cmd) ≠ r.codes then mmaRedo s t r (mmaOf r.cmd).k else s

/-- An abandoned MMA leaves the accumulation over an unreported number of k-slices (R222). -/
def abandonMma (s : State) (t : Nat) (r : RunCmd) : State :=
  if r.status = St.OK then mmaRedo s t r (freshNat s % ((mmaOf r.cmd).k + 1)) else s

/-- The byte of a key, none where nothing is known of it. -/
def oldByte (s : State) (h : Bool) (key : Nat) : Option Byte := if h then cellGet s.hbm key else some (sramGet s key)

/-- The bytes of spans in order. -/
def oldBytes (s : State) (l : List (Bool × Nat × Nat)) : List (Option Byte) :=
  l.flatMap (fun (h, k, n) => (List.range n).map (fun i => oldByte s h (k + i)))

/-- Give a key back the byte it had. -/
def putOld (s : State) (h : Bool) (key : Nat) : Option Byte → State
  | some b => if h then hbmWrite s key [b] else sramSet s key b
  | none => { s with hbm := cellsDrop s.hbm key 1 }

/-- An abandoned MDRAIN may have written part of its destination: each byte is the old or the drained one (R222). -/
def abandonDrain (s : State) (r : RunCmd) : State :=
  let keys := r.undef.flatMap (fun (h, k, n) => (List.range n).map (fun i => (h, k + i)))
  tickFree ((keys.zip r.old).zipIdx.foldl (fun st (((h, k), b), i) => if freshNat s i % 2 = 0 then putOld st h k b else st) s)

/-- An abandoned MBIND leaves its binding and its product table invalid (R222). -/
def abandonBind (s : State) (t : Nat) (c : Cmd) : State :=
  let i := cbits c 8 17 2
  let s := wrb s 4 (if cbit c 8 16 then R.MX_CB_B_VALID else R.MX_CB_A_VALID) false t i
  let v := rd s 4 R.MX_PT_VALID_PT t
  wr s 4 R.MX_PT_VALID_PT (if bitAt v i then v - 2 ^ i else v) t

end Sys2Proof.Machine
end

