-- ==== Sys2Proof/Machine/Rings.lean ====
section
/-!
DEFINITION. Host queues (spec/15): descriptors, completion records, interrupts and abandoned descriptors.
-/

namespace Sys2Proof.Machine

def qKey (p q : Nat) : Nat := 256 * p + q
def hq (s : State) (p q : Nat) : HQueue := mapGet {} s.hqueues (qKey p q)
def setHq (s : State) (p q : Nat) (x : HQueue) : State := { s with hqueues := mapSet s.hqueues (qKey p q) x }
def qOwner (s : State) (p q : Nat) : Nat := rd s p R.Q_CFG_OWNER q
/-- QSTATE: 0 ACTIVE, 1 STALLED, 2 RESET. -/
def hqState (s : State) (p q : Nat) : Nat := rd s p R.Q_STATE_QSTATE q
def setHqState (s : State) (p q v : Nat) : State := wr s p R.Q_STATE_QSTATE v q
def ringLen (s : State) (p q : Nat) : Nat := 2 ^ rd s p R.Q_CFG_LOG2_SIZE q
/-- The PASID of the queue's ring accesses (R389). -/
def qPasid (s : State) (p q : Nat) : Option Nat := if rdb s p R.Q_CFG_PASID_EN q then some (rd s p R.Q_CFG_PASID q) else none
/-- The queue belongs to a feeder (R390). -/
def feederQueue (s : State) (p q : Nat) : Bool := qOwner s p q != ctrlPort s p

/-- n bytes from byte i of a descriptor (R395). -/
def QDesc.f (d : QDesc) (i n : Nat) : Nat := leNat ((d.bytes.drop i).take n)
def QDesc.opc (d : QDesc) : Nat := d.f 0 1
def QDesc.flag (d : QDesc) (b : Nat) : Bool := bitAt (d.f 1 1) b
def QDesc.src (d : QDesc) : Nat := d.f 8 8
def QDesc.dst (d : QDesc) : Nat := d.f 16 8
def QDesc.len (d : QDesc) : Nat := d.f 24 4
def QDesc.arg0 (d : QDesc) : Nat := d.f 36 8

/-- The device accesses of a descriptor: address, bytes, write. -/
def QDesc.accesses (d : QDesc) : List (Nat × Nat × Bool) :=
  match d.opc with
  | 2 | 3 => [(d.src, d.len, false), (d.dst, d.len, true)]
  | 5 => [(d.src, 64 * bitsOf d.arg0 32 16, false)]
  | _ => []

/-- The same descriptor of a queue: a slot of the ring may be used again while its older descriptor runs, SEQ tells the two apart (R394,
R404). -/
def sameDesc (x y : QDesc) : Bool := x.idx == y.idx && x.f 2 2 == y.f 2 2

/-- INFLIGHT follows the started descriptors. -/
def setDescs (s : State) (p q : Nat) (l : List QDesc) : State :=
  wr (setHq s p q { hq s p q with descs := l }) p R.Q_STATE_INFLIGHT (l.filter (·.started)).length q

def putDesc (s : State) (p q : Nat) (d : QDesc) : State := setDescs s p q ((hq s p q).descs.map (fun x => if sameDesc x d then d else x))
def dropDesc (s : State) (p q : Nat) (d : QDesc) : State := setDescs s p q ((hq s p q).descs.filter (fun x => !sameDesc x d))

/-- The window of an address. -/
def winOf (a : Nat) : Option Nat := match parseDev a with | some (.win w _) => some w | _ => none

/-- The owner of the first window of a descriptor, for a failed host access. -/
def abortPort (s : State) (p : Nat) (d : QDesc) : Option Nat :=
  (d.accesses.findSome? (fun x => winOf x.1)).map (fun w => rd s p R.WIN_CFG_OWNER w)

/-- The descriptor's work has ended. -/
def endDesc (s : State) (p : Nat) (d : QDesc) (r : Option Refuse) (info : Nat) : QDesc :=
  match r with
  | none => { d with started := true, finished := true, info := info }
  | some r => { d with started := true, finished := true, status := r.status, fault := r.fault, info := info, errPort := abortPort s p d }

/-- The counter of a WAIT, and its value (R402). -/
def waitCtr (s : State) (p : Nat) (d : QDesc) : Option CtrRef :=
  match resolveName s p (BitVec.ofNat 32 (bitsOf d.arg0 0 32)) with | .ctr c => some c | _ => none
def waitVal (s : State) (p : Nat) (d : QDesc) : Nat := match waitCtr s p d with | some c => ctrVal s c | none => 0
def waitHolds (s : State) (p : Nat) (d : QDesc) : Bool :=
  match waitCtr s p d with | some c => waitMet s c (BitVec.ofNat 32 (bitsOf d.arg0 32 32)) | none => false

/-- A WAIT that has started is released once its test holds. -/
def waitTest (s : State) (p : Nat) (d : QDesc) : QDesc :=
  match waitCtr s p d with
  | some c => if waitHolds s p d then endDesc s p d none (ctrVal s c) else { d with started := true }
  | none => { d with started := true }

/-- The WAIT that holds the queue. -/
def runningWait (s : State) (p q : Nat) : Option QDesc := (hq s p q).descs.find? (fun d => d.started && !d.finished && d.opc == 4)

/-- Every WAIT of the partition that holds its queue is tested: a counter has changed (R402). -/
def releaseWaits (s : State) (p : Nat) : State :=
  (s.hqueues.filter (fun x => x.1 / 256 == p)).foldl (fun s x =>
    match runningWait s p (x.1 % 256) with
    | some d => if waitHolds s p d then putDesc s p (x.1 % 256) (waitTest s p d) else s
    | none => s) s

/-! ### Records (R405 to R407, R410) -/

/-- Raise the queue's vector (R410, R411). -/
def qIrq (s : State) (p q : Nat) : State :=
  raiseIrq (setHq s p q { hq s p q with counted := 0 }) (qOwner s p q) (rd s p R.Q_CFG_VECTOR q)

/-- A counted record has been written. -/
def countRec (s : State) (p q : Nat) : State :=
  let n := (hq s p q).counted + 1
  let s := setHq s p q { hq s p q with counted := n }
  if rdb s p R.Q_CFG_IRQ_EN q && (rd s p R.Q_IRQ_IRQ_HOLDOFF q == 0 || decide (max 1 (rd s p R.Q_IRQ_IRQ_CNT q) ≤ n)) then qIrq s p q else s

/-- The 16 bytes of a record. -/
def QRec.bytes (r : QRec) (phase head : Nat) : List Byte :=
  leBytes 4 r.tag ++ leBytes 2 r.idx ++ leBytes 2 r.seq ++ leBytes 1 r.status ++ leBytes 1 phase ++ leBytes 2 head ++ leBytes 4 r.info

/-- Write a record at CQ_TAIL. -/
def writeRec (s : State) (p q : Nat) (r : QRec) : State :=
  let tail := rd s p R.Q_CQ_STATUS_CQ_TAIL q
  let phase := rd s p R.Q_CQ_STATUS_CQ_PHASE q
  let s := hostWrite s (qOwner s p q) (rd s p R.CQ_BASE_BASE q * 4096 + 16 * tail) (r.bytes phase (rd s p R.Q_SQ_STATUS_SQ_HEAD q))
    false false (qPasid s p q)
  let tail' := (tail + 1) % ringLen s p q
  let s := wr s p R.Q_CQ_STATUS_CQ_TAIL tail' q
  let s := if tail' = 0 then wr s p R.Q_CQ_STATUS_CQ_PHASE (1 - phase) q else s
  let s := wrAdd s p R.Q_STATE_DONE 1 q
  if r.counts then countRec s p q else s

/-- Records that the completion ring has room for (R407). -/
def cqRoom (s : State) (p q : Nat) : Nat :=
  let n := ringLen s p q
  (rd s p R.Q_CQ_STATUS_CQ_HEAD q + 2 * n - rd s p R.Q_CQ_STATUS_CQ_TAIL q - 1) % n

/-- Write the held records in order while there is room; without Bus Master Enable (R381) and while the partition is frozen (R488) they
wait. -/
def drainRecs (s : State) (p q : Nat) : State :=
  if portUsable s (qOwner s p q) && !frozen s p then
    let l := (hq s p q).held
    let k := cqRoom s p q
    (l.take k).foldl (fun s r => writeRec s p q r) (setHq s p q { hq s p q with held := l.drop k })
  else s

/-- A record of the queue; one whose port is lost is not written (R382). -/
def qRecord (s : State) (p q : Nat) (r : QRec) : State :=
  let h := qOwner s p q
  if rdb s 4 R.HP_STATUS_LINK_UP h && !s.d3hot.contains h then drainRecs (setHq s p q { hq s p q with held := (hq s p q).held ++ [r] }) p q else s

def descRec (d : QDesc) (status info : Nat) : QRec := ⟨d.f 4 4, d.idx, d.f 2 2, status, info, d.flag 3 || status != 0⟩

/-! ### Abandoned work (R190, R408) -/

/-- Bytes that an abandoned command or descriptor leaves undefined take free values. -/
def havoc (s : State) (l : List (Bool × Nat × Nat)) : State :=
  l.foldl (fun s (isHbm, key, n) => if isHbm then hbmForget s key n else sramForget s key n) s

/-- A load of tile u is abandoned: the START held for it is gone with it. -/
def dropLoad (s : State) (u : Nat) : State := setTile (wr s 4 R.TILE_STATUS_LOADING 0 u) u { tile s u with heldStart := none }

/-- A load that a source waits for is given up (R191). -/
def dropWaiter (s : State) (src : Nat) : State :=
  { s with tiles := s.tiles.map (fun (k, x) => (k, { x with loadWaits := x.loadWaits.filter (· != src) })) }

/-- A fault of class F1 stops an ACTIVE queue; a load that it waits to begin is given up (R191, R408). -/
def qStall (s : State) (p q kind : Nat) : State :=
  if hqState s p q = 0 then dropWaiter (wr (setHqState s p q 1) p R.Q_STATE_STALL_KIND kind q) (srcQueue p q) else s

/-- INFO of an abandoned descriptor (R405): the bytes an INPUT or OUTPUT had delivered, all of them once only its flush reads are missing and
otherwise a free number of those it delivers, and the counter value of a WAIT. -/
def abandonInfo (s : State) (p : Nat) (d : QDesc) : Nat :=
  match d.opc with
  | 2 | 3 => if d.flushing then d.info else freshNat s % (d.info + 1)
  | 4 => waitVal s p d
  | _ => 0

/-- A started descriptor is abandoned; its record carries `status`. -/
def abandonDesc (s : State) (p q : Nat) (status : Option Nat) (d : QDesc) : State :=
  let info := abandonInfo s p d
  let s := tickFree (if d.flushing then s else havoc s d.undef)
  let s := match d.loading with | some u => dropLoad s u | none => s
  match status with
  | some st => qRecord s p q (descRec d st info)
  | none => s

/-- The started descriptors are abandoned in order; the others stay when `keep` says so. -/
def abandonQueue (s : State) (p q : Nat) (status : Option Nat) (keep : Bool) : State :=
  let l := (hq s p q).descs
  let s := dropWaiter (setDescs s p q (if keep then l.filter (fun d => !d.started) else [])) (srcQueue p q)
  (l.filter (·.started)).foldl (fun s d => abandonDesc s p q status d) s

/-- The queue goes to RESET; without a record its held records go too (R382, R408). -/
def resetHostQueue (s : State) (p q : Nat) (status : Option Nat) : State :=
  let s := abandonQueue s p q status false
  let s := setHq s p q { hq s p q with rereads := 0, held := if status.isSome then (hq s p q).held else [] }
  setHqState (wrb s p R.Q_CFG_Q_EN false q) p q 2

/-- HOLD: a feeder's started descriptors are abandoned and its queue stalls (R409). -/
def holdQueues (s : State) (p : Nat) : State :=
  (List.range 256).foldl (fun s q =>
    if feederQueue s p q && hqState s p q != 2 then setHqState (abandonQueue s p q (some St.QUEUE_ABORTED) true) p q 1 else s) s

end Sys2Proof.Machine
end

