-- ==== Sys2Proof/Machine/Hold.lean ====
section
/-!
DEFINITION. Raising a fault, and the entries of HOLD (spec/06 R190, spec/17 R439) and SAFE (spec/17 R455).
-/

namespace Sys2Proof.Machine

/-- A frame for a frozen partition is held, in order of arrival, and acts when the partition resumes (R489, R492). `c` is the command in which
it acts. -/
def holdFrame (s : State) (p : Nat) (c : Instr) (k : State → State) : State :=
  if !s.safe && frozen s p then { s with heldRx := s.heldRx ++ [(p, c)] } else k s

/-! ### HOLD (R49, R121, R190, R252, R265, R303, R333, R409, R491) -/

/-- A command of the matrix engine is abandoned (R222). -/
def abandonMatrix (s : State) (t : Nat) (r : RunCmd) : State :=
  match opcOf r.cmd with
  | 1 => abandonMma s t r
  | 2 => abandonDrain s r
  | 4 => if r.status = St.OK then abandonBind s t r.cmd else s
  | _ => havoc s r.undef

/-- A started command has finished its own work without having completed: surely a LOOKUP or MERGE whose status word is written, or one whose
engine has started a later one; possibly when an earlier one of its queue has not completed. The oldest one of a queue has not, but for a
LOOKUP or MERGE (R190, log 59). -/
def ownWorkDone (s : State) (q before after : Nat) (r : RunCmd) : Bool :=
  r.finished && ((q == 3 && (opcOf r.cmd == 4 || opcOf r.cmd == 5)) || (q != 0 && q != 4 && after != 0) || (before != 0 && freshNat s % 2 == 0))

/-- A started command is abandoned, with `before` older and `after` younger ones of its queue: the writes of one that has finished its
own work stay; another leaves what R190, R222 and R252 say. The load it was making ends. -/
def abandonCmd (s : State) (t q before after : Nat) (r : RunCmd) : State :=
  let s := if ownWorkDone s q before after r then tickFree s
    else if q = 0 ∨ q = 4 then abandonMatrix (tickFree s) t r else havoc (tickFree s) r.undef
  match r.loading with | some u => dropLoad s u | none => s

/-- The started commands of a queue are abandoned in order. -/
def abandonCmds (s : State) (t q before : Nat) : List RunCmd → State
  | [] => s
  | r :: rs => abandonCmds (abandonCmd s t q before rs.length r) t q (before + 1) rs

/-- A tile's MERGE gives up its place at Clove (R128). -/
def dropMerge (s : State) (t : Nat) : State :=
  { s with cloveWait := s.cloveWait.map (fun (c, l) => (c, l.filter (· != t))) }

/-- A queue of a tile: its commands are abandoned, its waiting entries discarded (R185, R190). -/
def holdEngQueue (s : State) (t q : Nat) : State :=
  let x := queue s t q
  let s := if q = 3 then dropMerge s t else s
  let s := wr (setQueue s t q {}) 4 R.ENGQ_STATUS_QSTATE 0 t q
  abandonCmds s t q 0 x.running

def holdTile (s : State) (t : Nat) : State :=
  let s := if rd s 4 R.TILE_STATUS_STATE t = 1 then
      wr (wr s 4 R.TILE_STATUS_HALT_CODE 0xFF t) 4 R.TILE_STATUS_STATE 0 t
    else s
  let s := setTile s t { tile s t with stall := none, heldStart := none, loadWaits := [] }
  (List.range 5).foldl (fun s q => holdEngQueue s t q) s

/-- Take and release counts of a version's slot (R121, R148). -/
def holdVer (s : State) (p t n : Nat) : Option Nat → State
  | some j => wrSat s p R.TABLE_DESC_INFLIGHT n t j
  | none => s
def releaseVer (s : State) (p t n : Nat) : Option Nat → State
  | some j => wr s p R.TABLE_DESC_INFLIGHT (rd s p R.TABLE_DESC_INFLIGHT t j - n) t j
  | none => s

/-- Look-ups, forwarded requests, waiting requests and hot-row fetches of the partition end without a reply (R121, R190). -/
def dropLooks (s : State) (p : Nat) : State :=
  let mine (l : LookRun) : Bool := partOfTile s l.tile == p
  let s := (s.looks.filter mine).foldl (fun s l => releaseVer s p (bytesAt (leNat (l.desc.take 64)) 0 2 % 1024) 1 l.slot) s
  let s := { s with looks := s.looks.filter (fun l => !mine l) }
  let s := (s.ownRuns.filter (·.part == p)).foldl (fun s r => releaseVer s p r.req.table.toNat 1 r.slot) s
  let s := { s with ownRuns := s.ownRuns.filter (·.part != p) }
  let s := (s.waitReqs.filter (·.1 == p)).foldl (fun s r => match r.2 with
    | .look m slot => releaseVer s p m.table.toNat 1 slot
    | .fwd m slot => releaseVer s p m.table.toNat 1 slot
    | .hot m slot => releaseVer s p m.table.toNat 1 slot) s
  let s := { s with waitReqs := s.waitReqs.filter (·.1 != p), stackReqs := s.stackReqs.filter (fun x => x.1 != p || x.2.isCommand) }
  let s := (s.fetches.filter (·.part == p)).foldl (fun s f => wrb s p R.HOTROW_SET_FETCH_BUSY false f.set) s
  { s with fetches := s.fetches.filter (·.part != p) }

/-- A RUNNING slot returns to ARMED with its buffer undefined (R333). -/
def holdColl (s : State) (p k : Nat) : State :=
  let size (f : Reg) : Nat := if rd s p f k = 0 then 4 else 2
  let e := 64 * p + k
  let s' := match mapFind s.colls e with
    | some x => { s with colls := mapSet s.colls e { x with failed := false, input := [], got := [], parts := [], early := [] } }
    | none => s
  if rd s p R.COLL_SLOT_CSTATE k = 2 then
    devForget (wr s' p R.COLL_SLOT_CSTATE 1 k) (devSpace s p (rd s p R.COLL_SLOT_BUF_ADDR k))
      (rd s p R.COLL_SLOT_ELEM_CNT k * max (size R.COLL_SLOT_IFMT) (size R.COLL_SLOT_OFMT))
  else s'

/-- The step-decision unit discards partials and result; DECIDED stays (R303). -/
def holdSd (s : State) (p : Nat) : State :=
  let s := { s with
    sdRecs := mapErase s.sdRecs p, sdParts := mapErase s.sdParts p, sdSkip := s.sdSkip.filter (· != p)
    sdSent := s.sdSent.filter (· != p), norms := s.norms.filter (fun x => partOfStack s x.1 != p) }
  if rd s p R.SD_STATUS_SD_STATE = 4 then s else wr s p R.SD_STATUS_SD_STATE 0

/-- What HOLD does in each unit of the partition. -/
def applyHold (s : State) (p : Nat) : State :=
  let s := (tilesOf s p).foldl holdTile s
  let s := dropLooks s p
  let s := { s with clove := s.clove.filter (fun x => partOfCluster s x.1 != p)
                    cloveWait := s.cloveWait.filter (fun x => partOfCluster s x.1 != p) }
  let s := wrb { s with reports := mapErase s.reports p, reported := mapErase s.reported p, firing := mapErase s.firing p, epochWait := mapErase s.epochWait p } p
    R.ST_STATUS_REPORTED false
  let s := holdSd s p
  let s := (List.range 64).foldl (fun s k => holdColl s p k) s
  holdQueues s p

/-- A partition enters HOLD; a frozen one reads HOLD at once and acts when it resumes (R491). -/
def enterHold (s : State) (p : Nat) : State :=
  if s.safe || isHold s p then s
  else
    let s := wr s p R.PART_CFG_PART_STATE 1
    let s := { s with incDropped := s.incDropped.filter (· != p), secondF2 := mapErase s.secondF2 p }
    if frozen s p then { s with holdLater := p :: s.holdLater.filter (· != p) } else applyHold s p

/-! ### SAFE (R455, R327) -/

/-- What shows of a partition's key slot, zeroised on the way to SAFE (R415, R455), and of a reset that an F3 ends there (R457). -/
def zeroSlot (s : State) (p : Nat) : State :=
  let s := wrb (wrb (wr s p R.HBM_KEY_STATE_STATE 2) p R.SEC_STATUS_JOB_LOADED false) p R.SEC_STATUS_MEMBER_LOADED false
  wrb (wrb s p R.SEC_RESULT_CMD_BUSY false) p R.PART_CTRL_RESET_BUSY false

/-- The package enters SAFE for a fault of kind `kind`: every partition's key slot is zeroised, everything else is kept. A frozen FSTATE stays
(R492). The milliseconds to a failure during the boot are free (R477). In the manufacturing test mode STAGE stays (R512). -/
def enterSafe (s : State) (kind : Nat) : State :=
  if s.safe then s
  else
    let g := rd s 4 R.BOOT_STATUS_STAGE
    let s := if g < 9 ∧ !s.mfgTest then tickFree (wr (wr s 4 R.BOOT_STATUS_FAIL_STEP g) 4 R.BOOT_STATUS_BOOT_MS (freshNat s % 2 ^ 16)) else s
    let s := wrSat s 4 R.LIFE_EVENTS_SAFES 1
    let s := if s.mfgTest then s else wr s 4 R.BOOT_STATUS_STAGE 0xF
    let s := (partsAll s).foldl zeroSlot s
    { s with safe := true, safeKind := kind, hbmKeys := [], jobs := [], certCache := [], secRun := [] }

/-- HOLD for a fault of class F2 (R439, R454). -/
def faultHold (s : State) (p : Nat) : State :=
  enterHold (if s.heldForF2.contains p then s else { s with heldForF2 := p :: s.heldForF2 }) p

/-- Raise a fault of a unit of partition p: its class acts at the source at once (R442), and the message goes to the collector. -/
def raise (s : State) (src : Nat) (k : Kind) (p : Nat) (addr : Nat := 0) (detail : Nat := 0) : State :=
  let s := sendFault s (mkFault src k p addr detail)
  if k.cls = 2 then faultHold s p else if k.cls = 3 then enterSafe s k.code else s

/-- Raise a fault of a package-level unit: class F0 or F3 only (R440). -/
def raisePkg (s : State) (src : Nat) (k : Kind) (addr : Nat := 0) (detail : Nat := 0) : State :=
  let s := sendFault s { mkFault src k 0 addr detail with part := none }
  if k.cls = 3 then enterSafe s k.code else s

/-- An access that IDE_REQ turns away; the first after the port comes up is noted (R426). -/
def ideNote (s : State) (h : Nat) : State :=
  if !s.safe && !s.mseOff.contains h && ideBlocked s h && !s.ideNoted.contains h then
    raise { s with ideNoted := h :: s.ideNoted } (srcHub h 0) K.IDE_NOT_SECURE (portPart s h)
  else s

end Sys2Proof.Machine
end

