-- ==== Sys2Proof/Machine/Access.lean ====
section
/-!
DEFINITION. Writes through BAR0: which are taken (spec/20 R503), and the effect of a write on plain fields (spec/00 R11 to R14, spec/20 R504).
-/

namespace Sys2Proof.Machine

/-- Debug is authorised for a partition, for every partition (R434, R435). -/
def dbgAuth (s : State) (p : Nat) : Bool := rdb s p R.SEC_STATUS_DBG_AUTH
def dbgAll (s : State) : Bool := (partsAll s).all (dbgAuth s)

/-- The note of a malformed access (R13); an unassigned port belongs to no partition. -/
def barInvalid (s : State) (h : Nat) : State :=
  if portRole s h = 2 then raisePkg s (srcHub h 0) K.BAR_ACCESS_INVALID else raise s (srcHub h 0) K.BAR_ACCESS_INVALID (portPart s h)

/-- Size and alignment of R13. -/
def accessSized (a : Access) : Bool := (a.size == 4 || a.size == 8) && a.off % a.size == 0

/-- An access while BAR4 is locked; the first after each partition reset is noted. -/
def bar4Note (s : State) (h : Nat) : State :=
  let p := portPart s h
  if s.safe || s.mseOff.contains h || portRole s h == 2 || recovering s then s
  else if ideBlocked s h then ideNote s h
  else if dbgAuth s p || s.bar4Noted.any (fun x => portPart s x == p) then s
  else raise { s with bar4Noted := h :: s.bar4Noted } (srcHub h 0) K.BAR4_LOCKED p

/-- A write of any port that R503 lets reach its partition: the rows before the role's. -/
def accessPort (s : State) (a : Access) (k : Nat → State) : State :=
  if s.safe || s.mseOff.contains a.port then s
  else if !accessSized a then barInvalid s a.port
  else if ideBlocked s a.port then ideNote s a.port
  else if portRole s a.port = 2 || rdb s (portPart s a.port) R.PART_CTRL_RESET_BUSY || recovering s then s
  else k (portPart s a.port)

/-- A write to a block that only the controlling host reaches. -/
def accessCtl (s : State) (a : Access) (k : Nat → State) : State :=
  accessPort s a (fun p => if portRole s a.port = 0 then k p else s)

/-- Elements (i, j) of a field whose register begins at byte b. -/
def elemAt (f : Reg) (b : Nat) : Option (Nat × Nat) :=
  if b < f.base then none
  else
    let d := b - f.base
    let i := if f.stride = 0 then 0 else d / f.stride
    let r := if f.stride = 0 then d else d % f.stride
    let j := if f.stride2 = 0 then 0 else r / f.stride2
    let r := if f.stride2 = 0 then r else r % f.stride2
    if r = 0 ∧ i < f.count ∧ j < f.count2 then some (i, j) else none

/-- The value of a field at bit position pos after `size` bytes of v are written at byte off, and the bits of it that are written. -/
def overlay (width pos off size v old : Nat) : Nat × Nat :=
  let lo := max pos (8 * off)
  let hi := min (pos + width) (8 * (off + size))
  if hi ≤ lo then (old, 0)
  else
    let m := bitsOf v (lo - 8 * off) (hi - lo) * 2 ^ (lo - pos)
    (old - bitsOf old (lo - pos) (hi - lo) * 2 ^ (lo - pos) + m, m)

/-- Whether bits of the field lie in the access. -/
def touches (f : Reg) (b off size : Nat) : Bool :=
  decide (max (8 * b + f.lsb) (8 * off) < min (8 * b + f.lsb + f.width) (8 * (off + size)))

/-- The field after the write, by its access code (R11). `ok` says that an RWL lock is open and, for DBG, that debug is authorised. -/
def fieldWrite (s : State) (p : Nat) (f : Reg) (i j b off size v : Nat) (locked auth : Bool) : State :=
  let q := if f.pkg then 4 else p
  let old := rd s q f i j
  let (new, bits) := overlay f.width (8 * b + f.lsb) off size v old
  match f.acc with
  | .rw => wr s q f new i j
  | .w1c => wr s q f (old - (old &&& bits)) i j
  | .rwl => if locked then s else wr s q f new i j
  | .dbg => if auth then wr s q f new i j else s
  | _ => s

/-- A write of `size` bytes at `off` to the plain fields that `allow` admits. -/
def fieldsWrite (s : State) (p off size v : Nat) (locked auth : Bool) (allow : Reg → Nat → Nat → Bool) : State :=
  R.all.foldl (fun s f =>
    (List.range (size + 7)).foldl (fun s k =>
      let b := off + k - 7
      if off + k < 7 then s
      else match elemAt f b with
        | none => s
        | some (i, j) => if touches f b off size && allow f i j then fieldWrite s p f i j b off size v locked auth else s) s) s

/-- The value written to bits [lsb + width - 1 : lsb] of the register at byte b, when the access covers them whole. -/
def written (a : Access) (b lsb width : Nat) : Option Nat :=
  if 8 * a.off ≤ 8 * b + lsb ∧ 8 * b + lsb + width ≤ 8 * (a.off + a.size) then
    some (bitsOf a.val.toNat (8 * b + lsb - 8 * a.off) width)
  else none

/-- A one-bit command field is written 1. -/
def writes1 (a : Access) (b lsb : Nat) : Bool := written a b lsb 1 == some 1

/-- A 32-bit write to half of a register that acts only whole: SYNC_HOST_SIG and TD_CMD (R504). -/
def halfCommand (write : Bool) (off size : Nat) : Bool :=
  write && size == 4 && [0x320020, 0x320024, 0xA00010, 0xA00014].contains off

/-- An access that R13 or R504 refuses. -/
def badAccess (write : Bool) (off size : Nat) : Bool :=
  !((size == 4 || size == 8) && off % size == 0) || halfCommand write off size

/-- A malformed access: a write is discarded, a read returns all-ones (R13, R503). -/
def execBarAccessInvalid (port : HPort) (write : Bool) (off size : Nat) (s : State) : Host.Outcome State Fault Refusal :=
  .next (
    if !badAccess write off size then s
    else
      let s' := if s.safe || s.mseOff.contains port then s else barInvalid s port
      if write then s' else { s' with readOut := BitVec.allOnes 64 })

/-- PART_MODE_REQ.VOTED: the controlling ports with a standing vote for the NEW_MODE of partition p (R380). -/
def votedMask (s : State) (p : Nat) : Nat :=
  ((partsAll s).filter (fun q => rdb s q R.PART_MODE_REQ_VOTE && rd s q R.PART_MODE_REQ_NEW_MODE == rd s p R.PART_MODE_REQ_NEW_MODE)).foldl
    (fun a q => a + 2 ^ ctrlPort s q) 0

end Sys2Proof.Machine
end

