-- ==== Sys2Proof/Machine/ControlCore.lean ====
section
/-!
DEFINITION. The control core of a tile and the control of its queues (spec/06). An instruction command executes when its tile is
RUNNING, runs and holds that very instruction at PC; otherwise nothing happens (log 6).
-/

namespace Sys2Proof.Machine

/-! ### Encodings (R169) -/

def encR (op : Nat) (rd rs1 rs2 : BitVec 5) (funct : BitVec 11) : Nat :=
  op * 2 ^ 26 + rd.toNat * 2 ^ 21 + rs1.toNat * 2 ^ 16 + rs2.toNat * 2 ^ 11 + funct.toNat
/-- Formats I, S and B: two register fields and 16 bits. -/
def encI (op : Nat) (a b : BitVec 5) (imm : BitVec 16) : Nat :=
  op * 2 ^ 26 + a.toNat * 2 ^ 21 + b.toNat * 2 ^ 16 + imm.toNat
def encJ (op : Nat) (off : BitVec 26) : Nat := op * 2 ^ 26 + off.toNat
def encE (op : Nat) (q k : BitVec 3) (rsvd : BitVec 20) : Nat :=
  op * 2 ^ 26 + q.toNat * 2 ^ 23 + k.toNat * 2 ^ 20 + rsvd.toNat

/-- The 32-bit word of instruction memory at an index (R167). -/
def fetchWord (s : State) (t pc : Nat) : Nat := leNat (sramRead s (imemKey t (4 * pc)) 4)

def pcOf (s : State) (t : Nat) : Nat := rd s 4 R.TILE_STATUS_PC t

/-- STATE of a tile: 0 HALTED, 1 RUNNING, 2 ABSENT (R192). -/
def tileState (s : State) (t : Nat) : Nat := if tilePresent s t then rd s 4 R.TILE_STATUS_STATE t else 2

/-- The core of tile t can execute: RUNNING, not waiting, and its partition runs. -/
def coreRuns (s : State) (t : Nat) : Bool :=
  tileState s t == 1 && (tile s t).stall.isNone && running s (partOfTile s t)

/-- The core runs and the instruction at its PC is w. -/
def coreAt (s : State) (t w : Nat) : Bool := coreRuns s t && fetchWord s t (pcOf s t) == w

/-- Opcodes of R170's table. -/
def opcodeDefined (op : Nat) : Bool :=
  (1 ≤ op && op ≤ 9) || (0x10 ≤ op && op ≤ 0x16) || (0x18 ≤ op && op ≤ 0x28)

/-- A fault of the control core: HALTED with PC on the instruction (R189). -/
def coreFault (s : State) (t : Nat) (k : Kind) (addr : Nat := 0) : State :=
  let s := wr s 4 R.TILE_STATUS_STATE 0 t
  let s := wr s 4 R.TILE_STATUS_HALT_CODE 0xFF t
  let s := wr s 4 R.TILE_STATUS_FAULT_KIND k.code t
  raise s (srcTile t 0) k (partOfTile s t) addr

/-- PC moves to an index; an undefined opcode there stops the core at once (R170). -/
def enterPc (s : State) (t pc : Nat) : State :=
  let s := wr s 4 R.TILE_STATUS_PC pc t
  if opcodeDefined (fetchWord s t pc / 2 ^ 26) then s else coreFault s t K.ILLEGAL_INSTR

/-- A RUNNING core whose PC or instruction memory a debugger changed stops at an undefined opcode as it resumes (R170). -/
def recheckPc (s : State) (t : Nat) : State :=
  if coreRuns s t && !opcodeDefined (fetchWord s t (pcOf s t) / 2 ^ 26) then coreFault s t K.ILLEGAL_INSTR else s

/-- Sequential execution goes on; past 16,383 it stops with PC_RANGE (R168). -/
def advance (s : State) (t : Nat) : State :=
  if pcOf s t = 16383 then coreFault s t K.PC_RANGE else enterPc s t (pcOf s t + 1)

/-- A taken branch or jump to an index; outside 0 to 16,383 it has no effect and stops the core (R168). -/
def jumpTo (s : State) (t : Nat) (target : Int) (link : State → State) : State :=
  if 0 ≤ target ∧ target ≤ 16383 then enterPc (link s) t target.toNat else coreFault s t K.PC_RANGE

/-- Execute the instruction w: an illegal form stops the core, else its body runs. -/
def coreExec (s : State) (t w : Nat) (legal : Bool) (body : State → State) : State :=
  if coreAt s t w then (if legal then body s else coreFault s t K.ILLEGAL_INSTR) else s

/-- An instruction whose whole effect is a register result. -/
def coreResult (s : State) (t w : Nat) (legal : Bool) (rd : BitVec 5) (v : Word) : State :=
  coreExec s t w legal (fun s => advance (setG s t rd v) t)

def sext16 (imm : BitVec 16) : Word := imm.signExtend 64
def zext16 (imm : BitVec 16) : Word := imm.setWidth 64

/-! ### Integer and FP32 operations (R171, R172) -/

def ofBool64 (b : Bool) : Word := if b then 1 else 0

def aluOp (funct : Nat) (a b : Word) : Word :=
  match funct with
  | 0x0 => a + b
  | 0x1 => a - b
  | 0x2 => a &&& b
  | 0x3 => a ||| b
  | 0x4 => a ^^^ b
  | 0x5 => a <<< (b.toNat % 64)
  | 0x6 => a >>> (b.toNat % 64)
  | 0x7 => a.sshiftRight (b.toNat % 64)
  | 0x8 => a * b
  | 0x9 => BitVec.ofNat 64 (a.toNat * b.toNat / 2 ^ 64)
  | 0xA => if b = 0 then 0xFFFFFFFFFFFFFFFF#64 else a / b
  | 0xB => if b = 0 then a else a % b
  | 0xC => ofBool64 (a.slt b)
  | 0xD => ofBool64 (a.ult b)
  | 0xE => if a.slt b then a else b
  | _ => if a.slt b then b else a

def fpuOp (funct : Nat) (a b : Half) : Word :=
  match funct with
  | 0x0 => (fAdd a b).setWidth 64
  | 0x1 => (fSub a b).setWidth 64
  | 0x2 => (fMul a b).setWidth 64
  | 0x3 => (fDiv a b).setWidth 64
  | 0x4 => (fSqrt a).setWidth 64
  | 0x5 => (fMin a b).setWidth 64
  | 0x6 => (fMax a b).setWidth 64
  | 0x7 => ofBool64 (fEq a b)
  | 0x8 => ofBool64 (fLt a b)
  | 0x9 => ofBool64 (fLe a b)
  | 0xA => (fCvtSW a).setWidth 64
  | 0xB => (fCvtWS a).signExtend 64
  | 0xC => (fAbs a).setWidth 64
  | _ => (fNeg a).setWidth 64

def execAlu (t : Tile) (rd rs1 rs2 : BitVec 5) (funct : BitVec 11) (s : State) : Host.Outcome State Fault Refusal :=
  .next (coreResult s t (encR 0x01 rd rs1 rs2 funct) (decide (funct.toNat ≤ 0xF)) rd
    (aluOp funct.toNat (getG s t rs1) (getG s t rs2)))

def execAddi (t : Tile) (rd rs1 : BitVec 5) (imm : BitVec 16) (s : State) : Host.Outcome State Fault Refusal :=
  .next (coreResult s t (encI 0x02 rd rs1 imm) true rd (getG s t rs1 + sext16 imm))

def execAndi (t : Tile) (rd rs1 : BitVec 5) (imm : BitVec 16) (s : State) : Host.Outcome State Fault Refusal :=
  .next (coreResult s t (encI 0x03 rd rs1 imm) true rd (getG s t rs1 &&& zext16 imm))

def execOri (t : Tile) (rd rs1 : BitVec 5) (imm : BitVec 16) (s : State) : Host.Outcome State Fault Refusal :=
  .next (coreResult s t (encI 0x04 rd rs1 imm) true rd (getG s t rs1 ||| zext16 imm))

def execXori (t : Tile) (rd rs1 : BitVec 5) (imm : BitVec 16) (s : State) : Host.Outcome State Fault Refusal :=
  .next (coreResult s t (encI 0x05 rd rs1 imm) true rd (getG s t rs1 ^^^ zext16 imm))

/-- SHI by imm[5:0]: 0 SLLI, 1 SRLI, 2 SRAI in imm[7:6] (R170). -/
def shiOp (a : Word) (imm : BitVec 16) : Word :=
  match bitsOf imm.toNat 6 2 with
  | 0 => a <<< (imm.toNat % 64)
  | 1 => a >>> (imm.toNat % 64)
  | _ => a.sshiftRight (imm.toNat % 64)

def execShi (t : Tile) (rd rs1 : BitVec 5) (imm : BitVec 16) (s : State) : Host.Outcome State Fault Refusal :=
  .next (coreResult s t (encI 0x06 rd rs1 imm) (decide (imm.toNat < 192)) rd (shiOp (getG s t rs1) imm))

def execLui (t : Tile) (rd rs1 : BitVec 5) (imm : BitVec 16) (s : State) : Host.Outcome State Fault Refusal :=
  .next (coreResult s t (encI 0x07 rd rs1 imm) (rs1 == 0) rd (sext16 imm <<< 16))

/-- FSQRT takes rs1 only: a non-zero rs2 field is a reserved field (R171). -/
def execFpu (t : Tile) (rd rs1 rs2 : BitVec 5) (funct : BitVec 11) (s : State) : Host.Outcome State Fault Refusal :=
  .next (coreResult s t (encR 0x08 rd rs1 rs2 funct) (decide (funct.toNat ≤ 0xD) && (funct != 4 || rs2 == 0)) rd
    (fpuOp funct.toNat ((getG s t rs1).setWidth 32) ((getG s t rs2).setWidth 32)))

def execInsi (t : Tile) (rd rs1 : BitVec 5) (imm : BitVec 16) (s : State) : Host.Outcome State Fault Refusal :=
  .next (coreResult s t (encI 0x09 rd rs1 imm) true rd ((getG s t rs1 <<< 16) ||| zext16 imm))

/-! ### Data memory (R167, R168) -/

/-- The data-memory address of an access of n bytes, when it is in range and aligned. -/
def dmemAddr (s : State) (t : Nat) (rs1 : BitVec 5) (imm : BitVec 16) (n : Nat) : Option Nat :=
  let a := (getG s t rs1 + sext16 imm).toNat
  if a < 65536 ∧ a % n = 0 then some a else none

def dmemRead (s : State) (t a n : Nat) : Nat := leNat (sramRead s (dmemKey t a) n)

def coreLoad (s : State) (t w n : Nat) (rd rs1 : BitVec 5) (imm : BitVec 16) (f : Nat → Word) : State :=
  coreExec s t w true (fun s =>
    match dmemAddr s t rs1 imm n with
    | none => coreFault s t K.DMEM_RANGE
    | some a => advance (setG s t rd (f (dmemRead s t a n))) t)

def coreStore (s : State) (t w n : Nat) (rs2 rs1 : BitVec 5) (imm : BitVec 16) : State :=
  coreExec s t w true (fun s =>
    match dmemAddr s t rs1 imm n with
    | none => coreFault s t K.DMEM_RANGE
    | some a => advance (sramWrite s (dmemKey t a) (leBytes n (getG s t rs2).toNat)) t)

def execLdd (t : Tile) (rd rs1 : BitVec 5) (imm : BitVec 16) (s : State) : Host.Outcome State Fault Refusal :=
  .next (coreLoad s t (encI 0x10 rd rs1 imm) 8 rd rs1 imm (BitVec.ofNat 64))

def execLdw (t : Tile) (rd rs1 : BitVec 5) (imm : BitVec 16) (s : State) : Host.Outcome State Fault Refusal :=
  .next (coreLoad s t (encI 0x11 rd rs1 imm) 4 rd rs1 imm (BitVec.ofNat 64))

def execLdws (t : Tile) (rd rs1 : BitVec 5) (imm : BitVec 16) (s : State) : Host.Outcome State Fault Refusal :=
  .next (coreLoad s t (encI 0x12 rd rs1 imm) 4 rd rs1 imm (fun x => (BitVec.ofNat 32 x).signExtend 64))

def execLdb (t : Tile) (rd rs1 : BitVec 5) (imm : BitVec 16) (s : State) : Host.Outcome State Fault Refusal :=
  .next (coreLoad s t (encI 0x13 rd rs1 imm) 1 rd rs1 imm (BitVec.ofNat 64))

def execStd (t : Tile) (rs2 rs1 : BitVec 5) (imm : BitVec 16) (s : State) : Host.Outcome State Fault Refusal :=
  .next (coreStore s t (encI 0x14 rs2 rs1 imm) 8 rs2 rs1 imm)

def execStw (t : Tile) (rs2 rs1 : BitVec 5) (imm : BitVec 16) (s : State) : Host.Outcome State Fault Refusal :=
  .next (coreStore s t (encI 0x15 rs2 rs1 imm) 4 rs2 rs1 imm)

def execStb (t : Tile) (rs2 rs1 : BitVec 5) (imm : BitVec 16) (s : State) : Host.Outcome State Fault Refusal :=
  .next (coreStore s t (encI 0x16 rs2 rs1 imm) 1 rs2 rs1 imm)

/-! ### Branches and jumps (R168 to R170) -/

def coreBranch (s : State) (t op : Nat) (rs1 rs2 : BitVec 5) (off : BitVec 16) (c : Word → Word → Bool) : State :=
  coreExec s t (encI op rs1 rs2 off) true (fun s =>
    if c (getG s t rs1) (getG s t rs2) then jumpTo s t (pcOf s t + off.toInt) id else advance s t)

def execBeq (t : Tile) (rs1 rs2 : BitVec 5) (off : BitVec 16) (s : State) : Host.Outcome State Fault Refusal :=
  .next (coreBranch s t 0x18 rs1 rs2 off (fun a b => a == b))

def execBne (t : Tile) (rs1 rs2 : BitVec 5) (off : BitVec 16) (s : State) : Host.Outcome State Fault Refusal :=
  .next (coreBranch s t 0x19 rs1 rs2 off (fun a b => a != b))

def execBlt (t : Tile) (rs1 rs2 : BitVec 5) (off : BitVec 16) (s : State) : Host.Outcome State Fault Refusal :=
  .next (coreBranch s t 0x1A rs1 rs2 off (fun a b => a.slt b))

def execBge (t : Tile) (rs1 rs2 : BitVec 5) (off : BitVec 16) (s : State) : Host.Outcome State Fault Refusal :=
  .next (coreBranch s t 0x1B rs1 rs2 off (fun a b => !a.slt b))

def execBltu (t : Tile) (rs1 rs2 : BitVec 5) (off : BitVec 16) (s : State) : Host.Outcome State Fault Refusal :=
  .next (coreBranch s t 0x1C rs1 rs2 off (fun a b => a.ult b))

def execBgeu (t : Tile) (rs1 rs2 : BitVec 5) (off : BitVec 16) (s : State) : Host.Outcome State Fault Refusal :=
  .next (coreBranch s t 0x1D rs1 rs2 off (fun a b => !a.ult b))

def execJal (t : Tile) (off : BitVec 26) (s : State) : Host.Outcome State Fault Refusal :=
  .next (coreExec s t (encJ 0x1E off) true (fun s =>
    jumpTo s t (pcOf s t + off.toInt) (fun s => setG s t 31 (BitVec.ofNat 64 (pcOf s t + 1)))))

/-- JALR takes its target from bits [13:0] of rs1 + imm when no higher bit is set (R170). -/
def execJalr (t : Tile) (rd rs1 : BitVec 5) (imm : BitVec 16) (s : State) : Host.Outcome State Fault Refusal :=
  .next (coreExec s t (encI 0x1F rd rs1 imm) true (fun s =>
    jumpTo s t ((getG s t rs1 + sext16 imm).toNat : Int) (fun s => setG s t rd (BitVec.ofNat 64 (pcOf s t + 1)))))

/-! ### Queues (R175, R181 to R188) -/

def qState (s : State) (t q : Nat) : Nat := rd s 4 R.ENGQ_STATUS_QSTATE t q

/-- ENGQ_STATUS of a queue (R181). -/
def engqStatus (s : State) (t q : Nat) : Nat :=
  let x := queue s t q
  x.waiting.length + queueDepth s t q * 2 ^ 8 + qState s t q * 2 ^ 16
    + (enginePresent s t (engineOfQueue q)).toNat * 2 ^ 18 + (!x.running.isEmpty).toNat * 2 ^ 19
    + rd s 4 R.ENGQ_STATUS_LAST_STATUS t q * 2 ^ 24 + rd s 4 R.ENGQ_STATUS_DONE t q * 2 ^ 32

/-- The command in g(4k) to g(4k + 3) (R175). -/
def pushCmd (s : State) (t : Nat) (k : Nat) : Cmd :=
  getG s t (BitVec.ofNat 5 (4 * k + 3)) ++ getG s t (BitVec.ofNat 5 (4 * k + 2))
    ++ getG s t (BitVec.ofNat 5 (4 * k + 1)) ++ getG s t (BitVec.ofNat 5 (4 * k))

/-- Offer an entry to a queue (R182, R183, R188). -/
def pushQueue (s : State) (t q : Nat) (c : Cmd) : State :=
  if !enginePresent s t (engineOfQueue q) then wr s 4 R.ENGQ_STATUS_LAST_STATUS St.UNIT_ABSENT t q
  else if qState s t q ≠ 0 then s
  else
    let x := queue s t q
    if x.waiting.length < queueDepth s t q then
      setQueue s t q { x with waiting := x.waiting ++ [⟨c, rd s (partOfTile s t) R.ST_NOW_STEP⟩] }
    else raise (wr s 4 R.ENGQ_STATUS_QSTATE 1 t q) (srcTile t (q + 1)) K.QUEUE_OVERRUN (partOfTile s t)

def execPush (t : Tile) (q k : BitVec 3) (rsvd : BitVec 20) (s : State) : Host.Outcome State Fault Refusal :=
  .next (coreExec s t (encE 0x20 q k rsvd) (q.toNat ≤ 4 && k != 0 && rsvd == 0)
    (fun s => advance (pushQueue s t q.toNat (pushCmd s t k.toNat)) t))

def execQstat (t : Tile) (rd rs1 : BitVec 5) (imm : BitVec 16) (s : State) : Host.Outcome State Fault Refusal :=
  .next (coreResult s t (encI 0x21 rd rs1 imm) (rs1 == 0 && decide (imm.toNat ≤ 4)) rd
    (BitVec.ofNat 64 (engqStatus s t imm.toNat)))

/-- Reset a queue: waiting entries vanish; it is ACTIVE at once unless a command still runs (R185). A load that waited is given up. -/
def resetQueue (s : State) (t q : Nat) : State :=
  if enginePresent s t (engineOfQueue q) then
    let x := queue s t q
    let s := setQueue s t q { x with waiting := [] }
    let s := if q = 3 then dropMerge (dropWaiter s (srcTile t 4)) t else s
    wr s 4 R.ENGQ_STATUS_QSTATE (if x.running.isEmpty then 0 else 2) t q
  else s

def resetQueues (s : State) (t mask : Nat) : State :=
  (List.range 5).foldl (fun s q => if bitAt mask q then resetQueue s t q else s) s

/-- Every queue of a FENCE mask has settled (R186). -/
def fenceMet (s : State) (t mask : Nat) : Bool :=
  (List.range 5).all (fun q => !bitAt mask q || qState s t q == 1 || !enginePresent s t (engineOfQueue q)
    || ((queue s t q).waiting.isEmpty && (queue s t q).running.isEmpty))

/-! ### Counters (R254 to R260) -/

/-- A counter name in a register: bits [63:32] must be 0 (R254). -/
def resolveReg (s : State) (t : Nat) (v : Word) : NameRes :=
  if v.toNat < 2 ^ 32 then resolveName s (partOfTile s t) (v.setWidth 32) else .malformed

/-- Send a remote increment (R264). -/
def sendInc (s : State) (p src node index amount : Nat) : State :=
  post s p (.inc node src index (BitVec.ofNat 32 amount))

def execSig (t : Tile) (rd rs1 rs2 : BitVec 5) (funct : BitVec 11) (s : State) : Host.Outcome State Fault Refusal :=
  .next (coreExec s t (encR 0x22 rd rs1 rs2 funct) (rd == 0 && funct == 0) (fun s =>
    let amount := (getG s t rs2).toNat % 2 ^ 32
    match resolveReg s t (getG s t rs1) with
    | .malformed => coreFault s t K.COUNTER_NAME
    | .foreign => coreFault s t K.PARTITION_BOUNDARY
    | .ctr c =>
      if amount = 0 ∨ 0x80000000 ≤ amount then coreFault s t K.COUNTER_NAME
      else advance (issueInc s c (srcTile t 0) amount) t
    | .remote nd i =>
      if amount = 0 ∨ 0x80000000 ≤ amount then coreFault s t K.COUNTER_NAME
      else if !hasRoute s (partOfTile s t) nd then coreFault s t K.NO_ROUTE
      else advance (sendInc s (partOfTile s t) (srcTile t 0) nd i amount) t))

def execWait (t : Tile) (rd rs1 rs2 : BitVec 5) (funct : BitVec 11) (s : State) : Host.Outcome State Fault Refusal :=
  .next (coreExec s t (encR 0x23 rd rs1 rs2 funct) (rd == 0 && funct == 0) (fun s =>
    let target := (getG s t rs2).setWidth 32
    match resolveReg s t (getG s t rs1) with
    | .malformed => coreFault s t K.COUNTER_NAME
    | .remote .. => coreFault s t K.COUNTER_NAME
    | .foreign => coreFault s t K.PARTITION_BOUNDARY
    | .ctr c =>
      if waitMet s c target then advance s t
      else setTile s t { tile s t with stall := some (.wait ((getG s t rs1).setWidth 32) target) }))

/-- A stalled WAIT goes on once its test holds (R260). -/
def execWaitRelease (t : Tile) (s : State) : Host.Outcome State Fault Refusal :=
  .next (match (tile s t).stall with
    | some (.wait name target) =>
      (match resolveName s (partOfTile s t) name with
       | .ctr c =>
         if running s (partOfTile s t) && tileState s t == 1 && waitMet s c target then advance (setTile s t { tile s t with stall := none }) t
         else s
       | _ => s)
    | _ => s)

/-- Fields of a summary slot: 0 SUM, 1 MAX, 2 MIN, 3 NONFIN (R170). -/
def summaryField (s : State) (t k f : Nat) : Nat :=
  match f with
  | 0 => rd s 4 R.VX_SUM_SUM t k
  | 1 => rd s 4 R.VX_MAX_MAX t k
  | 2 => rd s 4 R.VX_MIN_MIN t k
  | _ => rd s 4 R.VX_NONFIN_NONFIN t k

/-- rs1 is neither named nor called reserved, and is not looked at (log 60). -/
def execVsum (t : Tile) (rd rs1 : BitVec 5) (imm : BitVec 16) (s : State) : Host.Outcome State Fault Refusal :=
  .next (coreResult s t (encI 0x24 rd rs1 imm) (decide (imm.toNat < 64) && !bitAt imm.toNat 3) rd
    (BitVec.ofNat 64 (summaryField s t (bitsOf imm.toNat 0 3) (bitsOf imm.toNat 4 2))))

/-! ### Control-state registers (R174) -/

/-- SR_TILE. -/
def srTile (s : State) (t : Nat) : Nat := t + (t / 8) * 2 ^ 8 + (t / 64) * 2 ^ 13 + partOfTile s t * 2 ^ 16

/-- SR_CYCLE grows by a free amount between two reads: cycles are not modelled (log 7). Bits [15:12] of imm and rs1 are neither named nor
called reserved, and are not looked at (log 60). -/
def execRdsr (t : Tile) (rd rs1 : BitVec 5) (imm : BitVec 16) (s : State) : Host.Outcome State Fault Refusal :=
  .next (match imm.toNat % 4096 with
    | 0 => coreResult s t (encI 0x25 rd rs1 imm) true rd (BitVec.ofNat 64 (srTile s t))
    | 1 => coreExec s t (encI 0x25 rd rs1 imm) true (fun s =>
        let v := (tile s t).cycle + freshNat s
        advance (setG (tickFree (setTile s t { tile s t with cycle := v })) t rd (BitVec.ofNat 64 v)) t)
    | 2 => coreResult s t (encI 0x25 rd rs1 imm) true rd (BitVec.ofNat 64 (stNow s (partOfTile s t)))
    | _ => coreExec s t (encI 0x25 rd rs1 imm) false id)

def execWrsr (t : Tile) (rd rs1 : BitVec 5) (imm : BitVec 16) (s : State) : Host.Outcome State Fault Refusal :=
  .next (coreExec s t (encI 0x26 rd rs1 imm) (rd == 0 && imm.toNat % 4096 == 3) (fun s =>
    advance (resetQueues s t ((getG s t rs1).toNat % 32)) t))

/-- rd, rs1 and the bits of imm that are not named are not looked at (log 60). -/
def execFence (t : Tile) (rd rs1 : BitVec 5) (imm : BitVec 16) (s : State) : Host.Outcome State Fault Refusal :=
  .next (coreExec s t (encI 0x27 rd rs1 imm) true (fun s =>
    if fenceMet s t (imm.toNat % 32) then advance s t
    else setTile s t { tile s t with stall := some (.fence (imm.setWidth 5)) }))

def execFenceRelease (t : Tile) (s : State) : Host.Outcome State Fault Refusal :=
  .next (match (tile s t).stall with
    | some (.fence mask) =>
      if running s (partOfTile s t) && tileState s t == 1 && fenceMet s t mask.toNat then advance (setTile s t { tile s t with stall := none }) t
      else s
    | _ => s)

/-- rd, rs1 and imm[15:8] are neither named nor called reserved, and are not looked at (log 60). -/
def execHalt (t : Tile) (rd rs1 : BitVec 5) (imm : BitVec 16) (s : State) : Host.Outcome State Fault Refusal :=
  .next (coreExec s t (encI 0x28 rd rs1 imm) true (fun s =>
    let s := wr s 4 R.TILE_STATUS_HALT_CODE (imm.toNat % 256) t
    let s := wr s 4 R.TILE_STATUS_PC ((pcOf s t + 1) % 16384) t
    wr s 4 R.TILE_STATUS_STATE 0 t))

/-! ### Starting and stopping a tile (R189, R192) -/

/-- The transition of R189's START row: START_PC, PC, SR_CYCLE 0, no fault since START, no WAIT or FENCE under way, RUNNING. -/
def startTile (s : State) (t pc : Nat) : State :=
  let s := wr s 4 R.TILE_CTRL_START_PC pc t
  let s := wr s 4 R.TILE_STATUS_FAULT_KIND 0 t
  let s := setTile s t { tile s t with cycle := 0, stall := none }
  let s := wr s 4 R.TILE_STATUS_STATE 1 t
  enterPc s t pc

/-- START of a present tile under R189. -/
def requestStart (s : State) (t pc : Nat) : State :=
  if tileState s t ≠ 0 ∨ !isReady s (partOfTile s t) then s
  else if rdb s 4 R.TILE_STATUS_LOADING t then setTile s t { tile s t with heldStart := some pc }
  else startTile s t pc

/-- STOP of a running tile: the WAIT or FENCE is abandoned with PC on it (R189). -/
def requestStop (s : State) (t : Nat) : State :=
  if tileState s t = 1 then
    let s := setTile s t { tile s t with stall := none }
    wr (wr s 4 R.TILE_STATUS_HALT_CODE 0xFE t) 4 R.TILE_STATUS_STATE 0 t
  else s

end Sys2Proof.Machine
end

