-- ==== Sys2Proof/Machine/Engine.lean ====
section
/-!
DEFINITION. Engine queues: starting the front entry, its common checks (spec/06 R176 to R180), completion (R177, R183, R185), and the
register writes that start, stop and reset a tile (R185, R189, R192).
-/

namespace Sys2Proof.Machine

def sigEn (c : Cmd) : Bool := cbit c 1 0

/-- Header checks made at the start: reserved flags, SIG_INC, the counter name (R180, R255). SIG_INC and SIG_NAME are looked at only when
SIG_EN is set (log 45). -/
def headerRefuse (s : State) (p : Nat) (c : Cmd) : Option Refuse :=
  if cbits c 1 1 7 ≠ 0 then some badDesc
  else if sigEn c then
    if cbs c 2 2 = 0 then some badDesc
    else match resolveName s p (BitVec.ofNat 32 (cbs c 4 4)) with
      | .malformed => some badDesc
      | .foreign => some denied
      | _ => none
  else none

/-- A started command that is refused. -/
def refuseCmd (e : QEntry) (r : Refuse) : RunCmd := { cmd := e.cmd, step := e.step, status := r.status, fault := r.fault }
/-- A started command whose work is done. -/
def okCmd (e : QEntry) : RunCmd := { cmd := e.cmd, step := e.step }
/-- A started command that ended with an optional failure. -/
def endCmd (e : QEntry) : Option Refuse → RunCmd
  | none => okCmd e
  | some r => refuseCmd e r

/-- A command started earlier will stop the queue, or still occupies its engine (R183, R282, R308). Only a look-up or a merge
leaves its engine while it is unfinished (R111, R137). -/
def queueBlocked (x : EngQueue) (q : Nat) : Bool :=
  x.running.any (fun r => (match r.fault with | some f => f.cls != 0 | none => false)
    || (!r.finished && !(q == 3 && (opcOf r.cmd == 4 || opcOf r.cmd == 5))))

/-- The entry the engine would start next: the engine is present, the partition runs and the queue is ACTIVE (R183). -/
def headEntry (s : State) (t q : Nat) : Option QEntry :=
  if enginePresent s t (engineOfQueue q) && running s (partOfTile s t) && qState s t q == 0 && !queueBlocked (queue s t q) q then
    (queue s t q).waiting.head?
  else none

/-- The front entry leaves the queue and runs (R175). -/
def startCmd (s : State) (t q : Nat) (r : RunCmd) : State :=
  let x := queue s t q
  setQueue s t q { waiting := x.waiting.tail, running := x.running ++ [r] }

/-- A body refuses its command with BAD_DESC; a look-up's refusal stands in its run (R105). -/
def bodyBad : Option (State × RunCmd) → Bool
  | some (s, r) => (r.status == St.BAD_DESC && r.fault == badDesc.fault)
      || (!r.finished && s.looks.any (fun x => leBytes 4 x.msgId == r.keep && x.status == St.BAD_DESC))
  | none => false

/-- Start the front entry of a queue as operation `opc`. An entry whose OPC the engine does not define is refused by any
row of the engine; BAD_DESC goes before the refusal of a foreign SIG_NAME (R180). `body` answers none when the engine must wait. -/
def engineRow (s : State) (t q opc : Nat) (defined : Nat → Bool) (body : State → QEntry → Option (State × RunCmd)) : State :=
  match headEntry s t q with
  | none => s
  | some e =>
    if !defined (opcOf e.cmd) then startCmd s t q (refuseCmd e badDesc)
    else if opcOf e.cmd ≠ opc then s
    else match headerRefuse s (partOfTile s t) e.cmd with
      | some r => startCmd s t q (refuseCmd e (if bodyBad (body s e) then badDesc else r))
      | none => match body s e with
        | none => s
        | some (s', r) =>
          let s'' := startCmd s' t q r
          if isHold s' (partOfTile s t) then holdEngQueue s'' t q else s''

/-! ### ECC events (R221, R251, R285, R286) -/

/-- Count a corrected error and send its note. -/
def eccCorrected (s : State) (t : Nat) : EccMem → State
  | .sp u => raise (wrSat s 4 R.SP_ECC_CORR 1 u) (srcTile u 6) K.SP_ECC_CORRECTED (partOfTile s u)
  | .clm c => raise (wrSat s 4 R.CLM_ECC_CORR 1 c) (srcCluster c 0x41) K.CLM_ECC_CORRECTED (partOfCluster s c)
  | .acc => raise (wrSat s 4 R.MX_STATUS_ECC_CORR 1 t) (srcTile t 7) K.ACC_ECC_CORRECTED (partOfTile s t)
  | .side => raise (wrSat s 4 R.VR_STATUS_SIDE_ECC_CORR 1 t) (srcTile t 8) K.SIDE_ECC_CORRECTED (partOfTile s t)
  | .hbm k _ =>
    let s := wrSat s 4 R.HBM_ECC_CORR_CNT 1 k
    let n := rd s 4 R.HBM_ECC_CORR_CNT k
    let th := rd s (partOfStack s k) R.HBM_ECC_THRESH_THRESH
    if th ≠ 0 ∧ n % th = 0 then raise s (srcStack k 2) K.HBM_ECC_THRESHOLD (partOfStack s k) else s

/-- An uncorrectable error: recorded, F2, and the partition goes to HOLD. -/
def eccUncorrected (s : State) (t : Nat) : EccMem → State
  | .sp u => raise s (srcTile u 6) K.SP_ECC_UNCORRECTED (partOfTile s u)
  | .clm c => raise s (srcCluster c 0x41) K.CLM_ECC_UNCORRECTED (partOfCluster s c)
  | .acc => raise s (srcTile t 7) K.ACC_ECC_UNCORRECTED (partOfTile s t)
  | .side => raise s (srcTile t 8) K.SIDE_ECC_UNCORRECTED (partOfTile s t)
  | .hbm k off =>
    let s := wrSat s 4 R.HBM_ECC_UE_CNT 1 k
    let s := wr s 4 R.HBM_ECC_UE_PC (off.toNat / 256 % 64) k
    let s := wr s 4 R.HBM_UE_OFF_UE_OFF (off.toNat / 64 * 64) k
    raise s (srcStack k 2) K.HBM_UNCORRECTABLE (partOfStack s k)

/-- An engine's work under an ECC event of one HBM atom. The work reads the atom when it would go otherwise without it. A corrected atom is
counted; a poisoned one fails the check of what it lies in, and the base die's fault follows (R286). -/
def underEcc (s : State) (ecc : Ecc) (f : State → State) : State :=
  let bad (k : Stack) (o : BitVec 36) : State := { f { s with poison := some (hbmKey k (o.toNat / 64 * 64)) } with poison := s.poison }
  match ecc with
  | .corrected (.hbm k o) => if bad k o = f s then f s else f (eccCorrected s 0 (.hbm k o))
  | .uncorrected (.hbm k o) => if bad k o = f s then f s else eccUncorrected (bad k o) 0 (.hbm k o)
  | _ => f s

/-- The words of 8 bytes that a write of n bytes covers in part: each is read, corrected and written back (R285). -/
def partialSpans (x : Space) (n : Nat) : List (Bool × Nat × Nat) :=
  if n = 0 then []
  else (devSpans x n).filterMap (fun (h, k, m) => if h || (k % 8 = 0 && m % 8 = 0) then none else some (h, k, m))

/-- Spans meet [key, key + n). -/
def spansHit (l : List (Bool × Nat × Nat)) (h : Bool) (key n : Nat) : Bool :=
  l.any (fun (h', k, m) => h' == h && decide (k < key + n) && decide (key < k + m))

/-- A word of scratchpad or cluster memory lies in the spans. -/
def onChipHit (l : List (Bool × Nat × Nat)) : EccMem → Bool
  | .sp u => spansHit l false (spKey u 0) (2 ^ 22)
  | .clm k => spansHit l false (clmKey k 0) (2 ^ 24)
  | _ => false

/-- Work that reads the spans `l` under an ECC event: a word of scratchpad or cluster memory in them is corrected and counted, or stops the
work, which writes nothing further (R285); an atom of HBM as `underEcc` has it (R286). -/
def eccReads (s : State) (t : Nat) (l : List (Bool × Nat × Nat)) (ecc : Ecc) (f : State → State) : State :=
  match ecc with
  | .corrected m => if onChipHit l m then f (eccCorrected s t m) else underEcc s ecc f
  | .uncorrected m => if onChipHit l m then eccUncorrected s t m else underEcc s ecc f
  | .none => f s

/-! ### Slots (R203 to R207) -/

/-- A slot's record: state (0 FREE, 1 LIVE, 2 HELD), FP16, shape, offset sum. -/
structure SlotRec where
  state  : Nat
  fp16   : Bool
  shape  : Nat
  offset : Nat
  deriving DecidableEq, Repr

def slotRec (s : State) (t k : Nat) : SlotRec :=
  ⟨rd s 4 R.MX_SLOT_INFO_STATE t k, rdb s 4 R.MX_SLOT_INFO_FP16 t k, rd s 4 R.MX_SLOT_INFO_SHAPE t k,
   rd s 4 R.MX_SLOT_INFO_OFFSET_SUM t k⟩

def setSlot (s : State) (t k : Nat) (r : SlotRec) : State :=
  let s := wr s 4 R.MX_SLOT_INFO_STATE r.state t k
  let s := wrb s 4 R.MX_SLOT_INFO_FP16 r.fp16 t k
  let s := wr s 4 R.MX_SLOT_INFO_SHAPE r.shape t k
  wr s 4 R.MX_SLOT_INFO_OFFSET_SUM r.offset t k

/-- A FREE slot holds no record (R205). -/
def freeSlot (s : State) (t k : Nat) : State := setSlot s t k ⟨0, false, 0, 0⟩

/-- The slots of a tile become FREE. -/
def freeTile (s : State) (t k : Nat) : State :=
  if (slotRec s t k).fp16 then freeSlot s t k else freeSlot (freeSlot s t k) t (k + 1)

/-! ### Completion (R177, R183, R185) -/

/-- Give a header signal; a remote name without a route stalls the queue with NO_ROUTE (R322). -/
def headerSignal (s : State) (t q : Nat) (c : Cmd) : State :=
  let p := partOfTile s t
  match resolveName s p (BitVec.ofNat 32 (cbs c 4 4)) with
  | .ctr x => issueInc s x (srcTile t (q + 1)) (cbs c 2 2)
  | .remote nd i =>
    if hasRoute s p nd then sendInc s p (srcTile t (q + 1)) nd i (cbs c 2 2)
    else
      let s := wr s 4 R.ENGQ_STATUS_LAST_STATUS St.NO_ROUTE t q
      let s := if qState s t q = 0 then wr s 4 R.ENGQ_STATUS_QSTATE 1 t q else s
      raise s (srcTile t (q + 1)) K.NO_ROUTE p 0 St.NO_ROUTE
  | _ => s

/-- A vector summary takes effect with its command's completion (R170, R237); SUM_KEEP combines it with the slot (R238). -/
def writeSummary (s : State) (t : Nat) (keep : Bool) : Option (Nat × List Half) → State
  | some (k, [a, b, c, d]) =>
    let old (f : Reg) : Half := BitVec.ofNat 32 (rd s 4 f t k)
    let put (s : State) (f : Reg) (v : Half) := wr s 4 f v.toNat t k
    let s' := put s R.VX_SUM_SUM (if keep then fAdd (old R.VX_SUM_SUM) a else a)
    let s' := put s' R.VX_MAX_MAX (if keep then fMax (old R.VX_MAX_MAX) b else b)
    let s' := put s' R.VX_MIN_MIN (if keep then fMin (old R.VX_MIN_MIN) c else c)
    put s' R.VX_NONFIN_NONFIN (if keep then BitVec.ofNat 32 (min (rd s 4 R.VX_NONFIN_NONFIN t k + d.toNat) 0xFFFFFFFF) else d)
  | _ => s

/-- A load of tile u ends; a held START takes effect (R189, R191). -/
def endLoad (s : State) (u : Nat) : State :=
  let s := wr s 4 R.TILE_STATUS_LOADING 0 u
  match (tile s u).heldStart with
  | none => s
  | some pc =>
    let s := setTile s u { tile s u with heldStart := none }
    if tileState s u = 0 ∧ isReady s (partOfTile s u) then startTile s u pc else s

/-- The fault of a completed command: F1 stalls its queue unless the queue is in RESET (R183, R185). -/
def cmdFault (s : State) (t q : Nat) (status : Nat) (f : CmdFault) : State :=
  let s := if f.cls = 1 ∧ qState s t q = 0 then wr s 4 R.ENGQ_STATUS_QSTATE 1 t q else s
  raise s (srcTile t (q + 1)) ⟨f.kind, f.cls⟩ (partOfTile s t) f.addr status

/-- The queue leaves RESET once no command of it runs (R185). -/
def leaveReset (s : State) (t q : Nat) : State :=
  if qState s t q = 2 ∧ (queue s t q).running.isEmpty then wr s 4 R.ENGQ_STATUS_QSTATE 0 t q else s

/-- A failed host access is counted at the port it was made through (R383). -/
def countAbort (s : State) (r : RunCmd) (f : CmdFault) : State :=
  match r.errPort with
  | some h => if f.kind = K.HOST_DMA_ERROR.code then wrSat s 4 R.HP_STATUS_DMA_ERRS 1 h else s
  | none => s

/-- The device addresses a DMA command names. -/
def dmaAddrs (r : RunCmd) : List Nat :=
  if opcOf r.cmd = 2 then [leNat (r.keep.take 8)] else [cbs r.cmd 16 8, cbs r.cmd 8 8]

/-- The port through which a command's host access fails, of the addresses it reads and writes: that of the first window whose port cannot be
used, or else of the first window it reads; a write is posted and shows no failure (R368). -/
def blamePort (s : State) (p : Nat) (reads writes : List Nat) : Option Nat :=
  let owner (a : Nat) : Option Nat := match parseDev a with | some (.win w _) => some (winPort s p w) | _ => none
  match ((reads ++ writes).filterMap owner).find? (fun h => !portUsable s h) with
  | some h => some h
  | none => (reads.filterMap owner).head?

/-- A matrix command ends: an MMA has read its last operand (R200), an MDRAIN with FREE leaves its slots FREE (R206). -/
def endMatrix (s : State) (t : Nat) (r : RunCmd) : State :=
  if r.status ≠ St.OK then s
  else match opcOf r.cmd with
    | 1 => settleMma s t r
    | 2 => if cbit r.cmd 20 25 then freeTile s t (cbits r.cmd 16 20 5) else s
    | _ => s

/-- The oldest started command of a queue completes. -/
def completeCmd (s : State) (t q : Nat) (r : RunCmd) (rest : List RunCmd) : State :=
  let s := setQueue s t q { queue s t q with running := rest }
  let s := wrAdd s 4 R.ENGQ_STATUS_DONE 1 t q
  let s := wr s 4 R.ENGQ_STATUS_LAST_STATUS r.status t q
  let s := writeSummary s t (cbit r.cmd 10 6) r.summary
  let s := match r.loading with | some u => endLoad s u | none => s
  let s := if q = 0 ∨ q = 4 then endMatrix s t r else s
  let s := if r.status = St.OK ∧ sigEn r.cmd then headerSignal s t q r.cmd else s
  let s := match r.fault with
    | some f => cmdFault (countAbort s r f) t q r.status f
    | none => s
  leaveReset s t q

def execCommandComplete (t : Tile) (q : Fin 5) (s : State) : Host.Outcome State Fault Refusal :=
  .next (match (queue s t q).running with
    | r :: rest => if r.finished && r.acks == 0 && clocked s (partOfTile s t) then completeCmd s t q r rest else s
    | [] => s)

/-! ### Starting a row under an ECC event -/

/-- A command of queue q that touches the spans `l` outside its tile reads the word: its tile's scratchpad, accumulator and side memory, its
cluster's memory for a vector or row command, and those spans. -/
def eccFits (t q : Nat) (l : List (Bool × Nat × Nat)) : EccMem → Bool
  | .sp u => u.val == t || spansHit l false (spKey u 0) (2 ^ 22)
  | .clm c => ((q == 1 || q == 2) && c.val == clusterOfTile t) || spansHit l false (clmKey c 0) (2 ^ 24)
  | .acc => q != 3
  | .side => q == 2
  | .hbm k off => spansHit l true (hbmKey k (off.toNat / 64 * 64)) 64

/-- Spans of n bytes at each of several device addresses of partition p. -/
def addrSpans (s : State) (p : Nat) (l : List (Nat × Nat)) : List (Bool × Nat × Nat) :=
  l.flatMap (fun (a, n) => devSpans (devSpace s p a) n)

/-- What the front command would start as, when it is operation `opc`, nothing refuses it and it reads the word. -/
def eccMeets (s : State) (t q opc : Nat) (touch : State → Cmd → List (Nat × Nat)) (body : State → QEntry → Option (State × RunCmd))
    (m : EccMem) : Option (QEntry × State × RunCmd) :=
  match headEntry s t q with
  | some e =>
    if opcOf e.cmd = opc ∧ (headerRefuse s (partOfTile s t) e.cmd).isNone then
      match body s e with
      | some (s', r) => if r.status = St.OK ∧ eccFits t q (addrSpans s (partOfTile s t) (touch s e.cmd)) m then some (e, s', r) else none
      | none => none
    else none
  | none => none

/-- A read of HBM through a RAW address, in the commands that may make one. -/
def rawRead (q : Nat) (c : Cmd) : Bool := if q = 3 ∧ opcOf c ≠ 1 then opcOf c == 6 && cbit c 23 3 else cbit c 15 3

/-- An uncorrectable word stops the command that met it, which writes nothing further, and its HOLD abandons it (R221, R251, R285). A matrix
command stops among its writes; another one before them, and what it would have written is undefined (R252). A poisoned atom of HBM
ends the command as a failed checksum does; its fault is the base die's (R286). -/
def eccStop (s : State) (t q : Nat) (e : QEntry) (s' : State) (r : RunCmd) : EccMem → State
  | .hbm k off =>
    let r := refuseCmd e (if rawRead q e.cmd then ⟨St.CHECKSUM_MISMATCH, none⟩ else checksumBad)
    let s1 := if (queue s t q).running.isEmpty then completeCmd (startCmd s t q r) t q r [] else startCmd s t q r
    eccUncorrected s1 t (.hbm k off)
  | m => eccUncorrected (startCmd (if q = 0 ∨ q = 4 then s' else s) t q { r with finished := false }) t m

/-- Start a row under an ECC event; one that the command cannot meet is none. A corrected word is counted first. -/
def eccRow (s : State) (t q opc : Nat) (defined : Nat → Bool) (ecc : Ecc) (body : State → QEntry → Option (State × RunCmd))
    (touch : State → Cmd → List (Nat × Nat) := fun _ _ => []) : State :=
  match ecc with
  | .none => engineRow s t q opc defined body
  | .corrected m => engineRow (if (eccMeets s t q opc touch body m).isSome then eccCorrected s t m else s) t q opc defined body
  | .uncorrected m =>
    (match eccMeets s t q opc touch body m with
     | some (e, s', r) => eccStop s t q e s' r m
     | none => engineRow s t q opc defined body)

/-! ### Tile control registers (R185, R189, R192) -/

/-- A write of TILE_CTRL; with START and STOP both set it is discarded. -/
def writeTileCtrl (s : State) (t : Nat) (val : Half) : State :=
  let v := val.toNat
  if bitAt v 0 && bitAt v 1 then s
  else if bitAt v 0 then requestStart s t (bitsOf v 16 14)
  else
    let s := wr s 4 R.TILE_CTRL_START_PC (bitsOf v 16 14) t
    if bitAt v 1 then requestStop s t else s

def execTileStart (port : HPort) (t : Tile) (val : Half) (s : State) : Host.Outcome State Fault Refusal :=
  .next (if tileAccess s port t && bitAt val.toNat 0 then writeTileCtrl s t val else ideNote s port)

def execTileStop (port : HPort) (t : Tile) (val : Half) (s : State) : Host.Outcome State Fault Refusal :=
  .next (if tileAccess s port t && bitAt val.toNat 1 then writeTileCtrl s t val else ideNote s port)

def execQreset (port : HPort) (t : Tile) (mask : BitVec 5) (s : State) : Host.Outcome State Fault Refusal :=
  .next (if tileAccess s port t then resetQueues s t mask.toNat else ideNote s port)

end Sys2Proof.Machine
end

