-- ==== Sys2Proof/Machine/Matrix.lean ====
section
/-!
DEFINITION. The matrix engine (spec/07): MMA, MDRAIN, MTLOAD, MBIND, MSLOT from the matrix queue and the deferred queue.
-/

namespace Sys2Proof.Machine

/-! ### Bindings (R215 to R217) -/

def cbValid (s : State) (t side i : Nat) : Bool := rdb s 4 (if side = 0 then R.MX_CB_A_VALID else R.MX_CB_B_VALID) t i
def cbFmt (s : State) (t side i : Nat) : Nat := rd s 4 (if side = 0 then R.MX_CB_A_CB_FMT else R.MX_CB_B_CB_FMT) t i
def cbX (s : State) (t side i : Nat) : Int := signedOf 9 (rd s 4 (if side = 0 then R.MX_CB_A_X else R.MX_CB_B_X) t i)
def ptValid (s : State) (t i : Nat) : Bool := bitAt (rd s 4 R.MX_PT_VALID_PT t) i

/-- The codebook conditions of R217. -/
def cbOk (s : State) (t : Nat) (m : MmaCmd) : Bool :=
  match m.fmt with
  | 3 => cbValid s t 0 m.cbA && cbFmt s t 0 m.cbA == 3 && cbValid s t 1 m.cbB && cbFmt s t 1 m.cbB == 3
  | 4 => m.cbA == m.cbB && ptValid s t m.cbA
  | _ => m.cbA == 0 && m.cbB == 0

/-- The offset sum of a slot an MMA initialises (R205, R217). -/
def mmaOffset (s : State) (t : Nat) (m : MmaCmd) : Int :=
  if m.fmt = 3 ∨ m.fmt = 4 then cbX s t 0 m.cbA + cbX s t 1 m.cbB else 0

/-- The static checks of R197. -/
def mmaBad (s : State) (t : Nat) (deferred : Bool) (m : MmaCmd) : Bool :=
  m.shape == 3 || decide (m.fmt < 1) || decide (4 < m.fmt) || m.k == 0 || m.k % kMultiple m.fmt != 0
    || m.a.valid == 0 || decide (shapeM m.shape < m.a.valid) || m.b.valid == 0 || decide (shapeN m.shape < m.b.valid)
    || (m.a.res && decide (511 < m.a.addr64)) || (m.b.res && decide (511 < m.b.addr64))
    || !m.a.inRange false (elemBits m.fmt) m.k || !m.b.inRange true (elemBits m.fmt) m.k
    || (m.a.trans && m.a.res) || (m.b.trans && m.b.res) || (m.hold && (!m.init || !deferred))
    || (!m.accFp16 && m.acc % 2 == 1) || !cbOk s t m || m.rsvd

/-! ### Slots (R203 to R207) -/

/-- The odd slot of a LIVE or HELD FP32 tile (R206). -/
def oddOfFp32 (s : State) (t k : Nat) : Bool := k % 2 == 1 && (slotRec s t k).state != 0 && !(slotRec s t k).fp16

def accStateBad : Refuse := withFault St.ACC_SLOT_STATE K.ACC_SLOT_STATE

/-- Refused by R206: an odd FP32 slot, a HELD slot from the matrix queue, unlike slots under an FP32 command. -/
def slotBad (s : State) (t acc : Nat) (fp32Tile deferred : Bool) : Bool :=
  oddOfFp32 s t acc || ((slotRec s t acc).state == 2 && !deferred)
    || (fp32Tile && slotRec s t acc != slotRec s t (acc + 1))

/-- Slots a started command names (R207). -/
def cmdSlots (s : State) (t : Nat) (c : Cmd) : List Nat :=
  match opcOf c with
  | 1 => let m := mmaOf c; if m.accFp16 then [m.acc] else [m.acc, m.acc + 1]
  | 2 => let a := cbits c 16 20 5; if (slotRec s t a).fp16 then [a] else [a, a + 1]
  | 5 => (List.range (cb c 9)).map (fun i => cb c 8 % 32 + i)
  | _ => []

/-- Matrix commands that run, from both queues. -/
def mxRunning (s : State) (t : Nat) : List RunCmd := (queue s t 0).running ++ (queue s t 4).running

/-- The unit of a command: 0 array with path, 1 drain, 2 path, none for MSLOT (R194). -/
def mxUnits (opc : Nat) : List Nat := match opc with | 1 => [0, 2] | 2 => [1] | 3 => [2] | 4 => [2] | _ => []

/-- Its unit is free and no running command names one of its slots (R194, R202, R207). -/
def mxStartable (s : State) (t : Nat) (c : Cmd) : Bool :=
  (mxRunning s t).all (fun r =>
    (mxUnits (opcOf r.cmd)).all (fun u => !(mxUnits (opcOf c)).contains u)
      && (cmdSlots s t r.cmd).all (fun k => !(cmdSlots s t c).contains k))

/-! ### The choice between the queues (R209) -/

/-- Which queue the engine starts next when both have a startable command: the deferred one while p < n. -/
def mxPickDeferred (s : State) (t : Nat) : Bool :=
  decide (rd s 4 R.MX_STATUS_DEF_POS t < min 8 (rd s 4 R.MX_CTRL_DEF_SHARE t))

/-! ### MMA (R195 to R199, R222) -/

/-- The record an INIT leaves in a slot. -/
def mmaRecord (s : State) (t : Nat) (m : MmaCmd) : SlotRec :=
  ⟨if m.hold then 2 else 1, m.accFp16, m.shape, toBits 10 (mmaOffset s t m)⟩

/-- Slot refusals of R206 for an MMA. -/
def mmaSlotBad (s : State) (t : Nat) (deferred : Bool) (m : MmaCmd) : Bool :=
  let r := slotRec s t m.acc
  slotBad s t m.acc (!m.accFp16) deferred
    || (!m.init && (r.state == 0 || r.fp16 != m.accFp16 || r.shape != m.shape || r.offset != toBits 10 (mmaOffset s t m)))

/-- INIT records the slots; an FP16 tile that replaces half of an FP32 one frees the other half, so that R205 holds (log 8). -/
def mmaRecords (s : State) (t : Nat) (m : MmaCmd) : State :=
  if m.init then
    if m.accFp16 then
      let s := if (slotRec s t m.acc).state ≠ 0 ∧ !(slotRec s t m.acc).fp16 then freeSlot s t (m.acc + 1) else s
      setSlot s t m.acc (mmaRecord s t m)
    else setSlot (setSlot s t m.acc (mmaRecord s t m)) t (m.acc + 1) (mmaRecord s t m)
  else s

def startMma (t : Nat) (deferred : Bool) (s : State) (e : QEntry) : Option (State × RunCmd) :=
  let m := mmaOf e.cmd
  if mmaBad s t deferred m then some (s, refuseCmd e badDesc)
  else if mmaSlotBad s t deferred m then some (s, refuseCmd e accStateBad)
  else some (mmaTile (mmaRecords s t m) t m (mmaCodes s t m) m.k,
    { okCmd e with keep := sramRead s (accKey t (8192 * m.acc)) ((if m.accFp16 then 1 else 2) * 8192), codes := mmaCodes s t m })

/-! ### MDRAIN (R211 to R213) -/

structure DrainCmd where
  dst : Nat
  stride : Nat
  acc : Nat
  ofmt : Nat
  rsAddr : Nat
  rsEn : Bool
  csEn : Bool
  addIn : Bool
  free : Bool
  csAddr : Nat
  m : Nat
  n : Nat
  rsvd : Bool
  deriving DecidableEq, Repr

def drainOf (c : Cmd) : DrainCmd :=
  { dst := cbs c 8 8, stride := cbits c 16 0 20, acc := cbits c 16 20 5, ofmt := cbits c 16 28 4
    rsAddr := cbits c 20 0 22, rsEn := cbit c 20 22, csEn := cbit c 20 23, addIn := cbit c 20 24, free := cbit c 20 25
    csAddr := cbits c 24 0 22, m := cb c 28, n := cb c 29
    rsvd := cbits c 16 25 3 != 0 || cbits c 20 26 6 != 0 || cbits c 24 22 10 != 0 || cbs c 30 2 != 0 }

/-- Bytes of an output element. -/
def outSize (ofmt : Nat) : Nat := if ofmt = 0 then 4 else 2
def outFmt (ofmt : Nat) : FFmt := match ofmt with | 0 => fp32 | 1 => bf16 | _ => fp16

/-- Regions the drain writes: 0x0, 0x1, 0x2 and 0x5 (R271). -/
def drainRegion (a : Nat) : Bool := let r := a / 2 ^ 60; r == 0 || r == 1 || r == 2 || r == 5

def drainBad (s : State) (t : Nat) (d : DrainCmd) : Bool :=
  let sh := (slotRec s t d.acc).shape
  decide (2 < d.ofmt) || d.dst % outSize d.ofmt != 0 || d.stride % outSize d.ofmt != 0
    || (d.rsEn && (d.rsAddr % 2 != 0 || decide (2 ^ 22 < d.rsAddr + 2 * d.m)))
    || (d.csEn && (d.csAddr % 2 != 0 || decide (2 ^ 22 < d.csAddr + 2 * d.n)))
    || d.m == 0 || decide (shapeM sh < d.m) || d.n == 0 || decide (shapeN sh < d.n) || d.rsvd || !drainRegion d.dst

/-- One output element (R212). -/
def drainElem (s : State) (t : Nat) (d : DrainCmd) (old : Nat) (i j : Nat) : Nat :=
  let r := slotRec s t d.acc
  let sz := if r.fp16 then 2 else 4
  let raw := leNat (sramRead s (accElemKey t d.acc r.fp16 (shapeN r.shape) i j) sz)
  let v := (if r.fp16 then fp16 else fp32).decode raw
  let v := match v with
    | .fin n m e => fp32.decode (fp32.encode (.fin n m (e + signedOf 10 r.offset)))
    | x => x
  let scale (v : FVal) (a : Nat) := fp32.decode (fp32.encode (v.mul (bf16.decode (leNat (sramRead s (spKey t a) 2)))))
  let v := if d.rsEn then scale v (d.rsAddr + 2 * i) else v
  let v := if d.csEn then scale v (d.csAddr + 2 * j) else v
  let v := if d.addIn then fp32.decode (fp32.encode (((outFmt d.ofmt).decode old).add v)) else v
  (outFmt d.ofmt).encode v

/-- Bytes of output row i; `old` holds the present output. -/
def drainRow (s : State) (t : Nat) (d : DrainCmd) (old : List Byte) (i : Nat) : List Byte :=
  (List.range d.n).flatMap (fun j => leBytes (outSize d.ofmt) (drainElem s t d (leNat ((old.drop (outSize d.ofmt * j)).take (outSize d.ofmt))) i j))

/-- Add the rows to the present output in turn; a failing block ends the drain (R213). -/
def drainAdd (s0 : State) (t p : Nat) (d : DrainCmd) : List Nat → State → State × Option Refuse
  | [], s => (s, none)
  | i :: is, s =>
    let sp := devSpace s p (d.dst + i * d.stride)
    match devRead s sp (outSize d.ofmt * d.n) [] with
    | (_, some r) => (s, some r)
    | (old, none) =>
      match devWrite s p sp (drainRow s0 t d old i) with
      | (_, some r) => (s, some r)
      | (s', none) => drainAdd s0 t p d is s'

/-- Write rows of the tile; a failing block ends the drain (R213). -/
def drainRows (s0 : State) (t p : Nat) (d : DrainCmd) (is : List Nat) (s : State) : State × Option Refuse :=
  if d.addIn then drainAdd s0 t p d is s
  else writeRuns s p (joinRows s p (is.map (fun i => (d.dst + i * d.stride, drainRow s0 t d [] i))))

/-- The rows of the destination: address and length of each. -/
def drainSpans (d : DrainCmd) : List (Nat × Nat) := (List.range d.m).map (fun i => (d.dst + i * d.stride, outSize d.ofmt * d.n))

/-- Spans of HBM with those of the CRCs of their blocks (R85). -/
def withCrcs (l : List (Bool × Nat × Nat)) : List (Bool × Nat × Nat) :=
  l ++ l.flatMap (fun (h, k, n) => if h then (pieces (k % 2 ^ 36) n).map (fun (d, _) =>
    (true, hbmKey (k / 2 ^ 36) (crcOff ((k % 2 ^ 36 + d) / 4096 * 4096)), 4)) else [])

/-- The slot refusal of a drain (R206). -/
def drainSlotBad (s : State) (t : Nat) (deferred : Bool) (d : DrainCmd) : Bool :=
  slotBad s t d.acc (!(slotRec s t d.acc).fp16) deferred || (slotRec s t d.acc).state == 0

/-- What refuses a drain before it writes: its fields, its addresses, its slot, in that order. The order of ACC_SLOT_STATE behind the address
checks is not stated, and a FREE slot has no record that M_VALID and N_VALID could be held to: a valid field over 64 is BAD_DESC
(log 30). -/
def drainRefuse (s : State) (t : Nat) (deferred : Bool) (d : DrainCmd) : Option Refuse :=
  if drainBad s t d then some badDesc
  else match pickRefuse ((drainSpans d).map (fun (a, n) => checkDev s (partOfTile s t) a n true)) with
  | some r => some r
  | none => checkIf (drainSlotBad s t deferred d) accStateBad

/-- A drain that nothing refuses waits while a traffic generator runs on a stack of its destination (R291). -/
def drainWaits (s : State) (t : Nat) (deferred : Bool) (d : DrainCmd) : Bool :=
  (drainRefuse s t deferred d).isNone && (drainSpans d).any (fun (a, n) => devTgBusy s (devSpace s (partOfTile s t) a) n)

/-- Its slot is freed when the drain ends. -/
def startDrain (t : Nat) (deferred : Bool) (s : State) (e : QEntry) : Option (State × RunCmd) :=
  let d := drainOf e.cmd
  let p := partOfTile s t
  match drainRefuse s t deferred d with
  | some r => some (s, refuseCmd e r)
  | none =>
    if drainWaits s t deferred d then none
    else match drainRows s t p d (List.range d.m) s with
      | (_, some r) => some (s, refuseCmd e r)
      | (s', none) =>
        let l := withCrcs (addrSpans s p (drainSpans d))
        some (s', { okCmd e with undef := l, old := oldBytes s l })

/-! ### Rows of the matrix engine -/

/-- The front command of a queue can start (R209). -/
def mxHeadReady (s : State) (t q : Nat) : Bool :=
  match headEntry s t q with
  | some e => mxStartable s t e.cmd && !(opcOf e.cmd == 2 && drainWaits s t (q == 4) (drainOf e.cmd))
  | none => false

/-- A matrix row: the front command of its queue starts when R209 chooses it; p advances with each choice between two commands. -/
def mxRow (s : State) (t opc : Nat) (deferred : Bool) (ecc : Ecc) (body : State → QEntry → Option (State × RunCmd))
    (touch : State → Cmd → List (Nat × Nat) := fun _ _ => []) : State :=
  let q := if deferred then 4 else 0
  let both := mxHeadReady s t 0 && mxHeadReady s t 4
  if !mxHeadReady s t q || (both && mxPickDeferred s t != deferred) then s
  else
    let s' := eccRow s t q opc (fun o => decide (1 ≤ o ∧ o ≤ 5)) ecc body touch
    if both && decide ((queue s' t q).waiting.length < (queue s t q).waiting.length) then
      wr s' 4 R.MX_STATUS_DEF_POS ((rd s 4 R.MX_STATUS_DEF_POS t + 1) % 8) t
    else s'

def execMma (t : Tile) (deferred : Bool) (ecc : Ecc) (s : State) : Host.Outcome State Fault Refusal :=
  .next (mxRow s t 1 deferred ecc (startMma t deferred))

def execMdrain (t : Tile) (deferred : Bool) (ecc : Ecc) (s : State) : Host.Outcome State Fault Refusal :=
  .next (mxRow s t 2 deferred ecc (startDrain t deferred) (fun _ c => drainSpans (drainOf c)))

/-! ### MTLOAD (R201, R202) -/

/-- The bytes MTLOAD leaves in the resident region: slice k at k * w * e. -/
def mtloadBytes (s : State) (t : Nat) (o : Operand) (sideB : Bool) (w k : Nat) : List Byte :=
  let total := k * o.width * w / 8
  (List.range total).map (fun b =>
    let el (i : Nat) := sramElem s (spKey t 0) (o.pos sideB w (i % o.width) (i / o.width)) w
    match w with
    | 16 => BitVec.ofNat 8 (el (b / 2) / 2 ^ (8 * (b % 2)))
    | 8 => BitVec.ofNat 8 (el b)
    | _ => BitVec.ofNat 8 (el (2 * b) + 16 * el (2 * b + 1)))

/-- Operand, K, FMT, side and target range of an MTLOAD. -/
structure MtloadCmd where
  o : Operand
  k : Nat
  shape : Nat
  fmt : Nat
  sideB : Bool
  off : Nat
  rsvd : Bool
  deriving DecidableEq, Repr

def mtloadOf (c : Cmd) : MtloadCmd :=
  let sh := cbits c 12 16 2
  let w := if cbit c 12 23 then shapeN sh else shapeM sh
  { o := ⟨cbits c 8 0 16, cbits c 8 16 16, cbit c 12 22, false, w, w⟩, k := cbs c 12 2, shape := sh, fmt := cbits c 12 18 4
    sideB := cbit c 12 23, off := 64 * cbits c 16 0 9
    rsvd := cbits c 12 24 8 != 0 || cbits c 16 9 23 != 0 || cbs c 20 12 != 0 }

def mtloadLen (m : MtloadCmd) : Nat := m.k * m.o.width * elemBits m.fmt / 8

def mtloadBad (m : MtloadCmd) : Bool :=
  m.shape == 3 || decide (m.fmt < 1) || decide (4 < m.fmt) || m.k == 0 || m.k % kMultiple m.fmt != 0
    || !m.o.inRange m.sideB (elemBits m.fmt) m.k || decide (2 ^ 15 < m.off + mtloadLen m) || m.rsvd

def startMtload (t : Nat) (s : State) (e : QEntry) : Option (State × RunCmd) :=
  let m := mtloadOf e.cmd
  if mtloadBad m then some (s, refuseCmd e badDesc)
  else some (sramWrite s (resKey t m.off) (mtloadBytes s t m.o m.sideB (elemBits m.fmt) m.k),
    { okCmd e with undef := [(false, resKey t m.off, mtloadLen m)] })

def execMtload (t : Tile) (deferred : Bool) (s : State) (ecc : Ecc := .none) : Host.Outcome State Fault Refusal :=
  .next (mxRow s t 3 deferred ecc (startMtload t))

/-! ### MBIND (R67, R68, R215, R216) -/

/-- A codebook object's check: its entries, or the refusal of R68. `read a n` gives its bytes. -/
def checkCodebook (bytes : List Byte) : Except Refuse (Nat × Nat × List (BitVec 16)) :=
  let fmt := leNat (bytes.take 1)
  let cnt := leNat ((bytes.drop 2).take 2)
  let id := leNat ((bytes.drop 4).take 4)
  let crc := leNat ((bytes.drop 12).take 4)
  let body := bytes.take (16 + 2 * cnt)
  let covered := body.take 12 ++ [0, 0, 0, 0] ++ body.drop 16
  let entries := (List.range cnt).map (fun i => BitVec.ofNat 16 (leNat ((bytes.drop (16 + 2 * i)).take 2)))
  if crc32c covered ≠ crc then .error checksumBad
  else if !((fmt == 3 && cnt == 256) || (fmt == 4 && cnt == 16)) || !(entries.all (fun b => bf16.isFinite b.toNat)) then
    .error (withFault St.BAD_DESC K.CODEBOOK_INVALID)
  else .ok (fmt, id, entries)

def setPt (s : State) (t i : Nat) (v : Bool) : State :=
  let old := rd s 4 R.MX_PT_VALID_PT t
  let cleared := old - (if bitAt old i then 2 ^ i else 0)
  wr s 4 R.MX_PT_VALID_PT (cleared + if v then 2 ^ i else 0) t

/-- The product table of index i when both bindings are valid and CB4, else invalid (R72, R216). -/
def rebuildTable (s : State) (t i : Nat) : State :=
  let ok := cbValid s t 0 i && cbFmt s t 0 i == 4 && cbValid s t 1 i && cbFmt s t 1 i == 4
  let ts := tile s t
  let s := setPt s t i ok
  if ok then
    let tbl := (List.range 256).map (fun x =>
      f32 ((k12Val ((mapGet [] ts.k12 i).getD (x / 16) 0)).mul (k12Val ((mapGet [] ts.k12 (4 + i)).getD (x % 16) 0))))
    setTile s t { tile s t with products := mapSet ts.products i tbl }
  else s

def setBinding (s : State) (t side i : Nat) (valid : Bool) (fmt x id : Nat) (k : List (BitVec 12)) : State :=
  let (fv, ff, fx, fi) :=
    if side = 0 then (R.MX_CB_A_VALID, R.MX_CB_A_CB_FMT, R.MX_CB_A_X, R.MX_CB_A_CB_ID)
    else (R.MX_CB_B_VALID, R.MX_CB_B_CB_FMT, R.MX_CB_B_X, R.MX_CB_B_CB_ID)
  let s := wr (wr (wr (wrb s 4 fv valid t i) 4 ff fmt t i) 4 fx x t i) 4 fi id t i
  let s := setTile s t { tile s t with k12 := mapSet (tile s t).k12 (4 * side + i) k }
  rebuildTable s t i

/-- A codebook object whose CRC would cover bytes beyond the scratchpad fails its CRC (log 78). -/
def startMbind (t : Nat) (s : State) (e : QEntry) : Option (State × RunCmd) :=
  let a := 64 * cbits e.cmd 8 0 16
  let side := cbits e.cmd 8 16 1
  let i := cbits e.cmd 8 17 2
  let cnt := leNat (sramRead s (spKey t (a + 2)) 2)
  if cbits e.cmd 8 19 13 ≠ 0 ∨ cbs e.cmd 12 20 ≠ 0 then some (s, refuseCmd e badDesc)
  else match if 2 ^ 22 < a + 16 + 2 * cnt then .error checksumBad else checkCodebook (sramRead s (spKey t a) (16 + 2 * cnt)) with
    | .error r => some (setBinding s t side i false 0 0 0 [], refuseCmd e r)
    | .ok (fmt, id, entries) =>
      let x := k12Offset entries
      some (setBinding s t side i true fmt (toBits 9 x) id (entries.map (k12Of x)), okCmd e)

def execMbind (t : Tile) (deferred : Bool) (s : State) (ecc : Ecc := .none) : Host.Outcome State Fault Refusal :=
  .next (mxRow s t 4 deferred ecc (startMbind t))

/-! ### MSLOT (R206, R218) -/

def mslotBad (s : State) (t : Nat) (deferred : Bool) (first count op : Nat) : Bool :=
  (List.range count).any (fun i =>
    let k := first + i
    let r := slotRec s t k
    (r.state == 2 && !deferred) || (r.state == 0 && op == 2)
      || (r.state != 0 && !r.fp16 && (if k % 2 = 0 then i + 1 == count else i == 0)))

def startMslot (t : Nat) (deferred : Bool) (s : State) (e : QEntry) : Option (State × RunCmd) :=
  let first := cb e.cmd 8
  let count := cb e.cmd 9
  let op := cb e.cmd 10
  if 31 < first ∨ count = 0 ∨ 32 < first + count ∨ op = 0 ∨ 2 < op ∨ cbs e.cmd 11 21 ≠ 0 then some (s, refuseCmd e badDesc)
  else if mslotBad s t deferred first count op then some (s, refuseCmd e accStateBad)
  else
    let s' := (List.range count).foldl (fun s i =>
      if op = 1 then freeSlot s t (first + i) else wr s 4 R.MX_SLOT_INFO_STATE 1 t (first + i)) s
    some (s', okCmd e)

def execMslot (t : Tile) (deferred : Bool) (s : State) : Host.Outcome State Fault Refusal :=
  .next (mxRow s t 5 deferred .none (startMslot t deferred))

end Sys2Proof.Machine
end

