-- ==== Sys2Proof/Machine/Vector.lean ====
section
/-!
DEFINITION. The vector engine (spec/08): operand blocks, streams, element-wise operations, reductions, index generation, summaries, and
the gate on stochastically rounded weight writes (spec/11 R308).
-/

namespace Sys2Proof.Machine

/-! ### Streams (R226, R227) -/

/-- A stream descriptor. -/
structure Strm where
  off : Nat
  rstride : Nat
  fmt : Nat
  space : Nat
  bcast : Nat
  en : Bool
  scaled : Bool
  aux : Nat
  cb : Nat
  rsvd : Bool
  zero : Bool
  deriving DecidableEq, Repr

def strmOf (bs : List Byte) : Strm :=
  let x := leNat (bs.take 16)
  { off := bytesAt x 0 3, rstride := bytesAt x 4 3, fmt := bitsOf x 64 4, space := bitsOf x 68 2, bcast := bitsOf x 70 2
    en := bitAt x 72, scaled := bitAt x 73, aux := bytesAt x 10 3, cb := bytesAt x 13 3
    rsvd := byteAt x 3 != 0 || byteAt x 7 != 0 || bitsOf x 74 6 != 0, zero := x == 0 }

/-- Stream i of an operand block: in0 to in2, out0 to out2. -/
def obStrm (ob : List Byte) (i : Nat) : Strm := strmOf (ob.drop (32 + 16 * i))

def spaceSize : Nat → Nat
  | 0 => 2 ^ 22 | 1 => 2 ^ 24 | _ => 2 ^ 18

/-- Key of byte 0 of a stream's space. -/
def spaceKey (t : Nat) : Nat → Nat
  | 0 => spKey t 0 | 1 => clmKey (clusterOfTile t) 0 | _ => accKey t 0

/-- Bits of an element of a stream format (R61). -/
def fmtBits (fmt : Nat) : Nat := match fmt with | 0 => 32 | 3 => 8 | 4 => 4 | _ => 16

def isCoded (x : Strm) : Bool := x.fmt == 3 || x.fmt == 4

/-- Byte length of a codebook object (R67). -/
def cbLen (fmt : Nat) : Nat := if fmt = 3 then 576 else 64

/-- Bytes that hold the elements of a stream of w-bit elements: (offset, length) for each row. -/
def strmSpans (x : Strm) (w rows cols : Nat) : List (Nat × Nat) :=
  if x.bcast = 2 then []
  else if x.bcast = 1 then [(x.off, (rows * w + 7) / 8)]
  else (List.range (if x.rstride = 0 then 1 else rows)).map (fun r => (x.off + r * x.rstride, (cols * w + 7) / 8))

/-- With its scale tensor and codebook object. -/
def strmBytes (x : Strm) (w rows cols : Nat) : List (Nat × Nat) :=
  strmSpans x w rows cols ++ (if x.scaled ∧ x.bcast ≠ 2 then [(x.aux, 2 * rows)] else [])
    ++ (if isCoded x then [(x.cb, cbLen x.fmt)] else [])

/-- The checks of R228 on one stream: whether it is needed, its broadcasts, whether it is an output; w its element bits. -/
def strmBad (x : Strm) (need : Bool) (bcasts : List Nat) (isOut : Bool) (w rows cols : Nat) : Bool :=
  if !x.en then need || !x.zero
  else !need || x.rsvd || x.space == 3 || !bcasts.contains x.bcast || decide (4 < x.fmt)
    || (isCoded x && (x.space == 2 || !x.scaled || x.bcast == 2))
    || (x.space == 2 && x.fmt != 0 && x.fmt != 2) || (isOut && x.space == 2)
    || (x.scaled && x.aux % 2 != 0) || (isCoded x && x.cb % 64 != 0)
    || (strmBytes x w rows cols).any (fun (o, n) => decide (spaceSize x.space < o + n))

/-- Bit position of element (r, c) of w bits from the start of the space. -/
def strmPos (x : Strm) (w r c : Nat) : Nat :=
  if x.bcast = 1 then 8 * x.off + r * w else 8 * (x.off + r * x.rstride) + c * w

/-- The scale of row r (R233). -/
def strmScale (s : State) (t : Nat) (x : Strm) (r : Nat) : FVal :=
  bf16.decode (leNat (sramRead s (spaceKey t x.space + x.aux + 2 * r) 2))

/-- Input element (r, c) widened to FP32 (R227, R231, R233). -/
def inElem (s : State) (t : Nat) (x : Strm) (book : List (BitVec 16)) (imm r c : Nat) : Half :=
  if x.bcast = 2 then f32 (fp32.decode imm)
  else
    let w := fmtBits x.fmt
    let raw := sramElem s (spaceKey t x.space) (strmPos x w r c) w
    let v := match x.fmt with
      | 0 => fp32.decode raw
      | 1 => bf16.decode raw
      | 2 => fp16.decode raw
      | _ => bf16.decode (book.getD raw 0).toNat
    if x.scaled then f32 (v.mul (strmScale s t x r)) else f32 v

/-- Row r of an input stream. -/
def inRow (s : State) (t : Nat) (x : Strm) (book : List (BitVec 16)) (imm r cols : Nat) : List Half :=
  (List.range cols).map (inElem s t x book imm r)

/-- The codebook of a stream, checked under R68 over the bytes its ENTRY_CNT covers; empty for a stream that is not coded. Its format is the
stream's (log 14). A CRC whose cover leaves the space cannot hold (log 78). -/
def strmBook (s : State) (t : Nat) (x : Strm) : Except Refuse (List (BitVec 16)) :=
  if x.en && isCoded x then
    let cnt := leNat (sramRead s (spaceKey t x.space + x.cb + 2) 2)
    if spaceSize x.space < x.cb + 16 + 2 * cnt then .error checksumBad
    else match checkCodebook (sramRead s (spaceKey t x.space + x.cb) (16 + 2 * cnt)) with
    | .error r => .error r
    | .ok (fmt, _, es) => if fmt = x.fmt then .ok es else .error (withFault St.BAD_DESC K.CODEBOOK_INVALID)
  else .ok []

/-! ### Reductions (R232) -/

/-- Halve a list of 2^k partials k times, combining entry l with entry l + w. -/
def reduceHalves (op : Half → Half → Half) : Nat → List Half → List Half
  | 0, p => p
  | k + 1, p => reduceHalves op k (List.zipWith op (p.take (2 ^ k)) (p.drop (2 ^ k)))

/-- Lane l of 64: elements l, l + 64, … in order from init. -/
def reduceLane (op : Half → Half → Half) (init : Half) (xs : List Half) (l : Nat) : Half :=
  (List.range ((xs.length + 63 - l) / 64)).foldl (fun a i => op a (xs.getD (64 * i + l) init)) init

def reduceRow (op : Half → Half → Half) (init : Half) (xs : List Half) : Half :=
  (reduceHalves op 6 ((List.range 64).map (reduceLane op init xs))).getD 0 init

def rowSum (xs : List Half) : Half := reduceRow fAdd 0 xs
def negInf32 : Half := 0xFF800000#32
def posInf32 : Half := 0x7F800000#32
def one32 : Half := 0x3F800000#32

/-! ### Output rows (R70, R73, R233, R234) -/

/-- m1 * 2^e1 < m2 * 2^e2. -/
def dyadLt (m1 : Nat) (e1 : Int) (m2 : Nat) (e2 : Int) : Bool :=
  let e := min e1 e2
  decide (m1 * 2 ^ (e1 - e).toNat < m2 * 2 ^ (e2 - e).toNat)

def valLt : FVal → FVal → Bool
  | .fin _ m1 e1, .fin _ m2 e2 => dyadLt m1 e1 m2 e2
  | _, _ => false

/-- Index of the least magnitude in a list of exact numbers, the lowest index on ties. -/
def argMinMag (vs : List FVal) : Nat :=
  ((vs.zipIdx).foldl (fun (best : FVal × Nat) (vi : FVal × Nat) => if valLt vi.1 best.1 then vi else best)
    (vs.getD 0 .nan, 0)).2

/-- The code of x under a finite scale (R70). -/
def encodeCode (book : List (BitVec 16)) (scale : FVal) (x : Half) : Nat :=
  let cs := book.map (fun b => bf16.decode b.toNat)
  match scale with
  | .fin _ 0 _ => argMinMag cs
  | _ => argMinMag (cs.map (fun c => (f32v x).add (scale.mul c).negate))

/-- The largest magnitude of a row of finite values. -/
def rowMaxMag (xs : List Half) : Half := xs.foldl (fun a x => fMax a (fAbs x)) 0

/-- M of R73: the largest |C[c]|, or the largest finite value of the format. -/
def scaleMax (x : Strm) (book : List (BitVec 16)) : FVal :=
  if isCoded x then bf16.decode (book.foldl (fun a b => max a (b.toNat % 2 ^ 15)) 0)
  else match x.fmt with | 0 => fp32.decode (fp32.infBits - 1) | 1 => bf16.decode (bf16.infBits - 1) | _ => fp16.decode (fp16.infBits - 1)

/-- Store element i of w bits from a byte key; the low nibble of a byte is written first (R69). -/
def putElem (s : State) (key w i v : Nat) : State :=
  if w = 4 then
    let a := key + i / 2
    if i % 2 = 0 then sramSet s a (BitVec.ofNat 8 v) else sramSet s a (BitVec.ofNat 8 ((sramGet s a).toNat % 16 + 16 * v))
  else sramWrite s (key + i * w / 8) (leBytes (w / 8) v)

def putElems (s : State) (key w i : Nat) : List Nat → State
  | [] => s
  | v :: vs => putElems (putElem s key w i v) key w (i + 1) vs

def outFfmt (fmt : Nat) : FFmt := match fmt with | 0 => fp32 | 1 => bf16 | _ => fp16

/-- Elements of a scaled or coded output row under σ (R233). A quotient or code the specification does not state is free (log 15). -/
def scaledElems (s : State) (x : Strm) (book : List (BitVec 16)) (sigma : Nat) (vals : List Half) : List Nat :=
  vals.zipIdx.map (fun (v, i) =>
    match bf16.decode sigma with
    | .nan => if isCoded x then 0 else (outFfmt x.fmt).nanBits
    | .inf _ => freshNat s (i + 1) % 2 ^ fmtBits x.fmt
    | sc =>
      if isCoded x then encodeCode book sc v
      else if sigma % 2 ^ 15 = 0 then freshNat s (i + 1) % 2 ^ fmtBits x.fmt
      else (outFfmt x.fmt).divWith .rne (f32v v) sc)

/-- Write one output row; `sr i` gives the random bits of element i under SR. -/
def outRow (s : State) (t : Nat) (x : Strm) (book : List (BitVec 16)) (sr : Option (Nat → BitVec 16)) (r : Nat) (vals : List Half) : State :=
  let w := fmtBits x.fmt
  let base := spaceKey t x.space
  let (key, i0) := if x.bcast = 1 then (base + x.off, r) else (base + x.off + r * x.rstride, 0)
  if x.scaled then
    let m := scaleMax x book
    let a := rowMaxMag vals
    let sigma : Nat :=
      if vals.any (fun v => !fIsFinite v) then 0x7FC0
      else if a = 0 then 0
      else match m with
        | .fin _ 0 _ => freshNat s % 2 ^ 16
        | _ => (ruQuot (f32v a) m).toNat
    let els := match m with
      | .fin _ 0 _ => if a = 0 ∨ sigma = 0x7FC0 then scaledElems s x book sigma vals
          else vals.zipIdx.map (fun (_, i) => freshNat s (i + 1) % 2 ^ w)
      | _ => scaledElems s x book sigma vals
    let s := sramWrite (tickFree s) (base + x.aux + 2 * r) (leBytes 2 sigma)
    putElems s key w i0 els
  else
    putElems s key w i0 (vals.zipIdx.map (fun (v, i) =>
      match sr with
      | some f => (srRound v (f i)).toNat
      | none => cvtF fp32 (outFfmt x.fmt) v.toNat))

/-- The values of an output row as summaries see them (R237): before encoding for a scaled row, else as written. -/
def sumVals (s : State) (t : Nat) (x : Strm) (r n : Nat) (vals : List Half) : List Half :=
  if x.scaled then vals else (List.range n).map (inElem s t x [] 0 r)

/-! ### Overlaps (R229) -/

/-- The common part of two byte ranges. -/
def spanMeet (a b : Nat × Nat) : Option (Nat × Nat) :=
  let lo := max a.1 b.1
  let hi := min (a.1 + a.2) (b.1 + b.2)
  if lo < hi then some (lo, hi - lo) else none

/-- The parts that spans share. -/
def spansMeet (as bs : List (Nat × Nat)) : List (Nat × Nat) :=
  as.flatMap (fun a => bs.filterMap (spanMeet a))

/-- Exact coincidence of two streams. -/
def coincide (x y : Strm) (wx wy : Nat) : Bool :=
  x.space == y.space && x.off == y.off && x.rstride == y.rstride && x.bcast == y.bcast && wx == wy

/-- Key spans of a stream. -/
def keySpans (t : Nat) (x : Strm) (l : List (Nat × Nat)) : List (Nat × Nat) :=
  l.map (fun (o, n) => (spaceKey t x.space + o, n))

/-- Output bytes that meet an input in any other way than exact coincidence: outs and ins with their element bits. -/
def overlapIn (t rows cols : Nat) (outs ins : List (Strm × Nat)) : List (Nat × Nat) :=
  outs.flatMap (fun (o, wo) => ins.flatMap (fun (x, wx) =>
    let oAux := (strmBytes o wo rows cols).drop (strmSpans o wo rows cols).length
    let xAux := (strmBytes x wx rows cols).drop (strmSpans x wx rows cols).length
    let od := keySpans t o (strmSpans o wo rows cols)
    let xd := keySpans t x (strmSpans x wx rows cols)
    (if coincide o x wo wx then [] else spansMeet od xd)
      ++ spansMeet od (keySpans t x xAux) ++ spansMeet (keySpans t o (if o.scaled then oAux.take 1 else [])) (xd ++ keySpans t x xAux)))

/-- The bytes an output writes, and those of its codebook object. -/
def outWritten (t rows cols : Nat) (o : Strm × Nat) : List (Nat × Nat) :=
  keySpans t o.1 (strmSpans o.1 o.2 rows cols ++ (if o.1.scaled then [(o.1.aux, 2 * rows)] else []))
def outBook (t : Nat) (o : Strm × Nat) : List (Nat × Nat) := keySpans t o.1 (if isCoded o.1 then [(o.1.cb, cbLen o.1.fmt)] else [])

/-- Output bytes that meet another output or its codebook object, and those of one output's data that meet its scale tensor or its
codebook object. -/
def overlapOut (t rows cols : Nat) : List (Strm × Nat) → List (Nat × Nat)
  | [] => []
  | o :: os =>
    let d := keySpans t o.1 (strmSpans o.1 o.2 rows cols)
    let w := outWritten t rows cols o
    spansMeet d (w.drop d.length) ++ spansMeet w (outBook t o)
      ++ os.flatMap (fun x => spansMeet w (outWritten t rows cols x ++ outBook t x) ++ spansMeet (outWritten t rows cols x) (outBook t o))
      ++ overlapOut t rows cols os

def forgetSpans (s : State) (l : List (Nat × Nat)) : State := l.foldl (fun s (k, n) => sramForget s k n) s

/-- What an abandoned command leaves undefined of its output streams (R252). -/
def outUndef (t rows cols : Nat) (outs : List (Strm × Nat)) : List (Bool × Nat × Nat) :=
  outs.flatMap (fun (o, w) =>
    (keySpans t o (strmSpans o w rows cols ++ (if o.scaled then [(o.aux, 2 * rows)] else []))).map (fun (k, n) => (false, k, n)))

/-! ### Vector commands (R223, R224, R228) -/

/-- The operand block of a command: its bytes when OB_OFF is in range. -/
def operandBlock (s : State) (t : Nat) (c : Cmd) : Option (List Byte) :=
  let o := cbs c 8 2
  if o % 32 = 0 ∧ o + 128 ≤ 65536 then some (sramRead s (dmemKey t o) 128) else none

structure VecCmd where
  opc : Nat
  sr : Bool
  sumEn : Bool
  sumSlot : Nat
  sub : Nat
  imm0 : Nat
  imm1 : Nat
  rows : Nat
  cols : Nat
  stepCmd : Option Nat
  eBase : Nat
  sid : Nat
  eRow : Nat
  in0 : Strm
  in1 : Strm
  in2 : Strm
  out0 : Strm
  rsvd : Bool
  deriving DecidableEq, Repr

def vecOf (c : Cmd) (ob : List Byte) : VecCmd :=
  let h := leNat (ob.take 32)
  { opc := opcOf c, sr := cbits c 10 0 2 == 1, sumEn := cbit c 10 2, sumSlot := cbits c 10 3 3, sub := cb c 11
    imm0 := cbs c 12 4, imm1 := cbs c 16 4, rows := bitsOf h 0 21, cols := bitsOf h 32 17
    stepCmd := if bitAt h 112 then some (bitsOf h 64 48) else none
    eBase := bytesAt h 16 8, sid := bytesAt h 24 4, eRow := bytesAt h 28 4
    in0 := obStrm ob 0, in1 := obStrm ob 1, in2 := obStrm ob 2, out0 := obStrm ob 3
    rsvd := decide (1 < cbits c 10 0 2) || cbit c 10 7 || cbs c 20 12 != 0 || bitsOf h 21 11 != 0 || bitsOf h 49 15 != 0
      || bitsOf h 113 15 != 0 || !(obStrm ob 4).zero || !(obStrm ob 5).zero }

/-- The step of a weight write or of SR (R81, R234). -/
def vecStep (v : VecCmd) (pushed : Nat) : Nat := v.stepCmd.getD pushed

def maxSub (opc : Nat) : Nat := match opc with | 7 => 3 | 10 => 5 | 11 => 1 | _ => 0

/-- A table descriptor is defined (R89). -/
def tableDefined (s : State) (p tbl : Nat) : Bool := rd s p R.TABLE_DESC_WIDTH_32 tbl != 0

/-- R228 for the operations 0x01 to 0x0A. -/
def vecBad (v : VecCmd) : Bool :=
  let two := v.opc ≤ 8 ∨ (v.opc = 10 ∧ v.sub = 5)
  let three := v.opc = 4 ∨ v.opc = 8
  let bc := if v.opc ≤ 8 then [0, 1, 2] else [0]
  let bad (x : Strm) (need : Bool) (b : List Nat) (out : Bool) := strmBad x need b out (fmtBits x.fmt) v.rows v.cols
  v.rsvd || v.rows == 0 || decide (2 ^ 20 < v.rows) || v.cols == 0 || decide (2 ^ 16 < v.cols) || decide (maxSub v.opc < v.sub)
    || bad v.in0 true [0] false || bad v.in1 (decide two) bc false || bad v.in2 (decide three) bc false
    || bad v.out0 true [if v.opc = 10 then 1 else 0] true
    || (v.sr && (v.out0.fmt != 1 || v.out0.scaled))

/-- An enabled stream in accumulator memory on a tile without its matrix engine (R227). -/
def accAbsent (s : State) (t : Nat) (ob : List Byte) : Bool :=
  !enginePresent s t 0 && (List.range 6).any (fun i => (obStrm ob i).en && (obStrm ob i).space == 2)

/-! ### The operations (R230 to R234) -/

def ofTest (b : Bool) : Half := if b then one32 else 0

def vecElem (opc sub : Nat) (a b c : Half) : Half :=
  match opc with
  | 1 => fAdd a b
  | 2 => fSub a b
  | 3 => fMul a b
  | 4 => fFma a b c
  | 5 => fMin a b
  | 6 => fMax a b
  | 7 => ofTest (match sub with | 0 => fEq a b | 1 => !fEq a b | 2 => fLt a b | _ => fLe a b)
  | 8 => if fEq c 0 then b else a
  | _ => a

def vredRow (sub : Nat) (as bs : List Half) : Half :=
  match sub with
  | 0 => rowSum as
  | 1 => rowSum (as.map (fun a => fMul a a))
  | 2 => reduceRow fMax negInf32 as
  | 3 => reduceRow fMin posInf32 as
  | 4 => reduceRow fMax negInf32 (as.map fAbs)
  | _ => rowSum (List.zipWith fMul as bs)

/-- A summary under way: SUM, MAX, MIN, NONFIN. -/
structure Summary where
  sum : Half := 0
  max : Half := negInf32
  min : Half := posInf32
  nonfin : Nat := 0
  deriving DecidableEq, Repr

def Summary.row (x : Summary) (vals : List Half) : Summary :=
  let fin := vals.filter fIsFinite
  { sum := fAdd x.sum (rowSum vals), max := fin.foldl fMax x.max, min := fin.foldl fMin x.min
    nonfin := Nat.min (x.nonfin + (vals.length - fin.length)) 0xFFFFFFFF }

/-- Row r: read, computed, written. -/
def vecRow (t : Nat) (v : VecCmd) (b0 b1 b2 bo : List (BitVec 16)) (step : Nat) (acc : State × Summary) (r : Nat) : State × Summary :=
  let s := acc.1
  let p := partOfTile s t
  let as := inRow s t v.in0 b0 0 r v.cols
  let bs := if v.in1.en then inRow s t v.in1 b1 v.imm0 r v.cols else []
  let cs := if v.in2.en then inRow s t v.in2 b2 v.imm1 r v.cols else []
  let vals := if v.opc = 10 then [vredRow v.sub as bs]
    else (List.range v.cols).map (fun i => vecElem v.opc v.sub (as.getD i 0) (bs.getD i 0) (cs.getD i 0))
  let sr := if v.sr then some (fun i => srBits (BitVec.ofNat 64 (rd s p R.SR_KEY_LO_KEY_LO)) (BitVec.ofNat 64 (rd s p R.SR_KEY_HI_KEY_HI))
      (BitVec.ofNat 64 (v.eBase + r * v.eRow + i)) (BitVec.ofNat 32 v.sid) (BitVec.ofNat 64 step)) else none
  let s' := outRow s t v.out0 bo sr r vals
  (s', if v.sumEn then acc.2.row (sumVals s' t v.out0 r vals.length vals) else acc.2)

def vecOuts (v : VecCmd) : List (Strm × Nat) := [(v.out0, fmtBits v.out0.fmt)]

/-- The whole command, after its checks and its gate. -/
def vecGo (s : State) (t : Nat) (v : VecCmd) (cmd : Cmd) (pushed : Nat) : State × RunCmd :=
  let e : QEntry := ⟨cmd, pushed⟩
  match strmBook s t v.in0, strmBook s t v.in1, strmBook s t v.in2, strmBook s t v.out0 with
  | .ok b0, .ok b1, .ok b2, .ok bo =>
    let ins := ([v.in0, v.in1, v.in2].filter (fun x => x.en)).map (fun x => (x, fmtBits x.fmt))
    let outs := vecOuts v
    let (s', sm) := (List.range v.rows).foldl (vecRow t v b0 b1 b2 bo (vecStep v pushed)) (s, {})
    let s' := forgetSpans s' (overlapIn t v.rows v.cols outs ins ++ overlapOut t v.rows v.cols outs)
    (s', { okCmd e with
      summary := if v.sumEn then some (v.sumSlot, [sm.sum, sm.max, sm.min, BitVec.ofNat 32 sm.nonfin]) else none
      undef := outUndef t v.rows v.cols outs })
  | .error r, _, _, _ => (s, refuseCmd e r)
  | _, .error r, _, _ => (s, refuseCmd e r)
  | _, _, .error r, _ => (s, refuseCmd e r)
  | _, _, _, .error r => (s, refuseCmd e r)

/-! ### The gate on weight writes (R308) -/

inductive Gate where
  | run | wait | skipped | stale
  deriving DecidableEq, Repr

/-- a - b as a signed 48-bit difference (R142). -/
def stepDiff (a b : Nat) : Int := signedOf 48 (a + 2 ^ 48 - b % 2 ^ 48)

def weightGate (s : State) (t step : Nat) : Gate :=
  if !rdb s (partOfTile s t) R.SD_STATUS_DECIDING then .run
  else match mapFind s.dieDecided (dieOfTile t) with
    | none => .wait
    | some (d, skip) =>
      if 0 < stepDiff step d then .wait else if step % 2 ^ 48 = d then (if skip then .skipped else .run) else .stale

def stepSkipped : Refuse := ⟨St.STEP_SKIPPED, none⟩
def stepStale : Refuse := withFault St.STEP_STALE K.SR_STEP_STALE

/-- The outcome of a weight write under the gate; it waits with its operand block. -/
def vecGated (s : State) (t : Nat) (v : VecCmd) (cmd : Cmd) (pushed : Nat) (ob : List Byte) : State × RunCmd :=
  let e : QEntry := ⟨cmd, pushed⟩
  match if v.sr then weightGate s t (vecStep v pushed) else .run with
  | .run => vecGo s t v cmd pushed
  | .wait => (s, { okCmd e with finished := false, waitStep := some (vecStep v pushed), keep := ob, undef := outUndef t v.rows v.cols (vecOuts v) })
  | .skipped => (s, refuseCmd e stepSkipped)
  | .stale => (s, refuseCmd e stepStale)

def startVec (t : Nat) (s : State) (e : QEntry) : Option (State × RunCmd) :=
  match operandBlock s t e.cmd with
  | none => some (s, refuseCmd e badDesc)
  | some ob =>
    let v := vecOf e.cmd ob
    if vecBad v then some (s, refuseCmd e badDesc)
    else if accAbsent s t ob then some (s, refuseCmd e unitAbsent)
    else some (vecGated s t v e.cmd e.step ob)

/-- What a vector command reads of accumulator memory: offsets and lengths. -/
def vecAccReads (s : State) (t : Nat) (v : VecCmd) : List (Nat × Nat) :=
  let bits (x : Strm) : Nat := if v.opc = 11 then 64 else fmtBits x.fmt
  (if v.in0.en && v.in0.space == 2 then strmSpans v.in0 (bits v.in0) v.rows v.cols else [])
    ++ (if v.in1.en && v.in1.space == 2 then strmSpans v.in1 (fmtBits v.in1.fmt) v.rows v.cols else [])
    ++ (if !v.in2.en || v.in2.space != 2 then []
      else if v.opc = 11 then [(v.in2.off, 4 * rd s (partOfTile s t) R.TABLE_DESC_SHARD_CNT (v.imm0 % 1024))]
      else strmSpans v.in2 (fmtBits v.in2.fmt) v.rows v.cols)

/-- A matrix command that writes a slot the vector command reads is running (R208). -/
def slotInUse (s : State) (t : Nat) (v : VecCmd) : Bool :=
  (mxRunning s t).any (fun r => opcOf r.cmd == 1 && r.status == St.OK && (cmdSlots s t r.cmd).any (fun k =>
    (vecAccReads s t v).any (fun x => decide (x.1 < 8192 * (k + 1) ∧ 8192 * k < x.1 + x.2))))

/-- A vector command that goes waits for the matrix commands that write its slots (R208). -/
def betweenMma (t : Nat) (s : State) (e : QEntry) (out : Option (State × RunCmd)) : Option (State × RunCmd) :=
  match operandBlock s t e.cmd, out with
  | some ob, some (_, r) => if r.status = St.OK ∧ r.finished ∧ slotInUse s t (vecOf e.cmd ob) then none else out
  | _, _ => out

def vecRow0 (s : State) (t opc : Nat) (ecc : Ecc) (body : State → QEntry → Option (State × RunCmd)) : State :=
  eccRow s t 1 opc (fun o => decide (1 ≤ o ∧ o ≤ 11)) ecc (fun s e => betweenMma t s e (body s e))

def execVadd (t : Tile) (s : State) (ecc : Ecc := .none) : Host.Outcome State Fault Refusal := .next (vecRow0 s t 1 ecc (startVec t))
def execVsub (t : Tile) (s : State) (ecc : Ecc := .none) : Host.Outcome State Fault Refusal := .next (vecRow0 s t 2 ecc (startVec t))
def execVmul (t : Tile) (s : State) (ecc : Ecc := .none) : Host.Outcome State Fault Refusal := .next (vecRow0 s t 3 ecc (startVec t))
def execVfma (t : Tile) (s : State) (ecc : Ecc := .none) : Host.Outcome State Fault Refusal := .next (vecRow0 s t 4 ecc (startVec t))
def execVmin (t : Tile) (s : State) (ecc : Ecc := .none) : Host.Outcome State Fault Refusal := .next (vecRow0 s t 5 ecc (startVec t))
def execVmax (t : Tile) (s : State) (ecc : Ecc := .none) : Host.Outcome State Fault Refusal := .next (vecRow0 s t 6 ecc (startVec t))
def execVcmp (t : Tile) (s : State) (ecc : Ecc := .none) : Host.Outcome State Fault Refusal := .next (vecRow0 s t 7 ecc (startVec t))
def execVsel (t : Tile) (s : State) (ecc : Ecc := .none) : Host.Outcome State Fault Refusal := .next (vecRow0 s t 8 ecc (startVec t))
def execVcvt (t : Tile) (s : State) (ecc : Ecc := .none) : Host.Outcome State Fault Refusal := .next (vecRow0 s t 9 ecc (startVec t))
def execVred (t : Tile) (s : State) (ecc : Ecc := .none) : Host.Outcome State Fault Refusal := .next (vecRow0 s t 10 ecc (startVec t))

/-- A waiting weight write starts once its step is decided (R308). -/
def execWeightWriteRelease (t : Tile) (s : State) : Host.Outcome State Fault Refusal :=
  .next (
    let x := queue s t 1
    match x.running.getLast? with
    | some r =>
      (match r.waitStep with
       | some w =>
         if running s (partOfTile s t) && weightGate s t w != .wait && !slotInUse s t (vecOf r.cmd r.keep) then
           let (s', r') := vecGated s t (vecOf r.cmd r.keep) r.cmd r.step r.keep
           setQueue s' t 1 { x with running := x.running.dropLast ++ [r'] }
         else s
       | none => s)
    | none => s)

/-! ### IDXGEN (R94, R95, R235) -/

/-- home_hash and shard_of (R94). -/
def homeHash (table row : Nat) (seed : Word) : Word :=
  let x := BitVec.ofNat 64 (row + table * 2 ^ 40)
  mix64 (mix64 x seed) (seed ^^^ 0x6C8E9CF570B23D41#64)

def shardOf (h : Word) (cnt : Nat) : Nat := h.toNat / 2 ^ 32 * cnt / 2 ^ 32

def idxBad (s : State) (p : Nat) (v : VecCmd) : Bool :=
  let tbl := v.imm0 % 1024
  let esz := if v.sub = 1 then 256 else 128
  let cnt := rd s p R.TABLE_DESC_SHARD_CNT tbl
  v.rsvd || v.rows == 0 || decide (2 ^ 20 < v.rows) || v.cols == 0 || decide (2 ^ 16 < v.cols) || decide (1 < v.sub)
    || decide (1024 ≤ v.imm0) || v.sumEn || v.sr || !tableDefined s p tbl
    || strmBad v.in0 true [0] false 64 v.rows v.cols || v.in0.fmt != 0
    || strmBad v.in1 v.in1.en [0, 1] false (fmtBits v.in1.fmt) v.rows v.cols || decide (1 < v.in1.fmt)
    || strmBad v.in2 true [0] false 32 1 cnt || v.in2.fmt != 0
    || strmBad v.out0 true [0] true esz v.rows v.cols || v.out0.fmt != 0

/-- The bytes of one entry. -/
def idxEntry (s : State) (t : Nat) (v : VecCmd) (r c x : Nat) : List Byte :=
  let p := partOfTile s t
  let tbl := v.imm0 % 1024
  let j := shardOf (homeHash tbl x (BitVec.ofNat 64 (rd s p R.TABLE_DESC_HASH_SEED tbl))) (rd s p R.TABLE_DESC_SHARD_CNT tbl)
  let home := leNat (sramRead s (spaceKey t v.in2.space + v.in2.off + 4 * j) 4)
  let w : Half := if v.in1.en then inElem s t v.in1 [] 0 r c else one32
  let b16 := (f32ToBf16 w).toNat
  let n := (v.imm1 + r * v.cols + c) % 2 ^ 32
  if v.sub = 0 then
    leBytes 8 (x + j * 2 ^ 40) ++ leBytes 4 home ++ leBytes 4 (if v.in1.en ∧ v.in1.fmt = 0 then w.toNat else b16)
  else
    leBytes 5 x ++ leBytes 2 tbl ++ [0] ++ leBytes 4 n ++ leBytes 4 home ++ leBytes 4 j ++ leBytes 4 n ++ leBytes 2 b16 ++ leBytes 6 0

/-- Entries in element order until a row ID above 40 bits: the index of that element, if any. -/
def idxRun (t : Nat) (v : VecCmd) : List Nat → State → State × Option Nat
  | [], s => (s, none)
  | k :: ks, s =>
    let r := k / v.cols
    let c := k % v.cols
    let x := leNat (sramRead s (spaceKey t v.in0.space + v.in0.off + r * v.in0.rstride + 8 * c) 8)
    if 2 ^ 40 ≤ x then (s, some k)
    else
      let esz := if v.sub = 1 then 32 else 16
      idxRun t v ks (sramWrite s (spaceKey t v.out0.space + v.out0.off + r * v.out0.rstride + esz * c) (idxEntry s t v r c x))

def startIdxgen (t : Nat) (s : State) (e : QEntry) : Option (State × RunCmd) :=
  match operandBlock s t e.cmd with
  | none => some (s, refuseCmd e badDesc)
  | some ob =>
    let v := vecOf e.cmd ob
    if idxBad s (partOfTile s t) v then some (s, refuseCmd e badDesc)
    else if accAbsent s t ob then some (s, refuseCmd e unitAbsent)
    else
      let esz := if v.sub = 1 then 256 else 128
      let outs := [(v.out0, esz)]
      let ins := (v.in0, 64) :: (if v.in1.en then [(v.in1, fmtBits v.in1.fmt)] else [])
      let n := v.rows * v.cols
      let (s', stop) := idxRun t v (List.range n) s
      let mapSpan := [(spaceKey t v.in2.space + v.in2.off, 4 * rd s (partOfTile s t) R.TABLE_DESC_SHARD_CNT (v.imm0 % 1024))]
      let s' := forgetSpans s' (overlapIn t v.rows v.cols outs ins
        ++ spansMeet (keySpans t v.out0 (strmSpans v.out0 esz v.rows v.cols)) mapSpan)
      match stop with
      | none => some (s', { okCmd e with undef := outUndef t v.rows v.cols outs })
      | some k =>
        let rest := (List.range (n - k)).map (fun i =>
          (spaceKey t v.out0.space + v.out0.off + (k + i) / v.cols * v.out0.rstride + esz / 8 * ((k + i) % v.cols), esz / 8))
        some (forgetSpans s' rest, refuseCmd e badDesc)

def execIdxgen (t : Tile) (s : State) (ecc : Ecc := .none) : Host.Outcome State Fault Refusal := .next (vecRow0 s t 11 ecc (startIdxgen t))

end Sys2Proof.Machine
end

