-- ==== Sys2Proof/Machine/Row.lean ====
section
/-!
DEFINITION. The row engine (spec/08 R239 to R248): softmax and normalisation, forward and backward, with their statistics records.
-/

namespace Sys2Proof.Machine

/-! ### Commands (R223, R225, R239) -/

structure RowCmd where
  opc : Nat
  sub : Nat
  imm0 : Nat
  imm1 : Nat
  statIdx : Nat
  first : Bool
  final : Bool
  causal : Bool
  qpos : Nat
  kpos : Nat
  rows : Nat
  cols : Nat
  spillOff : Nat
  spillCnt : Nat
  in0 : Strm
  in1 : Strm
  in2 : Strm
  out0 : Strm
  out1 : Strm
  out2 : Strm
  rsvd : Bool
  deriving DecidableEq, Repr

def rowOf (c : Cmd) (ob : List Byte) : RowCmd :=
  let h := leNat (ob.take 32)
  { opc := opcOf c, sub := cb c 11, imm0 := cbs c 12 4, imm1 := cbs c 16 4, statIdx := cbits c 20 0 20, first := cbit c 20 20
    final := cbit c 20 21, causal := cbit c 20 22, qpos := cbits c 24 0 22, kpos := cbits c 28 0 22
    rows := bitsOf h 0 21, cols := bitsOf h 32 17, spillOff := bitsOf h 64 22, spillCnt := bitsOf h 96 20
    in0 := obStrm ob 0, in1 := obStrm ob 1, in2 := obStrm ob 2, out0 := obStrm ob 3, out1 := obStrm ob 4, out2 := obStrm ob 5
    rsvd := cbits c 10 0 3 != 0 || cbit c 10 7 || cbits c 20 23 9 != 0 || cbits c 24 22 10 != 0 || cbits c 28 22 10 != 0
      || bitsOf h 21 11 != 0 || bitsOf h 49 15 != 0 || bitsOf h 86 10 != 0 || bitsOf h 116 12 != 0 || bitsOf h 128 128 != 0 }

/-- Whether the operation uses streams in1, in2, out1, out2 (R239). -/
def rowUses (m : RowCmd) : Bool × Bool × Bool × Bool :=
  match m.opc with
  | 1 => (false, false, true, m.final)
  | 2 => (true, true, false, false)
  | 3 => (true, m.sub == 0, false, false)
  | _ => (true, true, true, m.sub == 0)

/-- Broadcast forms of in1 and in2. -/
def rowBcasts (m : RowCmd) : List Nat × List Nat :=
  match m.opc with
  | 2 => ([0], [1])
  | 3 => ([0, 2], [0, 2])
  | 4 => ([0], [0, 2])
  | _ => ([0], [0])

/-- A γ or β stream repeats one row (R239). -/
def repeated (x : Strm) : Bool := !x.en || x.bcast == 2 || x.rstride == 0

/-- Streams of a row command. -/
def rowStreams (m : RowCmd) : List Strm := [m.in0, m.in1, m.in2, m.out0, m.out1, m.out2]

/-- The checks of R228, R241, R243 and R246. A coded format is not admitted in the row engine (R61). -/
def rowBad (m : RowCmd) : Bool :=
  let (u1, u2, u3, u4) := rowUses m
  let (b1, b2) := rowBcasts m
  let norm := m.opc == 3 || m.opc == 4
  let bad (x : Strm) (need : Bool) (b : List Nat) (out : Bool) (rows : Nat) := strmBad x need b out (fmtBits x.fmt) rows m.cols
  let outRows := if norm then 1 else m.rows
  m.rsvd || (rowStreams m).any (fun x => x.en && isCoded x) || m.rows == 0 || decide (2 ^ 20 < m.rows) || m.cols == 0 || decide (2 ^ 16 < m.cols)
    || decide ((if norm then 1 else 0) < m.sub) || m.imm1 != 0
    || bad m.in0 true [0] false m.rows || bad m.in1 u1 b1 false m.rows || bad m.in2 u2 b2 false m.rows
    || bad m.out0 true [0] true m.rows
    || bad m.out1 u3 [if norm then 0 else 1] true outRows || bad m.out2 u4 [if norm then 0 else 1] true outRows
    || (m.opc == 3 && (!repeated m.in1 || !repeated m.in2)) || (m.opc == 4 && (!repeated m.in2 || m.out1.fmt != 0 || m.out2.fmt != 0))
    || (norm && (!m.first || !m.final))
    || (!norm && (decide (4194304 < m.qpos + m.rows) || decide (4194304 < m.kpos + m.cols)))
    || m.spillOff % 8 != 0 || decide (524288 < m.spillCnt) || decide (2 ^ 22 < m.spillOff + 8 * m.spillCnt)
    || decide (32768 + m.spillCnt < m.statIdx + m.rows)

/-! ### Statistics records (R241) -/

def recKey (t : Nat) (m : RowCmd) (r : Nat) : Nat :=
  let i := m.statIdx + r
  if i < 32768 then sideKey t (8 * i) else spKey t (m.spillOff + 8 * (i - 32768))

def getRec (s : State) (t : Nat) (m : RowCmd) (r : Nat) : Half × Half :=
  let x := leNat (sramRead s (recKey t m r) 8)
  (BitVec.ofNat 32 x, BitVec.ofNat 32 (x / 2 ^ 32))

def setRec (s : State) (t : Nat) (m : RowCmd) (r : Nat) (v : Half × Half) : State :=
  sramWrite s (recKey t m r) (leBytes 4 v.1.toNat ++ leBytes 4 v.2.toNat)

/-! ### One row of each operation (R242 to R247) -/

def masked (m : RowCmd) (r c : Nat) : Bool := m.causal && decide (m.qpos + r < m.kpos + c)

/-- SMAX_F (R242). -/
def smaxFRow (t : Nat) (m : RowCmd) (s : State) (r : Nat) : State :=
  let tau := BitVec.ofNat 32 m.imm0
  let (m0, l0) := if m.first then (negInf32, 0) else getRec s t m r
  let sc := (inRow s t m.in0 [] 0 r m.cols).zipIdx.map (fun (x, c) => if masked m r c then negInf32 else fMul tau x)
  let mn := fMax m0 (reduceRow fMax negInf32 sc)
  let noRow := fEq mn negInf32
  let corr := if noRow then one32 else fExp (fSub m0 mn)
  let ps := sc.map (fun x => if noRow then 0 else fExp (fSub x mn))
  let l := fAdd (fMul l0 corr) (rowSum ps)
  let l' := if m.final then (if l = 0 then 0 else fDiv one32 l) else l
  let s := outRow s t m.out1 [] none r [corr]
  let s := outRow s t m.out0 [] none r ps
  let s := if m.final then outRow s t m.out2 [] none r [l'] else s
  setRec s t m r (mn, l')

/-- SMAX_B (R244). -/
def smaxBRow (t : Nat) (m : RowCmd) (s : State) (r : Nat) : State :=
  let tau := BitVec.ofNat 32 m.imm0
  let (mx, lam) := getRec s t m r
  let xs := inRow s t m.in0 [] 0 r m.cols
  let dp := inRow s t m.in1 [] m.imm0 r m.cols
  let d := inElem s t m.in2 [] m.imm1 r 0
  let ds := (xs.zip dp).zipIdx.map (fun ((x, g), c) =>
    let p := if masked m r c then 0 else fMul (fExp (fSub (fMul tau x) mx)) lam
    fMul tau (fMul p (fSub g d)))
  outRow s t m.out0 [] none r ds

/-- n = COLS in FP32. -/
def colsF (m : RowCmd) : Half := f32 (.fin false m.cols 0)

/-- NORM_F (R246). -/
def normFRow (t : Nat) (m : RowCmd) (s : State) (r : Nat) : State :=
  let eps := BitVec.ofNat 32 m.imm0
  let ln := m.sub == 0
  let xs := inRow s t m.in0 [] 0 r m.cols
  let gs := inRow s t m.in1 [] m.imm0 r m.cols
  let bs := if ln then inRow s t m.in2 [] m.imm1 r m.cols else []
  let mu := if ln then fDiv (rowSum xs) (colsF m) else 0
  let dev := if ln then xs.map (fun x => fSub x mu) else xs
  let q := fDiv (rowSum (dev.map (fun x => fMul x x))) (colsF m)
  let rho := fRsqrt (fAdd q eps)
  let ys := (dev.zip gs).zipIdx.map (fun ((x, g), c) =>
    let y := fMul (fMul x rho) g
    if ln then fAdd y (bs.getD c 0) else y)
  setRec (outRow s t m.out0 [] none r ys) t m r (mu, rho)

/-- Add a row to an FP32 row that one output stream names. -/
def addRow (s : State) (t : Nat) (x : Strm) (vals : List Half) : State :=
  let old := inRow s t { x with rstride := 0, scaled := false } [] 0 0 vals.length
  outRow s t { x with rstride := 0, scaled := false } [] none 0 (List.zipWith fAdd old vals)

/-- NORM_B (R247). -/
def normBRow (t : Nat) (m : RowCmd) (s : State) (r : Nat) : State :=
  let ln := m.sub == 0
  let (mu, rho) := getRec s t m r
  let xs := inRow s t m.in0 [] 0 r m.cols
  let dy := inRow s t m.in1 [] m.imm0 r m.cols
  let ga := inRow s t m.in2 [] m.imm1 r m.cols
  let xh := xs.map (fun x => fMul (fSub x mu) rho)
  let g := List.zipWith fMul dy ga
  let a := fDiv (rowSum g) (colsF m)
  let bq := fDiv (rowSum (List.zipWith fMul g xh)) (colsF m)
  let dx := List.zipWith (fun g x => fMul rho (fSub (if ln then fSub g a else g) (fMul x bq))) g xh
  let s := outRow s t m.out0 [] none r dx
  let s := addRow s t m.out1 (List.zipWith fMul dy xh)
  if ln then addRow s t m.out2 dy else s

def rowStep (t : Nat) (m : RowCmd) : State → Nat → State :=
  match m.opc with
  | 1 => smaxFRow t m
  | 2 => smaxBRow t m
  | 3 => normFRow t m
  | _ => normBRow t m

/-! ### The command -/

/-- Outputs with the rows they have; a NORM_B row output is one row. -/
def rowOuts (m : RowCmd) : List (Strm × Nat) :=
  ([m.out0, m.out1, m.out2].filter (fun x => x.en)).map (fun x => (x, fmtBits x.fmt))

/-- A NORM_B row output is one row, so its stream repeats it. -/
def rowNormal (m : RowCmd) : RowCmd :=
  if m.opc = 4 then { m with out1 := { m.out1 with rstride := 0 }, out2 := { m.out2 with rstride := 0 } } else m

def startRow (t : Nat) (s : State) (e : QEntry) : Option (State × RunCmd) :=
  match operandBlock s t e.cmd with
  | none => some (s, refuseCmd e badDesc)
  | some ob =>
    let m := rowOf e.cmd ob
    if rowBad m then some (s, refuseCmd e badDesc)
    else if accAbsent s t ob then some (s, refuseCmd e unitAbsent)
    else
      let m := rowNormal m
      let ins := ([m.in0, m.in1, m.in2].filter (fun x => x.en)).map (fun x => (x, fmtBits x.fmt))
      let outs := rowOuts m
      let s' := (List.range m.rows).foldl (rowStep t m) s
      let s' := forgetSpans s' (overlapIn t m.rows m.cols outs ins ++ overlapOut t m.rows m.cols outs)
      some (s', { okCmd e with
        undef := outUndef t m.rows m.cols outs ++ (List.range m.rows).map (fun r => (false, recKey t m r, 8)) })

def rowRow (s : State) (t opc : Nat) (ecc : Ecc) : State := eccRow s t 2 opc (fun o => decide (1 ≤ o ∧ o ≤ 4)) ecc (startRow t)

def execSmaxF (t : Tile) (ecc : Ecc) (s : State) : Host.Outcome State Fault Refusal := .next (rowRow s t 1 ecc)
def execSmaxB (t : Tile) (s : State) (ecc : Ecc := .none) : Host.Outcome State Fault Refusal := .next (rowRow s t 2 ecc)
def execNormF (t : Tile) (s : State) (ecc : Ecc := .none) : Host.Outcome State Fault Refusal := .next (rowRow s t 3 ecc)
def execNormB (t : Tile) (ecc : Ecc) (s : State) : Host.Outcome State Fault Refusal := .next (rowRow s t 4 ecc)

end Sys2Proof.Machine
end

