-- ==== Sys2Proof/Machine/Dma.lean ====
section
/-!
DEFINITION. The DMA engine of a tile: COPY, DCOPY, TLOAD, TSTART (spec/06 R179, R189, R191) and STREAM (spec/10 R281 to R283).
-/

namespace Sys2Proof.Machine

/-! ### Ranges -/

/-- Keys that two lists of spans share. -/
def devMeet (as bs : List (Bool × Nat × Nat)) : List (Bool × Nat × Nat) :=
  as.flatMap (fun (h, k, n) => bs.filterMap (fun (h', k', n') =>
    if h = h' then (spanMeet (k, n) (k', n')).map (fun (a, b) => (h, a, b)) else none))

/-- The byte at distance i of spans in order. -/
def spanByte : List (Bool × Nat × Nat) → Nat → Option (Bool × Nat)
  | [], _ => none
  | (h, k, n) :: r, i => if i < n then some (h, k + i) else spanByte r (i - n)

/-- Bytes of a copy whose destination lies in its source take free values: the order of its reads and writes is not stated (log 16). -/
def overlapFree (s : State) (src dst : Space) (bs : List Byte) : List Byte :=
  let d := devSpans dst bs.length
  match devMeet d (devSpans src bs.length) with
  | [] => bs
  | m => bs.zipIdx.map (fun (b, i) =>
      match spanByte d i with
      | some (h, k) => if m.any (fun (h', k', n) => h == h' && decide (k' ≤ k) && decide (k < k' + n)) then Config.freeByte s.freeCtr i else b
      | none => b)

/-- Copy n bytes; what was read before a failing block is delivered (R86, log 9). -/
def devCopy (s : State) (p : Nat) (src dst : Space) (n : Nat) (ext : List Byte) (unit : Nat := srcTransport) (msg : Nat := 0) : State × Option Refuse :=
  let (bs, er) := devRead s src n ext
  let (s', ew) := devWrite (tickFree (noteRead s p src n unit msg)) p dst (overlapFree s src dst bs) unit msg
  match ew with
  | some e => (s', some e)
  | none => (s', er)

/-! ### COPY, DCOPY -/

def dmaDefined (o : Nat) : Bool := decide (1 ≤ o ∧ o ≤ 7)

def startCopy (t : Nat) (ext : List Byte) (s : State) (e : QEntry) : Option (State × RunCmd) :=
  let p := partOfTile s t
  let src := cbs e.cmd 8 8
  let dst := cbs e.cmd 16 8
  let len := cbs e.cmd 24 4
  if len = 0 ∨ cbs e.cmd 28 4 ≠ 0 then some (s, refuseCmd e badDesc)
  else match pickRefuse [checkDev s p src len false, checkDev s p dst len true] with
    | some r => some (s, { refuseCmd e r with errPort := blamePort s p [src] [dst] })
    | none =>
      let x := devSpace s p src
      let y := devSpace s p dst
      if devTgBusy s x len || devTgBusy s y len then none
      else
        let (s', r) := devCopy { s with msgSeq := s.msgSeq + 1 } p x y len ext (srcTile t 4) s.msgSeq.toNat
        some (s', { endCmd e r with
          errPort := blamePort s p [src] [dst], undef := devSpans y len, ackId := s.msgSeq.toNat, acks := if r.isNone then remoteFrames s p y len else 0 })

def execCopy (t : Tile) (ext : List Byte) (ecc : Ecc) (s : State) : Host.Outcome State Fault Refusal :=
  .next (eccRow s t 3 1 dmaDefined ecc (startCopy t ext) (fun _ c => [(cbs c 8 8, cbs c 24 4), (cbs c 16 8, cbs c 24 4)]))

/-- Another node has made a frame of a COPY visible (R258). -/
def copyVisible (s : State) (p node msg : Nat) : State :=
  let dstNode (r : RunCmd) : Nat := match devSpace s p (cbs r.cmd 16 8) with | .remote _ nd _ _ => nd | _ => 4096
  (tilesOf s p).foldl (fun s t =>
    if (queue s t 3).running.any (fun r => r.acks != 0) then
      setQueue s t 3 { queue s t 3 with running := (queue s t 3).running.map (fun r =>
        if opcOf r.cmd == 1 && r.ackId == msg && dstNode r == node then { r with acks := r.acks - 1 } else r) }
    else s) s

/-- A scratchpad offset in bytes [15:8] of n bytes, aligned (R179). -/
def spOperand (c : Cmd) (n align : Nat) : Option Nat :=
  let a := cbs c 8 8
  if a + n ≤ 2 ^ 22 ∧ a % align = 0 then some a else none

def startDcopy (t : Nat) (s : State) (e : QEntry) : Option (State × RunCmd) :=
  let len := 8 * cbs e.cmd 18 2
  let dm := cbs e.cmd 16 2
  match spOperand e.cmd len 8 with
  | none => some (s, refuseCmd e badDesc)
  | some a =>
    if len = 0 ∨ 65536 < dm + len ∨ dm % 8 ≠ 0 ∨ cbits e.cmd 20 1 7 ≠ 0 ∨ cbs e.cmd 21 11 ≠ 0 then some (s, refuseCmd e badDesc)
    else if cbit e.cmd 20 0 then
      some (sramWrite s (dmemKey t dm) (sramRead s (spKey t a) len), { okCmd e with undef := [(false, dmemKey t dm, len)] })
    else some (sramWrite s (spKey t a) (sramRead s (dmemKey t dm) len), { okCmd e with undef := [(false, spKey t a, len)] })

def execDcopy (t : Tile) (s : State) (ecc : Ecc := .none) : Host.Outcome State Fault Refusal :=
  .next (eccRow s t 3 3 dmaDefined ecc (startDcopy t))

/-! ### TLOAD, TSTART (R188 to R191) -/

/-- A load or start of a tile: its partition and presence (R179, R188). -/
def targetRefuse (s : State) (p u : Nat) : Option Refuse :=
  firstRefuse [checkIf (partOfTile s u != p) denied, checkIf (!tilePresent s u) unitAbsent]

def imemBusy : Refuse := withFault St.IMEM_BUSY K.IMEM_LOAD_REFUSED

/-- Key of byte `off` of the instruction memory (MEM 0) or data memory. -/
def tileMemKey (u : Nat) (dmem : Bool) (off : Nat) : Nat := if dmem then dmemKey u off else imemKey u off

/-- A load of tile u by a source: refused, waiting for other loads of the tile or for a stack, or made (state, failure of its reads). -/
inductive LoadRes where
  | refuse (r : Refuse)
  | wait (s : State)
  | done (s : State) (r : Option Refuse)
  deriving DecidableEq, Repr

/-- Load a tile's memory from a device address. A load that meets another one waits, and those that wait are served in the order of their
arrival; commands arrive one after another, so no two arrive in one cycle (R191, log 62). A tile that runs when the load begins is not
loaded. -/
def tileLoad (s : State) (p u source : Nat) (dmem : Bool) (src off64 len64 : Nat) (ext : List Byte) : LoadRes :=
  let n := 64 * len64
  let line := (tile s u).loadWaits
  match pickRefuse [targetRefuse s p u, checkDev s p src n false] with
  | some r => .refuse r
  | none =>
    if rdb s 4 R.TILE_STATUS_LOADING u || (match line with | [] => false | h :: _ => h != source) then
      .wait (if line.contains source then s else setTile s u { tile s u with loadWaits := line ++ [source] })
    else if tileState s u = 1 then .refuse imemBusy
    else if devTgBusy s (devSpace s p src) n then .wait s
    else
      let (bs, r) := devRead s (devSpace s p src) n ext
      let s := wr (dropWaiter s source) 4 R.TILE_STATUS_LOADING 1 u
      .done (sramWrite (noteRead s p (devSpace s p src) n source) (tileMemKey u dmem (64 * off64)) bs) r

def loadBad (c : Cmd) : Bool :=
  let off := cbs c 24 2
  let len := cbs c 26 2
  cbits c 9 1 7 != 0 || cbs c 10 6 != 0 || cbs c 28 4 != 0 || decide (1023 < off) || len == 0 || decide (1024 < off + len)
    || cbs c 16 8 % 64 != 0

def startTload (t : Nat) (ext : List Byte) (s : State) (e : QEntry) : Option (State × RunCmd) :=
  let p := partOfTile s t
  let u := cb e.cmd 8
  let dmem := cbit e.cmd 9 0
  if loadBad e.cmd then some (s, refuseCmd e badDesc)
  else match tileLoad s p u (srcTile t 4) dmem (cbs e.cmd 16 8) (cbs e.cmd 24 2) (cbs e.cmd 26 2) ext with
    | .refuse r => some (dropWaiter s (srcTile t 4), { refuseCmd e r with errPort := blamePort s p [cbs e.cmd 16 8] [] })
    | .wait _ => none
    | .done s' r => some (s', { endCmd e r with
        errPort := blamePort s p [cbs e.cmd 16 8] [], loading := some u, undef := [(false, tileMemKey u dmem (64 * cbs e.cmd 24 2), 64 * cbs e.cmd 26 2)] })

/-- The front TLOAD joins the line at its target when it cannot begin. -/
def tloadArrive (s : State) (t : Nat) (ext : List Byte) : State :=
  match headEntry s t 3 with
  | some e =>
    if opcOf e.cmd = 6 ∧ (headerRefuse s (partOfTile s t) e.cmd).isNone ∧ !loadBad e.cmd then
      match tileLoad s (partOfTile s t) (cb e.cmd 8) (srcTile t 4) (cbit e.cmd 9 0) (cbs e.cmd 16 8) (cbs e.cmd 24 2) (cbs e.cmd 26 2) ext with
      | .wait s' => s'
      | _ => s
    else s
  | none => s

def execTload (t : Tile) (ext : List Byte) (s : State) (ecc : Ecc := .none) : Host.Outcome State Fault Refusal :=
  .next (eccRow (tloadArrive s t ext) t 3 6 dmaDefined ecc (startTload t ext) (fun _ c => [(cbs c 16 8, 64 * cbs c 26 2)]))

def tileBusy : Refuse := ⟨St.TILE_BUSY, none⟩

def startTstart (t : Nat) (s : State) (e : QEntry) : Option (State × RunCmd) :=
  let u := cb e.cmd 8
  let pc := cbs e.cmd 10 2
  if cb e.cmd 9 ≠ 0 ∨ 16383 < pc ∨ cbs e.cmd 12 20 ≠ 0 then some (s, refuseCmd e badDesc)
  else match targetRefuse s (partOfTile s t) u with
    | some r => some (s, refuseCmd e r)
    | none =>
      if tileState s u = 1 then some (s, refuseCmd e tileBusy)
      else if rdb s 4 R.TILE_STATUS_LOADING u then none
      else some (startTile s u pc, okCmd e)

def execTstart (t : Tile) (s : State) : Host.Outcome State Fault Refusal :=
  .next (engineRow s t 3 7 dmaDefined (startTstart t))

/-! ### STREAM (R281 to R283) -/

structure StreamDesc where
  src : Nat
  buf : Nat
  len : Nat
  bufStride : Nat
  srcStride : Nat
  cnt : Nat
  nbuf : Nat
  full : Nat
  free : Nat
  freeBase : Nat
  rsvd : Bool
  deriving DecidableEq, Repr

def streamOf (bs : List Byte) : StreamDesc :=
  let x := leNat (bs.take 64)
  { src := bytesAt x 0 8, buf := bytesAt x 8 8, len := bytesAt x 16 4, bufStride := bytesAt x 20 4, srcStride := bytesAt x 24 6
    cnt := bytesAt x 32 3, nbuf := bitsOf x 280 3, full := bytesAt x 36 4, free := bytesAt x 40 4, freeBase := bytesAt x 44 4
    rsvd := bytesAt x 30 2 != 0 || bitsOf x 283 5 != 0 || bytesAt x 48 16 != 0 }

def StreamDesc.chunk (d : StreamDesc) (i : Nat) : Nat := d.src + i * d.srcStride
def StreamDesc.buffer (d : StreamDesc) (i : Nat) : Nat := d.buf + i % d.nbuf * d.bufStride

/-- The outcome of a counter name of a stream. -/
def streamName (s : State) (p n : Nat) : Option Refuse :=
  if bitsOf n 14 2 = 2 then some badDesc
  else match resolveName s p (BitVec.ofNat 32 n) with
    | .ctr _ => none
    | .foreign => some denied
    | _ => some badDesc

/-- A buffer overlaps a chunk. -/
def streamOverlap (s : State) (p : Nat) (d : StreamDesc) : Bool :=
  (List.range d.nbuf).any (fun b => (List.range d.cnt).any (fun i =>
    !(devMeet (devSpans (devSpace s p (d.buffer b)) d.len) (devSpans (devSpace s p (d.chunk i)) d.len)).isEmpty))

/-- The checks of R283. -/
def streamRefuse (s : State) (p : Nat) (d : StreamDesc) : Option Refuse :=
  let region := d.buf / 2 ^ 60
  if d.rsvd || d.len % 64 != 0 || decide (d.len < 64) || decide (4194304 < d.len) || decide (d.bufStride < d.len) || d.cnt == 0
      || decide (d.nbuf < 2) || decide (4 < d.nbuf) || (region != 1 && region != 2) then some badDesc
  else pickRefuse
    ([streamName s p d.full, streamName s p d.free]
      ++ (List.range d.nbuf).map (fun b => checkDev s p (d.buffer b) d.len true)
      ++ (List.range d.cnt).map (fun i => checkDev s p (d.chunk i) d.len false)
      ++ [checkIf (streamOverlap s p d) badDesc])

/-- Buffers that an abandoned STREAM leaves undefined: those of chunks started and not signalled, and those that have held no chunk yet; a
buffer whose chunk has been signalled and not replaced holds its data (R190, log 63). -/
def streamUndef (s : State) (p : Nat) (d : StreamDesc) (started landed : Nat) : List (Bool × Nat × Nat) :=
  ((List.range (started - landed)).map (landed + ·) ++ (List.range (min d.cnt d.nbuf - started)).map (started + ·)).flatMap
    (fun i => devSpans (devSpace s p (d.buffer i)) d.len)

def startStream (t : Nat) (s : State) (e : QEntry) : Option (State × RunCmd) :=
  match spOperand e.cmd 64 64 with
  | none => some (s, refuseCmd e badDesc)
  | some a =>
    let bs := sramRead s (spKey t a) 64
    if cbs e.cmd 16 16 ≠ 0 then some (s, refuseCmd e badDesc)
    else match streamRefuse s (partOfTile s t) (streamOf bs) with
      | some r => some (s, { refuseCmd e r with errPort := blamePort s (partOfTile s t) [(streamOf bs).src] [] })
      | none => some (s, { okCmd e with
          finished := false, keep := bs, undef := streamUndef s (partOfTile s t) (streamOf bs) 0 0 })

def execStream (t : Tile) (s : State) (ecc : Ecc := .none) : Host.Outcome State Fault Refusal :=
  .next (eccRow s t 3 2 dmaDefined ecc (startStream t))

/-- The stream that runs on a tile's DMA engine. -/
def runningStream (s : State) (t : Nat) : Option (List RunCmd × RunCmd) :=
  let x := (queue s t 3).running
  match x.getLast? with
  | some r => if opcOf r.cmd = 2 ∧ !r.finished then some (x.dropLast, r) else none
  | none => none

/-- The counter and target that hold back the next chunk (R282). -/
def streamWait (s : State) (p : Nat) (d : StreamDesc) (i : Nat) : Option (CtrRef × Half) :=
  if i < d.nbuf then none
  else match resolveName s p (BitVec.ofNat 32 d.free) with
    | .ctr c => some (c, BitVec.ofNat 32 (d.freeBase + (i - d.nbuf + 1)))
    | _ => none

def waitOpen (s : State) : Option (CtrRef × Half) → Bool
  | none => true
  | some (c, x) => waitMet s c x

def setRunning (s : State) (t q : Nat) (l : List RunCmd) : State := setQueue s t q { queue s t q with running := l }

/-- The running stream ends with a failure. -/
def endStream (s : State) (t : Nat) (before : List RunCmd) (r : RunCmd) (f : Refuse) : State :=
  setRunning s t 3 (before ++ [{ r with
    finished := true, status := f.status, fault := f.fault
    errPort := blamePort s (partOfTile s t) [(streamOf r.keep).chunk r.landed] [] }])

/-- A window's port may issue DMA (R381). -/
def spaceLive (s : State) (p : Nat) : Space → Bool
  | .win w _ => portUsable s (winPort s p w)
  | _ => true

/-- The next chunk starts. Through a port that may issue no DMA it cannot: once the chunks before it have landed the stream ends (R368,
R381). -/
def execStreamChunkStart (t : Tile) (s : State) : Host.Outcome State Fault Refusal :=
  .next (match runningStream s t with
    | some (before, r) =>
      let p := partOfTile s t
      let d := streamOf r.keep
      let x := devSpace s p (d.chunk r.started)
      if running s p && decide (r.started < d.cnt) && decide (r.started < r.landed + d.nbuf) && waitOpen s (streamWait s p d r.started)
          && !devTgBusy s x d.len then
        if !spaceLive s p x then (if r.landed = r.started then endStream s t before r hostAbort else s)
        else setRunning (noteRead s p x d.len (srcTile t 4)) t 3 (before ++ [{ r with
          started := r.started + 1, undef := streamUndef s p d (r.started + 1) r.landed }])
      else s
    | none => s)

/-- A stream's chunk is read through a RAW address. -/
def rawChunk (s : State) (p a : Nat) : Bool :=
  match devSpace s p a with
  | .hbm raw .. => raw
  | .inter raw .. => raw
  | _ => false

/-- A landing chunk meets an ECC event in its chunk or its buffer: counted, or the command stops, a poisoned atom of HBM as a failed checksum,
of which a RAW reader raises no fault (R285, R286). -/
def streamEcc (s : State) (t : Nat) (before : List RunCmd) (r : RunCmd) (spans : List (Bool × Nat × Nat)) : Ecc → State × Bool
  | .none => (s, false)
  | .corrected m => (if eccFits t 3 spans m then eccCorrected s t m else s, false)
  | .uncorrected m =>
    if !eccFits t 3 spans m then (s, false)
    else match m with
      | .hbm .. =>
        let p := partOfTile s t
        let a := (streamOf r.keep).chunk r.landed
        let raw := rawChunk s p a && eccFits t 3 (devSpans (devSpace s p a) (streamOf r.keep).len) m
        let s' := endStream s t before r (if raw then ⟨St.CHECKSUM_MISMATCH, none⟩ else checksumBad)
        let s' := match before, (queue s' t 3).running with
          | [], x :: rest => completeCmd s' t 3 x rest
          | _, _ => s'
        (eccUncorrected s' t m, true)
      | _ => (eccUncorrected s t m, true)

/-- A chunk lands: read as a checked consumer, written, and announced on the full counter; a failing block ends the stream. -/
def execStreamChunkLanded (t : Tile) (ext : List Byte) (s : State) (ecc : Ecc := .none) : Host.Outcome State Fault Refusal :=
  .next (match runningStream s t with
    | some (before, r) =>
      let p := partOfTile s t
      let d := streamOf r.keep
      let spans := devSpans (devSpace s p (d.chunk r.landed)) d.len ++ devSpans (devSpace s p (d.buffer r.landed)) d.len
      if clocked s p && decide (r.landed < r.started) && !devTgBusy s (devSpace s p (d.chunk r.landed)) d.len then
        match spaceKeyed s p (d.chunk r.landed), streamEcc s t before r spans ecc with
        | some f, _ => endStream s t before r f
        | none, (s, true) => s
        | none, (s, false) =>
        let (s', e) := devCopy s p (devSpace s p (d.chunk r.landed)) (devSpace s p (d.buffer r.landed)) d.len (liveExt s p (devSpace s p (d.chunk r.landed)) ext)
        match e with
        | some f => endStream s' t before r f
        | none =>
          let s' := match resolveName s p (BitVec.ofNat 32 d.full) with
            | .ctr c => issueInc s' c (srcTile t 4) 1
            | _ => s'
          setRunning s' t 3 (before ++ [{ r with
            landed := r.landed + 1, undef := streamUndef s p d r.started (r.landed + 1)
            finished := r.landed + 1 == d.cnt }])
      else s
    | none => s)

end Sys2Proof.Machine
end

