-- ==== Sys2Proof/Machine/Sumac.lean ====
section
/-!
DEFINITION. The store of a Sumac engine (spec/04): table digests, version slots, shard descriptors, directories, row records and
their elements, the Redirect table and the load counters.
-/

namespace Sys2Proof.Machine

/-- Why an engine serves nothing: the cause of R88, R97, R98, R100, R102, R123 or R288. -/
inductive EngErr where
  | misrouted | shardInvalid | corrupt | checksum | codebook | keyAbsent | race | broken
  deriving DecidableEq, Repr

/-- The status of the reply; none when no reply leaves (log 18). -/
def EngErr.status : EngErr → Option Nat
  | .misrouted | .shardInvalid => some St.LOOKUP_MISROUTED
  | .corrupt | .checksum => some St.CHECKSUM_MISMATCH
  | .codebook => some St.BAD_DESC
  | .race => some St.VERSION_RETIRED
  | .keyAbsent | .broken => none

/-- The fault at the engine; `update` says that the request belongs to the update path (R141). -/
def EngErr.kind (update : Bool) : EngErr → Kind
  | .misrouted => if update then K.UPDATE_MISROUTED else K.LOOKUP_MISROUTED
  | .shardInvalid => K.SHARD_INVALID
  | .corrupt => K.RECORD_CRC
  | .checksum => K.CHECKSUM_MISMATCH
  | .codebook => K.CODEBOOK_INVALID
  | .keyAbsent => K.HBM_KEY_ABSENT
  | .race => K.VERSION_RACE
  | .broken => K.REDIRECT_BROKEN

def engFault (s : State) (p k : Nat) (update : Bool) (e : EngErr) : State := raise s (srcStack k 0) (e.kind update) p

/-! ### Messages -/

/-- A message leaves a unit that has not checked its route itself (R322). -/
def emit (s : State) (p : Nat) (b : Body) (unit : Nat := bodyUnit b) (msgId : Nat := bodyMsgId b) : State :=
  match bodyNode b with
  | some n => if n != ownNode s p && !hasRoute s p n then raise s srcTransport K.NO_ROUTE p else post s p b unit msgId
  | none => post s p b unit msgId

/-- A message for a partition that does not run is discarded; FRAME_RECEIVE counts its frame (R326). -/
def rxDrop (s : State) (_p _src : Nat) : State := s

/-- SU_ENABLE of a partition. -/
def suEnabled (s : State) (p : Nat) : Bool := rdb s p R.SUMAC_CTRL_SU_ENABLE

/-- The stack is one of the partition's (R100). -/
def ownStack (s : State) (p k : Nat) : Bool := decide (k < 24) && partOfStack s k == p

/-! ### Tables and versions (R89, R91, R121, R125) -/

def tblWidth (s : State) (p t : Nat) : Nat := 32 * rd s p R.TABLE_DESC_WIDTH_32 t
def tblFmt (s : State) (p t : Nat) : Nat := rd s p R.TABLE_DESC_FMT t
def tblSeed (s : State) (p t : Nat) : Word := BitVec.ofNat 64 (rd s p R.TABLE_DESC_HASH_SEED t)

/-- The descriptor digest: CRC-32C of bytes 0 to 15 (R91). -/
def tblDigest (s : State) (p t : Nat) : Nat :=
  crc32c (leBytes 4 (t + rd s p R.TABLE_DESC_WIDTH_32 t * 2 ^ 16 + tblFmt s p t * 2 ^ 24 + rd s p R.TABLE_DESC_OPT t * 2 ^ 28)
    ++ leBytes 4 (rd s p R.TABLE_DESC_SHARD_CNT t) ++ leBytes 8 (rd s p R.TABLE_DESC_HASH_SEED t))

/-- Version a is newer than b (R125). -/
def newerVer (a b : Nat) : Bool := decide (0 < signedOf 16 (a + 65536 - b % 65536))

def slotState (s : State) (p t j : Nat) : Nat := rd s p R.TABLE_DESC_SLOT_STATE t j

/-- The slot that holds a version. -/
def verSlot (s : State) (p t v : Nat) : Option Nat :=
  (List.range 4).find? (fun j => slotState s p t j != 0 && rd s p R.TABLE_DESC_SLOT_VER t j == v)

/-- The version is CURRENT. -/
def verCurrent (s : State) (p t v : Nat) : Bool :=
  match verSlot s p t v with
  | some j => slotState s p t j == 3
  | none => false

/-- The home hash of a row (R94). -/
def rowHash (s : State) (p t row : Nat) : Word := homeHash t row (tblSeed s p t)
def rowShard (s : State) (p t row : Nat) : Nat := shardOf (rowHash s p t row) (rd s p R.TABLE_DESC_SHARD_CNT t)

/-! ### Shard descriptors (R96, R97) -/

structure ShardDesc where
  table : Nat
  valid : Bool
  ver   : Nat
  idx   : Nat
  log2  : Nat
  slots : Nat
  rsvd  : Bool
  dirAddr : Nat
  recAddr : Nat
  cbAddr  : Nat
  deriving DecidableEq, Repr

def shardDescOf (bs : List Byte) : ShardDesc :=
  let x := leNat bs
  { table := bitsOf x 0 10, valid := bitAt x 15, ver := bytesAt x 2 2, idx := bitsOf x 32 20, log2 := bitsOf x 52 5, slots := bitsOf x 64 23
    rsvd := bitsOf x 10 5 != 0 || bitsOf x 57 7 != 0 || bitsOf x 87 9 != 0 || bytesAt x 12 4 != 0 || bytesAt x 40 24 != 0
    dirAddr := bytesAt x 16 8, recAddr := bytesAt x 24 8, cbAddr := bytesAt x 32 8 }

/-- The direct offset of n bytes at a device address that lie in stack k. -/
def stackOff (k a n : Nat) : Option Nat :=
  match parseDev a with
  | some (.hbm _ k' o) => if k' = k ∧ o + n ≤ hbmData then some o else none
  | _ => none

/-- Bytes a record's CRC covers, and its slot size (R92). -/
def recCovered (fmt w : Nat) : Nat := if fmt = 1 then 16 + 4 * w + w / 8 else if fmt = 3 then 20 + w else 20 + w / 2
def recSize (fmt w : Nat) : Nat := (recCovered fmt w + 63) / 64 * 64

/-- Offsets of the directory, slot 0 and the codebook of a shard within its stack, when its descriptor passes R97. -/
def shardBases (k fmt w : Nat) (d : ShardDesc) : Option (Nat × Nat × Nat) :=
  if d.rsvd || decide (23 < d.log2) || d.slots == 0 || d.dirAddr % 64 != 0 || d.recAddr % 64 != 0 || d.cbAddr % 64 != 0
      || (fmt == 1 && d.cbAddr != 0) then none
  else match stackOff k d.dirAddr (64 * 2 ^ d.log2), stackOff k d.recAddr (recSize fmt w * d.slots) with
    | some a, some b =>
      if fmt = 1 then some (a, b, 0)
      else (stackOff k d.cbAddr (if fmt = 3 then 576 else 64)).map (fun c => (a, b, c))
    | _, _ => none

/-- A shard in use: its size and where its parts lie. -/
structure Shard where
  lshard : Nat
  log2 : Nat
  slots : Nat
  dir  : Nat
  recs : Nat
  cb   : Nat
  fmt  : Nat
  w    : Nat
  ver  : Nat
  deriving DecidableEq, Repr

/-- The shard named by an LSHARD of engine k, checked against table, version and shard index (R97, R100). A SHARD_DIR_BASE whose array does
not lie wholly in the engine's stack makes every request a misroute, and its alignment is not looked at: the spec states neither (log 65). -/
def shardFor (s : State) (p k l table ver idx : Nat) : Except EngErr Shard :=
  if !keyLoaded s p then .error .keyAbsent
  else match stackOff k (rd s 4 R.SHARD_DIR_BASE_SD_BASE k) (64 * 32768) with
    | none => .error .misrouted
    | some b =>
      let o := b + 64 * l
      if !blockGood s k (o / 4096 * 4096) then .error .checksum
      else
        let d := shardDescOf (hbmRead s (hbmKey k o) 64)
        if !d.valid || d.table != table || d.ver != ver || d.idx != idx then .error .misrouted
        else match shardBases k (tblFmt s p table) (tblWidth s p table) d with
          | none => .error .shardInvalid
          | some (a, r, c) => .ok ⟨l, d.log2, d.slots, a, r, c, tblFmt s p table, tblWidth s p table, ver⟩

/-- The shard of a row under a request: hash, shard index and digest (R100). -/
def rowShardFor (s : State) (p k l table ver row idx digest : Nat) : Except EngErr Shard :=
  if !tableDefined s p table || digest != tblDigest s p table || rowShard s p table row != idx then .error .misrouted
  else shardFor s p k l table ver idx

/-- The shard of index j of engine k, by search over its descriptors (R162: the old copy of a row). -/
def shardSearch (s : State) (p k table ver j : Nat) : Option Shard :=
  (List.range 32768).findSome? (fun l => (shardFor s p k l table ver j).toOption)

/-! ### Directories (R98, R99) -/

structure DirLine where
  count : Nat
  ovf   : Bool
  ents  : List (Nat × Nat × Bool)
  raw   : List Byte
  deriving DecidableEq, Repr

def lineOff (d : Shard) (i : Nat) : Nat := d.dir + 64 * (i % 2 ^ d.log2)

/-- A line as stored; none when its CRC fails, its COUNT is above 7 (R98) or its atom is poisoned (R286). -/
def lineAt (s : State) (k : Nat) (d : Shard) (i : Nat) : Option DirLine :=
  let bs := hbmRead s (hbmKey k (lineOff d i)) 64
  let x := leNat bs
  let n := bytesAt x 4 1
  if !unpoisoned s (hbmKey k (lineOff d i)) 64 ∨ bytesAt x 0 4 ≠ crc32c (bs.drop 4) ∨ 7 < n then none
  else some ⟨n, bitAt x 40, (List.range n).map (fun e => let y := bytesAt x (8 + 8 * e) 8; (bitsOf y 0 40, bitsOf y 40 23, bitAt y 63)), bs⟩

/-- A found row: line number, entry, slot. -/
structure Found where
  line : Nat
  ent  : Nat
  slot : Nat
  deriving DecidableEq, Repr

/-- Search from line b + i on, at most `fuel` lines (R99). -/
def findFrom (s : State) (k : Nat) (d : Shard) (b row : Nat) : Nat → Nat → Except EngErr (Option Found)
  | 0, _ => .ok none
  | fuel + 1, i =>
    match lineAt s k d (b + i) with
    | none => .error .corrupt
    | some ln =>
      match ln.ents.zipIdx.find? (fun (e, _) => e.2.2 && e.1 == row) with
      | some ((_, slot, _), e) => if d.slots ≤ slot then .error .corrupt else .ok (some ⟨(b + i) % 2 ^ d.log2, e, slot⟩)
      | none => if ln.ovf then findFrom s k d b row fuel (i + 1) else .ok none

def bucketOf (d : Shard) (h : Word) : Nat := h.toNat % 2 ^ 32 % 2 ^ d.log2

def findRow (s : State) (k : Nat) (d : Shard) (h : Word) (row : Nat) : Except EngErr (Option Found) :=
  findFrom s k d (bucketOf d h) row 8 0

/-! ### Records (R92, R93, R88) -/

def recRow (bs : List Byte) : Nat := leNat (bs.take 5)
def recTag (bs : List Byte) : Nat := leNat ((bs.drop 5).take 4)
def recVer (bs : List Byte) : Nat := leNat ((bs.drop 9).take 2)
def recFlags (bs : List Byte) : Nat := leNat ((bs.drop 11).take 1)
def recLive (bs : List Byte) : Bool := bitAt (recFlags bs) 0

/-- The CRC of a record with its CRC field taken as zero (R88, R92). -/
def recCrc (fmt w : Nat) (bs : List Byte) : Nat :=
  let b := bs.take (recCovered fmt w)
  crc32c (b.take 12 ++ [0, 0, 0, 0] ++ b.drop 16)

/-- CRC, ROW_ID and VER agree (R93). -/
def recGood (fmt w row ver : Nat) (bs : List Byte) : Bool :=
  leNat ((bs.drop 12).take 4) == recCrc fmt w bs && recRow bs == row && recVer bs == ver

/-- A record from its fields and body, padded and with its CRC. -/
def recMake (fmt w row tag ver flags : Nat) (body : List Byte) : List Byte :=
  let b := leBytes 5 row ++ leBytes 4 tag ++ leBytes 2 ver ++ leBytes 1 flags ++ [0, 0, 0, 0] ++ body
  let b := b.take 12 ++ leBytes 4 (recCrc fmt w b) ++ b.drop 16
  b ++ List.replicate (recSize fmt w - b.length) 0

def recOff (d : Shard) (slot : Nat) : Nat := d.recs + recSize d.fmt d.w * slot

/-- The live record of a row: its place and bytes; none when the row is absent (R93). -/
def readRec (s : State) (k : Nat) (d : Shard) (h : Word) (row : Nat) : Except EngErr (Option (Found × List Byte)) :=
  match findRow s k d h row with
  | .error e => .error e
  | .ok none => .ok none
  | .ok (some f) =>
    let bs := hbmRead s (hbmKey k (recOff d f.slot)) (recSize d.fmt d.w)
    if !unpoisoned s (hbmKey k (recOff d f.slot)) (recSize d.fmt d.w) || !recGood d.fmt d.w row d.ver bs then .error .corrupt
    else if recLive bs then .ok (some (f, bs)) else .ok none

/-- The codebook of a frozen shard (R68). A CRC whose cover leaves the stack cannot hold (log 78), nor one over a poisoned atom (R286). -/
def shardBook (s : State) (k : Nat) (d : Shard) : Except EngErr (List (BitVec 16)) :=
  if d.fmt = 1 then .ok []
  else
    let n := 16 + 2 * leNat (hbmRead s (hbmKey k (d.cb + 2)) 2)
    if hbmData < d.cb + 16 then .error .shardInvalid
    else if hbmData < d.cb + n || !unpoisoned s (hbmKey k d.cb) n then .error .checksum
    else match checkCodebook (hbmRead s (hbmKey k d.cb) n) with
    | .ok (f, _, es) => if f = d.fmt then .ok es else .error .codebook
    | .error r => if r.status = St.CHECKSUM_MISMATCH then .error .checksum else .error .codebook

/-- Element i of a record in FP32: widened weight, or C[c] × σ (R69, R108). -/
def recElem (fmt : Nat) (book : List (BitVec 16)) (bs : List Byte) (i : Nat) : Half :=
  if fmt = 1 then bf16ToF32 (BitVec.ofNat 16 (leNat ((bs.drop (16 + 2 * i)).take 2)))
  else
    let c := if fmt = 3 then leNat ((bs.drop (20 + i)).take 1) else bitsOf (leNat ((bs.drop (20 + i / 2)).take 1)) (4 * (i % 2)) 4
    f32 ((bf16.decode (book.getD c 0).toNat).mul (bf16.decode (leNat ((bs.drop 16).take 2))))

def recElems (fmt w : Nat) (book : List (BitVec 16)) (bs : List Byte) : List Half := (List.range w).map (recElem fmt book bs)

/-- A row as RAW returns it (R110). -/
def recRaw (fmt w : Nat) (book : List (BitVec 16)) (bs : List Byte) (key : Nat) : RowData :=
  if fmt = 1 then ⟨key, true, (List.range w).map (fun i => BitVec.ofNat 32 (leNat ((bs.drop (16 + 2 * i)).take 2)))⟩
  else ⟨key, false, recElems fmt w book bs⟩

/-! ### Redirect tables (R100 to R103) -/

/-- Key of a Redirect table: an engine's own, or one kept by mirror watch slot w. -/
def redirKey (slot : Option Nat) (k : Nat) : Nat := match slot with | none => k | some w => 24 * (w + 1) + k

def redirectOf (s : State) (slot : Option Nat) (k row table ver : Nat) : Option RedirectEnt :=
  (mapGet [] s.redirects (redirKey slot k)).find? (fun e => e.row == row && e.table == table && e.ver == ver)

/-- Set a Redirect table; the count of ACTIVE entries of an own engine reads in REDIRECT_USE (R163). -/
def setRedirects (s : State) (slot : Option Nat) (k : Nat) (l : List RedirectEnt) : State :=
  let s := { s with redirects := if l.isEmpty then mapErase s.redirects (redirKey slot k) else mapSet s.redirects (redirKey slot k) l }
  match slot with | none => wr s 4 R.REDIRECT_USE_ACTIVE_CNT l.length k | some _ => s

def putRedirect (s : State) (slot : Option Nat) (k : Nat) (e : RedirectEnt) : State :=
  setRedirects s slot k ((mapGet [] s.redirects (redirKey slot k)).filter
    (fun x => !(x.row == e.row && x.table == e.table && x.ver == e.ver)) ++ [e])

def dropRedirect (s : State) (slot : Option Nat) (k row table ver : Nat) : State :=
  setRedirects s slot k ((mapGet [] s.redirects (redirKey slot k)).filter
    (fun x => !(x.row == row && x.table == table && x.ver == ver)))

/-! ### Load counters (R158, R159) -/

def satHalf (n : Nat) : Nat := min n 0xFFFFFFFF

def countRead (s : State) (k lshard : Nat) (h : Word) : State :=
  let (r, u, o) := mapGet (0, 0, 0) s.shardCnt (32768 * k + lshard)
  wrSat { s with shardCnt := mapSet s.shardCnt (32768 * k + lshard) (satHalf (r + 1), u, o) } 4 R.BUCKET_READS 1 k (h.toNat / 2 ^ 52)

def countUpdate (s : State) (k lshard : Nat) (h : Word) (cnt : Nat) : State :=
  let (r, u, o) := mapGet (0, 0, 0) s.shardCnt (32768 * k + lshard)
  wrSat { s with shardCnt := mapSet s.shardCnt (32768 * k + lshard) (r, satHalf (u + 1), satHalf (o + cnt)) } 4 R.BUCKET_UPDATES 1 k
    (h.toNat / 2 ^ 52)

/-! ### Rows that a read must wait for (R37, R145, R162) -/

/-- The engine still owes the row a write of a step before m, or moves it at step m or before. -/
def rowWaits (s : State) (k table row m : Nat) : Bool :=
  s.held.any (fun x => x.slot.isNone && x.stack == k && x.c.table.toNat == table && x.c.row.toNat == row && decide (0 < stepDiff m x.c.step.toNat))
    || s.fwdOuts.any (fun x => x.stack == k && x.table == table && x.row == row && decide (0 < stepDiff m x.step))
    || s.batches.any (fun b => b.stack == k && !b.installed && decide (0 ≤ stepDiff m b.step)
        && b.rows.any (fun r => r.table == table && r.row == row && decide (r.phase < 2)))

/-- Requests for a stack that a traffic generator drives wait (R291). -/
def engineWaits (s : State) (k : Nat) : Bool := tgBusy s k

end Sys2Proof.Machine
end

