-- ==== Sys2Proof/Machine/Lookup.lean ====
section
/-!
DEFINITION. Look-ups (spec/04): the requester (R104 to R113, R117), the owner (R100 to R103, R108, R110) and hot-row fetch reads (R118, R119).
-/

namespace Sys2Proof.Machine

/-! ### The look-up descriptor (R104) -/

structure LookDesc where
  table : Nat
  pool  : Nat
  useCur : Bool
  wtFp32 : Bool
  outBf16 : Bool
  ver   : Nat
  bags  : Nat
  idx   : Nat
  idxAddr : Nat
  bagAddr : Nat
  outAddr : Nat
  stride : Nat
  done  : Nat
  status : Nat
  rsvd  : Bool
  deriving DecidableEq, Repr

def lookDescOf (bs : List Byte) : LookDesc :=
  let x := leNat bs
  { table := bitsOf x 0 10, pool := bitsOf x 10 3, useCur := bitAt x 13, wtFp32 := bitAt x 14, outBf16 := bitAt x 15
    ver := bytesAt x 2 2, bags := bitsOf x 32 17, idx := bitsOf x 64 24
    idxAddr := bytesAt x 16 8, bagAddr := bytesAt x 24 8, outAddr := bytesAt x 32 8, stride := bytesAt x 40 4
    done := bitsOf x 352 12, status := bytesAt x 48 8
    rsvd := bitsOf x 49 15 != 0 || bitsOf x 88 8 != 0 || bytesAt x 12 4 != 0 || bitsOf x 364 20 != 0 || bytesAt x 56 8 != 0 }

def LookDesc.elemBytes (d : LookDesc) : Nat := if d.outBf16 then 2 else 4
/-- Output rows: one for each bag, or for each entry of a RAW look-up (R109, R110). -/
def LookDesc.outRows (d : LookDesc) : Nat := if d.pool = 0 then d.idx else d.bags

/-- n bytes at an address that passes its checks; nothing to check for none. -/
def checkSpan (s : State) (p a n : Nat) (write : Bool) : Option Refuse := if n = 0 then none else checkDev s p a n write

def spanOf (stride n w : Nat) : Nat := if n = 0 then 0 else stride * (n - 1) + w

/-- Of several refusals the lowest row of R112's table: BAD_DESC, then ACCESS_DENIED, then NO_ROUTE, then the first. -/
def worstRefuse (l : List (Option Refuse)) : Option Refuse :=
  let rs := l.filterMap id
  ((rs.find? (fun r => r.status == St.BAD_DESC)).orElse (fun _ => rs.find? (fun r => r.status == St.ACCESS_DENIED))).orElse
    (fun _ => (rs.find? (fun r => r.status == St.NO_ROUTE)).orElse (fun _ => rs.head?))

def versionRefused (st : Nat) : Refuse := withFault st K.VERSION_REFUSED

/-- The version of a look-up or merge: the one named, or CUR_VER. -/
def namedVer (s : State) (p table : Nat) (useCur : Bool) (ver : Nat) : Nat :=
  if useCur then rd s p R.TABLE_DESC_CUR_VER table else ver

/-- Resolve a look-up's version (R106): its slot, or the refusal. A named version that no slot holds while CUR_VALID is clear is
VERSION_RETIRED: CUR_VER then names nothing to compare with (log 67). -/
def resolveVer (s : State) (p table : Nat) (useCur : Bool) (ver : Nat) : Except Refuse Nat :=
  if useCur && !rdb s p R.TABLE_DESC_CUR_VALID table then .error (versionRefused St.VERSION_NOT_READY)
  else
    let v := namedVer s p table useCur ver
    match verSlot s p table v with
    | some j =>
      let st := slotState s p table j
      if st = 2 ∨ st = 3 ∨ st = 4 then .ok j
      else if st = 1 then .error (versionRefused St.VERSION_NOT_READY)
      else .error (versionRefused St.VERSION_RETIRED)
    | none =>
      if rdb s p R.TABLE_DESC_CUR_VALID table && newerVer v (rd s p R.TABLE_DESC_CUR_VER table) then .error badDesc
      else .error (versionRefused St.VERSION_RETIRED)

/-- Checks on the descriptor alone and on its addresses (R105, R271). -/
def lookStatic (s : State) (p : Nat) (d : LookDesc) : Option Refuse :=
  let w := tblWidth s p d.table
  worstRefuse [
    checkIf (d.rsvd || decide (3 < d.pool) || !tableDefined s p d.table || d.bags == 0 || decide (65536 < d.bags) || d.status % 16 != 0
      || d.stride % 4 != 0 || decide (d.stride < w * d.elemBytes)) badDesc,
    checkDev s p d.status 16 true,
    checkDev s p d.bagAddr (4 * (d.bags + 1)) false,
    checkSpan s p d.idxAddr (16 * d.idx) false,
    checkSpan s p d.outAddr (spanOf d.stride d.outRows (w * d.elemBytes)) true]

/-- The arrays of a look-up are not read: their addresses are refused, or the descriptor alone is already BAD_DESC, which no entry can
outrank (R112). -/
def lookUnread (s : State) (p : Nat) (d : LookDesc) : Bool :=
  (match lookStatic s p d with | some r => r.status == St.BAD_DESC | none => false)
    || (checkDev s p d.bagAddr (4 * (d.bags + 1)) false).isSome || (checkSpan s p d.idxAddr (16 * d.idx) false).isSome

/-! ### Index entries -/

def offsetsOf (bs : List Byte) (n : Nat) : List Nat := (List.range n).map (fun i => leNat ((bs.drop (4 * i)).take 4))

/-- Offsets start at 0, never decrease and end at IDX_CNT. -/
def offsetsOk (offs : List Nat) (idx : Nat) : Bool :=
  offs.head? == some 0 && offs.getLast? == some idx && (offs.zip (offs.drop 1)).all (fun (a, b) => decide (a ≤ b))

/-- Entry k of the index bytes; its bag is the number of bags that end at or before k. -/
def lookRow (offs : List Nat) (bs : List Byte) (k : Nat) : LookRow :=
  let x := leNat ((bs.drop (16 * k)).take 16)
  { bag := ((offs.drop 1).filter (fun o => decide (o ≤ k))).length, pos := k, row := bitsOf x 0 40, shard := bitsOf x 40 20
    node := bitsOf x 64 12, stack := bitsOf x 76 5, lshard := bitsOf x 81 15, weight := BitVec.ofNat 32 (bytesAt x 12 4), hot := none }

/-- Reserved bits of entry k, with the upper half of a BF16 weight (R104). -/
def lookRowRsvd (d : LookDesc) (bs : List Byte) (k : Nat) : Bool :=
  let x := leNat ((bs.drop (16 * k)).take 16)
  bitsOf x 60 4 != 0 || (!d.wtFp32 && d.pool != 0 && bytesAt x 14 2 != 0)

/-- Checks of one entry (R105). -/
def lookRowRefuse (s : State) (p : Nat) (d : LookDesc) (bs : List Byte) (r : LookRow) : Option Refuse :=
  worstRefuse [
    checkIf (lookRowRsvd d bs r.pos || decide (23 < r.stack) || decide (rd s p R.TABLE_DESC_SHARD_CNT d.table ≤ r.shard)) badDesc,
    checkIf ((r.node == ownNode s p && !ownStack s p r.stack) || (otherNodes s p).contains r.node) denied,
    checkIf (r.node != ownNode s p && !hasRoute s p r.node) noRoute]

/-! ### Hot-row sets (R115 to R117) -/

def hotBuf (s : State) (p set : Nat) (active : Bool) : Nat :=
  if rdb s p R.HOTROW_SET_ACTIVE_BUF set == active then rd s p R.HOTROW_SET_BUF1_OFF set else rd s p R.HOTROW_SET_BUF0_OFF set

def hotSlots (s : State) (p set : Nat) : Nat := 2 ^ rd s p R.HOTROW_SET_SLOT_LOG2 set

/-- Key of entry i and of slot i of a buffer on a die (R116). A buffer whose offset is not a multiple of 64 is taken as it stands: its slots
begin at the next multiple of 64 counted from its start (log 80). -/
def hotEntKey (d buf i : Nat) : Nat := clmKey (8 * d) (buf + 8 * i)
def hotSlotKey (d buf n size i : Nat) : Nat := clmKey (8 * d) (buf + (8 * n + 63) / 64 * 64 + size * i)

/-- Probe from a position on (R117). -/
def hotProbe (s : State) (d buf n row : Nat) : Nat → Nat → Option Nat
  | 0, _ => none
  | fuel + 1, i =>
    let x := leNat (sramRead s (hotEntKey d buf (i % n)) 8)
    if !bitAt x 40 then none else if bitsOf x 0 40 = row then some (i % n) else hotProbe s d buf n row fuel (i + 1)

/-- The copy of a row in the active buffer of the first enabled set that holds one: the set, the slot's key and the copy's bytes. -/
def hotFind (s : State) (p d table ver row : Nat) : Option (Nat × Nat × List Byte) :=
  (List.range 32).findSome? (fun set =>
    if rdb s p R.HOTROW_SET_HR_ENABLE set && rd s p R.HOTROW_SET_HR_TABLE set == table && rd s p R.HOTROW_SET_HR_VER set == ver then
      let n := hotSlots s p set
      let buf := hotBuf s p set true
      let size := recSize (tblFmt s p table) (tblWidth s p table)
      (hotProbe s d buf n row 8 ((rowHash s p table row).toNat / 2 ^ 24 % n)).map
        (fun i => (set, hotSlotKey d buf n size i, sramRead s (hotSlotKey d buf n size i) size))
    else none)

/-- The codebook of a frozen row's copy: what a fetch brought with it, else that of the row's shard when an own stack holds it, else the
shard's on another node, which the spec does not let the requester see (R69, R108, log 17). -/
def hotBook (s : State) (p table ver row slotKey : Nat) : List (BitVec 16) :=
  let j := rowShard s p table row
  match mapFind s.hotBooks slotKey with
  | some book => book
  | none => match (stacksOf s p).findSome? (fun k => (shardSearch s p k table ver j).bind (fun d => (shardBook s k d).toOption)) with
    | some book => book
    | none => (List.range 256).map (Config.shardBook p table ver j)

/-- Elements of a copy: those of the record, a frozen row's decoded with its codebook (R108, R117). -/
def hotValue (s : State) (p : Nat) (d : LookDesc) (ver row k slotKey : Nat) (bs : List Byte) : RowData :=
  let w := tblWidth s p d.table
  let fmt := tblFmt s p d.table
  if fmt = 1 then
    (if d.pool = 0 then recRaw 1 w [] bs k else ⟨k, false, recElems 1 w [] bs⟩)
  else ⟨k, false, recElems fmt w (hotBook s p d.table ver row slotKey) bs⟩

/-- Serve an entry from the hot-row sets: the entry, and whether its copy is corrupt. -/
def hotServe (s : State) (p die : Nat) (d : LookDesc) (ver : Nat) (r : LookRow) : LookRow × Option (Nat × Bool) :=
  match hotFind s p die d.table ver r.row with
  | none => (r, none)
  | some (set, key, bs) =>
    if !recGood (tblFmt s p d.table) (tblWidth s p d.table) r.row ver bs then ({ r with hot := some none, corrupt := true }, some (set, true))
    else ({ r with hot := some (if recLive bs then some (hotValue s p d ver r.row r.pos key bs) else none) }, some (set, false))

/-! ### Issue (R105 to R107, R121) -/

/-- Distinct homes in ascending order. -/
def homesOf (rows : List LookRow) : List (Nat × Nat) :=
  (rows.foldl (fun m r => mapSet m (32 * r.node + r.stack) ()) ([] : NatMap Unit)).map (fun (k, _) => (k / 32, k % 32))

def reqFor (s : State) (p t : Nat) (d : LookDesc) (msgId ver step : Nat) (rows : List LookRow) (h : Nat × Nat) : LookupReq :=
  { src := BitVec.ofNat 12 (ownNode s p), srcUnit := BitVec.ofNat 16 (srcTile t 4), msgId := BitVec.ofNat 32 msgId
    table := BitVec.ofNat 10 d.table, ver := BitVec.ofNat 16 ver, digest := BitVec.ofNat 32 (tblDigest s p d.table)
    pool := BitVec.ofNat 3 d.pool, wtFp32 := d.wtFp32, step := BitVec.ofNat 48 step, stack := BitVec.ofNat 5 h.2
    entries := (rows.filter (fun r => r.hot.isNone && r.node == h.1 && r.stack == h.2)).map (fun r =>
      ⟨r.bag, r.pos, BitVec.ofNat 40 r.row, BitVec.ofNat 20 r.shard, BitVec.ofNat 15 r.lshard, r.weight⟩) }

def outSpans (s : State) (p : Nat) (d : LookDesc) (w : Nat) : List (Bool × Nat × Nat) :=
  (List.range d.outRows).flatMap (fun b => devSpans (devSpace s p (d.outAddr + d.stride * b)) (w * d.elemBytes))

def lookCmd (e : QEntry) (msgId : Nat) (undef : List (Bool × Nat × Nat)) : RunCmd :=
  { okCmd e with finished := false, keep := leBytes 4 msgId, undef := undef }

/-- A refused look-up only writes its status word and signals (R111, R113). A host access that failed is that of an address in `reads`, or
of one the look-up writes. -/
def lookRefused (s : State) (t : Nat) (e : QEntry) (desc : List Byte) (d : LookDesc) (r : Refuse) (reads : List Nat) : State × RunCmd :=
  let p := partOfTile s t
  let run : LookRun := { tile := t, msgId := s.msgSeq.toNat, desc := desc, slot := none, ver := namedVer s p d.table d.useCur d.ver
                         width := 0, bags := 0, rows := [], waiting := [], replies := [], status := r.status, fault := r.fault }
  ({ s with looks := s.looks ++ [run], msgSeq := s.msgSeq + 1 },
    { lookCmd e s.msgSeq.toNat [] with errPort := blamePort s p reads [d.outAddr, d.status] })

/-- Send one request to each home of the entries that missed. A copy that fails its checks serves no hit (log 67). -/
def lookIssue (s : State) (t : Nat) (e : QEntry) (desc : List Byte) (d : LookDesc) (j : Nat) (rows : List LookRow) : State × RunCmd :=
  let p := partOfTile s t
  let ver := namedVer s p d.table d.useCur d.ver
  let w := tblWidth s p d.table
  let id := s.msgSeq.toNat
  let served := rows.map (hotServe s p (dieOfTile t) d ver)
  let rows := served.map (·.1)
  let hits := served.filterMap (·.2)
  let homes := homesOf (rows.filter (fun r => r.hot.isNone))
  let undef := outSpans s p d w
  let run : LookRun := { tile := t, msgId := id, desc := desc, slot := some j, ver := ver, width := w, bags := d.bags, rows := rows
                         waiting := homes, replies := [], fault := none
                         status := if hits.any (·.2) then St.CHECKSUM_MISMATCH else St.OK }
  let s' := homes.foldl (fun s h => emit s p (.lookupReq h.1 (reqFor s p t d id ver (rd s p R.ST_NOW_STEP) rows h))) s
  let s' := (hits.filter (fun x => !x.2)).foldl (fun s x => wrAdd s p R.HOTROW_SET_HITS 1 x.1) (holdVer (tickFree s') p d.table 1 (some j))
  ({ s' with looks := s'.looks ++ [run], msgSeq := s'.msgSeq + 1 }, lookCmd e id undef)

/-- Read n bytes of an operand array as a checked consumer. -/
def readArray (s : State) (p a n : Nat) (ext : List Byte) : Except Refuse (List Byte) :=
  if n = 0 then .ok []
  else match devRead s (devSpace s p a) n ext with
    | (bs, none) => .ok bs
    | (_, some r) => .error r

/-- The bytes come from outside the package. -/
def isExtern : Space → Bool
  | .win .. => true
  | .remote .. => true
  | _ => false

def startLookup (t : Nat) (ext : List Byte) (s : State) (e : QEntry) : Option (State × RunCmd) :=
  let p := partOfTile s t
  match spOperand e.cmd 64 64 with
  | none => some (s, refuseCmd e badDesc)
  | some a =>
    if cbs e.cmd 16 16 ≠ 0 then some (s, refuseCmd e badDesc)
    else
      let desc := sramRead s (spKey t a) 64
      let d := lookDescOf desc
      let vr := resolveVer s p d.table d.useCur d.ver
      let verRef : Option Refuse := match vr with | .error r => some r | .ok _ => none
      let bagX := devSpace s p d.bagAddr
      let idxX := devSpace s p d.idxAddr
      let nb := 4 * (d.bags + 1)
      match lookStatic s p d, lookUnread s p d with
      | some r, true => some (lookRefused s t e desc d ((worstRefuse [some r, verRef]).getD r) [d.bagAddr, d.idxAddr])
      | static, _ =>
        if devTgBusy s bagX nb || devTgBusy s idxX (16 * d.idx) then none
        else
          let s := noteRead (noteRead s p bagX nb (srcTile t 4)) p idxX (16 * d.idx) (srcTile t 4)
          match readArray s p d.bagAddr nb ext, readArray s p d.idxAddr (16 * d.idx) (if isExtern bagX then ext.drop nb else ext) with
          | .error r, _ => some (lookRefused s t e desc d ((worstRefuse [some r, static]).getD r) [d.bagAddr])
          | _, .error r => some (lookRefused s t e desc d ((worstRefuse [some r, static]).getD r) [d.idxAddr])
          | .ok bb, .ok ib =>
            let offs := offsetsOf bb (d.bags + 1)
            let rows := (List.range d.idx).map (lookRow offs ib)
            match worstRefuse (static :: checkIf (!offsetsOk offs d.idx) badDesc :: rows.map (lookRowRefuse s p d ib) ++ [verRef]), vr with
            | some r, _ => some (lookRefused s t e desc d r [])
            | none, .ok j => some (lookIssue s t e desc d j rows)
            | none, .error r => some (lookRefused s t e desc d r [])

/-- The arrays a LOOKUP reads. -/
def lookTouch (t : Nat) (s : State) (c : Cmd) : List (Nat × Nat) :=
  let d := lookDescOf (sramRead s (spKey t (cbs c 8 8)) 64)
  [(d.bagAddr, 4 * (d.bags + 1)), (d.idxAddr, 16 * d.idx)]

def execLookup (t : Tile) (ext : List Byte) (s : State) (ecc : Ecc := .none) : Host.Outcome State Fault Refusal :=
  .next (eccRow s t 3 4 dmaDefined ecc (startLookup t ext) (lookTouch t))

/-! ### Replies and completion (R109 to R112) -/

/-- Rank of an owner's status in R112's table. -/
def replyRank (st : Nat) : Nat :=
  if st = St.VERSION_RETIRED then 1 else if st = St.BAD_DESC then 2 else if st = St.LOOKUP_MISROUTED then 3
  else if st = St.CHECKSUM_MISMATCH then 4 else if st = St.TIMEOUT then 5 else 0

def worstStatus (l : List Nat) : Nat := l.foldl (fun a b => if replyRank a < replyRank b then b else a) St.OK

def zeros (w : Nat) : List Half := List.replicate w 0
def addRows (a b : List Half) : List Half := List.zipWith fAdd a b

/-- The value of a row in a pooled look-up: its elements, or their products with the entry's weight (R108). -/
def poolValue (pool : Nat) (wtFp32 : Bool) (weight : Half) (elems : List Half) : List Half :=
  if pool = 2 then elems.map (fMul (if wtFp32 then weight else bf16ToF32 (weight.setWidth 16))) else elems

def replyOf (run : LookRun) (h : Nat × Nat) : Option LookupResp :=
  run.replies.find? (fun r => r.node.toNat == h.1 && r.stack.toNat == h.2)

def dataFor (r : LookupResp) (key w : Nat) : List Half := match r.data.find? (fun x => x.key == key) with
  | some x => x.elems
  | none => zeros w

/-- Add home h's hot partial and returned partial of a bag (R109). -/
def addHome (run : LookRun) (d : LookDesc) (rows : List LookRow) (b : Nat) (acc : List Half) (h : Nat × Nat) : List Half :=
  let mine := rows.filter (fun r => r.node == h.1 && r.stack == h.2)
  let hot := mine.filterMap (fun r => r.hot.map (fun v => (r, v)))
  let acc := if hot.isEmpty then acc
    else addRows acc (hot.foldl (fun a (r, v) => match v with
      | some x => addRows a (poolValue d.pool d.wtFp32 r.weight x.elems)
      | none => a) (zeros run.width))
  if mine.all (fun r => r.hot.isSome) then acc
  else match replyOf run h with
    | some r => addRows acc (dataFor r b run.width)
    | none => acc

/-- The result of bag b (R109). -/
def bagResult (run : LookRun) (d : LookDesc) (b : Nat) : List Half :=
  let rows := run.rows.filter (fun r => r.bag == b)
  let sum := (homesOf rows).foldl (addHome run d rows b) (zeros run.width)
  if d.pool = 3 ∧ rows ≠ [] then sum.map (fun x => fDiv x (f32 (.fin false rows.length 0))) else sum

/-- Output bytes of FP32 elements. -/
def outBytes (bf : Bool) (xs : List Half) : List Byte :=
  xs.flatMap (fun x => if bf then leBytes 2 (f32ToBf16 x).toNat else leBytes 4 x.toNat)

/-- Output bytes of a RAW row (R110). -/
def rawBytes (bf : Bool) (x : RowData) : List Byte :=
  if x.fmt16 then x.elems.flatMap (fun v => if bf then leBytes 2 (v.toNat % 65536) else leBytes 4 (bf16ToF32 (v.setWidth 16)).toNat)
  else outBytes bf x.elems

def rawRow (run : LookRun) (r : LookRow) : RowData :=
  let none' : RowData := ⟨r.pos, false, zeros run.width⟩
  match r.hot with
  | some v => v.getD none'
  | none => match replyOf run (r.node, r.stack) with
    | some m => (m.data.find? (fun x => x.key == r.pos)).getD none'
    | none => none'

/-- Output rows in order. -/
def lookOutput (run : LookRun) (d : LookDesc) : List (List Byte) :=
  if d.pool = 0 then run.rows.map (fun r => rawBytes d.outBf16 (rawRow run r))
  else (List.range run.bags).map (fun b => outBytes d.outBf16 (bagResult run d b))

/-- Output rows as runs of bytes that one write covers. -/
def rowRuns (s : State) (p addr stride : Nat) (rows : List (List Byte)) : List (Nat × List Byte) :=
  joinRows s p (rows.zipIdx.map (fun (bs, i) => (addr + stride * i, bs)))

/-- Write output rows; the first failure ends the writing. -/
def writeRows (s : State) (p addr stride : Nat) (rows : List (List Byte)) (unit : Nat := srcTransport) (msg : Nat := 0) : State × Option Refuse :=
  writeRuns s p (rowRuns s p addr stride rows) unit msg

/-- A look-up or merge is finished; `port` is that of a window whose access failed, unless its start named one (R383). -/
def setFinished (s : State) (t q : Nat) (keep : List Byte) (opc status : Nat) (fault : Option CmdFault) (port : Option Nat) : State :=
  setQueue s t q { queue s t q with running := (queue s t q).running.map (fun r =>
    if opcOf r.cmd = opc ∧ !r.finished ∧ r.keep = keep then
      { r with finished := true, status := status, fault := fault, errPort := r.errPort.orElse (fun _ => port) }
    else r) }

/-- The fault of a status that came from owners or from a corrupt copy (R112). -/
def lookFault (st : Nat) : Option CmdFault :=
  if st = St.OK then none
  else if st = St.TIMEOUT then (withFault st K.LOOKUP_TIMEOUT).fault
  else if st = St.BAD_DESC then badDesc.fault
  else (withFault st K.LOOKUP_FAILED).fault

/-- The 16-byte status word (R111). A hot copy that fails its checks is neither absent nor served. -/
def lookWord (run : LookRun) (status : Nat) : List Byte :=
  let hot := (run.rows.filter (fun r => !r.corrupt)).filterMap (·.hot)
  leBytes 2 status ++ leBytes 2 run.ver
    ++ leBytes 4 ((run.replies.map (·.absent)).sum + (hot.filter (·.isNone)).length)
    ++ leBytes 4 (run.replies.map (·.redirect)).sum ++ leBytes 4 hot.length

def setLook (s : State) (run : LookRun) : State :=
  { s with looks := s.looks.map (fun x => if x.msgId = run.msgId then run else x) }

/-- The requests are over: the output is written, or left undefined (R112). The run holds its final status and the frames that another
node must make visible. -/
def lookOut (s : State) (run : LookRun) (timeout : Bool) : State × LookRun :=
  let p := partOfTile s run.tile
  let d := lookDescOf run.desc
  let done (st : Nat) (f : Option CmdFault) (n : Nat) : LookRun := { run with status := st, fault := f, waiting := [], phase := 1, acks := n }
  if run.slot.isNone then (s, done run.status run.fault 0)
  else
    let st := if run.fault.isSome then run.status
      else worstStatus ((if timeout then St.TIMEOUT else run.status) :: run.replies.map (fun r => r.status.toNat))
    if st = St.OK then
      let rows := lookOutput run d
      match (match (if d.outRows = 0 then none else spaceKeyed s p d.outAddr) with
          | some r => (s, some r)
          | none => writeRows s p d.outAddr d.stride rows (srcTile run.tile 4) run.msgId) with
      | (s', some r) => (s', done r.status r.fault 0)
      | (s', none) => (s', done st (lookFault st) (runFrames s p (rowRuns s p d.outAddr d.stride rows)))
    else (if st = St.BAD_DESC then s
      else (List.range d.outRows).foldl (fun s b => devForget s (devSpace s p (d.outAddr + d.stride * b)) (run.width * d.elemBytes)) s,
      done st (lookFault st) 0)

/-- Every output byte is visible: the status word is written (R111). -/
def lookStatus (s : State) (run : LookRun) : State × LookRun :=
  let p := partOfTile s run.tile
  let d := lookDescOf run.desc
  let x := devSpace s p d.status
  if (checkDev s p d.status 16 true).isSome || d.status % 16 != 0 then (s, { run with phase := 2, acks := 0 })
  else match devWrite s p x (lookWord run run.status) (srcTile run.tile 4) run.msgId with
    | (s', some r) => (s', { run with phase := 2, acks := 0, status := r.status, fault := r.fault })
    | (s', none) => (s', { run with phase := 2, acks := remoteFrames s p x 16 })

/-- The status word is visible: DONE_CTR is signalled, the version released, and the command is finished (R111, R121). -/
def lookEnd (s : State) (run : LookRun) : State :=
  let d := lookDescOf run.desc
  let p := partOfTile s run.tile
  let s := signalDie { s with looks := s.looks.filter (fun x => x.msgId != run.msgId) } (dieOfTile run.tile) d.done (srcTile run.tile 4)
  let s := releaseVer s p d.table 1 run.slot
  setFinished s run.tile 3 (leBytes 4 run.msgId) 4 run.status run.fault (blamePort s p [] [d.outAddr, d.status])

/-- A look-up goes on as far as it can: its output, its status word, its end; each waits until what was written before is visible at the
node it went to (R111, R258). -/
def finishLook (s : State) (run : LookRun) (timeout : Bool) : State :=
  let a := if run.phase = 0 then lookOut s run timeout else (s, run)
  if a.2.acks ≠ 0 then setLook a.1 a.2
  else
    let b := if a.2.phase = 1 then lookStatus a.1 a.2 else a
    if b.2.acks ≠ 0 then setLook b.1 b.2 else lookEnd b.1 b.2

/-- The memories of a look-up's output and status word are driven by a traffic generator: it waits (R291). -/
def lookWaits (s : State) (run : LookRun) : Bool :=
  let p := partOfTile s run.tile
  let d := lookDescOf run.desc
  devTgBusy s (devSpace s p d.status) 16 || (List.range d.outRows).any (fun b => devTgBusy s (devSpace s p (d.outAddr + d.stride * b)) (run.width * d.elemBytes))

def execLookupReplyReceive (p : Part) (m : LookupResp) (s : State) : Host.Outcome State Fault Refusal :=
  .next (holdFrame s p (.lookupReplyReceive p m) fun s => if running s p then
      match s.looks.find? (fun x => x.msgId == m.msgId.toNat && partOfTile s x.tile == p.val && x.waiting.contains (m.node.toNat, m.stack.toNat)) with
      | some run => setLook s { run with
          waiting := run.waiting.filter (fun h => h != (m.node.toNat, m.stack.toNat)), replies := run.replies ++ [m] }
      | none => s
    else rxDrop s p m.node.toNat)

def execLookupComplete (t : Tile) (s : State) : Host.Outcome State Fault Refusal :=
  .next (if running s (partOfTile s t) then
      match s.looks.find? (fun x => x.tile == t.val && x.waiting.isEmpty && x.acks == 0) with
      | some run => if lookWaits s run then s else finishLook s run false
      | none => s
    else s)

def execLookupTimeout (t : Tile) (s : State) : Host.Outcome State Fault Refusal :=
  .next (if running s (partOfTile s t) then
      match s.looks.find? (fun x => x.tile == t.val && !x.waiting.isEmpty) with
      | some run => if lookWaits s run then s else finishLook s run true
      | none => s
    else s)

/-! ### The owner (R100 to R103, R108, R110, R123) -/

/-- The version is held and not RETIRED (R123). -/
def ownerVer (s : State) (p table ver : Nat) : Except EngErr Nat :=
  match verSlot s p table ver with
  | some j => if slotState s p table j = 6 then .error .race else .ok j
  | none => .error .race

/-- What an entry meets at its hash home. -/
inductive RowHit where
  | value (x : LookupEntry) (d : Shard) (bs : List Byte) (book : List (BitVec 16))
  | absent
  | forward (x : LookupEntry) (r : RedirectEnt)
  deriving DecidableEq, Repr

/-- Read one entry from a shard. -/
def readEntry (s : State) (p k table : Nat) (d : Shard) (x : LookupEntry) : Except EngErr RowHit :=
  match readRec s k d (rowHash s p table x.row.toNat) x.row.toNat, shardBook s k d with
  | .error e, _ => .error e
  | _, .error e => .error e
  | .ok none, .ok _ => .ok .absent
  | .ok (some (_, bs)), .ok book => .ok (.value x d bs book)

/-- One entry at its hash home: checks, Redirect, read (R100, R101). -/
def homeEntry (s : State) (p k table ver digest : Nat) (x : LookupEntry) : Except EngErr RowHit :=
  match rowShardFor s p k x.lshard.toNat table ver x.row.toNat x.shard.toNat digest with
  | .error e => .error e
  | .ok d => match redirectOf s none k x.row.toNat table ver with
    | some r => .ok (.forward x r)
    | none => readEntry s p k table d x

def hitValue : RowHit → Option (LookupEntry × Shard × List Byte × List (BitVec 16))
  | .value x d bs book => some (x, d, bs, book)
  | _ => none

/-- Bags of entries in ascending order. -/
def bagsOf (l : List LookupEntry) : List Nat := (l.foldl (fun m x => mapSet m x.bag ()) ([] : NatMap Unit)).map (·.1)

/-- The data of a reply: one partial a bag, or the rows of a RAW look-up (R108, R110). -/
def poolData (pool : Nat) (wtFp32 : Bool) (w : Nat) (all : List LookupEntry) (hits : List RowHit) : List RowData :=
  let vs := hits.filterMap hitValue
  if pool = 0 then vs.map (fun (x, d, bs, book) => recRaw d.fmt d.w book bs x.pos)
  else (bagsOf all).map (fun b => ⟨b, false, (vs.filter (fun v => v.1.bag == b)).foldl
    (fun a (x, d, bs, book) => addRows a (poolValue pool wtFp32 x.weight (recElems d.fmt d.w book bs))) (zeros w)⟩)

def absentCount (hits : List RowHit) : Nat := (hits.filter (· == .absent)).length

/-- Count the row reads served (R158, R159). -/
def countHits (s : State) (p k table : Nat) (hits : List RowHit) : State :=
  (hits.filterMap hitValue).foldl (fun s v => countRead s k v.2.1.lshard (rowHash s p table v.1.row.toNat)) s

def failResp (msgId : Half) (node k st : Nat) : LookupResp :=
  { msgId := msgId, node := BitVec.ofNat 12 node, stack := BitVec.ofNat 5 k, status := BitVec.ofNat 8 st, data := [], absent := 0, redirect := 0 }

/-- A refused request: the reply of its cause leaves, then the fault acts (R97, R100). -/
def ownerFail (s : State) (p src k k' : Nat) (msgId : Half) (partialTo : Bool) (e : EngErr) : State :=
  let s := match e.status with
    | some st =>
      let m := failResp msgId (ownNode s p) k st
      emit s p (if partialTo then .partialResp src m else .lookupResp src m) (if ownStack s p k' then srcStack k' 0 else srcTransport)
    | none => s
  if ownStack s p k' then engFault s p k' false e else raise s srcTransport (e.kind false) p

/-- Serving engines of forwarded entries, ascending. -/
def fwdTargets (hits : List RowHit) : List (Nat × Nat) :=
  (hits.foldl (fun (m : NatMap Unit) h => match h with
    | .forward _ r => mapSet m (32 * r.node + r.stack) ()
    | _ => m) []).map (fun (k, _) => (k / 32, k % 32))

def fwdReqFor (s : State) (p : Nat) (m : LookupReq) (hits : List RowHit) (h : Nat × Nat) : FwdReq :=
  { home := BitVec.ofNat 12 (ownNode s p), homeStack := m.stack, msgId := m.msgId, table := m.table, ver := m.ver, pool := m.pool
    wtFp32 := m.wtFp32, step := m.step, stack := BitVec.ofNat 5 h.2
    entries := hits.filterMap (fun x => match x with
      | .forward y r => if r.node = h.1 ∧ r.stack = h.2 then some { y with lshard := BitVec.ofNat 15 r.lshard } else none
      | _ => none) }

/-- Serve a checked request; rows that moved go to their serving engines (R101, R108). `slot` is released when the reply leaves. -/
def serveLook (s : State) (p : Nat) (m : LookupReq) (slot : Option Nat) (hits : List RowHit) : State :=
  let table := m.table.toNat
  let s := countHits s p m.stack.toNat table hits
  let resp : LookupResp := { msgId := m.msgId, node := BitVec.ofNat 12 (ownNode s p), stack := m.stack, status := 0
                             data := poolData m.pool.toNat m.wtFp32 (tblWidth s p table) m.entries hits
                             absent := absentCount hits
                             redirect := (hits.filter (fun h => match h with | .forward .. => true | _ => false)).length }
  let ts := fwdTargets hits
  if ts.isEmpty then releaseVer (emit s p (.lookupResp m.src.toNat resp)) p table 1 slot
  else
    let s := ts.foldl (fun s h => emit s p (.fwdReq h.1 (fwdReqFor s p m hits h))) s
    { s with ownRuns := s.ownRuns ++ [⟨p, slot, m, ts, [resp]⟩] }

/-- The checks of R97 and R100 on every entry, before any row is read: a mismatch of any entry, else the first failure. -/
def homeChecks (s : State) (p : Nat) (m : LookupReq) : Option EngErr :=
  let es := m.entries.filterMap (fun x => match rowShardFor s p m.stack.toNat x.lshard.toNat m.table.toNat m.ver.toNat x.row.toNat
      x.shard.toNat m.digest.toNat with
    | .error e => some e
    | .ok _ => none)
  if es.contains .misrouted then some .misrouted else es.head?

/-- All entries at their home, or the error (R100). -/
def homeEntries (s : State) (p : Nat) (m : LookupReq) : Except EngErr (List RowHit) :=
  match homeChecks s p m with
  | some e => .error e
  | none => m.entries.mapM (homeEntry s p m.stack.toNat m.table.toNat m.ver.toNat m.digest.toNat)

/-- Serve a request whose rows are ready; an uncorrectable atom fails the record that holds it (R286). -/
def ownerServe (s : State) (p : Nat) (m : LookupReq) (slot : Option Nat) (ecc : Ecc) : State :=
  let k := m.stack.toNat
  let table := m.table.toNat
  match homeEntries s p m, ecc with
  | .error e, _ => releaseVer (ownerFail s p m.src.toNat k k m.msgId false e) p table 1 slot
  | .ok hits, .none => serveLook s p m slot hits
  | .ok hits, .corrected c => serveLook (eccCorrected s 0 c) p m slot hits
  | .ok _, .uncorrected c =>
    eccUncorrected (releaseVer (ownerFail s p m.src.toNat k k m.msgId false .corrupt) p table 1 slot) 0 c

/-- The ECC event is one of the engine's stack. -/
def eccOfStack (k : Nat) : Ecc → Ecc
  | .corrected (.hbm j o) => if j.val = k then .corrected (.hbm j o) else .none
  | .uncorrected (.hbm j o) => if j.val = k then .uncorrected (.hbm j o) else .none
  | _ => .none

/-- A request that names an own stack. A mismatch of R100, or what else the checks of an entry find, goes before a version that is no longer
held (R112, R123). One that waits for its stack holds its version, if it can be had, and is checked when the stack is free. -/
def ownerTake (s : State) (p : Nat) (m : LookupReq) (ecc : Ecc) : State :=
  let k := m.stack.toNat
  let table := m.table.toNat
  let ver := ownerVer s p table m.ver.toNat
  let park (j : Option Nat) : State :=
    let s := holdVer s p table 1 j
    { s with waitReqs := s.waitReqs ++ [(p, .look m j)] }
  if engineWaits s k then park ver.toOption
  else match homeChecks s p m, ver with
    | some e, _ => ownerFail s p m.src.toNat k k m.msgId false e
    | none, .error e => ownerFail s p m.src.toNat k k m.msgId false e
    | none, .ok j =>
      if m.entries.any (fun x => rowWaits s k table x.row.toNat m.step.toNat) then park (some j)
      else ownerServe (holdVer s p table 1 (some j)) p m (some j) ecc

/-- A look-up request. With SU_ENABLE clear the partition serves none, whatever stack it names (R100, log 79). -/
def execLookupRequestReceive (p : Part) (m : LookupReq) (ecc : Ecc) (s : State) : Host.Outcome State Fault Refusal :=
  .next (holdFrame s p (.lookupRequestReceive p m ecc) fun s =>
    let k := m.stack.toNat
    if !running s p then rxDrop s p m.src.toNat
    else if !suEnabled s p then s
    else if !ownStack s p k then ownerFail s p m.src.toNat k k m.msgId false .misrouted
    else ownerTake s p m (eccOfStack k ecc))

/-- Entries of a forwarded request: the row must be live where the Redirect entry says (R102). -/
def fwdEntry (s : State) (p k table ver : Nat) (x : LookupEntry) : Except EngErr RowHit :=
  match shardFor s p k x.lshard.toNat table ver x.shard.toNat with
  | .error e => .error e
  | .ok d => match readEntry s p k table d x with
    | .ok .absent => .error .broken
    | r => r

/-- Serve a forwarded request; an uncorrectable atom fails the record that holds it (R102, R286). -/
def fwdServe (s : State) (p : Nat) (m : FwdReq) (slot : Option Nat) (ecc : Ecc) : State :=
  let k := m.stack.toNat
  let table := m.table.toNat
  let reply (s : State) (hits : List RowHit) : State :=
    releaseVer (emit (countHits s p k table hits) p (.partialResp m.home.toNat
      { msgId := m.msgId, node := BitVec.ofNat 12 (ownNode s p), stack := m.stack, status := 0
        data := poolData m.pool.toNat m.wtFp32 (tblWidth s p table) m.entries hits, absent := 0, redirect := 0 })) p table 1 slot
  match m.entries.mapM (fwdEntry s p k table m.ver.toNat), ecc with
  | .error e, _ => releaseVer (ownerFail s p m.home.toNat k k m.msgId true e) p table 1 slot
  | .ok hits, .none => reply s hits
  | .ok hits, .corrected c => reply (eccCorrected s 0 c) hits
  | .ok _, .uncorrected c =>
    eccUncorrected (releaseVer (ownerFail s p m.home.toNat k k m.msgId true .corrupt) p table 1 slot) 0 c

def execForwardedRequestReceive (p : Part) (m : FwdReq) (s : State) (ecc : Ecc := .none) : Host.Outcome State Fault Refusal :=
  .next (holdFrame s p (.forwardedRequestReceive p m ecc) fun s =>
    let k := m.stack.toNat
    let table := m.table.toNat
    if !running s p then rxDrop s p m.home.toNat
    else if !suEnabled s p then s
    else if !ownStack s p k then ownerFail s p m.home.toNat k k m.msgId true .misrouted
    else match ownerVer s p table m.ver.toNat with
      | .error e => ownerFail s p m.home.toNat k k m.msgId true e
      | .ok j =>
        let s := holdVer s p table 1 (some j)
        if engineWaits s k then { s with waitReqs := s.waitReqs ++ [(p.val, .fwd m (some j))] }
        else fwdServe s p m (some j) (eccOfStack k ecc))

/-- Add forwarded partials to the local ones in ascending (NODE, STACK) (R108). -/
def mergePartials (pool : Nat) (base : LookupResp) (l : List LookupResp) : LookupResp :=
  let order := l.foldl (fun (m : NatMap LookupResp) r => mapSet m (32 * r.node.toNat + r.stack.toNat) r) []
  if pool = 0 then { base with data := base.data ++ (order.map (fun x => x.2.data)).flatten }
  else
    let add (x : RowData) (a : List Half) (r : Nat × LookupResp) : List Half :=
      match r.2.data.find? (fun y => y.key == x.key) with
      | some y => addRows a y.elems
      | none => a
    { base with data := base.data.map (fun x => { x with elems := order.foldl (add x) x.elems }) }

def execForwardedPartialReceive (p : Part) (m : LookupResp) (s : State) : Host.Outcome State Fault Refusal :=
  .next (holdFrame s p (.forwardedPartialReceive p m) fun s => if running s p then
      match s.ownRuns.find? (fun x => x.part == p.val && x.req.msgId == m.msgId && x.waiting.contains (m.node.toNat, m.stack.toNat)) with
      | none => s
      | some run =>
        let rest := s.ownRuns.filter (fun x => x != run)
        let run := { run with waiting := run.waiting.filter (fun h => h != (m.node.toNat, m.stack.toNat)), got := run.got ++ [m] }
        if run.waiting.isEmpty then
          let bad := worstStatus (run.got.map (fun r => r.status.toNat))
          let base := run.got.headD (failResp m.msgId 0 0 0)
          let resp := if bad = St.OK then mergePartials run.req.pool.toNat base (run.got.drop 1)
            else { base with status := BitVec.ofNat 8 bad, data := [] }
          releaseVer (emit { s with ownRuns := rest } p (.lookupResp run.req.src.toNat resp)) p run.req.table.toNat 1 run.slot
        else { s with ownRuns := rest ++ [run] }
    else rxDrop s p m.node.toNat)

/-! ### Hot-row fetches (R118, R119) -/

/-- The reply of a failed fetch read: its status is that of a look-up's reply, or a non-zero value that the spec does not state (R97, log 17). -/
def hotFail (s : State) (p k : Nat) (m : HotRead) (st : Option Nat) : State :=
  let st := st.getD (1 + freshNat s % 255)
  emit (tickFree s) p (.hotReply m.src.toNat ⟨m.die, m.set, m.slot, BitVec.ofNat 8 st, none, []⟩) (if ownStack s p k then srcStack k 0 else srcTransport)

/-- Serve a fetch read: the record as committed before the fetch step, or none for an absent row; a moved row's read goes on (R101). An
uncorrectable atom fails the record (R286). -/
def hotServeRead (s : State) (p : Nat) (m : HotRead) (ecc : Ecc) : State :=
  let k := m.home.stack.toNat
  let table := m.table.toNat
  let row := m.row.toNat
  let d : Except EngErr Shard := if m.fwd then shardFor s p k m.home.lshard.toNat table m.ver.toNat m.shard.toNat
    else rowShardFor s p k m.home.lshard.toNat table m.ver.toNat row m.shard.toNat m.digest.toNat
  match d with
  | .error e => engFault (hotFail s p k m e.status) p k false e
  | .ok d =>
    match (if m.fwd then none else redirectOf s none k row table m.ver.toNat) with
    | some r => emit s p (.hotRead { m with fwd := true, home := ⟨BitVec.ofNat 12 r.node, BitVec.ofNat 5 r.stack, BitVec.ofNat 15 r.lshard⟩ }) (srcStack k 0)
    | none => match readRec s k d (rowHash s p table row) row, shardBook s k d, ecc with
      | .error e, _, _ => engFault (hotFail s p k m e.status) p k false e
      | .ok none, _, _ => if m.fwd then engFault s p k false .broken
          else emit s p (.hotReply m.src.toNat ⟨m.die, m.set, m.slot, 0, none, []⟩) (srcStack k 0)
      | _, .error e, _ => engFault (hotFail s p k m e.status) p k false e
      | .ok (some _), .ok _, .uncorrected c =>
        eccUncorrected (engFault (hotFail s p k m EngErr.corrupt.status) p k false .corrupt) 0 c
      | .ok (some (_, bs)), .ok book, ecc =>
        let s := match ecc with | .corrected c => eccCorrected s 0 c | _ => s
        if 0 ≤ signedOf 32 (recTag bs + 2 ^ 32 - m.fetchStep.toNat % 2 ^ 32) then raise (hotFail s p k m none) (srcStack k 0) K.HOTROW_LATE p
        else emit (countRead s k d.lshard (rowHash s p table row)) p (.hotReply m.src.toNat ⟨m.die, m.set, m.slot, 0, some bs, book⟩) (srcStack k 0)

def execHotrowFetchReadReceive (p : Part) (m : HotRead) (s : State) (ecc : Ecc := .none) : Host.Outcome State Fault Refusal :=
  .next (holdFrame s p (.hotrowFetchReadReceive p m ecc) fun s =>
    let k := m.home.stack.toNat
    if !running s p then rxDrop s p m.src.toNat
    else if !suEnabled s p then s
    else if !ownStack s p k then raise (hotFail s p k m (some St.LOOKUP_MISROUTED)) srcTransport K.LOOKUP_MISROUTED p
    else match ownerVer s p m.table.toNat m.ver.toNat with
      | .error e => engFault (hotFail s p k m e.status) p k false e
      | .ok j =>
        if engineWaits s k || rowWaits s k m.table.toNat m.row.toNat m.fetchStep.toNat then
          let s := holdVer s p m.table.toNat 1 (some j)
          { s with waitReqs := s.waitReqs ++ [(p.val, .hot m (some j))] }
        else hotServeRead s p m (eccOfStack k ecc))

/-- A request still waits for a row or for its stack. -/
def reqWaits (s : State) : WaitReq → Bool
  | .look m _ => engineWaits s m.stack.toNat || m.entries.any (fun x => rowWaits s m.stack.toNat m.table.toNat x.row.toNat m.step.toNat)
  | .fwd m _ => engineWaits s m.stack.toNat
  | .hot m _ => engineWaits s m.home.stack.toNat || rowWaits s m.home.stack.toNat m.table.toNat m.row.toNat m.fetchStep.toNat

/-- Serve the requests of a partition that no longer wait (R37, R145, R162). Each leaves the list as it is served, so a HOLD on the way
releases what the others hold (R121). -/
def serveWaiting (s : State) (p : Nat) : State :=
  (s.waitReqs.filter (fun x => x.1 == p && !reqWaits s x.2)).foldl (fun s x =>
    if running s p && s.waitReqs.contains x then
      let s := { s with waitReqs := s.waitReqs.erase x }
      match x.2 with
      | .look m none => ownerTake s p m .none
      | .look m j => ownerServe s p m j .none
      | .fwd m j => fwdServe s p m j .none
      | .hot m j => releaseVer (hotServeRead s p m .none) p m.table.toNat 1 j
    else s) s

/-- The hash home of a shard: the own stack that holds it, else what the shard map names on another node (R95, log 17). -/
def shardHome (s : State) (p table ver j : Nat) : Home :=
  match (stacksOf s p).findSome? (fun k => (shardSearch s p k table ver j).map (fun d => (k, d.lshard))) with
  | some (k, l) => ⟨BitVec.ofNat 12 (ownNode s p), BitVec.ofNat 5 k, BitVec.ofNat 15 l⟩
  | none => let x := Config.shardHome p table ver j; ⟨BitVec.ofNat 12 x, BitVec.ofNat 5 (x / 2 ^ 12), BitVec.ofNat 15 (x / 2 ^ 17)⟩

/-- The entry and the slot i of a buffer lie in the die's cluster memory; a buffer that leaves it has no others (log 66). -/
def hotInRange (buf n size i : Nat) : Bool := decide (buf + 8 * (i + 1) ≤ 2 ^ 27) && decide (buf + (8 * n + 63) / 64 * 64 + size * (i + 1) ≤ 2 ^ 27)

/-- HOTROW_REFRESH FETCH: every die asks the owner of each VALID row of its inactive buffer (R118), whether the set is enabled or not. -/
def hotFetch (s : State) (p set step : Nat) : State :=
  let table := rd s p R.HOTROW_SET_HR_TABLE set
  let ver := rd s p R.HOTROW_SET_HR_VER set
  let buf := hotBuf s p set false
  let n := hotSlots s p set
  let size := recSize (tblFmt s p table) (tblWidth s p table)
  (diesOf s p).foldl (fun s d =>
    let slots := (List.range n).filter (fun i => hotInRange buf n size i && bitAt (leNat (sramRead s (hotEntKey d buf i) 8)) 40)
    let s := slots.foldl (fun s i =>
      let row := bitsOf (leNat (sramRead s (hotEntKey d buf i) 8)) 0 40
      let j := rowShard s p table row
      emit s p (.hotRead { src := BitVec.ofNat 12 (ownNode s p), die := Fin.ofNat 4 d, set := Fin.ofNat 32 set, slot := i
                           table := BitVec.ofNat 10 table, ver := BitVec.ofNat 16 ver, row := BitVec.ofNat 40 row
                           shard := BitVec.ofNat 20 j, digest := BitVec.ofNat 32 (tblDigest s p table)
                           home := shardHome s p table ver j, fetchStep := BitVec.ofNat 48 step, fwd := false })) s
    { s with fetches := s.fetches ++ [⟨p, d, set, step, slots, 0, false⟩] }) (wr s p R.HOTROW_SET_FETCH_BUSY 1 set)

/-- The record of an absent row: LIVE clear, reserved bytes 0 (R92); what else it holds is not stated (log 17). -/
def absentRecord (s : State) (fmt w row ver : Nat) : List Byte :=
  let b := freshBytes s (recCovered fmt w)
  recMake fmt w row (leNat ((b.drop 5).take 4)) ver 0 (if fmt = 1 then b.drop 16 else (b.drop 16).take 2 ++ [0, 0] ++ b.drop 20)

/-- A reply fills its slot. An absent row is written, and counts as a row copied (log 67). -/
def execHotrowFetchReplyReceive (p : Part) (m : HotReply) (s : State) : Host.Outcome State Fault Refusal :=
  .next (holdFrame s p (.hotrowFetchReplyReceive p m) fun s => if running s p then
      match s.fetches.find? (fun x => x.part == p.val && x.die == m.die.val && x.set == m.set.val && x.waiting.contains m.slot) with
      | none => s
      | some f =>
        let table := rd s p R.HOTROW_SET_HR_TABLE f.set
        let ver := rd s p R.HOTROW_SET_HR_VER f.set
        let fmt := tblFmt s p table
        let w := tblWidth s p table
        let buf := hotBuf s p f.set false
        let row := bitsOf (leNat (sramRead s (hotEntKey f.die buf m.slot) 8)) 0 40
        let bs := (m.record.getD (absentRecord s fmt w row ver)).take (recSize fmt w)
        let key := hotSlotKey f.die buf (hotSlots s p f.set) (recSize fmt w) m.slot
        let bad := m.status != 0
        let s' := if bad then s else { sramWrite (tickFree s) key bs with hotBooks := if fmt = 1 then mapErase s.hotBooks key else mapSet s.hotBooks key m.book }
        let upd (x : HotFetch) : HotFetch := { x with waiting := x.waiting.filter (· != m.slot), copied := x.copied + (if bad then 0 else 1), failed := x.failed || bad }
        { s' with fetches := s'.fetches.map (fun x => if x = f then upd x else x) }
    else rxDrop s p (ownNode s p))

/-- A die's fetch ends; when it did not fail FETCH_CTR is incremented on it (R118, R119). -/
def execHotrowFetchDone (p : Part) (d : Die) (set : Fin 32) (s : State) : Host.Outcome State Fault Refusal :=
  .next (if running s p then
      match s.fetches.find? (fun x => x.part == p.val && x.die == d.val && x.set == set.val && x.waiting.isEmpty) with
      | none => s
      | some f =>
        let s := { s with fetches := s.fetches.filter (fun x => x != f) }
        let s := if (diesOf s p).head? = some d.val then wr s p R.HOTROW_SET_FETCHED f.copied set else s
        let s := if f.failed then s else signalDie s d (rd s p R.HOTROW_SET_FETCH_CTR set) srcTransport
        if s.fetches.any (fun x => x.part == p.val && x.set == set.val) then s else wr s p R.HOTROW_SET_FETCH_BUSY 0 set
    else s)

/-- HOTROW_REFRESH SWAP may act: every fetch of the set is done; look-ups read a copy when they are issued. -/
def hotSwapReady (s : State) (p set : Nat) : Bool := !(s.fetches.any (fun x => x.part == p && x.set == set))
def hotSwap (s : State) (p set : Nat) : State :=
  wr s p R.HOTROW_SET_ACTIVE_BUF (1 - rd s p R.HOTROW_SET_ACTIVE_BUF set) set

end Sys2Proof.Machine
end

