-- ==== Sys2Proof/Machine/Versions.lean ====
section
/-!
DEFINITION. Table versions (spec/04 R122 to R127): the commands of TD_CMD, the swap event, draining and retirement.
-/

namespace Sys2Proof.Machine

def tdResult (s : State) (p code : Nat) : State := wr s p R.TD_STATUS_CMD_RESULT code

def setSlotState (s : State) (p t j st : Nat) : State := wr s p R.TABLE_DESC_SLOT_STATE st t j
def setSlotStep (s : State) (p t j st : Nat) : State := wr s p R.TABLE_DESC_SLOT_STEP st t j

/-- NEXT_VALID is cleared if it names version v (R122). -/
def clearNext (s : State) (p t v : Nat) : State :=
  if rd s p R.TABLE_DESC_NEXT_VER t = v then wr s p R.TABLE_DESC_NEXT_VALID 0 t else s

/-- Run a version command of a controlling host: `body` answers its result code. -/
def tdCommand (s : State) (port table : Nat) (body : Nat → State × Nat) : State :=
  match ctrlAccess s port with
  | none => ideNote s port
  | some p =>
    if rdb s p R.TD_STATUS_CMD_BUSY then s
    else if !tableDefined s p table then tdResult s p St.BAD_DESC
    else let (s', r) := body p; tdResult s' p r

/-- INSTALL takes the lowest FREE slot for a version newer than those held (R122, R125, R127). -/
def installVer (s : State) (t v p : Nat) : State × Nat :=
  match (List.range 4).find? (fun j => slotState s p t j == 0) with
  | none => (s, St.VERSION_SLOTS_FULL)
  | some j =>
    if (List.range 4).any (fun i => slotState s p t i != 0 && !newerVer v (rd s p R.TABLE_DESC_SLOT_VER t i)) then (s, St.VERSION_ORDER)
    else (setSlotState (wr s p R.TABLE_DESC_SLOT_VER v t j) p t j 1, St.OK)

/-- SEAL needs a swap step after ST_NOW.STEP (R122, R127). -/
def sealVer (s : State) (t v p : Nat) : State × Nat :=
  let k := rd s p R.TD_ARG_CMD_STEP
  if stepDiff k (rd s p R.ST_NOW_STEP) ≤ 0 then (s, St.BAD_DESC)
  else match verSlot s p t v with
    | some j =>
      if slotState s p t j = 1 then
        let s := setSlotStep (setSlotState s p t j 2) p t j k
        (wr (wr (wr s p R.TABLE_DESC_NEXT_VALID 1 t) p R.TABLE_DESC_NEXT_VER v t) p R.TABLE_DESC_NEXT_STEP k t, St.OK)
      else (s, St.WRONG_STATE)
    | none => (s, St.WRONG_STATE)

def abortVer (s : State) (t v p : Nat) : State × Nat :=
  match verSlot s p t v with
  | some j =>
    let st := slotState s p t j
    if st = 1 ∨ st = 2 then (clearNext (setSlotStep (setSlotState s p t j 0) p t j 0) p t v, St.OK)
    else (s, St.WRONG_STATE)
  | none => (s, St.WRONG_STATE)

def clearSlot (s : State) (p t j : Nat) : State :=
  wr (wr (setSlotStep (setSlotState s p t j 0) p t j 0) p R.TABLE_DESC_SLOT_VER 0 t j) p R.TABLE_DESC_INFLIGHT 0 t j

def freeVer (s : State) (t v p : Nat) : State × Nat :=
  match verSlot s p t v with
  | some j => if slotState s p t j = 6 then (clearSlot s p t j, St.OK) else (s, St.WRONG_STATE)
  | none => (s, St.WRONG_STATE)

/-- A slot becomes CURRENT. -/
def makeCurrent (s : State) (p t j v : Nat) : State :=
  let s := setSlotStep (setSlotState s p t j 3) p t j 0
  wr (wr (wr s p R.TABLE_DESC_CUR_VER v t) p R.TABLE_DESC_CUR_VALID 1 t) p R.TABLE_DESC_NEXT_VALID 0 t

def currentSlot (s : State) (p t : Nat) : Option Nat := (List.range 4).find? (fun j => slotState s p t j == 3)

def activateVer (s : State) (t v p : Nat) : State × Nat :=
  match verSlot s p t v with
  | some j =>
    if slotState s p t j = 2 ∧ isHold s p ∧ currentSlot s p t = none then (makeCurrent s p t j v, St.OK) else (s, St.WRONG_STATE)
  | none => (s, St.WRONG_STATE)

def execInstall (port : HPort) (table : BitVec 10) (ver : BitVec 16) (s : State) : Host.Outcome State Fault Refusal :=
  .next (tdCommand s port table.toNat (installVer s table.toNat ver.toNat))
def execSeal (port : HPort) (table : BitVec 10) (ver : BitVec 16) (s : State) : Host.Outcome State Fault Refusal :=
  .next (tdCommand s port table.toNat (sealVer s table.toNat ver.toNat))
def execAbort (port : HPort) (table : BitVec 10) (ver : BitVec 16) (s : State) : Host.Outcome State Fault Refusal :=
  .next (tdCommand s port table.toNat (abortVer s table.toNat ver.toNat))
def execFree (port : HPort) (table : BitVec 10) (ver : BitVec 16) (s : State) : Host.Outcome State Fault Refusal :=
  .next (tdCommand s port table.toNat (freeVer s table.toNat ver.toNat))
def execActivate (port : HPort) (table : BitVec 10) (ver : BitVec 16) (s : State) : Host.Outcome State Fault Refusal :=
  .next (tdCommand s port table.toNat (activateVer s table.toNat ver.toNat))

/-- The Step Time unit (R441). -/
def srcStepTime : Nat := srcHub 21 0

/-- VERSION_SWAP (R122, R124). -/
def versionSwap (s : State) (p : Nat) (e : FiredEv) : State :=
  let t := e.target
  let v := e.arg0 % 65536
  let k := e.when_ / 65536
  match (if t < 1024 ∧ tableDefined s p t then verSlot s p t v else none) with
  | some j =>
    if slotState s p t j = 2 ∧ rd s p R.TABLE_DESC_SLOT_STEP t j = k then
      let s := match currentSlot s p t with
        | some i => setSlotStep (setSlotState s p t i 4) p t i (max (e.arg1 % 2 ^ 48) (k + 1))
        | none => s
      makeCurrent s p t j v
    else raise s srcStepTime K.VERSION_SWAP_FAILED p
  | none => raise s srcStepTime K.VERSION_SWAP_FAILED p

/-- Slots that a die's step has reached stop taking look-ups (R122). -/
def drainVersions (s : State) (p : Nat) : State :=
  (List.range 1024).foldl (fun s t => (List.range 4).foldl (fun s j =>
    if slotState s p t j = 4 ∧ 0 ≤ stepDiff (rd s p R.ST_NOW_STEP) (rd s p R.TABLE_DESC_SLOT_STEP t j) then setSlotState s p t j 5 else s) s) s

/-! ### Partners (R338 to R340) -/

/-- The partners that take copies for a node: the node named, the member of a group for a home hash, or every member. -/
def groupMembers (s : State) (p g : Nat) : List Nat :=
  ((List.range 16).takeWhile (fun i => rdb s p R.RS_GROUP_VALID g i)).map (fun i => rd s p R.RS_GROUP_NODE g i)

def rowPartner (s : State) (p node : Nat) (h : Word) : Option Nat :=
  match rd s p R.PARTNER_MAP_KIND node with
  | 1 => some (rd s p R.PARTNER_MAP_TARGET node)
  | 2 =>
    let l := groupMembers s p (rd s p R.PARTNER_MAP_TARGET node % 64)
    if l.isEmpty then none else l[h.toNat / 65536 % 65536 % l.length]?
  | _ => none

def allPartners (s : State) (p node : Nat) : List Nat :=
  match rd s p R.PARTNER_MAP_KIND node with
  | 1 => [rd s p R.PARTNER_MAP_TARGET node]
  | 2 => groupMembers s p (rd s p R.PARTNER_MAP_TARGET node % 64)
  | _ => []

/-- The i-th state-list entry's partner (R339). -/
def listPartner (s : State) (p node i : Nat) : Option Nat :=
  let l := allPartners s p node
  if l.isEmpty then none else l[i % l.length]?

/-- Members that have lapsed take nothing more from the resilience unit (R342). -/
def notLapsed (s : State) (p node : Nat) : Bool := !(s.lapsed.contains (p, node))

/-- A Redirect echo to the engine's own partner (R339): an entry with its kind (0 installed, 1 moved, 2 retired, 3 freed) after the entry's
fields, the engine's place in its partition and the batch that moved the row, which the partner keeps (R336, log 20). -/
def redirectEcho (s : State) (p k row table ver kind : Nat) (home : Nat × Nat × Nat) (batch : Nat := 0) (old : Option (Nat × Nat × Nat × Nat) := none) : State :=
  match rowPartner s p (ownNode s p) (rowHash s p table row) with
  | some n =>
    if notLapsed s p n then emit s p (.copy n
      { forNode := BitVec.ofNat 12 (ownNode s p), typ := 5, step := BitVec.ofNat 48 (rd s 4 R.UPD_STATE_LAST_STEP k)
        payload := leBytes 5 row ++ leBytes 2 table ++ leBytes 2 ver ++ leBytes 4 (home.1 + home.2.1 * 2 ^ 12 + home.2.2 * 2 ^ 17)
          ++ leBytes 1 kind ++ leBytes 1 ((stacksOf s p).idxOf k) ++ leBytes 1 batch
          ++ (match old with | some (n, k', l, sl) => leBytes 2 n ++ leBytes 1 k' ++ leBytes 2 l ++ leBytes 4 sl | none => []), contrib := none })
        (srcStack k 0) else s
  | none => s

/-! ### Retirement (R122, R165) -/

/-- Each engine frees the Redirect entries of a retired version and the batches that name it (R165). -/
def freeVersion (s : State) (p t v : Nat) : State :=
  (stacksOf s p).foldl (fun s k =>
    let mine := (mapGet [] s.redirects k).filter (fun e => e.table == t && e.ver == v)
    let s := mine.foldl (fun s e => redirectEcho s p k e.row t v 3 (e.node, e.stack, e.lshard)) s
    let s := if mine.isEmpty then s
      else setRedirects s none k ((mapGet [] s.redirects k).filter (fun e => !(e.table == t && e.ver == v)))
    { s with batches := s.batches.filter (fun b => !(b.stack == k && b.rows.any (fun r => r.table == t && r.ver == v))) }) s

def execVersionRetire (p : Part) (table : BitVec 10) (slot : Fin 4) (s : State) : Host.Outcome State Fault Refusal :=
  .next (
    let t := table.toNat
    if clocked s p && p.val < partCount s.mode && slotState s p t slot == 5 && rd s p R.TABLE_DESC_INFLIGHT t slot == 0
        && decide (0 < stepDiff (rd s p R.ST_NOW_STEP) (rd s p R.TABLE_DESC_SLOT_STEP t slot)) then
      freeVersion (setSlotState s p t slot 6) p t (rd s p R.TABLE_DESC_SLOT_VER t slot)
    else s)

end Sys2Proof.Machine
end

