-- ==== Sys2Proof/Machine/Update.lean ====
section
/-!
DEFINITION. Contributions and row updates (spec/05 R141 to R159): storing, the row gradient, the optimizers, moments (spec/03 R75 to R77),
creation of rows and the load snapshot.
-/

namespace Sys2Proof.Machine

/-! ### Moments (R75 to R77) -/

/-- A quotient of finite magnitudes rounded to the nearest integer, ties to even; 0 for a zero divisor. -/
def rneQuot : FVal → FVal → Nat
  | .fin _ a ea, .fin _ b eb =>
    if b = 0 then 0
    else
      let num := a * 2 ^ (ea - eb).toNat
      let den := b * 2 ^ (eb - ea).toNat
      let q := num / den
      let r := num % den
      if den < 2 * r ∨ (2 * r = den ∧ q % 2 = 1) then q + 1 else q
  | _, _ => 0

def intVal (n : Int) : FVal := .fin (decide (n < 0)) n.natAbs 0

/-- First moment of code q under scale s: q × s; 0x80 decodes as -127 (R75). -/
def m8sDecode (q s : Nat) : Half :=
  let n := signedOf 8 q
  f32 ((intVal (if n = -128 then -127 else n)).mul (bf16.decode s))

/-- Second moment of code u under scale s: (u × s)² (R76). -/
def m8qDecode (u s : Nat) : Half :=
  let x := f32 ((intVal u).mul (bf16.decode s))
  fMul x x

def maxAbs (xs : List Half) : Half := xs.foldl (fun a x => fMax a (fAbs x)) 0

/-- Codes and scale of a block of first moments (R75). -/
def m8sBlock (xs : List Half) : List Byte × Nat :=
  let s := (ruQuot (f32v (maxAbs xs)) (intVal 127)).toNat
  (xs.map (fun x =>
    let q := min (rneQuot (f32v x) (bf16.decode s)) 127
    BitVec.ofNat 8 (if x.msb then (256 - q) % 256 else q)), s)

/-- Codes and scale of a block of second moments (R76). -/
def m8qBlock (xs : List Half) : List Byte × Nat :=
  let rs := xs.map fSqrt
  let s := (ruQuot (f32v (maxAbs rs)) (intVal 255)).toNat
  (rs.map (fun r => BitVec.ofNat 8 (min (rneQuot (f32v r) (bf16.decode s)) 255)), s)

/-- 32 consecutive elements a block. -/
def blocks32 (w : Nat) (xs : List Half) : List (List Half) := (List.range (w / 32)).map (fun b => (xs.drop (32 * b)).take 32)

/-- A moment that is never stored: non-finite, or a negative second moment (R77). -/
def momentBad (ms vs : List Half) : Bool := ms.any (fun x => !fIsFinite x) || vs.any (fun x => !fIsFinite x || fLt x 0)

def recByte (bs : List Byte) (i : Nat) : Nat := leNat ((bs.drop i).take 1)
def recPair (bs : List Byte) (i : Nat) : Nat := leNat ((bs.drop i).take 2)

/-- The moments of a stored record. -/
def recM (w : Nat) (bs : List Byte) (i : Nat) : Half := m8sDecode (recByte bs (16 + 2 * w + i)) (recPair bs (16 + 4 * w + 4 * (i / 32)))
def recV (w : Nat) (bs : List Byte) (i : Nat) : Half := m8qDecode (recByte bs (16 + 3 * w + i)) (recPair bs (18 + 4 * w + 4 * (i / 32)))

/-- The body of a trainable record: weights, first moments, second moments, block-scale pairs (R92, R157). -/
def recBody (w : Nat) (ws : List (BitVec 16)) (ms vs : List Half) : List Byte :=
  let bm := (blocks32 w ms).map m8sBlock
  let bv := (blocks32 w vs).map m8qBlock
  ws.flatMap (fun x => leBytes 2 x.toNat) ++ bm.flatMap (·.1) ++ bv.flatMap (·.1)
    ++ (bm.zip bv).flatMap (fun (a, b) => leBytes 2 a.2 ++ leBytes 2 b.2)

/-! ### Optimizers (R150, R152, R153) -/

/-- The coefficient set in use for a table. -/
def coeffOf (s : State) (p t : Nat) : Coeff :=
  let k := rd s p R.TBL_COEFF_SET t
  let f (r : Reg) : Half := BitVec.ofNat 32 (rd s p r k)
  { eta := f R.COEFF_SET_ETA, beta1 := f R.COEFF_SET_BETA1, beta2 := f R.COEFF_SET_BETA2, eps := f R.COEFF_SET_EPS
    lambda := f R.COEFF_SET_LAMBDA, bc1 := f R.COEFF_SET_BC1, bc2 := f R.COEFF_SET_BC2, amp := f R.COEFF_SET_INIT_AMP
    clipEn := rdb s p R.COEFF_SET_CLIP_EN k, init := rd s p R.COEFF_SET_INIT k }

/-- The coefficients of step n for a table: those in use before the first OPT_COEFF that fired at n or later, else the present ones (R143, R145,
R151). -/
def coeffAt (s : State) (p t n : Nat) : Coeff :=
  match (mapGet [] s.coeffPast (1024 * p + t)).find? (fun x => decide (0 ≤ stepDiff x.1 n)) with
  | some x => x.2
  | none => coeffOf s p t

/-- One element under the optimizer: new weight before rounding, first and second moment (R152). OPT 0 names no optimizer: its new weight
is the free value `free` (log 19). -/
def optStep (opt : Nat) (k : Coeff) (c g w m v free : Half) : Half × Half × Half :=
  let g := fMul g c
  let decay := fMul k.lambda w
  let step (u : Half) : Half := fSub w (fMul k.eta u)
  match opt with
  | 1 => (step (fAdd g decay), 0, 0)
  | 2 =>
    let m := fAdd (fMul k.beta1 m) g
    (step (fAdd m decay), m, 0)
  | 3 =>
    let v := fAdd v (fMul g g)
    (step (fAdd (fDiv g (fAdd (fSqrt v) k.eps)) decay), 0, v)
  | 4 =>
    let m := fAdd (fMul k.beta1 m) (fMul (fSub one32 k.beta1) g)
    let v := fAdd (fMul k.beta2 v) (fMul (fSub one32 k.beta2) (fMul g g))
    (step (fAdd (fDiv (fMul k.bc1 m) (fAdd (fSqrt (fMul k.bc2 v)) k.eps)) decay), m, v)
  | _ => (free, 0, 0)

/-- sr_bits of element i of a row (R81, R152). -/
def rowSr (s : State) (p t row n i : Nat) (flag : Nat) : BitVec 16 :=
  srBits (BitVec.ofNat 64 (rd s p R.SR_KEY_LO_KEY_LO)) (BitVec.ofNat 64 (rd s p R.SR_KEY_HI_KEY_HI))
    (BitVec.ofNat 64 (row * 1024 + i)) (BitVec.ofNat 32 (flag + t)) (BitVec.ofNat 64 n)

/-- The body of a row after its update of step n under coefficients k, or the fault of R77 or R154. A row whose new moment and new weight are
both non-finite raises MOMENT_NONFINITE: the spec ranks neither first (log 61). -/
def updatedBody (s : State) (p t row n : Nat) (k : Coeff) (c : Half) (grad : List Half) (bs : List Byte) : Except Kind (List Byte) :=
  let w := tblWidth s p t
  let opt := rd s p R.TABLE_DESC_OPT t
  let r := (List.range w).map (fun i =>
    optStep opt k c (grad.getD i 0) (recElem 1 [] bs i) (recM w bs i) (recV w bs i) (BitVec.ofNat 32 (freshNat s i)))
  let ws := r.zipIdx.map (fun (x, i) => srRound x.1 (rowSr s p t row n i 0x80000000))
  let ms := r.map (fun x => x.2.1)
  let vs := r.map (fun x => x.2.2)
  if momentBad ms vs then .error K.MOMENT_NONFINITE
  else if ws.any (fun x => !bf16.isFinite x.toNat) then .error K.WEIGHT_NONFINITE
  else .ok (recBody w ws ms vs)

/-! ### Writing (R156, R157, R349) -/

/-- Set the dirty bits of the atoms of [off, off + n) that lie below JNL_LIMIT (R349). -/
def markDirty (s : State) (k off n : Nat) : State :=
  match stackOff k (rd s 4 R.JNL_DIRTY_BASE_ADDR k) 1 with
  | none => s
  | some b =>
    (List.range ((off + n + 63) / 64 - off / 64)).foldl (fun s i =>
      let a := off / 64 + i
      if 64 * a < rd s 4 R.JNL_LIMIT_LIMIT k then
        let key := hbmKey k (b + a / 8)
        hbmWrite s key [hbmGet s key ||| BitVec.ofNat 8 (2 ^ (a % 8))]
      else s) s

def engWrite (s : State) (k off : Nat) (bs : List Byte) : State := markDirty (hbmWrite s (hbmKey k off) bs) k off bs.length

/-- A directory line with its CRC. -/
def lineMake (bs : List Byte) : List Byte := leBytes 4 (crc32c (bs.drop 4)) ++ bs.drop 4

def setByte (bs : List Byte) (i v : Nat) : List Byte := bs.take i ++ leBytes 1 v ++ bs.drop (i + 1)

/-- Insert an entry into the first line with room, setting OVF in each full line passed; none when no line of the 8 has room (R156). -/
def dirInsert (s : State) (k : Nat) (d : Shard) (b row slot : Nat) : Nat → Nat → Except EngErr (Option State)
  | 0, _ => .ok none
  | fuel + 1, i =>
    match lineAt s k d (b + i) with
    | none => .error .corrupt
    | some ln =>
      let off := lineOff d (b + i)
      if ln.count < 7 then
        let raw := setByte ln.raw 4 (ln.count + 1)
        let raw := raw.take (8 + 8 * ln.count) ++ leBytes 8 (row + slot * 2 ^ 40 + 2 ^ 63) ++ raw.drop (16 + 8 * ln.count)
        .ok (some (engWrite s k off (lineMake raw)))
      else
        dirInsert (if ln.ovf then s else engWrite s k off (lineMake (setByte ln.raw 5 (recByte ln.raw 5 + 1)))) k d b row slot fuel (i + 1)

/-- The offset of a shard's state entry. -/
def shardStateOff (s : State) (k l : Nat) : Option Nat :=
  (stackOff k (rd s 4 R.SHARD_STATE_BASE_SS_ADDR k) (16 * 32768)).map (· + 16 * l)

/-- Store the record of a new row in the next slot of its shard (R156); `.ok none`: the shard or its lines are full. A row for which no
line has room leaves nothing written: no slot is taken and no OVF is set, which the spec does not state (log 68). -/
def createRow (s : State) (k : Nat) (d : Shard) (h : Word) (row : Nat) (rec : List Byte) : Except EngErr (Option State) :=
  match shardStateOff s k d.lshard with
  | none => .error .checksum
  | some o =>
    if !blockGood s k (o / 4096 * 4096) then .error .checksum
    else
      let next := leNat (hbmRead s (hbmKey k o) 4) % 2 ^ 23
      if d.slots ≤ next then .ok none
      else match dirInsert (engWrite s k (recOff d next) rec) k d (bucketOf d h) row next 8 0 with
        | .error e => .error e
        | .ok none => .ok none
        | .ok (some s') =>
          match blockPut s' k o (leBytes 4 (leNat (hbmRead s (hbmKey k o) 4) + 1)) with
          | none => .error .checksum
          | some s'' => .ok (some (markDirty s'' k o 16))

/-- Weight i of a row created UNIFORM (R155). -/
def uniformWeight (s : State) (p t row i : Nat) (amp : Half) : BitVec 16 :=
  let r := rowSr s p t row 0 i 0xC0000000
  f32ToBf16 (fMul amp (fSub (f32 (.fin false r.toNat (-15))) one32))

/-- The record of a row about to be created: +0 or uniform weights and zero moments. -/
def freshRecord (s : State) (p t row ver n : Nat) (amp : Half) (uniform : Bool) : List Byte :=
  let w := tblWidth s p t
  let ws := (List.range w).map (fun i => if uniform then uniformWeight s p t row i amp else 0)
  recMake 1 w row (n % 2 ^ 32) ver 1 (recBody w ws (zeros w) (zeros w))

/-- INIT of a table; the reserved code's treatment is a free value (log 19). -/
def initOf (s : State) (k : Coeff) : Nat := if k.init = 3 then freshNat s 2048 % 3 else k.init

/-- The outcome of a row: no fault, a note (class F0), or a fault that leaves the row unwritten. -/
abbrev RowOut := State × Option Kind

/-- Apply a row's update of step n once, under coefficients cf (R143, R146, R152 to R156). -/
def applyRow (s : State) (p k : Nat) (d : Except EngErr Shard) (t row ver n : Nat) (cf : Coeff) (clip : Option Half) (grad : List Half)
    (count : Nat) : RowOut :=
  match d with
  | .error e => (s, some (e.kind true))
  | .ok d =>
    let h := rowHash s p t row
    match (if cf.clipEn then clip else some one32) with
    | none => (s, some K.CLIP_MISSING)
    | some c => match readRec s k d h row with
      | .error e => (s, some (e.kind true))
      | .ok (some (f, bs)) =>
        if 0 ≤ signedOf 32 (recTag bs + 2 ^ 32 - n % 2 ^ 32) then (s, some K.UPDATE_REPLAY)
        else match updatedBody s p t row n cf c grad bs with
          | .error e => (s, some e)
          | .ok body =>
            (countUpdate (engWrite (tickFree s) k (recOff d f.slot) (recMake 1 d.w row (n % 2 ^ 32) ver (recFlags bs) body)) k d.lshard h count, none)
      | .ok none =>
        let init := initOf s cf
        if init = 0 then (tickFree s, none)
        else match updatedBody s p t row n cf c grad (freshRecord s p t row ver n cf.amp (init == 2)) with
          | .error e => (s, some e)
          | .ok body => match createRow (tickFree s) k d h row (recMake 1 d.w row (n % 2 ^ 32) ver 1 body) with
            | .error e => (s, some (e.kind true))
            | .ok none => (s, some K.CREATE_DROPPED)
            | .ok (some s') => (countUpdate s' k d.lshard h count, none)

/-! ### The row gradient (R143) -/

def sourceKey (c : Contribution) : Nat := c.srcNode.toNat * 2 ^ 21 + c.srcCluster.toNat * 2 ^ 16 + c.seq.toNat
def rowKey (c : Contribution) : Nat := c.table.toNat * 2 ^ 40 + c.row.toNat

/-- Group by a key, groups ascending, members in order. -/
def groupBy (f : Contribution → Nat) (l : List Contribution) : NatMap (List Contribution) :=
  l.foldl (fun m c => mapSet m (f c) (mapGet [] m (f c) ++ [c])) []

/-- Contributions in ascending source order. -/
def inSourceOrder (l : List Contribution) : List Contribution := ((groupBy sourceKey l).map (·.2)).flatten

def rowGradient (w : Nat) (l : List Contribution) : List Half := (inSourceOrder l).foldl (fun a c => addRows a c.grad) (zeros w)
def rowCount (l : List Contribution) : Nat := l.foldl (fun n c => satHalf (n + c.count.toNat)) 0

/-- The stored contributions of a step at an engine. -/
def heldOf (s : State) (slot : Option Nat) (k n : Nat) : List Contribution :=
  (s.held.filter (fun x => x.slot == slot && x.stack == k && x.c.step.toNat == n)).map (·.c)

/-- Forget contributions of a step; each releases its version (R148). -/
def dropHeld (s : State) (p : Nat) (slot : Option Nat) (k n : Nat) (which : Contribution → Bool) : State :=
  let sel (x : Held) : Bool := x.slot == slot && x.stack == k && x.c.step.toNat == n && which x.c
  let s' := (s.held.filter sel).foldl (fun s x => releaseVer s p x.c.table.toNat 1 (verSlot s p x.c.table.toNat x.c.ver.toNat)) s
  { s' with held := s'.held.filter (fun x => !sel x) }

/-- A contribution whose row is written, forwarded or not created stays in INFLIGHT (R148). -/
def keepVer (s : State) (p k : Nat) (c : Contribution) : State :=
  let x : VerHold := ⟨p, k, c.step.toNat, c.table.toNat, c.ver.toNat, 1⟩
  let same (y : VerHold) : Bool := { y with count := 1 } == x
  if s.verHolds.any same then { s with verHolds := s.verHolds.map (fun y => if same y then { y with count := y.count + 1 } else y) }
  else { s with verHolds := s.verHolds ++ [x] }

/-- The contributions of a row are done with; own ones are still counted, those of a mirror end with the step that it applies at once. -/
def doneHeld (s : State) (p : Nat) (slot : Option Nat) (k n key : Nat) : State :=
  let sel (x : Held) : Bool := x.slot == slot && x.stack == k && x.c.step.toNat == n && rowKey x.c == key
  let s' := (s.held.filter sel).foldl (fun s x =>
    if slot.isNone then keepVer s p k x.c else releaseVer s p x.c.table.toNat 1 (verSlot s p x.c.table.toNat x.c.ver.toNat)) s
  { s' with held := s'.held.filter (fun x => !sel x) }

/-- A step's writes to a version are not complete: a contribution is still stored, or a forwarded one not acknowledged. -/
def verBusy (s : State) (x : VerHold) : Bool :=
  s.held.any (fun y => y.slot.isNone && y.stack == x.stack && y.c.step.toNat == x.step && y.c.table.toNat == x.table && y.c.ver.toNat == x.ver)
    || s.fwdOuts.any (fun y => y.stack == x.stack && y.step == x.step && y.table == x.table && y.ver == x.ver)

/-- Counts whose step has made its last row write for their version are released (R148). -/
def settleVers (s : State) (p : Nat) : State :=
  let done (x : VerHold) : Bool := x.part == p && !verBusy s x
  let s' := (s.verHolds.filter done).foldl (fun s x => releaseVer s p x.table x.count (verSlot s p x.table x.ver)) s
  { s' with verHolds := s.verHolds.filter (fun x => !done x) }

/-- A redirected row's gradient leaves as one contribution with FWD set, to the new home and its partner (R145, R339). -/
def forwardRow (s : State) (p k : Nat) (e : RedirectEnt) (c : Contribution) (grad : List Half) (count : Nat) : State :=
  let m : Contribution := { c with srcNode := BitVec.ofNat 12 (ownNode s p), srcCluster := 0, seq := 0, count := BitVec.ofNat 32 count
                                   lshard := BitVec.ofNat 15 e.lshard, stack := BitVec.ofNat 5 e.stack, fwd := true, grad := grad
                                   digest := BitVec.ofNat 32 (tblDigest s p c.table.toNat) }
  let partner := rowPartner s p e.node (rowHash s p c.table.toNat c.row.toNat)
  let s := emit s p (.contribution e.node m) (srcStack k 0)
  let s := match partner with
    | some n => emit s p (.copy n { forNode := BitVec.ofNat 12 e.node, typ := 2, step := c.step, payload := [], contrib := some m }) (srcStack k 0)
    | none => s
  { s with fwdOuts := s.fwdOuts ++ [⟨k, c.row.toNat, c.table.toNat, c.ver.toNat, c.step.toNat, e.stack, true, partner.isSome⟩] }

/-- One row of a committed step, under coefficients cf (R143, R145). -/
def applyGroup (s : State) (p : Nat) (slot : Option Nat) (k n : Nat) (cf : Coeff) (clip : Option Half) (l : List Contribution) : RowOut :=
  match l with
  | [] => (s, none)
  | c :: _ =>
    let t := c.table.toNat
    let grad := rowGradient (tblWidth s p t) l
    match redirectOf s slot k c.row.toNat t c.ver.toNat with
    | some e => (if slot.isNone then forwardRow s p k e c grad (rowCount l) else s, none)
    | none => applyRow s p k (shardFor s p k c.lshard.toNat t c.ver.toNat c.shard.toNat) t c.row.toNat c.ver.toNat n cf clip grad (rowCount l)

/-- A migration copy of the row is in flight and holds its lock (R147, R162), or a traffic generator drives the stack (R291). -/
def rowLocked (s : State) (k : Nat) (c : Contribution) : Bool :=
  engineWaits s k || s.batches.any (fun b => b.stack == k
    && b.rows.any (fun r => r.row == c.row.toNat && r.table == c.table.toNat && r.ver == c.ver.toNat && r.phase == 1))

/-- The row waits for its lock, or behind an earlier step of it that waits. -/
def rowMustWait (s : State) (k : Nat) (l : List Contribution) : Bool :=
  match l with
  | [] => false
  | c :: _ => rowLocked s k c || s.rowLocks.any (fun x => x.stack == k && x.key == rowKey c)

/-- Rows in ascending (TABLE_ID, ROW_ID). A row that meets a fault of class F2 is left unwritten and its contributions stay stored; every
other row is applied (R77, R143, R146, R153, R154). A row of an own engine whose lock is held is applied later (R147). -/
def applyGroups (s : State) (p : Nat) (slot : Option Nat) (k n : Nat) (clip : Option Half) :
    List (Nat × List Contribution) → State × List Kind
  | [] => (s, [])
  | (key, l) :: r =>
    let cf := coeffOf s p (key / 2 ^ 40)
    if l.any (fun x => !verCurrent s p x.table.toNat x.ver.toNat) then
      let (s', fs) := applyGroups s p slot k n clip r
      (s', K.UPDATE_VERSION :: fs)
    else if slot.isNone && rowMustWait s k l then
      applyGroups { s with rowLocks := s.rowLocks ++ [⟨p, k, n, key, clip, cf⟩] } p slot k n clip r
    else match applyGroup s p slot k n cf clip l with
      | (s', none) => applyGroups (doneHeld s' p slot k n key) p slot k n clip r
      | (s', some f) =>
        let (s'', fs) := applyGroups (if f.cls = 0 then doneHeld s' p slot k n key else s') p slot k n clip r
        (s'', f :: fs)

/-- The clip factor of step n, if the partition has it (R153). -/
def clipFor (s : State) (p n : Nat) : Option Half :=
  match mapFind s.clips p with
  | some (m, c) => if m = n then some c else none
  | none => none

/-- The faults that an engine raises for the rows of a step: CLIP_MISSING once, as the step begins (R153). -/
def stepFaults (fs : List Kind) : List Kind :=
  let rest := fs.filter (fun f => f != K.CLIP_MISSING)
  if fs.contains K.CLIP_MISSING then K.CLIP_MISSING :: rest else rest

/-- A step at an engine has a row that stays unwritten: the engine never finishes it (R149). -/
def unfinish (s : State) (k n : Nat) : State :=
  { s with applying := mapSet s.applying k ((mapGet [] s.applying k).filter (fun x => x.1 != n)) }

/-- An engine applies or discards its contributions of step n. -/
def engineStep (s : State) (p k n : Nat) (skip : Bool) : State :=
  let s := { s with applying := mapSet s.applying k (mapGet [] s.applying k ++ [(n, skip)]) }
  if skip then dropHeld s p none k n (fun _ => true)
  else
    let (s', fs) := applyGroups s p none k n (clipFor s p n) (groupBy rowKey (heldOf s none k n))
    let s' := if fs.any (fun f => f.cls != 0) then unfinish s' k n else s'
    settleVers ((stepFaults fs).foldl (fun s f => raise s (srcStack k 0) f p) s') p

/-- COMMIT_DECIDE at the engines of a partition (R142 to R144). An apply that has begun goes on in HOLD, not in SAFE (R38, R455). -/
def commitEngines (s : State) (p n : Nat) (skip : Bool) : State :=
  let go := running s p
  let s := wr s p R.UPD_DECIDED_DECIDED_STEP n
  serveWaiting ((stacksOf s p).foldl (fun s k => if go && !s.safe then engineStep s p k n skip else s) s) p

/-- A row whose lock is free again is applied with what its step found. -/
def applyLate (s : State) (x : RowLock) : State :=
  let s := { s with rowLocks := s.rowLocks.erase x }
  match applyGroup s x.part none x.stack x.step x.coeff x.clip ((heldOf s none x.stack x.step).filter (fun c => rowKey c == x.key)) with
  | (s', none) => settleVers (doneHeld s' x.part none x.stack x.step x.key) x.part
  | (s', some f) =>
    let s' := if f.cls = 0 then doneHeld s' x.part none x.stack x.step x.key else unfinish s' x.stack x.step
    settleVers (raise s' (srcStack x.stack 0) f x.part) x.part

/-- The row of a lock may be applied: it is the first that waits for its row. -/
def lockFree (s : State) (x : RowLock) : Bool :=
  (s.rowLocks.find? (fun y => y.stack == x.stack && y.key == x.key)) == some x
    && ((heldOf s none x.stack x.step).filter (fun c => rowKey c == x.key)).all (fun c => !rowLocked s x.stack c)

/-- Rows of a partition that wait are applied as their locks become free (R147, R291); a step that has begun goes on in HOLD. -/
def retryLocks (s : State) (p : Nat) : State :=
  (s.rowLocks.filter (fun x => x.part == p)).foldl (fun s x =>
    if clocked s p && s.rowLocks.contains x && lockFree s x then applyLate s x else s) s

/-- Nothing of step n is left at the engine: no row that waits, no forwarded row without its acknowledgements (R149). -/
def stepWhole (s : State) (k n : Nat) : Bool :=
  !s.fwdOuts.any (fun x => x.stack == k && x.step == n) && !s.rowLocks.any (fun x => x.stack == k && x.step == n)

/-- What an engine reports when it has finished step n (R149). -/
def finishStep (s : State) (p k n : Nat) (skip : Bool) : State :=
  let s := wr (wr s 4 R.UPD_STATE_LAST_STEP n k) 4 R.UPD_STATE_LAST_STATUS (if skip then St.STEP_SKIPPED else St.OK) k
  signalDie s (k / 6) (rd s p R.UPD_CFG_APPLY_CTR) (srcStack k 0)

/-- An engine has finished a step once its rows are written and every forwarded row of it is acknowledged, in HOLD too: that stops only a
step not begun (R149). -/
def execApplyStepFinished (k : Stack) (s : State) : Host.Outcome State Fault Refusal :=
  .next (
    let p := partOfStack s k
    let s := retryLocks s p
    match mapGet [] s.applying k with
    | [] => s
    | (n, skip) :: rest =>
      if clocked s p && stepWhole s k n then
        let s := { s with applying := mapSet s.applying k rest, stepped := k.val :: s.stepped.filter (· != k.val) }
        let s := finishStep s p k n skip
        { s with batches := s.batches.map (fun b =>
            if b.stack = k.val ∧ (n + 1) % 2 ^ 48 = b.step then { b with ready := true } else b) }
      else s)

/-! ### Arriving contributions (R141, R142, R145, R302) -/

/-- Bytes of a contribution (R139). -/
def contribBytes (s : State) (p : Nat) (c : Contribution) : Nat := 32 + 4 * tblWidth s p c.table.toNat

def bufferUsed (s : State) (p k : Nat) : Nat :=
  ((s.held.filter (fun x => x.slot.isNone && x.stack == k)).map (fun x => contribBytes s p x.c)).sum

/-- The fault of an arriving contribution under R142 and R302; none: it is stored. -/
def contribFault (s : State) (p k : Nat) (m : Contribution) : Option Kind :=
  let n := rd s p R.UPD_DECIDED_DECIDED_STEP
  let d := stepDiff m.step.toNat n
  if (match mapFind s.norms k with | some x => x.step == m.step.toNat | none => false) then some K.LATE_CONTRIBUTION
  else if d ≤ 0 then some K.LATE_CONTRIBUTION
  else if d = 1 then
    (if rd s 4 R.CONTRIB_SIZE_CB_BYTES k < bufferUsed s p k + contribBytes s p m then some K.CONTRIB_OVERFLOW else none)
  else some K.CONTRIB_AHEAD

/-- Store a contribution: its buffer's bytes are the engine's own, laid out as it likes (log 20). -/
def storeContrib (s : State) (p k : Nat) (m : Contribution) : State :=
  let s := holdVer s p m.table.toNat 1 (verSlot s p m.table.toNat m.ver.toNat)
  let s := { s with held := s.held ++ [⟨none, k, m⟩] }
  match stackOff k (rd s 4 R.CONTRIB_BASE_CB_ADDR k) (rd s 4 R.CONTRIB_SIZE_CB_BYTES k) with
  | some o => hbmForget s (hbmKey k o) (rd s 4 R.CONTRIB_SIZE_CB_BYTES k)
  | none => s

def contribAckOf (m : Contribution) (node : Nat) (partner : Bool) : ContribAck :=
  ⟨Fin.ofNat 32 m.srcCluster.toNat, m.seq, m.row, BitVec.ofNat 12 node, partner⟩

/-- An engine takes a contribution (R141, R142). -/
def takeContrib (s : State) (p : Nat) (m : Contribution) : State :=
  let k := m.stack.toNat
  match rowShardFor s p k m.lshard.toNat m.table.toNat m.ver.toNat m.row.toNat m.shard.toNat m.digest.toNat with
  | .error e => engFault s p k true e
  | .ok _ => match contribFault s p k m with
    | some f => raise s (srcStack k 0) f p
    | none => emit (storeContrib s p k m) p (.contribAck m.srcNode.toNat (contribAckOf m (ownNode s p) false)) (srcStack k 0)

def execContributionReceive (p : Part) (m : Contribution) (s : State) (ecc : Ecc := .none) : Host.Outcome State Fault Refusal :=
  .next (holdFrame s p (.contributionReceive p m ecc) fun s =>
    if !running s p then rxDrop s p m.srcNode.toNat
    else if m.fwd || !suEnabled s p then s
    else if !ownStack s p m.stack.toNat then raise s srcTransport K.UPDATE_MISROUTED p
    else if engineWaits s m.stack.toNat then { s with stackReqs := s.stackReqs ++ [(p.val, .contrib m)] }
    else underEcc s (eccOfStack m.stack.toNat ecc) (fun s => takeContrib s p m))

/-- Withdrawn contributions leave every engine of the partition (R138). -/
def execWithdrawalReceive (p : Part) (m : Withdrawal) (s : State) : Host.Outcome State Fault Refusal :=
  .next (holdFrame s p (.withdrawalReceive p m) fun s =>
    if !running s p then rxDrop s p m.srcNode.toNat
    else (stacksOf s p).foldl (fun s k => dropHeld s p none k m.step.toNat
      (fun c => c.srcNode == m.srcNode && c.srcCluster == m.srcCluster && c.seq == m.seq)) s)

/-- A forwarded contribution is applied at once, outside the window of R142 (R145). -/
def takeForward (s : State) (p : Nat) (m : Contribution) : State :=
  let k := m.stack.toNat
  let t := m.table.toNat
  let d : Except EngErr Shard := rowShardFor s p k m.lshard.toNat t m.ver.toNat m.row.toNat m.shard.toNat m.digest.toNat
  let ack (s : State) : State := emit s p (.fwdAck m.srcNode.toNat k m.row.toNat t m.step.toNat false) (srcStack k 0)
  match applyRow s p k d t m.row.toNat m.ver.toNat m.step.toNat (coeffAt s p t m.step.toNat) (clipFor s p m.step.toNat) m.grad m.count.toNat with
  | (s', none) => ack s'
  | (s', some f) => if f.cls = 0 then raise (ack s') (srcStack k 0) f p else raise s' (srcStack k 0) f p

def execForwardedContributionReceive (p : Part) (m : Contribution) (s : State) (ecc : Ecc := .none) : Host.Outcome State Fault Refusal :=
  .next (holdFrame s p (.forwardedContributionReceive p m ecc) fun s =>
    let k := m.stack.toNat
    if !running s p then rxDrop s p m.srcNode.toNat
    else if !m.fwd || !suEnabled s p then s
    else if !ownStack s p k then raise s srcTransport K.UPDATE_MISROUTED p
    else if engineWaits s k then { s with stackReqs := s.stackReqs ++ [(p.val, .fwd m)] }
    else underEcc s (eccOfStack k ecc) (fun s => takeForward s p m))

/-- An acknowledgement of a forwarded contribution, which names the serving engine's stack; the row is released when owner and partner have
given theirs (R145, R340). -/
def execForwardedAckReceive (p : Part) (stack : BitVec 5) (row : BitVec 40) (table : BitVec 10) (step : StepIx) (partner : Bool) (s : State) :
    Host.Outcome State Fault Refusal :=
  .next (holdFrame s p (.forwardedAckReceive p stack row table step partner) fun s =>
    if !running s p then rxDrop s p (ownNode s p)
    else
      let mine (x : FwdOut) : Bool :=
        ownStack s p x.stack && x.serve == stack.toNat && x.row == row.toNat && x.table == table.toNat && x.step == step.toNat
      let outs := s.fwdOuts.map (fun x => if mine x then (if partner then { x with partner := false } else { x with own := false }) else x)
      serveWaiting (settleVers { s with fwdOuts := outs.filter (fun x => x.own || x.partner) } p) p)

/-! ### The load snapshot (R159) -/

/-- The state entries of one block with the counts in bytes [15:4]. -/
def snapBlock (s : State) (k b : Nat) (bs : List Byte) : List Byte :=
  (List.range 256).flatMap (fun i =>
    let (r, u, o) := mapGet (0, 0, 0) s.shardCnt (32768 * k + 256 * b + i)
    (bs.drop (16 * i)).take 4 ++ leBytes 4 r ++ leBytes 4 u ++ leBytes 4 o)

/-- Copy an engine's shard counts into its shard state array; a block that fails its check raises CHECKSUM_MISMATCH. -/
def snapEngine (s : State) (p k : Nat) : State :=
  match stackOff k (rd s 4 R.SHARD_STATE_BASE_SS_ADDR k) (16 * 32768) with
  | none => s
  | some o =>
    if !keyLoaded s p then engFault s p k true .keyAbsent
    else if (List.range 128).any (fun b => !blockGood s k (o + 4096 * b)) then engFault s p k true .checksum
    else (List.range 128).foldl (fun s b =>
      match blockPut s k (o + 4096 * b) (snapBlock s k b (hbmRead s (hbmKey k (o + 4096 * b)) 4096)) with
      | some s' => markDirty s' k (o + 4096 * b) 4096
      | none => s) s

def snapClear (s : State) (k : Nat) : State :=
  let s := { s with shardCnt := mapDropRange s.shardCnt (32768 * k) (32768 * (k + 1)) }
  { s with regs := mapDropRange s.regs (fieldKey R.BUCKET_READS 4 k 0) (fieldKey R.BUCKET_READS 4 (k + 1) 0) }

/-- The snapshot copies, clears and signals. -/
def snapFinish (s : State) (p : Nat) : State :=
  let s := (stacksOf s p).foldl (fun s k => snapClear (snapEngine s p k) k) s
  (diesOf s p).foldl (fun s d => signalDie s d (rd s p R.LOAD_CTRL_SNAP_CTR) srcTransport) s

/-- A write of LOAD_CTRL: SNAP_CTR is written first, then a snapshot starts; it completes at once unless a traffic generator drives a stack
(R291). -/
def loadCtrl (s : State) (p v : Nat) : State :=
  let s := wr s p R.LOAD_CTRL_SNAP_CTR (bitsOf v 4 12)
  if bitAt v 0 && !rdb s p R.LOAD_CTRL_SNAP_BUSY then
    if (stacksOf s p).any (engineWaits s) then wrb s p R.LOAD_CTRL_SNAP_BUSY true else snapFinish s p
  else s

def execLoadSnapshot (port : HPort) (val : Half) (s : State) : Host.Outcome State Fault Refusal :=
  .next (match ctrlAccess s port with
    | none => ideNote s port
    | some p => loadCtrl s p val.toNat)

end Sys2Proof.Machine
end

