-- ==== Sys2Proof/Machine/Clove.lean ====
section
/-!
DEFINITION. Clove merge commands (spec/05 R128 to R140).
-/

namespace Sys2Proof.Machine

structure MergeDesc where
  table : Nat
  useCur : Bool
  bf16  : Bool
  send  : Bool
  ver   : Nat
  cnt   : Nat
  done  : Nat
  keyAddr : Nat
  gradAddr : Nat
  stride : Nat
  runSize : Nat
  runAddr : Nat
  outAddr : Nat
  status : Nat
  rsvd  : Bool
  deriving DecidableEq, Repr

def mergeDescOf (bs : List Byte) : MergeDesc :=
  let x := leNat bs
  { table := bitsOf x 0 10, useCur := bitAt x 10, bf16 := bitAt x 11, send := bitAt x 12, ver := bytesAt x 4 2, cnt := bitsOf x 64 28
    done := bitsOf x 96 12, keyAddr := bytesAt x 16 8, gradAddr := bytesAt x 24 8, stride := bytesAt x 32 4, runSize := bytesAt x 36 4
    runAddr := bytesAt x 40 8, outAddr := bytesAt x 48 8, status := bytesAt x 56 8
    rsvd := bitsOf x 13 19 != 0 || bytesAt x 6 2 != 0 || bitsOf x 92 4 != 0 || bitsOf x 108 20 != 0 }

/-- Keys that fit in one pass (R134). -/
def passKeys : Nat := 1048576

def MergeDesc.multi (d : MergeDesc) : Bool := decide (passKeys < d.cnt)
def MergeDesc.gradBytes (d : MergeDesc) (w : Nat) : Nat := w * (if d.bf16 then 2 else 4)

def mergeKeyOf (bs : List Byte) (i : Nat) : MergeKey :=
  let x := leNat ((bs.drop (32 * i)).take 32)
  { row := bytesAt x 0 5, pos := bytesAt x 8 4, node := bitsOf x 96 12, stack := bitsOf x 108 5, lshard := bitsOf x 113 15
    shard := bitsOf x 128 20, gradRow := bytesAt x 20 4, coef := BitVec.ofNat 16 (bytesAt x 24 2) }

/-- Reserved bits of key i, and its TABLE_ID when it is not the descriptor's. -/
def mergeKeyBad (d : MergeDesc) (bs : List Byte) (i : Nat) : Bool :=
  let x := leNat ((bs.drop (32 * i)).take 32)
  bitsOf x 50 6 != 0 || bytesAt x 7 1 != 0 || bitsOf x 148 12 != 0 || bytesAt x 26 6 != 0 || bitsOf x 40 10 != d.table

/-- Padded length of a merged record (R136). -/
def mergedSize (w : Nat) : Nat := (16 + 4 * w + 63) / 64 * 64

/-- Passes of a command (R134): merges of 16 runs at a time until at most 16 remain. -/
def mergeLevels : Nat → Nat → Nat
  | 0, _ => 0
  | fuel + 1, runs => if runs ≤ 16 then 0 else 1 + mergeLevels fuel ((runs + 15) / 16)

def passesOf (d : MergeDesc) : Nat := if d.multi then 2 + mergeLevels 8 ((d.cnt + passKeys - 1) / passKeys) else 1

/-- Keys grouped by row, rows ascending, keys of a row by ascending POS (R133). -/
def keyRows (keys : List MergeKey) : List (Nat × List MergeKey) :=
  let g := keys.foldl (fun (m : NatMap (List MergeKey)) k => mapSet m k.row (mapGet [] m k.row ++ [k])) []
  g.map (fun (row, l) => (row, ((l.foldl (fun (m : NatMap (List MergeKey)) k => mapSet m k.pos (mapGet [] m k.pos ++ [k])) []).map (·.2)).flatten))

/-- Keys of one row disagree in HOME or SHARD_IDX, or two of them share a POS (R131). -/
def keysBad (l : List MergeKey) : Bool :=
  match l with
  | [] => false
  | k :: _ => l.any (fun x => x.node != k.node || x.stack != k.stack || x.lshard != k.lshard || x.shard != k.shard)
      || (l.zip (l.drop 1)).any (fun (a, b) => a.pos == b.pos)

/-- Sequence numbers given out in the present step; REWIND and a write of ST_NOW begin a step anew (R138). -/
def seqGiven (s : State) (c : Nat) : Nat :=
  let (st, n) := mapGet (0, 0) s.cloveSeq c
  if st = rd s (partOfCluster s c) R.ST_NOW_STEP then n else 0

/-- Of several refusals of a MERGE: BAD_DESC, then ACCESS_DENIED, then WRONG_STATE (R131), then the first; NO_ROUTE, which R131 does not
rank, comes after them (log 81). -/
def worstMerge (l : List (Option Refuse)) : Option Refuse :=
  let rs := l.filterMap id
  ((rs.find? (fun r => r.status == St.BAD_DESC)).orElse (fun _ => rs.find? (fun r => r.status == St.ACCESS_DENIED))).orElse
    (fun _ => (rs.find? (fun r => r.status == St.WRONG_STATE)).orElse
      (fun _ => (rs.find? (fun r => r.status != St.NO_ROUTE)).orElse (fun _ => rs.head?)))

/-- Checks of the descriptor without which its keys are not read (R131). -/
def mergeStatic (s : State) (p c : Nat) (d : MergeDesc) : Option Refuse :=
  let w := tblWidth s p d.table
  worstMerge [
    checkIf (d.rsvd || !tableDefined s p d.table || tblFmt s p d.table != 1 || d.stride % 4 != 0 || decide (d.stride < d.gradBytes w)
      || d.keyAddr % 32 != 0 || d.status % 16 != 0 || (d.multi && (d.runAddr % 64 != 0 || decide (2 * d.runSize < d.cnt)))
      || decide (65536 ≤ seqGiven s c)) badDesc,
    checkSpan s p d.keyAddr (32 * d.cnt) false]

/-- The addresses that the command writes besides its output: BAD_DESC of a key comes before their refusals (R131). -/
def mergeAddrs (s : State) (p : Nat) (d : MergeDesc) : List (Option Refuse) :=
  [checkDev s p d.status 16 true, if d.multi then checkDev s p d.runAddr (64 * d.runSize) true else none]

/-- A frame for the node can leave: it is the own node, or it has a route (R322). -/
def reachable (s : State) (p node : Nat) : Bool := node == ownNode s p || hasRoute s p node

/-- The nodes that a row's contribution and its copy go to have routes. -/
def sendable (s : State) (p table node row : Nat) : Bool :=
  reachable s p node && (match rowPartner s p node (rowHash s p table row) with | some n => reachable s p n | none => true)

/-- Checks of one key: a HOME of another partition is refused whether the command sends or not (R131, R32, R322). Under SEND a HOME or a
partner without a route refuses the command before it sends anything, and it takes no SEQ (log 81). -/
def mergeKeyRefuse (s : State) (p : Nat) (d : MergeDesc) (bs : List Byte) (i : Nat) (k : MergeKey) : Option Refuse :=
  worstMerge [
    checkIf (mergeKeyBad d bs i || decide (23 < k.stack) || decide (rd s p R.TABLE_DESC_SHARD_CNT d.table ≤ k.shard)) badDesc,
    checkSpan s p (d.gradAddr + d.stride * k.gradRow) (d.gradBytes (tblWidth s p d.table)) false,
    checkIf ((k.node == ownNode s p && !ownStack s p k.stack) || (otherNodes s p).contains k.node) denied,
    checkIf (d.send && !sendable s p d.table k.node k.row) noRoute]

def wrongState : Refuse := withFault St.WRONG_STATE K.VERSION_REFUSED

/-- Start a merge whose keys are read (R131, R132, R138). -/
def mergeGo (s : State) (t : Nat) (e : QEntry) (desc : List Byte) (d : MergeDesc) (keys : List MergeKey) : State × RunCmd :=
  let p := partOfTile s t
  let c := clusterOfTile t
  let st := rd s p R.ST_NOW_STEP
  let given := seqGiven s c
  let w := tblWidth s p d.table
  let run : CloveRun := { tile := t, desc := desc, step := st, ver := namedVer s p d.table d.useCur d.ver, seq := given, keys := keys
                          passes := passesOf d, done := 0, sent := false, waiting := [], unique := 0, maxCount := 0, status := St.OK
                          fault := none, msgId := s.msgSeq.toNat }
  let s' := { s with msgSeq := s.msgSeq + 1, clove := mapSet s.clove c run, cloveSeq := if d.send then mapSet s.cloveSeq c (st, given + 1) else s.cloveSeq }
  let undef := (if d.multi then devSpans (devSpace s p d.runAddr) (64 * d.runSize) else [])
    ++ (if d.send then [] else devSpans (devSpace s p d.outAddr) (mergedSize w * (keyRows keys).length))
  (s', { okCmd e with finished := false, undef := undef })

/-- The Clove unit runs a merge, or another tile's command arrived first (R128). -/
def mergeHeld (s : State) (t c : Nat) : Bool :=
  (mapFind s.clove c).isSome || (match mapGet [] s.cloveWait c with | [] => false | h :: _ => h != t)

/-- Device addresses that a merge writes. -/
def MergeDesc.writes (d : MergeDesc) : List Nat :=
  (if d.multi then [d.runAddr] else []) ++ (if d.send then [] else [d.outAddr]) ++ [d.status]

/-- A refused merge; a host access that failed is that of an address it reads or writes (R383). -/
def mergeRefused (s : State) (p : Nat) (e : QEntry) (d : MergeDesc) (r : Refuse) : RunCmd :=
  { refuseCmd e r with errPort := blamePort s p [d.keyAddr, d.gradAddr] d.writes }

/-- Start the front MERGE. One whose header is refused does not wait for the unit: its descriptor is checked at once (R180). -/
def startMerge (t : Nat) (ext : List Byte) (s : State) (e : QEntry) : Option (State × RunCmd) :=
  let p := partOfTile s t
  let c := clusterOfTile t
  match spOperand e.cmd 64 64 with
  | none => some (s, refuseCmd e badDesc)
  | some a =>
    if cbs e.cmd 16 16 ≠ 0 then some (s, refuseCmd e badDesc)
    else if mergeHeld s t c && (headerRefuse s p e.cmd).isNone then none
    else
      let s := dropMerge s t
      let desc := sramRead s (spKey t a) 64
      let d := mergeDescOf desc
      let verRef := checkIf (!verCurrent s p d.table (namedVer s p d.table d.useCur d.ver)
        || (d.useCur && !rdb s p R.TABLE_DESC_CUR_VALID d.table)) wrongState
      match mergeStatic s p c d with
      | some r => some (s, mergeRefused s p e d ((worstMerge (some r :: mergeAddrs s p d ++ [verRef])).getD r))
      | none =>
        let x := devSpace s p d.keyAddr
        if devTgBusy s x (32 * d.cnt) then none
        else
          let s := noteRead s p x (32 * d.cnt) (srcCluster c 0x40)
          match readArray s p d.keyAddr (32 * d.cnt) ext with
          | .error r => some (s, mergeRefused s p e d ((worstMerge (some r :: mergeAddrs s p d ++ [verRef])).getD r))
          | .ok bs =>
            let keys := (List.range d.cnt).map (mergeKeyOf bs)
            let rows := keyRows keys
            let perKey := keys.zipIdx.map (fun (k, i) => mergeKeyRefuse s p d bs i k)
            let between := checkIf (!d.multi && rows.any (fun r => keysBad r.2)) badDesc
            let out := if d.send then none else checkSpan s p d.outAddr (mergedSize (tblWidth s p d.table) * rows.length) true
            match worstMerge (between :: out :: perKey ++ mergeAddrs s p d ++ [verRef]) with
            | some r => some (s, mergeRefused s p e d r)
            | none => some (mergeGo s t e desc d keys)

/-- The front MERGE takes its place at its Clove unit when it must wait; commands arrive one after another, so no two arrive in one cycle
(R128, log 62). -/
def mergeArrive (s : State) (t : Nat) : State :=
  let c := clusterOfTile t
  match headEntry s t 3 with
  | some e =>
    if opcOf e.cmd = 5 ∧ (headerRefuse s (partOfTile s t) e.cmd).isNone ∧ (spOperand e.cmd 64 64).isSome ∧ cbs e.cmd 16 16 = 0
        ∧ mergeHeld s t c ∧ !(mapGet [] s.cloveWait c).contains t then
      { s with cloveWait := mapSet s.cloveWait c (mapGet [] s.cloveWait c ++ [t]) }
    else s
  | none => s

/-- The array a MERGE reads when it starts. -/
def mergeTouch (t : Nat) (s : State) (c : Cmd) : List (Nat × Nat) :=
  let d := mergeDescOf (sramRead s (spKey t (cbs c 8 8)) 64)
  [(d.keyAddr, 32 * d.cnt)]

def execMerge (t : Tile) (ext : List Byte) (s : State) (ecc : Ecc := .none) : Host.Outcome State Fault Refusal :=
  .next (eccRow (mergeArrive s t) t 3 5 dmaDefined ecc (startMerge t ext) (mergeTouch t))

/-! ### The final pass (R133, R136, R139, R140) -/

/-- A merged gradient. -/
structure Merged where
  row   : Nat
  key   : MergeKey
  count : Nat
  grad  : List Half
  deriving DecidableEq, Repr

/-- Elements of a gradient row. -/
def gradElems (d : MergeDesc) (w : Nat) (bs : List Byte) : List Half :=
  (List.range w).map (fun i => if d.bf16 then bf16ToF32 (BitVec.ofNat 16 (leNat ((bs.drop (2 * i)).take 2)))
    else BitVec.ofNat 32 (leNat ((bs.drop (4 * i)).take 4)))

/-- Sum the keys of a row; `i` counts the gradient rows read so far. -/
def mergeRow (s : State) (p : Nat) (d : MergeDesc) (w : Nat) (ext : List Byte) : List MergeKey → Nat → List Half → Except Refuse (List Half × Nat)
  | [], i, acc => .ok (acc, i)
  | k :: r, i, acc =>
    match readArray s p (d.gradAddr + d.stride * k.gradRow) (d.gradBytes w) (ext.drop (i * d.gradBytes w)) with
    | .error e => .error e
    | .ok bs => mergeRow s p d w ext r (i + 1) (List.zipWith (fun a g => fAdd a (fMul (bf16ToF32 k.coef) g)) acc (gradElems d w bs))

def mergeRows (s : State) (p : Nat) (d : MergeDesc) (w : Nat) (ext : List Byte) : List (Nat × List MergeKey) → Nat → Except Refuse (List Merged)
  | [], _ => .ok []
  | (row, l) :: r, i =>
    match mergeRow s p d w ext l i (zeros w) with
    | .error e => .error e
    | .ok (g, i') => match mergeRows s p d w ext r i' with
      | .error e => .error e
      | .ok ms => .ok (⟨row, l.headD ⟨row, 0, 0, 0, 0, 0, 0, 0⟩, l.length, g⟩ :: ms)

def contribOf (s : State) (p c : Nat) (d : MergeDesc) (run : CloveRun) (m : Merged) : Contribution :=
  { row := BitVec.ofNat 40 m.row, table := BitVec.ofNat 10 d.table, ver := BitVec.ofNat 16 run.ver, step := BitVec.ofNat 48 run.step
    srcNode := BitVec.ofNat 12 (ownNode s p), srcCluster := BitVec.ofNat 5 c, seq := BitVec.ofNat 16 run.seq, count := BitVec.ofNat 32 m.count
    shard := BitVec.ofNat 20 m.key.shard, lshard := BitVec.ofNat 15 m.key.lshard, stack := BitVec.ofNat 5 m.key.stack
    digest := BitVec.ofNat 32 (tblDigest s p d.table), fwd := false, grad := m.grad }

/-- Send a row's contribution to its home and an identical copy to the home's partner: the acknowledgements to wait for (R140). -/
def sendContrib (p c : Nat) (d : MergeDesc) (run : CloveRun) (x : State × List (Nat × Nat × Bool)) (m : Merged) : State × List (Nat × Nat × Bool) :=
  let (s, wait) := x
  let cm := contribOf s p c d run m
  let s := emit s p (.contribution m.key.node cm)
  match rowPartner s p m.key.node (rowHash s p d.table m.row) with
  | some n => (emit s p (.copy n { forNode := BitVec.ofNat 12 m.key.node, typ := 1, step := cm.step, payload := [], contrib := some cm })
      (srcCluster c 0x40),
      wait ++ [(m.row, m.key.node, false), (m.row, n, true)])
  | none => (s, wait ++ [(m.row, m.key.node, false)])

/-- A merged record (R136). -/
def mergedRecord (d : MergeDesc) (w : Nat) (m : Merged) : List Byte :=
  let b := leBytes 5 m.row ++ leBytes 2 d.table ++ [0] ++ leBytes 4 m.count ++ leBytes 4 0 ++ m.grad.flatMap (fun x => leBytes 4 x.toNat)
  b ++ List.replicate (mergedSize w - b.length) 0

/-- Withdraw a SEQ from every owner reached and from their partners (R138). -/
def withdraw (s : State) (p c : Nat) (run : CloveRun) (wait : List (Nat × Nat × Bool)) : State :=
  let homes := ((wait.filter (fun x => !x.2.2)).foldl (fun (m : NatMap Unit) x => mapSet m x.2.1 ()) []).map (·.1)
  let pairs := (wait.filter (fun x => x.2.2)).foldl (fun (m : NatMap Unit) x =>
    match wait.find? (fun y => y.1 == x.1 && !y.2.2) with
    | some y => mapSet m (4096 * y.2.1 + x.2.1) ()
    | none => m) []
  let w : Withdrawal := ⟨BitVec.ofNat 12 (ownNode s p), BitVec.ofNat 5 c, BitVec.ofNat 16 run.seq, BitVec.ofNat 48 run.step⟩
  let s := homes.foldl (fun s n => emit s p (.withdrawal n w)) s
  let m (home : Nat) : CopyMsg := { forNode := BitVec.ofNat 12 home, typ := 3, step := w.step, contrib := none,
                                    payload := leBytes 2 w.srcNode.toNat ++ leBytes 1 c ++ leBytes 2 run.seq }
  pairs.foldl (fun s x => emit s p (.copy (x.1 % 4096) (m (x.1 / 4096))) (srcCluster c 0x40)) s

def maxOf (l : List Nat) : Nat := l.foldl max 0

/-- The half of the run area that pass k writes: 16 bytes a key (R134). -/
def runHalf (d : MergeDesc) (k : Nat) : Nat := d.runAddr + k % 2 * (32 * d.runSize)

/-- Ranges that a pass of a merge reads, and those that it writes. -/
def passReads (s : State) (p : Nat) (run : CloveRun) : List (Nat × Nat) :=
  let d := mergeDescOf run.desc
  (if run.done = 0 then [] else [(runHalf d (run.done - 1), 16 * d.cnt)])
    ++ (if run.done + 1 < run.passes then []
      else run.keys.map (fun k => (d.gradAddr + d.stride * k.gradRow, d.gradBytes (tblWidth s p d.table))))
def passWrites (s : State) (p : Nat) (run : CloveRun) : List (Nat × Nat) :=
  let d := mergeDescOf run.desc
  if run.done + 1 < run.passes then [(runHalf d run.done, 16 * d.cnt)]
  else if d.send then []
  else [(d.outAddr, mergedSize (tblWidth s p d.table) * (keyRows run.keys).length)]

/-- A pass after the first reads the runs of the pass before as a checked consumer (R86): the rest of the outside bytes, or the failure. -/
def readRuns (s : State) (p : Nat) (run : CloveRun) (ext : List Byte) : Except Refuse (List Byte) :=
  let d := mergeDescOf run.desc
  if run.done = 0 then .ok ext
  else
    let a := runHalf d (run.done - 1)
    match readArray s p a (16 * d.cnt) ext with
    | .error r => .error r
    | .ok _ => .ok (if isExtern (devSpace s p a) then ext.drop (16 * d.cnt) else ext)

/-- The merge's own work is over. -/
def runOver (s : State) (c : Nat) (r : CloveRun) : State := { s with clove := mapSet s.clove c { r with done := r.passes, sent := true } }
def CloveRun.fail (run : CloveRun) (r : Refuse) : CloveRun := { run with status := r.status, fault := r.fault }

/-- The final pass: rows in ascending order up to the first whose keys disagree. Without a route to a home or a partner nothing is sent. -/
def mergeFinal (s : State) (p c : Nat) (run : CloveRun) (ext : List Byte) : State :=
  let d := mergeDescOf run.desc
  let w := tblWidth s p d.table
  let rows := keyRows run.keys
  let good := rows.takeWhile (fun r => !keysBad r.2)
  let bad := decide (good.length < rows.length)
  match mergeRows s p d w ext good 0 with
  | .error e => runOver s c (run.fail e)
  | .ok ms =>
    let run := { run with unique := ms.length, maxCount := maxOf (ms.map (·.count)) }
    if d.send then
      if ms.any (fun m => !sendable s p d.table m.key.node m.row) then runOver s c (run.fail noRoute)
      else
        let (s, wait) := ms.foldl (sendContrib p c d run) (s, [])
        if bad then runOver (withdraw s p c run wait) c (run.fail badDesc) else runOver s c { run with waiting := wait }
    else
      let out := ms.map (mergedRecord d w)
      match writeRows s p d.outAddr (mergedSize w) out (srcCluster c 0x40) run.msgId with
      | (s', some e) => runOver s' c (run.fail e)
      | (s', none) =>
        let run := { run with acks := runFrames s p (rowRuns s p d.outAddr (mergedSize w) out) }
        runOver s' c (if bad then run.fail badDesc else run)

/-- A pass ends: its runs are written as a producer writes (R85), or the final pass gives the merge's results. What a run holds is not stated
(log 49). A failed read or write ends the merge. -/
def clovePass (s : State) (p c : Nat) (run : CloveRun) (ext : List Byte) : State :=
  let d := mergeDescOf run.desc
  let s := (passReads s p run).foldl (fun s x => noteRead s p (devSpace s p x.1) x.2 (srcCluster c 0x40)) s
  match readRuns s p run ext with
  | .error r => runOver s c (run.fail r)
  | .ok ext =>
    if run.done + 1 < run.passes then
      let x := devSpace s p (runHalf d run.done)
      match devWrite (tickFree s) p x (freshBytes s (16 * d.cnt)) (srcCluster c 0x40) run.msgId with
      | (s', some r) => runOver s' c (run.fail r)
      | (s', none) => { s' with clove := mapSet s'.clove c { run with done := run.done + 1, acks := remoteFrames s p x (16 * d.cnt) } }
    else mergeFinal s p c run ext

/-- A pass under an ECC event (R285, R286). -/
def clovePassEcc (s : State) (p c : Nat) (run : CloveRun) (ext : List Byte) (ecc : Ecc) : State :=
  eccReads s run.tile (addrSpans s p (passReads s p run)) ecc (fun s => clovePass s p c run ext)

def execClovePassDone (c : Cluster) (ext : List Byte) (s : State) (ecc : Ecc := .none) : Host.Outcome State Fault Refusal :=
  .next (
    let p := partOfCluster s c
    match mapFind s.clove c with
    | none => s
    | some run =>
      if !running s p || run.sent || run.acks != 0 || (passReads s p run ++ passWrites s p run).any (fun x => devTgBusy s (devSpace s p x.1) x.2) then s
      else clovePassEcc s p c run ext ecc)

/-! ### Acknowledgements and completion (R137) -/

def execContributionAckReceive (p : Part) (m : ContribAck) (s : State) : Host.Outcome State Fault Refusal :=
  .next (holdFrame s p (.contributionAckReceive p m) fun s =>
    let c := m.cluster.val
    if !running s p || partOfCluster s c != p.val then rxDrop s p m.node.toNat
    else match mapFind s.clove c with
      | some run =>
        if run.seq % 65536 = m.seq.toNat then
          { s with clove := mapSet s.clove c { run with waiting := run.waiting.filter (fun x => x != (m.row.toNat, m.node.toNat, m.partner)) } }
        else s
      | none => s)

/-- The status word of a merge. -/
def mergeWord (run : CloveRun) (status : Nat) : List Byte :=
  leBytes 1 status ++ leBytes 1 run.passes ++ leBytes 2 0 ++ leBytes 4 run.unique ++ leBytes 4 run.maxCount ++ leBytes 4 0

/-- Clove signals DONE_CTR and takes its next command. -/
def mergeEnd (s : State) (c : Nat) (run : CloveRun) : State :=
  let d := mergeDescOf run.desc
  setFinished (signalDie { s with clove := mapErase s.clove c } (dieOfTile run.tile) d.done (srcCluster c 0x40)) run.tile 3 [] 5 run.status run.fault
    (blamePort s (partOfTile s run.tile) [d.gradAddr, d.runAddr] d.writes)

/-- Clove writes the status word; once that is visible the merge ends (R137, R258). -/
def finishMerge (s : State) (c : Nat) (run : CloveRun) (status : Nat) (fault : Option CmdFault) : State :=
  let p := partOfTile s run.tile
  let x := devSpace s p (mergeDescOf run.desc).status
  match devWrite s p x (mergeWord run status) (srcCluster c 0x40) run.msgId with
  | (s', some r) => mergeEnd s' c (run.fail r)
  | (s', none) =>
    let run := { run with status := status, fault := fault, waiting := [], worded := true, acks := remoteFrames s p x 16 }
    if run.acks = 0 then mergeEnd s' c run else { s' with clove := mapSet s'.clove c run }

/-- A traffic generator drives the memory of the status word: the merge waits (R291). -/
def mergeWaits (s : State) (p : Nat) (run : CloveRun) : Bool := devTgBusy s (devSpace s p (mergeDescOf run.desc).status) 16

def execMergeComplete (c : Cluster) (s : State) : Host.Outcome State Fault Refusal :=
  .next (match mapFind s.clove c with
    | some run =>
      let p := partOfCluster s c
      if running s p && run.sent && run.waiting.isEmpty && run.acks == 0 then
        if run.worded then mergeEnd s c run else if mergeWaits s p run then s else finishMerge s c run run.status run.fault
      else s
    | none => s)

def execMergeTimeout (c : Cluster) (s : State) : Host.Outcome State Fault Refusal :=
  .next (match mapFind s.clove c with
    | some run =>
      let p := partOfCluster s c
      if running s p && run.sent && !run.waiting.isEmpty && !mergeWaits s p run then
        finishMerge s c run St.TIMEOUT (withFault St.TIMEOUT K.LOOKUP_TIMEOUT).fault
      else s
    | none => s)

/-- Another node has made a frame of a write visible: that of a COPY, a look-up or a merge of the partition (R258). -/
def ackVisible (s : State) (p node msg : Nat) : State :=
  let at_ (t a : Nat) : Bool := match devSpace s (partOfTile s t) a with | .remote _ nd _ _ => nd == node | _ => false
  let s' := copyVisible s p node msg
  { s' with
    looks := s'.looks.map (fun r =>
      if r.msgId = msg ∧ partOfTile s r.tile = p ∧ r.acks ≠ 0 ∧ at_ r.tile (if r.phase = 1 then (lookDescOf r.desc).outAddr else (lookDescOf r.desc).status) then
        { r with acks := r.acks - 1 } else r)
    clove := s'.clove.map (fun (c, r) =>
      if r.msgId = msg ∧ partOfTile s r.tile = p ∧ r.acks ≠ 0 ∧ (mergeDescOf r.desc).writes.any (at_ r.tile) then
        (c, { r with acks := r.acks - 1 }) else (c, r)) }

end Sys2Proof.Machine
end

