-- ==== Sys2Proof/Machine/Migrate.lean ====
section
/-!
DEFINITION. Migration of rows (spec/05 R160 to R165).
-/

namespace Sys2Proof.Machine

/-- An entry of a batch list, and its reserved bits (R160). -/
def migRowOf (bs : List Byte) (i : Nat) : MigRow :=
  let x := leNat ((bs.drop (16 * i)).take 16)
  { row := bytesAt x 0 5, table := bitsOf x 40 10, ver := bytesAt x 8 2, node := bitsOf x 96 12, stack := bitsOf x 108 5
    lshard := bitsOf x 113 15, phase := 0, acks := 0, old := none }

def migRowRsvd (bs : List Byte) (i : Nat) : Bool :=
  let x := leNat ((bs.drop (16 * i)).take 16)
  bitsOf x 50 6 != 0 || bytesAt x 7 1 != 0 || bytesAt x 10 2 != 0

/-- The new home is the hash home itself (R162). -/
def migHome (s : State) (p k : Nat) (r : MigRow) : Bool := r.node == ownNode s p && r.stack == k

/-- The row needs a FREE Redirect entry (R163). -/
def migNeeds (s : State) (p k : Nat) (r : MigRow) : Bool :=
  (redirectOf s none k r.row r.table r.ver).isNone && !migHome s p k r

/-- Entries that batches not yet copied will take. -/
def migReserved (s : State) (p k : Nat) : Nat :=
  ((s.batches.filter (fun b => b.stack == k && !b.installed)).map (fun b => (b.rows.filter (fun r => r.phase < 2 && migNeeds s p k r)).length)).sum

def migResult (s : State) (p code : Nat) : State := wr s p R.MIG_STATUS_MIG_RESULT code

/-- The batch list names an address that R161's table does not admit. -/
def migAddrBad (s : State) (p a cnt : Nat) : Bool :=
  a % 16 != 0 || isExtern (devSpace s p a) || (match checkDev s p a (16 * cnt) false with | some r => r != keyAbsent | none => false)

/-- Accept or refuse a batch (R161, R163). The spec gives the refusals no order and no result for a STACK outside the partition, a list that
is misaligned or cannot be reached, or a list whose block fails its check: the model takes the order below, BAD_DESC for the former and
CHECKSUM_MISMATCH for the last; a NEW_HOME.STACK above 23, which names no stack, is BAD_DESC too (log 70). -/
def migrateGo (s : State) (p : Nat) : State :=
  let k := rd s p R.MIG_ARG_STACK
  let cnt := rd s p R.MIG_ARG_ENTRY_CNT
  let a := rd s p R.MIG_ADDR_MIG_LIST
  let step := rd s p R.MIG_STEP_STEP
  if !ownStack s p k || cnt == 0 || decide (4096 < cnt) || decide (stepDiff step (rd s p R.ST_NOW_STEP) ≤ 0) || migAddrBad s p a cnt then
    migResult s p St.BAD_DESC
  else if 16 ≤ (s.batches.filter (fun b => b.stack == k)).length then migResult s p St.MIG_SLOTS_FULL
  else if (checkDev s p a (16 * cnt) false).isSome then engFault (migResult s p St.ACCESS_DENIED) p k true .keyAbsent
  else match readArray s p a (16 * cnt) [] with
    | .error _ => engFault (migResult s p St.CHECKSUM_MISMATCH) p k true .checksum
    | .ok bs =>
      let rows := (List.range cnt).map (migRowOf bs)
      if (List.range cnt).any (migRowRsvd bs) || rows.any (fun r => !verCurrent s p r.table r.ver || decide (23 < r.stack)) then
        migResult s p St.BAD_DESC
      else if 32768 < (mapGet [] s.redirects k).length + migReserved s p k + (rows.filter (migNeeds s p k)).length then
        migResult s p St.REDIRECT_FULL
      else
        let done := s.stepped.contains k && (rd s 4 R.UPD_STATE_LAST_STEP k + 1) % 2 ^ 48 == step
        migResult { s with batches := s.batches ++ [⟨k, rd s p R.MIG_ARG_BATCH_ID, step, rows, done, false⟩] } p St.OK

/-- A list in a memory that a traffic generator drives is read when it stops (R291). -/
def migListWaits (s : State) (p : Nat) : Bool :=
  devTgBusy s (devSpace s p (rd s p R.MIG_ADDR_MIG_LIST)) (16 * rd s p R.MIG_ARG_ENTRY_CNT)

/-- MIGRATE: while its list cannot be read the command waits, and MIG_BUSY is set (R160, R291). -/
def migrateCmd (s : State) (p : Nat) (ecc : Ecc) : State :=
  if rdb s p R.MIG_STATUS_MIG_BUSY then s
  else if migListWaits s p then { wrb s p R.MIG_STATUS_MIG_BUSY true with stackReqs := s.stackReqs ++ [(p, .migrate)] }
  else eccReads s 0 (addrSpans s p [(rd s p R.MIG_ADDR_MIG_LIST, 16 * rd s p R.MIG_ARG_ENTRY_CNT)]) ecc (fun s => migrateGo s p)

def execMigrate (port : HPort) (s : State) (ecc : Ecc := .none) : Host.Outcome State Fault Refusal :=
  .next (match ctrlAccess s port with
    | some p => migrateCmd s p ecc
    | none => ideNote s port)

/-! ### Copying (R162) -/

/-- A row's current copy: on this engine, on an engine of this partition through its Redirect entry, or elsewhere. -/
inductive Current where
  | here (d : Shard) (f : Found) (bs : List Byte) (k : Nat)
  | away
  | absent
  | failed (e : EngErr)
  deriving DecidableEq, Repr

def currentIn (s : State) (k : Nat) (d : Shard) (h : Word) (row : Nat) : Current :=
  match readRec s k d h row with
  | .error e => .failed e
  | .ok none => .absent
  | .ok (some (f, bs)) => .here d f bs k

def currentCopy (s : State) (p k : Nat) (r : MigRow) : Current :=
  let h := rowHash s p r.table r.row
  let j := rowShard s p r.table r.row
  match redirectOf s none k r.row r.table r.ver with
  | some e =>
    if e.node = ownNode s p ∧ ownStack s p e.stack then
      match shardFor s p e.stack e.lshard r.table r.ver j with
      | .error x => .failed x
      | .ok d => currentIn s e.stack d h r.row
    else .away
  | none => match shardSearch s p k r.table r.ver j with
    | none => .failed .misrouted
    | some d => currentIn s k d h r.row

/-- Set MOVED in the flags of a stored record and rewrite it with its CRC. -/
def markMoved (s : State) (k : Nat) (d : Shard) (f : Found) (bs : List Byte) (moved : Bool) : State :=
  let fl := recFlags bs
  let fl' := fl - bitsOf fl 1 1 * 2 + (if moved then 2 else 0)
  engWrite s k (recOff d f.slot) (recMake d.fmt d.w (recRow bs) (recTag bs) (recVer bs) fl' ((bs.take (recCovered d.fmt d.w)).drop 16))

/-- The copy of a migration copy for the new home's partner, with the hash home that sends it; the acknowledgements to wait for (R339,
R340). -/
def partnerMigCopy (s : State) (p k : Nat) (r : MigRow) (bs : List Byte) : State × Nat :=
  match rowPartner s p r.node (rowHash s p r.table r.row) with
  | some n =>
    let c : CopyMsg := { forNode := BitVec.ofNat 12 r.node, typ := 4, step := BitVec.ofNat 48 (rd s 4 R.UPD_STATE_LAST_STEP k), contrib := none,
                         payload := leBytes 1 r.stack ++ leBytes 2 r.lshard ++ leBytes 2 r.table ++ leBytes 2 (ownNode s p) ++ leBytes 1 k ++ bs }
    (emit s p (.copy n c) (srcStack k 0), 2)
  | none => (s, 1)

/-- Send a row's record to its new home and to the new home's partner; the acknowledgements to wait for. -/
def sendMigCopy (s : State) (p k : Nat) (r : MigRow) (bs : List Byte) : State × Nat :=
  let m : MigCopy := { src := BitVec.ofNat 12 (ownNode s p), srcStack := BitVec.ofNat 5 k, row := BitVec.ofNat 40 r.row
                       table := BitVec.ofNat 10 r.table, ver := BitVec.ofNat 16 r.ver, shard := BitVec.ofNat 20 (rowShard s p r.table r.row)
                       digest := BitVec.ofNat 32 (tblDigest s p r.table)
                       home := ⟨BitVec.ofNat 12 r.node, BitVec.ofNat 5 r.stack, BitVec.ofNat 15 r.lshard⟩, record := bs }
  partnerMigCopy (emit s p (.migCopy r.node m) (srcStack k 0)) p k r bs

/-- The row's record comes home: the old copy there takes the current record and the entry is freed (R162); the own partner has a copy, and
learns the batch and where the copy that is now old lies (R336, log 20). Where the entry of the old copy at home was released already, nothing
is written and the row counts as done with its Redirect entry ACTIVE (log 82). -/
def migReturn (s : State) (p k id : Nat) (r : MigRow) (bs : List Byte) : State × Option EngErr :=
  match shardSearch s p k r.table r.ver (rowShard s p r.table r.row) with
  | none => (s, some .misrouted)
  | some d => match findRow s k d (rowHash s p r.table r.row) r.row with
    | .error e => (s, some e)
    | .ok none => (s, none)
    | .ok (some f) =>
      let s := (partnerMigCopy (dropRedirect (markMoved s k d f bs false) none k r.row r.table r.ver) p k r bs).1
      (redirectEcho s p k r.row r.table r.ver 3 (r.node, r.stack, r.lshard) id r.old, none)

/-- Copy one row; `ext` gives the records that other nodes hold, in list order. -/
def migCopyRow (s : State) (p k id : Nat) (r : MigRow) (ext : List (List Byte)) : State × MigRow × List (List Byte) × Option EngErr :=
  if r.phase ≠ 0 then (s, r, ext, none)
  else
    let go (bs : List Byte) (old : Option (Nat × Nat × Nat × Nat)) (ext : List (List Byte)) : State × MigRow × List (List Byte) × Option EngErr :=
      if migHome s p k r then
        let (s, e) := migReturn s p k id { r with old := old } bs
        (s, { r with phase := 2, old := old }, ext, e)
      else
        let (s, n) := sendMigCopy s p k r bs
        (s, { r with phase := 1, acks := n, old := old }, ext, none)
    match currentCopy s p k r with
    | .absent => (s, { r with phase := 3 }, ext, none)
    | .failed e => (s, r, ext, some e)
    | .here d f bs k' => if migHome s p k r && k' == k then (s, { r with phase := 3 }, ext, none) else go bs (some (ownNode s p, k', d.lshard, f.slot)) ext
    | .away => match ext with
      | bs :: rest => go bs ((redirectOf s none k r.row r.table r.ver).map (fun e => (e.node, e.stack, e.lshard, 0))) rest
      | [] => (s, { r with phase := 3 }, [], none)

def migCopyRows (s : State) (p k id : Nat) : List MigRow → List (List Byte) → State × List MigRow × Option EngErr
  | [], _ => (s, [], none)
  | r :: rs, ext =>
    match migCopyRow s p k id r ext with
    | (s', r', _, some e) => (s', r' :: rs, some e)
    | (s', r', ext', none) =>
      let (s'', rs', e) := migCopyRows s' p k id rs ext'
      (s'', r' :: rs', e)

/-- A stack whose copies a batch reads or rewrites is driven by a traffic generator (R291). -/
def batchWaits (s : State) (p k : Nat) (b : MigBatch) : Bool :=
  engineWaits s k || b.rows.any (fun r => match redirectOf s none k r.row r.table r.ver with
    | some e => e.node == ownNode s p && engineWaits s e.stack
    | none => false)

def setBatch (s : State) (b b' : MigBatch) : State := { s with batches := s.batches.map (fun x => if x = b then b' else x) }

/-- INSTALLED when the last row is done; updates and reads that waited for its rows are made (R147, R161, R162). -/
def settleBatch (s : State) (p : Nat) (b b' : MigBatch) : State :=
  serveWaiting (retryLocks (setBatch s b { b' with installed := b'.rows.all (fun r => decide (2 ≤ r.phase)) }) p) p

/-- A ready batch copies its rows in list order. -/
def copyBatch (s : State) (p k : Nat) (b : MigBatch) (ext : List (List Byte)) : State :=
  match migCopyRows s p k b.id b.rows ext with
  | (s', rows, none) => settleBatch s' p b { b with rows := rows }
  | (s', rows, some e) => engFault (setBatch s' b { b with rows := rows }) p k true e

def execMigrationCopyStart (k : Stack) (batch : Byte) (ext : List (List Byte)) (s : State) (ecc : Ecc := .none) : Host.Outcome State Fault Refusal :=
  .next (
    let p := partOfStack s k
    match s.batches.find? (fun b => b.stack == k.val && b.id == batch.toNat && b.ready && !b.installed) with
    | some b => if !running s p || batchWaits s p k b then s else underEcc s ecc (fun s => copyBatch s p k b ext)
    | none => s)

/-- The serving engine stores a copy through the creation path (R162). A copy that fails the checks raises the fault that a contribution
would, UPDATE_MISROUTED for a mismatch, which the spec does not name here (log 83). -/
def takeMigCopy (s : State) (p : Nat) (m : MigCopy) : State :=
  let k := m.home.stack.toNat
  let t := m.table.toNat
  let row := m.row.toNat
  let ack (s : State) (stored : Bool) : State := emit s p (.migAck m.src.toNat m.srcStack.toNat row t m.ver.toNat stored) (srcStack k 0)
  match rowShardFor s p k m.home.lshard.toNat t m.ver.toNat row m.shard.toNat m.digest.toNat with
  | .error e => engFault s p k true e
  | .ok d => match createRow s k d (rowHash s p t row) row (m.record.take (recSize d.fmt d.w)) with
    | .error e => engFault s p k true e
    | .ok none => ack s false
    | .ok (some s') => ack s' true

def execMigrationCopyReceive (p : Part) (m : MigCopy) (s : State) (ecc : Ecc := .none) : Host.Outcome State Fault Refusal :=
  .next (holdFrame s p (.migrationCopyReceive p m ecc) fun s =>
    let k := m.home.stack.toNat
    if !running s p then rxDrop s p m.src.toNat
    else if !suEnabled s p then s
    else if !ownStack s p k then raise s srcTransport K.UPDATE_MISROUTED p
    else if engineWaits s k then { s with stackReqs := s.stackReqs ++ [(p.val, .mig m)] }
    else underEcc s (eccOfStack k ecc) (fun s => takeMigCopy s p m))

/-- An old copy at a place (stack, LSHARD) of this partition, as the row's lookup finds it there. -/
def oldCopy (s : State) (p k l table ver row : Nat) : Except EngErr (Option (Shard × Found)) :=
  match shardFor s p k l table ver (rowShard s p table row) with
  | .error e => .error e
  | .ok d => match findRow s k d (rowHash s p table row) row with
    | .error e => .error e
    | .ok f => .ok (f.map (fun f => (d, f)))

/-- The old copy of a row in a slot is marked MOVED, once its record has passed its check (R88). -/
def markSlot (s : State) (k : Nat) (d : Shard) (slot row : Nat) : Except EngErr State :=
  let bs := hbmRead s (hbmKey k (recOff d slot)) (recSize d.fmt d.w)
  if !unpoisoned s (hbmKey k (recOff d slot)) (recSize d.fmt d.w) || !recGood d.fmt d.w row d.ver bs then .error .corrupt
  else .ok (markMoved s k d ⟨0, 0, slot⟩ bs true)

/-- Clear the directory entry of a found row and rewrite the line: VALID is cleared, and ROW_ID and SLOT keep their values, which the spec does
not state (log 71). -/
def clearFound (s : State) (k : Nat) (d : Shard) (f : Found) : Except EngErr State :=
  match lineAt s k d f.line with
  | none => .error .corrupt
  | some ln =>
    let o := 8 + 8 * f.ent
    let raw := ln.raw.take o ++ leBytes 8 (bitsOf (leNat ((ln.raw.drop o).take 8)) 0 63) ++ ln.raw.drop (o + 8)
    .ok (engWrite s k (lineOff d f.line) (lineMake raw))

def movedMsg (k l : Nat) (r : MigRow) (retired : Bool) : MovedMsg :=
  ⟨BitVec.ofNat 5 k, BitVec.ofNat 15 l, BitVec.ofNat 10 r.table, BitVec.ofNat 16 r.ver, BitVec.ofNat 40 r.row, retired⟩

/-- The state after an engine's work, or its fault. -/
def engDone (s : State) (p k : Nat) : Except EngErr State → State
  | .ok s' => s'
  | .error e => engFault s p k true e

/-- The old copy is marked MOVED where it lies; another node is told to do so. -/
def moveOld (s : State) (p k : Nat) (r : MigRow) : State :=
  match r.old with
  | some (node, k', l, slot) =>
    if node ≠ ownNode s p then emit s p (.moved node (movedMsg k' l r false)) (srcStack k 0)
    else match shardFor s p k' l r.table r.ver (rowShard s p r.table r.row) with
      | .ok d => engDone s p k' (markSlot s k' d slot r.row)
      | .error e => engFault s p k' true e
  | none => s

/-- An order of a hash home on another node about an old copy that lies here: mark it, or release it (R162, R164). -/
def takeMoved (s : State) (p : Nat) (m : MovedMsg) : State :=
  let k := m.stack.toNat
  if !suEnabled s p then s
  else if !ownStack s p k then raise s srcTransport K.UPDATE_MISROUTED p
  else if engineWaits s k then { s with stackReqs := s.stackReqs ++ [(p, .moved m)] }
  else match oldCopy s p k m.lshard.toNat m.table.toNat m.ver.toNat m.row.toNat with
    | .error e => engFault s p k true e
    | .ok none => s
    | .ok (some (d, f)) => engDone s p k (if m.retired then clearFound s k d f else markSlot s k d f.slot m.row.toNat)

/-- Once a copy is acknowledged, the Redirect entry becomes ACTIVE and the old copy is marked (R162). -/
def migActivate (s : State) (p k : Nat) (b : MigBatch) (r : MigRow) : State :=
  let s := putRedirect s none k ⟨r.row, r.table, r.ver, r.node, r.stack, r.lshard⟩
  let s := redirectEcho s p k r.row r.table r.ver 0 (r.node, r.stack, r.lshard) b.id r.old
  redirectEcho (moveOld s p k r) p k r.row r.table r.ver 1 (r.node, r.stack, r.lshard) b.id r.old

/-- A copy was not stored: the row stays where it is. -/
def migTargetFull (s : State) (p k : Nat) (b : MigBatch) (mine : MigRow → Bool) : State :=
  raise (settleBatch s p b { b with rows := b.rows.map (fun r => if mine r then { r with phase := 3 } else r) }) (srcStack k 0) K.MIG_TARGET_FULL p

/-- One acknowledgement of a stored copy; the last moves the row. -/
def migAcked (s : State) (p k : Nat) (b : MigBatch) (mine : MigRow → Bool) : State :=
  let step (r : MigRow) : MigRow := if r.acks ≤ 1 then { r with phase := 2, acks := 0 } else { r with acks := r.acks - 1 }
  let rows := b.rows.map (fun r => if mine r then step r else r)
  let s := (b.rows.filter (fun r => mine r && decide (r.acks ≤ 1))).foldl (fun s r => migActivate s p k b r) s
  settleBatch s p b { b with rows := rows }

/-- A traffic generator drives the hash home's stack or that of an old copy of the batch here (R291). -/
def ackWaits (s : State) (p k : Nat) (b : MigBatch) : Bool :=
  batchWaits s p k b || b.rows.any (fun r => match r.old with | some (n, k', _, _) => n == ownNode s p && engineWaits s k' | none => false)

/-- The batch of an engine that waits for an acknowledgement of the row. -/
def ackBatch (s : State) (k row table ver : Nat) : Option MigBatch :=
  s.batches.find? (fun b => b.stack == k && b.rows.any (fun r => r.row == row && r.table == table && r.ver == ver && r.phase == 1))

/-- An acknowledgement of a migration copy; it waits for the stacks that it acts on. -/
def takeMigAck (s : State) (p k row table ver : Nat) (stored : Bool) : State :=
  let mine (r : MigRow) : Bool := r.row == row && r.table == table && r.ver == ver && r.phase == 1
  match ackBatch s k row table ver with
  | none => s
  | some b =>
    if ackWaits s p k b then { s with stackReqs := s.stackReqs ++ [(p, .migAck k row table ver stored)] }
    else if stored then migAcked s p k b mine else migTargetFull s p k b mine

def execMigrationCopyAck (k : Stack) (row : BitVec 40) (table : BitVec 10) (ver : BitVec 16) (stored : Bool) (s : State) :
    Host.Outcome State Fault Refusal :=
  .next (
    let p := partOfStack s k
    if running s p then takeMigAck s p k row.toNat table.toNat ver.toNat stored else s)

/-! ### Retirement of old copies (R164) -/

/-- The place of an old copy holds the row's current copy again: the row has come back to it since (DEDUCED: what has become current is no old
copy; R162, R164, log 82). -/
def currentAgain (s : State) (p k : Nat) (r : MigRow) (node k' l : Nat) : Bool :=
  match redirectOf s none k r.row r.table r.ver with
  | some e => e.node == node && e.stack == k' && e.lshard == l
  | none => node == ownNode s p && k' == k

/-- Release the old copy of a row wherever it lies, and tell the partner; another node is told to clear its entry (R164, R339). -/
def clearEntry (s : State) (p k : Nat) (b : MigBatch) (r : MigRow) : State × Option EngErr :=
  let echo (s : State) : State := redirectEcho s p k r.row r.table r.ver 2 (r.node, r.stack, r.lshard) b.id r.old
  match r.old with
  | none => (s, none)
  | some (node, k', l, slot) =>
    if currentAgain s p k r node k' l then (s, none)
    else if node ≠ ownNode s p then (echo (emit s p (.moved node (movedMsg k' l r true)) (srcStack k 0)), none)
    else match oldCopy s p k' l r.table r.ver r.row with
    | .error e => (s, some e)
    | .ok none => (s, none)
    | .ok (some (d, f)) =>
      if f.slot ≠ slot then (s, none)
      else match clearFound s k' d f with
        | .error e => (s, some e)
        | .ok s' => (echo s', none)

def retireRows (s : State) (p k : Nat) (b : MigBatch) : List MigRow → State × Option EngErr
  | [] => (s, none)
  | r :: rs =>
    if r.phase = 2 then (match clearEntry s p k b r with
      | (s', none) => retireRows s' p k b rs
      | (s', some e) => (s', some e))
    else retireRows s p k b rs

/-- The batch a MIGRATION_RETIRE event names. -/
def retireBatch (s : State) (e : FiredEv) : Option MigBatch :=
  s.batches.find? (fun b => b.stack == e.target && b.id == e.arg0 % 256)

/-- The event may act: its batch is INSTALLED, or there is none (R161), and no traffic generator drives the stack (R291). -/
def retireReady (s : State) (e : FiredEv) : Bool :=
  match retireBatch s e with | some b => b.installed && !engineWaits s b.stack | none => true

def migrationRetire (s : State) (p : Nat) (e : FiredEv) : State :=
  match (if ownStack s p e.target then retireBatch s e else none) with
  | none => raise s srcStepTime K.MIG_RETIRE_FAILED p
  | some b =>
    let s := { s with batches := s.batches.filter (fun x => x != b) }
    match retireRows s p b.stack b b.rows with
    | (s', none) => s'
    | (s', some x) => engFault s' p b.stack true x

end Sys2Proof.Machine
end

