-- ==== Sys2Proof/Machine/Decision.lean ====
section
/-!
DEFINITION. The step-decision unit (spec/11 R300 to R309, R519): norm records and passes, reduction, clip factor and vote, decision records,
and COMMIT_DECIDE.
-/

namespace Sys2Proof.Machine

def sdState (s : State) (p : Nat) : Nat := rd s p R.SD_STATUS_SD_STATE
def setSdState (s : State) (p v : Nat) : State := wr s p R.SD_STATUS_SD_STATE v
def sdStep (s : State) (p : Nat) : Nat := rd s p R.SD_STATUS_SD_STEP

/-- Tiles that contribute a norm record, ascending (R301). -/
def sdTiles (s : State) (p : Nat) : List Nat := (tilesOf s p).filter (fun t => bitAt (rd s p R.SD_TILE_MASK_MASK (t / 64)) (t % 64))

/-- The unit goes to IDLE; partials and result are discarded (R303). -/
def sdIdle (s : State) (p : Nat) : State :=
  let s := { s with sdRecs := mapErase s.sdRecs p, sdParts := mapErase s.sdParts p, sdSkip := s.sdSkip.filter (· != p)
                    sdSent := s.sdSent.filter (· != p), norms := s.norms.filter (fun x => partOfStack s x.1 != p) }
  setSdState s p 0

/-- Enter COLLECTING for step n: read the norm records and start the norm passes (R301 to R303). -/
def sdCollect (s : State) (p n : Nat) : State :=
  let s := setSdState (wr (sdIdle s p) p R.SD_STATUS_SD_STEP n) p 1
  let recs := (sdTiles s p).map (fun t => leNat (sramRead s (spKey t (rd s p R.SD_REC_NR_OFF)) 16))
  if recs.any (fun x => bytesAt x 8 4 != n % 2 ^ 32) then raise (sdIdle s p) srcTransport K.NORM_STALE p
  else
    let s := { s with sdRecs := mapSet s.sdRecs p (recs.map (fun x => (BitVec.ofNat 32 (bytesAt x 0 4), BitVec.ofNat 32 (bytesAt x 4 4), bitAt x 96))) }
    if rdb s p R.SD_CFG_SPARSE_EN then
      { s with norms := (stacksOf s p).foldl (fun m k => mapSet m k ⟨n, false, 0, 0⟩) s.norms }
    else s

/-! ### Norm passes (R302) -/

/-- The rows of a pass: groups of stored contributions of tables with CLIP_EN. -/
def normRows (s : State) (p k n : Nat) : List (List Contribution) :=
  ((groupBy rowKey (heldOf s none k n)).map (·.2)).filter (fun l => match l with
    | c :: _ => (coeffOf s p c.table.toNat).clipEn
    | [] => false)

def normOf (s : State) (p k n : Nat) : Half × Nat :=
  (normRows s p k n).foldl (fun (a, f) l =>
    let g := match l with | c :: _ => rowGradient (tblWidth s p c.table.toNat) l | [] => []
    (g.foldl (fun a x => fAdd a (fMul x x)) a, satHalf (f + (g.filter (fun x => !fIsFinite x)).length))) (0, 0)

def execNormPassDone (k : Stack) (s : State) : Host.Outcome State Fault Refusal :=
  .next (
    let p := partOfStack s k
    match mapFind s.norms k with
    | some x =>
      if running s p && !x.done && sdState s p == 1 && !engineWaits s k then
        let (a, f) := normOf s p k x.step
        { s with norms := mapSet s.norms k ⟨x.step, true, a, BitVec.ofNat 32 f⟩ }
      else s
    | none => s)

/-! ### Collection and reduction (R303 to R305, R519) -/

/-- The local partial (R304). -/
def sdLocalOf (s : State) (p : Nat) : Half × Nat × Bool :=
  let recs := mapGet [] s.sdRecs p
  let ns := (stacksOf s p).filterMap (mapFind s.norms)
  let a := recs.foldl (fun (a, f, b) r => (fAdd a r.1, satHalf (f + r.2.1.toNat), b || r.2.2)) ((0 : Half), 0, false)
  ns.foldl (fun (a, f, b) x => (fAdd a x.sumsq, satHalf (f + x.nonfin.toNat), b)) a

def execSdLocalPartial (p : Part) (s : State) : Host.Outcome State Fault Refusal :=
  .next (
    if running s p && sdState s p == 1 && (stacksOf s p).all (fun k => match mapFind s.norms k with | some x => x.done | none => true) then
      let (a, f, b) := sdLocalOf s p
      let s := wr (wr s p R.SD_LOCAL_LOCAL_SUMSQ a.toNat) p R.SD_LOCAL_LOCAL_NONFIN f
      setSdState { s with sdSkip := if b then s.sdSkip ++ [p.val] else s.sdSkip } p 2
    else s)

/-- Children in ST_CHILD order (R43). -/
def stChildren (s : State) (p : Nat) : List Nat := (List.range (rd s p R.ST_TREE_CHILD_CNT)).map (fun j => rd s p R.ST_CHILD_NODE j)
def isMaster (s : State) (p : Nat) : Bool := rdb s p R.ST_CTRL_ROLE

def partialFrom (s : State) (p node : Nat) : Option SdMsg := (mapGet [] s.sdParts p).find? (fun m => m.sender.toNat == node)

/-- The subtree partial; none while a child's is missing (R305). -/
def subtreeOf (s : State) (p : Nat) : Option (Half × Nat × Bool) :=
  (stChildren s p).foldl (fun a node => match a, partialFrom s p node with
    | some (x, f, b), some m => some (fAdd x m.sumsq, satHalf (f + m.nonfin.toNat), b || m.skipReq)
    | _, _ => none)
    (some (BitVec.ofNat 32 (rd s p R.SD_LOCAL_LOCAL_SUMSQ), rd s p R.SD_LOCAL_LOCAL_NONFIN, s.sdSkip.contains p))

/-! ### Result (R306, R307) -/

/-- flag and c of a total (R306): a CLIP_MAX of either zero clips nothing. -/
def clipOf (max32 : Half) (a : Half) (f : Nat) : Bool × Half :=
  let norm := fSqrt a
  let flag := f != 0 || !fIsFinite a
  (flag, if flag then 0 else if max32 = 0 ∨ max32 = 0x80000000#32 ∨ fLe norm max32 then one32 else fDiv max32 norm)

/-- The decision record (R307). -/
def decisionRecord (s : State) (p : Nat) (decided skip : Bool) : List Byte :=
  let a : Half := BitVec.ofNat 32 (rd s p R.SD_RESULT_SUMSQ)
  leBytes 6 (sdStep s p) ++ leBytes 2 0 ++ leBytes 4 a.toNat ++ leBytes 4 (fSqrt a).toNat ++ leBytes 4 (rd s p R.SD_RESULT_CLIP)
    ++ leBytes 4 (rd s p R.SD_RESULT_NF_NONFIN)
    ++ leBytes 1 ((rd s p R.SD_STATUS_FLAG) + (if decided then 2 else 0) + (if skip then 4 else 0)) ++ leBytes 7 0


def writeDecision (s : State) (p : Nat) (decided skip : Bool) : State :=
  let r := (decisionRecord s p decided skip).take 32
  (sdTiles s p).foldl (fun s t => sramWrite s (spKey t (rd s p R.SD_REC_DR_OFF)) r) s

/-- Enter RESULT with the job's total. -/
def sdResult (s : State) (p : Nat) (a : Half) (f : Nat) (b : Bool) : State :=
  let n := sdStep s p
  let m : SdMsg := ⟨BitVec.ofNat 12 (ownNode s p), BitVec.ofNat 48 n, a, BitVec.ofNat 32 f, b⟩
  let s := (stChildren s p).foldl (fun s c => emit s p (.sdResult c m)) s
  let (flag, c) := clipOf (BitVec.ofNat 32 (rd s p R.SD_CLIP_MAX_CLIP_MAX)) a f
  let s := wr (wr s p R.SD_RESULT_SUMSQ a.toNat) p R.SD_RESULT_CLIP c.toNat
  let s := wr (wr s p R.SD_RESULT_NF_NONFIN f) p R.SD_RESULT_NF_SKIP_REQ_ANY b.toNat
  let s := wr s p R.SD_STATUS_FLAG flag.toNat
  let s := if flag || b then wr s p R.ST_STATUS_SKIP_VOTE 1 else s
  let s := { s with clips := mapSet s.clips p (n, c) }
  let s := writeDecision s p false false
  let s := issueInc s (.fab (Fin.ofNat 4 p) (Fin.ofNat 1024 (rd s p R.SD_CTR_DONE_FCTR))) srcTransport 1
  setSdState s p 3

def execSdSubtreeSend (p : Part) (s : State) : Host.Outcome State Fault Refusal :=
  .next (
    if running s p && sdState s p == 2 && !s.sdSent.contains p.val then
      match subtreeOf s p with
      | none => s
      | some (a, f, b) =>
        if isMaster s p then sdResult s p a f b
        else
          let m : SdMsg := ⟨BitVec.ofNat 12 (ownNode s p), BitVec.ofNat 48 (sdStep s p), a, BitVec.ofNat 32 f, b⟩
          emit { s with sdSent := s.sdSent ++ [p.val] } p (.sdPartial (rd s p R.ST_TREE_PARENT_NODE) m)
    else s)

/-- The rows of R519 that partials and results share; `known` says that the sender may send it. -/
def sdCheck (s : State) (p : Nat) (m : SdMsg) (known : Bool) (take : State) : State :=
  if !known then raise s srcTransport K.NORM_UNEXPECTED p
  else
    let d := stepDiff m.step.toNat (sdStep s p)
    if d < 0 then raise s srcTransport K.NORM_DUPLICATE p
    else if sdState s p = 0 ∨ 0 < d then raise s srcTransport K.NORM_UNEXPECTED p
    else if sdState s p = 3 ∨ sdState s p = 4 then raise s srcTransport K.NORM_DUPLICATE p
    else take

def execSdPartialReceive (p : Part) (m : SdMsg) (s : State) : Host.Outcome State Fault Refusal :=
  .next (holdFrame s p (.sdPartialReceive p m) fun s =>
    if !running s p then s
    else sdCheck s p m ((stChildren s p).contains m.sender.toNat)
      { s with sdParts := mapSet s.sdParts p ((mapGet [] s.sdParts p).filter (fun x => x.sender != m.sender) ++ [m]) })

def execSdResultReceive (p : Part) (m : SdMsg) (s : State) : Host.Outcome State Fault Refusal :=
  .next (holdFrame s p (.sdResultReceive p m) fun s =>
    if !running s p then s
    else sdCheck s p m (!isMaster s p && m.sender.toNat == rd s p R.ST_TREE_PARENT_NODE)
      (if sdState s p = 1 then raise s srcTransport K.NORM_UNEXPECTED p else sdResult s p m.sumsq m.nonfin.toNat m.skipReq))

def execNormTimeout (p : Part) (s : State) : Host.Outcome State Fault Refusal :=
  .next (if running s p && (sdState s p == 1 || sdState s p == 2) then raise (sdIdle s p) srcTransport K.NORM_TIMEOUT p else s)

def execVoteSet (port : HPort) (s : State) : Host.Outcome State Fault Refusal :=
  .next (match ctrlAccess s port with | some p => wr s p R.ST_STATUS_SKIP_VOTE 1 | none => ideNote s port)

/-! ### COMMIT_DECIDE (R58, R143, R303, R307, R308) -/

def setDieDecided (s : State) (p n : Nat) (skip : Bool) : State :=
  { s with dieDecided := (diesOf s p).foldl (fun m d => mapSet m d (n, skip)) s.dieDecided }

/-- COMMIT_DECIDE of step n fires at a partition. -/
def commitDecide (s : State) (p n : Nat) (skip : Bool) : State :=
  let s := wr (setDieDecided s p n skip) p R.ST_STATUS_SKIP_VOTE 0
  let s := wr s p R.SD_STATUS_SKIP skip.toNat
  let s := if sdState s p = 3 ∧ sdStep s p = n then setSdState (writeDecision s p true skip) p 4 else s
  let s := { s with norms := s.norms.filter (fun x => !(partOfStack s x.1 == p && x.2.step == n)) }
  commitEngines s p n skip

/-- The first ARMED COMMIT_DECIDE entry for a step, or for a value. -/
def eventShare (s : State) : Nat := match s.mode with | .pm1 => 256 | .pm2 => 128 | .pm4 => 64
def armedCommit (s : State) (p : Nat) (sel : Nat → Bool) : Option Nat :=
  (List.range (eventShare s)).find? (fun i => rd s p R.EVENT_STATE i == 1 && rd s p R.EVENT_KIND i == 1 && sel (rd s p R.EVENT_EV_WHEN i))

/-- The conditions of R300 that ENABLE needs while SD_EN is set: the collection phase, the counter, the tiles and the records' places. -/
def sdBreach (s : State) (p : Nat) : Bool :=
  let nr := rd s p R.SD_REC_NR_OFF
  let dr := rd s p R.SD_REC_DR_OFF
  let phases := (List.range (rd s p R.ST_CTRL_PHASE_CNT)).map (fun i => rd s p R.ST_PHASE_PHASE i)
  rdb s p R.SD_CFG_SD_EN && (!phases.contains (rd s p R.SD_CFG_COLLECT_PHASE) || decide (fabShare s ≤ rd s p R.SD_CTR_DONE_FCTR)
    || (List.range 256).any (fun t => bitAt (rd s p R.SD_TILE_MASK_MASK (t / 64)) (t % 64) && !((tilesOf s p).contains t && tilePresent s t))
    || nr % 16 != 0 || dr % 32 != 0 || decide (nr < dr + 32 ∧ dr < nr + 16))

/-- Return to READY: collection starts again for SD_STEP when ST_NOW stands between its collection phase and its armed decision (R303). -/
def sdResume (s : State) (p : Nat) : State :=
  let n := sdStep s p
  if sdState s p ≠ 0 ∨ !rdb s p R.SD_CFG_SD_EN then s
  else match armedCommit s p (fun w => w / 65536 == n) with
    | none => s
    | some i =>
      if n * 65536 + rd s p R.SD_CFG_COLLECT_PHASE ≤ stNow s p ∧ stNow s p < rd s p R.EVENT_EV_WHEN i then sdCollect s p n else s

end Sys2Proof.Machine
end

