-- ==== Sys2Proof/Machine/Identity.lean ====
section
/-!
DEFINITION. The identity of the package (spec/16 R414, R416, R417, R423): keys that follow from the unique secret, the certificate chains and the
measurements.
-/

namespace Sys2Proof.Machine

/-- ASCII bytes of a label. -/
def label (t : List Nat) : List Byte := t.map (BitVec.ofNat 8)
/-- "CK4 seal", "CK4 job wrap", "CK4 wrap", "CK4 alias". -/
def labelSeal : List Byte := label [67, 75, 52, 32, 115, 101, 97, 108]
def labelJobWrap : List Byte := label [67, 75, 52, 32, 106, 111, 98, 32, 119, 114, 97, 112]
def labelWrap : List Byte := label [67, 75, 52, 32, 119, 114, 97, 112]
def labelAlias : List Byte := label [67, 75, 52, 32, 97, 108, 105, 97, 115]

/-- The wrap key (R414). -/
def wrapKey : Nat := Config.hkdf Config.uds labelWrap

/-- The sealing key follows UDS and FUSE_SVN (R414). -/
def sealKey (s : State) : Nat := Config.hkdf Config.uds (labelSeal ++ leBytes 1 (rd s 4 R.SEC_STATUS_FUSE_SVN))

/-! ### Measurements (R423) -/

/-- Record measurement i with the SHA-384 digest of its value. -/
def recordMeasure (s : State) (i : Nat) (value : List Byte) : State := { s with measures := mapSet s.measures i (value, Config.sha384 value) }

/-- Measurement 3: FUSE_SVN, IMAGE_SVN, RECOVERED; 4: the owner bank's hash or 48 zero bytes. Both change with their fuses (log 76). -/
def measure3 (s : State) : List Byte :=
  Config.fieldBytes [rd s 4 R.SEC_STATUS_FUSE_SVN, rd s 4 R.SEC_STATUS_IMAGE_SVN, rd s 4 R.SEC_STATUS_RECOVERED]
def measure4 (s : State) : List Byte := leBytes 48 (match s.ownerKey with | some key => Config.sha384 key | none => 0)

/-- The hash of a partition's job authority key (R438). -/
def jobAuthHash (s : State) (p : Nat) : Nat := match mapFind s.jobs p with | some j => Config.sha384 j.authPub | none => 0

/-- Measurement 6 of a partition, as it stands. -/
def measure6 (s : State) (p : Nat) : List Byte :=
  Config.fieldBytes ([R.SEC_STATUS_DBG_AUTH, R.HBM_KEY_STATE_STATE, R.SEC_STATUS_JOB_LOADED, R.SEC_STATUS_MEMBER_LOADED].map (fun f => rd s p f)
    ++ [jobAuthHash s p, ownNode s p, rd s p R.SEC_STATUS_IDE_REQ])

/-! ### Certificates (R417) -/

/-- The values of measurements 1 to 4. -/
def aliasMeasures (s : State) : List Byte := ((List.range 4).map (fun i => (mapGet ([], 0) s.measures (i + 1)).1)).flatten

/-- The alias key of this boot and its certificate, which the DIK signs. -/
def makeAlias (s : State) : State :=
  let key := Config.hkdf Config.uds (labelAlias ++ aliasMeasures s)
  let ext := Config.fieldBytes [rd s 4 R.SEC_STATUS_FUSE_SVN, rd s 4 R.SEC_STATUS_IMAGE_SVN] ++ aliasMeasures s
  { s with aliasKey := key, aliasCert := Config.certDer Config.dikSecret (Config.ecPub key) ext }

/-- The certificate chain of an SPDM slot, the root first. -/
def certChain (s : State) (slot : Nat) : List (List Byte) :=
  [Config.otpCert 0, Config.otpCert 1, Config.otpCert 2, if slot = 0 then s.aliasCert else Config.certDer Config.dikSecret (Config.ecPub wrapKey) []]

/-- Chain 0 without the root, as a handshake message carries it (R431). -/
def peerChain (s : State) : List Byte := (certChain s 0).drop 1 |>.flatten

end Sys2Proof.Machine
end

