-- ==== Sys2Proof/Machine/Fabric.lean ====
section
/-!
DEFINITION. Fabric ports, sessions, retry and routing (spec/12 R310 to R327), and the handshake of sessions (spec/16 R431).
-/

namespace Sys2Proof.Machine

def srcFPort (f : Nat) : Nat := srcHub (8 + f) 0

def portState (s : State) (f : Nat) : Nat := rd s 4 R.FP_STATUS_PSTATE f
def setPortState (s : State) (f v : Nat) : State := wr s 4 R.FP_STATUS_PSTATE v f
def portUp (s : State) (f : Nat) : Bool := portState s f == 2 || portState s f == 3
def fabEn (s : State) (p : Nat) : Bool := rdb s p R.FAB_CTRL_FAB_EN

def peerNode (s : State) (k : Nat) : Nat := rd s 4 R.FP_PEER_NODE (k / 32) (k % 32)
def peerValid (s : State) (k : Nat) : Bool := rdb s 4 R.FP_PEER_VALID (k / 32) (k % 32)
def sessPart (s : State) (k : Nat) : Nat := partOfFPort s (k / 32)

/-- A LINK frame leaves on a peer entry. Those of a session have their own counter, which may not reach 2^48 (R321). -/
def sendLink (s : State) (k : Nat) (m : LinkMsg) : State :=
  if sessOpen s k then
    let e := sess s k
    if 2 ^ 48 - 1 ≤ e.link then exhaustSess s k
    else post (setSess s k { e with link := e.link + 1 }) (sessPart s k) (.link (k / 32) (k % 32) m)
  else post s (sessPart s k) (.link (k / 32) (k % 32) m)

def portSessions (f : Nat) : List Nat := (List.range 32).map (fun i => 32 * f + i)

/-! ### Opening and closing sessions (R318, R324) -/

/-- Close a session: its frames not acknowledged go to the sessions that R323 now chooses, or wait ahead of later frames. The refusal
episode of the entry stays. -/
def closeSess (s : State) (k : Nat) : State := drainWait (shutSess s k) (sessPart s k)

/-- "cft i2r" and "cft r2i" (R432). -/
def labelI2r : List Byte := label [99, 102, 116, 32, 105, 50, 114]
def labelR2i : List Byte := label [99, 102, 116, 32, 114, 50, 105]

/-- The key and the salt of a direction of a session, from its secret S(d, e): labels "key" and "salt" (R432). -/
def dirKey (secret : Nat) : Nat := Config.hkdf secret (label [107, 101, 121]) % 2 ^ 256
def dirSalt (secret : Nat) : Nat := Config.hkdf secret (label [115, 97, 108, 116]) % 2 ^ 32

/-- What a session keeps of its handshake: the secrets S(d, 0) of its two directions, from the transcript hash and Z. The ephemeral key, the
transcript and Z are erased (R432; that the transcript ends with KA3 is DEDUCED, log 84). -/
def freshSess (s : State) (k : Nat) (device : BitVec 384) : Sess :=
  let e := sess s k
  let secret := Config.hkdfExtract (Config.sha384 e.trans) e.z
  let i2r := Config.hkdf secret labelI2r
  let r2i := Config.hkdf secret labelR2i
  let initiator := decide (ownNode s (sessPart s k) < peerNode s k)
  { device := device, txSecret := if initiator then i2r else r2i, rxSecret := if initiator then r2i else i2r }

/-- A session is admitted; frames that wait for its next hop are sent. -/
def openSess (s : State) (k : Nat) (device : BitVec 384) : State :=
  drainWait (countSess (wrb (setSess s k (freshSess s k device)) 4 R.FP_PEER_OPEN true (k / 32) (k % 32)) (k / 32)) (sessPart s k)

/-- The refusal episode of an entry ends (R318). -/
def endEpisode (s : State) (k : Nat) : State := setSess s k { sess s k with refused := false, conflict := false }

/-- The handshake is abandoned: its ephemeral key, transcript and shared secret are erased (R431, R432). -/
def abandonKa (e : Sess) : Sess := { e with stage := 0, eph := 0, trans := [], z := 0 }

/-- A refusal: the handshake is abandoned, and the first of an episode raises SESSION_REFUSED (R318). -/
def refuseSess (s : State) (k : Nat) : State :=
  let e := sess s k
  let s := setSess s k { abandonKa e with refused := true }
  if e.refused then s else raise s (srcSess k) K.SESSION_REFUSED (sessPart s k)

/-- A HELLO with the own node ID is refused with its own fault, once an episode (R319). -/
def conflictSess (s : State) (k : Nat) : State :=
  let e := sess s k
  let s := setSess s k { abandonKa e with conflict := true }
  if e.conflict then s else raise s (srcSess k) K.NODE_ID_CONFLICT (sessPart s k)

/-- The port leaves UP and UP_HALF. -/
def closePort (s : State) (f : Nat) : State := (portSessions f).foldl (fun s k => endEpisode (closeSess s k) k) s

/-- Every session of a partition closes (R429, R435). -/
def closePart (s : State) (p : Nat) : State := (fportsOf s p).foldl (fun s f => (portSessions f).foldl closeSess s) s

/-- HELLO to each valid entry of a port (R312, R318). -/
def helloAll (s : State) (f : Nat) : State :=
  (portSessions f).foldl (fun s k => if peerValid s k && !sessOpen s k then sendLink s k .hello else s) s

/-! ### Ports (R310 to R312) -/

/-- EN of a port is written, or FAB_EN of its partition changes: the port starts training, or closes. -/
def portRun (s : State) (f : Nat) : State :=
  if rdb s 4 R.FP_CTRL_EN f && fabEn s (partOfFPort s f) then (if portState s f = 0 then setPortState s f 1 else s)
  else if portState s f = 0 then s
  else wr (setPortState (closePort s f) f 0) 4 R.FP_STATUS_LANE_LOCK 0 f

def portWrite (s : State) (port f : Nat) (body : State → State) : State :=
  match ctrlAccess s port with
  | some p => if partOfFPort s f = p then body s else s
  | none => ideNote s port

def execPortEnable (port : HPort) (f : FPort) (s : State) : Host.Outcome State Fault Refusal :=
  .next (portWrite s port f (fun s => portRun (wrb s 4 R.FP_CTRL_EN true f) f))

def execPortDisable (port : HPort) (f : FPort) (s : State) : Host.Outcome State Fault Refusal :=
  .next (portWrite s port f (fun s => portRun (wrb s 4 R.FP_CTRL_EN false f) f))

def portRetrain (s : State) (f : Nat) : State := if portState s f = 3 then setPortState (closePort s f) f 1 else s

def execRetrain (port : HPort) (f : FPort) (s : State) : Host.Outcome State Fault Refusal :=
  .next (portWrite s port f (fun s => portRetrain s f))

def execLinkTrained (f : FPort) (lanes : BitVec 4) (s : State) : Host.Outcome State Fault Refusal :=
  .next (
    if s.safe || portState s f != 1 || s.fabBad.contains f.val then s
    else
      let s := wr s 4 R.FP_STATUS_LANE_LOCK lanes.toNat f
      if lanes = 0xF#4 then helloAll (setPortState s f 2) f
      else if (lanes = 0x3#4 ∨ lanes = 0xC#4) ∧ rdb s 4 R.FP_CTRL_HALF_OK f then
        raise (helloAll (setPortState s f 3) f) (srcFPort f) K.LINK_DEGRADED (partOfFPort s f)
      else s)

def execLinkTrainTimeout (f : FPort) (s : State) : Host.Outcome State Fault Refusal :=
  .next (
    if s.safe || portState s f != 1 then s
    else
      let n := mapGet 0 s.trainFails f + 1
      let s := wrSat { s with trainFails := mapSet s.trainFails f.val n } 4 R.FP_TRAIN_TRAIN_FAILS 1 f
      if n % 8 = 0 then raise s (srcFPort f) K.LINK_TRAIN_FAIL (partOfFPort s f) else s)

/-- `lanes` are the lanes still locked. -/
def execLinkDown (f : FPort) (lanes : BitVec 4) (s : State) : Host.Outcome State Fault Refusal :=
  .next (
    let had := BitVec.ofNat 4 (rd s 4 R.FP_STATUS_LANE_LOCK f)
    if s.safe || !portUp s f || had &&& lanes == had then s
    else
      let s := wrSat (closePort s f) 4 R.FP_TRAIN_DOWN_CNT 1 f
      raise (wr (setPortState s f 1) 4 R.FP_STATUS_LANE_LOCK lanes.toNat f) (srcFPort f) K.LINK_DOWN (partOfFPort s f))

/-! ### HELLO and key agreement (R318, R319, R431) -/

def jobReady (s : State) (p : Nat) : Bool := match mapFind s.jobs p with | some j => j.member.isSome | none => false

/-- An entry that HELLO and key agreement reach. -/
def entryLive (s : State) (k : Nat) : Bool := !s.safe && portUp s (k / 32) && peerValid s k && !sessOpen s k

/-- What a HELLO of a node says, as the transcript takes it (R318, R431). -/
def helloBytes (s : State) (p node : Nat) : List Byte :=
  Config.fieldBytes [node, rd s p R.FAB_PREFIX_PREFIX, rd s p R.FAB_JOB_ID_JOB_ID, rd s p R.FAB_CTRL_MAX_PAYLOAD]

/-- HELLO in both directions, the initiator's first. The peer's agrees with this partition's in all but the node. -/
def helloTrans (s : State) (k : Nat) : List Byte :=
  let p := sessPart s k
  helloBytes s p (min (ownNode s p) (peerNode s k)) ++ helloBytes s p (max (ownNode s p) (peerNode s k))

/-- The bytes of a key-agreement message that its signature covers after the transcript so far, and all of them (R431). -/
def KaMsg.body (m : KaMsg) : List Byte := m.pub ++ leBytes 32 m.rnd ++ m.chain ++ m.member ++ m.measure6
def KaMsg.bytes (m : KaMsg) : List Byte := m.body ++ m.sig

/-- A fresh ephemeral key, and 32 random bytes: the free value after it. -/
def ephKey (s : State) : Nat := freshNat s
def ephRnd (s : State) : Nat := freshNat (tickFree s) % 2 ^ 256

/-- KA1, and a message in which this partition proves itself (R431). `own` holds the ephemeral public key and random bytes, where it carries
them. -/
def ka1Msg (s : State) : KaMsg := { pub := Config.ecPub (ephKey s), rnd := ephRnd s }
def proofMsg (s : State) (k : Nat) (trans : List Byte) (own : KaMsg) : KaMsg :=
  let p := sessPart s k
  let member := match mapFind s.jobs p with | some j => j.member.getD [] | none => []
  let m : KaMsg := { own with chain := peerChain s, member := member, measure6 := measure6 s p }
  { m with sig := Config.ecdsaSign s.aliasKey (trans ++ m.body) }

/-- The initiator generates its ephemeral key and sends KA1. -/
def sendKa1 (s : State) (k : Nat) : State :=
  let m := ka1Msg s
  let s' := tickFree (tickFree (setSess s k { sess s k with eph := ephKey s, trans := (sess s k).trans ++ m.bytes }))
  sendLink s' k (.ka 1 m)

def execHelloReceive (f : FPort) (i : Fin 32) (h : Hello) (s : State) : Host.Outcome State Fault Refusal :=
  .next (
    let k := 32 * f.val + i.val
    let p := sessPart s k
    if !entryLive s k then s
    else if h.node.toNat = ownNode s p then conflictSess s k
    else if h.node.toNat ≠ peerNode s k ∨ h.pfx.toNat ≠ rd s p R.FAB_PREFIX_PREFIX ∨ h.jobId.toNat ≠ rd s p R.FAB_JOB_ID_JOB_ID
        ∨ h.maxPayload.toNat ≠ rd s p R.FAB_CTRL_MAX_PAYLOAD then refuseSess s k
    else
      let s := tickFree (setSess s k { abandonKa (sess s k) with stage := 1, tag := s.freeCtr, trans := helloTrans s k })
      if ownNode s p < peerNode s k ∧ jobReady s p then sendKa1 s k else s)

def execHelloRepeat (f : FPort) (i : Fin 32) (s : State) : Host.Outcome State Fault Refusal :=
  .next (
    let k := 32 * f.val + i.val
    if entryLive s k then sendLink s k .hello else s)

/-- A certificate that is in the cache is not verified again; one that verifies is cached (R431). -/
def certCheck (s : State) (p : Nat) (bytes : List Byte) (ok : Bool) : State × Bool :=
  let h := Config.sha384 bytes
  if s.certCache.contains (p, h) then (s, true)
  else if ok then
    (if (s.certCache.filter (fun x => x.1 == p)).length < 4096 then { s with certCache := s.certCache ++ [(p, h)] } else s, true)
  else (s, false)

/-- A peer's message as the transcript takes it. -/
def peerMsg (m : PeerProof) : KaMsg := { pub := m.pub, rnd := m.rnd.toNat, chain := m.chain, member := m.member, measure6 := m.measure6, sig := m.sig }

/-- The peer certificate verifies (R431). -/
def peerVerifies (s : State) (k : Nat) (m : PeerProof) : State × Bool :=
  let p := sessPart s k
  let node := peerNode s k
  match mapFind s.jobs p with
  | none => (s, false)
  | some j =>
    let dev := m.deviceId.toNat
    let (s, chain) := certCheck s p (m.chain ++ leBytes 48 dev) (Config.chainVerifies m.chain dev)
    let (s, member) := certCheck s p m.member (m.member.length == 256 && Config.ecdsaOk j.authPub (m.member.take 160) (m.member.drop 160))
    let x := leNat (m.member.take 64)
    let names := bytesAt x 0 8 == rd s p R.FAB_JOB_ID_JOB_ID && bytesAt x 16 48 == dev
      && (bitsOf x 64 12 == node || s.rebound.contains (p, node, dev))
    let sig := Config.ecdsaOk (Config.certPub m.chain) ((sess s k).trans ++ (peerMsg m).body) m.sig
    (s, chain && member && names && !Config.blockDebug m.measure6 && sig)

/-- Admit a session; a node bound to another session under another device identity is a conflict, unless a takeover rebound it (R319). -/
def openSession (s : State) (k : Nat) (device : BitVec 384) : State :=
  let p := sessPart s k
  let other := (fportsOf s p).any (fun f => (portSessions f).any (fun j =>
    j != k && sessOpen s j && peerNode s j == peerNode s k && (sess s j).device != device))
  let rebind := s.rebound.contains (p, peerNode s k, device.toNat)
  let s := openSess s k device
  if other && !rebind then raise s (srcSess k) K.NODE_ID_CONFLICT p else s

/-- A key-agreement message reaches an entry at the given stage and role (the node with the lower ID is the initiator). -/
def kaStep (s : State) (k stage : Nat) (initiator : Bool) (body : State → State) : State :=
  let p := sessPart s k
  if entryLive s k && jobReady s p && (sess s k).stage == stage && decide (ownNode s p < peerNode s k) == initiator then body s else s

/-- The entry after a message of the handshake: its next stage, and the transcript with the messages `l` after it. -/
def kaSess (e : Sess) (stage : Nat) (l : List KaMsg) : Sess := { e with stage := stage, trans := e.trans ++ (l.map KaMsg.bytes).flatten }

/-- KA1 carries the initiator's ephemeral key and random bytes only. -/
def ka1Of (m : PeerProof) : KaMsg := { pub := m.pub, rnd := m.rnd.toNat }

/-- The responder generates its key, forms Z, signs and sends KA2. -/
def takeKa1 (s : State) (k : Nat) (m : PeerProof) : State :=
  let first := ka1Of m
  let answer := proofMsg s k ((sess s k).trans ++ first.bytes) (ka1Msg s)
  let s' := tickFree (tickFree (setSess s k { kaSess (sess s k) 2 [first, answer] with eph := ephKey s, z := Config.ecdh (ephKey s) m.pub }))
  sendLink s' k (.ka 2 answer)

def execKa1 (f : FPort) (i : Fin 32) (m : PeerProof) (s : State) : Host.Outcome State Fault Refusal :=
  .next (let k := 32 * f.val + i.val; kaStep s k 1 false (fun s => takeKa1 s k m))

/-- The initiator forms Z, signs and sends KA3. -/
def takeKa2 (s : State) (k : Nat) (m : PeerProof) : State :=
  let e := sess s k
  let answer := proofMsg s k (e.trans ++ (peerMsg m).bytes) {}
  sendLink (setSess s k { kaSess e 3 [peerMsg m, answer] with device := m.deviceId, z := Config.ecdh e.eph m.pub }) k (.ka 3 answer)

def execKa2 (f : FPort) (i : Fin 32) (m : PeerProof) (s : State) : Host.Outcome State Fault Refusal :=
  .next (
    let k := 32 * f.val + i.val
    kaStep s k 1 true (fun s =>
      let (s, ok) := peerVerifies s k m
      if ok then takeKa2 s k m else refuseSess s k))

/-- KA3 carries no ephemeral key and no random bytes. -/
def ka3Of (m : PeerProof) : PeerProof := { m with pub := [], rnd := 0 }

def execKa3 (f : FPort) (i : Fin 32) (m : PeerProof) (s : State) : Host.Outcome State Fault Refusal :=
  .next (
    let k := 32 * f.val + i.val
    kaStep s k 2 false (fun s =>
      let (s, ok) := peerVerifies s k (ka3Of m)
      if ok then openSession (sendLink (setSess s k (kaSess (sess s k) 2 [peerMsg (ka3Of m)])) k (.ka 4)) k m.deviceId else refuseSess s k))

def execKa4 (f : FPort) (i : Fin 32) (s : State) : Host.Outcome State Fault Refusal :=
  .next (let k := 32 * f.val + i.val; kaStep s k 3 true (fun s => openSession s k (sess s k).device))

def execHandshakeTimeout (f : FPort) (i : Fin 32) (s : State) : Host.Outcome State Fault Refusal :=
  .next (
    let k := 32 * f.val + i.val
    if entryLive s k && (sess s k).stage != 0 then refuseSess s k else s)

/-- A peer entry is written: NODE in [11:0], VALID in [15] (R318). -/
def peerWrite (s : State) (k v : Nat) : State :=
  let node := v % 4096
  let valid := bitAt v 15
  let s := if sessOpen s k && (!valid || node != peerNode s k) then closeSess s k else s
  let s := if sessOpen s k then endEpisode s k else setSess s k { }
  let s := wrb (wr s 4 R.FP_PEER_NODE node (k / 32) (k % 32)) 4 R.FP_PEER_VALID valid (k / 32) (k % 32)
  if valid && portUp s (k / 32) && !sessOpen s k then sendLink s k .hello else s

def execPeerEntryWrite (port : HPort) (f : FPort) (i : Fin 32) (val : BitVec 16) (s : State) : Host.Outcome State Fault Refusal :=
  .next (portWrite s port f (fun s => peerWrite s (32 * f.val + i.val) val.toNat))

/-! ### Sequence, acknowledgement and replay (R320, R321) -/

/-- Frames below `seq` are acknowledged: they leave the replay buffer, and frames that wait for room in it go. -/
def ackFrames (s : State) (k seq : Nat) : State :=
  let e := sess s k
  drainWait (setSess s k { e with unacked := e.unacked.filter (fun x => seq ≤ x.seq) }) (sessPart s k)

/-- The EPOCH under which a direction sends the frame with a SEQ: both ends count the sequenced frames (R321). -/
def epochOf (seq : Nat) : Byte := BitVec.ofNat 8 (seq / 2 ^ 40)

/-- Replay from the oldest frame not acknowledged, with RETX; a frame's sixteenth replay closes the session (R320). -/
def replay (s : State) (k : Nat) : State :=
  let e := sess s k
  if e.unacked.isEmpty then s
  else
    let l := e.unacked.map (fun u => { u with replays := u.replays + 1 })
    let s := { setSess s k { e with unacked := l } with wire := s.wire ++ l.map (fun u => wireFrame k u.seq (epochOf u.seq) true u.frame) }
    let s := wrSat s 4 R.FP_RETRY_REPLAYS l.length (k / 32)
    if l.any (fun u => u.replays == 16) then raise (closeSess s k) (srcSess k) K.LINK_DOWN (sessPart s k) else s

def sessRuns (s : State) (k : Nat) : Bool := !s.safe && portUp s (k / 32) && sessOpen s k

def execAckReceive (f : FPort) (i : Fin 32) (ackSeq : StepIx) (s : State) : Host.Outcome State Fault Refusal :=
  .next (let k := 32 * f.val + i.val; if sessRuns s k then ackFrames s k ackSeq.toNat else s)

def execNakReceive (f : FPort) (i : Fin 32) (_expected : StepIx) (s : State) : Host.Outcome State Fault Refusal :=
  .next (let k := 32 * f.val + i.val; if sessRuns s k then replay s k else s)

def execReplayTimeout (f : FPort) (i : Fin 32) (s : State) : Host.Outcome State Fault Refusal :=
  .next (let k := 32 * f.val + i.val; if sessRuns s k then replay s k else s)

/-- A malformed frame (R317). -/
def malformed (s : State) (p : Nat) (m : Frame) : Bool :=
  m.ver != 1 || decide (9 ≤ m.cls.toNat) || m.rsvd || decide (maxPayload s p < m.len) || m.len != m.body.length

/-- A tag fails (R321). -/
def authFail (s : State) (k : Nat) : State :=
  let s := wrSat s 4 R.FP_RETRY_AUTH_FAILS 1 (k / 32)
  if (sess s k).authSeen then s
  else raise (setSess s k { sess s k with authSeen := true }) (srcSess k) K.LINK_AUTH_FAIL (sessPart s k)

/-- Another node's access to this node's memory (R258, R271, R316): refused while the key is not loaded (R288), and waiting while a traffic
generator drives the stack (R291). The reply carries the request's MSG_ID (R315). -/
def serveAccess (s : State) (p src unit msg : Nat) (a : RemoteAccess) : State :=
  let x : Space := .hbm a.raw a.stack.toNat a.off.toNat
  let n := if a.bytes.isEmpty then a.read else a.bytes.length
  if x.size < a.off.toNat + n ∨ !ownStack s p a.stack.toNat then s
  else if !keyLoaded s p then raise s srcTransport K.HBM_KEY_ABSENT p
  else if engineWaits s a.stack.toNat then { s with stackReqs := s.stackReqs ++ [(p, .access src unit msg a)] }
  else if a.bytes.isEmpty then
    (match devRead s x n [] with
    | (bs, none) => emit s p (.readData src bs) srcTransport msg
    | (_, some _) => raise s srcTransport K.CHECKSUM_MISMATCH p)
  else
    (match devWrite s p x a.bytes with
    | (s, none) => emit s p (.visible src) srcTransport msg
    | (s, some _) => raise s srcTransport K.CHECKSUM_MISMATCH p)

/-- Frames other than LINK, TAKEOVER, BEACON and COUNTER are discarded and counted in HOLD (R326). -/
def holdDrops (cls : Nat) : Bool := [1, 2, 3, 6, 7].contains cls

/-- A frame is handed up to its partition: what it carries acts here or in the row of its message. -/
def handUp (s : State) (p : Nat) (m : Frame) (ecc : Ecc) : State :=
  if isHold s p && holdDrops m.cls.toNat then wrSat s p R.FAB_STATUS_HOLD_RX_DROPS 1
  else if m.cls = 6 ∧ m.visible then ackVisible s p m.src.toNat m.msgId.toNat
  else match m.access, m.moved with
    | some a, _ =>
      if m.cls = 6 ∧ running s p then
        underEcc s (eccOfStack a.stack.toNat ecc) (fun s => serveAccess s p m.src.toNat m.srcUnit.toNat m.msgId.toNat a)
      else s
    | none, some x => if m.cls = 3 ∧ running s p then takeMoved s p x else s
    | none, none => s

/-- The receiving direction erases S(d, e) at the first frame that it authenticates under EPOCH e + 1 (R321, R432). -/
def rekeyRx (e : Sess) (epoch : Byte) : Sess :=
  if epoch = e.rxEpoch + 1 then { e with rxKey := 0, rxEpoch := epoch, rxSecret := Config.hkdf e.rxSecret labelNext } else e

/-- The receiving direction after a frame in sequence. -/
def takeSeq (e : Sess) (epoch : Byte) : Sess :=
  let e := rekeyRx e epoch
  { e with rx := e.rx + 1, rxKey := e.rxKey + 1 }

/-- Session k has authenticated a frame under an EPOCH. -/
def authed (s : State) (k : Nat) (epoch : Byte) : State :=
  if epoch = (sess s k).rxEpoch + 1 then setSess s k (rekeyRx (sess s k) epoch) else s

/-- A frame is authenticated under an EPOCH that the session still has the key of: its own or the next (R432); a sequenced frame has that of
the key under which its SEQ was first sent. -/
def tagGood (e : Sess) (m : Frame) : Bool :=
  m.tagOk && (m.epoch == e.rxEpoch || m.epoch == e.rxEpoch + 1) && (m.cls == 0 || m.epoch == epochOf m.seq.toNat)

/-- A frame of a session that is in sequence is acknowledged and handed up; a frozen partition's is held (R489). -/
def deliver (s : State) (k : Nat) (m : Frame) (ecc : Ecc) : State :=
  let p := sessPart s k
  let e := sess s k
  let s := sendLink (setSess s k (takeSeq e m.epoch)) k (.ack (e.rx + 1))
  let s := if m.ackValid then ackFrames s k m.ackSeq.toNat else s
  if malformed s p m then raise s (srcSess k) K.FRAME_MALFORMED p
  else if m.dst.toNat ≠ ownNode s p then s
  else holdFrame s p (.frameReceive (Fin.ofNat 12 (k / 32)) (Fin.ofNat 32 k) m ecc) (fun s => handUp s p m ecc)

/-- A frame arrives. MAC control frames are discarded, and frames of another EtherType are discarded and counted (R310). -/
def execFrameReceive (f : FPort) (i : Fin 32) (m : Frame) (s : State) (ecc : Ecc := .none) : Host.Outcome State Fault Refusal :=
  .next (
    let k := 32 * f.val + i.val
    let p := sessPart s k
    if s.safe || !portUp s f || m.macCtl then s
    else if m.etype.toNat ≠ rd s p R.FAB_ETYPE_ETYPE then (if m.fcsOk then wrSat s p R.FAB_STATUS_OTHER_RX 1 else s)
    else if !sessRuns s k then s
    else
      let e := sess s k
      if !m.fcsOk || !tagGood e m then
        let s := if m.fcsOk then authFail s k else s
        sendLink s k (.nak e.rx)
      else if m.cls = 0 then
        let s := authed s k m.epoch
        if malformed s p m then raise s (srcSess k) K.FRAME_MALFORMED p else s
      else if m.seq.toNat != e.rx then sendLink (authed s k m.epoch) k (.nak e.rx)
      else deliver s k m ecc)

/-! ### Routing (R322, R324) -/

def execTransitFrame (f : FPort) (m : Frame) (s : State) : Host.Outcome State Fault Refusal :=
  .next (
    let p := partOfFPort s f
    let n := m.dst.toNat
    if s.safe || n == ownNode s p then s
    else if !hasRoute s p n || m.ttl == 0 then raise (wrSat s p R.FAB_STATUS_ROUTE_DROPS 1) srcTransport K.ROUTE_DROP p
    else drainWait (sendHop s (rd s p R.ROUTE_NEXT_HOP n)
      ⟨⟨p, .frame { m with ttl := m.ttl - 1, retx := false, ackValid := false, ackSeq := 0 }⟩, m.srcUnit.toNat, m.msgId.toNat, 0, m.last⟩) p)

def execNodeUnreachable (p : Part) (hop : Node) (s : State) : Host.Outcome State Fault Refusal :=
  .next (
    if clocked s p && (sessionsTo s p hop.toNat).isEmpty && (s.fabWait.any (fun x => x.1 == p.val && x.2.1 == hop.toNat)) then
      raise { s with fabWait := s.fabWait.filter (fun x => !(x.1 == p.val && x.2.1 == hop.toNat)) } srcTransport K.NODE_UNREACHABLE p
    else s)

/-! ### Fault beacons (R327) -/

def execFaultBeaconSend (f : FPort) (s : State) : Host.Outcome State Fault Refusal :=
  .next (
    if s.safe && portUp s f then
      (portSessions f).foldl (fun s k => if peerValid s k then sendLink s k (.beacon (ownNode s (sessPart s k)) s.safeKind) else s) s
    else s)

def execFaultBeaconReceive (f : FPort) (i : Fin 32) (_node : Node) (_kind : BitVec 12) (s : State) : Host.Outcome State Fault Refusal :=
  .next (let k := 32 * f.val + i.val; if sessRuns s k then raise (closeSess s k) (srcSess k) K.PEER_SAFE (sessPart s k) else s)

/-! ### The fabric block's own fields (R314, R335) -/

/-- A setting of FAB_EN is refused. -/
def fabRefused (s : State) (p : Nat) : Bool :=
  let x := rd s p R.FAB_PREFIX_PREFIX
  !bitAt x 29 || bitAt x 28 || decide (rd s p R.FAB_ETYPE_ETYPE < 0x0600) || rd s p R.FAB_JOB_ID_JOB_ID == 0

/-- After a write of the fabric block's plain fields: a refused FAB_EN is clear again, and the ports follow EN and FAB_EN. -/
def fabAfter (s : State) (p : Nat) (was : Bool) : State :=
  let s := if fabEn s p && !was && fabRefused s p then wrb (wrb s p R.FAB_CTRL_FAB_EN false) p R.FAB_CTRL_CFG_ERR true else s
  (fportsOf s p).foldl portRun s

end Sys2Proof.Machine
end

