-- ==== Sys2Proof/Machine/Coll.lean ====
section
/-!
DEFINITION. Dense collectives (spec/12 R328 to R333, spec/11 R298, R299).
-/

namespace Sys2Proof.Machine

def collKey (p k : Nat) : Nat := 64 * p + k
def srcColl (k : Nat) : Nat := srcHub 20 (0x10 + k)
def collState (s : State) (p k : Nat) : Nat := rd s p R.COLL_SLOT_CSTATE k
def setCollState (s : State) (p k v : Nat) : State := wr s p R.COLL_SLOT_CSTATE v k
def collRun (s : State) (p k : Nat) : CollRun := mapGet { digest := 0, next := 0 } s.colls (collKey p k)
def setCollRun (s : State) (p k : Nat) (x : CollRun) : State := { s with colls := mapSet s.colls (collKey p k) x }

/-- The configuration of a slot. -/
structure Coll where
  kind : Nat
  ifmt : Nat
  ofmt : Nat
  decode : Bool
  n    : Nat
  rank : Nat
  e    : Nat
  gid  : Nat
  rowLen : Nat
  buf  : Nat
  src  : Nat

def collOf (s : State) (p k : Nat) : Coll :=
  { kind := rd s p R.COLL_SLOT_KIND k, ifmt := rd s p R.COLL_SLOT_IFMT k, ofmt := rd s p R.COLL_SLOT_OFMT k
    decode := rdb s p R.COLL_SLOT_DECODE k, n := rd s p R.COLL_SLOT_RANK_CNT k, rank := rd s p R.COLL_SLOT_MY_RANK k
    e := rd s p R.COLL_SLOT_ELEM_CNT k, gid := rd s p R.COLL_SLOT_GROUP_ID k, rowLen := rd s p R.COLL_SLOT_ROW_LEN k
    buf := rd s p R.COLL_SLOT_BUF_ADDR k, src := rd s p R.COLL_SLOT_SRC_ADDR k }

/-- Bytes of an FP32 (0) or BF16 (1) element. -/
def elemSize (fmt : Nat) : Nat := if fmt = 0 then 4 else 2

/-- The first element of chunk c (R330); with DECODE chunks are cut at rows (R332). -/
def Coll.lo (d : Coll) (c : Nat) : Nat := if d.decode then c * (d.e / d.rowLen) / d.n * d.rowLen else c * d.e / d.n
def Coll.count (d : Coll) (c : Nat) : Nat := d.lo (c + 1) - d.lo c

/-- Bytes of the coded segment of chunk c: codebook, scales, codes from the next 64-byte boundary (R332). -/
def Coll.codesAt (d : Coll) (c : Nat) : Nat := (576 + 2 * (d.count c / d.rowLen) + 63) / 64 * 64
def Coll.segBytes (d : Coll) (c : Nat) : Nat := d.codesAt c + d.count c

/-- The length of chunk c in the units of a segment's offset: elements, or bytes of a coded segment. -/
def Coll.units (d : Coll) (c : Nat) : Nat := if d.decode then d.segBytes c else d.count c

/-- Formats of R331. -/
def Coll.admitted (d : Coll) : Bool :=
  match d.kind with
  | 1 | 2 => decide (d.ifmt < 2) && decide (d.ofmt < 2) && !d.decode
  | 3 => if d.decode then d.ifmt == 3 && d.ofmt == 1 && decide (1 ≤ d.rowLen ∧ d.rowLen ≤ 65536) && d.e % d.rowLen == 0
         else decide (d.ifmt < 2) && d.ofmt == d.ifmt
  | _ => false

/-- A range that lies in the partition's HBM or cluster memory. -/
def ownRange (s : State) (p a n : Nat) : Bool :=
  match parseDev a with
  | some (.hbm raw k o) => !raw && partOfStack s k == p && decide (o + n ≤ (Space.hbm raw k o).size)
  | some (.inter raw d o) => !raw && partOfDie s d == p && decide (o + n ≤ (Space.inter raw d o).size)
  | some (.clm c o) => partOfCluster s c == p && decide (o + n ≤ (Space.clm c o).size)
  | _ => false

/-- Nodes of the group list (R328). -/
def groupNodes (bs : List Byte) (n : Nat) : List Nat := (List.range n).map (fun i => bitsOf (leNat ((bs.drop (2 * i)).take 2)) 0 12)

def distinct : List Nat → Bool
  | [] => true
  | x :: l => !l.contains x && distinct l

/-- The list of a slot that may be armed, or none. The list is read as any checked consumer reads it (R86, R271). -/
def armList (s : State) (p k : Nat) : Option (List Byte) :=
  let d := collOf s p k
  let a := rd s p R.COLL_SLOT_GROUP_ADDR k
  let isCtr (n : Nat) : Bool := match resolveName s p (BitVec.ofNat 32 n) with | .ctr _ => true | _ => false
  let named (n : Nat) : Bool := decide (bitsOf n 14 2 < 2) && isCtr n
  if decide (1 ≤ d.n ∧ d.n ≤ 4096) && (checkDev s p a (2 * d.n) false).isNone && d.admitted
      && named (rd s p R.COLL_SLOT_TRIG_NAME k) && named (rd s p R.COLL_SLOT_DONE_NAME k)
      && ownRange s p d.buf (d.e * max (elemSize d.ifmt) (elemSize d.ofmt)) && (!d.decode || ownRange s p d.src 1)
      && !(List.range 64).any (fun j => j != k && (collState s p j == 1 || collState s p j == 2) && rd s p R.COLL_SLOT_GROUP_ID j == d.gid) then
    match devRead s (devSpace s p a) (2 * d.n) [] with
    | (bs, none) =>
      let l := groupNodes bs d.n
      if distinct l && l.contains (ownNode s p) then some bs else none
    | _ => none
  else none

/-- The list of a slot, as an address and its length. -/
def armSpan (s : State) (p k : Nat) : Nat × Nat := (rd s p R.COLL_SLOT_GROUP_ADDR k, 2 * (collOf s p k).n)

/-- The list lies in a memory that a traffic generator drives (R291). -/
def armWaits (s : State) (p k : Nat) : Bool := devTgBusy s (devSpace s p (armSpan s p k).1) (armSpan s p k).2

/-- The fault of the access itself to the list of a slot: the stacks' key, or a block that fails its check (R86, R288). -/
def armFault (s : State) (p k : Nat) : Option Kind :=
  let (a, n) := armSpan s p k
  match checkDev s p a n false with
  | some r => if r = keyAbsent then some K.HBM_KEY_ABSENT else none
  | none => if (devRead s (devSpace s p a) n []).2 = some checksumBad then some K.CHECKSUM_MISMATCH else none

/-- ARM of an IDLE slot whose list can be read now (R328). -/
def armNow (s : State) (p k : Nat) : State :=
  match armList s p k with
    | none =>
      let s' := raise (wrb s p R.COLL_SLOT_ERR true k) (srcColl k) K.COLL_CFG p
      (match armFault s p k with | some f => raise s' (srcColl k) f p | none => s')
    | some bs =>
      let d := collOf s p k
      let l := groupNodes bs d.n
      let r := l.idxOf (ownNode s p)
      let dig := crc32c (bs ++ Config.fieldBytes [d.gid, d.kind, d.ifmt, d.ofmt, d.rowLen, d.e])
      let s := setCollRun s p k { digest := BitVec.ofNat 32 dig, next := l.getD ((r + 1) % d.n) 0, prev := l.getD ((r + d.n - 1) % d.n) 0 }
      setCollState (wr s p R.COLL_SLOT_MY_RANK r k) p k 1

/-- ARM of an IDLE slot (R328); it waits while its list cannot be read (R291). -/
def collArm (s : State) (p k : Nat) (ecc : Ecc) : State :=
  if collState s p k ≠ 0 then s
  else if armWaits s p k then
    (if s.stackReqs.contains (p, .arm k) then s else { s with stackReqs := s.stackReqs ++ [(p, .arm k)] })
  else eccReads s 0 (addrSpans s p [armSpan s p k]) ecc (fun s => armNow s p k)

/-- DISARM takes effect on an ARMED slot only (R329). -/
def collDisarm (s : State) (p k : Nat) : State :=
  if collState s p k = 1 then setCollState { s with colls := mapErase s.colls (collKey p k) } p k 0 else s

/-- A write in the collective slots (R329, R504). -/
def collWrite (s : State) (p off size v : Nat) (arm disarm : Bool) (ecc : Ecc) : State :=
  let k := (off - 0x504000) / 64
  let live := collState s p k == 1 || collState s p k == 2
  let s := fieldsWrite s p off size v false false (fun f _ _ =>
    decide (0x504000 ≤ f.base ∧ f.base < 0x504040) && (!live || f.base == R.COLL_SLOT_TRIG_TGT.base))
  let s := if disarm then collDisarm s p k else s
  if arm then collArm s p k ecc else s

def collAccess (s : State) (a : Access) (bit : Nat) (ecc : Ecc) : State :=
  accessCtl s a (fun p =>
    if 0x504000 ≤ a.off ∧ a.off < 0x505000 ∧ a.off % 64 = 0 ∧ bitAt a.val.toNat bit then
      collWrite s p a.off a.size a.val.toNat (bitAt a.val.toNat 18) (bitAt a.val.toNat 19) ecc
    else s)

def execCollArm (a : Access) (s : State) (ecc : Ecc := .none) : Host.Outcome State Fault Refusal := .next (collAccess s a 18 ecc)
def execCollDisarm (a : Access) (s : State) : Host.Outcome State Fault Refusal := .next (collAccess s a 19 .none)

/-! ### Running (R329 to R332) -/

/-- Element i of the bytes of a buffer, widened. -/
def wideElem (fmt : Nat) (bs : List Byte) (i : Nat) : Half :=
  if fmt = 0 then BitVec.ofNat 32 (leNat ((bs.drop (4 * i)).take 4)) else bf16ToF32 (BitVec.ofNat 16 (leNat ((bs.drop (2 * i)).take 2)))

def narrowElem (fmt : Nat) (x : Half) : List Byte := if fmt = 0 then leBytes 4 x.toNat else leBytes 2 (f32ToBf16 x).toNat

/-- Bytes of one unit of a segment: an FP32 partial, an element of the gather, or a byte of a coded segment. -/
def unitSize (d : Coll) (reduce : Bool) : Nat := if reduce then 4 else if d.decode then 1 else elemSize d.ofmt

/-- Units of a full segment. The gather of an ALL_REDUCE passes on one segment for each segment of partials (R330, R332). -/
def Coll.segUnits (d : Coll) (m : Nat) (reduce : Bool) : Nat := if d.kind = 1 then m / 4 else m / unitSize d reduce

/-- STRIPE of the segment that begins at a unit offset of its chunk (R332). -/
def Coll.stripe (d : Coll) (m : Nat) (reduce : Bool) (off : Nat) : Nat := off / d.segUnits m reduce % 32

def sendSegment (s : State) (p k : Nat) (d : Coll) (reduce : Bool) (c off stripe : Nat) (bs : List Byte) : State :=
  let x := collRun s p k
  emit s p (.segment x.next ⟨BitVec.ofNat 16 d.gid, x.digest, c, off, reduce, bs⟩ stripe k)

/-- Cut a chunk into segments; segment j has STRIPE j mod 32 (R332). -/
def sendChunk (s : State) (p k : Nat) (d : Coll) (reduce : Bool) (c : Nat) (bs : List Byte) : State :=
  let m := maxPayload s p
  (List.range ((bs.length + m - 1) / m)).foldl (fun s j =>
    sendSegment s p k d reduce c (j * m / unitSize d reduce) (j % 32) ((bs.drop (j * m)).take m)) s

/-- Write bytes at element i of the buffer; a block that fails its check stops the collective (R85). -/
def bufWrite (s : State) (p k : Nat) (d : Coll) (i : Nat) (bs : List Byte) : State :=
  match devWrite s p ((devSpace s p d.buf).plus (i * elemSize d.ofmt)) bs with
  | (s, none) => s
  | (s, some _) => raise s (srcColl k) K.CHECKSUM_MISMATCH p

/-- The codebook at the head of a coded segment, over the bytes that its ENTRY_CNT covers (R68); a CRC whose cover
leaves the segment cannot hold (log 78). -/
def segmentBook (bs : List Byte) : Except Refuse (List (BitVec 16)) :=
  let n := 16 + 2 * leNat ((bs.drop 2).take 2)
  if bs.length < n then .error checksumBad
  else match checkCodebook (bs.take n) with
  | .error r => .error r
  | .ok (fmt, _, book) => if fmt = 3 then .ok book else .error (withFault St.BAD_DESC K.CODEBOOK_INVALID)

/-- Decode a coded segment and write its rows (R298). A failed CRC is CHECKSUM_MISMATCH, F2; any other failure CODEBOOK_INVALID, F1, and the
collective ends without success (R68, log 57). The layout of R332 gives each row of the chunk its scale, so none can be missing. -/
def decodeChunk (s : State) (p k : Nat) (d : Coll) (c : Nat) (bs : List Byte) : State :=
  match segmentBook bs with
  | .error r =>
    if r.status = St.CHECKSUM_MISMATCH then raise s (srcColl k) K.CHECKSUM_MISMATCH p
    else raise (setCollRun s p k { collRun s p k with failed := true }) (srcColl k) K.CODEBOOK_INVALID p
  | .ok book =>
    let codes := bs.drop (d.codesAt c)
    let row (r : Nat) : List Byte :=
      let sc := bf16.decode (leNat ((bs.drop (576 + 2 * r)).take 2))
      (List.range d.rowLen).flatMap (fun j =>
        leBytes 2 (bf16.encode (FVal.mul (bf16.decode (book.getD (leNat ((codes.drop (r * d.rowLen + j)).take 1)) 0).toNat) sc)))
    bufWrite s p k d (d.lo c) ((List.range (d.count c / d.rowLen)).flatMap row)

/-- The pieces of a coded chunk in ascending order, when none is missing. -/
def joinParts (l : List (Nat × List Byte)) (n : Nat) : Nat → Nat → Option (List Byte)
  | _, 0 => none
  | at_, fuel + 1 =>
    if at_ = n then some []
    else match l.find? (fun x => x.1 == at_) with
      | some (_, bs) => if bs.isEmpty then none else (joinParts l n (at_ + bs.length) fuel).map (bs ++ ·)
      | none => none

/-- A RUNNING slot takes a segment. -/
def takeSegment (s : State) (p k : Nat) (m : Segment) : State :=
  let d := collOf s p k
  let x := collRun s p k
  let n := m.data.length / unitSize d m.reduce
  if d.n ≤ m.chunk ∨ n = 0 ∨ d.units m.chunk < m.off + n then s
  else
    let s := setCollRun s p k { x with got := x.got ++ [(m.reduce, m.chunk, m.off, n)] }
    let stripe := d.stripe (maxPayload s p) m.reduce m.off
    if m.reduce then
      let i0 := d.lo m.chunk + m.off
      let sums := (List.range n).map (fun i => fAdd (wideElem 0 m.data i) (wideElem d.ifmt x.input (i0 + i)))
      if m.chunk = d.rank then
        let out := sums.flatMap (narrowElem d.ofmt)
        let s := bufWrite s p k d i0 out
        if d.kind = 1 then sendSegment s p k d false m.chunk m.off stripe out else s
      else sendSegment s p k d true m.chunk m.off stripe (sums.flatMap (narrowElem 0))
    else
      let s := if (d.rank + 1) % d.n = m.chunk then s else sendSegment s p k d false m.chunk m.off stripe m.data
      if d.decode then
        let parts := x.parts ++ [(m.chunk, m.off, m.data)]
        let s := setCollRun s p k { collRun s p k with parts := parts }
        let mine := (parts.filter (fun y => y.1 == m.chunk)).map (·.2)
        (match joinParts mine (d.segBytes m.chunk) 0 (mine.length + 1) with
        | some bs => decodeChunk s p k d m.chunk bs
        | none => s)
      else bufWrite s p k d (d.lo m.chunk + m.off) m.data

/-- Where the bytes lie that a slot takes in at its start: its own chunk for a gather, else the whole buffer. -/
def Coll.input (d : Coll) : Nat × Nat :=
  if d.decode then (d.src, d.segBytes d.rank)
  else if d.kind = 3 then (d.buf + d.lo d.rank * elemSize d.ifmt, d.count d.rank * elemSize d.ifmt)
  else (d.buf, d.e * elemSize d.ifmt)

/-- The slot runs, and its trigger target moves on (R329). -/
def collRuns (s : State) (p k : Nat) : State :=
  wrAdd (setCollState s p k 2) p R.COLL_SLOT_TRIG_TGT (rd s p R.COLL_SLOT_TRIG_INC k) k

/-- A slot starts (R329): its own chunk goes out, and the segments that waited are taken. -/
def collStart (s : State) (p k : Nat) : State :=
  let d := collOf s p k
  let x := collRun s p k
  let s := collRuns s p k
  let (a, len) := d.input
  if (spaceKeyed s p a).isSome then raise s (srcColl k) K.HBM_KEY_ABSENT p
  else match devRead s (devSpace s p a) len [] with
  | (_, some _) => raise s (srcColl k) K.CHECKSUM_MISMATCH p
  | (bs, none) =>
    let s := setCollRun s p k { x with failed := false, input := bs, got := [], parts := [], early := [] }
    if d.n = 1 then
      if d.decode then s
      else bufWrite s p k d 0 ((List.range d.e).flatMap (fun i => narrowElem d.ofmt (wideElem d.ifmt bs i)))
    else
      let s :=
        if d.kind = 3 then sendChunk s p k d false d.rank bs
        else
          let c := (d.rank + d.n - 1) % d.n
          sendChunk s p k d true c ((List.range (d.count c)).flatMap (fun i => narrowElem 0 (wideElem d.ifmt bs (d.lo c + i))))
      x.early.foldl (fun s m => takeSegment s p k m) s

/-- A start whose reads meet an ECC event: of cluster memory that the input lies in (R285), or of HBM (R286). -/
def collStartEcc (s : State) (p k : Nat) (ecc : Ecc) : State :=
  let inClm (c : Nat) : Bool := match devSpace s p (collOf s p k).input.1 with | .clm c' _ => c == c' | _ => false
  match ecc with
  | .corrected (.clm c) => if inClm c then collStart (eccCorrected s 0 (.clm c)) p k else collStart s p k
  | .uncorrected (.clm c) => if inClm c then eccUncorrected (collRuns s p k) 0 (.clm c) else collStart s p k
  | _ => underEcc s ecc (fun s => collStart s p k)

/-- The trigger waits while a traffic generator drives the stack of the slot's buffer or segment (R291). -/
def execCollTrigger (p : Part) (k : Fin 64) (s : State) (ecc : Ecc := .none) : Host.Outcome State Fault Refusal :=
  .next (
    let d := collOf s p k
    if running s p && collState s p k == 1 && !devTgBusy s (devSpace s p d.input.1) d.input.2
        && !devTgBusy s (devSpace s p d.buf) (d.e * elemSize d.ofmt) then
      match resolveName s p (BitVec.ofNat 32 (rd s p R.COLL_SLOT_TRIG_NAME k)) with
      | .ctr c => if waitMet s c (BitVec.ofNat 32 (rd s p R.COLL_SLOT_TRIG_TGT k)) then collStartEcc s p k ecc else s
      | _ => s
    else s)

def execCollSegmentReceive (p : Part) (m : Segment) (s : State) : Host.Outcome State Fault Refusal :=
  .next (holdFrame s p (.collSegmentReceive p m) fun s =>
    if !running s p then s
    else
      match (List.range 64).find? (fun k => (collState s p k == 1 || collState s p k == 2) && rd s p R.COLL_SLOT_GROUP_ID k == m.groupId.toNat) with
      | none => raise s srcTransport K.COLL_MISMATCH p
      | some k =>
        let x := collRun s p k
        if m.digest ≠ x.digest then raise (setCollState s p k 3) (srcColl k) K.COLL_MISMATCH p
        else if collState s p k = 1 then setCollRun s p k { x with early := x.early ++ [m] }
        else takeSegment s p k m)

/-- Units of chunk c taken in a direction. -/
def unitsGot (x : CollRun) (reduce : Bool) (c : Nat) : Nat :=
  x.got.foldl (fun a g => if g.1 == reduce && g.2.1 == c then a + g.2.2.2 else a) 0

/-- Every segment a rank expects has come. -/
def collComplete (d : Coll) (x : CollRun) : Bool :=
  d.n == 1 || (List.range d.n).all (fun c =>
    (d.kind == 3 || (c + 1) % d.n == d.rank || unitsGot x true c == d.units c)
      && (d.kind == 2 || c == d.rank || unitsGot x false c == d.units c))

/-- A collective whose last byte is written increments its counter and is ARMED again (R329); one that an error has ended goes to IDLE with ERR
and increments nothing (log 57). -/
def execCollDone (p : Part) (k : Fin 64) (s : State) : Host.Outcome State Fault Refusal :=
  .next (
    if running s p && collState s p k == 2 && collComplete (collOf s p k) (collRun s p k) then
      let x := collRun s p k
      if x.failed then setCollState (wrb { s with colls := mapErase s.colls (collKey p k) } p R.COLL_SLOT_ERR true k) p k 0
      else
        let s := match resolveName s p (BitVec.ofNat 32 (rd s p R.COLL_SLOT_DONE_NAME k)) with
          | .ctr c => issueInc s c (srcColl k) 1
          | _ => s
        let s := setCollRun (wrAdd s p R.COLL_SLOT_RUNS 1 k) p k { digest := x.digest, next := x.next, prev := x.prev }
        setCollState s p k 1
    else s)

def execCollTimeout (p : Part) (k : Fin 64) (s : State) : Host.Outcome State Fault Refusal :=
  .next (if running s p && collState s p k == 2 then raise (setCollState s p k 3) (srcColl k) K.COLL_TIMEOUT p else s)

end Sys2Proof.Machine
end

