-- ==== Sys2Proof/Machine/Freeze.lean ====
section
/-!
DEFINITION. Freeze sources and the entry of a freeze (spec/19 R485, R486, R488). How a freeze ends is in Thaw.lean.
-/

namespace Sys2Proof.Machine

/-- The freeze controller (R441). -/
def srcFreeze : Nat := srcHub 24 0

/-- Bits of ST_FREEZE.SRC (R501). -/
def frzPair : Nat := 0
def frzDebug : Nat := 1
def frzEvent : Nat := 2

def frzSrc (s : State) (p : Nat) : Nat := rd s p R.ST_FREEZE_SRC
def setBit (v b : Nat) (on : Bool) : Nat := v - (if bitAt v b then 2 ^ b else 0) + (if on then 2 ^ b else 0)

/-- The package has booted to READY and is not in SAFE. -/
def booted (s : State) : Bool := !s.safe && rd s 4 R.BOOT_STATUS_STAGE == 9

/-- A source that covers partition p is asserted (R486, R488). -/
def assertSource (s : State) (p b : Nat) : State :=
  let s := wr s p R.ST_FREEZE_SRC (setBit (frzSrc s p) b true)
  if frozen s p then s else wrSat (wr s p R.ST_FREEZE_FSTATE 1) p R.ST_FREEZE_FRZ_COUNT 1

/-- A package source is asserted; before READY it waits for READY (R486). -/
def assertAll (s : State) (b : Nat) : State := if booted s then (partsAll s).foldl (fun s p => assertSource s p b) s else s

/-- Requests in flight have ended: the clocks are gated (R488). -/
def execQuiescent (p : Part) (s : State) : Host.Outcome State Fault Refusal :=
  .next (if !s.safe && rd s p R.ST_FREEZE_FSTATE == 1 then wr s p R.ST_FREEZE_FSTATE 2 else s)

/-- 100 µs without quiescence: the clocks are gated as they stand (R488). -/
def execFreezeForced (p : Part) (s : State) : Host.Outcome State Fault Refusal :=
  .next (if !s.safe && rd s p R.ST_FREEZE_FSTATE == 1 then wrb (wr s p R.ST_FREEZE_FSTATE 2) p R.ST_FREEZE_FORCED true else s)

/-- FRZ_PKG_CTRL.FREEZE acts only while debug is authorised for every partition (R485). -/
def pkgFreeze (s : State) : State :=
  if dbgAll s && !rdb s 4 R.FRZ_PKG_CTRL_HELD then assertAll (wrb s 4 R.FRZ_PKG_CTRL_HELD true) frzDebug else s

/-- The FRZ pair reads asserted; equal levels count as asserted and are noted (R452). -/
def frzPairAssert (s : State) (equalLevels : Bool) : State :=
  let s := if equalLevels then
      raisePkg (wr s 4 R.FC_PAIRS_BROKEN (setBit (rd s 4 R.FC_PAIRS_BROKEN) 4 true)) srcFreeze K.FRZ_PAIR_INVALID
    else s
  if rdb s 4 R.FRZ_PKG_CTRL_PAIR then s else assertAll (wrb s 4 R.FRZ_PKG_CTRL_PAIR true) frzPair

def execFrzPairAssert (equalLevels : Bool) (s : State) : Host.Outcome State Fault Refusal := .next (frzPairAssert s equalLevels)

end Sys2Proof.Machine
end

