-- ==== Sys2Proof/Machine/Flush.lean ====
section
/-!
DEFINITION. Faults of a host queue and the flush reads of its descriptors (spec/14 R373 to R375, spec/15 R408).
-/

namespace Sys2Proof.Machine

def qRaise (s : State) (p q : Nat) (k : Kind) (detail : Nat := 0) : State :=
  raise (if k.cls = 1 then qStall s p q k.code else s) (srcQueue p q) k p 0 detail

/-- A failed access of a queue is counted at its port. -/
def countDmaErr (s : State) (k : Nat) (port : Option Nat) : State :=
  match port with
  | some h => if k = K.HOST_DMA_ERROR.code then wrSat s 4 R.HP_STATUS_DMA_ERRS 1 h else s
  | none => s

/-- The ports that a descriptor's flush reads go to: with FENCE_ALL each port that carried a write, with FLUSH the queue's own (R373, R374). -/
def flushPorts (s : State) (p q : Nat) (d : QDesc) : List (Nat × Nat) :=
  if d.flag 2 then d.wrote else if d.flag 1 then d.wrote.filter (fun x => x.1 == qOwner s p q) else []

/-- A flush read of a descriptor has ended. The record is written when all have; it carries HOST_ABORT if one has failed (R375). -/
def flushEnd (s : State) (p q : Nat) (d : QDesc) (port : Nat) (ok : Bool) : State :=
  if !d.flushWait.contains port then s
  else
    let d := { d with flushWait := d.flushWait.filter (· != port), status := if ok then d.status else St.HOST_ABORT }
    let s := if d.flushWait.isEmpty then qRecord (dropDesc s p q d) p q (descRec d d.status d.info) else putDesc s p q d
    if ok then s else qRaise (countDmaErr s K.HOST_DMA_ERROR.code (some port)) p q K.HOST_DMA_ERROR St.HOST_ABORT

/-- Issue the flush reads together, in ascending port number, each of no bytes at the last address written on its port. One through a port that
cannot be used fails (R375, R381). -/
def issueFlush (s : State) (p q : Nat) (d : QDesc) (pasid : Option Nat) : State :=
  let l := flushPorts s p q d
  let (ok, bad) := l.partition (fun x => portUsable s x.1)
  let s := ok.foldl (fun s x => hostRead s x.1 x.2 0 false pasid)
    (putDesc s p q { d with flushing := true, flushWait := l.map (·.1) })
  bad.foldl (fun s x => match (hq s p q).descs.find? (fun y => sameDesc y d) with
    | some y => flushEnd s p q y x.1 false
    | none => s) s

/-- Flush reads through a port that is lost fail; a queue of that port itself writes no record (R375, R382). -/
def lostFlushes (s : State) (p h : Nat) : State :=
  (List.range 256).foldl (fun s q => ((hq s p q).descs.filter (·.flushWait.contains h)).foldl (fun s d =>
    if qOwner s p q = h then qRaise (countDmaErr s K.HOST_DMA_ERROR.code (some h)) p q K.HOST_DMA_ERROR St.HOST_ABORT
    else flushEnd s p q d h false) s) s

/-- A flush read of the descriptor at ring index `idx` ends on a port (R375). -/
def flushDone (s : State) (p q idx port : Nat) (ok : Bool) : State :=
  match (hq s p q).descs.find? (fun d => d.idx == idx && d.flushWait.contains port) with
  | some d => flushEnd s p q d port ok
  | none => s

end Sys2Proof.Machine
end

