-- ==== Sys2Proof/Machine/Store.lean ====
section
/-!
DEFINITION. The configuration store's records (spec/18 R478 to R481): what is in force, and the records that are requested.
-/

namespace Sys2Proof.Machine

/-- MODE codes (R28). -/
def modeCode : PMode → Nat
  | .pm1 => 0 | .pm2 => 1 | .pm4 => 2
def modeOf : Nat → PMode
  | 1 => .pm2 | 2 => .pm4 | _ => .pm1

/-- KEY of a partition's records: 4 * mode + partition (R481). -/
def partKey (s : State) (p : Nat) : Nat := 4 * modeCode s.mode + p

/-- The record in force of a type and key: the last in the bank (R479). -/
def inForce (s : State) (typ key : Nat) : Option CsRec := s.store.reverse.find? (fun r => r.typ == typ && r.key == key)

/-- Request a record; Anise commits it later (R480). -/
def csWant (s : State) (r : CsRec) (w : CsWhy) : State := { s with csWants := s.csWants ++ [(r, w)] }

/-- Bytes a record takes in its bank (R479). -/
def recBytesUsed (r : CsRec) : Nat := (16 + (r.payload.length + 7) / 8 * 8 + 8 + 63) / 64 * 64

/-- FILL_PCT of the current bank of 8 MiB (R478, R484). -/
def storeFill (l : List CsRec) : Nat := min 100 ((l.foldl (fun a r => a + recBytesUsed r) 64) * 100 / 2 ^ 23)

def refreshFill (s : State) : State := wr s 4 R.CS_STATUS_FILL_PCT (storeFill s.store)

/-- The sealed secret in force of a partition: the last of its SEALED and UNSEAL records (R481). -/
def sealedRec (s : State) (key : Nat) : Option CsRec :=
  match s.store.reverse.find? (fun r => (r.typ == 7 || r.typ == 8) && r.key == key) with
  | some r => if r.typ = 7 then some r else none
  | none => none

/-- A record in its bank: header, payload, the marker committed (R479), padded to the next boundary of 64 bytes as an erased bank reads. -/
def csRecBytes (r : CsRec) : List Byte :=
  let pay := r.payload ++ List.replicate ((8 - r.payload.length % 8) % 8) 0
  let head (crc : Nat) : List Byte :=
    leBytes 1 r.typ ++ leBytes 1 0 ++ leBytes 2 r.payload.length ++ leBytes 4 r.key ++ leBytes 4 0 ++ leBytes 4 crc
  let all := head (crc32c (head 0 ++ r.payload)) ++ pay ++ leBytes 8 0
  all ++ List.replicate (recBytesUsed r - all.length) 0xFF

/-- The header of a bank with its marker committed, padded with zeros to 64 bytes (R478; that its bytes 20 to 63 are 0 is a DESIGN CHOICE,
log 86). -/
def bankHeader (gen : Half) : List Byte :=
  let a := leBytes 4 0x54534643 ++ leBytes 4 gen.toNat
  a ++ leBytes 4 (crc32c a) ++ List.replicate 52 0

/-- The programmed bytes of bank b. -/
def bankBytes (s : State) (b : Nat) : List Byte := if b = 0 then s.bank0 else s.bank1
def setBank (s : State) (b : Nat) (l : List Byte) : State := if b = 0 then { s with bank0 := l } else { s with bank1 := l }
def curBank (s : State) : Nat := rd s 4 R.CS_STATUS_BANK

/-- A record is programmed at the end of the current bank, and counts. -/
def csAppend (s : State) (r : CsRec) : State :=
  let s := setBank s (curBank s) (bankBytes s (curBank s) ++ csRecBytes r)
  refreshFill { s with store := s.store ++ [r] }

/-- A record whose programming stops after n bytes: the rest of its place reads as erased (R479). -/
def csTorn (s : State) (r : CsRec) (n : Nat) : State :=
  let l := csRecBytes r
  setBank s (curBank s) (bankBytes s (curBank s) ++ l.take n ++ List.replicate (l.length - n) 0xFF)

/-- Little-endian number of n bytes at i; a bank is all-ones beyond what is programmed. -/
def bankNat (l : List Byte) (i n : Nat) : Nat := leNat ((List.range n).map (fun k => l.getD (i + k) 0xFF))

/-- A bank is valid when its CRC passes and its marker is committed; its generation (R478). -/
def bankGen (l : List Byte) : Option Half :=
  if bankNat l 0 4 = 0x54534643 ∧ bankNat l 8 4 = crc32c (l.take 8) ∧ bankNat l 12 8 = 0 then some (BitVec.ofNat 32 (bankNat l 4 4)) else none

/-- The current bank: the valid bank with the newer generation. -/
def newestBank (s : State) : Option (Nat × Half) :=
  match bankGen s.bank0, bankGen s.bank1 with
  | some g, some h => some (if 0 < (h - g).toInt then (1, h) else (0, g))
  | some g, none => some (0, g)
  | none, some h => some (1, h)
  | none, none => none

/-- The scan of R479 from byte i: the records that count, and whether a header whose CRC fails ended it. -/
def scanBank (l : List Byte) (i : Nat) : Nat → List CsRec × Bool
  | 0 => ([], false)
  | fuel + 1 =>
    if l.length ≤ i ∨ bankNat l i 16 = 2 ^ 128 - 1 then ([], false)
    else
      let n := bankNat l (i + 2) 2
      let pay := (l.drop (i + 16)).take n
      let head := (l.drop i).take 12 ++ List.replicate 4 (0 : Byte)
      if 4048 < n ∨ pay.length ≠ n ∨ bankNat l (i + 12) 4 ≠ crc32c (head ++ pay) then ([], true)
      else
        let r : CsRec := ⟨bankNat l i 1, bankNat l (i + 4) 4, pay⟩
        let (rest, bad) := scanBank l (i + recBytesUsed r) fuel
        (if bankNat l (i + 16 + (n + 7) / 8 * 8) 8 = 0 then r :: rest else rest, bad)

/-- The records of a bank. -/
def readBank (l : List Byte) : List CsRec × Bool := scanBank l 64 (l.length / 64)

/-- Erase a partition's sealed copy at once (R435). -/
def unsealNow (s : State) (p : Nat) : State :=
  let key := partKey s p
  let s := { s with csWants := s.csWants.filter (fun x => !(x.1.typ == 7 && x.1.key == key)) }
  if (sealedRec s key).isSome then csAppend s ⟨8, key, []⟩ else s

/-- Erase a partition's sealed copy (R429, R430). -/
def unsealPart (s : State) (p : Nat) : State :=
  let key := partKey s p
  let s := { s with csWants := s.csWants.filter (fun x => !(x.1.typ == 7 && x.1.key == key)) }
  if (sealedRec s key).isSome then csWant s ⟨8, key, []⟩ .plain else s

end Sys2Proof.Machine
end

