-- ==== Sys2Proof/Machine/Security.lean ====
section
/-!
DEFINITION. Vordaust (spec/16): job secrets, membership, HBM keys, debug authorisation, fuses, SPDM and IDE.
-/

namespace Sys2Proof.Machine

def srcVordaust : Nat := srcHub 25 0

/-- A sealed secret is bound to its partition number and JOB_ID (R430). -/
def sealAad (p : Nat) (job : List Byte) : List Byte := leBytes 1 p ++ job

/-! ### What commands and events do to keys -/

def clearCerts (s : State) (p : Nat) : State := { s with certCache := s.certCache.filter (fun x => x.1 != p) }

/-- Zeroise the job secret and the membership certificate; the sealed copy stays (R429). -/
def zeroJob (s : State) (p : Nat) : State :=
  let s := clearCerts { s with jobs := mapErase s.jobs p } p
  wrb (wrb s p R.SEC_STATUS_JOB_LOADED false) p R.SEC_STATUS_MEMBER_LOADED false

/-- Zeroise a LOADED HBM key (R433). -/
def revokeHbm (s : State) (p : Nat) : State :=
  if rd s p R.HBM_KEY_STATE_STATE = 1 then wr { s with hbmKeys := mapErase s.hbmKeys p } p R.HBM_KEY_STATE_STATE 2 else s

/-- The link stream or the selective stream of a port (R425). IDE_ACTIVE reads whether one of them is Secure (R380). -/
def ideStream (s : State) (h : Nat) (selective : Bool) : IdeStream := mapGet default s.ideStreams (2 * h + selective.toNat)
def ideSecure (s : State) (h : Nat) : Bool := (ideStream s h false).secure || (ideStream s h true).secure
def setIdeStream (s : State) (h : Nat) (selective : Bool) (x : IdeStream) : State :=
  let s := { s with ideStreams := mapSet s.ideStreams (2 * h + selective.toNat) x }
  wrb s 4 R.HP_STATUS_IDE_ACTIVE (ideSecure s h) h

/-- A stream's keys are discarded and it is Insecure; what follows a port's last Secure stream begins again (R425, R426). -/
def dropStream (s : State) (h : Nat) (selective : Bool) : State :=
  let s := setIdeStream s h selective default
  if ideSecure s h then s else { s with ideNoted := s.ideNoted.filter (· != h) }

/-- The IDE keys of a port are discarded (R381, R435). -/
def dropIde (s : State) (h : Nat) : State := dropStream (dropStream s h false) h true

def portsOfPart (s : State) (p : Nat) : List Nat := (List.range 4).filter (fun h => portRole s h != 2 && portPart s h == p)

/-- A fresh HBM key: contents written before are lost (R288, R433). -/
def loadHbmKey (s : State) (p : Nat) : State :=
  let s := (stacksOf s p).foldl (fun s k => hbmForget s (hbmKey k 0) (2 ^ 36)) s
  let s := tickFree { s with hbmKeys := mapSet s.hbmKeys p (freshNat s) }
  wr s p R.HBM_KEY_STATE_STATE 1

/-! ### Commands (R436, R437) -/

def secResult (s : State) (p code : Nat) : State := wr s p R.SEC_RESULT_CMD_RESULT code

/-- A command runs, and has ended. -/
def secStart (s : State) (port p op : Nat) : State :=
  wrb { s with secRun := mapSet s.secRun p ⟨op, rd s p R.SEC_CMD_ADDR_ADDR, port⟩ } p R.SEC_RESULT_CMD_BUSY true
def secEnd (s : State) (p : Nat) : State := wrb { s with secRun := mapErase s.secRun p } p R.SEC_RESULT_CMD_BUSY false

/-- A command that runs is abandoned: by a partition reset, or by the loss of the link of the port that issued it (R437). -/
def secAbandon (s : State) (p code : Nat) : State := if (mapFind s.secRun p).isSome then secResult (secEnd s p) p code else s

/-- A security command `op` (bits [4:0] of SEC_CMD) of the controlling host; one that is refused may raise a note. `body` takes the partition and
the blob's address. A command may stand in one row, or in one that starts it and one that ends it: CMD_BUSY is set between them (R437). -/
def secCmd (s : State) (port op : Nat) (note : Option Kind) (phase : CmdPhase) (body : State → Nat → Nat → State × Nat) : State :=
  let act (s : State) (p addr : Nat) : State :=
    let (s', code) := body s p addr
    let s' := secResult s' p code
    match note with
    | some k => if code = 0 then s' else raisePkg s' srcVordaust k 0 code
    | none => s'
  if phase = .ends then
    let p := portPart s port
    match mapFind s.secRun p with
    | some x => if !s.safe && x.op == op && x.port == port then act (secEnd s p) p x.addr else s
    | none => s
  else match ctrlAccess s port with
    | none => ideNote s port
    | some p =>
      if rdb s p R.SEC_RESULT_CMD_BUSY then s
      else if phase = .begins then secStart s port p op
      else act s p (rd s p R.SEC_CMD_ADDR_ADDR)

/-- The blob at `a`, or the code that ends the command. Another region, or a failed read of a scratchpad, gives BAD_DESC, a failed read of a
host window HOST_ABORT (R437). `ecc` is an error of the scratchpad that holds the blob (R285). -/
def secBlob (s : State) (p a n : Nat) (ext : List Byte) (ecc : Ecc) : State × Except Nat (List Byte) :=
  if a % 64 ≠ 0 then (s, .error St.BAD_DESC)
  else match parseDev a with
    | some (.sp t o) =>
      if (checkDev s p a n false).isSome then (s, .error St.BAD_DESC)
      else
        let bytes := sramRead s (spKey t o) n
        (match ecc with
        | .corrected (.sp u) => (if u.val = t then eccCorrected s 0 (.sp u) else s, .ok bytes)
        | .uncorrected (.sp u) => if u.val = t then (eccUncorrected s 0 (.sp u), .error St.BAD_DESC) else (s, .ok bytes)
        | _ => (s, .ok bytes))
    | some (.win w o) =>
      (match checkWindow s p w o n false with
      | none => if ext.length = n then (noteRead s p (devSpace s p a) n srcVordaust, .ok ext) else (s, .error St.HOST_ABORT)
      | some r => (s, .error (if r.status = St.BAD_DESC then St.BAD_DESC else St.HOST_ABORT)))
    | _ => (s, .error St.BAD_DESC)

/-- A command whose blob has been read acts on it. -/
def withBlob (x : State × Except Nat (List Byte)) (act : State → List Byte → State × Nat) : State × Nat :=
  match x.2 with
  | .error c => (x.1, c)
  | .ok b => act x.1 b

/-- The link of HP0 is lost while a recovery load reads the image: the attempt ends (R420). -/
def recoveryLost (s : State) : State :=
  if rdb s 4 R.REC_CTRL_REC_BUSY then wr (wrb s 4 R.REC_CTRL_REC_BUSY false) 4 R.REC_CTRL_REC_RESULT St.HOST_ABORT else s

/-- Bytes [i, i + n) are zero. -/
def zeroAt (bs : List Byte) (i n : Nat) : Bool := ((bs.drop i).take n).all (· == 0)

def sub (bs : List Byte) (i n : Nat) : List Byte := (bs.drop i).take n

/-- The rows of R427 and R428 that come before the blob. -/
def jobGate (s : State) (p : Nat) (load : Bool) : Option Nat :=
  if !isHold s p then some St.SEC_NOT_HOLD
  else if dbgAuth s p then some St.DEBUG_ACTIVE
  else if load && (mapFind s.jobs p).isSome then some St.ALREADY_SET
  else if !load && (mapFind s.jobs p).isNone then some St.WRONG_JOB
  else none

/-- The job secret a blob holds (R427). -/
def unwrapJob (s : State) (p : Nat) (b : List Byte) : Except Nat JobKeys :=
  if !(zeroAt b 8 8 && zeroAt b 113 15 && zeroAt b 225 31 && zeroAt b 268 4 && zeroAt b 336 176 && Config.onCurve (sub b 16 97)) then .error St.BAD_DESC
  else if leNat (b.take 8) ≠ rd s p R.FAB_JOB_ID_JOB_ID then .error St.WRONG_JOB
  else
    let key := Config.hkdf (Config.ecdh wrapKey (sub b 16 97)) (b.take 8 ++ labelJobWrap)
    match Config.gcmOpen key (b.take 256) (sub b 256 12 ++ sub b 272 64) with
    | some pt => .ok { secret := leNat pt, authPub := sub b 128 97 }
    | none => .error St.SIG_INVALID

def jobImport (sealIt : Bool) (ext : List Byte) (ecc : Ecc) (s : State) (p a : Nat) : State × Nat :=
  match jobGate s p true with
  | some c => (s, c)
  | none => withBlob (secBlob s p a 512 ext ecc) fun s b =>
      match unwrapJob s p b with
      | .error c => (s, c)
      | .ok j =>
        let s := wrb (clearCerts { s with jobs := mapSet s.jobs p j } p) p R.SEC_STATUS_JOB_LOADED true
        let s := if sealIt then
            csWant s ⟨7, partKey s p, leBytes 8 (rd s p R.FAB_JOB_ID_JOB_ID)
              ++ Config.gcmSeal (sealKey s) (sealAad p (leBytes 8 (rd s p R.FAB_JOB_ID_JOB_ID))) (leBytes 48 j.secret ++ j.authPub)⟩ (.sealed p)
          else s
        (s, St.OK)

def execJobImport (port : HPort) (sealIt : Bool) (blob : List Byte) (s : State) (phase : CmdPhase := .whole) (ecc : Ecc := .none) :
    Host.Outcome State Fault Refusal :=
  .next (secCmd s port (2 + 16 * sealIt.toNat) (some K.JOB_IMPORT_REFUSED) phase (jobImport sealIt blob ecc))

/-- Checks of a membership certificate (R428). -/
def memberCheck (s : State) (p : Nat) (j : JobKeys) (b : List Byte) : Nat :=
  if !(zeroAt b 10 6 && zeroAt b 64 96 && decide (bitsOf (leNat (sub b 8 2)) 12 4 = 0)) then St.BAD_DESC
  else if leNat (b.take 8) ≠ rd s p R.FAB_JOB_ID_JOB_ID ∨ leNat (sub b 8 2) ≠ ownNode s p then St.WRONG_JOB
  else if leNat (sub b 16 48) ≠ Config.deviceId ∨ !Config.ecdsaOk j.authPub (b.take 160) (sub b 160 96) then St.SIG_INVALID
  else St.OK

def memberLoad (ext : List Byte) (ecc : Ecc) (s : State) (p a : Nat) : State × Nat :=
  match jobGate s p false, mapFind s.jobs p with
  | some c, _ => (s, c)
  | none, none => (s, St.WRONG_JOB)
  | none, some j => withBlob (secBlob s p a 256 ext ecc) fun s b =>
      let c := memberCheck s p j b
      if c = St.OK then (wrb { s with jobs := mapSet s.jobs p { j with member := some b } } p R.SEC_STATUS_MEMBER_LOADED true, c) else (s, c)

def execMemberLoad (port : HPort) (blob : List Byte) (s : State) (phase : CmdPhase := .whole) (ecc : Ecc := .none) :
    Host.Outcome State Fault Refusal :=
  .next (secCmd s port 3 (some K.MEMBER_REFUSED) phase (memberLoad blob ecc))

def jobClear (s : State) (p _a : Nat) : State × Nat :=
  if isHold s p then (closePart (unsealPart (zeroJob s p) p) p, St.OK) else (s, St.SEC_NOT_HOLD)

def execJobClear (port : HPort) (s : State) (phase : CmdPhase := .whole) : Host.Outcome State Fault Refusal :=
  .next (secCmd s port 4 none phase jobClear)

def hbmKeyLoad (s : State) (p _a : Nat) : State × Nat := if isHold s p then (loadHbmKey s p, St.OK) else (s, St.SEC_NOT_HOLD)

def execHbmKeyLoad (port : HPort) (s : State) (phase : CmdPhase := .whole) : Host.Outcome State Fault Refusal :=
  .next (secCmd s port 1 (some K.HBM_KEY_REFUSED) phase hbmKeyLoad)

/-! ### Debug (R434, R435) -/

/-- A fresh 32-byte nonce; `who` is a partition, or 4 for the TAP. -/
def challenge (s : State) (who : Nat) : State := tickFree { s with dbgChal := mapSet s.dbgChal who (freshNat s % 2 ^ 256) }

def dbgChallenge (s : State) (p _a : Nat) : State × Nat := (challenge s p, St.OK)

def execDbgChallenge (port : HPort) (s : State) (phase : CmdPhase := .whole) : Host.Outcome State Fault Refusal :=
  .next (secCmd s port 5 none phase dbgChallenge)

/-- In HOLD, frozen, or in SAFE that VORDAUST_FAULT did not cause (R434, R500). -/
def held (s : State) (p : Nat) : Bool :=
  if s.safe then s.safeKind != K.VORDAUST_FAULT.code else isHold s p || rd s p R.ST_FREEZE_FSTATE == 2

/-- The keys are gone before debug opens: the sealed copy is erased in the flash too, in SAFE as well (R435; that its UNSEAL record is committed
by then is DEDUCED, log 85). -/
def openDebug (s : State) (p : Nat) : State :=
  let s := closePart (revokeHbm (unsealNow (zeroJob s p) p) p) p
  let s := (portsOfPart s p).foldl dropIde s
  let s := wrSat (wrb s p R.SEC_STATUS_DBG_AUTH true) 4 R.SEC_STATUS_DBG_COUNT 1
  raise s srcVordaust K.DEBUG_AUTHORISED p

/-- A debug token, signed by the owner key that was enrolled at boot, else by the Flezel debug key (R422, R434); the partitions its
SCOPE may name are those `may` admits. -/
def unlock (s : State) (who : Nat) (may : Nat → Bool) (b : List Byte) : State × Nat :=
  let scope := leNat (sub b 80 1)
  let ps := (List.range 4).filter (fun p => bitAt scope p)
  if b.length ≠ 256 ∨ 16 ≤ scope ∨ !zeroAt b 81 79 then (s, St.BAD_DESC)
  else if ps.isEmpty || !ps.all (fun p => may p && decide (p < partCount s.mode)) then (s, St.ACCESS_DENIED)
  else if !ps.all (held s) then (s, St.SEC_NOT_HOLD)
  else
    let nonce := mapFind s.dbgChal who
    let s := { s with dbgChal := mapErase s.dbgChal who }
    let key := s.ownerBoot.getD Config.flezelDebug
    if nonce = some (leNat (b.take 32)) ∧ leNat (sub b 32 48) = Config.deviceId ∧ Config.ecdsaOk key (b.take 160) (sub b 160 96) then
      (ps.foldl openDebug s, St.OK)
    else (s, St.SIG_INVALID)

def dbgUnlock (blob : List Byte) (ecc : Ecc) (s : State) (p a : Nat) : State × Nat :=
  withBlob (secBlob s p a 256 blob ecc) fun s b => unlock s p (· == p) b

def execDbgUnlock (port : HPort) (blob : List Byte) (s : State) (phase : CmdPhase := .whole) (ecc : Ecc := .none) :
    Host.Outcome State Fault Refusal :=
  .next (secCmd s port 6 (some K.DEBUG_AUTH_FAIL) phase (dbgUnlock blob ecc))

/-! ### Measurements (R423, R424) -/

/-- What GET_MEASUREMENTS reports: measurements 1 to 5 as recorded, and 6 for the partition of an assigned port (R424), in SAFE never (R456). -/
def reportedMeasures (s : State) (who : Nat) : List (Nat × Nat) :=
  s.measures.map (fun x => (x.1, x.2.2))
    ++ (if who < 4 ∧ portRole s who ≠ 2 ∧ !s.safe then [(6, Config.sha384 (measure6 s (portPart s who)))] else [])

def reportMeasures (s : State) (who : Nat) : State :=
  { s with measured := s.measured ++ (reportedMeasures s who).map (fun x => (who, x.1, x.2)) }

/-! ### Fuses (R421, R422) -/

/-- SVN_COMMIT of the controlling host on HP0. Fuses are blown one at a time; a loss of power before the end stands in POWER_REMOVED. -/
def svnCommit (port : Nat) (s : State) (_p _a : Nat) : State × Nat :=
  if port ≠ 0 then (s, St.ACCESS_DENIED)
  else
    let v := rd s 4 R.SEC_STATUS_IMAGE_SVN
    if rd s 4 R.SEC_STATUS_FUSE_SVN < v then
      let s := wr s 4 R.SEC_STATUS_FUSE_SVN v
      (raisePkg (recordMeasure s 3 (measure3 s)) srcVordaust K.SVN_COMMITTED, St.OK)
    else (s, St.OK)

def execSvnCommit (port : HPort) (s : State) (phase : CmdPhase := .whole) : Host.Outcome State Fault Refusal :=
  .next (secCmd s port 7 none phase (svnCommit port))

/-- OWNER_ENROL of the controlling host on HP0. -/
def ownerEnrol (port : Nat) (blob : List Byte) (ecc : Ecc) (s : State) (p a : Nat) : State × Nat :=
  if port ≠ 0 then (s, St.ACCESS_DENIED)
  else if rdb s 4 R.SEC_STATUS_OWNER_ENROLLED then (s, St.ALREADY_SET)
  else withBlob (secBlob s p a 256 blob ecc) fun s b =>
    let key := b.take 97
    if !zeroAt b 97 63 then (s, St.BAD_DESC)
    else if !Config.ecdsaOk key (leBytes 48 Config.deviceId ++ key) (sub b 160 96) then (s, St.SIG_INVALID)
    else
      let s := wrb { s with ownerKey := some key } 4 R.SEC_STATUS_OWNER_ENROLLED true
      (recordMeasure s 4 (measure4 s), St.OK)

def execOwnerEnrol (port : HPort) (blob : List Byte) (s : State) (phase : CmdPhase := .whole) (ecc : Ecc := .none) :
    Host.Outcome State Fault Refusal :=
  .next (secCmd s port 8 none phase (ownerEnrol port blob ecc))

/-! ### SPDM, IDE and health (R415, R424, R425) -/

/-- SPDM is available once an image has been accepted (R420), and stays so in SAFE (R456). -/
def spdmLive (s : State) : Bool :=
  let g := rd s 4 R.BOOT_STATUS_STAGE
  let f := rd s 4 R.BOOT_STATUS_FAIL_STEP
  if s.safe then rdb s 4 R.SEC_STATUS_RECOVERED || decide (f = 0 ∨ 3 < f) else decide (4 ≤ g ∧ g ≤ 9)

/-- The algorithms of the responders, and nothing else (R424). -/
def spdmAlgorithms : List SpdmAlg := [.ecdsaP384, .sha384, .secp384r1, .aesGcm256]

/-- The bytes of a response's content; SPDM's encoding is not in the specification. -/
def SpdmBody.bytes : SpdmBody → List Byte
  | .empty => []
  | .algorithms l => Config.fieldBytes [l.length]
  | .digests l => l.flatMap (leBytes 48)
  | .chain l => l.flatten
  | .measurements l => l.flatMap (fun x => leBytes 1 x.1 ++ leBytes 48 x.2)

/-- What a response that is no ERROR carries. -/
def spdmBody (s : State) (who : Nat) : SpdmReq → SpdmBody
  | .negotiateAlgorithms => .algorithms spdmAlgorithms
  | .getDigests => .digests [Config.sha384 (certChain s 0).flatten, Config.sha384 (certChain s 1).flatten]
  | .getCertificate slot => .chain (certChain s slot)
  | .getMeasurements => .measurements (reportedMeasures s who)
  | _ => .empty

/-- The responses that SPDM signs; the alias key signs them (R424). -/
def spdmSigned : SpdmReq → Bool
  | .challenge | .getMeasurements | .keyExchange => true
  | _ => false

def spdmAnswer (s : State) (who : Nat) (req : SpdmReq) (ok : Bool) : State :=
  let body := if ok then spdmBody s who req else .empty
  { s with spdmOut := s.spdmOut ++ [{ who := who, req := req, ok := ok, body := body
                                      sig := if ok && spdmSigned req then some (Config.ecdsaSign s.aliasKey body.bytes) else none }] }

/-- Key programming of a stream of port h, and the key-set switch (R425). -/
def ideProgram (s : State) (h : Nat) (selective : Bool) (km : IdeKm) : State :=
  let x := ideStream s h selective
  match km with
  | .program set key => setIdeStream s h selective (if set then { x with key1 := key } else { x with key0 := key })
  | .go set => setIdeStream s h selective { x with secure := true, set := set }
  | .stop => dropStream s h selective
  | .start key => setIdeStream s h selective { x with secure := true, set := false, key0 := key }

def execSpdmRequest (port : Option HPort) (req : SpdmReq) (s : State) : Host.Outcome State Fault Refusal :=
  .next (
    let who := match port with | some h => h.val | none => 4
    let n := mapGet 0 s.spdm who
    if !spdmLive s then s
    else match req with
      | .keyExchange => if n < (if who = 4 then 2 else 4) then spdmAnswer { s with spdm := mapSet s.spdm who (n + 1) } who req true else spdmAnswer s who req false
      | .endSession => if 0 < n then spdmAnswer { s with spdm := mapSet s.spdm who (n - 1) } who req true else spdmAnswer s who req false
      | .finish | .heartbeat | .keyUpdate => spdmAnswer s who req (decide (0 < n))
      | .ideKm selective km => if 0 < n ∧ who < 4 then spdmAnswer (ideProgram s who selective km) who req true else spdmAnswer s who req false
      | .getMeasurements => spdmAnswer (reportMeasures s who) who req true
      | .getCertificate slot => spdmAnswer s who req (decide (slot < 2))
      | .other => spdmAnswer s who req false
      | _ => spdmAnswer s who req true)

/-- The stream that fails goes to Insecure (R425). -/
def execIdeCheckFail (port : HPort) (s : State) (selective : Bool := false) : Host.Outcome State Fault Refusal :=
  .next (
    if s.safe || !(ideStream s port selective).secure then s
    else
      let s := dropStream s port selective
      if portRole s port = 2 then s else raise s (srcHub port 0) K.IDE_CHECK_FAIL (portPart s port))

def execVordaustFault (s : State) : Host.Outcome State Fault Refusal := .next (raisePkg s srcVordaust K.VORDAUST_FAULT)

end Sys2Proof.Machine
end

