-- ==== Sys2Proof/Machine/Resilience.lean ====
section
/-!
DEFINITION. State streaming, spares and recovery (spec/13): the state list, watch slots, mirrors, epochs, the journal and its drive, exports,
the input log and takeover.
-/

namespace Sys2Proof.Machine

/-- The resilience unit (R441). -/
def srcResilience : Nat := srcHub 30 0

def rsEnabled (s : State) (p : Nat) : Bool := rdb s p R.RS_CTRL_RS_EN
def rsResult (s : State) (p code : Nat) : State := wr s p R.RS_STATUS_CMD_RESULT code

/-- Message types of copies beyond the log types of R344: durable mark, lapse notice, acknowledgement of an epoch close, of another copy
(R340, R342, R346, R350). -/
def typDurable : Byte := 0xA0
def typLapse : Byte := 0xA1
def typEpochAck : Byte := 0xA2
def typCopyAck : Byte := 0xA3

/-- A copy for the own node to each of its partners that has not lapsed (R339), from a unit. -/
def toPartners (s : State) (p : Nat) (typ : Byte) (step : Nat) (payload : List Byte) (unit : Nat := srcResilience) : State :=
  ((allPartners s p (ownNode s p)).filter (notLapsed s p)).foldl (fun s n =>
    emit s p (.copy n ⟨BitVec.ofNat 12 (ownNode s p), typ, BitVec.ofNat 48 step, payload, none⟩) unit) s

/-- The fault of a refused access. -/
def raiseRefuse (s : State) (p src : Nat) (r : Refuse) : State :=
  match r.fault with
  | some f => raise s src ⟨f.kind, f.cls⟩ p f.addr
  | none => s

/-! ### The state list (R337) -/

/-- An entry's address and length in bytes. An entry that fails its checks is EPOCH_FAILED (R346); a block of the list that fails its check
is CHECKSUM_MISMATCH (R86). -/
def listEntry (s : State) (p i : Nat) : Except Kind (Nat × Nat) :=
  let a := rd s p R.RS_LIST_ADDR_ADDR + 16 * i
  if ownRange s p a 16 then
    match devRead s (devSpace s p a) 16 [] with
    | (bs, none) =>
      let addr := leNat (bs.take 8)
      let n := 64 * leNat (sub bs 8 4)
      let own : Bool := match parseDev addr with
        | some (.hbm ..) | some (.clm ..) | some (.sp ..) | some (.inter ..) => (checkDev s p addr n false).isNone
        | _ => false
      if addr % 64 = 0 ∧ n ≠ 0 ∧ leNat (sub bs 12 4) = 0 ∧ own then .ok (addr, n) else .error K.EPOCH_FAILED
    | _ => .error K.CHECKSUM_MISMATCH
  else .error K.EPOCH_FAILED

/-- A region with its bytes. -/
def listRegion (s : State) (p i : Nat) : Except Kind (Nat × List Byte) :=
  match listEntry s p i with
  | .ok (a, n) => (match devRead s (devSpace s p a) n [] with | (bs, none) => .ok (a, bs) | _ => .error K.CHECKSUM_MISMATCH)
  | .error k => .error k

/-- The regions of the list in order, those before the first that fails, and its fault. -/
def listFrom (s : State) (p : Nat) : List Nat → List (Nat × List Byte) × Option Kind
  | [] => ([], none)
  | i :: is =>
    match listRegion s p i with
    | .error k => ([], some k)
    | .ok x => let (r, e) := listFrom s p is; (x :: r, e)
def listRegions (s : State) (p : Nat) : List (Nat × List Byte) × Option Kind := listFrom s p (List.range (rd s p R.RS_LIST_CNT_CNT))

/-- The bytes that a reading of the list covers. -/
def listSpans (s : State) (p : Nat) : List (Bool × Nat × Nat) :=
  let n := rd s p R.RS_LIST_CNT_CNT
  devSpans (devSpace s p (rd s p R.RS_LIST_ADDR_ADDR)) (16 * n) ++ (List.range n).flatMap (fun i => match listEntry s p i with
    | .ok (a, m) => devSpans (devSpace s p a) m
    | .error _ => [])

/-- The list and its regions may be read: no traffic generator drives a stack of the partition (R291). -/
def stacksFree (s : State) (p : Nat) : Bool := !(stacksOf s p).any (engineWaits s)

/-! ### The journal (R348 to R352) -/

/-- The journal port: the lowest-numbered root port of the partition (R28, R348). -/
def journalPort (s : State) (p : Nat) : Nat := ((List.range 4).find? (fun k => partOfLPort s k == p)).getD p
def jstate (s : State) (p : Nat) : Nat := rd s p R.JNL_STATUS_JSTATE
def setJstate (s : State) (p v : Nat) : State := wr s p R.JNL_STATUS_JSTATE v
def drive (s : State) (p : Nat) : Option DriveImage := mapFind s.drives (journalPort s p)
def setDrive (s : State) (p : Nat) (d : DriveImage) : State := { s with drives := mapSet s.drives (journalPort s p) d }
def driveReady (s : State) (p : Nat) : Bool :=
  rdb s 4 R.LP_STATUS_DRIVE_READY (journalPort s p) && rdb s 4 R.LP_STATUS_FMT_OK (journalPort s p)

/-- Bytes that a record takes (log 75). -/
def jrecSize : JRec → Nat
  | .image _ _ bs => bs.length
  | .dense _ _ bs => bs.length
  | .inputs r => 32 + 64 * r.entries.length
  | .engine _ rs bs => 16 * rs.length + (bs.map (fun b => 16 * (b.rows.length + 1))).sum
  | .seal _ _ => 16
def recsSize (l : List JRec) : Nat := l.foldl (fun a r => a + jrecSize r) 0

/-- Where records that follow one another from byte `a` of the ring end: a record after a SEAL begins a new LBA (log 75). -/
def ringEnd (a : Nat) (l : List JRec) : Nat :=
  l.foldl (fun a r => match r with | .seal _ _ => (a + jrecSize r + 4095) / 4096 * 4096 | _ => a + jrecSize r) a

/-- The current superblock: the valid one with the higher SEQ (R348). -/
def currentSb (d : DriveImage) : Option Superblock :=
  match d.sb0.filter (·.crcOk), d.sb1.filter (·.crcOk) with
  | some a, some b => if a.seq < b.seq then some b else some a
  | some a, none => some a
  | none, b => b

/-- Superblocks are written alternately (R348). -/
def putSb (d : DriveImage) (x : Superblock) : DriveImage :=
  if (currentSb d).isSome && currentSb d == d.sb0.filter (·.crcOk) then { d with sb1 := some x } else { d with sb0 := some x }

/-- The next superblock's SEQ. -/
def nextSeq (d : DriveImage) : Nat := match currentSb d with | some x => x.seq + 1 | none => 1

/-- First LBA of a base area (R348). -/
def baseLba (s : State) (p : Nat) (sel : Bool) : Nat := rd s p (if sel then R.JNL_BASE_LBA1_LBA else R.JNL_BASE_LBA0_LBA)

def ringBytes (s : State) (p : Nat) : Nat := 4096 * rd s p R.JNL_RING_LEN_LEN
def staged (s : State) (p : Nat) : List JRec := mapGet [] s.staging p
def ringOf (s : State) (p : Nat) : List JRec := match drive s p with | some d => d.ring.map (·.body) | none => []
def ringUsed (s : State) (p : Nat) : Nat := ringEnd 0 (ringOf s p)

/-- The LBA of byte `pos` after the TAIL of the ring, which wraps at its end. -/
def ringLba (s : State) (p tail pos : Nat) : Nat :=
  let first := rd s p R.JNL_RING_LBA_LBA
  first + (tail - first + pos / 4096) % rd s p R.JNL_RING_LEN_LEN

/-- The records of a drive's ring with more appended (R350). -/
def ringAppend (s : State) (p : Nat) (d : DriveImage) (l : List JRec) : List RingRec :=
  let tail := match currentSb d with | some x => x.tail | none => 0
  l.foldl (fun r x => r ++ [{ lba := ringLba s p tail (ringEnd 0 (r.map (·.body))), body := x }]) d.ring

def refreshRing (s : State) (p : Nat) : State :=
  wr s p R.JNL_STATUS_FILL_PCT (if ringBytes s p = 0 then 0 else min 100 (ringUsed s p * 100 / ringBytes s p))

/-- Records go to staging, whose bytes in memory have no stated layout. -/
def stage (s : State) (p : Nat) (l : List JRec) : State :=
  if l.isEmpty then s
  else devForget { s with staging := mapSet s.staging p (staged s p ++ l) } (devSpace s p (rd s p R.JNL_STAGE_BASE_ADDR)) (rd s p R.JNL_STAGE_SIZE_SIZE)

/-- The journal appends records. -/
def journals (s : State) (p : Nat) : Bool := let j := jstate s p; j == 1 || j == 2 || j == 3

/-- Stacks of a partition with their place within it (R343). -/
def stackPlace (s : State) (p k : Nat) : Nat := (stacksOf s p).idxOf k

/-- The tables of an engine, as an engine image holds them (R349). -/
def engineTables (s : State) (k : Nat) : List RedirectEnt × List MigBatch :=
  (mapGet [] s.redirects k, s.batches.filter (fun b => b.stack == k))

/-- Dense images of listed regions. -/
def denseImages (rs : List (Nat × List Byte)) : List JRec :=
  (List.range rs.length).map (fun i => let x := rs.getD i (0, []); .dense i x.1 x.2)

/-- The image of the journalled ranges, of the engines' tables, and of the listed regions (R348, log 75). -/
def baseImage (s : State) (p : Nat) (rs : List (Nat × List Byte)) : List JRec :=
  let l := stacksOf s p
  l.map (fun k => .image (stackPlace s p k) 0 (hbmRead s (hbmKey k 0) (rd s 4 R.JNL_LIMIT_LIMIT k)))
    ++ l.map (fun k => .engine (stackPlace s p k) (engineTables s k).1 (engineTables s k).2)
    ++ denseImages rs

/-- A journal request that fails at the drive (R351). -/
def journalFail (s : State) (p : Nat) : State :=
  let s := wrSat s p R.JNL_STATUS_IO_ERRS 1
  if jstate s p = 0 then s else raise (setJstate s p 4) srcResilience K.JOURNAL_IO p

/-- Base area 0 is written and then a superblock that selects it, with an empty ring (R348, R351). -/
def formatDrive (s : State) (p : Nat) (d : DriveImage) (l : List JRec) : State :=
  let sb : Superblock := { seq := nextSeq d, jobId := rd s p R.FAB_JOB_ID_JOB_ID, baseSel := false
                           baseStep := rd s p R.RS_EPOCH_STEP_EPOCH_STEP, baseEpoch := rd s p R.RS_EPOCH_LAST_EPOCH
                           tail := rd s p R.JNL_RING_LBA_LBA }
  refreshRing (setDrive s p (putSb { d with ok := true, bases := mapSet d.bases (baseLba s p false) l, ring := [] } sb)) p

/-- FORMAT. The listed regions are read as a checked consumer reads them (R86), the stacks under their key (R288); an image that its area
does not hold fails as a journal request does (log 75). A drive with another LBA format raises JOURNAL_IO (R386). -/
def journalFormat (s : State) (p : Nat) : State :=
  if jstate s p ≠ 0 ∨ !stacksFree s p then s
  else if rdb s 4 R.LP_STATUS_DRIVE_READY (journalPort s p) && !rdb s 4 R.LP_STATUS_FMT_OK (journalPort s p) then
    raise (journalFail s p) srcResilience K.JOURNAL_IO p
  else if !driveReady s p then journalFail s p
  else if !keyLoaded s p then raise s srcResilience K.HBM_KEY_ABSENT p
  else
    match listRegions s p with
    | (_, some e) => if e = K.CHECKSUM_MISMATCH then raise s srcResilience e p else s
    | (rs, none) =>
      let l := baseImage s p rs
      if 4096 * rd s p R.JNL_BASE_LEN_LEN < recsSize l then journalFail s p
      else
        let s := (stacksOf s p).foldl (fun s k => { s with lastEngine := mapSet s.lastEngine k (engineTables s k) }) s
        formatDrive s p ((drive s p).getD { ok := true }) l

def execJournalFormat (port : HPort) (s : State) : Host.Outcome State Fault Refusal :=
  .next (match ctrlAccess s port with | some p => journalFormat s p | none => ideNote s port)

/-- A drive can be read and its current superblock is the job's (R351, R352). -/
def jobSb (s : State) (p : Nat) (d : DriveImage) : Option Superblock :=
  if d.ok then (currentSb d).filter (fun x => x.jobId == rd s p R.FAB_JOB_ID_JOB_ID) else none

/-- The owner registers its key on the drive of its journal port and acquires the Write Exclusive reservation (R387). -/
def reserveDrive (s : State) (p : Nat) (d : DriveImage) : State :=
  setDrive (wrb s 4 R.LP_STATUS_RESV_HELD true (journalPort s p)) p
    { d with resvKeys := d.resvKeys.filter (· != ownNode s p) ++ [ownNode s p], holder := some (ownNode s p) }

/-- On its recovery ports a partition registers its key on the drives that it reads; it never writes there and never preempts (R387). -/
def registerReader (s : State) (p : Nat) : State :=
  { s with drives := s.drives.map (fun (k, d) =>
      if partOfLPort s k = p ∧ k ≠ journalPort s p ∧ rdb s 4 R.LP_STATUS_DRIVE_READY k then
        (k, { d with resvKeys := d.resvKeys.filter (· != ownNode s p) ++ [ownNode s p] })
      else (k, d)) }

/-- JNL_EN is written. Records that the drive's ring holds stay, and new ones follow them (log 75). JSTATE becomes RUNNING only once the
reservation is acquired (R387); an acquisition that fails is a command error, which leaves the journal OFF (R385, log 75). -/
def journalEnable (s : State) (p : Nat) (en acquired : Bool) : State :=
  let s := wrb s p R.JNL_CTRL_JNL_EN en
  if !en then setJstate { s with staging := mapErase s.staging p } p 0
  else if jstate s p ≠ 0 then s
  else match drive s p with
    | some d => if driveReady s p && (jobSb s p d).isSome then
        let s := { s with compacting := s.compacting.filter (· != p) }
        if acquired then refreshRing (setJstate (reserveDrive s p d) p 1) p
        else raise (wrSat s p R.JNL_STATUS_IO_ERRS 1) srcResilience K.JOURNAL_IO p
      else s
    | none => s

/-- `acquired`: the drive grants the reservation. -/
def execJournalEnable (port : HPort) (en : Bool) (s : State) (acquired : Bool := true) : Host.Outcome State Fault Refusal :=
  .next (match ctrlAccess s port with | some p => journalEnable s p en acquired | none => ideNote s port)

/-- A RUNNING journal starts to compact (R351). -/
def journalCompact (s : State) (p : Nat) : State :=
  if jstate s p = 1 then setJstate { s with compacting := p :: s.compacting.filter (· != p) } p 2 else s

/-- The ring is 75 % full (R351). -/
def ringFull75 (s : State) (p : Nat) : Bool := ringBytes s p != 0 && decide (3 * ringBytes s p ≤ 4 * ringUsed s p)

/-- Compaction starts at 75 % of the ring, or by the host's write of COMPACT (R351). -/
def execJournalCompact (p : Part) (s : State) (port : Option HPort := none) : Host.Outcome State Fault Refusal :=
  .next (match port with
    | some h => (match ctrlAccess s h with
      | some q => if q = p.val then journalCompact s p else s
      | none => ideNote s h)
    | none => if !s.safe && ringFull75 s p then journalCompact s p else s)

/-- Later images replace earlier ones: the records up to the last SEAL join the base; those after it stay in the ring. -/
def sealedPart (l : List JRec) : List JRec × List JRec :=
  let isSeal (r : JRec) : Bool := match r with | .seal _ _ => true | _ => false
  let tail := (l.reverse.takeWhile (fun r => !isSeal r)).reverse
  (l.take (l.length - tail.length), tail)

def lastSeal (l : List JRec) : Option (Nat × Nat) :=
  l.foldl (fun a r => match r with | .seal e c => some (e, c) | _ => a) none

def execCompactionDone (p : Part) (s : State) : Host.Outcome State Fault Refusal :=
  .next (
    match drive s p with
    | some d =>
      (match currentSb d with
      | some sb =>
        if !s.safe && (jstate s p == 2 || (jstate s p == 3 && s.compacting.contains p.val)) then
          let (old, rest) := sealedPart (ringOf s p)
          let (e, c) := (lastSeal old).getD (sb.baseEpoch, sb.baseStep)
          let base := mapGet [] d.bases (baseLba s p sb.baseSel) ++ old
          let d := { d with bases := mapSet d.bases (baseLba s p (!sb.baseSel)) base, ring := d.ring.drop (d.ring.length - rest.length) }
          let tail := ringLba s p sb.tail (ringEnd 0 old)
          let s := setDrive { s with compacting := s.compacting.filter (· != p.val) } p
            (putSb d { sb with seq := sb.seq + 1, baseSel := !sb.baseSel, baseStep := c, baseEpoch := e, tail := tail })
          refreshRing (setJstate s p 1) p
        else s
      | none => s)
    | none => s)

/-- The records of the oldest staged epoch, its SEAL, and what is staged after it. -/
def firstSeal : List JRec → Option (List JRec × (Nat × Nat) × List JRec)
  | [] => none
  | .seal e c :: l => some ([.seal e c], (e, c), l)
  | r :: l => (firstSeal l).map (fun x => (r :: x.1, x.2.1, x.2.2))

/-- A SEAL is complete on the drive (R350). In SAFE a command that was submitted still ends in the drive, and nothing else follows (R387). -/
def execJournalSealDone (p : Part) (s : State) : Host.Outcome State Fault Refusal :=
  .next (
    match firstSeal (staged s p), drive s p with
    | some (l, (e, c), rest), some d =>
      if s.safe && journals s p then
        setDrive { s with staging := mapSet s.staging p rest } p { d with ring := ringAppend s p d l }
      else if journals s p then
        let s := setDrive { s with staging := mapSet s.staging p rest } p { d with ring := ringAppend s p d l }
        let s := wr (wr s p R.JNL_DURABLE_STEP c) p R.JNL_DURABLE_EPOCH_EPOCH e
        let s := refreshRing (toPartners s p typDurable c []) p
        if ringFull75 s p then journalCompact s p else s
      else s
    | _, _ => s)

def execJournalIo (p : Part) (s : State) : Host.Outcome State Fault Refusal := .next (if s.safe then s else journalFail s p)

/-! ### Capture (R349) -/

/-- Atoms of stack k whose dirty bits are set. -/
def dirtyAtoms (s : State) (k : Nat) : List Nat :=
  match stackOff k (rd s 4 R.JNL_DIRTY_BASE_ADDR k) 1 with
  | none => []
  | some b => (List.range (rd s 4 R.JNL_LIMIT_LIMIT k / 64)).filter (fun a => bitAt (hbmGet s (hbmKey k (b + a / 8))).toNat (a % 8))

def clearDirty (s : State) (k : Nat) (atoms : List Nat) : State :=
  match stackOff k (rd s 4 R.JNL_DIRTY_BASE_ADDR k) 1 with
  | none => s
  | some b => atoms.foldl (fun s a =>
      let key := hbmKey k (b + a / 8)
      hbmWrite s key [hbmGet s key &&& ~~~ BitVec.ofNat 8 (2 ^ (a % 8))]) s

/-- Staging has room for n more bytes, and the ring for them and the SEAL. -/
def stageRoom (s : State) (p n : Nat) : Bool :=
  decide (recsSize (staged s p) + n ≤ rd s p R.JNL_STAGE_SIZE_SIZE)
    && decide (ringEnd (ringUsed s p) (staged s p) + n + 16 ≤ ringBytes s p)

/-- An epoch that staging or the ring has no room for is not journalled, and the journal is STALLED (R351). -/
def lagEpoch (s : State) (p : Nat) : State :=
  raise (setJstate (wrSat s p R.JNL_STATUS_LAGGED 1) p 3) srcResilience K.JOURNAL_LAG p

/-- What an engine's tables add to an epoch: an engine image when they have changed since the last one (R349). -/
def engineImage (s : State) (p k : Nat) : List JRec :=
  if mapGet ([], []) s.lastEngine k = engineTables s k then []
  else [.engine (stackPlace s p k) (engineTables s k).1 (engineTables s k).2]

/-- One engine captures its dirty atoms; true when it had no room. -/
def captureEngine (s : State) (p k : Nat) : State × Bool :=
  let atoms := dirtyAtoms s k
  let tables := engineImage s p k
  if stageRoom s p (64 * atoms.length + recsSize tables) then
    let s := stage s p (atoms.map (fun a => .image (stackPlace s p k) (64 * a) (hbmRead s (hbmKey k (64 * a)) 64)) ++ tables)
    (clearDirty { s with lastEngine := mapSet s.lastEngine k (engineTables s k) } k atoms, false)
  else (raise s (srcStack k 0) K.JOURNAL_LAG p, true)

/-- Every engine captures; an epoch without room is not journalled and the journal is STALLED; with room it resumes as it was, RUNNING or COMPACTING
(R349, R351). -/
def captureAll (s : State) (p : Nat) : State × Bool :=
  if !journals s p then (s, true)
  else
    let (s, lag) := (stacksOf s p).foldl (fun (s, b) k => let (s, b') := captureEngine s p k; (s, b || b')) (s, false)
    if lag then (setJstate (wrSat s p R.JNL_STATUS_LAGGED 1) p 3, true)
    else (if jstate s p = 3 then setJstate s p (if s.compacting.contains p then 2 else 1) else s, false)

/-! ### Epochs (R345, R346) -/

def gateMet (s : State) (p : Nat) : Bool :=
  let c := CtrRef.die (Fin.ofNat 4 ((diesOf s p).headD 0)) (Fin.ofNat 4096 (rd s p R.RS_EPOCH_CFG_GATE_CTR))
  waitMet s c (BitVec.ofNat 32 (rd s p R.RS_EPOCH_TGT_TARGET))

/-- The epoch step: the last step decided. -/
def epochStep (s : State) (p : Nat) : Nat := (mapGet (0, false) s.dieDecided ((diesOf s p).headD 0)).1

/-- Every engine has finished the steps it applies. -/
def appliesDone (s : State) (p : Nat) : Bool := (stacksOf s p).all (fun k => (mapGet [] s.applying k).isEmpty)

/-- The epoch closes at the unit (R346 step 5). -/
def epochFinish (s : State) (p e c : Nat) : State :=
  let s := wr (wr { s with epochWait := mapErase s.epochWait p } p R.RS_EPOCH_LAST_EPOCH e) p R.RS_EPOCH_STEP_EPOCH_STEP c
  (diesOf s p).foldl (fun s d => signalDie s d (rd s p R.RS_EPOCH_CFG_DONE_CTR) srcResilience) s

/-- Step 3: the regions go to the partner, and to staging where the engines had room and there is room for them. -/
def epochRegions (s : State) (p c : Nat) (lag : Bool) (rs : List (Nat × List Byte)) : State × Bool :=
  let idx := List.range rs.length
  let s := idx.foldl (fun s i =>
    let x := rs.getD i (0, [])
    match listPartner s p (ownNode s p) i with
    | some n => if notLapsed s p n then emit s p (.copy n ⟨BitVec.ofNat 12 (ownNode s p), 7, BitVec.ofNat 48 c, leBytes 2 i ++ leBytes 8 x.1 ++ x.2, none⟩) else s
    | none => s) s
  if lag then (s, true)
  else if stageRoom s p (recsSize (denseImages rs)) then (stage s p (denseImages rs), false)
  else (lagEpoch s p, true)

/-- Steps 1 to 4 of R346 once the engines and the gate allow; the mark ends the epoch at once when no partner must acknowledge. What a
mark has done before the list entry that fails stands. While RS_EN is clear the unit is not active, and the mark does nothing (R362, log 43);
while the key is not loaded nothing can be read (R288). -/
def epochBegin (s : State) (p e : Nat) : State :=
  let c := epochStep s p
  if !rsEnabled s p then s
  else if e ≠ (rd s p R.RS_EPOCH_LAST_EPOCH + 1) % 2 ^ 32 then raise s srcResilience K.EPOCH_FAILED p
  else if !keyLoaded s p then raise s srcResilience K.HBM_KEY_ABSENT p
  else
    let s := wrAdd s p R.RS_EPOCH_TGT_TARGET (rd s p R.RS_EPOCH_CFG_GATE_INC)
    let (s, lag) := captureAll s p
    match listRegions s p with
    | (rs, some k) => raise (epochRegions s p c lag rs).1 srcResilience k p
    | (rs, none) =>
      let (s, lag) := epochRegions s p c lag rs
      let s := if lag then s else stage s p [.seal e c]
      let n := ((allPartners s p (ownNode s p)).filter (notLapsed s p)).length
      let s := toPartners s p 8 c (leBytes 4 e ++ leBytes 6 c ++ rs.flatMap (fun x => leBytes 4 (crc32c x.2)))
      if n = 0 then epochFinish s p e c else { s with epochWait := mapSet s.epochWait p (e, c, n) }

/-! ### Event echoes (R341) -/

/-- The kinds that are echoed. -/
def echoed (k : Nat) : Bool := [1, 2, 3, 5, 6].contains k

/-- The payload of an echo (log 20); the clip factor of a step for which the partition has none is absent (R153). -/
def eventPayload (e : FiredEv) (clip : Option Half) : List Byte :=
  leBytes 2 e.kind ++ leBytes 8 e.when_ ++ leBytes 4 e.target ++ leBytes 8 e.arg0 ++ leBytes 8 e.arg1 ++ leBytes 1 e.skip.toNat
    ++ leBytes 1 clip.isSome.toNat ++ leBytes 4 (clip.getD 0).toNat

def payloadEvent (bs : List Byte) : FiredEv × Option Half :=
  (⟨leNat (bs.take 2), leNat (sub bs 2 8), leNat (sub bs 10 4), leNat (sub bs 14 8), leNat (sub bs 22 8), 0, leNat (sub bs 30 1) == 1⟩,
    if leNat (sub bs 31 1) = 1 then some (BitVec.ofNat 32 (leNat (sub bs 32 4))) else none)

/-- The echo of a COMMIT_DECIDE. -/
def isCommit (m : CopyMsg) : Bool := m.typ == 6 && (payloadEvent m.payload).1.kind == 1

/-- The Step Time unit echoes an event that fires (R341). -/
def eventEcho (s : State) (p : Nat) (e : FiredEv) : State :=
  if echoed e.kind then toPartners s p 6 (e.when_ / 65536) (eventPayload e (clipFor s p (e.when_ / 65536))) (srcHub 21 0) else s

/-! ### The input log (R354, R355) -/

/-- The bytes of a record. -/
def inputBytes (r : InputRec) : List Byte :=
  leBytes 6 r.step ++ leBytes 1 r.skip.toNat ++ leBytes 1 0 ++ leBytes 4 r.entries.length ++ leBytes 20 0
    ++ r.entries.flatMap (fun x => leBytes 1 x.queue.toNat ++ leBytes 1 x.port.val ++ leBytes 2 x.seq.toNat ++ leBytes 4 x.bytes.toNat
        ++ leBytes 8 0 ++ leBytes 48 x.digest.toNat)

def inputRecOf (bs : List Byte) : InputRec :=
  ⟨leNat (bs.take 6), bitAt (leNat (sub bs 6 1)) 0, (List.range (leNat (sub bs 8 4))).map (fun i =>
    let x := sub bs (32 + 64 * i) 64
    ⟨Fin.ofNat 4 (leNat (sub x 1 1)), BitVec.ofNat 8 (leNat (x.take 1)), BitVec.ofNat 16 (leNat (sub x 2 2)), BitVec.ofNat 32 (leNat (sub x 4 4)),
      BitVec.ofNat 384 (leNat (sub x 16 48))⟩)⟩

def setPlan (s : State) (p : Nat) (r : Option InputRec) : State :=
  match r with
  | some r => wrb { s with plans := mapSet s.plans p r } p R.RS_STATUS_PLAN true
  | none => wrb { s with plans := mapErase s.plans p } p R.RS_STATUS_PLAN false

/-- A step's record goes to staging: not while the key of the stack that holds it is absent (R288); without room the epoch is not journalled and
the journal is STALLED (R351). -/
def stageInputs (s : State) (p : Nat) (r : InputRec) : State :=
  if (spaceKeyed s p (rd s p R.JNL_STAGE_BASE_ADDR)).isSome then raise s srcResilience K.HBM_KEY_ABSENT p
  else if stageRoom s p (jrecSize (.inputs r)) then stage s p [.inputs r]
  else lagEpoch s p

/-- COMMIT_DECIDE of step n closes the step's record, of the descriptors fetched while ST_NOW was in step n, and clears the plan. A descriptor
of step n that is fetched after it is in no record. -/
def closeInputs (s : State) (p n : Nat) (skip : Bool) : State :=
  let l := ((mapGet [] s.inputs p).filter (fun x => x.1 == n)).map (·.2)
  let s := setPlan { s with inputs := mapSet s.inputs p ((mapGet [] s.inputs p).filter (fun x => decide (0 < stepDiff x.1 n))) } p none
  if !rsEnabled s p then s
  else if 65536 < l.length then raise s srcResilience K.INPUT_LOG_OVERFLOW p
  else
    let r : InputRec := ⟨n, skip, l⟩
    let s := wr { s with ilogs := s.ilogs ++ [(p, r)] } p R.IL_STATUS_LAST_STEP n
    let s := if jstate s p = 1 ∨ jstate s p = 2 then stageInputs s p r else s
    toPartners s p 9 n (inputBytes r)

/-- An input descriptor completed its data fetch; false: it differs from the plan (R354, R355). -/
def noteInput (s : State) (p : Nat) (x : InputEntry) : State × Bool :=
  let step := rd s p R.ST_NOW_STEP
  let l := mapGet [] s.inputs p
  let noted := { s with inputs := mapSet s.inputs p (l ++ [(step, x)]) }
  match mapFind s.plans p with
  | some r =>
    if r.step = step ∧ r.entries[(l.filter (fun y => y.1 == step)).length]? ≠ some x then (s, false) else (noted, true)
  | none => (noted, true)

/-! ### Watch slots (R342 to R344) -/

def wstate (s : State) (p w : Nat) : Nat := rd s p R.WS_CFG_WSTATE w
def setWstate (s : State) (p w v : Nat) : State := wr s p R.WS_CFG_WSTATE v w
def wlog (s : State) (p w : Nat) : List CopyMsg := mapGet [] s.watch (4 * p + w)

/-- Payload bytes of an entry (R139, R344). -/
def payloadLen (s : State) (p : Nat) (m : CopyMsg) : Nat :=
  match m.contrib with | some c => contribBytes s p c | none => m.payload.length

/-- Bytes an entry takes in the ring: header and payload, padded to 64 (R344). -/
def copySize (s : State) (p : Nat) (m : CopyMsg) : Nat := (16 + payloadLen s p m + 63) / 64 * 64

def setWlog (s : State) (p w : Nat) (l : List CopyMsg) : State :=
  wr { s with watch := mapSet s.watch (4 * p + w) l } p R.WS_LOG_USED_USED (l.foldl (fun a m => a + copySize s p m) 0) w

/-- Stored contributions that `sel` picks go, with the counts of their versions (R148). -/
def releaseHeld (s : State) (p : Nat) (sel : Held → Bool) : State :=
  let s' := (s.held.filter sel).foldl (fun s x => releaseVer s p x.c.table.toNat 1 (verSlot s p x.c.table.toNat x.c.ver.toNat)) s
  { s' with held := s'.held.filter (fun x => !sel x) }

/-- What a slot holds for its node is dropped: log, stored contributions, Redirect tables, batches. -/
def dropSlot (s : State) (p w : Nat) : State :=
  let mine (x : Held) : Bool := x.slot == some w && partOfStack s x.stack == p
  let s := releaseHeld s p mine
  let s := { s with redirects := s.redirects.filter (fun x => !(decide (24 * (w + 1) ≤ x.1 ∧ x.1 < 24 * (w + 2)) && partOfStack s (x.1 % 24) == p))
                    mirBatches := s.mirBatches.filter (fun x => !(x.1 == p && x.2.1 == w))
                    seedFrom := mapErase s.seedFrom (4 * p + w), logTail := mapErase s.logTail (4 * p + w) }
  setWlog s p w []

/-- The slot lapses: a notice goes to its node (R342). -/
def lapseSlot (s : State) (p w : Nat) (k : Kind) : State :=
  let node := rd s p R.WS_CFG_NODE w
  let s := raise (setWstate (dropSlot s p w) p w 4) srcResilience k p
  emit s p (.copy node ⟨BitVec.ofNat 12 node, typLapse, 0, [], none⟩)

/-- Where a stack of the watched node lies in the spare: the stack of the same place (R343). -/
def mirrorStack (s : State) (p k : Nat) : Nat := let l := stacksOf s p; l.getD (k % l.length) 0

/-- The header of an entry before its CRC (R344). -/
def entryHead (s : State) (p : Nat) (m : CopyMsg) : List Byte :=
  leBytes 1 m.typ.toNat ++ leBytes 3 (payloadLen s p m) ++ leBytes 6 m.step.toNat ++ leBytes 2 0

/-- The payload of an entry: an input record in the layout of R354, else bytes that Config leaves open. -/
def entryPayload (s : State) (p : Nat) (m : CopyMsg) : List Byte :=
  if m.typ = 9 then m.payload
  else (List.range (payloadLen s p m)).map (Config.logByte m.typ.toNat (match m.contrib with
    | some c => sourceKey c * 2 ^ 50 + rowKey c
    | none => leNat m.payload))

/-- The bytes of an entry: header with the CRC over header and payload, payload, padding (R344). -/
def entryBytes (s : State) (p : Nat) (m : CopyMsg) : List Byte :=
  let h := entryHead s p m
  let x := entryPayload s p m
  let bs := h ++ leBytes 4 (crc32c (h ++ leBytes 4 0 ++ x)) ++ x
  bs ++ List.replicate (copySize s p m - bs.length) 0

/-- Write bytes with RAW set at a place of a slot's ring, which wraps at its end. -/
def logWrite (s : State) (p w at_ : Nat) (bs : List Byte) : State :=
  let size := rd s p R.WS_LOG_SIZE_SIZE w
  match parseDev (rd s p R.WS_LOG_BASE_BASE w) with
  | some (.hbm _ k o) =>
    let room := size - at_
    hbmWrite (hbmWrite s (hbmKey k (o + at_)) (bs.take room)) (hbmKey k o) (bs.drop room)
  | _ => s

/-- What an epoch close frees: the regions and closes of earlier epochs, that is every one up to the last close (R344). -/
def freeEpochs (l : List CopyMsg) : List CopyMsg :=
  let cur := (l.reverse.takeWhile (fun x => x.typ != 8)).length
  (l.take (l.length - cur)).filter (fun x => x.typ != 7 && x.typ != 8) ++ l.drop (l.length - cur)

/-- Append an entry to the ring, with the freeing an epoch close brings (R344). -/
def appendCopy (s : State) (p w : Nat) (m : CopyMsg) : State :=
  let l := wlog s p w
  let l := if m.typ = 8 then freeEpochs l else l
  let size := rd s p R.WS_LOG_SIZE_SIZE w
  if size < (l.foldl (fun a x => a + copySize s p x) 0) + copySize s p m then lapseSlot s p w K.WINDOW_OVERFLOW
  else
    let at_ := mapGet 0 s.logTail (4 * p + w)
    let s := logWrite (setWlog s p w (l ++ [m])) p w at_ (entryBytes s p m)
    let s := { s with logTail := mapSet s.logTail (4 * p + w) ((at_ + copySize s p m) % size) }
    if isCommit m then wr s p R.WS_APPLIED_STEP m.step.toNat w else s

/-- An epoch close completes an epoch in the slot. -/
def slotEpoch (s : State) (p w : Nat) (m : CopyMsg) : State :=
  wr (wr s p R.WS_DENSE_STEP (leNat (sub m.payload 4 6)) w) p R.WS_EPOCH_EPOCH (leNat (m.payload.take 4)) w

/-- A durable mark (R344). A slot that is being seeded still needs what follows the seal that it read (R342). -/
def durableMark (s : State) (p w d : Nat) : State :=
  let s := wr s p R.WS_DURABLE_STEP d w
  let d := match mapFind s.seedFrom (4 * p + w) with | some c => if stepDiff d c < 0 then d else c | none => d
  setWlog s p w ((wlog s p w).filter (fun x => x.typ == 7 || x.typ == 8 || decide (0 < stepDiff x.step.toNat d)))

/-- The fields of a migration copy's payload (log 20). -/
structure MigPay where
  stack    : Nat
  lshard   : Nat
  table    : Nat
  srcNode  : Nat
  srcStack : Nat
  record   : List Byte

def migPay (bs : List Byte) : MigPay :=
  ⟨leNat (bs.take 1), leNat (sub bs 1 2), leNat (sub bs 3 2), leNat (sub bs 5 2), leNat (sub bs 7 1), bs.drop 8⟩

/-- The acknowledgement of a stored copy, to its sender (R340). -/
def ackCopy (s : State) (p : Nat) (m : CopyMsg) : State :=
  let ack (n : Nat) : State := emit s p (.copy n ⟨m.forNode, typCopyAck, m.step, leBytes 1 m.typ.toNat, none⟩)
  match m.contrib with
  | some c =>
    if c.fwd then emit s p (.fwdAck c.srcNode.toNat c.stack.toNat c.row.toNat c.table.toNat c.step.toNat true) srcResilience
    else emit s p (.contribAck c.srcNode.toNat (contribAckOf c (ownNode s p) true)) srcResilience
  | none =>
    if m.typ = 4 then
      let x := migPay m.payload
      emit s p (.migAck x.srcNode x.srcStack (recRow x.record) x.table (recVer x.record) true) srcResilience
    else if m.typ = 8 then emit s p (.copy m.forNode.toNat ⟨m.forNode, typEpochAck, m.step, [], none⟩)
    else if m.typ = 3 then ack (leNat (m.payload.take 2))
    else if m.typ = typDurable then s
    else ack m.forNode.toNat

/-! ### Mirrors (R343) -/

/-- Bytes that a mirror's engine holds in its contribution buffer. -/
def mirrorUsed (s : State) (p k : Nat) : Nat := ((s.held.filter (fun x => x.stack == k)).map (fun x => contribBytes s p x.c)).sum

/-- A contribution at a mirror: stored in the window and the buffer of R142, its version held (R148), a forwarded one applied (R145). A STACK
that no partition has is a misroute. -/
def mirrorContrib (s : State) (p w : Nat) (c : Contribution) : Option State :=
  let k := mirrorStack s p c.stack.toNat
  let t := c.table.toNat
  if 23 < c.stack.toNat then none
  else match rowShardFor s p k c.lshard.toNat t c.ver.toNat c.row.toNat c.shard.toNat c.digest.toNat with
  | .error _ => none
  | .ok d =>
    if c.fwd then
      match applyRow s p k (.ok d) t c.row.toNat c.ver.toNat c.step.toNat (coeffAt s p t c.step.toNat) (clipFor s p c.step.toNat) c.grad c.count.toNat with
      | (s', none) => some s'
      | _ => none
    else if stepDiff c.step.toNat (rd s p R.WS_APPLIED_STEP w) = 1 ∧ mirrorUsed s p k + contribBytes s p c ≤ rd s 4 R.CONTRIB_SIZE_CB_BYTES k then
      let s := holdVer s p t 1 (verSlot s p t c.ver.toNat)
      let s := { s with held := s.held ++ [⟨some w, k, c⟩] }
      match stackOff k (rd s 4 R.CONTRIB_BASE_CB_ADDR k) (rd s 4 R.CONTRIB_SIZE_CB_BYTES k) with
      | some o => some (hbmForget s (hbmKey k o) (rd s 4 R.CONTRIB_SIZE_CB_BYTES k))
      | none => some s
    else none

/-- The clip factor of a step, or none of it, as its echo says. -/
def setClip (s : State) (p n : Nat) (clip : Option Half) : State :=
  match clip with
  | some c => { s with clips := mapSet s.clips p (n, c) }
  | none => { s with clips := mapErase s.clips p }

/-- A step applied or discarded at a mirror, under the echoed clip factor; each engine then reports it finished (R149). Any fault of a row is
a divergence. -/
def mirrorStep (s : State) (p w n : Nat) (skip : Bool) (clip : Option Half) : Option State :=
  let go (s : State) (k : Nat) : Option State :=
    if skip then some (finishStep (dropHeld s p (some w) k n (fun _ => true)) p k n true)
    else match applyGroups s p (some w) k n clip (groupBy rowKey (heldOf s (some w) k n)) with
      | (s', []) => some (finishStep s' p k n false)
      | _ => none
  ((stacksOf s p).foldl (fun a k => a.bind (fun s => go s k)) (some (setClip s p n clip))).map (fun s => wr s p R.WS_APPLIED_STEP n w)

/-- OPT_COEFF installs a coefficient set; the one it replaces stays that of the step of the event (R151). An EV_TARGET of 1,024 or above
names no table: the event does nothing, and the spec states no effect (log 72). -/
def optCoeff (s : State) (p : Nat) (e : FiredEv) : State :=
  if e.target < 1024 then
    let i := 1024 * p + e.target
    wr { s with coeffPast := mapSet s.coeffPast i (mapGet [] s.coeffPast i ++ [(e.when_ / 65536, coeffOf s p e.target)]) } p R.TBL_COEFF_SET
      (e.arg0 % 64) e.target
  else s

/-- A migration copy: stored through the creation path; a row that comes home to its hash home takes the place of its old copy (R162). -/
def mirrorMigCopy (s : State) (p : Nat) (m : CopyMsg) : Option State :=
  let x := migPay m.payload
  let k := mirrorStack s p x.stack
  let row := recRow x.record
  let h := rowHash s p x.table row
  if 23 < x.stack then none
  else if x.srcNode = m.forNode.toNat ∧ x.srcStack = x.stack then
    match shardSearch s p k x.table (recVer x.record) (rowShard s p x.table row) with
    | none => none
    | some d => match findRow s k d h row with
      | .error _ => none
      | .ok none => some s
      | .ok (some f) => some (markMoved s k d f (x.record.take (recSize d.fmt d.w)) false)
  else match shardFor s p k x.lshard x.table (recVer x.record) (rowShard s p x.table row) with
  | .error _ => none
  | .ok d => match createRow s k d h row (x.record.take (recSize d.fmt d.w)) with
    | .ok (some s') => some s'
    | _ => none

/-- A row of a batch that moved joins what the slot keeps of its node's batches (R336). -/
def keepBatch (s : State) (p w k id : Nat) (r : MigRow) : State :=
  let mine (x : Nat × Nat × MigBatch) : Bool := x.1 == p && x.2.1 == w && x.2.2.stack == k && x.2.2.id == id
  if s.mirBatches.any mine then
    { s with mirBatches := s.mirBatches.map (fun x => if mine x then (p, w, { x.2.2 with rows := x.2.2.rows ++ [r] }) else x) }
  else { s with mirBatches := s.mirBatches ++ [(p, w, ⟨k, id, 0, [r], true, true⟩)] }

/-- The place of an old copy that a Redirect echo names (log 20). -/
def echoOld (bs : List Byte) : Option (Nat × Nat × Nat × Nat) :=
  if 16 < bs.length then some (leNat (sub bs 16 2), leNat (sub bs 18 1), leNat (sub bs 19 2), leNat (sub bs 21 4)) else none

/-- The node whose state a slot holds: what WS_CFG names, and for an IDLE slot, with which a takeover replays a window held in shares, the own
node, which ASSUME has made the dead one (R359). -/
def slotNode (s : State) (p w : Nat) : Nat := if wstate s p w = 0 then ownNode s p else rd s p R.WS_CFG_NODE w

/-- An old copy of the watched node is marked MOVED, or released, where the mirror holds it. -/
def mirrorOld (s : State) (p w row t v : Nat) (old : Option (Nat × Nat × Nat × Nat)) (retired : Bool) : Option State :=
  match old with
  | none => some s
  | some (node, k', l, slot) =>
    if node ≠ slotNode s p w then some s
    else
      let k := mirrorStack s p k'
      if !retired then
        (match shardFor s p k l t v (rowShard s p t row) with
        | .ok d => (markSlot s k d slot row).toOption
        | .error _ => none)
      else match oldCopy s p k l t v row with
        | .error _ => none
        | .ok none => some s
        | .ok (some (d, f)) => if f.slot ≠ slot then some s else (clearFound s k d f).toOption

/-- A Redirect echo: 0 installed, 1 old copy MOVED, 2 old copy retired, 3 entry freed, which names a batch and an old copy when a row came home
(R162, R339). -/
def mirrorRedirect (s : State) (p w : Nat) (bs : List Byte) : Option State :=
  let row := leNat (bs.take 5)
  let t := leNat (sub bs 5 2)
  let v := leNat (sub bs 7 2)
  let home := leNat (sub bs 9 4)
  let k := mirrorStack s p (leNat (sub bs 14 1))
  let old := echoOld bs
  let r : MigRow := ⟨row, t, v, home % 4096, bitsOf home 12 5, bitsOf home 17 15, 2, 0,
    old.map (fun (n, k', l, sl) => (n, if n = slotNode s p w then mirrorStack s p k' else k', l, sl))⟩
  let id := leNat (sub bs 15 1)
  match leNat (sub bs 13 1) with
  | 0 => some (keepBatch (putRedirect s (some w) k ⟨row, t, v, r.node, r.stack, r.lshard⟩) p w k id r)
  | 1 => mirrorOld s p w row t v old false
  | 2 => mirrorOld s p w row t v old true
  | _ =>
    let s := dropRedirect s (some w) k row t v
    some (if old.isSome then keepBatch s p w k id r else s)

/-- Write a region to its listed address; false: its place refuses it, or a block that it covers in part fails its check (R85, R343,
R352). -/
def writeRegion (s : State) (p addr : Nat) (bs : List Byte) : State × Bool :=
  match checkDev s p addr bs.length true with
  | some r => (raiseRefuse s p srcResilience r, false)
  | none => match devWrite s p (devSpace s p addr) bs with
    | (s', none) => (s', true)
    | (s', some r) => (raiseRefuse s' p srcResilience r, false)

/-- One copy at a MIRRORED slot; none: it diverges. -/
def mirrorCopy (s : State) (p w : Nat) (m : CopyMsg) : Option State :=
  match m.typ.toNat, m.contrib with
  | 1, some c | 2, some c => mirrorContrib s p w c
  | 3, _ =>
    let (src, cl, seq) := (leNat (m.payload.take 2), leNat (sub m.payload 2 1), leNat (sub m.payload 3 2))
    some (releaseHeld s p (fun x => x.slot == some w && partOfStack s x.stack == p && x.c.step == m.step && x.c.srcNode.toNat == src
      && x.c.srcCluster.toNat == cl && x.c.seq.toNat == seq))
  | 4, _ => mirrorMigCopy s p m
  | 5, _ => mirrorRedirect s p w m.payload
  | 6, _ =>
    let (e, clip) := payloadEvent m.payload
    (match e.kind with
    | 1 => mirrorStep s p w (e.when_ / 65536) e.skip clip
    | 2 => some (optCoeff s p e)
    | 3 => some (versionSwap s p e)
    | 5 => some { s with mirBatches := s.mirBatches.filter (fun x =>
        !(x.1 == p && x.2.1 == w && x.2.2.stack == mirrorStack s p (e.target % 24) && x.2.2.id == e.arg0 % 256)) }
    | _ => some s)
  | 7, _ => some (writeRegion s p (leNat (sub m.payload 2 8)) (m.payload.drop 10)).1
  | 8, _ => some (slotEpoch s p w m)
  | 9, _ => some (setWlog s p w ((wlog s p w).filter (fun x => x.typ != 9) ++ [m]))
  | _, _ => some s

/-- A copy reaches its slot. -/
def slotCopy (s : State) (p w : Nat) (m : CopyMsg) : State :=
  match wstate s p w with
  | 1 | 2 =>
    if m.typ = typDurable then durableMark s p w m.step.toNat
    else
      let s := appendCopy s p w m
      ackCopy (if m.typ = 8 ∧ wstate s p w ≠ 4 then slotEpoch s p w m else s) p m
  | 3 =>
    if m.typ = typDurable then wr s p R.WS_DURABLE_STEP m.step.toNat w
    else (match mirrorCopy s p w m with
      | some s' => ackCopy s' p m
      | none => ackCopy (lapseSlot s p w K.MIRROR_DIVERGED) p m)
  | _ => ackCopy s p m

def slotOf (s : State) (p node : Nat) : Option Nat := (List.range 4).find? (fun w => wstate s p w != 0 && rd s p R.WS_CFG_NODE w == node)

/-- A copy of a watched node's state. Acknowledgements of this node's own copies and lapse notices have no effect here; while RS_EN is clear
the unit takes nothing (R362, log 43). A copy for a stack that a traffic generator drives waits outside (R291). -/
def execCopyReceive (p : Part) (m : CopyMsg) (s : State) : Host.Outcome State Fault Refusal :=
  .next (holdFrame s p (.copyReceive p m) fun s =>
    if !running s p || !rsEnabled s p || !stacksFree s p || decide (9 < m.typ.toNat) && m.typ != typDurable then s
    else match slotOf s p m.forNode.toNat with
      | some w =>
        if !keyLoaded s p && decide (wstate s p w < 4) && m.typ != typDurable then raise s srcResilience K.HBM_KEY_ABSENT p
        else slotCopy s p w m
      | none => raise s srcResilience K.UNWATCHED_COPY p)

/-- A log area in the partition's own HBM (R342, R362). -/
def logArea (s : State) (p w : Nat) : Bool :=
  let (a, n) := (rd s p R.WS_LOG_BASE_BASE w, rd s p R.WS_LOG_SIZE_SIZE w)
  decide (a % 64 = 0 ∧ n % 65536 = 0 ∧ n ≠ 0) && (match parseDev a with
    | some (.hbm _ k o) => partOfStack s k == p && decide (o + n ≤ hbmData)
    | _ => false)

/-- WS_CFG is written: NODE, MODE and PORT (R342). -/
def watchWrite (s : State) (p w v : Nat) : State :=
  let mode := bitsOf v 12 2
  let put (s : State) : State := wr (wr (wr s p R.WS_CFG_NODE (v % 4096) w) p R.WS_CFG_MODE mode w) p R.WS_CFG_PORT (bitsOf v 14 2) w
  if mode = 0 then (if wstate s p w = 0 then put s else setWstate (dropSlot (put s) p w) p w 0)
  else if wstate s p w ≠ 0 then put s
  else if logArea s p w then setWstate (setWlog (put { s with logTail := mapErase s.logTail (4 * p + w) }) p w []) p w 1
  else raise s srcResilience K.UNWATCHED_COPY p

def execWatchModeWrite (port : HPort) (w : Fin 4) (val : Half) (s : State) : Host.Outcome State Fault Refusal :=
  .next (match ctrlAccess s port with | some p => watchWrite s p w val.toNat | none => ideNote s port)

def execLapseNoticeReceive (p : Part) (src : Node) (s : State) : Host.Outcome State Fault Refusal :=
  .next (holdFrame s p (.lapseNoticeReceive p src) fun s =>
    if !running s p then s
    else
      let s := if s.lapsed.contains (p.val, src.toNat) then s else { s with lapsed := s.lapsed ++ [(p.val, src.toNat)] }
      raise (wrb s p R.RS_STATUS_LAPSED true) srcResilience K.PARTNER_LAPSED p)

/-! ### Restoring (R352) -/

/-- The records up to and with the last SEAL that `want` picks by epoch and step; each must have its CRC. -/
def ringCut (want : Nat → Nat → Bool) (l : List RingRec) : Option (List JRec × Nat × Nat) :=
  let n := l.length - ((l.reverse.takeWhile (fun r => match r.body with | .seal e c => !(r.crcOk && want e c) | _ => true)).length)
  let l := l.take n
  match lastSeal (l.map (·.body)) with
  | some (e, c) => if l.all (·.crcOk) then some (l.map (·.body), e, c) else none
  | none => none

/-- Whether a ring holds a SEAL that `want` picks. -/
def sealWanted (want : Nat → Nat → Bool) (l : List RingRec) : Bool :=
  l.any (fun r => match r.body with | .seal e c => r.crcOk && want e c | _ => false)

/-- The base that the job's current superblock selects and the ring from its TAIL up to the newest SEAL that `want` picks; the base itself
where the ring has none and `want` picks its epoch. None: the drive or superblock cannot be read, a record fails its CRC, or there is no such
SEAL (R352). -/
def sealedImages (s : State) (p : Nat) (d : DriveImage) (want : Nat → Nat → Bool) : Option (List JRec × Nat × Nat) :=
  match jobSb s p d with
  | none => none
  | some sb =>
    let ring := d.ring.dropWhile (fun r => r.lba != sb.tail)
    let want' (e c : Nat) : Bool := decide (sb.baseEpoch ≤ e) && want e c
    match mapFind d.bases (baseLba s p sb.baseSel) with
    | none => none
    | some base =>
      if sealWanted want' ring then (ringCut want' ring).map (fun x => (base ++ x.1, x.2))
      else if want sb.baseEpoch sb.baseStep then some (base, sb.baseEpoch, sb.baseStep)
      else none

/-- Restore n bytes of a stack, block by block: a block that is written whole, or whose CRC held before, has its CRC after (R85). One that
records of their own CRC fill has none (R88), and keeps none (DEDUCED, log 44). -/
def restoreBytes (s : State) (k o : Nat) (bs : List Byte) : State :=
  (pieces o bs.length).foldl (fun s (d, n) =>
    let x := (bs.drop d).take n
    match blockPut s k (o + d) x with
    | some s' => s'
    | none => hbmWrite s (hbmKey k (o + d)) x) s

/-- Apply one image; engine images go to the own tables or to a slot's. -/
def applyImage (s : State) (p : Nat) (slot : Option Nat) (r : JRec) : State × Bool :=
  match r with
  | .image i o bs => (restoreBytes s (mirrorStack s p i) o bs, true)
  | .engine i rs bs =>
    let k := mirrorStack s p i
    let s := setRedirects s slot k rs
    let bs := bs.map (fun b => { b with stack := k })
    (match slot with
    | none => { s with batches := s.batches.filter (fun b => b.stack != k) ++ bs }
    | some w => { s with mirBatches := s.mirBatches.filter (fun x => !(x.1 == p && x.2.1 == w && x.2.2.stack == k)) ++ bs.map (fun b => (p, w, b)) }, true)
  | .dense _ a bs => writeRegion s p a bs
  | _ => (s, true)

/-- Apply images in order; false: one could not be written. -/
def applyImages (s : State) (p : Nat) (slot : Option Nat) : List JRec → State × Bool
  | [] => (s, true)
  | r :: l =>
    match applyImage s p slot r with
    | (s', true) => applyImages s' p slot l
    | (s', false) => (s', false)

def restoreFailed (s : State) (p : Nat) : State := raise (rsResult s p St.SOURCE_FAILED) srcResilience K.RESTORE_FAILED p

/-- A restore writes the partition's stacks: not while their key is absent (R288; CMD_RESULT has no code for it, log 44). -/
def whenKeyed (s : State) (p : Nat) (body : State → State) : State :=
  if keyLoaded s p then body s else raise (rsResult s p St.SOURCE_FAILED) srcResilience K.HBM_KEY_ABSENT p

/-- The distinct steps of logged entries in (d, n], ascending. -/
def logSteps (l : List CopyMsg) (d n : Nat) : List Nat :=
  ((l.filter (fun m => decide (d < m.step.toNat ∧ m.step.toNat ≤ n))).foldl (fun (a : NatMap Unit) m => mapSet a m.step.toNat ()) []).map (·.1)

/-- The window's commits are complete from d + 1 to n. -/
def windowWhole (l : List CopyMsg) (d n : Nat) : Bool := (logSteps (l.filter isCommit) d n).length == n - d

/-- The clip factor that the step's commit echo gives. -/
def echoedClip (l : List CopyMsg) : Option Half := (l.find? isCommit).bind (fun m => (payloadEvent m.payload).2)

/-- Replay one step of a window (R352): its contributions are stored, the echoes act in order, the step is applied under the echoed clip
factor, then forwarded rows, then Redirect and migration entries. -/
def replayStep (s : State) (p w : Nat) (l : List CopyMsg) (m : Nat) : Option State :=
  let mine := l.filter (fun x => x.step.toNat == m)
  let steps := mine.filter (fun x => x.typ == 1 || x.typ == 3) ++ mine.filter (fun x => x.typ == 6 && !isCommit x)
    ++ mine.filter isCommit ++ mine.filter (fun x => x.typ == 2) ++ mine.filter (fun x => x.typ == 4 || x.typ == 5)
  steps.foldl (fun a x => a.bind (fun s => mirrorCopy s p w x)) (some (setClip s p m (echoedClip mine)))

/-- The regions of the newest epoch whose close is logged at or below n. -/
def epochRegionsOf (l : List CopyMsg) (n : Nat) : List CopyMsg :=
  match (l.filter (fun x => x.typ == 8 && decide (x.step.toNat ≤ n))).getLast? with
  | some c => l.filter (fun x => x.typ == 7 && x.step == c.step)
  | none => []

/-- Write the regions of a list of entries; none: one could not be written. -/
def writeRegions (s : State) (p : Nat) (l : List CopyMsg) : State × Bool :=
  l.foldl (fun (s, ok) x =>
    if ok then writeRegion s p (leNat (sub x.payload 2 8)) (x.payload.drop 10) else (s, false)) (s, true)

/-- Replay a window from d + 1 to n, then write the regions of its newest epoch at or below n; false: the log fails, has a gap, or a region
cannot be written, whose fault is raised (R85). -/
def replayWindow (s : State) (p w d n : Nat) (l : List CopyMsg) : State × Bool :=
  if !windowWhole l d n then (s, false)
  else match (logSteps l d n).foldl (fun a m => a.bind (fun s => replayStep s p w l m)) (some (wr s p R.WS_APPLIED_STEP d w)) with
  | none => (s, false)
  | some s' => writeRegions s' p (epochRegionsOf l n)

/-- SEED: the drive's newest sealed state is read; the log is replayed when seeding ends (R342). -/
def seedSlot (s : State) (p w : Nat) (image : Option DriveImage) : State :=
  if !(wstate s p w == 1 && rd s p R.WS_CFG_MODE w == 1) then rsResult s p St.BAD_DESC
  else match image.bind (fun d => sealedImages s p d (fun _ _ => true)) with
    | some (l, _, c) => whenKeyed s p (fun s =>
        match applyImages s p (some w) l with
        | (s, true) => rsResult (setWstate (wr { s with seedFrom := mapSet s.seedFrom (4 * p + w) c } p R.WS_DURABLE_STEP c w) p w 2) p St.OK
        | (s, false) => restoreFailed s p)
    | none => restoreFailed s p

/-- The entries of the step that is not decided yet stay in force: stored contributions, and the echoes that came before its decision. -/
def replayRest (s : State) (p w n : Nat) (l : List CopyMsg) : Option State :=
  (l.filter (fun x => decide (n < x.step.toNat) && x.typ != 7 && x.typ != 8 && x.typ != 9)).foldl (fun a x => a.bind (fun s => mirrorCopy s p w x)) (some s)

/-- Replay has reached the last logged step: the log is released (R342). A window that fails ends the restore as R352 says; the slot goes on
logging (log 44). -/
def execSeedingDone (p : Part) (w : Fin 4) (s : State) : Host.Outcome State Fault Refusal :=
  .next (
    if s.safe || frozen s p || wstate s p w != 2 || !stacksFree s p then s
    else
      let l := wlog s p w
      let d := mapGet 0 s.seedFrom (4 * p + w)
      let n := (l.filter isCommit).foldl (fun a m => max a m.step.toNat) d
      let s := { s with seedFrom := mapErase s.seedFrom (4 * p.val + w.val) }
      match replayWindow s p w d n l with
      | (s', true) => (match replayRest s' p w n l with
        | some s'' => setWstate (setWlog s'' p w (l.filter (fun x => x.typ == 9))) p w 3
        | none => restoreFailed (setWstate s p w 1) p)
      | (s', false) => restoreFailed (setWstate s' p w 1) p)

/-! ### Commands (R357 to R360) -/

/-- A command that R357 admits only in HOLD. One that reads or writes the stacks waits while a traffic generator drives one of them
(R291). -/
def rsCommand (s : State) (port : Nat) (body : State → Nat → State) : State :=
  match ctrlAccess s port with
  | none => ideNote s port
  | some p => if rdb s p R.RS_STATUS_CMD_BUSY || !stacksFree s p then s else if isHold s p then body s p else rsResult s p St.NOT_IN_HOLD

def execRsHold (port : HPort) (s : State) : Host.Outcome State Fault Refusal :=
  .next (match ctrlAccess s port with
    | some p => raise (rsResult s p St.OK) srcResilience K.HOLD_REQUESTED p
    | none => ideNote s port)

/-- REWIND (R357): what is stored for later steps goes, with the rows of them that wait and the numbers that Clove has given out in them
(R138). -/
def rewindTo (s : State) (p n : Nat) : State :=
  let later (m : Nat) : Bool := decide (0 < stepDiff m n)
  let mine (k : Nat) : Bool := partOfStack s k == p
  let s := releaseHeld s p (fun x => mine x.stack && later x.c.step.toNat)
  let s := { s with coeffPast := s.coeffPast.map (fun x => if x.1 / 1024 = p then (x.1, x.2.filter (fun y => !later y.1)) else x)
                    rowLocks := s.rowLocks.filter (fun x => !(x.part == p && later x.step))
                    fwdOuts := s.fwdOuts.filter (fun x => !(mine x.stack && later x.step))
                    applying := s.applying.map (fun x => if mine x.1 then (x.1, x.2.filter (fun y => !later y.1)) else x)
                    cloveSeq := s.cloveSeq.filter (fun x => !(partOfCluster s x.1 == p && later x.2.1))
                    sdParts := mapErase s.sdParts p, inputs := mapErase s.inputs p }
  let s := (List.range 4).foldl (fun s w => if (wlog s p w).isEmpty then s else
    setWlog s p w ((wlog s p w).filter (fun m => !((m.typ == 1 || m.typ == 2 || m.typ == 3) && later m.step.toNat)))) s
  setPlan (settleVers s p) p ((s.ilogs.find? (fun x => x.1 == p && x.2.step == (n + 1) % 2 ^ 48)).map (·.2))

def rewindCmd (s : State) (p : Nat) : State := rsResult (rewindTo s p (rd s p R.RS_CMD_STEP_STEP)) p St.OK

def execRewind (port : HPort) (s : State) : Host.Outcome State Fault Refusal := .next (rsCommand s port rewindCmd)

/-- RELOAD (R352, R357). -/
def reloadCmd (s : State) (p : Nat) : State :=
  let n := rd s p R.RS_CMD_STEP_STEP
  match drive s p with
  | some d =>
    if !driveReady s p then restoreFailed s p
    else match sealedImages s p d (fun _ c => c == n) with
      | some (l, _) => whenKeyed s p (fun s =>
          match applyImages s p none l with
          | (s, true) => rsResult (rewindTo s p n) p St.OK
          | (s, false) => restoreFailed s p)
      | none => restoreFailed s p
  | none => restoreFailed s p

def execReload (port : HPort) (s : State) : Host.Outcome State Fault Refusal := .next (rsCommand s port reloadCmd)

/-- Fields of a takeover certificate (R358). -/
def certJob (b : List Byte) : Nat := leNat (b.take 8)
def certDead (b : List Byte) : Nat := leNat (sub b 8 2)
def certSpare (b : List Byte) : Nat := leNat (sub b 10 2)
def certSource (b : List Byte) : Nat := leNat (sub b 12 1)
def certFlags (b : List Byte) : Nat := leNat (sub b 13 1)
def certStep (b : List Byte) : Nat := leNat (sub b 16 6)
def certClip (b : List Byte) : Half := BitVec.ofNat 32 (leNat (sub b 24 4))
def certSeq (b : List Byte) : Nat := leNat (sub b 28 4)
def certSpareId (b : List Byte) : Nat := leNat (sub b 32 48)

/-- The certificate's signature is the job authority's. -/
def certSigned (s : State) (p : Nat) (b : List Byte) : Bool :=
  match mapFind s.jobs p with
  | some j => b.length == 256 && Config.ecdsaOk j.authPub (b.take 160) (sub b 160 96)
  | none => false

def certReserved (b : List Byte) : Bool :=
  decide (certDead b < 4096) && decide (certSpare b < 4096) && decide (certSource b < 4) && decide (certFlags b < 4)
    && zeroAt b 14 2 && zeroAt b 22 2 && zeroAt b 80 80

def certRejected (s : State) (p : Nat) : State := raise s srcResilience K.CERT_REJECTED p

/-- A refused or failed access of the resilience unit to a window: its status, and the fault of R368. -/
def windowFail (s : State) (p w : Nat) (r : Refuse) : State × Nat :=
  match r.fault with
  | some f =>
    if r.status = St.BAD_DESC then (s, r.status)
    else (raise (countDmaErr s f.kind (some (winPort s p w))) srcResilience ⟨f.kind, f.cls⟩ p, r.status)
  | none => (s, r.status)

/-- The certificate at TK_CERT_ADDR, or the code that ends VERIFY; `ext` holds its bytes when they lie in a host window, `ecc` is an error of the
scratchpad that holds it (R285). -/
def certRead (s : State) (p : Nat) (ext : List Byte) (ecc : Ecc) : State × Except Nat (List Byte) :=
  let a := rd s p R.TK_CERT_ADDR_ADDR
  if a % 64 ≠ 0 then (s, .error St.BAD_DESC)
  else match parseDev a with
    | some (.sp t o) =>
      if (checkDev s p a 256 false).isSome then (s, .error St.BAD_DESC)
      else
        let bytes := sramRead s (spKey t o) 256
        (match ecc with
        | .corrected (.sp u) => (if u.val = t then eccCorrected s 0 (.sp u) else s, .ok bytes)
        | .uncorrected (.sp u) => if u.val = t then (eccUncorrected s 0 (.sp u), .error St.BAD_DESC) else (s, .ok bytes)
        | _ => (s, .ok bytes))
    | some (.win w o) =>
      let fail (r : Refuse) : State × Except Nat (List Byte) := let (s, c) := windowFail s p w r; (s, .error c)
      (match checkWindow s p w o 256 false with
      | some r => fail r
      | none => if ext.length = 256 then (noteRead s p (devSpace s p a) 256 srcResilience, .ok ext) else fail hostAbort)
    | _ => (s, .error St.BAD_DESC)

/-- A certificate that VERIFY accepts (R358). -/
def certGood (s : State) (p : Nat) (b : List Byte) : Bool :=
  certSigned s p b && certJob b == rd s p R.FAB_JOB_ID_JOB_ID && certSpare b == ownNode s p && certSpareId b == Config.deviceId
    && decide (rd s p R.TK_LAST_SEQ_SEQ < certSeq b) && certReserved b

def execVerify (port : HPort) (cert : List Byte) (s : State) (ecc : Ecc := .none) : Host.Outcome State Fault Refusal :=
  .next (match ctrlAccess s port with
    | none => ideNote s port
    | some p =>
      if rdb s p R.RS_STATUS_CMD_BUSY then s
      else match certRead s p cert ecc with
        | (s, .error c) => rsResult s p c
        | (s, .ok b) =>
          if certGood s p b then rsResult { s with certs := mapSet s.certs p b } p St.OK
          else certRejected (rsResult s p St.CERT_INVALID) p)

/-- Announce a takeover to every valid peer entry (R359). -/
def announce (s : State) (p : Nat) (b : List Byte) : State :=
  (fportsOf s p).foldl (fun s f => (portSessions f).foldl (fun s k =>
    if peerValid s k then post s p (.takeover f (k % 32) b) else s) s) s

/-- ASSUME (R359). -/
def assumeCmd (s : State) (p : Nat) : State :=
  match mapFind s.certs p with
  | none => rsResult s p St.CERT_INVALID
  | some b =>
    let dead := certDead b
    let s := wr s p R.FAB_NODE_NODE_ID dead
    let s := (List.range 4).foldl (fun s w =>
      if wstate s p w ≠ 0 ∧ rd s p R.WS_CFG_NODE w ≠ dead then setWstate (wr (dropSlot s p w) p R.WS_CFG_MODE 0 w) p w 0 else s) s
    let s := announce (closePart s p) p b
    rsResult (wr s p R.TK_LAST_SEQ_SEQ (certSeq b)) p St.OK

def execAssume (port : HPort) (s : State) : Host.Outcome State Fault Refusal := .next (rsCommand s port assumeCmd)

/-- The slot's copies become the partition's own state: contributions, Redirect tables, batches. -/
def assumeSlot (s : State) (p w : Nat) : State :=
  let s := { s with held := s.held.map (fun x => if x.slot = some w ∧ partOfStack s x.stack = p then { x with slot := none } else x)
                    batches := s.batches ++ (s.mirBatches.filter (fun x => x.1 == p && x.2.1 == w)).map (·.2.2)
                    mirBatches := s.mirBatches.filter (fun x => !(x.1 == p && x.2.1 == w)) }
  let s := (stacksOf s p).foldl (fun s k => setRedirects (setRedirects s none k (mapGet [] s.redirects (redirKey (some w) k))) (some w) k []) s
  if wstate s p w = 0 then s else setWstate s p w 5

/-- A complete epoch with epoch step n is held, or the state list is empty (R359). -/
def denseHeld (s : State) (p step n : Nat) : Bool := rd s p R.RS_LIST_CNT_CNT == 0 || step == n

/-- The entries of a window held in shares: each member holds the echoes, closes and input records of the node, and they count once. -/
def joinShares (l : List CopyMsg) : List CopyMsg :=
  l.foldl (fun a m => if (m.typ == 6 || m.typ == 8 || m.typ == 9) && a.contains m then a else a ++ [m]) []

/-- The replay plan that a certificate asks for: the record of step n + 1 (R359). -/
def certPlan (b : List Byte) (l : List CopyMsg) : Option InputRec :=
  if bitAt (certFlags b) 1 then
    (l.find? (fun m => m.typ == 9 && m.step.toNat == (certStep b + 1) % 2 ^ 48)).map (fun m => inputRecOf m.payload)
  else none

/-- The newest epoch step that is complete in a window. -/
def windowDense (l : List CopyMsg) : Nat := match (l.filter (fun x => x.typ == 8)).getLast? with | some m => leNat (sub m.payload 4 6) | none => 0

/-- RESTORE from a mirror: it has applied step n, or step n - 1 and takes the certificate's decision of n (R359). -/
def restoreMirror (s : State) (p w : Nat) (b : List Byte) (done : State → State) : State :=
  let n := certStep b
  let at_ := rd s p R.WS_APPLIED_STEP w
  if wstate s p w ≠ 3 then restoreFailed s p
  else if !denseHeld s p (rd s p R.WS_DENSE_STEP w) n then rsResult s p St.STATE_STALE
  else if at_ = n then done (assumeSlot s p w)
  else if stepDiff n at_ ≠ 1 then restoreFailed s p
  else match mirrorStep s p w n (bitAt (certFlags b) 0) (some (certClip b)) with
    | some s' => done (assumeSlot s' p w)
    | none => restoreFailed s p

/-- RESTORE from a drive and the window from the seal's step to n (R352, R359). -/
def restoreWindow (s : State) (p w n : Nat) (image : Option DriveImage) (log : List CopyMsg) (done : State → State) : State :=
  match image.bind (fun d => sealedImages s p d (fun _ c => decide (c ≤ n))) with
  | none => restoreFailed s p
  | some (l, _, c) => whenKeyed s p (fun s =>
      match applyImages s p (some w) l with
      | (s', false) => restoreFailed s' p
      | (s', true) => match replayWindow s' p w c n log with
        | (s'', true) => done (assumeSlot (setWlog s'' p w []) p w)
        | (s'', false) => restoreFailed s'' p)

/-- The seal that `want` picks is on the drive, in its ring or as what its base holds. -/
def sealHeld (s : State) (p : Nat) (d : DriveImage) (want : Nat → Nat → Bool) : Bool :=
  match jobSb s p d with
  | none => false
  | some sb => want sb.baseEpoch sb.baseStep
      || sealWanted (fun e c => decide (sb.baseEpoch ≤ e) && want e c) (d.ring.dropWhile (fun r => r.lba != sb.tail))

/-- RESTORE from a drive alone, to the seal at step n: STATE_STALE when a readable drive does not hold it, else the restore fails. -/
def restoreDrive (s : State) (p n : Nat) (d : DriveImage) (done : State → State) : State :=
  match sealedImages s p d (fun _ c => c == n) with
  | none =>
    if (jobSb s p d).isSome && !sealHeld s p d (fun _ c => c == n) && rd s p R.RS_LIST_CNT_CNT != 0 then rsResult s p St.STATE_STALE
    else restoreFailed s p
  | some (l, _) => whenKeyed s p (fun s =>
      match applyImages s p none l with
      | (s', true) => done s'
      | (s', false) => restoreFailed s' p)

/-- RESTORE by SOURCE (R359). -/
def restoreGo (s : State) (p w : Nat) (b : List Byte) (image : Option DriveImage) (shares : List CopyMsg) : State :=
  let n := certStep b
  let l := wlog s p w
  let log := joinShares (l ++ shares)
  let done (plan : Option InputRec) (s : State) : State := rsResult (setPlan s p plan) p St.OK
  match certSource b with
  | 0 => restoreMirror s p w b (done (certPlan b l))
  | 1 =>
    if wstate s p w ≠ 1 then restoreFailed s p
    else if !denseHeld s p (rd s p R.WS_DENSE_STEP w) n then rsResult s p St.STATE_STALE
    else restoreWindow s p w n image l (done (certPlan b l))
  | 2 =>
    if !denseHeld s p (windowDense log) n then rsResult s p St.STATE_STALE
    else restoreWindow s p w n image log (done (certPlan b log))
  | _ => match image.orElse (fun _ => drive s p) with
    | some d => restoreDrive s p n d (done none)
    | none => restoreFailed s p

def execRestore (port : HPort) (slot : Fin 4) (image : Option DriveImage) (shares : List CopyMsg) (s : State) : Host.Outcome State Fault Refusal :=
  .next (rsCommand s port (fun s p => match mapFind s.certs p with
    | none => rsResult s p St.CERT_INVALID
    | some b => restoreGo (registerReader s p) p slot b image shares))

def execSeed (port : HPort) (slot : Fin 4) (image : Option DriveImage) (s : State) : Host.Outcome State Fault Refusal :=
  .next (rsCommand s port (fun s p => seedSlot s p slot image))

/-- A group member sends its share of the window to the replacement (R359). -/
def sendShares (s : State) (p dead : Nat) : State :=
  match slotOf s p dead with
  | some w =>
    if rd s p R.WS_CFG_MODE w = 3 ∧ wstate s p w = 1 then (wlog s p w).foldl (fun s m => emit s p (.share dead m)) s else s
  | none => s

/-- A takeover announcement at a survivor (R360): every session bound to the dead node closes but the announcing one, which is the
replacement's. -/
def execTakeoverReceive (p : Part) (f : FPort) (i : Fin 32) (cert : List Byte) (s : State) : Host.Outcome State Fault Refusal :=
  .next (holdFrame s p (.takeoverReceive p f i cert) fun s =>
    let k := 32 * f.val + i.val
    if s.safe || sessPart s k != p.val then s
    else if certSigned s p cert && decide (rd s p R.TK_LAST_SEQ_SEQ < certSeq cert) && (sess s k).device.toNat == certSpareId cert then
      let dead := certDead cert
      let s := { s with rebound := s.rebound.filter (fun x => !(x.1 == p.val && x.2.1 == dead)) ++ [(p.val, dead, certSpareId cert)] }
      let s := (fportsOf s p).foldl (fun s f => (portSessions f).foldl (fun s j =>
        if j ≠ k ∧ sessOpen s j ∧ peerNode s j = dead then closeSess s j else s) s) s
      let s := wr s p R.TK_LAST_SEQ_SEQ (certSeq cert)
      sendShares s p dead
    else certRejected s p)

/-! ### Exports (R353) -/

/-- "CK4 export" ‖ JOB_ID ‖ e. -/
def exportKey (s : State) (p e : Nat) : Nat :=
  Config.hkdf ((mapFind s.jobs p).getD default).secret
    (label [67, 75, 52, 32, 101, 120, 112, 111, 114, 116] ++ leBytes 8 (rd s p R.FAB_JOB_ID_JOB_ID) ++ leBytes 4 e)

def exportFailed (s : State) (p : Nat) : State := raise s srcResilience K.EXPORT_FAILED p

/-- The bytes of a record in an export: its kind, places and lengths as numbers in a layout that Config leaves open, then the bytes of an image
or of an input record as they are. -/
def jrecBytes : JRec → List Byte
  | .image k o bs => Config.journalBytes [0, k, o, bs.length] ++ bs
  | .dense i a bs => Config.journalBytes [1, i, a, bs.length] ++ bs
  | .inputs r => Config.journalBytes [2, r.entries.length] ++ inputBytes r
  | .engine k rs bs => Config.journalBytes (3 :: k :: rs.length :: rs.flatMap (fun e => [e.row, e.table, e.ver, e.node, e.stack, e.lshard])
      ++ bs.flatMap (fun b => [b.id, b.step, b.ready.toNat, b.installed.toNat, b.rows.length]
        ++ b.rows.flatMap (fun r => [r.row, r.table, r.ver, r.node, r.stack, r.lshard, r.phase, r.acks]
          ++ (match r.old with | some (n, k', l, sl) => [1, n, k', l, sl] | none => [0]))))
  | .seal e c => Config.journalBytes [4, e, c]

/-- The 48 bytes before the tag in a chunk's header. -/
def chunkHead (fields : List Nat) : List Byte := (Config.exportHeader fields ++ List.replicate 48 0).take 48

/-- The header of chunk i of n, under a nonce. -/
def chunkHeadOf (s : State) (p e c i n nonce : Nat) : List Byte := chunkHead [rd s p R.FAB_JOB_ID_JOB_ID, e, c, i, n, nonce]

/-- Chunk i of n: header, tag and cipher text, under a nonce that is drawn (R353). The header before the tag is authenticated. -/
def exportChunk (s : State) (p key e c i n : Nat) (pt : List Byte) : List Byte :=
  let head := chunkHeadOf s p e c i n (freshNat s i % 2 ^ 96)
  let x := Config.gcmSeal key head pt
  head ++ x.drop pt.length ++ x.take pt.length

/-- Cut into chunks of 1 MiB. -/
def exportChunks (s : State) (p key e c : Nat) (bs : List Byte) : List (List Byte) :=
  let n := max 1 ((bs.length + 2 ^ 20 - 1) / 2 ^ 20)
  (List.range n).map (fun i => exportChunk s p key e c i n ((bs.drop (2 ^ 20 * i)).take (2 ^ 20)))

/-- An export of the current base and of every ring record through the last SEAL (R353). -/
def exportGo (s : State) (p : Nat) : State :=
  match drive s p, mapFind s.jobs p with
  | some d, some _ =>
    (match (if driveReady s p then jobSb s p d else none) with
    | none => exportFailed s p
    | some sb =>
      let recs := (sealedPart (ringOf s p)).1
      let (e, c) := (lastSeal recs).getD (sb.baseEpoch, sb.baseStep)
      let image := mapGet [] d.bases (baseLba s p sb.baseSel) ++ recs
      let chunks := exportChunks s p (exportKey s p e) e c (image.flatMap jrecBytes)
      let (w, o) := (rd s p R.EXP_CTRL_WINDOW, rd s p R.EXP_OFF_OFF)
      if (checkWindow s p w o chunks.flatten.length true).isNone then
        wr (devWrite (tickFree s) p (.win w o) chunks.flatten).1 p R.EXP_STEP_STEP c
      else exportFailed s p)
  | _, _ => exportFailed s p

def execExportStart (port : HPort) (s : State) : Host.Outcome State Fault Refusal :=
  .next (match ctrlAccess s port with | some p => exportGo s p | none => ideNote s port)

/-- The plain text of a chunk; none: its tag fails. -/
def openChunk (key : Nat) (c : List Byte) : Option (List Byte) := Config.gcmOpen key (c.take 48) (c.drop 64 ++ sub c 48 16)

/-- The chunks in the window decrypt to the bytes of the records of an image. -/
def chunksSpell (key : Nat) (chunks : List (List Byte)) (l : List JRec) : Bool :=
  match chunks.mapM (openChunk key) with
  | some ps => ps.flatten == l.flatMap jrecBytes
  | none => false

/-- The headers of the chunks are those of an export of the job's epoch e and step c, under these nonces (R353). -/
def headersOk (s : State) (p e c : Nat) (chunks : List (List Byte)) (nonces : List Nat) : Bool :=
  chunks.zipIdx.all (fun (x, i) => x.take 48 == chunkHeadOf s p e c i chunks.length (nonces.getD i 0))

/-- `chunks` is what the window holds, `nonces` the nonces of their headers, and `image` what headers and plain text spell: a superblock with its
epoch and step, and the records. The image is written into base area 0 with a fresh superblock (R353). -/
def execImportExport (port : HPort) (chunks : List (List Byte)) (image : DriveImage) (s : State) (nonces : List Nat := []) :
    Host.Outcome State Fault Refusal :=
  .next (match ctrlAccess s port with
    | none => ideNote s port
    | some p =>
      match image.sb0, image.bases.head? with
      | some sb, some (_, l) =>
        let (w, o) := (rd s p R.EXP_CTRL_WINDOW, rd s p R.EXP_OFF_OFF)
        if (mapFind s.jobs p).isSome && driveReady s p && (checkWindow s p w o chunks.flatten.length false).isNone
            && headersOk s p sb.baseEpoch sb.baseStep chunks nonces && chunksSpell (exportKey s p sb.baseEpoch) chunks l then
          let d := (drive s p).getD { ok := true }
          let sb' : Superblock := { seq := nextSeq d, jobId := rd s p R.FAB_JOB_ID_JOB_ID, baseSel := false, baseStep := sb.baseStep
                                    baseEpoch := sb.baseEpoch, tail := rd s p R.JNL_RING_LBA_LBA }
          refreshRing (setDrive (noteRead s p (.win w o) chunks.flatten.length) p
            (putSb { d with ok := true, bases := mapSet d.bases (baseLba s p false) l, ring := [] } sb')) p
        else exportFailed s p
      | _, _ => exportFailed s p)

end Sys2Proof.Machine
end

