-- ==== Sys2Proof/Machine/Collector.lean ====
section
/-!
DEFINITION. The fault collector (spec/17): taking a message, escalation, records, acknowledgement, the host fault rings, supervised pairs
and injection.
-/

namespace Sys2Proof.Machine

/-! ### Scopes (R444, R445) -/

def scopeAt (s : State) (cls id : Nat) : Option Scope := s.scopes.find? (fun x => x.cls == cls && x.id == id)

def openScope (s : State) (cls id : Nat) : State :=
  if (scopeAt s cls id).isSome then s else { s with scopes := s.scopes ++ [⟨cls, id, false⟩] }

/-- The class in effect of a fault and whether it is secondary: an F1 in a settled scope is an F2 there, an F2 in a settled partition
an F3. -/
def classify (s : State) (cls source p : Nat) : Nat × Bool :=
  let f2 : Nat × Bool := match scopeAt s 2 p with
    | none => (2, false)
    | some x => if x.settled then (3, false) else (2, true)
  match cls with
  | 1 => (match scopeAt s 1 source with
    | none => (1, false)
    | some x => if x.settled then f2 else (1, true))
  | 2 => f2
  | c => (c, false)

/-! ### The buffer (R443, R450) -/

def slotFree (s : State) (i : Nat) : Bool := !(s.recs.any (fun r => r.slot == i))
def lowestFree (s : State) (lo hi : Nat) : Option Nat := ((List.range (hi - lo)).map (· + lo)).find? (slotFree s)

/-- Counters that follow the stored records (R459). -/
def fcRefresh (s : State) : State :=
  let s := wr s 4 R.FC_STATUS_OCCUPANCY s.recs.length
  (partsAll s).foldl (fun s p =>
    let s := wr s p R.FC_STATUS_UNACK_F1 (s.recs.filter (fun r => r.cls == 1 && r.unacked.contains p)).length
    wr s p R.FC_STATUS_F2_STATE (match scopeAt s 2 p with | none => 0 | some x => if x.settled then 2 else 1)) s

/-- A record that was not stored, or was displaced, for each of its partitions. -/
def noteLost (s : State) (ps : List Nat) : State :=
  ps.foldl (fun s p => { s with lostRecs := mapSet s.lostRecs p (mapGet 0 s.lostRecs p + 1) }) s

/-- The oldest stored record of the given classes leaves the buffer: its slot. -/
def displace (s : State) (classes : List Nat) : Option (State × Nat) :=
  match s.recs.find? (fun r => classes.contains r.cls) with
  | some r => some (noteLost { s with recs := s.recs.filter (fun x => x.slot != r.slot) } r.unacked, r.slot)
  | none => none

/-- The place of a new record by class (R450); none when it is not stored. -/
def place (s : State) (cls : Nat) : Option (State × Nat) :=
  match lowestFree s 0 1008 with
  | some i => some (s, i)
  | none => match cls with
    | 0 => none
    | 1 => displace s [0]
    | 2 => (lowestFree s 1008 1024).map (fun i => (s, i))
    | _ => (match lowestFree s 1008 1024 with
      | some i => some (s, i)
      | none => displace s [0, 1])

/-- A slot for FAULT_RECORD_LOST, an F0 record that is always stored: a free entry, else that of the oldest F0 or F1 record; only a buffer
without one gives it an entry kept for F2 and F3 (R450; the order is DEDUCED, log 87). -/
def placeAlways (s : State) : Option (State × Nat) :=
  match lowestFree s 0 1008 with
  | some i => some (s, i)
  | none => match displace s [0, 1] with
    | some x => some x
    | none => (lowestFree s 1008 1024).map (fun i => (s, i))

/-! ### The host fault ring (R449) -/

def ringSize (s : State) (p : Nat) : Nat := 2 ^ rd s p R.FC_RING_CFG_LOG2_SIZE

/-- A record as partition p sees it: 32 bytes (R443). -/
def recBytes (r : FaultRec) (p phase : Nat) : List Byte :=
  leBytes 2 r.source ++ leBytes 2 (r.kind + r.cls * 2 ^ 12 + r.origCls * 2 ^ 14)
    ++ leBytes 1 ((decide (r.origCls < r.cls)).toNat + 2 * r.secondary.toNat + 4 * r.pkg.toNat + 8 * (r.loss.contains p).toNat
        + 16 * (if r.pkg then p else r.part) + 64 * phase)
    ++ leBytes 3 0 ++ leBytes 8 r.addr ++ leBytes 8 (r.st.getD p 0) ++ leBytes 4 r.seq ++ leBytes 1 r.detail ++ leBytes 3 0

/-- An entry that every partition has acknowledged, or a note that every ring holds, is free (R450). -/
def freeRecs (s : State) : State :=
  { s with recs := s.recs.filter (fun r => !r.unacked.isEmpty && !(r.cls == 0 && r.unmirrored.isEmpty)) }

/-- Mirror the records that partition p's ring lacks, in order, while it has room; fuel bounds the records. -/
def mirrorSome (s : State) (p : Nat) : Nat → State
  | 0 => s
  | k + 1 =>
    match s.recs.find? (fun r => r.unmirrored.contains p) with
    | none => s
    | some r =>
      let size := ringSize s p
      let head := rd s p R.FC_RING_IDX_HEAD
      let tail := rd s p R.FC_RING_IDX_TAIL
      if (head + size - tail % size - 1) % size = 0 then
        if s.ringWaits.contains p then s
        else sendFault { s with ringWaits := p :: s.ringWaits } (mkFault (srcHub 23 0) K.FAULT_RING_OVERFLOW p 0 0)
      else
        let phase := mapGet 1 s.ringPhase p
        let bs := recBytes r p phase
        let a := rd s p R.FC_RING_BASE_FR_BASE * 4096 + 32 * tail
        let h := ctrlPort s p
        let s := hostWrite (hostWrite s h (a + 16) (bs.drop 16)) h a (bs.take 16)
        let tail' := if tail + 1 = size then 0 else tail + 1
        let s := wr s p R.FC_RING_IDX_TAIL tail'
        let s := { s with
          ringPhase := mapSet s.ringPhase p (if tail' = 0 then 1 - phase else phase)
          ringWaits := s.ringWaits.filter (· != p)
          recs := s.recs.map (fun x => if x.slot = r.slot then { x with unmirrored := x.unmirrored.filter (· != p) } else x) }
        mirrorSome s p k

/-- A burst of mirroring to one ring, with its interrupt; the records of the entry into SAFE raise it in any case (R449, R455). -/
def mirrorPart (s : State) (p : Nat) : State :=
  if rdb s p R.FC_RING_CFG_FR_EN && portUsable s (ctrlPort s p) && s.recs.any (fun r => r.unmirrored.contains p) then
    let s' := mirrorSome s p 1024
    if s.safe = true ∨ rd s' p R.FC_RING_IDX_TAIL ≠ rd s p R.FC_RING_IDX_TAIL ∨ s'.hostOut.length ≠ s.hostOut.length then
      if rdb s p R.FC_RING_CFG_IRQ_EN then raiseIrq s' (ctrlPort s p) (rd s p R.FC_RING_CFG_VECTOR) else s'
    else s'
  else s

/-- Mirror to every ring; nothing leaves a package in SAFE after the records of its entry (R455, R457). -/
def mirrorAll (s : State) : State :=
  fcRefresh (if s.safe ∧ s.safeMirrored then freeRecs s else freeRecs ((partsAll s).foldl mirrorPart s))

/-! ### Taking a message (R442, R443, R445) -/

/-- Partitions a record is sent to: its own; every one for a record of the package, and for an F3 record, which goes into each enabled ring
(R449, R455). -/
def recParts (s : State) (m : FaultMsg) (cls : Nat) : List Nat :=
  match m.part with | some p => if cls = 3 then partsAll s else [p.val] | none => partsAll s

def isRingless (s : State) (p : Nat) : Bool := !rdb s p R.FC_RING_CFG_FR_EN

/-- Store a record; F0 records of a partition without a ring are freed at once (R450). -/
def storeRec (s : State) (r : FaultRec) (ps : List Nat) (placed : Option (State × Nat)) : State :=
  match placed with
  | none =>
    let s := noteLost s ps
    ps.foldl (fun s p => if r.cls = 0 then wrSat s p R.FC_LOSS_NOTE_DROPS 1 else wrSat s p R.FC_LOSS_LOST 1) s
  | some (s, i) =>
    let lost := ps.filter (fun p => mapGet 0 s.lostRecs p != 0)
    let told := lost.map (fun p => (p, mapGet 0 s.lostRecs p))
    let keep := if r.cls = 0 then ps.filter (fun p => !isRingless s p) else ps
    let s := { s with
      recs := s.recs ++ [{ r with slot := i, loss := lost, unacked := ps, unmirrored := keep }]
      lostRecs := lost.foldl (fun m p => mapErase m p) s.lostRecs }
    told.foldl (fun s (p, n) =>
      match placeAlways s with
      | some (s, j) =>
        let seq := s.seq.toNat
        { wr s p R.FC_STATUS_LAST_SEQ seq with
          seq := s.seq + 1
          recs := s.recs ++ [⟨j, srcHub 23 0, K.FAULT_RECORD_LOST.code, 0, 0, false, false, p, n, r.st, seq, 0, [], [p], [p]⟩] }
      | none => s) s

/-- The 33rd and later secondary F2 records of one HOLD are only counted (R450). -/
def secondaryFull (s : State) (cls : Nat) (secondary : Bool) (p : Nat) : Bool := cls == 2 && secondary && decide (32 ≤ mapGet 0 s.secondF2 p)

/-- The error history keeps every F2 and F3 record, and a refused firmware image (R419, R481). -/
def keepError (s : State) (r : FaultRec) (p : Nat) : State :=
  if 2 ≤ r.cls ∨ r.kind = K.FW_VERIFY_FAIL.code ∨ r.kind = K.ROLLBACK_REFUSED.code then { s with csWants := s.csWants ++ [(⟨0x0A, r.seq, recBytes r p 0⟩, .error)] } else s

/-- The collector takes one message. -/
def takeFault (s : State) (f : PendFault) : State :=
  let m := f.msg
  let p := match m.part with | some p => p.val | none => 0
  let (cls0, sec) := if m.part.isNone then (m.cls.toNat, false) else classify s m.cls.toNat m.source.toNat p
  -- An F2 record without an entry left is raised as F3.
  let cls := if cls0 = 2 ∧ !secondaryFull s cls0 sec p ∧ (place s 2).isNone then 3 else cls0
  let seq := s.seq.toNat
  let r : FaultRec := ⟨0, m.source.toNat, m.kind.toNat, cls, m.cls.toNat, sec, m.part.isNone, p, m.addr.toNat, f.st, seq, m.detail.toNat, [], [], []⟩
  let s := { s with seq := s.seq + 1 }
  let ps := recParts s m cls
  let s := ps.foldl (fun s p => wr s p R.FC_STATUS_LAST_SEQ seq) s
  let s := if m.part.isSome ∧ cls = 1 ∧ (place s 1).isSome then openScope s 1 m.source.toNat
    else if m.part.isSome ∧ cls = 2 then openScope s 2 p else s
  let s := if secondaryFull s cls sec p then noteLost (wrSat s p R.FC_LOSS_LOST 1) [p]
    else
      let s := if cls = 2 ∧ sec then { s with secondF2 := mapSet s.secondF2 p (mapGet 0 s.secondF2 p + 1) } else s
      let s := storeRec s r ps (place s cls)
      if s.safe ∧ s.safeMirrored then s else keepError s r p
  -- Escalation acts as a new fault of the higher class.
  let s := if m.cls.toNat < cls then (if cls = 2 then faultHold s p else enterSafe s m.kind.toNat) else s
  let s := mirrorAll s
  if s.safe ∧ cls = 3 then { s with safeMirrored := true } else s

def takeOut (m : FaultMsg) : List PendFault → Option (PendFault × List PendFault)
  | [] => none
  | f :: fs => if f.msg = m then some (f, fs) else (takeOut m fs).map (fun (x, r) => (x, f :: r))

/-- F1 stops its source at once, as the chapter of its unit sets out (R442): a control core, an engine queue, a storage port's journal, a fabric
port or session, the journal after an I/O error, a host queue. -/
def stopSource (s : State) (source kind : Nat) : State :=
  let c := source / 2 ^ 13
  let u := bitsOf source 7 6
  let sub := source % 128
  if c < 4 then
    let t := 64 * c + u
    if sub = 0 then
      if tileState s t = 1 then
        let s := setTile s t { tile s t with stall := none }
        wr (wr (wr s 4 R.TILE_STATUS_HALT_CODE 0xFF t) 4 R.TILE_STATUS_STATE 0 t) 4 R.TILE_STATUS_FAULT_KIND kind t
      else s
    else if sub ≤ 5 then (if qState s t (sub - 1) = 0 ∧ enginePresent s t (engineOfQueue (sub - 1)) then wr s 4 R.ENGQ_STATUS_QSTATE 1 t (sub - 1) else s)
    else s
  else if c = 4 then
    if 4 ≤ u ∧ u < 8 then
      let p := partOfLPort s (u - 4)
      if journalPort s p = u - 4 ∧ jstate s p ≠ 0 then setJstate s p 4 else s
    else if 8 ≤ u ∧ u < 20 then
      if sub ≠ 0 then closeSess s (32 * (u - 8) + (sub - 1))
      else if portUp s (u - 8) then setPortState (closePort s (u - 8)) (u - 8) 1 else s
    else if 32 ≤ u ∧ u < 40 then
      qStall s ((u - 32) / 2) ((u - 32) % 2 * 128 + sub) kind
    else s
  else s

/-- The unit of partition p that a fault of class F1 stops: its source, or its journal for an I/O error of the resilience unit (R351). -/
def stopUnit (s : State) (p source kind : Nat) : State :=
  if source = srcResilience then (if kind = K.JOURNAL_IO.code ∧ jstate s p ≠ 0 then setJstate s p 4 else s) else stopSource s source kind

/-- A message reaches the collector: one that a unit of the model sent, or one of a detection that has no row of its own, whose class
acts now (R442). A package-level unit raises F0 and F3 only (R440). -/
def execFaultMessage (m : FaultMsg) (s : State) : Host.Outcome State Fault Refusal :=
  .next (match takeOut m s.faultQ with
    | some (f, rest) => takeFault { s with faultQ := rest } f
    | none =>
      if m.part.isNone && (m.cls == 1 || m.cls == 2) then s else
      let f : PendFault := ⟨m, (partsAll s).map (stNow s)⟩
      let s := match m.part, m.cls.toNat with
        | some p, 1 => stopUnit s p m.source.toNat m.kind.toNat
        | some p, 2 => faultHold s p
        | _, 3 => enterSafe s m.kind.toNat
        | _, _ => s
      takeFault s f)

def execSettleExpiry (cls : BitVec 2) (scope : BitVec 16) (s : State) : Host.Outcome State Fault Refusal :=
  .next (
    fcRefresh { s with scopes := s.scopes.map (fun x => if x.cls = cls.toNat ∧ x.id = scope.toNat then { x with settled := true } else x) })

/-! ### Acknowledgement (R448) -/

/-- Scopes without an unacknowledged record are CLEAR. -/
def clearScopes (s : State) : State :=
  { s with scopes := s.scopes.filter (fun x => s.recs.any (fun r =>
      r.cls == x.cls && !r.unacked.isEmpty && (if x.cls = 1 then r.source == x.id else r.part == x.id && !r.pkg))) }

/-- Partition p acknowledges the records that `sel` picks. -/
def ackRecs (s : State) (p : Nat) (sel : FaultRec → Bool) : State :=
  let s := { s with recs := s.recs.map (fun r => if sel r then { r with unacked := r.unacked.filter (· != p) } else r) }
  fcRefresh (clearScopes (freeRecs s))

def execFcAck (port : HPort) (seq : Half) (s : State) : Host.Outcome State Fault Refusal :=
  .next (match ctrlAccess s port with
    | some p => ackRecs s p (fun r => r.unacked.contains p && decide ((BitVec.ofNat 32 r.seq - seq).toInt ≤ 0))
    | none => ideNote s port)

/-! ### Ring registers -/

def ringRefused (s : State) (p : Nat) : Bool :=
  let n := rd s p R.FC_RING_CFG_LOG2_SIZE
  decide (n < 4) || decide (12 < n) || decide (2 ^ 64 < rd s p R.FC_RING_BASE_FR_BASE * 4096 + 32 * 2 ^ n)
    || !rdb s 4 R.HP_STATUS_LINK_UP (ctrlPort s p)

/-- A write of FC_RING_CFG. -/
def ringCfgWrite (s : State) (p : Nat) (val : Nat) : State :=
  let was := rdb s p R.FC_RING_CFG_FR_EN
  let s := if bitAt val 15 then wrb s p R.FC_RING_CFG_CFG_ERR false else s
  let s := wr (wr (wr s p R.FC_RING_CFG_LOG2_SIZE (bitsOf val 1 4)) p R.FC_RING_CFG_IRQ_EN (bitsOf val 5 1)) p R.FC_RING_CFG_VECTOR (bitsOf val 6 9)
  if !bitAt val 0 then wrb s p R.FC_RING_CFG_FR_EN false
  else if was then s
  else if ringRefused s p then raise (wrb s p R.FC_RING_CFG_CFG_ERR true) (srcHub 23 0) K.FAULT_RING_CFG p
  else
    let s := wr (wr (wrb s p R.FC_RING_CFG_FR_EN true) p R.FC_RING_IDX_TAIL 0) p R.FC_RING_IDX_HEAD 0
    mirrorAll { s with ringPhase := mapSet s.ringPhase p 1, ringWaits := s.ringWaits.filter (· != p) }

def execFaultRingEnable (port : HPort) (val : Half) (s : State) : Host.Outcome State Fault Refusal :=
  .next (match ctrlAccess s port with
    | some p => ringCfgWrite s p val.toNat
    | none => ideNote s port)

def execFaultRingHeadWrite (port : HPort) (head : BitVec 16) (s : State) : Host.Outcome State Fault Refusal :=
  .next (match ctrlAccess s port with
    | some p => mirrorAll (wr s p R.FC_RING_IDX_HEAD head.toNat)
    | none => ideNote s port)

/-! ### Injection (R459) -/

/-- Whose unit a source ID names: a partition's (some p), the package's (none inside), or no unit. -/
def sourceOwner (s : State) (mine source : Nat) : Option (Option Nat) :=
  let c := source / 2 ^ 13
  let u := bitsOf source 7 6
  let sub := source % 128
  if c < 4 then
    (if sub ≤ 9 then some (some (partOfDie s c))
     else if (sub = 0x40 ∨ sub = 0x41) ∧ u % 8 = 0 then some (some (partOfDie s c))
     else if (sub = 0x50 ∨ sub = 0x51) ∧ u = 0 then some (some (partOfDie s c)) else none)
  else if c = 4 then
    (if u < 4 then (if sub = 0 ∧ portRole s u ≠ 2 then some (some (portPart s u)) else none)
     else if u < 8 then (if sub = 0 then some (some (partOfLPort s (u - 4))) else none)
     else if u < 20 then (if sub ≤ 32 then some (some (partOfFPort s (u - 8))) else none)
     else if u = 20 then (if sub = 0 ∨ (0x10 ≤ sub ∧ sub < 0x50) then some (some mine) else none)
     else if u = 21 ∨ u = 22 ∨ u = 30 then (if sub = 0 then some (some mine) else none)
     else if u < 30 then (if sub = 0 then some none else none)
     else if 32 ≤ u ∧ u < 40 then (if (u - 32) / 2 < partCount s.mode then some (some ((u - 32) / 2)) else none)
     else if 40 ≤ u ∧ u < 48 then (if sub = 0 then some none else none)
     else none)
  else if c = 5 then
    (if u < 24 ∧ (sub ≤ 2 ∨ 0x40 ≤ sub) then some (some (partOfStack s u)) else none)
  else none

/-- A write of FC_INJECT. A package-level unit detects faults of class F0 and F3 only (R440). -/
def injectWrite (s : State) (p : Nat) (val : Nat) : State :=
  if !dbgAuth s p then s
  else
    let src := bitsOf val 0 16
    let kind := bitsOf val 16 12
    let cls := bitsOf val 28 2
    let s := wr (wr (wr s p R.FC_INJECT_INJ_SOURCE src) p R.FC_INJECT_INJ_KIND kind) p R.FC_INJECT_INJ_CLASS cls
    if !bitAt val 30 then s
    else match sourceOwner s p src with
      | some (some o) =>
        if o = p then raise (if cls = 1 then stopUnit s p src kind else s) src ⟨kind, cls⟩ p else s
      | some none => if dbgAll s && (cls == 0 || cls == 3) then raisePkg s src ⟨kind, cls⟩ else s
      | none => s

def execInjGo (port : HPort) (val : Half) (s : State) : Host.Outcome State Fault Refusal :=
  .next (match ctrlAccess s port with
    | some p => injectWrite s p val.toNat
    | none => ideNote s port)

/-! ### Supervised pairs (R451, R453) -/

/-- A pair shows its fault level: rail, PLL, thermal trip, safe-state tree. The FRZ pair is sampled by its own rows. -/
def execPairFault (group : Fin 5) (_idx : Byte) (s : State) : Host.Outcome State Fault Refusal :=
  .next (match group.val with
    | 0 => raisePkg s (srcHub 26 0) K.SUPPLY_FAULT
    | 1 => raisePkg s (srcHub 26 0) K.CLOCK_FAULT
    | 2 => raisePkg (if s.safe then s else wrSat s 4 R.LIFE_EVENTS_TRIPS 1) (srcHub 26 0) K.THERMAL_TRIP
    | 3 => if s.safe then s else { mirrorAll (enterSafe s 0) with safeMirrored := true }
    | _ => s)

def setBroken (s : State) (g : Nat) : State := wr s 4 R.FC_PAIRS_BROKEN (setBit (rd s 4 R.FC_PAIRS_BROKEN) g true)

/-- Two wires read equal; on the FRZ pair that counts as asserted (R452). -/
def execSignalPairBroken (group : Fin 5) (idx : Byte) (s : State) : Host.Outcome State Fault Refusal :=
  .next (
    if group.val = 4 then frzPairAssert s true
    else raisePkg (setBroken s group) (srcHub 26 0) K.SIGNAL_PAIR_BROKEN (group.val + 256 * idx.toNat))

/-- A link that fails 16 consecutive retries of a flit, or loses lock; its retries are counted (R26, R453). -/
def execD2dLinkFailed (l : Fin 8) (s : State) (retries : Nat := 16) : Host.Outcome State Fault Refusal :=
  .next (raisePkg (wrSat s 4 R.D2D_RETRY_RETRIES retries l) (srcHub (40 + l) 0) K.D2D_LINK_FAILED)

/-- FLT_T and FLT_C show fault (R454). -/
def fltFault (s : State) : Bool :=
  s.safe || rd s 4 R.BOOT_STATUS_STAGE != 9
    || (partsAll s).any (fun p => isHold s p && rdb s p R.FC_CFG_FLT_ON_HOLD && s.heldForF2.contains p)

end Sys2Proof.Machine
end

