-- ==== Sys2Proof/Machine/Counters.lean ====
section
/-!
DEFINITION. Synchronisation counters (spec/09): increments, remote increments, signals by the host, counter writes and the wait watchdog.
-/

namespace Sys2Proof.Machine

/-- The unit of a counter (R441). -/
def ctrUnit : CtrRef → Nat
  | .die d _ => srcDie d 0x50
  | .fab _ _ => srcHub 22 0

/-- An increment of counter c discarded by HOLD (R265). -/
def dropInc (s : State) (c : CtrRef) : State :=
  let p := ctrPart s c
  let s := wrSat s p R.SYNC_STATUS_HOLD_DROPS 1
  if s.incDropped.contains p then s
  else raise { s with incDropped := p :: s.incDropped } (ctrUnit c) K.INC_IN_HOLD p

/-- Insert an increment behind those of lower or equal source ID. -/
def insertInc (i : Increment) : List Increment → List Increment
  | [] => [i]
  | j :: l => if i.source < j.source then i :: j :: l else j :: insertInc i l

/-- In ascending source ID; those of one source keep their order of issue (R257, R258). -/
def bySource (l : List Increment) : List Increment := l.foldl (fun a i => insertInc i a) []

/-- The increments of a counter in the order of their application: those that wait in its unit, then those that reach it now. -/
def incOrder (s : State) (c : CtrRef) : List Increment :=
  s.incWait.filter (fun i => i.ref == c) ++ bySource (s.incs.filter (fun i => i.ref == c))

/-- A cycle of a counter: up to eight increments are applied, the others wait in the unit (R256, R257); HOLD discards them. What is issued
between two cycles of a counter reaches it in one cycle (log 64). -/
def execIncrementApply (c : CtrRef) (s : State) : Host.Outcome State Fault Refusal :=
  .next (
    let p := ctrPart s c
    if !clocked s p then s
    else
      let l := incOrder s c
      let s := { s with
        incs := s.incs.filter (fun i => i.ref != c), incWait := s.incWait.filter (fun i => i.ref != c) ++ l.drop 8 }
      if isReady s p then releaseWaits (setCtr s c (ctrVal s c + (l.take 8).foldl (fun a i => a + i.amount.toNat) 0)) p
      else (l.take 8).foldl (fun s _ => dropInc s c) s)

/-- A counter is set by hand; the queue engine meets it unless its clock is gated (R402, R489). -/
def wakeQueues (s : State) (p : Nat) : State := if clocked s p then releaseWaits s p else s

/-- Every increment issued for a counter of a partition is applied, in order; HOLD discards it (R257, R265, R492). -/
def settleIncs (s : State) (p : Nat) : State :=
  let mine (i : Increment) : Bool := ctrPart s i.ref == p
  let l := (s.incWait ++ s.incs).filter mine
  wakeQueues (l.foldl (fun s i => if isReady s p then setCtr s i.ref (ctrVal s i.ref + i.amount.toNat) else dropInc s i.ref)
    { s with incs := s.incs.filter (fun i => !mine i), incWait := s.incWait.filter (fun i => !mine i) }) p

/-- A remote increment arrives (R264, R265); a frozen partition holds it (R489). -/
def execRemoteIncrementReceive (p : Part) (m : RemoteInc) (s : State) : Host.Outcome State Fault Refusal :=
  .next (
    if s.safe then s
    else if !m.admitted ∨ fabShare s ≤ m.index.toNat then raise s (srcHub 22 0) K.REMOTE_INC_REFUSED p
    else { s with incs := s.incs ++ [⟨.fab p (Fin.ofNat 1024 m.index.toNat), m.srcUnit.toNat, m.amount⟩] })

def counterRefused (s : State) (p unit : Nat) : State := raise s unit K.COUNTER_WRITE_REFUSED p

/-- SYNC_HOST_SIG (R255, R268). -/
def hostSig (s : State) (p : Nat) (v : Nat) : State :=
  let n := bitsOf v 0 32
  let inc := bitsOf v 32 31
  if bitAt v 63 ∨ inc = 0 ∨ bitsOf n 14 2 = 2 then counterRefused s p (srcHub 22 0)
  else match resolveName s p (BitVec.ofNat 32 n) with
    | .ctr c => issueInc s c (srcHub 22 0) inc
    | _ => counterRefused s p (srcHub 22 0)

def execSyncHostSig (port : HPort) (val : Word) (s : State) : Host.Outcome State Fault Refusal :=
  .next (match ctrlAccess s port with
    | some p => hostSig s p val.toNat
    | none => ideNote s port)

/-- The counter at an offset of the counter window, when it is one of partition p (R268). -/
def counterAt (s : State) (p off : Nat) : Option CtrRef :=
  if 0x300000 ≤ off ∧ off < 0x310000 ∧ off % 4 = 0 then
    let n := (off - 0x300000) / 4
    if partOfDie s (n / 4096) = p then some (.die (Fin.ofNat 4 (n / 4096)) (Fin.ofNat 4096 n)) else none
  else if 0x310000 ≤ off ∧ off < 0x311000 ∧ off % 4 = 0 then
    let j := (off - 0x310000) / 4
    if j < fabShare s then some (.fab (Fin.ofNat 4 p) (Fin.ofNat 1024 j)) else none
  else none

/-- Write the counters that an access covers. -/
def writeCounters (s : State) (p off size v : Nat) : State :=
  wakeQueues ((List.range (size / 4)).foldl (fun s k =>
    match counterAt s p (off + 4 * k) with
    | some c => setCtr s c (bitsOf v (32 * k) 32)
    | none => s) s) p

/-- A write in the counter window through BAR0 (R266). -/
def counterWrite (s : State) (p off size v : Nat) : State :=
  match (List.range (size / 4)).findSome? (fun k => counterAt s p (off + 4 * k)) with
  | some c => if isHold s p || dbgAuth s p then writeCounters s p off size v else counterRefused s p (ctrUnit c)
  | none => s

/-- BAR4 holds the counters from 0x010_0000 as BAR0 does from 0x030_0000 (R494). -/
def execCounterWrite (bar4 : Bool) (a : Access) (s : State) : Host.Outcome State Fault Refusal :=
  .next (
    if bar4 then
      let p := portPart s a.port
      if s.safe || s.mseOff.contains a.port || portRole s a.port == 2 || !accessSized a then s
      else if !dbgAuth s p then bar4Note s a.port
      else writeCounters s p (a.off + 0x200000) a.size a.val.toNat
    else accessCtl s a (fun p => counterWrite s p a.off a.size a.val.toNat))

/-- The wait that a tile's core, or its DMA engine, makes and that is not satisfied: name and target. -/
def openWait (s : State) (t : Nat) (dma : Bool) : Option (Half × Half) :=
  let p := partOfTile s t
  if dma then
    match runningStream s t with
    | some (_, r) =>
      let d := streamOf r.keep
      (match streamWait s p d r.started with
       | some (c, x) =>
         if decide (r.started < d.cnt) && decide (r.started < r.landed + d.nbuf) && !waitMet s c x then some (BitVec.ofNat 32 d.free, x) else none
       | none => none)
    | none => none
  else match (tile s t).stall with
    | some (.wait name target) =>
      (match resolveName s p name with
       | .ctr c => if waitMet s c target then none else some (name, target)
       | _ => none)
    | _ => none

/-- The source of a wait (R441). -/
def waitSource (w : Tile × Bool) : Nat := srcTile w.1 (if w.2 then 4 else 0)

/-- The wait of the lowest source ID. -/
def firstWait (w : Tile × Bool) (l : List (Tile × Bool)) : Tile × Bool := l.foldl (fun a b => if waitSource b < waitSource a then b else a) w

/-- Covered waits expire in one cycle (R262, R263): the one of the lowest source ID raises the fault, the others are counted only. -/
def execSyncTimeout (t : Tile) (dma : Bool) (s : State) (also : List (Tile × Bool) := []) : Host.Outcome State Fault Refusal :=
  .next (
    let p := partOfTile s t
    let others := (also.filter (fun w => partOfTile s w.1 == p && (openWait s w.1 w.2).isSome && w != (t, dma))).dedup
    let w := firstWait (t, dma) others
    match openWait s t dma, openWait s w.1 w.2 with
    | some _, some (name, target) =>
      if running s p then
        let s := wrSat s p R.SYNC_STATUS_TO_COUNT (1 + others.length)
        let v := match resolveName s p name with | .ctr c => ctrVal s c | _ => 0
        let s := if rdb s p R.SYNC_TO_VALUE_TO_VALID then s
          else
            let s := wr (wr s p R.SYNC_TO_INFO_TO_NAME name.toNat) p R.SYNC_TO_INFO_TO_TARGET target.toNat
            let s := wr (wr s p R.SYNC_TO_VALUE_TO_VALUE v) p R.SYNC_TO_VALUE_TO_TILE w.1
            wrb (wrb s p R.SYNC_TO_VALUE_TO_DMA w.2) p R.SYNC_TO_VALUE_TO_VALID true
        raise s (waitSource w) K.SYNC_TIMEOUT p name.toNat
      else s
    | _, _ => s)

end Sys2Proof.Machine
end

