-- ==== Sys2Proof/Machine/Levels.lean ====
section
/-!
DEFINITION. Operating levels, power caps and profiles (spec/18 R463 to R474).
-/

namespace Sys2Proof.Machine

def srcAnise : Nat := srcHub 26 0

/-- Tile clock of a level in MHz, and a die's fused voltage there (R467). -/
def levelMhz (l : Nat) : Nat := if l = 0 then 1100 else 1100 - 100 * l
def levelMv (d l : Nat) : Nat := min 850 (Config.fuseMv d l)

/-- The effective level: the highest-numbered demand; a die whose voltage is held goes no further than its voltage allows (R463, R468). -/
def demandLevel (s : State) (d : Nat) : Nat := max (rd s 4 R.PWR_DIE_PROF_LVL d) (max (rd s 4 R.PWR_DIE_CAP_LVL d) (rd s 4 R.PWR_DIE_THERM_LVL d))
def dieVset (s : State) (d : Nat) : Nat := mapGet (levelMv d 0) s.vset d
def targetLevel (s : State) (d : Nat) : Nat :=
  let l := demandLevel s d
  if rdb s 4 R.PWR_DIE_AVS_HELD d then
    (((List.range 8).filter (fun k => decide (l ≤ k ∧ levelMv d k ≤ dieVset s d))).head?).getD (rd s 4 R.PWR_DIE_EFF_LVL d)
  else l

/-- EFF_LVL and the LIMITING bits follow the demands. -/
def refreshLevels (s : State) : State :=
  let s := (List.range 4).foldl (fun s d => wr s 4 R.PWR_DIE_EFF_LVL (targetLevel s d) d) s
  (partsAll s).foldl (fun s p =>
    let any (f : Reg) := (diesOf s p).any (fun d => rd s 4 f d != 0)
    let s := wrb s p R.PWR_STATUS_CAP_LIMITING (any R.PWR_DIE_CAP_LVL)
    let s := wrb s p R.PWR_STATUS_THERMAL_LIMITING (any R.PWR_DIE_THERM_LVL)
    wrb s p R.PWR_STATUS_CURRENT_LIMITING ((diesOf s p).any (fun d => s.curLim.contains d))) s

/-- Copy profile k of a partition into the profile levels of its dies (R472). -/
def applyProfile (s : State) (p k : Nat) : State :=
  let v := rd s p R.PWR_PROFILE_LVL k
  let s := (diesOf s p).foldl (fun s d => wr s 4 R.PWR_DIE_PROF_LVL (min 7 (bitsOf v (4 * d) 4)) d) s
  refreshLevels (wr s p R.PWR_STATUS_ACTIVE_PROFILE k)

/-- The next change of a level move: a slower level takes frequency first, a faster one voltage first (R468). -/
def levelStep (s : State) (d : Nat) : State :=
  let l := rd s 4 R.PWR_DIE_EFF_LVL d
  let f := levelMhz l
  let now := rd s 4 R.PWR_DIE_FREQ_MHZ d
  if f < now then wr s 4 R.PWR_DIE_FREQ_MHZ f d
  else if dieVset s d ≠ levelMv d l ∧ !rdb s 4 R.PWR_DIE_AVS_HELD d then { s with vset := mapSet s.vset d (levelMv d l) }
  else wr s 4 R.PWR_DIE_FREQ_MHZ f d

def execLevelMoveDone (d : Die) (s : State) : Host.Outcome State Fault Refusal := .next (if s.safe then s else levelStep s d)

/-! ### Caps (R470, R471) -/

/-- A partition's share of the package cap. -/
def capShare (s : State) : Nat := rd s 4 R.PWR_PKG_CAP_PKG_CAP_W / partCount s.mode
def clampCap (s : State) (v : Nat) : Nat := max (1200 / partCount s.mode) (min (capShare s) v)

/-- The rails of an AVSBus link by rail select, and their continuous rating in µW (R460, R463): VDD_CDd at its setpoint, VDDQ_HBMd, VPP_HBMd;
VDD_HUB, VDDA_PCIE, VDDA_FAB, VDDH_FAB. -/
def railRating (s : State) (link sel : Nat) : Nat :=
  if link < 4 then (match sel with | 0 => 600000 * dieVset s link | 1 => 200000 * 1050 | _ => 8000 * 1800)
  else match sel with | 0 => 120000 * 750 | 1 => 16000 * 900 | 2 => 40000 * 900 | _ => 15000 * 1200

/-- A rail's power in µW over the last millisecond, that is ten readings; its rating once its link has failed (R463, R470). -/
def railPower (s : State) (link sel : Nat) : Nat :=
  if s.avsDown.contains link then railRating s link sel
  else
    let l := mapGet [] s.rails (4 * link + sel)
    if l.isEmpty then 0 else (l.foldl (fun a x => a + x.1 * x.2) 0) / l.length

/-- A partition's power in µW: the rails of its dies and their groups, and its part of the shared rails. `vao` is what the always-on rails
draw in W, which no AVSBus link reads (R460, R470). -/
def partPower (s : State) (p vao : Nat) : Nat :=
  (diesOf s p).foldl (fun a d => a + railPower s d 0 + railPower s d 1 + railPower s d 2) 0
    + ((List.range 4).foldl (fun a k => a + railPower s 4 k) 0 + vao * 10 ^ 6) / partCount s.mode

/-- A new package cap clamps every partition cap. -/
def setPkgCap (s : State) (w : Nat) : State :=
  let s := wr s 4 R.PWR_PKG_CAP_PKG_CAP_W w
  (partsAll s).foldl (fun s p => wr s p R.PWR_CAP_CAP_W (clampCap s (rd s p R.PWR_CAP_CAP_W))) s

/-- The die of the greatest value, the lowest on a tie. -/
def argMax (f : Nat → Nat) : List Nat → Option Nat
  | [] => none
  | d :: l => match argMax f l with
    | none => some d
    | some e => if f e ≤ f d then some d else some e

/-- Power above the cap: the die that draws most, among those that can still be slowed, goes one level down; the tenth millisecond with no
such die is noted once. -/
def capOverStep (s : State) (p : Nat) (draw : Nat → Nat) : State :=
  match argMax draw ((diesOf s p).filter (fun d => decide (rd s 4 R.PWR_DIE_CAP_LVL d < 7))) with
  | some d => wrSat { s with capHigh := mapErase s.capHigh p } 4 R.PWR_DIE_CAP_LVL 1 d
  | none =>
    let n := mapGet 0 s.capHigh p + 1
    let s := { s with capHigh := mapSet s.capHigh p n }
    if n = 10 then raisePkg s srcAnise K.POWER_CAP_UNMET else s

/-- Power within the cap, both in µW: after ten milliseconds below 95 % of it the die at the highest cap level goes one level up. -/
def capUnderStep (s : State) (p power cap : Nat) : State :=
  let s := { s with capHigh := mapErase s.capHigh p }
  if 100 * power < 95 * cap then
    let n := mapGet 0 s.capLow p + 1
    let s := { s with capLow := mapSet s.capLow p n }
    match argMax (fun d => rd s 4 R.PWR_DIE_CAP_LVL d) (diesOf s p) with
    | some d => if 10 ≤ n then wr s 4 R.PWR_DIE_CAP_LVL (rd s 4 R.PWR_DIE_CAP_LVL d - 1) d else s
    | none => s
  else { s with capLow := mapErase s.capLow p }

/-- One millisecond: `power` is what the always-on rails draw in W, `diePower` what the partition's dies draw in W, in ascending order, beside
their VDD_CD rails (none in the rails of R460). -/
def execCapEvaluate (p : Part) (power : Nat) (diePower : List Nat) (s : State) : Host.Outcome State Fault Refusal :=
  .next (
    if s.safe || decide (partCount s.mode ≤ p.val) then s
    else
      let uw := partPower s p power
      let s := wr s p R.PWR_STATUS_POWER_W (min (uw / 10 ^ 6) 4095)
      let all := min ((partsAll s).foldl (fun a p => a + rd s p R.PWR_STATUS_POWER_W) 0) 4095
      let s := (partsAll s).foldl (fun s q => wr s q R.PWR_STATUS_PKG_POWER_W all) s
      let cap := rd s p R.PWR_CAP_CAP_W * 10 ^ 6
      let s := if cap < uw then
          capOverStep { s with capLow := mapErase s.capLow p } p (fun d => railPower s d 0 + diePower.getD ((diesOf s p).idxOf d) 0 * 10 ^ 6)
        else capUnderStep s p uw cap
      refreshLevels s)

def execPwrCapWrite (port : HPort) (val : Half) (s : State) : Host.Outcome State Fault Refusal :=
  .next (match ctrlAccess s port with
    | some p => wr s p R.PWR_CAP_CAP_W (clampCap s (bitsOf val.toNat 0 12))
    | none => ideNote s port)

def execPwrApply (port : HPort) (profile : BitVec 4) (s : State) : Host.Outcome State Fault Refusal :=
  .next (match ctrlAccess s port with
    | some p => applyProfile s p profile.toNat
    | none => ideNote s port)

/-! ### Current and AVSBus (R463, R469) -/

def execCurrentLimit (d : Die) (ma : Nat) (s : State) : Host.Outcome State Fault Refusal :=
  .next (
    let lim := Config.fuseMa d
    if s.safe then s
    else if lim < ma then refreshLevels { s with curLim := d.val :: s.curLim.filter (· != d.val) }
    else if 100 * ma < 95 * lim then refreshLevels { s with curLim := s.curLim.filter (· != d.val) }
    else s)

/-- One transaction on an AVSBus link: a reading is kept; the third failure in succession of a rail's transactions fails the link and holds
its die's voltage. -/
def avsRead (s : State) (link sel : Nat) (r : RailRead) : State :=
  let k := 4 * link + sel
  if r.ok then
    let s := { s with avsFails := mapErase s.avsFails k, rails := mapSet s.rails k (((r.mv, r.ma) :: mapGet [] s.rails k).take 10) }
    if sel = 0 ∧ link < 4 then wr s 4 R.PWR_DIE_VDD_MV r.mv link else s
  else
    let n := mapGet 0 s.avsFails k + 1
    let s := { s with avsFails := mapSet s.avsFails k n }
    if n = 3 then
      let s := { s with avsDown := s.avsDown.filter (· != link) ++ [link] }
      raisePkg (if link < 4 then wrb s 4 R.PWR_DIE_AVS_HELD true link else s) (srcHub 29 0) K.AVS_LINK_FAIL
    else s

/-- Anise reads the rails of a link in ascending rail select. -/
def execAvsPoll (link : Fin 5) (reads : List RailRead) (s : State) : Host.Outcome State Fault Refusal :=
  .next (
    if s.safe then s
    else refreshLevels ((reads.foldl (fun (x : State × Nat) r => (avsRead x.1 link x.2 r, x.2 + 1)) (s, 0)).1))

/-! ### Temperature (R473, R474) -/

/-- Sensors in the order of a reading: 16 of each compute die, 4 of the hub, 1 of each base die. Die i of THERM. -/
def sensorDie (k : Nat) : Nat := if k < 64 then k / 16 else if k < 68 then 4 else k - 63

/-- Sensors that throttle compute die d: its group's and the hub's. -/
def throttles (d k : Nat) : Bool :=
  let i := sensorDie k
  i == d || i == 4 || (decide (5 ≤ i) && (i - 5) / 6 == d)

def temp (l : List Int) (k : Nat) : Int := l.getD k 0

/-- The THERM registers of die i. -/
def thermReg (s : State) (l : List Int) (i : Nat) : State :=
  let t := ((List.range 92).filter (fun k => sensorDie k = i)).foldl (fun (a : Int) k => max a (temp l k)) (-32768)
  let s := wr s 4 R.THERM_TEMP (BitVec.ofInt 16 t).toNat i
  let old := (BitVec.ofNat 16 (rd s 4 R.THERM_TEMP_MAX i)).toInt
  if old < t then wr s 4 R.THERM_TEMP_MAX (BitVec.ofInt 16 t).toNat i else s

/-- 100 µs of one die's throttle. -/
def throttleStep (l : List Int) (s : State) (d : Nat) : State :=
  let hot := (List.range 92).filter (fun k => throttles d k && decide (1600 ≤ temp l k))
  let lvl := rd s 4 R.PWR_DIE_THERM_LVL d
  if !hot.isEmpty then
    let s := { s with
      thermBy := mapSet s.thermBy d ((mapGet [] s.thermBy d).filter (fun k => !hot.contains k) ++ hot)
      thermCool := mapErase s.thermCool d }
    let s := wrSat s 4 R.PWR_DIE_THERM_LVL 1 d
    if lvl = 0 then raisePkg s srcAnise K.THROTTLE_THERMAL else s
  else if lvl = 0 then s
  else if (mapGet [] s.thermBy d).all (fun k => decide (temp l k ≤ 1552)) then
    let n := mapGet 0 s.thermCool d + 1
    let s := { s with thermCool := mapSet s.thermCool d n }
    if 100 ≤ n ∧ n % 10 = 0 then
      let s := wr s 4 R.PWR_DIE_THERM_LVL (lvl - 1) d
      if lvl = 1 then { s with thermBy := mapErase s.thermBy d, thermCool := mapErase s.thermCool d } else s
    else s
  else { s with thermCool := mapErase s.thermCool d }

/-- A sensor above 105.0 °C is noted once for each excursion. -/
def overMax (l : List Int) (s : State) (k : Nat) : State :=
  if 1680 < temp l k then
    if s.tempOver.contains k then s else raisePkg { s with tempOver := k :: s.tempOver } srcAnise K.TEMP_OVER_MAX
  else { s with tempOver := s.tempOver.filter (· != k) }

/-- 100 µs of sensor readings in 1/16 °C. `retried` are the flits that the die-to-die links have retried meanwhile, by link (R26, R453). -/
def execThermalEvaluate (temps : List Int) (s : State) (retried : List Nat := []) : Host.Outcome State Fault Refusal :=
  .next (
    if s.safe then s
    else
      let s := retried.zipIdx.foldl (fun s (n, l) => wrSat s 4 R.D2D_RETRY_RETRIES n l) s
      let s := (List.range 29).foldl (fun s i => thermReg s temps i) s
      let s := (List.range 4).foldl (throttleStep temps) s
      refreshLevels ((List.range 92).foldl (overMax temps) s))

end Sys2Proof.Machine
end

