-- ==== Sys2Proof/Machine/StepTime.lean ====
section
/-!
DEFINITION. The Step Time context (spec/02 R39 to R60, R518): next value, readiness, advances, beacons, scheduled events. How a freeze
ends is in Thaw.lean.
-/

namespace Sys2Proof.Machine

/-! ### The phase sequence (R41) -/

def phases (s : State) (p : Nat) : List Nat := (List.range (rd s p R.ST_CTRL_PHASE_CNT)).map (fun i => rd s p R.ST_PHASE_PHASE i)

/-- The next value of a context. -/
def nextVal (s : State) (p : Nat) : Nat :=
  let v := stNow s p
  match (phases s p).find? (fun x => decide (v % 65536 < x)) with
  | some x => v / 65536 * 65536 + x
  | none => (v / 65536 + 1) * 65536 + (phases s p).headD 0

def stEnabled (s : State) (p : Nat) : Bool := rdb s p R.ST_CTRL_ENABLE

/-- ST_STATUS fields that follow the state (R51). -/
def stActive (s : State) (p : Nat) : Bool := stEnabled s p && isReady s p
def stPhaseOff (s : State) (p : Nat) : Bool := stEnabled s p && !(phases s p).contains (rd s p R.ST_NOW_PHASE)
def stPhaseIdx (s : State) (p : Nat) : Nat :=
  if (phases s p).contains (rd s p R.ST_NOW_PHASE) then (phases s p).idxOf (rd s p R.ST_NOW_PHASE) else 0

/-! ### Readiness (R42, R43, R58, R307) -/

def localReady (s : State) (p : Nat) : Bool :=
  waitMet s (.fab (Fin.ofNat 4 p) (Fin.ofNat 1024 (rd s p R.ST_GATE_GATE_CTR))) (BitVec.ofNat 32 (rd s p R.ST_GATE_TGT_TARGET))

/-- Reports counted for value v, as (sender, vote). -/
def reportsFor (s : State) (p v : Nat) : List (Nat × Option Bool) :=
  ((mapGet [] s.reports p).filter (fun r => r.2.1 == v)).map (fun r => (r.1, r.2.2))

def childrenReady (s : State) (p : Nat) : Bool :=
  (stChildren s p).all (fun c => (reportsFor s p (nextVal s p)).any (fun r => r.1 == c))

/-- The next value carries an armed COMMIT_DECIDE. -/
def nextDecides (s : State) (p : Nat) : Bool := (armedCommit s p (· == nextVal s p)).isSome

/-- With SD_EN set the unit must be in RESULT for the step of a value that carries a decision. -/
def sdReady (s : State) (p : Nat) : Bool :=
  !(rdb s p R.SD_CFG_SD_EN && nextDecides s p) || (sdState s p == 3 && sdStep s p == nextVal s p / 65536)

def stReady (s : State) (p : Nat) : Bool := localReady s p && childrenReady s p && sdReady s p

/-- The OR of the local vote and the children's. -/
def voteOr (s : State) (p : Nat) : Bool :=
  rdb s p R.ST_STATUS_SKIP_VOTE || (reportsFor s p (nextVal s p)).any (fun r => r.2 == some true)

def ownNode12 (s : State) (p : Nat) : Node := BitVec.ofNat 12 (ownNode s p)

/-- The context sends one report for a value (R43). -/
def execReadinessReportSend (p : Part) (s : State) : Host.Outcome State Fault Refusal :=
  .next (
    if running s p && stEnabled s p && !isMaster s p && !rdb s p R.ST_STATUS_REPORTED && stReady s p then
      let m : Report := ⟨ownNode12 s p, BitVec.ofNat 64 (nextVal s p), if nextDecides s p then some (voteOr s p) else none⟩
      emit (wrb { s with reported := mapSet s.reported p (mapGet [] s.reported p ++ [nextVal s p]) } p R.ST_STATUS_REPORTED true) p (.report (rd s p R.ST_TREE_PARENT_NODE) m)
    else s)

/-- The rows of R518. -/
def takeReport (s : State) (p : Nat) (m : Report) : State :=
  if s.safe || isHold s p then s
  else if !stEnabled s p then s
  else if !(stChildren s p).contains m.sender.toNat then raise s srcStepTime K.BEACON_SOURCE p
  else if (reportsFor s p m.value.toNat).any (fun r => r.1 == m.sender.toNat) then raise s srcStepTime K.BEACON_DUPLICATE p
  else if m.value.toNat ≠ nextVal s p then raise s srcStepTime K.BEACON_SEQUENCE p
  else
    let s' := { s with reports := mapSet s.reports p (mapGet [] s.reports p ++ [(m.sender.toNat, m.value.toNat, m.vote)]) }
    if m.vote.isSome = nextDecides s p then s' else raise s' srcStepTime K.EVENT_MISMATCH p

def execReadinessReportReceive (p : Part) (m : Report) (s : State) : Host.Outcome State Fault Refusal :=
  .next (holdFrame s p (.readinessReportReceive p m) fun s => takeReport s p m)

/-! ### Events (R53 to R56) -/

/-- The pseudo-kind of the tick, which follows every event (R53). -/
def tickKind : Nat := 0x100

/-- ARMED entries for value v in firing order, and the tick. -/
def eventsAt (s : State) (p v : Nat) (skip : Bool) : List FiredEv :=
  (List.range 10).flatMap (fun k => ((List.range (eventShare s)).filter (fun i =>
      rd s p R.EVENT_STATE i == 1 && rd s p R.EVENT_KIND i == k && rd s p R.EVENT_EV_WHEN i == v)).map (fun i =>
    ⟨k, v, rd s p R.EVENT_EV_TARGET i, rd s p R.EVENT_EV_ARG0 i, rd s p R.EVENT_EV_ARG1 i, i, skip⟩))
  ++ [⟨tickKind, v, 0, 0, 0, 0, skip⟩]

/-- Events that wait for work in flight and act in a step of their own (R118, R161, R346). -/
def eventWaits (e : FiredEv) : Bool := (e.kind == 4 && bitAt e.arg0 0) || e.kind == 5 || e.kind == 6

/-- The tick (R53). -/
def tickDies (s : State) (p : Nat) : State :=
  if rdb s p R.ST_TICK_TICK_EN then (diesOf s p).foldl (fun s d => signalDie s d (rd s p R.ST_TICK_TICK_CTR) srcStepTime) s else s

/-- What an event does (R54). There is no hot-row set above 31: a HOTROW_REFRESH that names one does nothing, which the spec does not state
(log 72). -/
def eventAct (s : State) (p : Nat) (e : FiredEv) : State :=
  match e.kind with
  | 1 => closeInputs (commitDecide s p (e.when_ / 65536) e.skip) p (e.when_ / 65536) e.skip
  | 2 => optCoeff s p e
  | 3 => versionSwap s p e
  | 4 => if e.target < 32 then
      (if bitAt e.arg0 0 then hotSwap s p e.target else hotFetch s p e.target (rd s p R.ST_NOW_STEP)) else s
  | 5 => migrationRetire s p e
  | 6 => epochBegin s p e.target
  | 7 => applyProfile s p (e.target % 16)
  | 8 => if e.target < 512 ∧ portUsable s (ctrlPort s p) then raiseIrq s (ctrlPort s p) e.target else s
  | 9 => assertSource s p frzEvent
  | 0x100 => tickDies s p
  | _ => s

/-- An event fires: its entry is DONE and it is echoed (R55, R341). -/
def eventFire (s : State) (p : Nat) (e : FiredEv) : State :=
  let s := if e.kind = tickKind then s else wr s p R.EVENT_STATE 2 e.idx
  eventAct (eventEcho s p e) p e

def setFiring (s : State) (p : Nat) (l : List FiredEv) : State :=
  { s with firing := if l.isEmpty then mapErase s.firing p else mapSet s.firing p l }
def firingOf (s : State) (p : Nat) : List FiredEv := mapGet [] s.firing p

/-- Fire events in order until one waits or the partition stops; a freeze keeps the rest but a FREEZE of the same value, which it counts as
fired, and HOLD drops it (R49, R487). -/
def fireList (s : State) (p : Nat) : List FiredEv → State
  | [] => setFiring s p []
  | e :: es =>
    if isHold s p then setFiring s p []
    else if !(running s p || (e.kind == 9 && !s.safe)) || eventWaits e then setFiring s p (e :: es)
    else fireList (eventFire (setFiring s p es) p e) p es

def runFiring (s : State) (p : Nat) : State := fireList s p (firingOf s p)

/-- The event that waits at the front. -/
def waiting (s : State) (p : Nat) (kind : Nat) : Option FiredEv :=
  match firingOf s p with
  | e :: _ => if e.kind = kind ∧ eventWaits e ∧ running s p then some e else none
  | [] => none

/-- The front event acts and the events behind it go on. -/
def fireFront (s : State) (p : Nat) (e : FiredEv) : State := runFiring (eventFire (setFiring s p ((firingOf s p).drop 1)) p e) p

def execHotrowSwap (p : Part) (s : State) : Host.Outcome State Fault Refusal :=
  .next (match waiting s p 4 with
    | some e => if hotSwapReady s p e.target then fireFront s p e else s
    | none => s)

def execMigrationRetire (p : Part) (s : State) : Host.Outcome State Fault Refusal :=
  .next (match waiting s p 5 with
    | some e => if retireReady s e then fireFront s p e else s
    | none => s)

/-- The mark keeps its place until the epoch is closed (R346); while the resilience unit is not active it passes (log 43). `ecc` is
an error that the reads of the state list meet (R285, R286). -/
def execEpochClose (p : Part) (s : State) (ecc : Ecc := .none) : Host.Outcome State Fault Refusal :=
  .next (match waiting s p 6 with
    | some e =>
      if (mapFind s.epochWait p).isSome || (rsEnabled s p && !(appliesDone s p && gateMet s p && stacksFree s p)) then s
      else
        eccReads s 0 (if rsEnabled s p then listSpans s p else []) ecc (fun s =>
          let s' := eventFire s p e
          if (mapFind s'.epochWait p).isSome then s' else runFiring (setFiring s' p ((firingOf s' p).drop 1)) p)
    | none => s)

/-- A partner's acknowledgement of the epoch close. -/
def execEpochCloseAckReceive (p : Part) (s : State) : Host.Outcome State Fault Refusal :=
  .next (holdFrame s p (.epochCloseAckReceive p) fun s => match waiting s p 6, mapFind s.epochWait p with
    | some _, some (e, c, n) =>
      if n ≤ 1 then
        let s' := epochFinish s p e c
        runFiring (setFiring s' p ((firingOf s' p).drop 1)) p
      else { s with epochWait := mapSet s.epochWait p (e, c, n - 1) }
    | _, _ => s)

/-! ### ST_NOW takes a new value (R42, R47, R56, R59, R122, R303) -/

/-- An entry of the PTM log at an advance of the step index; the time is free where PTM is established. -/
def ptmNote (s : State) (p v : Nat) : State :=
  let i := rd s p R.ST_PTM_HEAD_HEAD
  let t := if rdb s 4 R.HP_STATUS_PTM_VALID (ctrlPort s p) then freshNat s % 2 ^ 64 else 0
  wr { tickFree s with ptmLog := mapSet s.ptmLog (64 * p + i) (v, t) } p R.ST_PTM_HEAD_HEAD (i + 1)

def takeValue (s : State) (p v : Nat) (skip : Bool) : State :=
  let newStep := v / 65536 != rd s p R.ST_NOW_STEP
  let s := wrb (wrAdd (setStNow s p v) p R.ST_GATE_TGT_TARGET (rd s p R.ST_GATE_GATE_INC)) p R.ST_STATUS_REPORTED false
  let s := { s with reported := mapErase s.reported p }
  let s := drainVersions (if newStep then ptmNote s p v else s) p
  let evs := eventsAt s p v skip
  let s := if rdb s p R.SD_CFG_SD_EN && v % 65536 == rd s p R.SD_CFG_COLLECT_PHASE && (sdState s p == 0 || sdState s p == 4) then
      sdCollect s p (v / 65536)
    else s
  runFiring (setFiring s p (firingOf s p ++ evs)) p

/-- Beacons go to the children in ascending ST_CHILD order (R46). -/
def sendBeacons (s : State) (p : Nat) (m : Beacon) : State :=
  (stChildren s p).foldl (fun s c => emit s p (.beacon c { m with sender := ownNode12 s p })) s

/-- Step 2 ^ 48 - 1 is the last (R44). The interval of 4 µs between steps is time and is not modelled. -/
def masterAdvance (s : State) (p : Nat) : State :=
  let v := nextVal s p
  if 2 ^ 48 ≤ v / 65536 then raise s srcStepTime K.STEP_EXHAUSTED p
  else
    let d := nextDecides s p
    let skip := d && voteOr s p
    takeValue (sendBeacons s p ⟨ownNode12 s p, BitVec.ofNat 64 v, ownNode12 s p, d, skip⟩) p v skip

/-- The step-decision unit reads its norm records as a step enters COLLECTING (R301). -/
def sdReads (s s' : State) (p : Nat) : Bool :=
  decide (rd s' p R.SD_STATUS_SD_STEP ≠ rd s p R.SD_STATUS_SD_STEP) || (sdState s p != 1 && sdState s' p == 1)

/-- A step under an ECC event: of a scratchpad from which the step-decision unit reads a norm record (R285): counted, or the unit stops and
keeps none; or of HBM that an engine meets in the row writes of a commit (R286). -/
def stepEcc (s : State) (p : Nat) (ecc : Ecc) (f : State → State) : State :=
  let reads (u : Tile) : Bool := (sdTiles s p).contains u.val && sdReads s (f s) p
  match ecc with
  | .corrected (.sp u) => if reads u then f (eccCorrected s 0 (.sp u)) else f s
  | .uncorrected (.sp u) => if reads u then eccUncorrected (sdIdle (f s) p) 0 (.sp u) else f s
  | _ => underEcc s ecc f

/-- `ecc` is an error that the step meets. -/
def execStMasterAdvance (p : Part) (s : State) (ecc : Ecc := .none) : Host.Outcome State Fault Refusal :=
  .next (if running s p && stEnabled s p && isMaster s p && stReady s p then stepEcc s p ecc (fun s => masterAdvance s p) else s)

/-- The rows of R45. -/
def takeBeacon (s : State) (p : Nat) (m : Beacon) : State :=
  if s.safe || isHold s p then raise s srcStepTime K.BEACON_IN_HOLD p
  else if !stEnabled s p then s
  else if isMaster s p || m.sender.toNat != rd s p R.ST_TREE_PARENT_NODE || m.master.toNat != rd s p R.ST_TREE_MASTER_NODE then
    raise s srcStepTime K.BEACON_SOURCE p
  else if m.st.toNat = stNow s p then raise s srcStepTime K.BEACON_DUPLICATE p
  else if m.st.toNat ≠ nextVal s p then raise s srcStepTime K.BEACON_SEQUENCE p
  else if m.decision ≠ nextDecides s p then raise s srcStepTime K.EVENT_MISMATCH p
  else takeValue (sendBeacons s p m) p m.st.toNat (m.decision && m.skip)

/-- `ecc` is an error that the step meets. -/
def execBeaconReceive (p : Part) (m : Beacon) (s : State) (ecc : Ecc := .none) : Host.Outcome State Fault Refusal :=
  .next (holdFrame s p (.beaconReceive p m ecc) fun s => stepEcc s p ecc (fun s => takeBeacon s p m))

def execBeaconTimeout (p : Part) (s : State) : Host.Outcome State Fault Refusal :=
  .next (if running s p && stEnabled s p && !isMaster s p && rdb s p R.ST_STATUS_REPORTED then raise s srcStepTime K.BEACON_TIMEOUT p else s)

/-! ### Writes of the Step Time block (R41, R50, R52, R55) -/

/-- The configuration breaks R41 or R52. -/
def stBreach (s : State) (p : Nat) : Bool :=
  let n := rd s p R.ST_CTRL_PHASE_CNT
  let l := phases s p
  n == 0 || decide (16 < n) || !(l.zip (l.drop 1)).all (fun x => decide (x.1 < x.2))
    || decide (12 < rd s p R.ST_TREE_CHILD_CNT) || decide (fabShare s ≤ rd s p R.ST_GATE_GATE_CTR)

/-- Offsets of ST_CTRL, ST_TREE, ST_GATE and ST_PHASE. -/
def stChecked (off size : Nat) : Bool :=
  (List.range size).any (fun k => let b := off + k; (decide (0x200008 ≤ b) && decide (b < 0x20000c))
    || (decide (0x200010 ≤ b) && decide (b < 0x200018)) || (decide (0x200040 ≤ b) && decide (b < 0x200060)))

/-- Whether the report for the next value has been sent, after a write that may have changed that value or that
sets ENABLE (R43). -/
def reportAnew (s : State) (p : Nat) : State := wrb s p R.ST_STATUS_REPORTED ((mapGet [] s.reported p).contains (nextVal s p))

/-- A write of the configuration; one that breaks R41 or R52, or sets ENABLE against R300, is refused. -/
def stConfigWrite (s : State) (p off size v : Nat) : State :=
  let locked := rdb s p R.ST_CTRL_LOCK
  let s' := fieldsWrite s p off size v locked false (fun f _ _ => decide (0x200008 ≤ f.base) && decide (f.base < 0x200400))
  if !stChecked off size then s'
  else if stEnabled s p then
    (if !stBreach s' p then (if nextVal s' p = nextVal s p then s' else reportAnew s' p)
     else if locked then s' else wrb s p R.ST_STATUS_CFG_ERR true)
  else if !stEnabled s' p then s'
  else if stBreach s' p || sdBreach s' p then wrb (wrb s' p R.ST_CTRL_ENABLE false) p R.ST_STATUS_CFG_ERR true
  else reportAnew s' p

/-- A write of ST_NOW (R50, R138, R142, R308). -/
def stNowWrite (s : State) (p off size v : Nat) : State :=
  if !isHold s p then s
  else
    let s := fieldsWrite s p off size v false false (fun f _ _ => f == R.ST_NOW_STEP || f == R.ST_NOW_PHASE)
    let d := (rd s p R.ST_NOW_STEP + 2 ^ 48 - 1) % 2 ^ 48
    let s := { s with cloveSeq := s.cloveSeq.filter (fun x => partOfCluster s x.1 != p)
                      coeffPast := mapDropRange s.coeffPast (1024 * p) (1024 * (p + 1)) }
    let s := drainVersions (setDieDecided (wr s p R.UPD_DECIDED_DECIDED_STEP d) p d false) p
    let now := stNow s p
    (List.range (eventShare s)).foldl (fun s i =>
      if rd s p R.EVENT_STATE i = 1 ∧ rd s p R.EVENT_EV_WHEN i ≤ now then
        raise (wr s p R.EVENT_STATE 3 i) srcStepTime K.EVENT_MISSED p
      else s) s

/-- A COMMIT_DECIDE must come after collection while SD_EN is set (R300). -/
def decideLate (s : State) (p k w : Nat) : Bool :=
  !(k == 1 && rdb s p R.SD_CFG_SD_EN) || decide (rd s p R.SD_CFG_COLLECT_PHASE < w % 65536)

/-- Arm entry i; the first COMMIT_DECIDE sets DECIDING (R55, R300, R308). -/
def armEvent (s : State) (p i : Nat) : State :=
  let k := rd s p R.EVENT_KIND i
  let w := rd s p R.EVENT_EV_WHEN i
  if 1 ≤ k ∧ k ≤ 9 ∧ stNow s p < w ∧ (phases s p).contains (w % 65536) ∧ decideLate s p k w then
    let s := wr s p R.EVENT_STATE 1 i
    if k = 1 then wrb s p R.SD_STATUS_DECIDING true else s
  else raise (wrb s p R.EVENT_ERR true i) srcStepTime K.EVENT_REJECTED p

/-- A write in the scheduled-event table (R55). Of a write with ARM and DISARM both set, an ARMED entry takes DISARM alone and another entry ARM
alone: the spec does not say which is evaluated (log 73). -/
def eventWrite (s : State) (p off size v : Nat) : State :=
  let i := (off - 0x201000) / 32
  if off < 0x201000 ∨ 0x203000 ≤ off ∨ eventShare s ≤ i then s
  else
    let armed := rd s p R.EVENT_STATE i == 1
    let b := 0x201008 + 32 * i
    let bit (k : Nat) : Bool := decide (off ≤ b) && decide (b + 4 ≤ off + size) && bitAt v (8 * (b - off) + k)
    let s := fieldsWrite s p off size v false false (fun f _ _ =>
      decide (0x201000 ≤ f.base) && decide (f.base < 0x201020) && (!armed || f == R.EVENT_ERR))
    if armed then (if bit 17 && !(firingOf s p).any (fun e => e.idx == i && e.kind != tickKind) then wr s p R.EVENT_STATE 0 i else s)
    else if bit 16 then armEvent s p i else s

def execEventArm (a : Access) (s : State) : Host.Outcome State Fault Refusal :=
  .next (accessCtl s a (fun p => eventWrite s p a.off a.size a.val.toNat))
def execEventDisarm (a : Access) (s : State) : Host.Outcome State Fault Refusal :=
  .next (accessCtl s a (fun p => eventWrite s p a.off a.size a.val.toNat))
def execStEnableWrite (a : Access) (s : State) : Host.Outcome State Fault Refusal :=
  .next (accessCtl s a (fun p => if 0x200008 ≤ a.off ∧ a.off < 0x200400 then stConfigWrite s p a.off a.size a.val.toNat else s))
def execStNowWrite (a : Access) (s : State) : Host.Outcome State Fault Refusal :=
  .next (accessCtl s a (fun p => if 0x200000 ≤ a.off ∧ a.off < 0x200008 then stNowWrite s p a.off a.size a.val.toNat else s))

end Sys2Proof.Machine
end

