-- ==== Sys2Proof/Machine/Thaw.lean ====
section
/-!
DEFINITION. How a freeze ends (spec/19 R486, R487, R491, R492): the HOLD that waits, the tick, the held increments and the held frames act in
that order.
-/

namespace Sys2Proof.Machine

/-- A held frame acts: its command, now that the partition is not frozen. A frame of a session was acknowledged when it arrived. -/
def heldAct (s : State) (p : Nat) (c : Instr) : State :=
  let out : Host.Outcome State Fault Refusal :=
    match c with
    | .lookupRequestReceive p m ecc => execLookupRequestReceive p m ecc s
    | .forwardedRequestReceive p m ecc => execForwardedRequestReceive p m s ecc
    | .lookupReplyReceive p m => execLookupReplyReceive p m s
    | .forwardedPartialReceive p m => execForwardedPartialReceive p m s
    | .hotrowFetchReadReceive p m ecc => execHotrowFetchReadReceive p m s ecc
    | .hotrowFetchReplyReceive p m => execHotrowFetchReplyReceive p m s
    | .contributionReceive p m ecc => execContributionReceive p m s ecc
    | .contributionAckReceive p m => execContributionAckReceive p m s
    | .withdrawalReceive p m => execWithdrawalReceive p m s
    | .forwardedContributionReceive p m ecc => execForwardedContributionReceive p m s ecc
    | .forwardedAckReceive p k row t n w => execForwardedAckReceive p k row t n w s
    | .migrationCopyReceive p m ecc => execMigrationCopyReceive p m s ecc
    | .readinessReportReceive p m => execReadinessReportReceive p m s
    | .beaconReceive p m ecc => execBeaconReceive p m s ecc
    | .sdPartialReceive p m => execSdPartialReceive p m s
    | .sdResultReceive p m => execSdResultReceive p m s
    | .collSegmentReceive p m => execCollSegmentReceive p m s
    | .takeoverReceive p f i cert => execTakeoverReceive p f i cert s
    | .copyReceive p m => execCopyReceive p m s
    | .lapseNoticeReceive p n => execLapseNoticeReceive p n s
    | .epochCloseAckReceive p => execEpochCloseAckReceive p s
    | .frameReceive _ _ m ecc => .next (handUp s p m ecc)
    | .flushReadDone p q i ok h => .next (flushDone s p q i.toNat h ok)
    | _ => .next s
  match out with
  | .next t => t
  | _ => s

/-- The frames that a partition holds act in order of arrival. -/
def deliverHeld (s : State) (p : Nat) : State :=
  (s.heldRx.filter (fun x => x.1 == p)).foldl (fun s x => heldAct s p x.2) { s with heldRx := s.heldRx.filter (fun x => x.1 != p) }

/-- Records that waited for the queue engine's clock are written. -/
def drainQueues (s : State) (p : Nat) : State :=
  (s.hqueues.filter (fun x => x.1 / 256 == p)).foldl (fun s x => drainRecs s p (x.1 % 256)) s

/-- The last source of a partition is released: its HOLD acts first (R491), cores meet what a debugger wrote (R170), the events behind the
freeze and the tick act, held increments are applied, and the held frames act (R492). -/
def thaw (s : State) (p : Nat) : State :=
  let s := wr s p R.ST_FREEZE_FSTATE 0
  let s := if s.holdLater.contains p then applyHold { s with holdLater := s.holdLater.filter (· != p) } p else s
  drainQueues (deliverHeld (settleIncs (runFiring ((tilesOf s p).foldl recheckPc s) p) p) p) p

/-- A source is released; a forced freeze stays (R492). -/
def releaseSource (s : State) (p b : Nat) : State :=
  if !bitAt (frzSrc s p) b then s
  else
    let s := wr s p R.ST_FREEZE_SRC (setBit (frzSrc s p) b false)
    if frzSrc s p = 0 ∧ frozen s p ∧ !rdb s p R.ST_FREEZE_FORCED ∧ !s.safe then thaw s p else s

def releaseAll (s : State) (b : Nat) : State := (partsAll s).foldl (fun s p => releaseSource s p b) s

def execFrzPairRelease (s : State) : Host.Outcome State Fault Refusal :=
  .next (releaseAll (wrb s 4 R.FRZ_PKG_CTRL_PAIR false) frzPair)

def pkgThaw (s : State) : State := releaseAll (wrb s 4 R.FRZ_PKG_CTRL_HELD false) frzDebug

/-- ST_FREEZE.RESUME; discarded for a forced freeze. -/
def freezeResume (s : State) (p : Nat) : State := if rdb s p R.ST_FREEZE_FORCED then s else releaseSource s p frzEvent

def execStFreezeResume (port : HPort) (s : State) : Host.Outcome State Fault Refusal :=
  .next (match ctrlAccess s port with
    | some p => freezeResume s p
    | none => ideNote s port)

end Sys2Proof.Machine
end

