-- ==== Sys2Proof/Machine/View.lean ====
section
/-!
DEFINITION. What a read of BAR0 returns (spec/00 R5, R11 to R13, spec/01 R18 to R22, R29, R35, spec/14 R366, spec/16 R420, R426, spec/20 R502 to R505):
the registers that follow other state, a partition's view of its blocks, and the view of each port by its role.
-/

namespace Sys2Proof.Machine

/-! ### Identity (R5, R18 to R20, R35) -/

/-- The fused grade: 0 of a 256-tile part, 1 of a 240-tile part (R1, R5). -/
def grade (s : State) : Nat := if s.fusedTiles.isEmpty then 0 else 1

/-- DEV_ID (R5). -/
def devId (s : State) : Nat :=
  0x00C4 * 2 ^ 16 + grade s * 2 ^ 8 + Config.fuseId 1 % 16 * 2 ^ 4 + Config.fuseId 2 % 16

/-- TILE_PRESENT_d (R18). -/
def tilePresentReg (s : State) (d : Nat) : Nat :=
  (List.range 64).foldl (fun a i => a + if tilePresent s (64 * d + i) then 2 ^ i else 0) 0

/-- Present tiles of a die, and DIE_SUMMARY (R19). -/
def tilesOnDie (s : State) (d : Nat) : Nat := ((List.range 64).filter (fun i => tilePresent s (64 * d + i))).length
def dieSummary (s : State) : Nat := (List.range 4).foldl (fun a d => a + tilesOnDie s d * 2 ^ (8 * d)) 0

/-- The word of ENGINE_PRESENT that holds tiles 4w to 4w + 3 (R20). -/
def enginePresentWord (s : State) (w : Nat) : Nat := (List.range 4).foldl (fun a j => a + presenceByte s (4 * w + j) * 2 ^ (8 * j)) 0

/-- PART_CFG as port h reads it (R35). On an unassigned port R35 fixes PART_ID and DIE_MASK only: that PART_STATE and EVER_READY read there as in
partition 0 is a DESIGN CHOICE (log 89). -/
def partCfg (s : State) (h : Nat) : Nat :=
  let role := portRole s h
  let p := portPart s h
  let mask := if role = 2 then 0 else (diesOf s p).foldl (fun a d => a + 2 ^ d) 0
  modeCode s.mode + (if role = 2 then 0 else p) * 2 ^ 4 + role * 2 ^ 8 + mask * 2 ^ 16 + partState s p * 2 ^ 24
    + rd s p R.PART_CFG_EVER_READY * 2 ^ 26

/-- The MAC address of a partition (R30, R314). -/
def macAddress (s : State) (p : Nat) : Nat := rd s p R.FAB_PREFIX_PREFIX * 2 ^ 12 + ownNode s p

/-! ### Busy bits -/

/-- An engine of a tile runs a command of the given operation on the given queues. -/
def runsOp (s : State) (t : Nat) (qs ops : List Nat) : Bool := qs.any (fun q => (queue s t q).running.any (fun r => ops.contains (opcOf r.cmd)))

def arrayBusy (s : State) (t : Nat) : Bool := runsOp s t [0, 4] [1]
def drainBusy (s : State) (t : Nat) : Bool := runsOp s t [0, 4] [2]
def pathBusy (s : State) (t : Nat) : Bool := runsOp s t [0, 4] [3, 4]
def engineBusy (s : State) (t q : Nat) : Bool := !(queue s t q).running.isEmpty

/-- DBG_OPEN and SIDE_DBG_OPEN; both read 0 for an absent tile (R188, R220, R250). -/
def accOpen (s : State) (t : Nat) : Bool := tilePresent s t && dbgAuth s (partOfTile s t) && !arrayBusy s t && !drainBusy s t
def sideOpen (s : State) (t : Nat) : Bool := tilePresent s t && dbgAuth s (partOfTile s t) && !engineBusy s t 2

/-- The windows of region 0x3 that device addresses name. -/
def windowsOf (l : List Nat) : List Nat := l.filterMap (fun a => match parseDev a with | some (.win w _) => some w | _ => none)

/-- The device addresses of the started DMA commands of a tile, those that a failing access has ended included until they complete: those of its entries and streams, of its look-ups and of its merge. -/
def tileAddrs (s : State) (t : Nat) : List Nat :=
  ((queue s t 3).running.filter (fun r => [1, 2, 6].contains (opcOf r.cmd) && [St.OK, St.HOST_ABORT, St.CHECKSUM_MISMATCH].contains r.status)).flatMap dmaAddrs
    ++ (s.looks.filter (fun l => l.tile == t)).flatMap (fun l =>
        let d := lookDescOf l.desc
        [d.idxAddr, d.bagAddr, d.outAddr, d.status])
    ++ (s.clove.filter (fun x => x.2.tile == t)).flatMap (fun x =>
        let d := mergeDescOf x.2.desc
        [d.keyAddr, d.gradAddr, d.runAddr, d.outAddr, d.status])

/-- A started command still uses window w of partition p: WIN_BUSY (R367, R369). -/
def winBusy (s : State) (p w : Nat) : Bool :=
  (tilesOf s p).any (fun t => (windowsOf (tileAddrs s t)).contains w)
    || (List.range 256).any (fun q => (hq s p q).descs.any (fun d => d.started && [2, 3, 5].contains d.opc && (windowsOf [d.src, d.dst]).contains w))

/-! ### Fields -/

/-- The value a field reads as: fields that follow other state are computed, a write-only field reads 0 (R11). -/
def fieldRead (s : State) (p : Nat) (f : Reg) (i j : Nat) : Nat :=
  if f.acc = .wo then 0
  else if f = R.ST_STATUS_ACTIVE then (stActive s p).toNat
  else if f = R.ST_STATUS_PHASE_OFF then (stPhaseOff s p).toNat
  else if f = R.ST_STATUS_PHASE_IDX then stPhaseIdx s p
  else if f = R.TILE_STATUS_STATE then tileState s i
  else if f = R.MX_STATUS_ARRAY_BUSY then (arrayBusy s i).toNat
  else if f = R.MX_STATUS_DRAIN_BUSY then (drainBusy s i).toNat
  else if f = R.MX_STATUS_PATH_BUSY then (pathBusy s i).toNat
  else if f = R.MX_STATUS_DBG_OPEN then (accOpen s i).toNat
  else if f = R.VR_STATUS_VX_BUSY then (engineBusy s i 1).toNat
  else if f = R.VR_STATUS_RE_BUSY then (engineBusy s i 2).toNat
  else if f = R.VR_STATUS_SIDE_DBG_OPEN then (sideOpen s i).toNat
  else if f = R.PART_MODE_REQ_VOTED then votedMask s p
  else if f = R.WIN_CFG_WIN_BUSY then (winBusy s p i).toNat
  else rd s (if f.pkg then 4 else p) f i j

/-- Element i of a package-wide array belongs to partition p: stacks, tiles, clusters, fabric ports, THERM's dies, dies, host ports (R16, R28,
R484). The hub die is no partition's, and its THERM is in every view (DEDUCED, log 88). -/
def ownElem (s : State) (p : Nat) (f : Reg) (i : Nat) : Bool :=
  !f.pkg || (match f.count with
    | 24 => partOfStack s i == p
    | 256 => partOfTile s i == p
    | 32 => partOfCluster s i == p
    | 12 => partOfFPort s i == p
    | 29 => if i < 4 then partOfDie s i == p else decide (i = 4) || partOfStack s (i - 5) == p
    | 4 => if decide (0x100000 ≤ f.base ∧ f.base < 0x101000) then portRole s i != 2 && portPart s i == p else partOfDie s i == p
    | _ => true)

/-! ### Words -/

/-- Queue q of tile t whose ENGQ_STATUS stands at an offset. -/
def engqAt (off : Nat) : Option (Nat × Nat) :=
  let o := (off - 0x800000) % 0x1000
  if 0x800000 ≤ off ∧ off < 0x900000 ∧ 0x10 ≤ o ∧ o < 0x38 ∧ o % 8 = 0 then some ((off - 0x800000) / 0x1000, (o - 0x10) / 8) else none

/-- Internal entry i of the collector as partition p reads it (R459). -/
def fcRec (s : State) (p i : Nat) : List Byte :=
  match s.recs.find? (fun r => r.slot == i && (r.pkg || r.part == p)) with
  | some r => recBytes r p 0
  | none => List.replicate 32 0

/-- ERROR record IDX of the store, newest first, as partition p reads it (R484). -/
def histRec (s : State) (p : Nat) : List Byte :=
  match ((s.store.filter (fun r => r.typ == 10)).reverse)[rd s p R.CS_HIST_SEL_IDX]? with
  | some r =>
    let b := leNat (sub r.payload 4 1)
    if bitAt b 2 || bitsOf b 4 2 == p then (r.payload ++ List.replicate 32 0).take 32 else List.replicate 32 0
  | none => List.replicate 32 0

/-- Q_STALL_MAP[i] over the queues that `sees` admits (R413). -/
def stallMap (s : State) (p i : Nat) (sees : Nat → Bool) : Nat :=
  (List.range 64).foldl (fun a j => a + if sees (64 * i + j) && hqState s p (64 * i + j) == 1 then 2 ^ j else 0) 0

/-- Word k of a byte string. -/
def wordOf (bs : List Byte) (k : Nat) : Nat := leNat (sub bs (8 * k) 8)

/-- What ACC_DBG_DATA or SIDE_DBG_DATA of a tile reads: the addressed word while it is open, else all-ones; 0 without authorisation (R220, R250).
An access by a port has its own row, which advances the address. -/
def debugWord (s : State) (t : Nat) (isOpen : Bool) (key : Nat → Nat) (addr : Reg) : Nat :=
  if !dbgAuth s (partOfTile s t) then 0
  else if isOpen then leNat (sramRead s (key (8 * rd s 4 addr t)) 8) else 2 ^ 64 - 1

/-- The registers that follow other state whole, as partition p sees the word at an 8-byte-aligned offset. That an entry
of the PTM log reads 0 before it is written is a DESIGN CHOICE (log 90). -/
def derivedWord (s : State) (p off : Nat) : Option Nat :=
  if off = 0 then some (devId s)
  else if off = 8 then some (partCfg s (ctrlPort s p) + dieSummary s * 2 ^ 32)
  else if 0x10 ≤ off ∧ off < 0x30 then some (tilePresentReg s ((off - 0x10) / 8))
  else if 0x100 ≤ off ∧ off < 0x200 then
    some (enginePresentWord s ((off - 0x100) / 4) + enginePresentWord s ((off - 0x100) / 4 + 1) * 2 ^ 32)
  else if 0x114000 ≤ off ∧ off < 0x114020 then some (stallMap s p ((off - 0x114000) / 8) (fun _ => true))
  else if 0x200400 ≤ off ∧ off < 0x200800 then
    let x := mapGet (0, 0) s.ptmLog (64 * p + (off - 0x200400) / 16)
    some (if off % 16 = 0 then x.1 else x.2)
  else if 0x401000 ≤ off ∧ off < 0x409000 then some (wordOf (fcRec s p ((off - 0x401000) / 32)) (off % 32 / 8))
  else if 0xC00820 ≤ off ∧ off < 0xC00840 then some (wordOf (histRec s p) ((off - 0xC00820) / 8))
  else if 0xD00040 ≤ off ∧ off < 0xD00060 then some ((mapFind s.dbgChal p).getD 0 / 2 ^ (8 * (off - 0xD00040)) % 2 ^ 64)
  else if 0xD00080 ≤ off ∧ off < 0xD000B0 then some (Config.deviceId / 2 ^ (8 * (off - 0xD00080)) % 2 ^ 64)
  else if 0xD000C0 ≤ off ∧ off < 0xD000F0 then
    some (jobAuthHash s p / 2 ^ (8 * (off - 0xD000C0)) % 2 ^ 64)
  else if 0x800000 ≤ off ∧ off < 0x900000 then
    let t := (off - 0x800000) / 0x1000
    if partOfTile s t ≠ p then some 0
    else if !tilePresent s t then some (if off % 0x1000 = 0 then 2 else 0)
    else if off % 0x1000 = 0x118 then some (debugWord s t (accOpen s t) (accKey t) R.ACC_DBG_ADDR_WORD)
    else if off % 0x1000 = 0x310 then some (debugWord s t (sideOpen s t) (sideKey t) R.SIDE_DBG_ADDR_WORD)
    else (engqAt off).map (fun (t, q) => engqStatus s t q)
  else none

/-- The fields of a word that hold a value, and TABLE_ID (R89). -/
def fieldsWord (s : State) (p off : Nat) : Nat :=
  R.all.foldl (fun a f => (List.range 8).foldl (fun a k => match elemAt f (off + k) with
      | some (i, j) => if 8 * k + f.lsb < 64 && ownElem s p f i then a + fieldRead s p f i j * 2 ^ (8 * k + f.lsb) else a
      | none => a) a)
    (if 0xA10000 ≤ off ∧ off < 0xA30000 ∧ off % 128 = 0 then (off - 0xA10000) / 128 else 0)

/-- The 64-bit word at an 8-byte-aligned offset, as the controlling host of partition p sees it. -/
def readWord (s : State) (p off : Nat) : Nat := (derivedWord s p off).getD (fieldsWord s p off)

def readBytes (s : State) (p off n : Nat) : List Byte := (List.range (n / 8)).flatMap (fun k => leBytes 8 (readWord s p (off + 8 * k)))

/-! ### Reads through BAR0, by port (R366, R503) -/

def allOnes : Word := BitVec.allOnes 64

/-- A feeder's view of the word at an offset: the identity block, its own port, windows and queues, ST_NOW and ST_STATUS; else 0 (R51, R366, R413). -/
def feederWord (s : State) (p h off : Nat) : Nat :=
  if off < 0x100000 then readWord s p off
  else if off < 0x101000 then (if (off - 0x100000) / 16 = h then readWord s p off else 0)
  else if off < 0x103000 then (if rd s p R.WIN_CFG_OWNER ((off - 0x101000) / 32) = h then readWord s p off else 0)
  else if off < 0x110000 then 0
  else if off < 0x114000 then (if qOwner s p ((off - 0x110000) / 64) = h then readWord s p off else 0)
  else if off < 0x114020 then stallMap s p ((off - 0x114000) / 8) (fun q => qOwner s p q == h)
  else if 0xD00080 ≤ off ∧ off < 0xD000B0 then readWord s p off
  else if off = 0x200000 then readWord s p off
  else if off = 0x200008 then readWord s p off / 2 ^ 32 * 2 ^ 32
  else 0

/-- The word at an offset as port h reads it. PART_CFG is the port's own view. -/
def portWord (s : State) (h off : Nat) : Nat :=
  let p := portPart s h
  if off = 8 then partCfg s h + dieSummary s * 2 ^ 32
  else if portRole s h = 1 then feederWord s p h off
  else readWord s p off

/-- Whether the rows of R503 before the role's answer a read: all-ones, 0, or none of them. In the recovery wait a port is answered as an
unassigned one, but for the recovery registers on HP0 (R420; that reads of these are answered is DEDUCED, log 56). DEVICE_ID reads on every
port (R416). -/
def readGate (s : State) (h off size : Nat) : Option Word :=
  let ident := decide (off < 0x100000)
  let open_ := ident || decide (0xD00080 ≤ off ∧ off < 0xD000B0)
  if s.safe || s.mseOff.contains h then some allOnes
  else if !((size == 4 || size == 8) && off % size == 0) then some allOnes
  else if recovering s then
    (if open_ || (h == 0 && decide (0xD00100 ≤ off ∧ off < 0xD00118)) then none else some allOnes)
  else if portRole s h = 2 then (if open_ then none else some allOnes)
  else if ideBlocked s h && !ident then some allOnes
  else if rdb s (portPart s h) R.PART_CTRL_RESET_BUSY && !ident then some 0
  else none

/-- A read of `size` bytes at an offset of BAR0 by port h: its value, in the low bits. -/
def barRead (s : State) (h off size : Nat) : Word :=
  match readGate s h off size with
  | some v => if size = 4 then v % 2 ^ 32 else v
  | none => BitVec.ofNat 64 (portWord s h (off / 8 * 8) / 2 ^ (8 * (off % 8)) % 2 ^ (8 * size))

/-! ### Doorbell pages, MSI-X and configuration space (R364, R365, R393) -/

/-- The 32-bit word of BAR2 at a 4-byte-aligned offset, as port h reads it: its queues' doorbells as last written, its MSI-X table, its
pending bits; a queue that is not its own reads 0 (R365, R366, R393). -/
def bar2Word (s : State) (h off : Nat) : Nat :=
  let p := portPart s h
  let q := off / 0x1000
  if off < 0x100000 then
    if qOwner s p q ≠ h then 0
    else if off % 0x1000 = 0 then rd s p R.SQ_DB_VALUE q
    else if off % 0x1000 = 4 then rd s p R.CQ_DB_VALUE q else 0
  else if off < 0x102000 then msixWord s h ((off - 0x100000) / 4)
  else if 0x102000 ≤ off ∧ off < 0x102040 then
    (List.range 32).foldl (fun a b => a + if s.msixPend.contains (h, (off - 0x102000) * 8 + b) then 2 ^ b else 0) 0
  else 0

/-- A read of 4 bytes of BAR2 by port h. -/
def bar2Read (s : State) (h off : Nat) : Nat :=
  if s.safe || s.mseOff.contains h || portRole s h == 2 || ideBlocked s h || recovering s || off % 4 != 0 then 2 ^ 32 - 1
  else if rdb s (portPart s h) R.PART_CTRL_RESET_BUSY then 0
  else bar2Word s h off

/-- What configuration space presents through every port (R364). The serial number is the first 8 bytes of the device ID. -/
structure PciIdentity where
  vendor   : Nat
  device   : Nat
  revision : Nat
  cls      : Nat
  subsys   : Nat
  serial   : List Byte
  deriving DecidableEq, Repr

def pciIdentity (s : State) : PciIdentity :=
  ⟨Config.vendorId % 2 ^ 16, 0x00C4, devId s % 256, 0x120000, s.subsys, (leBytes 48 Config.deviceId).take 8⟩

/-- How HP0 answers a configuration request, and how another port that is up does (R420, R456, R476): not at all, with Configuration Request
Retry Status, or normally. -/
inductive CfgAnswer where
  | silent | retry | normal
  deriving DecidableEq, Repr

def cfgAnswer (s : State) (h : Nat) : CfgAnswer :=
  if !rdb s 4 R.HP_STATUS_LINK_UP h then .silent
  else if 1 ≤ rd s 4 R.BOOT_STATUS_STAGE ∧ rd s 4 R.BOOT_STATUS_STAGE ≤ 6 then .retry else .normal

/-- The word that REG_READ returns over the sideband: partition p's view of the offsets that R458 lists, all-ones elsewhere. PART_CFG has ROLE
0b10 there. Before the always-on domain is up nothing answers. That an offset that is no multiple of 4 counts as another offset is a DESIGN
CHOICE (log 91). -/
def sideRead (s : State) (p off : Nat) : Option Nat :=
  if !s.vao then none
  else if off % 4 = 0 ∧ (off < 0x100 ∨ (0x400000 ≤ off ∧ off < 0x409000) ∨ (0x600180 ≤ off ∧ off < 0x600190)) then
    let w := readWord s p (off / 8 * 8) / 2 ^ (8 * (off % 8)) % 2 ^ 32
    some (if off = 8 then w - bitsOf w 8 2 * 2 ^ 8 + 2 * 2 ^ 8 else w)
  else some (2 ^ 32 - 1)

/-- What a read of a tile's block through a port returns when the tile is not one that the port reaches (R29, R192, R503). -/
def unreached (s : State) (h : Nat) : Word := (readGate s h 0x800000 8).getD 0

end Sys2Proof.Machine
end

