-- ==== Sys2Proof/Machine/Debug.lean ====
section
/-!
DEFINITION. Read-out and debug (spec/07 R220, spec/08 R250, spec/19 R485, R494 to R500, spec/21 R517): debug access to engine memories, the
BAR4 map, dumps and the TAP.
-/

namespace Sys2Proof.Machine

/-! ### Accumulator and side memory through BAR0 (R220, R250) -/

def memWord (s : State) (key : Nat) : Word := BitVec.ofNat 64 (leNat (sramRead s key 8))
def setWord (s : State) (key : Nat) (v : Word) : State := sramWrite s key (leBytes 8 v.toNat)

/-- One access to a word of an engine's memory; `key` is the word's key, `addr` its address register. -/
def memAccess (s : State) (addr : Reg) (i : Nat) (key : Nat → Nat) (write : Bool) (val : Word) : State × Word :=
  let w := rd s 4 addr i
  let v := memWord s (key (8 * w))
  let s := if write then setWord s (key (8 * w)) val else s
  (wrAdd s 4 addr 1 i, v)

def returnWord (write : Bool) (x : State × Word) : State := if write then x.1 else { x.1 with readOut := x.2 }

/-- One access to a word or to one half of it (`half`: false the low one): a read returns that half, a write leaves the other (R504). -/
def halfAccess (s : State) (addr : Reg) (i : Nat) (key : Nat → Nat) (write : Bool) (val : Word) : Option Bool → State × Word
  | none => memAccess s addr i key write val
  | some hi =>
    let old := memWord s (key (8 * rd s 4 addr i))
    let low := old.toNat % 2 ^ 32
    let high := old.toNat / 2 ^ 32
    let x := memAccess s addr i key write (BitVec.ofNat 64 (if hi then low + val.toNat % 2 ^ 32 * 2 ^ 32 else val.toNat % 2 ^ 32 + high * 2 ^ 32))
    (x.1, BitVec.ofNat 64 (if hi then high else low))

/-- What a port reads of all-ones in an access of this size. -/
def onesOf (half : Option Bool) : Word := if half.isSome then BitVec.ofNat 64 (2 ^ 32 - 1) else allOnes

/-- An access to ACC_DBG_DATA or SIDE_DBG_DATA through a port. -/
def engineDebug (s : State) (port t : Nat) (write : Bool) (isOpen : Bool) (busy : Kind) (sub : Nat) (half : Option Bool) (acc : State → State × Word) : State :=
  if !tileAccess s port t then returnWord write (ideNote s port, unreached s port &&& onesOf half)
  else if !dbgAuth s (partOfTile s t) then returnWord write (s, 0)
  else if isOpen then returnWord write (acc s)
  else returnWord write (raise s (srcTile t sub) busy (partOfTile s t), onesOf half)

def execAccDbgAccess (port : HPort) (t : Tile) (write : Bool) (val : Word) (s : State) (half : Option Bool := none) :
    Host.Outcome State Fault Refusal :=
  .next (engineDebug s port t write (accOpen s t) K.ACC_DEBUG_BUSY 7 half (fun s => halfAccess s R.ACC_DBG_ADDR_WORD t (accKey t) write val half))

def execSideDbgAccess (port : HPort) (t : Tile) (write : Bool) (val : Word) (s : State) (half : Option Bool := none) :
    Host.Outcome State Fault Refusal :=
  .next (engineDebug s port t write (sideOpen s t) K.SIDE_DEBUG_BUSY 8 half (fun s => halfAccess s R.SIDE_DBG_ADDR_WORD t (sideKey t) write val half))

/-! ### The BAR4 map (R494 to R496) -/

/-- A tile's debug memories: key of offset 0 and words. -/
def dbgMem (t m : Nat) : Option ((Nat → Nat) × Nat) :=
  match m with
  | 0 => some (spKey t, 2 ^ 19)
  | 1 => some (accKey t, 2 ^ 15)
  | 2 => some (sideKey t, 2 ^ 15)
  | 3 => some (imemKey t, 2 ^ 13)
  | 4 => some (dmemKey t, 2 ^ 13)
  | _ => none

/-- The tile is HALTED with every queue empty and not BUSY. -/
def tileIdle (s : State) (t : Nat) : Bool :=
  tileState s t == 0 && (List.range 5).all (fun q => (queue s t q).waiting.isEmpty && (queue s t q).running.isEmpty)

/-- The conditions of R496 for a unit of partition p. -/
def scopeOpen (s : State) (p : Nat) (tap : Bool) : Bool := if s.safe then tap else rd s p R.ST_FREEZE_FSTATE == 2
def tileOpen (s : State) (t : Nat) (tap : Bool) : Bool := scopeOpen s (partOfTile s t) tap || (!s.safe && tileIdle s t)

/-- DATA of a tile's debug window. -/
def tileData (s : State) (t : Nat) (tap write : Bool) (val : Word) : State × Word :=
  let m := rd s 4 R.DBG_ADDR_MEM t
  let w := rd s 4 R.DBG_ADDR_WORD t
  match dbgMem t m with
  | none => (wrAdd s 4 R.DBG_ADDR_WORD 1 t, allOnes)
  | some (key, n) =>
    if n ≤ w then (wrAdd s 4 R.DBG_ADDR_WORD 1 t, allOnes)
    else if tileOpen s t tap || (!s.safe && m == 1 && accOpen s t) || (!s.safe && m == 2 && sideOpen s t) then
      memAccess s R.DBG_ADDR_WORD t key write val
    else if m = 1 then (raise s (srcTile t 7) K.ACC_DEBUG_BUSY (partOfTile s t), allOnes)
    else if m = 2 then (raise s (srcTile t 8) K.SIDE_DEBUG_BUSY (partOfTile s t), allOnes)
    else (s, allOnes)

/-- A new PC of a tile; a wait that was pending at the old one is gone. -/
def debugPc (s : State) (t : Nat) (v : Word) : State :=
  wr (setTile s t { tile s t with stall := none }) 4 R.TILE_STATUS_PC (v.toNat % 2 ^ 14) t

/-- Word k of waiting entry i of queue q (R495). -/
def entryWord (s : State) (t q i k : Nat) : Word :=
  match (queue s t q).waiting[i]? with
  | some e => BitVec.ofNat 64 (cbs e.cmd (8 * k) 64)
  | none => 0

/-- The debug window of tile t. -/
def tileWindow (s : State) (t : Nat) (tap write : Bool) (o : Nat) (val : Word) : State × Word :=
  if !tilePresent s t then (s, 0)
  else if o < 0x100 then
    let r := BitVec.ofNat 5 (o / 8)
    if !tileOpen s t tap then (s, allOnes) else (if write then setG s t r val else s, getG s t r)
  else if o = 0x100 then
    (if !tileOpen s t tap then (s, allOnes) else (if write then debugPc s t val else s, BitVec.ofNat 64 (rd s 4 R.TILE_STATUS_PC t)))
  else if 0x1000 ≤ o ∧ o < 0x2400 then
    (s, entryWord s t ((o - 0x1000) / 0x400) ((o - 0x1000) % 0x400 / 32) (o % 32 / 8))
  else if o = 0x3000 then
    (if write then wr (wr s 4 R.DBG_ADDR_WORD (bitsOf val.toNat 3 19) t) 4 R.DBG_ADDR_MEM (bitsOf val.toNat 24 3) t else s,
      BitVec.ofNat 64 (rd s 4 R.DBG_ADDR_WORD t * 8 + rd s 4 R.DBG_ADDR_MEM t * 2 ^ 24))
  else if o = 0x3008 then tileData s t tap write val
  else (s, 0)

/-- The memory port of cluster c. -/
def clusterPort (s : State) (c : Nat) (tap write : Bool) (o : Nat) (val : Word) : State × Word :=
  if o = 0 then (if write then wr s 4 R.CLM_SEL_WORD (bitsOf val.toNat 3 21) c else s, BitVec.ofNat 64 (rd s 4 R.CLM_SEL_WORD c * 8))
  else if o = 8 then
    (if scopeOpen s (partOfCluster s c) tap then memAccess s R.CLM_SEL_WORD c (clmKey c) write val else (s, allOnes))
  else (s, 0)

/-! ### Dumps (R497) -/

def section_ (typ unit : Nat) (body : List Byte) : List Byte :=
  leBytes 2 typ ++ leBytes 2 0 ++ leBytes 4 unit ++ leBytes 8 body.length ++ leBytes 4 (crc32c body) ++ leBytes 44 0 ++ body

def dumpTile (s : State) (p t : Nat) : List Byte :=
  section_ 5 t ((List.range 0x480).flatMap (fun k => leBytes 8 (tileWindow s t true false (8 * k) 0).2.toNat) ++ readBytes s p (0x800000 + 0x1000 * t) 0x1000)
    ++ section_ 6 t (sramRead s (dmemKey t 0) (2 ^ 16)) ++ section_ 7 t (sramRead s (sideKey t 0) (2 ^ 18))
    ++ section_ 8 t (sramRead s (accKey t 0) (2 ^ 18)) ++ section_ 9 t (sramRead s (imemKey t 0) (2 ^ 16))
    ++ section_ 10 t (sramRead s (spKey t 0) (2 ^ 22))

/-- The image of a partition. The layout of the first section's fields is not stated (Config.fieldBytes). -/
def dumpImage (s : State) (p : Nat) : List Byte :=
  let one := Config.fieldBytes [devId s, Config.deviceId, readWord s p 0x48, partCfg s (ctrlPort s p), readWord s p 0x205000, stNow s p]
  section_ 1 0 ((one ++ List.replicate 4096 0).take 4096)
    ++ section_ 2 0 ((List.range 1024).flatMap (fcRec s p))
    ++ section_ 3 0 (readBytes s p 0x200000 0x6000)
    ++ section_ 4 0 ((diesOf s p).flatMap (fun d => (List.range 4096).flatMap (fun i => leBytes 4 (rd s 4 R.DIE_CTR_VALUE d i)))
        ++ (List.range (fabShare s)).flatMap (fun j => leBytes 4 (rd s p R.FAB_CTR_VALUE j)))
    ++ ((tilesOf s p).filter (tilePresent s)).flatMap (dumpTile s p)
    ++ (clustersOf s p).flatMap (fun c => section_ 11 c (sramRead s (clmKey c 0) (2 ^ 24)))

def dumpEnd (s : State) (p code len : Nat) : State := wr (wr s p R.DUMP_CTRL_DUMP_RESULT code) p R.DUMP_LEN_LEN len

/-- A dump, with the window's attributes (R370); one that the host ends has written a part whose length is free. -/
def dumpStart (s : State) (p : Nat) (hostOk : Bool) : State :=
  let w := rd s p R.DUMP_CTRL_DUMP_WIN
  let o := rd s p R.DUMP_OFF_OFF
  let h := rd s p R.WIN_CFG_OWNER w
  let img := dumpImage s p
  if s.safe || rd s p R.ST_FREEZE_FSTATE != 2 then dumpEnd s p St.DUMP_NOT_FROZEN 0
  else if !rdb s p R.WIN_CFG_VALID w || !rdb s p R.WIN_CFG_WR w || o % 4096 != 0 || decide (rd s p R.WIN_SIZE_SIZE w < o + img.length) then
    dumpEnd s p St.BAD_DESC 0
  else
    let n := if hostOk && portUsable s h then img.length else freshNat s % (img.length + 1)
    let s' := hostWrite (tickFree s) h (rd s p R.WIN_BASE_BASE w * 4096 + o) (img.take n)
      (rdb s p R.WIN_CFG_NS w) (rdb s p R.WIN_CFG_RO_ATTR w) (winPasid s p w)
    dumpEnd s' p (if hostOk && portUsable s h then St.OK else St.HOST_ABORT) n

/-! ### One access to BAR4 space -/

/-- The counter block's registers after its counters, laid out as in BAR0 (R268, R494). SYNC_HOST_SIG acts on a write of the whole. -/
def syncAccess (s : State) (p off : Nat) (write : Bool) (v : Nat) : State :=
  if !write then s
  else if off = 0x320020 then hostSig s p v
  else fieldsWrite s p off 8 v false true (fun f _ _ => decide (0x320000 ≤ f.base ∧ f.base < 0x320020))

/-- An aligned access to the 64-bit word at an offset of BAR4 space. -/
def bar4Word (s : State) (p : Nat) (tap write : Bool) (off : Nat) (val : Word) : State × Word :=
  let v := val.toNat
  if off = 0 then
    (if write then (if bitAt v 0 then pkgFreeze s else if bitAt v 1 then pkgThaw s else s) else s,
      BitVec.ofNat 64 (rd s 4 R.FRZ_PKG_CTRL_HELD * 4 + rd s 4 R.FRZ_PKG_CTRL_PAIR * 8))
  else if off < 0x28 then
    let s' := if write then fieldsWrite s p (0x10000000 + off) 8 v false true (fun _ _ _ => true) else s
    (if write && off == 0x10 && bitAt v 0 then dumpStart s' p true else s', BitVec.ofNat 64 (readWord s p (0x10000000 + off)))
  else if 0x120000 ≤ off ∧ off < 0x120028 then
    (syncAccess s p (off + 0x200000) write v, BitVec.ofNat 64 (readWord s p (off + 0x200000)))
  else if 0x100000 ≤ off ∧ off < 0x112000 then
    (if write then writeCounters s p (off + 0x200000) 8 v else s,
      BitVec.ofNat 64 ((List.range 2).foldl (fun a k => match counterAt s p (off + 0x200000 + 4 * k) with
        | some c => a + ctrVal s c * 2 ^ (32 * k)
        | none => a) 0))
  else if 0x200000 ≤ off ∧ off < 0x206000 then (s, BitVec.ofNat 64 (readWord s p off))
  else if 0x300000 ≤ off ∧ off < 0x308000 then
    (s, BitVec.ofNat 64 (leNat (((fcRec s p ((off - 0x300000) / 32)).drop (off % 32)).take 8)))
  else if 0x1000000 ≤ off ∧ off < 0x2000000 then
    let t := (off - 0x1000000) / 0x10000
    if partOfTile s t = p then tileWindow s t tap write (off % 0x10000) val else (s, 0)
  else if 0x2000000 ≤ off ∧ off < 0x2002000 then
    let c := (off - 0x2000000) / 0x100
    if partOfCluster s c = p then clusterPort s c tap write (off % 0x100) val else (s, 0)
  else (s, 0)

/-- One access to BAR4 space; one at an odd multiple of 4 is a 32-bit access to the upper half of its word (R504). -/
def bar4Access (s : State) (p : Nat) (tap write : Bool) (off : Nat) (val : Word) : State × Word :=
  if off % 8 = 0 then bar4Word s p tap write off val
  else if off % 8 ≠ 4 then (s, 0)
  else if 0x100000 ≤ off ∧ off < 0x112000 then
    (if write then writeCounters s p (off + 0x200000) 4 val.toNat else s,
      BitVec.ofNat 64 ((counterAt s p (off + 0x200000)).map (ctrVal s) |>.getD 0))
  else if off = 0x120024 then (s, 0)
  else
    let old := (bar4Word s p tap false (off - 4) 0).2.toNat
    let x := bar4Word s p tap write (off - 4) (BitVec.ofNat 64 (old % 2 ^ 32 + val.toNat % 2 ^ 32 * 2 ^ 32))
    (x.1, BitVec.ofNat 64 (x.2.toNat / 2 ^ 32))

/-- BAR4 is open on a port (R366, R494). -/
def bar4Open (s : State) (h : Nat) : Bool :=
  !s.safe && !s.mseOff.contains h && portRole s h != 2 && !ideBlocked s h && dbgAuth s (portPart s h)
    && !rdb s (portPart s h) R.PART_CTRL_RESET_BUSY && !recovering s

def bar4Port (s : State) (h : Nat) (k : Nat → State) : State := if bar4Open s h then k (portPart s h) else bar4Note s h

def execDbgWindowAccess (port : HPort) (write : Bool) (off : Nat) (val : Word) (s : State) : Host.Outcome State Fault Refusal :=
  .next (if bar4Open s port then returnWord write (bar4Access s (portPart s port) false write off val)
    else returnWord write (bar4Note s port, allOnes))

def execFrzPkgFreeze (port : HPort) (s : State) : Host.Outcome State Fault Refusal := .next (bar4Port s port (fun _ => pkgFreeze s))
def execFrzPkgThaw (port : HPort) (s : State) : Host.Outcome State Fault Refusal := .next (bar4Port s port (fun _ => pkgThaw s))
def execDumpStart (port : HPort) (hostOk : Bool) (s : State) : Host.Outcome State Fault Refusal :=
  .next (bar4Port s port (fun p => dumpStart s p hostOk))

/-! ### The TAP (R498 to R500, R517) -/

/-- EXTEST and CLAMP take effect. -/
def tapMayDrive (s : State) : Bool := s.safe || dbgAll s

/-- An instruction is selected; its data register captures. The boundary cells drive the pins only under EXTEST and CLAMP. -/
def tapSelect (s : State) (ir : Nat) (drive : Bool) (out : Nat) : State := { s with tapIr := ir, bscanDrive := drive, tapOut := out }

/-- A scan of the one-bit register: it captures 0 when BYPASS is selected anew. -/
def tapBypassScan (s : State) (ir : Nat) (drive tdi : Bool) : State :=
  { tapSelect s ir drive (if s.tapIr = ir then s.tapBypass.toNat else 0) with tapBypass := tdi }

def execExtest (cells : BitVec 61) (s : State) : Host.Outcome State Fault Refusal :=
  .next (if tapMayDrive s then { tapSelect s 0x00 true s.tapOut with bscan := cells } else tapBypassScan s 0x00 false false)

def execIdcode (s : State) : Host.Outcome State Fault Refusal :=
  .next (tapSelect s 0x01 false (Config.fuseId 1 % 16 * 2 ^ 28 + 0x00C4 * 2 ^ 12 + Config.fuseId 3 % 2 ^ 11 * 2 + 1))

def execSamplePreload (load : Option (BitVec 61)) (pins : BitVec 61) (s : State) : Host.Outcome State Fault Refusal :=
  .next { tapSelect s 0x02 false pins.toNat with bscan := load.getD s.bscan }

def execClamp (s : State) : Host.Outcome State Fault Refusal := .next (tapBypassScan s 0x03 (tapMayDrive s) false)
def execBypass (tdi : Bool) (s : State) : Host.Outcome State Fault Refusal := .next (tapBypassScan s 0xFF false tdi)

/-- The levels of FLT_T and FLT_C: both low while the always-on rails are absent (R461), cells 12 and 13 while the boundary register drives the
pins, which ends with the authorisation (R454, R498, R517). -/
def fltPins (s : State) : Bool × Bool :=
  if !s.vao then (false, false)
  else if s.bscanDrive && tapMayDrive s then (s.bscan.getLsbD 12, s.bscan.getLsbD 13) else (fltFault s, !fltFault s)

/-- What the other outputs of R513 do: off or low, released by the board, asserted, or as the unit behind them runs. -/
inductive PinState where
  | low | high | released | running
  deriving DecidableEq, Repr

/-- The boot has passed its first step, so that the always-on clocks and buses run. -/
def pinsRun (s : State) : Bool := s.vao && rd s 4 R.BOOT_STATUS_STAGE != 1

/-- PWR_EN[g] (R462, R513). -/
def pwrEnPin (s : State) (g : Nat) : PinState := if s.vao && bitAt s.pwrEn g then .high else .low
/-- AVS_* and LP_REFCLK run from step 2 on (R513). -/
def avsPin (s : State) : PinState := if pinsRun s then .running else .low
def lpRefclkPin (s : State) : PinState := avsPin s
/-- XSPI_* and TDO are active while the always-on rails are present (R513). -/
def xspiPin (s : State) : PinState := if s.vao then .running else .low
def tdoPin (s : State) : PinState := xspiPin s
/-- LP_PERST#[k], open drain: it floats without power, and is pulled low until EN of the port is set (R513). -/
def lpPerstPin (s : State) (k : Nat) : PinState := if !s.vao || rdb s 4 R.LP_CTRL_EN k then .released else .low

/-- The partition that owns a BAR4 address; none for a package-scope one. Blocks that show a partition's own view count as package-scope
and show partition 0's (DESIGN CHOICE, log 38). -/
def tapOwner (s : State) (a : Nat) : Option Nat :=
  if 0x100000 ≤ a ∧ a < 0x110000 then some (partOfDie s ((a - 0x100000) / 0x4000))
  else if 0x1000000 ≤ a ∧ a < 0x2000000 then some (partOfTile s ((a - 0x1000000) / 0x10000))
  else if 0x2000000 ≤ a ∧ a < 0x2002000 then some (partOfCluster s ((a - 0x2000000) / 0x100))
  else none

def tapMay (s : State) (a : Nat) : Bool :=
  !(s.safe && s.safeKind == K.VORDAUST_FAULT.code) && (match tapOwner s a with | some p => dbgAuth s p | none => dbgAll s)

/-- What Capture-DR of the access register returns: the last read's data in [71:8] and ERR in [2]; accesses end at once, so BUSY is clear
(R499). -/
def tapCapture (s : State) : Nat := s.tapData.toNat * 2 ^ 8 + s.tapErr.toNat * 4

/-- A scan of the access register captures it, and the access follows at Update-DR. -/
def tapAccess (s : State) (write : Bool) (val : Word) : State :=
  let a := s.tapAddr.toNat
  let x := if tapMay s a then bar4Access s ((tapOwner s a).getD 0) true write a val else (s, allOnes)
  let s' := { tapSelect x.1 0x10 false (tapCapture s) with tapErr := !tapMay s a, tapAddr := s.tapAddr + 8 }
  if write then s' else { s' with tapData := x.2 }

def execDbgAccessRead (s : State) : Host.Outcome State Fault Refusal := .next (tapAccess s false 0)
def execDbgAccessWrite (data : Word) (s : State) : Host.Outcome State Fault Refusal := .next (tapAccess s true data)
def execDbgAccessAddress (addr : Word) (s : State) : Host.Outcome State Fault Refusal :=
  .next { tapSelect s 0x10 false (tapCapture s) with tapAddr := addr }

/-- A token through the TAP may name any partitions. The capture returns the result of the token before (R498). -/
def execDbgAuth (token : List Byte) (s : State) : Host.Outcome State Fault Refusal :=
  .next (
    let (s', code) := unlock s 4 (fun _ => true) token
    let s' := { tapSelect s' 0x11 false s.tapResult with tapResult := code }
    if code = St.OK then s' else raisePkg s' srcVordaust K.DEBUG_AUTH_FAIL 0 code)

def execDbgChal (s : State) : Host.Outcome State Fault Refusal :=
  .next (let s' := challenge s 4; tapSelect s' 0x12 false ((mapFind s'.dbgChal 4).getD 0))

end Sys2Proof.Machine
end

