-- ==== Sys2Proof/Machine/Reset.lean ====
section
/-!
DEFINITION. Partition reset, scrub, return to READY and change of partition mode (spec/14 R376 to R381).
-/

namespace Sys2Proof.Machine

/-! ### What belongs to a partition -/

/-- The partition of an on-chip memory byte; `resident` memories are those of the matrix engine's resident region. -/
def cellPart (s : State) (key : Nat) : Nat :=
  let o := key % 2 ^ 40
  match key / 2 ^ 40 with
  | 1 => partOfTile s (o / 2 ^ 22)
  | 2 => partOfCluster s (o / 2 ^ 24)
  | 3 | 4 => partOfTile s (o / 2 ^ 18)
  | 5 | 6 => partOfTile s (o / 2 ^ 16)
  | _ => partOfTile s (o / 2 ^ 15)

/-- The partition of a byte of a package-wide register array that a partition reset returns to its Reset value. -/
def pkgPart (s : State) (a : Nat) : Option Nat :=
  let at_ (lo n stride : Nat) (f : Nat → Nat) : Option Nat := if lo ≤ a ∧ a < lo + n * stride then some (f ((a - lo) / stride)) else none
  let stk := partOfStack s
  ((([at_ 0x800000 256 0x1000 (partOfTile s), at_ 0x300000 4 0x4000 (partOfDie s), at_ 0x600000 24 0x10 stk
    , at_ 0x601000 256 4 (partOfTile s), at_ 0x601400 32 4 (partOfCluster s), at_ 0x602000 24 8 stk, at_ 0x602100 24 8 stk
    , at_ 0x610000 24 0x1000 stk, at_ 0x204020 4 8 (partOfDie s), at_ 0x500100 12 0x20 (partOfFPort s), at_ 0x500800 12 0x40 (partOfFPort s)
    , at_ 0xa00200 24 8 stk, at_ 0xa00300 24 8 stk, at_ 0xa00400 24 8 stk, at_ 0xa00500 24 8 stk, at_ 0xa00600 24 8 stk, at_ 0xa00700 24 8 stk
    , at_ 0xa40000 24 0x8000 stk, at_ 0xe06200 24 8 stk, at_ 0xe06300 24 8 stk, at_ 0xe80000 4 0x100 (partOfLPort s), at_ 0xd00100 1 0x14 (fun _ => portPart s 0)
    , at_ 0x11000000 256 0x10000 (partOfTile s), at_ 0x12000000 32 0x100 (partOfCluster s)] : List (Option Nat)).filterMap id).head?)

/-- Register fields of a partition that keep their value: they come from boot and the store. -/
def keptFields : List Reg := [R.FAB_NODE_NODE_ID, R.SEC_STATUS_IDE_REQ, R.PART_MODE_REQ_NEW_MODE]

/-- Every register of the partition takes its Reset value. -/
def resetRegs (s : State) (p : Nat) : State :=
  let kept := keptFields.map (fun f => fieldKey f p 0 0)
  { s with regs := s.regs.filter (fun kv =>
      let q := kv.1 / 2 ^ 40
      if q = 4 then pkgPart s (kv.1 % 2 ^ 40 / 8) != some p else q != p || kept.contains kv.1) }

/-- Zero the memories of step 3 of R378; a reset also zeroes the resident region. -/
def scrubMem (s : State) (p : Nat) (resident : Bool) : State :=
  { s with sram := s.sram.filter (fun c => cellPart s c.1 != p || (!resident && c.1 / 2 ^ 40 == 7)) }

/-- The state of the partition's units that is no register and no memory is as after a reset. -/
def resetUnits (s : State) (p : Nat) : State :=
  let stk (k : Nat) : Bool := partOfStack s k == p
  let keep {β : Type} (m : NatMap β) (f : Nat → Bool) : NatMap β := m.filter (fun x => !f x.1)
  { s with
    tiles := keep s.tiles (fun t => partOfTile s t == p), tgRun := keep s.tgRun stk, tgStop := s.tgStop.filter (fun k => !stk k)
    incDropped := s.incDropped.filter (· != p), heldForF2 := s.heldForF2.filter (· != p), holdLater := s.holdLater.filter (· != p)
    heldRx := s.heldRx.filter (fun x => x.1 != p)
    dieDecided := keep s.dieDecided (fun d => partOfDie s d == p), incs := s.incs.filter (fun i => ctrPart s i.ref != p), incWait := s.incWait.filter (fun i => ctrPart s i.ref != p)
    lostRecs := mapErase s.lostRecs p, secondF2 := mapErase s.secondF2 p, ringPhase := mapErase s.ringPhase p
    ringWaits := s.ringWaits.filter (· != p), lapsed := s.lapsed.filter (fun x => x.1 != p), reports := mapErase s.reports p
    ptmLog := mapDropRange s.ptmLog (64 * p) (64 * p + 64), sdRecs := mapErase s.sdRecs p, sdParts := mapErase s.sdParts p
    sdSkip := s.sdSkip.filter (· != p), sdSent := s.sdSent.filter (· != p), firing := mapErase s.firing p
    looks := s.looks.filter (fun l => partOfTile s l.tile != p), ownRuns := s.ownRuns.filter (fun r => r.part != p)
    waitReqs := s.waitReqs.filter (fun r => r.1 != p), fetches := s.fetches.filter (fun f => f.part != p)
    redirects := keep s.redirects (fun k => stk (k % 24)), held := s.held.filter (fun x => !stk x.stack)
    fwdOuts := s.fwdOuts.filter (fun x => !stk x.stack), applying := keep s.applying stk, batches := s.batches.filter (fun b => !stk b.stack)
    shardCnt := keep s.shardCnt (fun k => stk (k / 32768)), clove := keep s.clove (fun c => partOfCluster s c == p)
    cloveSeq := keep s.cloveSeq (fun c => partOfCluster s c == p), norms := keep s.norms stk, clips := mapErase s.clips p
    sess := keep s.sess (fun k => partOfFPort s (k / 32) == p), fabWait := s.fabWait.filter (fun x => x.1 != p)
    rebound := s.rebound.filter (fun x => x.1 != p), colls := mapDropRange s.colls (64 * p) (64 * p + 64)
    hbmKeys := mapErase s.hbmKeys p, dbgChal := mapErase (mapErase s.dbgChal p) 4, secRun := mapErase s.secRun p, watch := mapDropRange s.watch (4 * p) (4 * p + 4)
    staging := mapErase s.staging p, epochWait := mapErase s.epochWait p, compacting := s.compacting.filter (· != p), inputs := mapErase s.inputs p
    ilogs := s.ilogs.filter (fun x => x.1 != p), plans := mapErase s.plans p, certs := mapErase s.certs p
    hqueues := mapDropRange s.hqueues (256 * p) (256 * p + 256), capLow := mapErase s.capLow p, capHigh := mapErase s.capHigh p
    curLim := s.curLim.filter (fun d => partOfDie s d != p), thermBy := keep s.thermBy (fun d => partOfDie s d == p)
    thermCool := keep s.thermCool (fun d => partOfDie s d == p), bar4Noted := s.bar4Noted.filter (fun h => portPart s h != p)
    reported := mapErase s.reported p, rowLocks := s.rowLocks.filter (fun x => x.part != p), verHolds := s.verHolds.filter (fun x => x.part != p)
    stepped := s.stepped.filter (fun k => !stk k), stackReqs := s.stackReqs.filter (fun x => x.1 != p), coeffPast := mapDropRange s.coeffPast (1024 * p) (1024 * (p + 1))
    cloveWait := keep s.cloveWait (fun c => partOfCluster s c == p), hotBooks := keep s.hotBooks (fun k => cellPart s k == p)
    lastEngine := keep s.lastEngine stk, seedFrom := mapDropRange s.seedFrom (4 * p) (4 * p + 4)
    logTail := mapDropRange s.logTail (4 * p) (4 * p + 4), mirBatches := s.mirBatches.filter (fun x => x.1 != p)
    trainFails := keep s.trainFails (fun f => partOfFPort s f == p) }

/-- Every freeze source is released for the partition (R491). -/
def dropFreeze (s : State) (p : Nat) : State :=
  wrb (wr (wr s p R.ST_FREEZE_FSTATE 0) p R.ST_FREEZE_SRC 0) p R.ST_FREEZE_FORCED false

/-- The power registers of the partition: its share of the cap, profile 0, no demand (R472, R484). -/
def resetPower (s : State) (p : Nat) : State :=
  let s := wr s p R.PWR_CAP_CAP_W (capShare s)
  let s := ((stacksOf s p).map (· + 5) ++ [4]).foldl (fun s i => wr s 4 R.THERM_TEMP 0 i) s
  let s := (diesOf s p).foldl (fun s d =>
    let s := wr (wr (wr s 4 R.PWR_DIE_PROF_LVL 0 d) 4 R.PWR_DIE_CAP_LVL 0 d) 4 R.PWR_DIE_THERM_LVL 0 d
    let s := wr s 4 R.THERM_TEMP 0 d
    if rdb s 4 R.PWR_DIE_AVS_HELD d then s
    else wr { s with vset := mapSet s.vset d (levelMv d 0) } 4 R.PWR_DIE_FREQ_MHZ 1100 d) s
  refreshLevels s

/-- A partition reset from its start to the end of its step 5 (R378). -/
def partReset (s : State) (p cause : Nat) : State :=
  let s := dropFreeze s p
  let s := (List.range 256).foldl (fun s q => if hqState s p q = 2 then s else resetHostQueue s p q (some St.PARTITION_RESET)) s
  let s := zeroJob (closePart s p) p
  let s := fcRefresh (clearScopes (freeRecs { s with recs := s.recs.map (fun r => { r with
      unacked := r.unacked.filter (· != p), unmirrored := r.unmirrored.filter (· != p) }) }))
  let running := (mapFind s.secRun p).isSome
  let s := resetPower (resetUnits (resetRegs (scrubMem s p true) p) p) p
  let s := if running then secResult s p St.PARTITION_RESET else s
  let s := wr s p R.PART_MODE_REQ_NEW_MODE (modeCode s.mode)
  wrb (wr s p R.PART_RESET_INFO_RESET_CAUSE cause) p R.PART_CTRL_RESET_BUSY true

/-- A partition enters READY; rows whose locks have become free meanwhile are applied (R147, R303, R376). -/
def enterReady (s : State) (p : Nat) : State :=
  retryLocks (sdResume (wr { s with heldForF2 := s.heldForF2.filter (· != p), secondF2 := mapErase s.secondF2 p } p R.PART_CFG_PART_STATE 0) p) p

/-- The end of a partition reset; an earlier F3 has ended it in SAFE. -/
def execPartitionResetDone (p : Part) (s : State) : Host.Outcome State Fault Refusal :=
  .next (
    if s.safe || !rdb s p R.PART_CTRL_RESET_BUSY then s
    else
      let s := wrb (enterReady (wrb s p R.PART_CTRL_RESET_BUSY false) p) p R.PART_CFG_EVER_READY true
      raise s (srcHub (ctrlPort s p) 0) K.PARTITION_RESET_DONE p)

def execPreset (port : HPort) (key : Byte) (s : State) : Host.Outcome State Fault Refusal :=
  .next (match ctrlAccess s port with
    | some p => if key = 0xA5 then partReset s p 1 else s
    | none => ideNote s port)

/-! ### RESUME (R377) -/

def mayResume (s : State) (p : Nat) : Bool :=
  keyLoaded s p && rdb s 4 R.HP_STATUS_LINK_UP (ctrlPort s p) && !rdb s p R.PART_CTRL_SCRUB_BUSY
    && !s.recs.any (fun r => r.cls == 2 && r.unacked.contains p)

def resumePart (s : State) (p : Nat) : State :=
  if !isHold s p then s
  else if mayResume s p then enterReady s p
  else raise (wrb s p R.PART_CTRL_RESUME_ERR true) (srcHub (ctrlPort s p) 0) K.RESUME_REFUSED p

def execResume (port : HPort) (s : State) : Host.Outcome State Fault Refusal :=
  .next (match ctrlAccess s port with
    | some p => resumePart s p
    | none => ideNote s port)

/-! ### Link state of a port and change of mode (R379, R381, R383) -/

/-- The link of a port goes down; its configuration space is as after a reset. -/
def dropLink (s : State) (h : Nat) : State :=
  let s := wr (wr (wrb s 4 R.HP_STATUS_LINK_UP false h) 4 R.HP_STATUS_SPEED 0 h) 4 R.HP_STATUS_WIDTH 0 h
  let s := wrb (wrb (wrb s 4 R.HP_STATUS_FLIT false h) 4 R.HP_STATUS_PTM_VALID false h) 4 R.HP_STATUS_BME false h
  { s with d3hot := s.d3hot.filter (· != h) }

/-- The node ID of a partition from the store (R379, R481). -/
def storedNode (s : State) (p : Nat) : Nat := match inForce s 2 (partKey s p) with | some r => leNat r.payload % 4096 | none => 0

/-- The package takes a new mode: every partition is reset, the partitions of the new mode begin, and ports whose partition or role
changes drop their link. -/
def changeMode (s : State) (m : PMode) : State :=
  let old := (List.range 4).map (fun h => (portPart s h, portRole s h))
  let s := (partsAll s).foldl (fun s p => partReset s p 3) s
  let s := { s with mode := m }
  let s := (partsAll s).foldl (fun s p => wr (partReset s p 3) p R.FAB_NODE_NODE_ID (storedNode s p)) s
  ((List.range 4).filter (fun h => (portPart s h, portRole s h) != old.getD h (0, 0))).foldl
    (fun s h => dropLink (dropIde s h) h) s

/-- Every controlling host has a standing vote for mode m (R379). -/
def modeAgreed (s : State) (m : Nat) : Bool :=
  (partsAll s).all (fun p => rdb s p R.PART_MODE_REQ_VOTE && rd s p R.PART_MODE_REQ_NEW_MODE == m)

/-- A write of PART_MODE_REQ; the change of mode waits for its record in the store. A vote for the current mode is discarded, and one for the
reserved encoding 3, for which the spec states no effect (log 77); every write with VOTE clear withdraws the vote. -/
def voteWrite (s : State) (p m : Nat) (vote : Bool) : State :=
  if vote ∧ (m = 3 ∨ m = modeCode s.mode) then s
  else
    let s := wrb (if m = 3 then s else wr s p R.PART_MODE_REQ_NEW_MODE m) p R.PART_MODE_REQ_VOTE vote
    let asked := s.csWants.any (fun x => match x.2 with | .modeChange _ => true | _ => false)
    if vote && modeAgreed s m && !asked then csWant s ⟨1, 0, leBytes 1 m⟩ (.modeChange (modeOf m)) else s

def execModeVote (port : HPort) (newMode : BitVec 2) (vote : Bool) (s : State) : Host.Outcome State Fault Refusal :=
  .next (match ctrlAccess s port with
    | some p => voteWrite s p newMode.toNat vote
    | none => ideNote s port)

end Sys2Proof.Machine
end

