-- ==== Sys2Proof/Machine/Host.lean ====
section
/-!
DEFINITION. Events of the host ports and storage root ports, and host windows (spec/14 R363 to R388).
-/

namespace Sys2Proof.Machine

/-! ### Contexts of a port (R381) -/

/-- The queues of the port go to RESET and its windows become invalid, its MSI-X table is as after a PCIe reset; its IDE keys and, on a
controlling port, the fault ring go. -/
def resetContexts (s : State) (h : Nat) : State :=
  let s := dropIde s h
  let s := { s with msix := mapDropRange s.msix (2048 * h) (2048 * h + 2048), msixPend := s.msixPend.filter (fun x => x.1 != h) }
  if portRole s h = 2 then s
  else
    let p := portPart s h
    let s := lostFlushes s p h
    let s := (List.range 256).foldl (fun s q => if qOwner s p q = h ∧ hqState s p q ≠ 2 then resetHostQueue s p q none else s) s
    let s := (List.range 256).foldl (fun s w => if rd s p R.WIN_CFG_OWNER w = h then wrb s p R.WIN_CFG_VALID false w else s) s
    if portRole s h = 0 then wrb s p R.FC_RING_CFG_FR_EN false else s

/-- The controlling host's link is lost: HOLD without an F2 fault, scrub, and the HBM key is revoked. Of a frozen partition every source is
released: a HOLD that waited acts, and what was held meets the HOLD (R491, R492). -/
def ctrlLoss (s : State) (h p : Nat) : State :=
  let s := raise s (srcHub h 0) K.HOST_LINK_LOSS p
  if rdb s p R.PART_CTRL_RESET_BUSY then s
  else
    let was := frozen s p
    let s := dropFreeze s p
    let s := if s.holdLater.contains p then applyHold { s with holdLater := s.holdLater.filter (· != p) } p else enterHold s p
    let s := if was then drainQueues (deliverHeld (settleIncs s p) p) p else s
    revokeHbm (wrb (scrubMem s p false) p R.PART_CTRL_SCRUB_BUSY true) p

/-- What a lost port means to its partition. -/
def portLost (s : State) (h : Nat) : State :=
  let s := wrSat (resetContexts s h) 4 R.HP_STATUS_LOSS_CNT 1 h
  let s := (partsAll s).foldl (fun s p => if (mapFind s.secRun p).any (fun x => x.port == h) then secAbandon s p St.HOST_ABORT else s) s
  let s := if h = 0 then recoveryLost s else s
  match portRole s h with
  | 0 => ctrlLoss s h (portPart s h)
  | 1 => raise s (srcHub h 0) K.FEEDER_LINK_LOSS (portPart s h)
  | _ => s

def execLinkLoss (port : HPort) (s : State) : Host.Outcome State Fault Refusal :=
  .next (
    if !rdb s 4 R.HP_STATUS_LINK_UP port then s
    else
      let s := dropLink s port
      if s.safe then s else portLost s port)

/-- The link stays up in D3hot; the port is treated as lost. -/
def execD3hotEntry (port : HPort) (s : State) : Host.Outcome State Fault Refusal :=
  .next (
    if !rdb s 4 R.HP_STATUS_LINK_UP port || s.d3hot.contains port.val then s
    else
      let s := { s with d3hot := port.val :: s.d3hot }
      if s.safe then s else portLost s port)

/-- The configuration space is as PCIe leaves it: D0, memory space and bus mastering disabled. In the recovery wait, which goes on, there is no
partition to reset (R420). -/
def execFlr (port : HPort) (s : State) : Host.Outcome State Fault Refusal :=
  .next (
    if s.safe || !rdb s 4 R.HP_STATUS_LINK_UP port then s
    else
      let p := portPart s port
      let s := wrb (resetContexts s port) 4 R.HP_STATUS_BME false port
      let s := { s with d3hot := s.d3hot.filter (· != port.val), mseOff := port.val :: s.mseOff.filter (· != port.val) }
      if portRole s port = 0 ∧ !rdb s p R.PART_CTRL_RESET_BUSY ∧ !recovering s then partReset s p 2 else s)

def execBmeClear (port : HPort) (s : State) : Host.Outcome State Fault Refusal :=
  .next (wrb s 4 R.HP_STATUS_BME false port)

def execMseClear (port : HPort) (s : State) : Host.Outcome State Fault Refusal :=
  .next { s with mseOff := port.val :: s.mseOff.filter (· != port.val) }

def execScrubDone (p : Part) (s : State) : Host.Outcome State Fault Refusal :=
  .next (if s.safe then s else wrb s p R.PART_CTRL_SCRUB_BUSY false)

/-- Which ports train: none before the boot, HP0 alone in the recovery wait (R420, R476), none in the manufacturing test mode (R512). In SAFE those
that the boot had let begin: HP0 from step 2, the others from step 6. -/
def portTrains (s : State) (h : Nat) : Bool :=
  let f := rd s 4 R.BOOT_STATUS_FAIL_STEP
  match rd s 4 R.BOOT_STATUS_STAGE with
  | 0x9 => !s.mfgTest
  | 0xF => !s.mfgTest && (f == 0 || decide (6 ≤ f) || (h == 0 && decide (2 ≤ f)))
  | 0xE => h == 0 && !s.mfgTest
  | _ => false

/-- A link comes up and its host enables memory space and bus mastering (log 22). -/
def execHostLinkUp (port : HPort) (speed width : Nat) (flit : Bool) (s : State) : Host.Outcome State Fault Refusal :=
  .next (
    if !portTrains s port || !(decide (1 ≤ speed ∧ speed ≤ 6) && [1, 2, 4, 8].contains width) then s
    else
      let s := wr (wr (wrb s 4 R.HP_STATUS_LINK_UP true port) 4 R.HP_STATUS_SPEED speed port) 4 R.HP_STATUS_WIDTH width port
      let s := wrb (wrb s 4 R.HP_STATUS_FLIT flit port) 4 R.HP_STATUS_BME true port
      let s := tickFree (wr s 4 R.HP_STATUS_PTM_VALID (freshNat s % 2) port)
      let s := { s with
        d3hot := s.d3hot.filter (· != port.val), mseOff := s.mseOff.filter (· != port.val), ideNoted := s.ideNoted.filter (· != port.val) }
      if s.safe || portRole s port = 2 then s
      else
        let p := portPart s port
        mirrorAll ((List.range 256).foldl (fun s q => if qOwner s p q = port.val ∧ hqState s p q ≠ 2 then drainRecs s p q else s) s))

/-! ### Host windows (R367, R369) -/

/-- Setting VALID is refused (R367). -/
def windowRefused (s : State) (p w : Nat) : Bool :=
  let size := rd s p R.WIN_SIZE_SIZE w
  size == 0 || decide (2 ^ 64 < rd s p R.WIN_BASE_BASE w * 4096 + size)
    || (!rdb s p R.WIN_CFG_RD w && !rdb s p R.WIN_CFG_WR w)
    || (rdb s p R.WIN_CFG_PASID_EN w && !Config.hostPasid (rd s p R.WIN_CFG_OWNER w))

/-- OWNER written by the controlling host. -/
def windowOwner (s : State) (p w h v : Nat) : State := if portRole s h = 0 then wr s p R.WIN_CFG_OWNER v w else s

/-- Fields of a window other than OWNER and VALID. -/
def windowField (w : Nat) (f : Reg) (i : Nat) : Bool :=
  i == w && decide (0x101000 ≤ f.base ∧ f.base < 0x101020) && f != R.WIN_CFG_OWNER && f != R.WIN_CFG_VALID

/-- A write of `size` bytes in the registers of a window by port h of partition p. Outside PM1 a write that names another port as owner
is discarded. -/
def windowWrite (s : State) (p h off size v : Nat) : State :=
  let w := (off - 0x101000) / 32
  let base := 0x101000 + 32 * w
  let low := base = off
  let owner := rd s p R.WIN_CFG_OWNER w = h
  if low ∧ portRole s h = 0 ∧ s.mode ≠ .pm1 ∧ bitsOf v 0 2 ≠ ctrlPort s p ∧ !rdb s p R.WIN_CFG_VALID w then s
  else if rdb s p R.WIN_CFG_VALID w then
    if low ∧ !bitAt v 2 ∧ (owner ∨ portRole s h = 0) then wrb s p R.WIN_CFG_VALID false w else s
  else
    let s := if low then windowOwner s p w h (bitsOf v 0 2) else s
    if !owner then s
    else
      let s := fieldsWrite s p off size v false false (fun f i _ => windowField w f i)
      if low ∧ bitAt v 2 ∧ !windowRefused s p w then wrb s p R.WIN_CFG_VALID true w else s

def inWindows (off : Nat) : Bool := decide (0x101000 ≤ off ∧ off < 0x103000)

def execWindowWrite (a : Access) (s : State) : Host.Outcome State Fault Refusal :=
  .next (accessPort s a (fun p => if inWindows a.off then windowWrite s p a.port a.off a.size a.val.toNat else s))

/-! ### Storage root ports (R384 to R388) -/

/-- The link of a storage root port goes down. -/
def dropStorage (s : State) (k : Nat) : State :=
  let s := wr (wr (wrb s 4 R.LP_STATUS_LINK_UP false k) 4 R.LP_STATUS_SPEED 0 k) 4 R.LP_STATUS_WIDTH 0 k
  wrb (wrb (wrb s 4 R.LP_STATUS_DRIVE_READY false k) 4 R.LP_STATUS_FMT_OK false k) 4 R.LP_STATUS_RESV_HELD false k

/-- A write of LP_CTRL: clear shuts the drive down and disables the link; set lets STORAGE_LINK_UP bring it up. -/
def lpWrite (s : State) (k : Nat) (en : Bool) : State :=
  let s := wrb s 4 R.LP_CTRL_EN en k
  if en then s else dropStorage s k

def execLpEnable (port : HPort) (k : LPort) (en : Bool) (s : State) : Host.Outcome State Fault Refusal :=
  .next (match ctrlAccess s port with
    | some p => if partOfLPort s k = p then lpWrite s k en else s
    | none => ideNote s port)

/-- An enabled port's link comes up and Anise enumerates the drive; its SMART values are the drive's. -/
def execStorageLinkUp (k : LPort) (speed width : Nat) (fmtOk : Bool) (lbas : Word) (s : State) : Host.Outcome State Fault Refusal :=
  .next (
    if s.safe || !rdb s 4 R.LP_CTRL_EN k || !(decide (1 ≤ speed ∧ speed ≤ 6) && [1, 2, 4].contains width) then s
    else
      let s := wr (wr (wrb s 4 R.LP_STATUS_LINK_UP true k) 4 R.LP_STATUS_SPEED speed k) 4 R.LP_STATUS_WIDTH width k
      let s := wrb (wrb s 4 R.LP_STATUS_DRIVE_READY true k) 4 R.LP_STATUS_FMT_OK fmtOk k
      let s := wr s 4 R.LP_NS1_LBAS_LBAS lbas.toNat k
      tickFree (wr (wr s 4 R.LP_HEALTH_CRIT_WARN (freshNat s 0 % 256) k) 4 R.LP_HEALTH_PCT_USED (freshNat s 1 % 256) k))

/-- The journal runs on the port (R348, R351). -/
def journalUses (s : State) (p k : Nat) : Bool := journalPort s p == k && jstate s p != 0

def execStorageLinkDown (k : LPort) (s : State) : Host.Outcome State Fault Refusal :=
  .next (
    if s.safe || !rdb s 4 R.LP_STATUS_LINK_UP k then s
    else
      let p := partOfLPort s k
      let s := wrSat (dropStorage s k) 4 R.LP_STATUS_LOSS_CNT 1 k
      let s := if journalUses s p k then setJstate s p 4 else s
      raise s (srcHub (4 + k) 0) K.STORAGE_LINK_DOWN p)

/-- A command of the journal's drive errs or times out. -/
def execNvmeCompletion (k : LPort) (ok : Bool) (s : State) : Host.Outcome State Fault Refusal :=
  .next (
    let p := partOfLPort s k
    if s.safe || ok || !rdb s 4 R.LP_CTRL_EN k then s
    else if journalPort s p = k then journalFail s p
    else s)

end Sys2Proof.Machine
end

