-- ==== Sys2Proof/Machine/MemTg.lean ====
section
/-!
DEFINITION. Traffic generators (spec/10 R290 to R293).
-/

namespace Sys2Proof.Machine

/-- The configuration of generator g of a stack keeps the ranges of its fields. -/
def tgCfgOk (s : State) (k g : Nat) : Bool :=
  decide (rd s 4 R.TG_CFG_ADDR_MODE k g ≠ 3) && decide (rd s 4 R.TG_CFG_RD_PCT k g ≤ 100)
    && rd s 4 R.TG_STRIDE_STRIDE k g % 64 == 0 && rd s 4 R.TG_BASE_BASE k g % 64 == 0 && rd s 4 R.TG_LEN_LEN k g % 64 == 0
    && decide (rd s 4 R.TG_BASE_BASE k g + rd s 4 R.TG_LEN_LEN k g ≤ 2 ^ 30)

def tgMask (s : State) (k : Nat) : List Nat := (List.range 64).filter (fun g => bitAt (rd s 4 R.TG_MASK_PC_EN k) g)

/-- An HBM key lies in the range of generator g of stack k (R290). -/
def tgCovers (s : State) (k g key : Nat) : Bool :=
  let o := key % 2 ^ 36
  let c := o / 2 ^ 14 * 256 + o % 256
  key / 2 ^ 36 == k && o / 256 % 64 == g && decide (rd s 4 R.TG_BASE_BASE k g ≤ c)
    && decide (c < rd s 4 R.TG_BASE_BASE k g + rd s 4 R.TG_LEN_LEN k g)

/-- Bytes of one access of generator g (R292). -/
def tgBurst (s : State) (k g : Nat) : Nat := 64 * 2 ^ rd s 4 R.TG_CFG_BURST_LOG2 k g

/-- Bytes from one access of generator g to its next: its burst where its addresses are sequential, its stride where they are strided; none
is stated where they are pseudo-random (R293). -/
def tgPace (s : State) (k g : Nat) : Option Nat :=
  match rd s 4 R.TG_CFG_ADDR_MODE k g with
  | 0 => some (tgBurst s k g)
  | 2 => some (rd s 4 R.TG_STRIDE_STRIDE k g)
  | _ => none

/-- The i-th access of generator g, counted from 0, may cover the byte `o` bytes after TG_BASE (R292, R293). DESIGN CHOICE (log 92): the spec
does not say where a pseudo-random access falls, nor where accesses go on once the next would leave the range, and any byte of the range may
then be covered. -/
def tgInAccess (s : State) (k g i o : Nat) : Bool :=
  match tgPace s k g with
  | some d =>
    if i * d + tgBurst s k g ≤ rd s 4 R.TG_LEN_LEN k g then decide (i * d ≤ o ∧ o < i * d + tgBurst s k g) else true
  | none => true

/-- One of the first n accesses of generator g may cover the byte `o` bytes after TG_BASE: of the accesses in order, the last that does not
begin after it is the one to look at, unless some access has left the order. -/
def tgTouched (s : State) (k g n o : Nat) : Bool :=
  decide (0 < n) && (tgInAccess s k g (n - 1) o
    || (match tgPace s k g with
      | some d => tgInAccess s k g (if d = 0 then 0 else min (o / d) (n - 1)) o
      | none => true))

/-- An HBM key lies where the run that TG_COUNT gives generator g of stack k may reach; without a count, anywhere in its range. -/
def tgReaches (s : State) (k g key : Nat) : Bool :=
  let o := key % 2 ^ 36
  let n := rd s 4 R.TG_COUNT_COUNT k g
  tgCovers s k g key && (n == 0 || tgTouched s k g n (o / 2 ^ 14 * 256 + o % 256 - rd s 4 R.TG_BASE_BASE k g))

/-- Bytes that a generator may write are lost (R291). -/
def tgForget (s : State) (k : Nat) (gs : List Nat) : State :=
  let w := gs.filter (fun g => decide (rd s 4 R.TG_CFG_RD_PCT k g < 100))
  if w.isEmpty then s
  else { s with hbm := s.hbm.filter (fun c => !(w.any (fun g => tgReaches s k g c.1))), hbmGen := s.hbmGen + 1 }

/-- RUNNING and DONE follow the mask of running generators. -/
def tgSettle (s : State) (k mask : Nat) : State :=
  let s := { s with tgRun := mapSet s.tgRun k mask }
  wrb (wrb s 4 R.TG_CTRL_RUNNING (mask != 0) k) 4 R.TG_CTRL_DONE (mask == 0) k

/-- START on a stack of partition p (R291). -/
def tgStart (s : State) (p k : Nat) : State :=
  if partOfStack s k ≠ p then s
  else if !isHold s p || rdb s 4 R.TG_CTRL_RUNNING k || (tgMask s k).any (fun g => !tgCfgOk s k g) then
    raise s (srcStack k 2) K.TG_REFUSED p
  else
    let gs := tgMask s k
    let s := tgForget s k gs
    let s := wrb s 4 R.TG_CTRL_MISCOMPARE false k
    let s := gs.foldl (fun s g => wr s 4 R.TG_DONE_CNT_DONE_CNT 0 k g) s
    tgSettle { s with tgStop := s.tgStop.filter (· != k) } k (rd s 4 R.TG_MASK_PC_EN k)

def execTgStart (port : HPort) (k : Stack) (s : State) : Host.Outcome State Fault Refusal :=
  .next (match ctrlAccess s port with
    | some p => tgStart s p k
    | none => ideNote s port)

/-- STOP: each generator stops after its current access. -/
def tgHalt (s : State) (p k : Nat) : State :=
  if partOfStack s k = p ∧ rdb s 4 R.TG_CTRL_RUNNING k ∧ !s.tgStop.contains k then { s with tgStop := k :: s.tgStop } else s

def execTgStop (port : HPort) (k : Stack) (s : State) : Host.Outcome State Fault Refusal :=
  .next (match ctrlAccess s port with
    | some p => tgHalt s p k
    | none => ideNote s port)

/-- The word that generator g of stack k writes at a channel offset, and compares its reads with (R292): the seed; the PRBS-31 word of the
seed XOR the address, or the walking one, which Config leaves open; or the offset itself (R293). -/
def tgData (s : State) (k g : Nat) (off : Nat) : Word :=
  let seed := BitVec.ofNat 64 (rd s 4 R.TG_SEED_SEED k g)
  match rd s 4 R.TG_CFG_DATA_MODE k g with
  | 0 => seed
  | 3 => BitVec.ofNat 64 off
  | 1 => Config.tgWord 1 (seed ^^^ BitVec.ofNat 64 off) 0
  | m => Config.tgWord m seed (BitVec.ofNat 64 off)

/-- What a generator reports of its reads can be: miscompares only of words that it read under CHECK, no more than its accesses hold (with
STOP_ON_ERR, the last of them), the first a word of its range that those accesses cover and that differs from what the generator expects there
(R292). -/
def tgErrsOk (s : State) (k g : Nat) (r : TgResult) : Bool :=
  let a := r.errAddr.toNat
  let n := r.accesses.toNat
  let o := a - rd s 4 R.TG_BASE_BASE k g
  let words := 8 * 2 ^ rd s 4 R.TG_CFG_BURST_LOG2 k g
  r.errs == 0 ||
    (rdb s 4 R.TG_CFG_CHECK k g && decide (0 < rd s 4 R.TG_CFG_RD_PCT k g)
      && (if rdb s 4 R.TG_CFG_STOP_ON_ERR k g then decide (r.errs.toNat ≤ words ∧ 0 < n) && tgInAccess s k g (n - 1) o
        else decide (r.errs.toNat ≤ n * words) && tgTouched s k g n o)
      && decide (a % 8 = 0) && decide (rd s 4 R.TG_BASE_BASE k g ≤ a)
      && decide (a < rd s 4 R.TG_BASE_BASE k g + rd s 4 R.TG_LEN_LEN k g) && r.readWord != tgData s k g a)

/-- A running generator may end with these results (R292). -/
def tgEnds (s : State) (k g : Nat) (r : TgResult) : Bool :=
  let cnt := rd s 4 R.TG_COUNT_COUNT k g
  let n := r.accesses.toNat
  let errs := r.errs != 0
  bitAt (mapGet 0 s.tgRun k) g && clocked s (partOfStack s k) && tgErrsOk s k g r && (cnt == 0 || decide (n ≤ cnt))
    && ((cnt != 0 && n == cnt) || s.tgStop.contains k || (errs && rdb s 4 R.TG_CFG_STOP_ON_ERR k g))

/-- What a request waits for is still driven (R291). -/
def stackReqWaits (s : State) (p : Nat) : StackReq → Bool
  | .contrib m | .fwd m => engineWaits s m.stack.toNat
  | .mig m => engineWaits s m.home.stack.toNat
  | .access _ _ _ a => engineWaits s a.stack.toNat
  | .migAck k row table ver _ => match ackBatch s k row table ver with | some b => ackWaits s p k b | none => false
  | .moved m => engineWaits s m.stack.toNat
  | .migrate => migListWaits s p
  | .arm k => armWaits s p k

/-- One request that waited is served. -/
def serveStackReq (s : State) (p : Nat) : StackReq → State
  | .contrib m => takeContrib s p m
  | .fwd m => takeForward s p m
  | .mig m => takeMigCopy s p m
  | .access src unit msg a => serveAccess s p src unit msg a
  | .migAck k row table ver stored => takeMigAck s p k row table ver stored
  | .moved m => takeMoved s p m
  | .migrate => migrateCmd (wrb s p R.MIG_STATUS_MIG_BUSY false) p .none
  | .arm k => collArm s p k .none

/-- A stack that no generator drives any more serves what waited for it, in order of arrival: requests, rows of committed steps, a snapshot,
and requests for rows (R291). -/
def serveStack (s : State) (k : Nat) : State :=
  let p := partOfStack s k
  let s := (s.stackReqs.filter (fun x => x.1 == p && !stackReqWaits s p x.2)).foldl (fun s x =>
    if (running s p || (x.2.isCommand && clocked s p)) && s.stackReqs.contains x then serveStackReq { s with stackReqs := s.stackReqs.erase x } p x.2 else s) s
  let s := retryLocks s p
  let s := if rdb s p R.LOAD_CTRL_SNAP_BUSY && !(stacksOf s p).any (engineWaits s) then snapFinish (wrb s p R.LOAD_CTRL_SNAP_BUSY false) p else s
  serveWaiting s p

def execTgDone (k : Stack) (pc : Fin 64) (r : TgResult) (s : State) : Host.Outcome State Fault Refusal :=
  .next (
    if !tgEnds s k pc r then s
    else
      let s := wr s 4 R.TG_DONE_CNT_DONE_CNT r.accesses.toNat k pc
      let s := if r.errs = 0 then s
        else
          let s := wrSat s 4 R.TG_ERRS_ERRS r.errs.toNat k pc
          let bits := tgData s k pc r.errAddr.toNat ^^^ r.readWord
          let s := wr (wr s 4 R.TG_ERR_ADDR_ERR_ADDR r.errAddr.toNat k pc) 4 R.TG_ERR_BITS_ERR_BITS bits.toNat k pc
          raise (wrb s 4 R.TG_CTRL_MISCOMPARE true k) (srcStack k (0x40 + pc)) K.TG_MISCOMPARE (partOfStack s k) r.errAddr.toNat
      let s := tgSettle s k (mapGet 0 s.tgRun k - 2 ^ pc.val)
      if engineWaits s k then s else serveStack s k)

end Sys2Proof.Machine
end

