-- ==== Sys2Proof/Machine/Power.lean ====
section
/-!
DEFINITION. Start-up, recovery load, removal of power and the configuration store (spec/16 R418 to R420, spec/18 R462, R475 to R484).
-/

namespace Sys2Proof.Machine

/-! ### The firmware image (R418, R419) -/

def hdrOk (img : List Byte) : Bool :=
  let pay := leNat (sub img 8 4)
  decide (1024 ≤ img.length) && leNat (img.take 4) == 0x4D495A46 && leNat (sub img 4 1) == 1 && decide (leNat (sub img 5 1) ≤ 64)
    && decide (leNat (sub img 6 1) < 2) && zeroAt img 7 1 && decide (1 ≤ pay) && decide (pay ≤ 16776192) && zeroAt img 157 3 && zeroAt img 448 576
    && decide (1024 + pay ≤ img.length)

def imgSvn (img : List Byte) : Nat := leNat (sub img 5 1)
def imgCosigned (img : List Byte) : Bool := bitAt (leNat (sub img 6 1)) 0

/-- The owner's co-signature, when an owner is enrolled. -/
def ownerOk (s : State) (img : List Byte) : Bool :=
  match s.ownerKey with
  | some key => imgCosigned img && Config.ecdsaOk key (img.take 352) (sub img 352 96)
  | none => true

/-- The checks of R419 in order: 0 accepted, else the code of the failed check as REC_RESULT reports it. -/
def imageCheck (s : State) (img : List Byte) : Nat :=
  if !hdrOk img then St.BAD_DESC
  else if imgSvn img < rd s 4 R.SEC_STATUS_FUSE_SVN then St.ROLLBACK
  else if !(Config.ecdsaOk Config.flezelRoot (sub img 60 97) (sub img 160 96) && Config.ecdsaOk (sub img 60 97) (img.take 256) (sub img 256 96)
      && ownerOk s img && Config.sha384 (sub img 1024 (leNat (sub img 8 4))) == leNat (sub img 12 48)) then St.SIG_INVALID
  else St.OK

/-- The image in flash: one that a recovery load wrote is checked, the delivered one is as the boot's facts say, in the order of R419. One
that has failed before fails again (R420). -/
def flashCheck (s : State) (b : BootFacts) : Nat :=
  match s.flash with
  | some img => imageCheck s img
  | none =>
    if !b.headerOk then St.BAD_DESC
    else if b.imageSvn.toNat < rd s 4 R.SEC_STATUS_FUSE_SVN then St.ROLLBACK
    else if !b.imageOk || (s.ownerKey.isSome && !b.cosigned) then St.SIG_INVALID
    else s.flashBad.getD St.OK

/-- The header of the delivered image: its SVN and FLAGS are as the boot's facts say. -/
def deliveredHead (b : BootFacts) : List Byte :=
  Config.imageHead.take 5 ++ [BitVec.ofNat 8 b.imageSvn.toNat, BitVec.ofNat 8 b.cosigned.toNat] ++ Config.imageHead.drop 7

/-! ### Mounting the store (R479 to R481, R484) -/

/-- LIFE payload: BOOTS, HOURS, TRIPS, SAFES as R484 lays them out. -/
def lifePayload (s : State) : List Byte :=
  leBytes 4 (rd s 4 R.LIFE_BOOTS_BOOTS) ++ leBytes 4 (rd s 4 R.LIFE_HOURS_HOURS) ++ leBytes 2 (rd s 4 R.LIFE_EVENTS_TRIPS)
    ++ leBytes 2 (rd s 4 R.LIFE_EVENTS_SAFES)

def wantLife (s : State) : State := csWant s ⟨9, 0, lifePayload s⟩ .plain

/-- The lifetime counters of the last LIFE record; SAFE entries and trips since then stand in the error history (DESIGN CHOICE, log 40). -/
def mountLife (s : State) : State :=
  let pl := match inForce s 9 0 with | some r => r.payload | none => List.replicate 12 0
  let f3 := (s.store.reverse.takeWhile (fun r => r.typ != 9)).filter (fun r => r.typ == 10 && bitsOf (leNat (sub r.payload 2 2)) 12 2 == 3)
  let s := wr (wr s 4 R.LIFE_BOOTS_BOOTS (leNat (pl.take 4) + 1)) 4 R.LIFE_HOURS_HOURS (leNat (sub pl 4 4))
  let s := wr (wr s 4 R.LIFE_EVENTS_TRIPS (leNat (sub pl 8 2))) 4 R.LIFE_EVENTS_SAFES (leNat (sub pl 10 2))
  let s := wrSat s 4 R.LIFE_EVENTS_TRIPS (f3.filter (fun r => bitsOf (leNat (sub r.payload 2 2)) 0 12 == K.THERMAL_TRIP.code)).length
  wantLife (wrSat s 4 R.LIFE_EVENTS_SAFES f3.length)

/-- Records in force, in bank order; of ERROR records the newest 16,384. -/
def compactRecs : List CsRec → List CsRec
  | [] => []
  | r :: l =>
    let rest := compactRecs l
    if r.typ = 10 then (if (rest.filter (fun x => x.typ == 10)).length < 16384 then r :: rest else rest)
    else if l.any (fun x => x.typ == r.typ && x.key == r.key) then rest else r :: rest

/-- What a compaction that began after the n-th record leaves: the records then in force, and those committed meanwhile (R480). -/
def compacted (l : List CsRec) (n : Nat) : List CsRec := compactRecs (l.take n) ++ l.drop n

/-- Compaction begins: the other bank is erased (R480). -/
def startCompact (s : State) : State :=
  if rdb s 4 R.CS_STATUS_COMPACTING then s
  else wrb { setBank s (1 - curBank s) [] with compactAt := some s.store.length } 4 R.CS_STATUS_COMPACTING true

/-- The new bank's marker commits: it becomes the current bank, and the old one is erased, unless power fails before (R480). -/
def endCompact (s : State) (n : Nat) (erased : Bool) : State :=
  let l := compacted s.store n
  let b := curBank s
  let s := setBank s (1 - b) (bankHeader (s.storeGen + 1) ++ l.flatMap csRecBytes)
  let s := wr { s with store := l, storeGen := s.storeGen + 1, compactAt := none } 4 R.CS_STATUS_BANK (1 - b)
  refreshFill (wrb (if erased then setBank s b [] else s) 4 R.CS_STATUS_COMPACTING false)

/-- A store without a valid bank is formatted empty (R475). -/
def formatStore (s : State) : State :=
  let s := { s with store := [], storeGen := 0, bank0 := bankHeader 0, bank1 := [] }
  raisePkg (wr s 4 R.CS_STATUS_BANK 0) srcAnise K.CFG_STORE_FORMATTED

/-- The mount: the current bank is read and the other erased; a header whose CRC fails ends the bank, which is compacted at once (R478 to
R480). -/
def mountBank (s : State) : State :=
  match newestBank s with
  | none => formatStore s
  | some (b, g) =>
    let (l, bad) := readBank (bankBytes s b)
    let s := wr { setBank s (1 - b) [] with store := l, storeGen := g } 4 R.CS_STATUS_BANK b
    if bad then endCompact s l.length true else s

/-- An unreadable store has no valid bank. -/
def unreadable (s : State) (ok : Bool) : State := if ok then s else { s with bank0 := [], bank1 := [] }

def mountStore (s : State) (ok : Bool) : State := mountLife (refreshFill (mountBank (unreadable s ok)))

/-- Step 2 reads the package cap (R481). -/
def loadCap (s : State) (ok : Bool) : State :=
  let l := match newestBank (unreadable s ok) with | some (b, _) => (readBank (bankBytes s b)).1 | none => []
  let cap := match inForce { s with store := l } 5 0 with | some r => leNat r.payload % 4096 | none => 2800
  wr s 4 R.PWR_PKG_CAP_PKG_CAP_W cap

/-! ### The boot (R475) -/

def bootStage (s : State) (n : Nat) : State := wr s 4 R.BOOT_STATUS_STAGE n

/-- The c-th choice of four clusters of eight. -/
def fourClusters (c : Nat) : List Nat :=
  (List.range 8).filter (bitAt ((((List.range 256).filter (fun m => ((List.range 8).filter (bitAt m)).length == 4))[c]?).getD 15))

/-- The tiles fused off on die d of a 240-tile part: one in each of four clusters (R1). -/
def fusedOnDie (f : Fuses) (d : Nat) : List Nat :=
  (fourClusters ((f.clusters[d]?).getD 0)).zipIdx.map (fun (c, i) => 64 * d + 8 * c + bitsOf ((f.places[d]?).getD 0).toNat (3 * i) 3)

/-- The fuses are read once: they never change. -/
def readFuses (s : State) (f : Fuses) : State :=
  if s.fusesRead then s
  else { s with fusesRead := true, fusedTiles := if f.grade240 then (List.range 4).flatMap (fusedOnDie f) else [] }

/-- The unit that a failed self-test retires: the core, scratchpad, instruction or data memory the tile, accumulator memory the matrix
engine, side memory the row engine, an engine itself (R17). RETIRE records name a tile by the source ID of its core and an engine by that of
its queue. -/
def retireKey : Tile × SelfTest → Nat
  | (t, .core) | (t, .scratchpad) | (t, .instrMem) | (t, .dataMem) => srcTile t 0
  | (t, .accMem) => srcTile t 1
  | (t, .sideMem) => srcTile t 3
  | (t, .engine e) => srcTile t (e + 1)

def retireKeys (b : BootFacts) : List Nat := b.failed.map retireKey

def applyRetire (s : State) (src : Nat) : State :=
  let t := src / 2 ^ 13 * 64 + bitsOf src 7 6
  let sub := src % 128
  if sub = 0 then { s with retiredTiles := s.retiredTiles.filter (· != t) ++ [t] }
  else { s with retiredEngines := s.retiredEngines.filter (· != (t, sub - 1)) ++ [(t, sub - 1)] }

/-- The unit that a RETIRE key names is present. -/
def retirable (s : State) (src : Nat) : Bool :=
  let t := src / 2 ^ 13 * 64 + bitsOf src 7 6
  if src % 128 = 0 then tilePresent s t else enginePresent s t (src % 128 - 1)

def retireUnits (s : State) (b : BootFacts) : State :=
  let s := (s.store.filter (fun r => r.typ == 6)).foldl (fun s r => applyRetire s r.key) s
  (retireKeys b).foldl (fun s k =>
    if retirable s k then raisePkg (csWant (applyRetire s k) ⟨6, k, []⟩ .plain) srcAnise K.TILE_RETIRED else s) s

/-- Step 6: the mode is read and the partitions take shape. -/
def formParts (s : State) : State :=
  let s := { s with
    mode := modeOf (match inForce s 1 0 with | some r => leNat r.payload | none => 0)
    subsys := match inForce s 3 0 with | some r => leNat r.payload | none => 0 }
  let ide := match inForce s 4 0 with | some r => leNat r.payload | none => 0
  (List.range 4).foldl (fun s p =>
    let s := wrb s p R.SEC_STATUS_IDE_REQ (bitAt ide p)
    if p < partCount s.mode then resetPower (wr s p R.PART_MODE_REQ_NEW_MODE (modeCode s.mode)) p else s) s

/-- A sealed job secret is restored, or erased when it does not open (R430). -/
def unsealJob (s : State) (p : Nat) : State :=
  match sealedRec s (partKey s p) with
  | none => s
  | some r => match Config.gcmOpen (sealKey s) (sealAad p (r.payload.take 8)) (r.payload.drop 8) with
    | some pt =>
      wrb { s with jobs := mapSet s.jobs p { secret := leNat (pt.take 48), authPub := pt.drop 48 } } p R.SEC_STATUS_JOB_LOADED true
    | none => raisePkg (unsealPart s p) srcVordaust K.SEAL_INVALID

/-- Step 9: every partition enters READY; a package source that is asserted freezes it now (R486). -/
def bootReady (s : State) (ms : Nat) : State :=
  let s := wr (bootStage s 9) 4 R.BOOT_STATUS_BOOT_MS ms
  let s := (partsAll s).foldl (fun s p => enterReady (wrb s p R.PART_CFG_EVER_READY true) p) s
  if rdb s 4 R.FRZ_PKG_CTRL_PAIR then assertAll s frzPair else s

def bootMs (b : BootFacts) : Nat := min b.bootMs 0xFFFF
def bootFail (s : State) (b : BootFacts) (src : Nat) (k : Kind) : State := wr (raisePkg s src k) 4 R.BOOT_STATUS_BOOT_MS (bootMs b)

/-- Measurement 5: GRADE, the TILE_PRESENT words, ENGINE_PRESENT, MODE (R423). -/
def measure5 (s : State) : List Byte :=
  Config.fieldBytes ([grade s] ++ (List.range 4).map (tilePresentReg s) ++ (List.range 64).map (enginePresentWord s) ++ [modeCode s.mode])

/-- PWR_EN[g] is raised (R462). -/
def raiseEn (s : State) (g : Nat) : State := { s with pwrEn := setBit s.pwrEn g true }

/-- VDD_MV of the compute dies as first read, at their level 0: the reading is free (R484). -/
def readVdd (s : State) : State := (List.range 4).foldl (fun s d => tickFree (wr s 4 R.PWR_DIE_VDD_MV (freshNat s % 4096) d)) s

/-- Steps 6 to 9. -/
def bootForm (s : State) (b : BootFacts) : State :=
  let s := formParts (bootStage s 6)
  let s := bootStage (recordMeasure s 5 (measure5 s)) 7
  let s := { s with fabBad := b.fabFailed.map Fin.val }
  let s := s.fabBad.foldl (fun s f => raise s (srcHub (8 + f) 0) K.FAB_PHY_CAL_FAIL (partOfFPort s f)) s
  let s := (partsAll s).foldl (fun s p => unsealJob (wr s p R.FAB_NODE_NODE_ID (storedNode s p)) p) (bootStage s 8)
  bootReady s (bootMs b)

/-- Steps 4 to 9. `bad` is the group of rails that does not come into regulation, 0 for none (R462). -/
def bootRest (s : State) (b : BootFacts) (bad : Nat) : State :=
  let s := raiseEn (bootStage s 4) 2
  if bad = 2 then bootFail s b srcAnise K.SUPPLY_FAULT
  else
    let s := retireUnits (readVdd s) b
    if !b.unitsOk then bootFail s b srcAnise K.BOOT_SELFTEST_FAIL
    else
      let s := raiseEn (bootStage { s with hbm := [], hbmGen := s.hbmGen + 1 } 5) 3
      if bad = 3 then bootFail s b srcAnise K.SUPPLY_FAULT
      else
        let s := raiseEn s 4
        if bad = 4 then bootFail s b srcAnise K.SUPPLY_FAULT
        else if !b.hbmOk then bootFail s b srcAnise K.HBM_TRAIN_FAIL
        else bootForm s b

/-- The accepted image runs; `head` begins with its header, of which bytes [351:0] and PAY_HASH are measured (R423). COSIGNED says that an owner
signature was verified, which is so only once an owner is enrolled (R419, R438). The alias certificate is made (R417). -/
def imageRuns (s : State) (svn : Nat) (cosigned recovered : Bool) (head : List Byte) : State :=
  let s := wr s 4 R.SEC_STATUS_IMAGE_SVN svn
  let s := wrb (wrb s 4 R.SEC_STATUS_COSIGNED (cosigned && s.ownerKey.isSome)) 4 R.SEC_STATUS_RECOVERED recovered
  let s := recordMeasure (recordMeasure s 1 Config.romCode) 2 (head.take 352 ++ sub head 12 48)
  makeAlias (recordMeasure (recordMeasure s 3 (measure3 s)) 4 (measure4 s))

/-- The recovery wait after an image whose check gave `code` (R419, R420). -/
def waitRecovery (s : State) (b : BootFacts) (code : Nat) : State :=
  let s := wrb (wr (wr (bootStage s 0xE) 4 R.BOOT_STATUS_FAIL_STEP 3) 4 R.BOOT_STATUS_BOOT_MS (bootMs b)) 4 R.REC_CTRL_REC_WAIT true
  raisePkg { s with flashBad := some code } srcVordaust (if code = St.ROLLBACK then K.ROLLBACK_REFUSED else K.FW_VERIFY_FAIL)

/-- The boot from the moment the always-on rails are good. `bad` is the group of rails that does not come into regulation, 0 for none. -/
def powerOn (s : State) (b : BootFacts) (bad : Nat) : State :=
  let s := { s with vao := true }
  if b.mfgTest then { s with mfgTest := true }
  else
    let s := raiseEn (loadCap (bootStage (readFuses { s with ownerBoot := s.ownerKey } b.fuses) 2) b.storeOk) 1
    if !b.vordaustOk then bootFail s b srcVordaust K.VORDAUST_FAULT
    else if !b.railsOk || bad = 1 then bootFail s b srcAnise K.SUPPLY_FAULT
    else
      let s := mountStore (bootStage s 3) b.storeOk
      let code := flashCheck s b
      if code = St.OK then
        let (svn, co) := match s.flash with | some img => (imgSvn img, imgCosigned img) | none => (b.imageSvn.toNat, b.cosigned)
        bootRest (imageRuns s svn co false (s.flash.getD (deliveredHead b))) b bad
      else waitRecovery s b code

/-- The always-on domain has come up and nothing has run. -/
def unpowered (s : State) : Bool := !s.safe && !s.mfgTest && rd s 4 R.BOOT_STATUS_STAGE == 1

def execPowerOn (b : BootFacts) (s : State) : Host.Outcome State Fault Refusal := .next (if unpowered s then powerOn s b 0 else s)

/-! ### The recovery load (R420) -/

def recResult (s : State) (code : Nat) : State := wr (wrb s 4 R.REC_CTRL_REC_BUSY false) 4 R.REC_CTRL_REC_RESULT code

/-- `image` is what the device reads through HP0; fewer bytes than REC_LEN say that the read failed. -/
def recoveryGo (s : State) (image : List Byte) (b : BootFacts) (bad : Nat) : State :=
  let s := if portUsable s 0 then hostRead s 0 (rd s 4 R.REC_ADDR_ADDR * 4096) (rd s 4 R.REC_LEN_LEN) else s
  if !portUsable s 0 || image.length != rd s 4 R.REC_LEN_LEN then recResult s St.HOST_ABORT
  else
    let code := imageCheck s image
    if code ≠ St.OK then raisePkg (recResult s code) srcVordaust K.RECOVERY_REJECTED 0 code
    else
      let s := wrb (recResult s St.OK) 4 R.REC_CTRL_REC_WAIT false
      let s := if rdb s 4 R.REC_CTRL_PERSIST then { s with flash := some image, flashBad := none } else s
      bootRest (imageRuns s (imgSvn image) (imgCosigned image) true image) b bad

/-- A recovery load may stand in one row, or in one that starts it and one that ends it: REC_BUSY is set between them, and a GO then is
discarded. -/
def execRecoveryGo (image : List Byte) (boot : BootFacts) (s : State) (phase : CmdPhase := .whole) : Host.Outcome State Fault Refusal :=
  .next (
    if s.safe || !recovering s || !rdb s 4 R.REC_CTRL_REC_WAIT || rdb s 4 R.REC_CTRL_REC_BUSY != (phase == .ends) then s
    else if phase = .begins then wrb s 4 R.REC_CTRL_REC_BUSY true
    else recoveryGo s image boot 0)

/-! ### Rails and the removal of power (R457, R462, R480) -/

/-- The group of a rail (R460). -/
def railGroup (i : Nat) : Nat := if i < 4 then 1 else if i < 8 then 2 else if i < 12 then 3 else 4

/-- Rail i is not in regulation 2 ms after its enable: group 1 in step 2, group 2 in step 4, groups 3 and 4 in step 5 (R462, R475). The steps before
it do their work, with `boot` as what they meet; after a recovery load, the image that it read. -/
def execRailTimeout (i : Fin 16) (s : State) (boot : BootFacts := {}) (image : List Byte := []) : Host.Outcome State Fault Refusal :=
  .next (
    if unpowered s then powerOn s boot (railGroup i)
    else if !s.safe && recovering s && rdb s 4 R.REC_CTRL_REC_WAIT && decide (1 < railGroup i) then recoveryGo s image boot (railGroup i)
    else s)

/-- FUSE_SVN after a loss of power: an SVN_COMMIT that runs has blown `blown` of its fuses (R421). -/
def fusesKept (s : State) (blown : Nat) : Nat :=
  let f := rd s 4 R.SEC_STATUS_FUSE_SVN
  if s.secRun.any (fun x => x.2.op == 7 && x.2.port == 0) then max f (min (f + blown) (rd s 4 R.SEC_STATUS_IMAGE_SVN)) else f

/-- The record whose programming a loss of power cuts short after `torn` bytes (R479, R480). -/
def tearRecord (s : State) (torn : Nat) : State :=
  match s.csWants with
  | (r, _) :: _ => if 0 < torn ∧ !s.safe then csTorn s r torn else s
  | [] => s

/-- Power is removed from the always-on domain: fuses, the two banks of the store, the firmware flash and the drives keep their contents; what
has left the package stays outside (R457, R480). -/
def execPowerRemoved (s : State) (torn : Nat := 0) (blown : Nat := 0) : Host.Outcome State Fault Refusal :=
  .next (
    let t := tearRecord s torn
    let z : State := { State.reset with
      pending := s.pending, freeCtr := s.freeCtr, hbmGen := s.hbmGen + 1, fusedTiles := s.fusedTiles, fusesRead := s.fusesRead, store := s.store, storeGen := s.storeGen
      bank0 := t.bank0, bank1 := t.bank1, flashBad := s.flashBad, vao := false
      drives := s.drives, ownerKey := s.ownerKey, flash := s.flash, outbox := s.outbox, hostOut := s.hostOut, irqs := s.irqs
      spdmOut := s.spdmOut, measured := s.measured, hostReads := s.hostReads, wire := s.wire }
    wrb (wr z 4 R.SEC_STATUS_FUSE_SVN (fusesKept s blown)) 4 R.SEC_STATUS_OWNER_ENROLLED s.ownerKey.isSome)

/-! ### CS_CMD (R482, R483) -/

def csRefuse (s : State) (p code : Nat) : State := raisePkg (wr s p R.CS_STATUS_CS_RESULT code) srcAnise K.CS_CMD_REFUSED 0 code

/-- A command of the controlling host; `body` answers the record to write, none for COMPACT, or the refusal's code. Each partition reads its own
CS_RESULT and CS_ARG (R484). -/
def csCmd (s : State) (port : Nat) (body : Nat → Except Nat (Option CsRec)) : State :=
  match ctrlAccess s port with
  | none => ideNote s port
  | some p =>
    if rdb s 4 R.CS_STATUS_CS_BUSY then s
    else if port ≠ 0 then csRefuse s p St.ACCESS_DENIED
    else if !(partsAll s).all (isHold s) then csRefuse s p St.CS_NOT_HOLD
    else match body (rd s p R.CS_ARG_ARG) with
      | .error c => csRefuse s p c
      | .ok none => startCompact (wr s p R.CS_STATUS_CS_RESULT St.OK)
      | .ok (some r) => csWant (wrb s 4 R.CS_STATUS_CS_BUSY true) r .cmd

def nodeRec (a : Nat) : Except Nat (Option CsRec) :=
  let mode := a % 4
  let part := bitsOf a 2 2
  if mode = 3 ∨ partCount (modeOf mode) ≤ part ∨ bitsOf a 4 12 ≠ 0 ∨ bitsOf a 28 36 ≠ 0 then .error St.BAD_DESC
  else .ok (some ⟨2, 4 * mode + part, leBytes 2 (bitsOf a 16 12)⟩)

def subsysRec (a : Nat) : Except Nat (Option CsRec) := if 2 ^ 32 ≤ a then .error St.BAD_DESC else .ok (some ⟨3, 0, leBytes 4 a⟩)

/-- The mask may lose a bit only while no owner is enrolled (R422). -/
def ideRec (s : State) (a : Nat) : Except Nat (Option CsRec) :=
  let old := match inForce s 4 0 with | some r => leNat r.payload | none => 0
  if 16 ≤ a then .error St.BAD_DESC
  else if rdb s 4 R.SEC_STATUS_OWNER_ENROLLED && (List.range 4).any (fun p => bitAt old p && !bitAt a p) then .error St.CS_OWNER_LOCK
  else .ok (some ⟨4, 0, leBytes 1 a⟩)

def capRec (a : Nat) : Except Nat (Option CsRec) := if a < 1200 ∨ 2800 < a then .error St.BAD_DESC else .ok (some ⟨5, 0, leBytes 2 a⟩)
def compactRec (a : Nat) : Except Nat (Option CsRec) := if a ≠ 0 then .error St.BAD_DESC else .ok none

def execSetNode (port : HPort) (s : State) : Host.Outcome State Fault Refusal := .next (csCmd s port nodeRec)
def execSetSubsys (port : HPort) (s : State) : Host.Outcome State Fault Refusal := .next (csCmd s port subsysRec)
def execSetIdeReq (port : HPort) (s : State) : Host.Outcome State Fault Refusal := .next (csCmd s port (ideRec s))
def execSetPkgCap (port : HPort) (s : State) : Host.Outcome State Fault Refusal := .next (csCmd s port capRec)
def execCsCompact (port : HPort) (s : State) : Host.Outcome State Fault Refusal := .next (csCmd s port compactRec)

/-! ### Committing and compacting (R479, R480, R483) -/

/-- The result of a CS_CMD, which only the controlling host on HP0 gives. -/
def csResult (s : State) (code : Nat) : State := wr (wrb s 4 R.CS_STATUS_CS_BUSY false) (portPart s 0) R.CS_STATUS_CS_RESULT code

/-- A record commits; a bank that is 75 % full compacts. -/
def csCommit (s : State) (r : CsRec) (w : CsWhy) : State :=
  let s := csAppend s r
  let s := if 75 ≤ storeFill s.store then startCompact s else s
  match w with
  | .cmd =>
    let s := csResult s St.OK
    if r.typ = 5 then setPkgCap s (leNat r.payload) else s
  | .modeChange m => changeMode s m
  | _ => s

/-- Programming fails: the request that needed the record fails (R483). What the bank then holds there does not count (log 86). -/
def csFail (s : State) (w : CsWhy) : State :=
  let s := startCompact (raisePkg s (srcHub 27 0) K.CFG_STORE_IO)
  match w with
  | .cmd => csResult s St.CS_IO_ERROR
  | .error => wrSat s 4 R.CS_STATUS_CS_LOST 1
  | _ => s

/-- In SAFE only the F3 record of its entry is written (R480): the collector asks for no later one. -/
def csWritable (s : State) (x : CsRec × CsWhy) : Bool :=
  !s.safe || (x.1.typ == 10 && bitsOf (leNat (sub x.1.payload 2 2)) 12 2 == 3)

def takeWant (s : State) : List (CsRec × CsWhy) → Option ((CsRec × CsWhy) × List (CsRec × CsWhy))
  | [] => none
  | x :: l => if csWritable s x then some (x, l) else (takeWant s l).map (fun (y, r) => (y, x :: r))

def execCsRecordCommit (ok : Bool) (s : State) : Host.Outcome State Fault Refusal :=
  .next (match takeWant s s.csWants with
    | none => s
    | some ((r, w), rest) =>
      let s := { s with csWants := rest }
      if ok then csCommit s r w else csFail s w)

/-- `erased` clear: power fails while the old bank is erased, which the next mount makes good (R480). -/
def execCsCompactionDone (ok : Bool) (s : State) (erased : Bool := true) : Host.Outcome State Fault Refusal :=
  .next (
    if s.safe || !rdb s 4 R.CS_STATUS_COMPACTING then s
    else if ok then endCompact s (s.compactAt.getD s.store.length) erased
    else raisePkg s (srcHub 27 0) K.CFG_STORE_IO)

/-- An hour has passed with the always-on domain powered (R481, R484). -/
def execLifeRecordUpdate (s : State) : Host.Outcome State Fault Refusal :=
  .next (
    if rd s 4 R.BOOT_STATUS_STAGE = 1 then s
    else
      let s := wrAdd s 4 R.LIFE_HOURS_HOURS 1
      if s.safe then s else wantLife s)

end Sys2Proof.Machine
end

