-- ==== Sys2Proof/Machine/Queue.lean ====
section
/-!
DEFINITION. The queue engines (spec/15): set-up, doorbells, fetching, the six operations and completion.
-/

namespace Sys2Proof.Machine

/-! ### Set-up (R390, R391, R408) -/

/-- Setting Q_EN is refused. -/
def queueRefused (s : State) (p q : Nat) : Bool :=
  let n := rd s p R.Q_CFG_LOG2_SIZE q
  let sq := rd s p R.SQ_BASE_BASE q * 4096
  let cq := rd s p R.CQ_BASE_BASE q * 4096
  let sqEnd := sq + 64 * 2 ^ n
  let cqEnd := cq + 16 * 2 ^ n
  let h := qOwner s p q
  decide (n = 0 ∨ 16 < n) || decide (2 ^ 64 < sqEnd ∨ 2 ^ 64 < cqEnd) || decide (sq < cqEnd ∧ cq < sqEnd)
    || (rdb s p R.Q_CFG_PASID_EN q && !Config.hostPasid h) || !portUsable s h

/-- Counted records held while IRQ_EN was clear go towards the next message (R410). -/
def irqHeld (s : State) (p q : Nat) : State :=
  let n := (hq s p q).counted
  if rdb s p R.Q_CFG_IRQ_EN q && decide (0 < n) && (rd s p R.Q_IRQ_IRQ_HOLDOFF q == 0 || decide (max 1 (rd s p R.Q_IRQ_IRQ_CNT q) ≤ n)) then
    qIrq s p q
  else s

/-- Q_EN is set on a queue in RESET (R391). -/
def queueEnable (s : State) (p q : Nat) : State :=
  if queueRefused s p q then qRaise (wrb s p R.Q_CFG_CFG_ERR true q) p q K.QUEUE_CFG
  else
    let zero := [R.Q_SQ_STATUS_SQ_HEAD, R.Q_SQ_STATUS_SQ_TAIL, R.Q_SQ_STATUS_EXP_SEQ, R.Q_CQ_STATUS_CQ_TAIL, R.Q_CQ_STATUS_CQ_HEAD, R.Q_STATE_INFLIGHT]
    let s := zero.foldl (fun s f => wr s p f 0 q) s
    let s := wr (wr s p R.Q_SQ_STATUS_EXP_PHASE 1 q) p R.Q_CQ_STATUS_CQ_PHASE 1 q
    let s := setHq s p q { counted := (hq s p q).counted }
    irqHeld (setHqState (wrb s p R.Q_CFG_Q_EN true q) p q 0) p q

/-- Fields of a queue other than Q_EN and OWNER. -/
def queueField (q : Nat) (rst : Bool) (f : Reg) (i : Nat) : Bool :=
  i == q && decide (0x110000 ≤ f.base ∧ f.base < 0x110040) && f != R.Q_CFG_Q_EN && f != R.Q_CFG_OWNER && (rst || f.acc == .w1c)

/-- A write of `size` bytes in the registers of a queue by port h of partition p; its fields are judged against the owner before it. -/
def queueWrite (s : State) (p h off size v : Nat) : State :=
  let q := (off - 0x110000) / 64
  let low : Bool := decide (off = 0x110000 + 64 * q)
  let owner := qOwner s p q == h
  let ctl := portRole s h == 0
  let rst := hqState s p q == 2
  if !owner && !ctl then s
  else
    let was := rdb s p R.Q_CFG_IRQ_EN q
    let s := if owner then fieldsWrite s p off size v false false (fun f i _ => queueField q rst f i) else s
    let s := if was then s else irqHeld s p q
    if !low then s
    else
      let o := bitsOf v 1 2
      let s := if ctl && rst && (s.mode == .pm1 || o == ctrlPort s p) then wr s p R.Q_CFG_OWNER o q else s
      if bitAt v 0 then (if owner && rst then queueEnable s p q else s)
      else if rst then s else resetHostQueue s p q (some St.QUEUE_ABORTED)

def inQueues (off : Nat) : Bool := decide (0x110000 ≤ off ∧ off < 0x114000)

def queueAccess (s : State) (a : Access) (sel : Bool) : State :=
  accessPort s a (fun p => if inQueues a.off && sel then queueWrite s p a.port a.off a.size a.val.toNat else s)

def execQueueEnable (a : Access) (s : State) : Host.Outcome State Fault Refusal :=
  .next (queueAccess s a (a.off % 64 == 0 && bitAt a.val.toNat 0))
def execQueueDisable (a : Access) (s : State) : Host.Outcome State Fault Refusal :=
  .next (queueAccess s a (a.off % 64 == 0 && !bitAt a.val.toNat 0))
def execQueueOwnerWrite (a : Access) (s : State) : Host.Outcome State Fault Refusal := .next (queueAccess s a (a.off % 64 == 0))

/-! ### Doorbells (R366, R393) -/

/-- A doorbell write: the page keeps the value that its queue's owner wrote last; `body` acts on a valid one. -/
def doorbell (s : State) (f : Reg) (h q size v : Nat) (body : State → Nat → State) : State :=
  let p := portPart s h
  if s.safe || s.mseOff.contains h || portRole s h = 2 || recovering s then s
  else if ideBlocked s h then ideNote s h
  else if size ≠ 4 then barInvalid s h
  else if qOwner s p q ≠ h then (if portRole s h = 1 then raise s (srcHub h 0) K.DOORBELL_FOREIGN p else s)
  else if rdb s p R.PART_CTRL_RESET_BUSY then s
  else
    let s := wr s p f v q
    if hqState s p q = 2 then s
    else if ringLen s p q ≤ v then qRaise s p q K.DOORBELL_INVALID
    else body s p

/-- The queue may run: in HOLD only those of the controlling port (R409). -/
def qMayRun (s : State) (p q : Nat) : Bool :=
  !s.safe && !rdb s p R.PART_CTRL_RESET_BUSY && (!feederQueue s p q || isReady s p)

def execSqDb (port : HPort) (q : Fin 256) (size : Nat) (val : Half) (s : State) : Host.Outcome State Fault Refusal :=
  .next (doorbell s R.SQ_DB_VALUE port q size val.toNat (fun s p =>
    let s := wr s p R.Q_SQ_STATUS_SQ_TAIL val.toNat q
    if hqState s p q = 1 ∧ qMayRun s p q then setHqState (setHq s p q { hq s p q with rereads := 0 }) p q 0 else s))

def execCqDb (port : HPort) (q : Fin 256) (size : Nat) (val : Half) (s : State) : Host.Outcome State Fault Refusal :=
  .next (doorbell s R.CQ_DB_VALUE port q size val.toNat (fun s p => drainRecs (wr s p R.Q_CQ_STATUS_CQ_HEAD val.toNat q) p q))

/-! ### Fetching (R403) -/

/-- A fetched descriptor is the one expected. -/
def descMatches (s : State) (p q : Nat) (bs : List Byte) : Bool :=
  bs.length == 64 && (bitAt (leNat (sub bs 1 1)) 0).toNat == rd s p R.Q_SQ_STATUS_EXP_PHASE q && leNat (sub bs 2 2) == rd s p R.Q_SQ_STATUS_EXP_SEQ q

/-- Accept the descriptor at SQ_HEAD. -/
def descAccept (s : State) (p q : Nat) (bs : List Byte) : State :=
  let i := rd s p R.Q_SQ_STATUS_SQ_HEAD q
  let i' := (i + 1) % ringLen s p q
  let s := setDescs s p q ((hq s p q).descs ++ [{ idx := i, bytes := bs }])
  let s := wrAdd (wr s p R.Q_SQ_STATUS_SQ_HEAD i' q) p R.Q_SQ_STATUS_EXP_SEQ 1 q
  if i' = 0 then wr s p R.Q_SQ_STATUS_EXP_PHASE (1 - rd s p R.Q_SQ_STATUS_EXP_PHASE q) q else s

def fetchAll (s : State) (p q : Nat) : List (List Byte) → State
  | [] => s
  | bs :: l => if descMatches s p q bs then fetchAll (descAccept s p q bs) p q l else setHq s p q { hq s p q with rereads := 1 }

/-- Descriptors posted and not fetched. -/
def posted (s : State) (p q : Nat) : Nat :=
  let n := ringLen s p q
  (rd s p R.Q_SQ_STATUS_SQ_TAIL q + n - rd s p R.Q_SQ_STATUS_SQ_HEAD q) % n

/-- The engine reads the rings of the queue; a frozen one issues no read (R488). -/
def qFetches (s : State) (p q : Nat) : Bool := qMayRun s p q && !frozen s p && hqState s p q == 0 && portUsable s (qOwner s p q)

/-- A read of n descriptors from SQ_HEAD on leaves through the owner's port, without attributes (R389, R370). -/
def fetchRead (s : State) (p q n : Nat) : State :=
  hostRead s (qOwner s p q) (rd s p R.SQ_BASE_BASE q * 4096 + 64 * rd s p R.Q_SQ_STATUS_SQ_HEAD q) (64 * n) false (qPasid s p q)

/-- The descriptors that one read takes: up to 16 of those posted, not past the end of the ring. -/
def fetchLen (s : State) (p q : Nat) : Nat := min 16 (min (posted s p q) (ringLen s p q - rd s p R.Q_SQ_STATUS_SQ_HEAD q))

def execDescriptorFetchReturn (p : Part) (q : Fin 256) (descs : List (List Byte)) (s : State) : Host.Outcome State Fault Refusal :=
  .next (if qFetches s p q && (hq s p q).rereads == 0 && posted s p q != 0 then
      fetchAll (fetchRead s p q (fetchLen s p q)) p q (descs.take (fetchLen s p q))
    else s)

/-- One of eight re-reads returns; the last that is rejected stalls the queue. -/
def execDescriptorReread (p : Part) (q : Fin 256) (desc : List Byte) (s : State) : Host.Outcome State Fault Refusal :=
  .next (
    let k := (hq s p q).rereads
    if !qFetches s p q || k == 0 || posted s p q == 0 then s
    else
    let s := fetchRead s p q 1
    if descMatches s p q desc then descAccept (setHq s p q { hq s p q with rereads := 0 }) p q desc
    else if k < 8 then setHq s p q { hq s p q with rereads := k + 1 }
    else
      let s := setHq s p q { hq s p q with rereads := 0 }
      let info := leNat (sub desc 2 2) + 65536 * (bitAt (leNat (sub desc 1 1)) 0).toNat
      let s := qRecord s p q ⟨0, rd s p R.Q_SQ_STATUS_SQ_HEAD q, rd s p R.Q_SQ_STATUS_EXP_SEQ q, St.DESC_NOT_READY, info, true⟩
      qRaise s p q K.DESC_NOT_READY St.DESC_NOT_READY)

/-! ### Checks at the start (R396, R397) -/

def isWin (a : Nat) : Bool := a / 2 ^ 60 == 3
def isOwnDev (a : Nat) : Bool := [0, 1, 2, 5].contains (a / 2 ^ 60)

/-- Bytes [i, j) of a descriptor are zero. -/
def QDesc.zero (d : QDesc) (i j : Nat) : Bool := d.f i (j - i) == 0

/-- Fields that are reserved, that the operation does not name, or that are out of range. -/
def QDesc.malformed (d : QDesc) : Bool :=
  let sigBad := d.flag 4 && d.f 32 2 == 0
  let common := decide (64 ≤ d.f 1 1) || !d.zero 34 36 || !d.zero 48 64 || sigBad
  common || (match d.opc with
    | 1 => !d.zero 8 28 || !d.zero 36 48
    | 2 => !d.zero 36 48 || d.len == 0 || !isWin d.src || !isOwnDev d.dst
    | 3 => !d.zero 36 48 || d.len == 0 || !isOwnDev d.src || !isWin d.dst
    | 4 => !d.zero 8 28 || !d.zero 44 48
    | 5 => !d.zero 16 28 || !d.zero 44 48 || bitsOf d.arg0 9 7 != 0 || bitsOf d.arg0 48 16 != 0 || d.src % 64 != 0 || d.src / 2 ^ 60 == 4
        || decide (1023 < bitsOf d.arg0 16 16) || bitsOf d.arg0 32 16 == 0 || decide (1024 < bitsOf d.arg0 16 16 + bitsOf d.arg0 32 16)
    | 6 => !d.zero 8 28 || !d.zero 44 48 || bitsOf d.arg0 8 8 != 0 || bitsOf d.arg0 30 34 != 0
    | _ => true)

/-- The counter names of a descriptor, SPACE 0 or 1. -/
def QDesc.names (d : QDesc) : List Nat := (if d.flag 4 then [d.f 28 4] else []) ++ (if d.opc = 4 then [bitsOf d.arg0 0 32] else [])

/-- Every row of R397 that a well-formed descriptor meets. -/
def descFails (s : State) (p q : Nat) (d : QDesc) : List Refuse :=
  let name (n : Nat) : Option Refuse :=
    if bitsOf n 14 2 = 2 then some badDesc
    else match resolveName s p (BitVec.ofNat 32 n) with | .ctr _ => none | .foreign => some denied | _ => some badDesc
  let feeder := feederQueue s p q
  let wins := d.accesses.filterMap (fun x => winOf x.1)
  (d.names.map name ++ d.accesses.map (fun x => checkDev s p x.1 x.2.1 x.2.2)
    ++ [checkIf (feeder && (d.opc == 5 || d.opc == 6)) (withFault St.ACCESS_DENIED K.OP_NOT_GRANTED)
      , checkIf (feeder && wins.any (fun w => rd s p R.WIN_CFG_OWNER w != qOwner s p q)) windowDenied
      , if d.opc = 5 ∨ d.opc = 6 then targetRefuse s p (d.arg0 % 256) else none]).filterMap id

/-- The rows of R397 in order. -/
def rowRank (r : Refuse) : Nat :=
  if r.status = St.BAD_DESC then 0
  else match r.fault with
    | some f => if f.kind = K.OP_NOT_GRANTED.code then 1 else if f.kind = K.HOST_WINDOW_DENIED.code then 2
        else if f.kind = K.HOST_DMA_ERROR.code then 4 else 3
    | none => 5

def firstRow (l : List Refuse) : Option Refuse :=
  ((List.range 6).filterMap (fun k => l.find? (fun r => rowRank r == k))).head?

/-- The outcome of a descriptor that does not start. -/
def descRefuse (s : State) (p q : Nat) (d : QDesc) : Option Refuse :=
  if d.malformed then some (withFault St.BAD_DESC K.DESC_INVALID)
  else (firstRow (descFails s p q d)).map (fun r => if r.status = St.BAD_DESC then withFault St.BAD_DESC K.DESC_INVALID else r)

/-! ### Starting (R404) -/

/-- The descriptor that the queue would start next: none while a record waits or the completion ring is full (R407). -/
def readyDesc (s : State) (p q : Nat) : Option QDesc :=
  let x := hq s p q
  let run := x.descs.filter (·.started)
  if qMayRun s p q && !frozen s p && hqState s p q == 0 && x.held.isEmpty && decide (0 < cqRoom s p q) && decide (run.length < 16)
      && !run.any (fun d => d.opc == 4 && !(d.finished && d.status == St.OK)) then
    match x.descs.find? (fun d => !d.started) with
    | some d => if d.flag 5 && !run.isEmpty then none else some d
    | none => none
  else none

/-- A descriptor must wait for a stack that a traffic generator drives, or for its target tile (R189, R191, R291). -/
def descWaits (s : State) (p q : Nat) (d : QDesc) : Bool :=
  let u := d.arg0 % 256
  d.accesses.any (fun x => devTgBusy s (devSpace s p x.1) x.2.1)
    || (d.opc == 5 || d.opc == 6) && rdb s 4 R.TILE_STATUS_LOADING u
    || d.opc == 5 && (match (tile s u).loadWaits with | [] => false | x :: _ => x != srcQueue p q)

/-- How far a queue is behind queue `last` in the round robin of its port. -/
def rrDist (last q : Nat) : Nat := (q + 255 - last) % 256

/-- It is the queue's turn: no queue of its port between the last one that started a descriptor and this one has a descriptor ready to start
(R404). Before any has started the turn begins at queue 0. -/
def queueTurn (s : State) (p q : Nat) : Bool :=
  let h := qOwner s p q
  let last := mapGet 255 s.qLast h
  !(s.hqueues.any (fun x => x.1 / 256 == p && decide (rrDist last (x.1 % 256) < rrDist last q) && qOwner s p (x.1 % 256) == h
    && (match readyDesc s p (x.1 % 256) with | some d => !descWaits s p (x.1 % 256) d | none => false)))

/-- The descriptor that the queue starts next, in its turn. -/
def nextDesc (s : State) (p q : Nat) : Option QDesc := if queueTurn s p q then readyDesc s p q else none

/-- A descriptor starts: its queue has had its turn. -/
def startDesc (s : State) (p q : Nat) (d : QDesc) : State := putDesc { s with qLast := mapSet s.qLast (qOwner s p q) q } p q d

/-- Start the next descriptor as operation `opc`; any row refuses one of a reserved operation. With no descriptor in its answer the body
waits. -/
def descRow (s : State) (p q opc : Nat) (body : State → QDesc → State × Option QDesc) : State :=
  match nextDesc s p q with
  | none => s
  | some d =>
    if decide (1 ≤ d.opc ∧ d.opc ≤ 6) && d.opc != opc then s
    else match descRefuse s p q d with
      | some r => startDesc s p q (endDesc s p d (some r) 0)
      | none => match body s d with
        | (s', some d') => startDesc s' p q d'
        | (s', none) => s'

/-- What the next descriptor would start as, when it is operation `opc`, nothing refuses it and its spans hold the word of `m`. -/
def descMeets (s : State) (p q opc : Nat) (body : State → QDesc → State × Option QDesc) (m : EccMem) : Option QDesc :=
  match nextDesc s p q with
  | some d =>
    if d.opc = opc ∧ (descRefuse s p q d).isNone ∧ (body s d).2.isSome
        ∧ eccFits 256 3 (addrSpans s p ((d.accesses.filter (fun x => !x.2.2)).map (fun x => (x.1, x.2.1)))) m then some d else none
  | none => none

/-- Start the next descriptor under an ECC event of what it reads. A poisoned atom of HBM fails its check (R286). At a double error on chip
the descriptor stops: what it wrote before is not stated, it gives no signal and writes no record, and it stays started until its queue is
reset or abandoned (R285, log 74). -/
def descEcc (s : State) (p q opc : Nat) (ecc : Ecc) (body : State → QDesc → State × Option QDesc) (stop : State → QDesc → State) : State :=
  match ecc with
  | .none => descRow s p q opc body
  | .corrected (.hbm ..) | .uncorrected (.hbm ..) => underEcc s ecc (fun s => descRow s p q opc body)
  | .corrected m => descRow (if (descMeets s p q opc body m).isSome then eccCorrected s 0 m else s) p q opc body
  | .uncorrected m =>
    match descMeets s p q opc body m with
    | some d => eccUncorrected (startDesc (stop s d) p q { d with started := true }) 0 m
    | none => descRow s p q opc body

/-! ### Operations (R398 to R402) -/

/-- Write bytes block by block: the state, the bytes delivered and what stopped it. -/
def deliverPieces (s : State) (p : Nat) (x : Space) (unit : Nat) (bs : List Byte) (n : Nat) : List (Nat × Nat) → State × Nat × Option Refuse
  | [] => (s, n, none)
  | (d, k) :: ps =>
    match writePiece s p x unit 0 d ((bs.drop d).take k) with
    | .error r => (s, n, some r)
    | .ok s' => deliverPieces s' p x unit bs (n + k) ps

/-- Read the source of an INPUT and move the bytes to its destination. -/
def inputDeliver (s : State) (p q : Nat) (d : QDesc) (data : List Byte) : State × QDesc :=
  match spaceKeyed s p d.dst with
  | some r => (s, endDesc s p d (some r) 0)
  | none =>
    let x := devSpace s p d.src
    let (bs, e) := devRead s x d.len data
    let y := devSpace s p d.dst
    let (s', n, ew) := deliverPieces (noteRead s p x d.len (srcQueue p q)) p y (srcQueue p q) bs 0 (pieces y.off bs.length)
    (s', endDesc s p d (match ew with | some r => some r | none => e) n)

/-- A replay plan is held: the engine reads a source twice (R355, R398). -/
def planned (s : State) (p : Nat) : Bool := (mapFind s.plans p).isSome

def inputEntry (s : State) (p q : Nat) (d : QDesc) (data : List Byte) : InputEntry :=
  ⟨Fin.ofNat 4 (qOwner s p q), BitVec.ofNat 8 q, BitVec.ofNat 16 (d.f 2 2), BitVec.ofNat 32 d.len, BitVec.ofNat 384 (Config.sha384 data)⟩

/-- `data` holds the bytes that the window's reads returned: fewer than LEN when a read failed; after LEN, those of the second read
under a replay plan, whose first read delivers nothing. -/
def startInput (p q : Nat) (data : List Byte) (s : State) (d : QDesc) : State × Option QDesc :=
  let y := devSpace s p d.dst
  let first := data.take d.len
  if devTgBusy s y d.len then (s, none)
  else
    let d := { d with undef := devSpans y d.len, entry := some (inputEntry s p q d first) }
    if planned s p then
      (noteRead s p (devSpace s p d.src) d.len (srcQueue p q)
        , some (if first.length < d.len then endDesc s p d (some hostAbort) 0
            else { d with started := true, finished := true, late := some (data.drop d.len) }))
    else
      let (s', d') := inputDeliver s p q d first
      (s', some d')

/-- An error that an INPUT meets: in a word of scratchpad or cluster memory that its first or last bytes share, which stops it in the second case
of R285, or in an atom of HBM (R286). -/
def inputEcc (p q : Nat) (data : List Byte) (ecc : Ecc) (s : State) : State :=
  let run (s : State) : State := descRow s p q 2 (startInput p q data)
  let hit (m : EccMem) : Bool := match nextDesc s p q with
    | some d => d.opc == 2 && (descRefuse s p q d).isNone && !planned s p && onChipHit (partialSpans (devSpace s p d.dst) d.len) m
    | none => false
  match ecc with
  | .none => run s
  | .corrected m => if hit m then run (eccCorrected s 0 m) else underEcc s ecc run
  | .uncorrected m =>
    if hit m then descRow s p q 2 (fun s d => (eccUncorrected s 0 m, some { d with started := true })) else underEcc s ecc run

def execInput (p : Part) (q : Fin 256) (data : List Byte) (s : State) (ecc : Ecc := .none) : Host.Outcome State Fault Refusal :=
  .next (inputEcc p q data ecc s)

/-- The port and the last address that n bytes written to a space reach. -/
def lastWrite (s : State) (p : Nat) (y : Space) (n : Nat) : List (Nat × Nat) :=
  match y with
  | .win w o => if n = 0 then [] else [(winPort s p w, winAddr s p w (o + n - 1))]
  | _ => []

def startOutput (p q : Nat) (s : State) (d : QDesc) : State × Option QDesc :=
  let x := devSpace s p d.src
  let y := devSpace s p d.dst
  if devTgBusy s x d.len then (s, none)
  else
    let (bs, e) := devRead s x d.len []
    let (s', _, _) := deliverPieces s p y (srcQueue p q) bs 0 (pieces y.off bs.length)
    (s', some { endDesc s p d e bs.length with wrote := lastWrite s p y bs.length })

/-- An OUTPUT that a double error stops has delivered some of its bytes. -/
def stopOutput (p q : Nat) (s : State) (d : QDesc) : State :=
  let y := devSpace s p d.dst
  let bs := (devRead s (devSpace s p d.src) d.len []).1.take (freshNat s % (d.len + 1))
  (deliverPieces (tickFree s) p y (srcQueue p q) bs 0 (pieces y.off bs.length)).1

def execOutput (p : Part) (q : Fin 256) (s : State) (ecc : Ecc := .none) : Host.Outcome State Fault Refusal :=
  .next (descEcc s p q 3 ecc (startOutput p q) (stopOutput p q))

def execNop (p : Part) (q : Fin 256) (s : State) : Host.Outcome State Fault Refusal :=
  .next (descRow s p q 1 (fun s d => (s, some (endDesc s p d none 0))))

def execQueueWait (p : Part) (q : Fin 256) (s : State) : Host.Outcome State Fault Refusal :=
  .next (match runningWait s p q with
    | some d => if clocked s p then putDesc s p q (waitTest s p d) else s
    | none => descRow s p q 4 (fun s d => (s, some (waitTest s p d))))

def execQueueWaitTimeout (p : Part) (q : Fin 256) (s : State) : Host.Outcome State Fault Refusal :=
  .next (match runningWait s p q with
    | some d =>
      if clocked s p && !waitHolds s p d then putDesc s p q (endDesc s p d (some (withFault St.TIMEOUT K.QUEUE_WAIT_TIMEOUT)) (waitVal s p d)) else s
    | none => s)

def startHostTload (p q : Nat) (ext : List Byte) (s : State) (d : QDesc) : State × Option QDesc :=
  let u := d.arg0 % 256
  let dmem := bitAt d.arg0 8
  let off := bitsOf d.arg0 16 16
  let len := bitsOf d.arg0 32 16
  match tileLoad s p u (srcQueue p q) dmem d.src off len ext with
  | .refuse r => (dropWaiter s (srcQueue p q), some (endDesc s p d (some r) 0))
  | .wait s' => (s', none)
  | .done s' r => (s', some { endDesc s p d r 0 with loading := some u, undef := [(false, tileMemKey u dmem (64 * off), 64 * len)] })

/-- A TLOAD that a double error stops leaves its target undefined. -/
def stopHostTload (s : State) (d : QDesc) : State :=
  havoc (tickFree s) [(false, tileMemKey (d.arg0 % 256) (bitAt d.arg0 8) (64 * bitsOf d.arg0 16 16), 64 * bitsOf d.arg0 32 16)]

def execHostTload (p : Part) (q : Fin 256) (ext : List Byte) (s : State) (ecc : Ecc := .none) : Host.Outcome State Fault Refusal :=
  .next (descEcc s p q 5 ecc (startHostTload p q ext) stopHostTload)

def startHostTstart (p : Nat) (s : State) (d : QDesc) : State × Option QDesc :=
  let u := d.arg0 % 256
  if tileState s u = 1 then (s, some (endDesc s p d (some tileBusy) 0))
  else if !isReady s p then (s, some (endDesc s p d (some ⟨St.ACCESS_DENIED, none⟩) 0))
  else if rdb s 4 R.TILE_STATUS_LOADING u then (s, none)
  else (startTile s u (bitsOf d.arg0 16 14), some (endDesc s p d none 0))

def execHostTstart (p : Part) (q : Fin 256) (s : State) : Host.Outcome State Fault Refusal := .next (descRow s p q 6 (startHostTstart p))

/-! ### Completion (R354, R355, R399, R405, R372 to R375) -/

/-- INPUTs complete in ring order (R399); a NOP signals in ring order (R396). -/
def mayComplete (l : List QDesc) (d : QDesc) : Bool :=
  let earlier := l.takeWhile (fun x => !sameDesc x d)
  d.started && d.finished && !d.flushing
    && (match d.opc with | 1 => earlier.isEmpty | 2 => !earlier.any (fun x => x.opc == 2) | _ => true)

def replayMismatch (s : State) (p : Nat) (d : QDesc) : QDesc := endDesc s p d (some (withFault St.REPLAY_MISMATCH K.REPLAY_MISMATCH)) 0

/-- An INPUT completes: it is compared with the plan before delivery, and logged while the partition is READY (R398). -/
def inputComplete (s : State) (p q : Nat) (d : QDesc) : State × QDesc :=
  match d.entry with
  | none => (s, d)
  | some x =>
    let agrees := (noteInput s p x).2
    match d.late with
    | some data =>
      if isReady s p && !agrees then (s, replayMismatch s p d)
      else
        let (s', d') := inputDeliver s p q d (liveExt s p (devSpace s p d.src) data)
        (if isReady s' p && d'.status == St.OK then (noteInput s' p x).1 else s', d')
    | none =>
      if !isReady s p || d.status != St.OK then (s, d)
      else if agrees then ((noteInput s p x).1, d)
      else (s, replayMismatch s p d)

def descFault (s : State) (p q : Nat) (d : QDesc) : State :=
  match d.fault with
  | some f => qRaise (countDmaErr s f.kind d.errPort) p q ⟨f.kind, f.cls⟩ d.status
  | none => s

/-- The PASID of the window a descriptor writes. -/
def destPasid (s : State) (p : Nat) (d : QDesc) : Option Nat := match winOf d.dst with | some w => winPasid s p w | none => none

def completeDesc (s : State) (p q : Nat) (d : QDesc) : State :=
  let (s, d) := if d.opc = 2 then inputComplete s p q d else (s, d)
  let s := match d.loading with | some u => endLoad s u | none => s
  let s := if d.status = St.OK ∧ d.flag 4 then
      match resolveName s p (BitVec.ofNat 32 (d.f 28 4)) with | .ctr c => issueInc s c (srcQueue p q) (d.f 32 2) | _ => s
    else s
  if !(flushPorts s p q d).isEmpty then descFault (issueFlush s p q d (destPasid s p d)) p q d
  else descFault (qRecord (dropDesc s p q d) p q (descRec d d.status d.info)) p q d

/-- The oldest descriptor at a ring index that may complete. -/
def findDesc (s : State) (p q idx : Nat) : Option QDesc :=
  (hq s p q).descs.find? (fun d => d.idx == idx && mayComplete (hq s p q).descs d)

def execDescriptorComplete (p : Part) (q : Fin 256) (sqIdx : BitVec 16) (s : State) : Host.Outcome State Fault Refusal :=
  .next (match findDesc s p q sqIdx.toNat with
    | some d =>
      if clocked s p && !(d.late.isSome && devTgBusy s (devSpace s p d.dst) d.len) then completeDesc s p q d
      else s
    | none => s)

/-- A flush read of a descriptor on a port ends; one whose link is down has failed. The record of a frozen partition's queue waits for the
engine's clock (R488, R489). -/
def execFlushReadDone (p : Part) (q : Fin 256) (sqIdx : BitVec 16) (ok : Bool) (s : State) (port : HPort := 0) : Host.Outcome State Fault Refusal :=
  .next (
    if s.safe then s
    else
      let ok := ok && rdb s 4 R.HP_STATUS_LINK_UP port
      holdFrame s p (.flushReadDone p q sqIdx ok port) fun s => flushDone s p q sqIdx.toNat port ok)

def execIrqHoldoffExpiry (p : Part) (q : Fin 256) (s : State) : Host.Outcome State Fault Refusal :=
  .next (if !s.safe && rdb s p R.Q_CFG_IRQ_EN q && decide (0 < (hq s p q).counted) && portUsable s (qOwner s p q) then qIrq s p q else s)

/-! ### Completion timeout (R368) -/

/-- The front DMA command of a tile that reads a host window gets nothing from it. -/
def tileTimeout (t : Tile) (s : State) : Host.Outcome State Fault Refusal :=
  match headEntry s t 3 with
  | some e =>
    if opcOf e.cmd = 1 ∧ isWin (cbs e.cmd 8 8) then execCopy t [] .none s
    else if opcOf e.cmd = 6 ∧ isWin (cbs e.cmd 16 8) then execTload t [] s
    else execStreamChunkLanded t [] s
  | none => execStreamChunkLanded t [] s

/-- A host read of a queue's descriptor or of a tile's DMA command gets no completion in time: HOST_ABORT. -/
def execCompletionTimeout (issuer : (Part × Fin 256) ⊕ Tile) (s : State) : Host.Outcome State Fault Refusal :=
  match issuer with
  | .inl (p, q) =>
    (match nextDesc s p q with
    | some d => if d.opc = 2 then execInput p q [] s else if d.opc = 5 ∧ isWin d.src then execHostTload p q [] s else .next s
    | none => .next s)
  | .inr t => tileTimeout t s

end Sys2Proof.Machine
end

