-- ==== Sys2Proof/Machine/RegWrite.lean ====
section
/-!
DEFINITION. REGISTER_WRITE: a write through BAR0 to any register (spec/20 R502 to R505), block by block. A register that is a command of
its own acts here as in its own row, except where that row carries bytes that the package reads at the command (log 41).
-/

namespace Sys2Proof.Machine

/-- A field whose register lies in [lo, hi) and which partition p owns. -/
def plain (s : State) (p lo hi : Nat) (f : Reg) (i : Nat) : Bool := decide (lo ≤ f.base ∧ f.base < hi) && ownElem s p f i

/-- Run `k i v` for each register of n bits at base + stride * i that the access covers whole, in ascending order. -/
def eachWritten (s : State) (a : Access) (base stride count n : Nat) (k : State → Nat → Nat → State) : State :=
  let i0 := (a.off - base) / stride
  (List.range 8).foldl (fun s d =>
    if i0 + d < count then
      match written a (base + stride * (i0 + d)) 0 n with
      | some v => k s (i0 + d) v
      | none => s
    else s) s

/-- Run `k v` when the access covers the register of n bits at byte b. -/
def onWritten (s : State) (a : Access) (b n : Nat) (k : State → Nat → State) : State :=
  match written a b 0 n with
  | some v => k s v
  | none => s

/-! ### Identity and partition (R380) -/

def partCtrlWrite (s : State) (p v : Nat) : State :=
  let s := if bitAt v 3 then wrb s p R.PART_CTRL_RESUME_ERR false else s
  if bitAt v 0 && bitsOf v 8 8 == 0xA5 then partReset s p 1
  else if bitAt v 1 then resumePart s p else s

def identityWrite (s : State) (p : Nat) (a : Access) : State :=
  onWritten (onWritten s a 0x30 32 (fun s v => partCtrlWrite s p v)) a 0x38 32 (fun s v => voteWrite s p (bitsOf v 0 2) (bitAt v 8))

/-! ### Step Time, job key, step decision, freeze (R51, R78, R309, R501) -/

def stepWrite (s : State) (p : Nat) (a : Access) : State :=
  let v := a.val.toNat
  if a.off < 0x200008 then stNowWrite s p a.off a.size v
  else if a.off < 0x200400 then stConfigWrite s p a.off a.size v
  else if a.off < 0x201000 then s
  else if a.off < 0x203000 then eventWrite s p a.off a.size v
  else
    let s := fieldsWrite s p a.off a.size v (rdb s p R.ST_CTRL_LOCK) false (fun f i _ => plain s p 0x203000 0x205000 f i)
    let s := if writes1 a 0x204018 0 then wr s p R.ST_STATUS_SKIP_VOTE 1 else s
    if writes1 a 0x205000 0 then freezeResume s p else s

/-! ### Counters (R266, R268) -/

def syncWrite (s : State) (p : Nat) (a : Access) : State :=
  let v := a.val.toNat
  if a.off < 0x320000 then counterWrite s p a.off a.size v
  else if a.off = 0x320020 then hostSig s p v
  else fieldsWrite s p a.off a.size v false false (fun f i _ => plain s p 0x320000 0x320020 f i)

/-! ### Fault collector (R459) -/

def collectorWrite (s : State) (p : Nat) (a : Access) : State :=
  let s := fieldsWrite s p a.off a.size a.val.toNat false false (fun f _ _ =>
    f == R.FC_RING_BASE_FR_BASE || f == R.FC_SETTLE_SETTLE || f == R.FC_CFG_FLT_ON_HOLD)
  let s := onWritten s a 0x400008 32 (fun s v => ringCfgWrite s p v)
  let s := onWritten s a 0x40000C 16 (fun s v => fcRefresh (mirrorAll (wr s p R.FC_RING_IDX_HEAD v)))
  let s := onWritten s a 0x400010 32 (fun s v =>
    ackRecs s p (fun r => r.unacked.contains p && decide ((BitVec.ofNat 32 r.seq - BitVec.ofNat 32 v).toInt ≤ 0)))
  onWritten s a 0x400038 32 (fun s v => injectWrite s p v)

/-! ### Fabric (R335) -/

def fabricWrite (s : State) (p : Nat) (a : Access) : State :=
  let v := a.val.toNat
  if 0x504000 ≤ a.off then
    let b := 0x504000 + (a.off - 0x504000) / 64 * 64
    if 0x505000 ≤ a.off then s else collWrite s p a.off a.size v (writes1 a b 18) (writes1 a b 19) .none
  else if 0x501000 ≤ a.off then
    fieldsWrite s p a.off a.size v false false (fun f i _ => plain s p 0x501000 0x501002 f i)
  else if 0x500800 ≤ a.off then
    eachWritten s a 0x500800 2 384 16 (fun s k v => if partOfFPort s (k / 32) = p then peerWrite s k v else s)
  else
    let was := fabEn s p
    let s := fieldsWrite s p a.off a.size v (rdb s p R.FAB_CTRL_FAB_LOCK) false (fun f i _ => plain s p 0x500000 0x500800 f i)
    let s := fabAfter s p was
    (fportsOf s p).foldl (fun s f => if writes1 a (0x500100 + 32 * f) 2 then portRetrain s f else s) s

/-! ### Memory and traffic generators (R293) -/

def memoryWrite (s : State) (p : Nat) (a : Access) : State :=
  let s := fieldsWrite s p a.off a.size a.val.toNat false false (fun f i _ =>
    f == R.HBM_ECC_THRESH_THRESH || (f == R.TG_MASK_PC_EN && ownElem s p f i)
      || (plain s p 0x610000 0x611000 f i && !rdb s 4 R.TG_CTRL_RUNNING i))
  (stacksOf s p).foldl (fun s k =>
    let s := if writes1 a (0x602000 + 8 * k) 1 then tgHalt s p k else s
    if writes1 a (0x602000 + 8 * k) 0 then tgStart s p k else s) s

/-! ### Tile windows (R192, R219, R249) -/

/-- A write of ACC_DBG_DATA or SIDE_DBG_DATA at byte b, whole or one half (R504); either advances WORD. -/
def dataWrite (s : State) (a : Access) (t b : Nat) (addr : Reg) (key : Nat → Nat) (isOpen : Bool) (busy : Kind) (sub : Nat) : State :=
  if b ≤ a.off ∧ a.off < b + 8 then
    let old := memWord s (key (8 * rd s 4 addr t))
    let new := (overlay 64 (8 * b) a.off a.size a.val.toNat old.toNat).1
    engineDebug s a.port t true isOpen busy sub none (fun s => memAccess s addr t key true (BitVec.ofNat 64 new))
  else s

def tileWrite (s : State) (port p : Nat) (a : Access) : State :=
  let t := (a.off - 0x800000) / 0x1000
  let b := 0x800000 + 0x1000 * t
  if !tileAccess s port t then s
  else
    let s := fieldsWrite s p a.off a.size a.val.toNat false (dbgAuth s p) (fun f i _ =>
      (f == R.MX_CTRL_DEF_SHARE || f == R.ACC_DBG_ADDR_WORD || f == R.SIDE_DBG_ADDR_WORD) && i == t)
    let s := onWritten s a (b + 8) 32 (fun s v => writeTileCtrl s t (BitVec.ofNat 32 v))
    let s := onWritten s a (b + 0x40) 5 (fun s v => resetQueues s t v)
    let s := dataWrite s a t (b + 0x118) R.ACC_DBG_ADDR_WORD (accKey t) (accOpen s t) K.ACC_DEBUG_BUSY 7
    dataWrite s a t (b + 0x310) R.SIDE_DBG_ADDR_WORD (sideKey t) (sideOpen s t) K.SIDE_DEBUG_BUSY 8

/-! ### Sumac (R89, R90, R115, R116, R126, R127, R150, R151, R165) -/

/-- The value checks of R90 on a table descriptor. -/
def tableOk (s : State) (p t : Nat) : Bool :=
  let w := rd s p R.TABLE_DESC_WIDTH_32 t
  let fmt := rd s p R.TABLE_DESC_FMT t
  let opt := rd s p R.TABLE_DESC_OPT t
  let n := rd s p R.TABLE_DESC_SHARD_CNT t
  w == 0 || (decide (w ≤ 32) && [1, 3, 4].contains fmt && decide (opt ≤ 4) && decide (1 ≤ n ∧ n ≤ 1048575) && (fmt == 1 || opt == 0))

def tableField (t : Nat) (f : Reg) (i : Nat) : Bool :=
  i == t && decide (0xA10000 ≤ f.base ∧ f.base < 0xA10010) && f.acc == .rw

def slotsFree (s : State) (p t : Nat) : Bool := (List.range 4).all (fun j => slotState s p t j == 0)

def tableWrite (s : State) (port p : Nat) (a : Access) : State :=
  let t := (a.off - 0xA10000) / 128
  if 16 ≤ (a.off - 0xA10000) % 128 then s
  else
    let s' := fieldsWrite s p a.off a.size a.val.toNat false false (fun f i _ => tableField t f i)
    if slotsFree s p t && tableOk s' p t then s' else raise s (srcHub port 0) K.TABLE_WRITE_REFUSED p

/-- Bytes of one buffer of a hot-row set (R116). -/
def hotLen (s : State) (p set : Nat) : Nat :=
  let t := rd s p R.HOTROW_SET_HR_TABLE set
  let n := hotSlots s p set
  (8 * n + 63) / 64 * 64 + n * recSize (tblFmt s p t) (tblWidth s p t)

/-- Setting HR_ENABLE is refused (R116): a die's cluster-memory range is 128 MiB. -/
def hotRefused (s : State) (p set : Nat) : Bool :=
  let n := hotLen s p set
  let b0 := rd s p R.HOTROW_SET_BUF0_OFF set
  let b1 := rd s p R.HOTROW_SET_BUF1_OFF set
  let used := ((List.range 32).filter (fun x => x == set || rdb s p R.HOTROW_SET_HR_ENABLE x)).map (fun x => 2 * hotLen s p x)
  !tableDefined s p (rd s p R.HOTROW_SET_HR_TABLE set) || (decide (b0 < b1 + n) && decide (b1 < b0 + n))
    || decide (2 ^ 27 < b0 + n) || decide (2 ^ 27 < b1 + n) || decide (2 ^ 26 < used.sum)

def hotWrite (s : State) (port p : Nat) (a : Access) : State :=
  let set := (a.off - 0xA30000) / 64
  let was := rdb s p R.HOTROW_SET_HR_ENABLE set
  let s := fieldsWrite s p a.off a.size a.val.toNat false false (fun f i _ => i == set && plain s p 0xA30000 0xA30040 f i)
  if !was && rdb s p R.HOTROW_SET_HR_ENABLE set && hotRefused s p set then
    raise (wrb s p R.HOTROW_SET_HR_ENABLE false set) (srcHub port 0) K.HOTROW_CFG p
  else s

/-- A coefficient set that a defined table names (R151). -/
def coeffUsed (s : State) (p k : Nat) : Bool :=
  (List.range 1024).any (fun t => tableDefined s p t && rd s p R.TBL_COEFF_SET t == k)

def coeffWrite (s : State) (port p : Nat) (a : Access) : State :=
  let k := (a.off - 0xA31000) / 64
  if coeffUsed s p k then raise s (srcHub port 0) K.COEFF_IN_USE p
  else fieldsWrite s p a.off a.size a.val.toNat false false (fun f i _ => i == k && plain s p 0xA31000 0xA31040 f i)

def tableCoeffWrite (s : State) (port p : Nat) (a : Access) : State :=
  eachWritten s a 0xA32000 4 1024 32 (fun s t v =>
    if !slotsFree s p t && !isHold s p then raise s (srcHub port 0) K.COEFF_IN_USE p
    else wr s p R.TBL_COEFF_SET (bitsOf v 0 6) t)

/-- Setting SU_ENABLE is refused (R165): a contribution buffer or shard state array is 0 or leaves its stack. -/
def suRefused (s : State) (p : Nat) : Bool :=
  (stacksOf s p).any (fun k =>
    let c := rd s 4 R.CONTRIB_BASE_CB_ADDR k
    let b := rd s 4 R.SHARD_STATE_BASE_SS_ADDR k
    c == 0 || b == 0 || (stackOff k c (rd s 4 R.CONTRIB_SIZE_CB_BYTES k)).isNone || (stackOff k b (16 * 32768)).isNone)

/-- TD_CMD (R126, R127). -/
def tdWrite (s : State) (port v : Nat) : State :=
  let t := bitsOf v 0 10
  let ver := bitsOf v 16 16
  tdCommand s port t (fun p => match bitsOf v 32 3 with
    | 1 => installVer s t ver p
    | 2 => sealVer s t ver p
    | 3 => abortVer s t ver p
    | 4 => freeVer s t ver p
    | 5 => activateVer s t ver p
    | _ => (s, St.BAD_DESC))

def sumacBlockWrite (s : State) (port p : Nat) (a : Access) : State :=
  let was := suEnabled s p
  let s := fieldsWrite s p a.off a.size a.val.toNat (rdb s p R.SUMAC_CTRL_SU_LOCK) false (fun f i _ =>
    plain s p 0xA00000 0xA00800 f i && (f != R.UPD_DECIDED_DECIDED_STEP || isHold s p) && f != R.LOAD_CTRL_SNAP_CTR)
  let s := if !was && suEnabled s p && suRefused s p then wrb s p R.SUMAC_CTRL_SU_ENABLE false else s
  let s := onWritten s a 0xA00010 64 (fun s v => tdWrite s port v)
  let s := onWritten s a 0xA00048 32 (fun s v =>
    if rdb s p R.MIG_STATUS_MIG_BUSY then s else if bitsOf v 0 3 = 1 then migrateCmd s p .none else migResult s p St.BAD_DESC)
  onWritten s a 0xA00058 32 (fun s v => loadCtrl s p v)

def sumacWrite (s : State) (port p : Nat) (a : Access) : State :=
  if a.off < 0xA10000 then sumacBlockWrite s port p a
  else if a.off < 0xA30000 then tableWrite s port p a
  else if a.off < 0xA30800 then hotWrite s port p a
  else if a.off < 0xA31000 then s
  else if a.off < 0xA32000 then coeffWrite s port p a
  else if a.off < 0xA33000 then tableCoeffWrite s port p a
  else s

/-! ### Power and configuration store (R482, R484) -/

def csWrite (s : State) (port op : Nat) : State :=
  csCmd s port (match op with
    | 1 => nodeRec
    | 2 => subsysRec
    | 3 => ideRec s
    | 4 => capRec
    | 5 => compactRec
    | _ => fun _ => .error St.BAD_DESC)

def powerWrite (s : State) (port p : Nat) (a : Access) : State :=
  let s := fieldsWrite s p a.off a.size a.val.toNat false false (fun f i _ =>
    f == R.CS_ARG_ARG || f == R.CS_HIST_SEL_IDX || plain s p 0xC00100 0xC00104 f i)
  let s := onWritten s a 0xC00000 12 (fun s v => wr s p R.PWR_CAP_CAP_W (clampCap s v))
  let s := onWritten s a 0xC00010 5 (fun s v => if bitAt v 4 then applyProfile s p (v % 16) else s)
  onWritten s a 0xC00800 4 (fun s v => csWrite s port v)

/-! ### Security (R420, R436 to R438) -/

/-- The recovery registers accept writes from HP0 alone. -/
def recoveryWrite (s : State) (port : Nat) (a : Access) : State :=
  if port ≠ 0 then s
  else fieldsWrite s 4 a.off a.size a.val.toNat false false (fun f _ _ => decide (0xD00100 ≤ f.base ∧ f.base < 0xD00118))

/-- SEC_CMD. Operations 2, 3, 6 and 8 read a blob and act in rows of their own, which carry it. -/
def secWrite (s : State) (port : HPort) (v : Nat) : State :=
  match bitsOf v 0 4 with
  | 1 => secCmd s port 1 (some K.HBM_KEY_REFUSED) .whole hbmKeyLoad
  | 4 => secCmd s port 4 none .whole jobClear
  | 5 => secCmd s port 5 none .whole dbgChallenge
  | 7 => secCmd s port 7 none .whole (svnCommit port)
  | 2 | 3 | 6 | 8 => s
  | n => secCmd s port n none .whole (fun s _ _ => (s, St.BAD_DESC))

def securityWrite (s : State) (port : HPort) (p : Nat) (a : Access) : State :=
  if 0xD00100 ≤ a.off then recoveryWrite s port a
  else
    let s := fieldsWrite s p a.off a.size a.val.toNat false false (fun f _ _ => f == R.SEC_CMD_ADDR_ADDR)
    onWritten s a 0xD00008 5 (fun s v => secWrite s port v)

/-! ### Resilience and storage ports (R357, R362, R384) -/

/-- Setting RS_EN is refused (R362): a dirty map or the staging area leaves its stacks. -/
def rsRefused (s : State) (p : Nat) : Bool :=
  let stage := match parseDev (rd s p R.JNL_STAGE_BASE_ADDR) with
    | some (.inter _ d o) => partOfDie s d == p && decide (o + rd s p R.JNL_STAGE_SIZE_SIZE ≤ interData)
    | _ => false
  !stage || (stacksOf s p).any (fun k =>
    (stackOff k (rd s 4 R.JNL_DIRTY_BASE_ADDR k) ((rd s 4 R.JNL_LIMIT_LIMIT k + 511) / 512)).isNone)

/-- RS_CMD. VERIFY, RESTORE and SEED read bytes and act in rows of their own, which carry them. -/
def rsWrite (s : State) (port p v : Nat) : State :=
  match bitsOf v 0 4 with
  | 1 => raise (rsResult s p St.OK) srcResilience K.HOLD_REQUESTED p
  | 2 => rsCommand s port rewindCmd
  | 3 => rsCommand s port reloadCmd
  | 5 => rsCommand s port assumeCmd
  | 4 | 6 | 7 => s
  | _ => if rdb s p R.RS_STATUS_CMD_BUSY then s else rsResult s p St.BAD_DESC

def journalWrite (s : State) (p v : Nat) : State :=
  let s := if bitAt v 1 then journalFormat s p else s
  let s := journalEnable s p (bitAt v 0) true
  if bitAt v 2 then journalCompact s p else s

def resilienceWrite (s : State) (port p : Nat) (a : Access) : State :=
  if 0xE80000 ≤ a.off then
    (List.range 4).foldl (fun s k =>
      if partOfLPort s k = p then onWritten s a (0xE80000 + 0x100 * k) 1 (fun s v => lpWrite s k (v == 1)) else s) s
  else
    let was := rsEnabled s p
    let s := fieldsWrite s p a.off a.size a.val.toNat (rdb s p R.RS_CTRL_RS_LOCK) false (fun f i _ =>
      plain s p 0xE00000 0xE06400 f i && f != R.JNL_CTRL_JNL_EN && !decide (0xE00100 ≤ f.base ∧ f.base < 0xE00108))
    let s := if !was && rsEnabled s p && rsRefused s p then wrb s p R.RS_CTRL_RS_EN false else s
    let s := onWritten s a 0xE00030 6 (fun s v => rsWrite s port p v)
    let s := (List.range 4).foldl (fun s w => onWritten s a (0xE00100 + 64 * w) 16 (fun s v => watchWrite s p w v)) s
    let s := if writes1 a 0xE01100 0 then exportGo s p else s
    onWritten s a 0xE06000 3 (fun s v => journalWrite s p v)

/-! ### The write -/

/-- A write of the controlling host to the block that holds its offset; reserved offsets discard it (R502). -/
def blockWrite (s : State) (p : Nat) (a : Access) : State :=
  match a.off / 0x100000 with
  | 0x0 => identityWrite s p a
  | 0x2 => stepWrite s p a
  | 0x3 => syncWrite s p a
  | 0x4 => collectorWrite s p a
  | 0x5 => fabricWrite s p a
  | 0x6 => memoryWrite s p a
  | 0x8 => tileWrite s a.port p a
  | 0xA => sumacWrite s a.port p a
  | 0xC => powerWrite s a.port p a
  | 0xD => securityWrite s a.port p a
  | 0xE => resilienceWrite s a.port p a
  | _ => s

/-- What a port's role lets it write (R366): any port the windows and queues, the controlling host the rest. -/
def roleWrite (s : State) (p : Nat) (a : Access) : State :=
  if inWindows a.off then windowWrite s p a.port a.off a.size a.val.toNat
  else if inQueues a.off then queueWrite s p a.port a.off a.size a.val.toNat
  else if portRole s a.port = 0 then blockWrite s p a else s

/-- A word of a port's MSI-X table is written; a vector that is unmasked while pending is sent (R363, R365, log 69). -/
def msixPut (s : State) (h i v : Nat) : State :=
  let vec := i / 4
  let s := { s with msix := mapSet s.msix (2048 * h + i) (if i % 4 = 3 then v % 2 else v) }
  if i % 4 = 3 ∧ !bitAt v 0 ∧ s.msixPend.contains (h, vec) then
    raiseIrq { s with msixPend := s.msixPend.filter (· != (h, vec)) } h vec
  else s

/-- A write to BAR2 at offset `off`: the MSI-X table; the pending bits and every offset past it discard it (R365). A doorbell page takes
32-bit writes of its two registers, which have rows of their own, and any other write there is malformed (R393). -/
def bar2Write (s : State) (a : Access) (off : Nat) : State :=
  if off < 0x100000 then
    if a.size = 4 ∧ off % 0x1000 < 8 then s else barInvalid s a.port
  else if 0x100000 ≤ off ∧ off < 0x102000 then
    (List.range (a.size / 4)).foldl (fun s k => msixPut s a.port ((off - 0x100000) / 4 + k) (bitsOf a.val.toNat (32 * k) 32)) s
  else s

/-- In the recovery wait HP0 reaches the recovery registers and nothing else (R420). Offsets from 64 MiB on name BAR2 (log 69). -/
def execRegisterWrite (a : Access) (s : State) : Host.Outcome State Fault Refusal :=
  .next (
    if s.safe || s.mseOff.contains a.port then s
    else if badAccess true a.off a.size then barInvalid s a.port
    else if recovering s then (if 0xD00100 ≤ a.off then recoveryWrite s a.port a else s)
    else accessPort s a (fun p => if 0x4000000 ≤ a.off then bar2Write s a (a.off - 0x4000000) else roleWrite s p a))

end Sys2Proof.Machine
end

