-- ==== Sys2Proof/Machine/Dispatch.lean ====
section
/-!
DEFINITION. Dispatch: one arm for each command, each one direct call of its meaning.
-/

namespace Sys2Proof.Machine

def exec (i : Instr) (s : State) : Host.Outcome State Fault Refusal :=
  match i with
  | .alu t rd rs1 rs2 funct => Sys2Proof.Machine.execAlu t rd rs1 rs2 funct s
  | .addi t rd rs1 imm => Sys2Proof.Machine.execAddi t rd rs1 imm s
  | .andi t rd rs1 imm => Sys2Proof.Machine.execAndi t rd rs1 imm s
  | .ori t rd rs1 imm => Sys2Proof.Machine.execOri t rd rs1 imm s
  | .xori t rd rs1 imm => Sys2Proof.Machine.execXori t rd rs1 imm s
  | .shi t rd rs1 imm => Sys2Proof.Machine.execShi t rd rs1 imm s
  | .lui t rd rs1 imm => Sys2Proof.Machine.execLui t rd rs1 imm s
  | .fpu t rd rs1 rs2 funct => Sys2Proof.Machine.execFpu t rd rs1 rs2 funct s
  | .insi t rd rs1 imm => Sys2Proof.Machine.execInsi t rd rs1 imm s
  | .ldd t rd rs1 imm => Sys2Proof.Machine.execLdd t rd rs1 imm s
  | .ldw t rd rs1 imm => Sys2Proof.Machine.execLdw t rd rs1 imm s
  | .ldws t rd rs1 imm => Sys2Proof.Machine.execLdws t rd rs1 imm s
  | .ldb t rd rs1 imm => Sys2Proof.Machine.execLdb t rd rs1 imm s
  | .std t rs2 rs1 imm => Sys2Proof.Machine.execStd t rs2 rs1 imm s
  | .stw t rs2 rs1 imm => Sys2Proof.Machine.execStw t rs2 rs1 imm s
  | .stb t rs2 rs1 imm => Sys2Proof.Machine.execStb t rs2 rs1 imm s
  | .beq t rs1 rs2 off => Sys2Proof.Machine.execBeq t rs1 rs2 off s
  | .bne t rs1 rs2 off => Sys2Proof.Machine.execBne t rs1 rs2 off s
  | .blt t rs1 rs2 off => Sys2Proof.Machine.execBlt t rs1 rs2 off s
  | .bge t rs1 rs2 off => Sys2Proof.Machine.execBge t rs1 rs2 off s
  | .bltu t rs1 rs2 off => Sys2Proof.Machine.execBltu t rs1 rs2 off s
  | .bgeu t rs1 rs2 off => Sys2Proof.Machine.execBgeu t rs1 rs2 off s
  | .jal t off => Sys2Proof.Machine.execJal t off s
  | .jalr t rd rs1 imm => Sys2Proof.Machine.execJalr t rd rs1 imm s
  | .push t q k rsvd => Sys2Proof.Machine.execPush t q k rsvd s
  | .qstat t rd rs1 imm => Sys2Proof.Machine.execQstat t rd rs1 imm s
  | .sig t rd rs1 rs2 funct => Sys2Proof.Machine.execSig t rd rs1 rs2 funct s
  | .wait t rd rs1 rs2 funct => Sys2Proof.Machine.execWait t rd rs1 rs2 funct s
  | .waitRelease t => Sys2Proof.Machine.execWaitRelease t s
  | .vsum t rd rs1 imm => Sys2Proof.Machine.execVsum t rd rs1 imm s
  | .rdsr t rd rs1 imm => Sys2Proof.Machine.execRdsr t rd rs1 imm s
  | .wrsr t rd rs1 imm => Sys2Proof.Machine.execWrsr t rd rs1 imm s
  | .fence t rd rs1 imm => Sys2Proof.Machine.execFence t rd rs1 imm s
  | .fenceRelease t => Sys2Proof.Machine.execFenceRelease t s
  | .halt t rd rs1 imm => Sys2Proof.Machine.execHalt t rd rs1 imm s
  | .tileStart port t val => Sys2Proof.Machine.execTileStart port t val s
  | .tileStop port t val => Sys2Proof.Machine.execTileStop port t val s
  | .qreset port t mask => Sys2Proof.Machine.execQreset port t mask s
  | .commandComplete t q => Sys2Proof.Machine.execCommandComplete t q s
  | .mma t deferred ecc => Sys2Proof.Machine.execMma t deferred ecc s
  | .mdrain t deferred ecc => Sys2Proof.Machine.execMdrain t deferred ecc s
  | .mtload t deferred ecc => Sys2Proof.Machine.execMtload t deferred s ecc
  | .mbind t deferred ecc => Sys2Proof.Machine.execMbind t deferred s ecc
  | .mslot t deferred => Sys2Proof.Machine.execMslot t deferred s
  | .vadd t ecc => Sys2Proof.Machine.execVadd t s ecc
  | .vsub t ecc => Sys2Proof.Machine.execVsub t s ecc
  | .vmul t ecc => Sys2Proof.Machine.execVmul t s ecc
  | .vfma t ecc => Sys2Proof.Machine.execVfma t s ecc
  | .vmin t ecc => Sys2Proof.Machine.execVmin t s ecc
  | .vmax t ecc => Sys2Proof.Machine.execVmax t s ecc
  | .vcmp t ecc => Sys2Proof.Machine.execVcmp t s ecc
  | .vsel t ecc => Sys2Proof.Machine.execVsel t s ecc
  | .vcvt t ecc => Sys2Proof.Machine.execVcvt t s ecc
  | .vred t ecc => Sys2Proof.Machine.execVred t s ecc
  | .idxgen t ecc => Sys2Proof.Machine.execIdxgen t s ecc
  | .smaxF t ecc => Sys2Proof.Machine.execSmaxF t ecc s
  | .smaxB t ecc => Sys2Proof.Machine.execSmaxB t s ecc
  | .normF t ecc => Sys2Proof.Machine.execNormF t s ecc
  | .normB t ecc => Sys2Proof.Machine.execNormB t ecc s
  | .copy t ext ecc => Sys2Proof.Machine.execCopy t ext ecc s
  | .stream t ecc => Sys2Proof.Machine.execStream t s ecc
  | .streamChunkStart t => Sys2Proof.Machine.execStreamChunkStart t s
  | .streamChunkLanded t ext ecc => Sys2Proof.Machine.execStreamChunkLanded t ext s ecc
  | .dcopy t ecc => Sys2Proof.Machine.execDcopy t s ecc
  | .lookup t ext ecc => Sys2Proof.Machine.execLookup t ext s ecc
  | .merge t ext ecc => Sys2Proof.Machine.execMerge t ext s ecc
  | .tload t ext ecc => Sys2Proof.Machine.execTload t ext s ecc
  | .tstart t => Sys2Proof.Machine.execTstart t s
  | .lookupRequestReceive p m ecc => Sys2Proof.Machine.execLookupRequestReceive p m ecc s
  | .forwardedRequestReceive p m ecc => Sys2Proof.Machine.execForwardedRequestReceive p m s ecc
  | .lookupReplyReceive p m => Sys2Proof.Machine.execLookupReplyReceive p m s
  | .lookupComplete t => Sys2Proof.Machine.execLookupComplete t s
  | .lookupTimeout t => Sys2Proof.Machine.execLookupTimeout t s
  | .install port table ver => Sys2Proof.Machine.execInstall port table ver s
  | .seal port table ver => Sys2Proof.Machine.execSeal port table ver s
  | .abort port table ver => Sys2Proof.Machine.execAbort port table ver s
  | .free port table ver => Sys2Proof.Machine.execFree port table ver s
  | .activate port table ver => Sys2Proof.Machine.execActivate port table ver s
  | .versionRetire p table slot => Sys2Proof.Machine.execVersionRetire p table slot s
  | .clovePassDone c ext ecc => Sys2Proof.Machine.execClovePassDone c ext s ecc
  | .contributionReceive p m ecc => Sys2Proof.Machine.execContributionReceive p m s ecc
  | .contributionAckReceive p m => Sys2Proof.Machine.execContributionAckReceive p m s
  | .withdrawalReceive p m => Sys2Proof.Machine.execWithdrawalReceive p m s
  | .mergeComplete c => Sys2Proof.Machine.execMergeComplete c s
  | .mergeTimeout c => Sys2Proof.Machine.execMergeTimeout c s
  | .forwardedContributionReceive p m ecc => Sys2Proof.Machine.execForwardedContributionReceive p m s ecc
  | .applyStepFinished k => Sys2Proof.Machine.execApplyStepFinished k s
  | .migrate port ecc => Sys2Proof.Machine.execMigrate port s ecc
  | .migrationCopyStart k batch ext ecc => Sys2Proof.Machine.execMigrationCopyStart k batch ext s ecc
  | .migrationCopyReceive p m ecc => Sys2Proof.Machine.execMigrationCopyReceive p m s ecc
  | .migrationCopyAck k row table ver stored => Sys2Proof.Machine.execMigrationCopyAck k row table ver stored s
  | .loadSnapshot port val => Sys2Proof.Machine.execLoadSnapshot port val s
  | .stEnableWrite a => Sys2Proof.Machine.execStEnableWrite a s
  | .stNowWrite a => Sys2Proof.Machine.execStNowWrite a s
  | .readinessReportSend p => Sys2Proof.Machine.execReadinessReportSend p s
  | .readinessReportReceive p m => Sys2Proof.Machine.execReadinessReportReceive p m s
  | .stMasterAdvance p ecc => Sys2Proof.Machine.execStMasterAdvance p s ecc
  | .beaconReceive p m ecc => Sys2Proof.Machine.execBeaconReceive p m s ecc
  | .beaconTimeout p => Sys2Proof.Machine.execBeaconTimeout p s
  | .eventArm a => Sys2Proof.Machine.execEventArm a s
  | .eventDisarm a => Sys2Proof.Machine.execEventDisarm a s
  | .hotrowFetchReadReceive p m ecc => Sys2Proof.Machine.execHotrowFetchReadReceive p m s ecc
  | .hotrowFetchDone p d set => Sys2Proof.Machine.execHotrowFetchDone p d set s
  | .hotrowSwap p => Sys2Proof.Machine.execHotrowSwap p s
  | .migrationRetire p => Sys2Proof.Machine.execMigrationRetire p s
  | .epochClose p ecc => Sys2Proof.Machine.execEpochClose p s ecc
  | .normPassDone k => Sys2Proof.Machine.execNormPassDone k s
  | .sdLocalPartial p => Sys2Proof.Machine.execSdLocalPartial p s
  | .sdSubtreeSend p => Sys2Proof.Machine.execSdSubtreeSend p s
  | .sdPartialReceive p m => Sys2Proof.Machine.execSdPartialReceive p m s
  | .sdResultReceive p m => Sys2Proof.Machine.execSdResultReceive p m s
  | .normTimeout p => Sys2Proof.Machine.execNormTimeout p s
  | .voteSet port => Sys2Proof.Machine.execVoteSet port s
  | .weightWriteRelease t => Sys2Proof.Machine.execWeightWriteRelease t s
  | .incrementApply c => Sys2Proof.Machine.execIncrementApply c s
  | .remoteIncrementReceive p m => Sys2Proof.Machine.execRemoteIncrementReceive p m s
  | .syncHostSig port val => Sys2Proof.Machine.execSyncHostSig port val s
  | .counterWrite bar4 a => Sys2Proof.Machine.execCounterWrite bar4 a s
  | .syncTimeout t dma also => Sys2Proof.Machine.execSyncTimeout t dma s also
  | .tgStart port k => Sys2Proof.Machine.execTgStart port k s
  | .tgStop port k => Sys2Proof.Machine.execTgStop port k s
  | .tgDone k pc r => Sys2Proof.Machine.execTgDone k pc r s
  | .portEnable port f => Sys2Proof.Machine.execPortEnable port f s
  | .portDisable port f => Sys2Proof.Machine.execPortDisable port f s
  | .retrain port f => Sys2Proof.Machine.execRetrain port f s
  | .linkTrained f lanes => Sys2Proof.Machine.execLinkTrained f lanes s
  | .linkTrainTimeout f => Sys2Proof.Machine.execLinkTrainTimeout f s
  | .linkDown f lanes => Sys2Proof.Machine.execLinkDown f lanes s
  | .helloReceive f ix h => Sys2Proof.Machine.execHelloReceive f ix h s
  | .helloRepeat f ix => Sys2Proof.Machine.execHelloRepeat f ix s
  | .ka1 f ix m => Sys2Proof.Machine.execKa1 f ix m s
  | .ka2 f ix m => Sys2Proof.Machine.execKa2 f ix m s
  | .ka3 f ix m => Sys2Proof.Machine.execKa3 f ix m s
  | .ka4 f ix => Sys2Proof.Machine.execKa4 f ix s
  | .handshakeTimeout f ix => Sys2Proof.Machine.execHandshakeTimeout f ix s
  | .peerEntryWrite port f ix val => Sys2Proof.Machine.execPeerEntryWrite port f ix val s
  | .frameReceive f ix m ecc => Sys2Proof.Machine.execFrameReceive f ix m s ecc
  | .nakReceive f ix expected => Sys2Proof.Machine.execNakReceive f ix expected s
  | .ackReceive f ix ackSeq => Sys2Proof.Machine.execAckReceive f ix ackSeq s
  | .replayTimeout f ix => Sys2Proof.Machine.execReplayTimeout f ix s
  | .transitFrame f m => Sys2Proof.Machine.execTransitFrame f m s
  | .nodeUnreachable p hop => Sys2Proof.Machine.execNodeUnreachable p hop s
  | .faultBeaconSend f => Sys2Proof.Machine.execFaultBeaconSend f s
  | .faultBeaconReceive f ix node kind => Sys2Proof.Machine.execFaultBeaconReceive f ix node kind s
  | .collArm a ecc => Sys2Proof.Machine.execCollArm a s ecc
  | .collDisarm a => Sys2Proof.Machine.execCollDisarm a s
  | .collTrigger p k ecc => Sys2Proof.Machine.execCollTrigger p k s ecc
  | .collSegmentReceive p m => Sys2Proof.Machine.execCollSegmentReceive p m s
  | .collDone p k => Sys2Proof.Machine.execCollDone p k s
  | .collTimeout p k => Sys2Proof.Machine.execCollTimeout p k s
  | .takeoverReceive p f ix cert => Sys2Proof.Machine.execTakeoverReceive p f ix cert s
  | .rsHold port => Sys2Proof.Machine.execRsHold port s
  | .rewind port => Sys2Proof.Machine.execRewind port s
  | .reload port => Sys2Proof.Machine.execReload port s
  | .verify port cert ecc => Sys2Proof.Machine.execVerify port cert s ecc
  | .assume port => Sys2Proof.Machine.execAssume port s
  | .restore port slot image shares => Sys2Proof.Machine.execRestore port slot image shares s
  | .seed port slot image => Sys2Proof.Machine.execSeed port slot image s
  | .watchModeWrite port w val => Sys2Proof.Machine.execWatchModeWrite port w val s
  | .copyReceive p m => Sys2Proof.Machine.execCopyReceive p m s
  | .seedingDone p w => Sys2Proof.Machine.execSeedingDone p w s
  | .lapseNoticeReceive p src => Sys2Proof.Machine.execLapseNoticeReceive p src s
  | .journalFormat port => Sys2Proof.Machine.execJournalFormat port s
  | .journalEnable port en acquired => Sys2Proof.Machine.execJournalEnable port en s acquired
  | .journalCompact p port => Sys2Proof.Machine.execJournalCompact p s port
  | .compactionDone p => Sys2Proof.Machine.execCompactionDone p s
  | .journalSealDone p => Sys2Proof.Machine.execJournalSealDone p s
  | .journalIo p => Sys2Proof.Machine.execJournalIo p s
  | .exportStart port => Sys2Proof.Machine.execExportStart port s
  | .importExport port chunks image nonces => Sys2Proof.Machine.execImportExport port chunks image s nonces
  | .linkLoss port => Sys2Proof.Machine.execLinkLoss port s
  | .d3hotEntry port => Sys2Proof.Machine.execD3hotEntry port s
  | .flr port => Sys2Proof.Machine.execFlr port s
  | .bmeClear port => Sys2Proof.Machine.execBmeClear port s
  | .mseClear port => Sys2Proof.Machine.execMseClear port s
  | .scrubDone p => Sys2Proof.Machine.execScrubDone p s
  | .windowWrite a => Sys2Proof.Machine.execWindowWrite a s
  | .preset port key => Sys2Proof.Machine.execPreset port key s
  | .partitionResetDone p => Sys2Proof.Machine.execPartitionResetDone p s
  | .resume port => Sys2Proof.Machine.execResume port s
  | .modeVote port newMode vote => Sys2Proof.Machine.execModeVote port newMode vote s
  | .flushReadDone p q sqIdx ok port => Sys2Proof.Machine.execFlushReadDone p q sqIdx ok s port
  | .lpEnable port k en => Sys2Proof.Machine.execLpEnable port k en s
  | .storageLinkDown k => Sys2Proof.Machine.execStorageLinkDown k s
  | .nvmeCompletion k ok => Sys2Proof.Machine.execNvmeCompletion k ok s
  | .queueEnable a => Sys2Proof.Machine.execQueueEnable a s
  | .queueDisable a => Sys2Proof.Machine.execQueueDisable a s
  | .queueOwnerWrite a => Sys2Proof.Machine.execQueueOwnerWrite a s
  | .sqDb port q size val => Sys2Proof.Machine.execSqDb port q size val s
  | .cqDb port q size val => Sys2Proof.Machine.execCqDb port q size val s
  | .descriptorFetchReturn p q descs => Sys2Proof.Machine.execDescriptorFetchReturn p q descs s
  | .descriptorReread p q desc => Sys2Proof.Machine.execDescriptorReread p q desc s
  | .nop p q => Sys2Proof.Machine.execNop p q s
  | .input p q data ecc => Sys2Proof.Machine.execInput p q data s ecc
  | .output p q ecc => Sys2Proof.Machine.execOutput p q s ecc
  | .queueWait p q => Sys2Proof.Machine.execQueueWait p q s
  | .queueWaitTimeout p q => Sys2Proof.Machine.execQueueWaitTimeout p q s
  | .hostTload p q ext ecc => Sys2Proof.Machine.execHostTload p q ext s ecc
  | .hostTstart p q => Sys2Proof.Machine.execHostTstart p q s
  | .descriptorComplete p q sqIdx => Sys2Proof.Machine.execDescriptorComplete p q sqIdx s
  | .irqHoldoffExpiry p q => Sys2Proof.Machine.execIrqHoldoffExpiry p q s
  | .hbmKeyLoad port phase => Sys2Proof.Machine.execHbmKeyLoad port s phase
  | .jobImport port sealIt blob phase ecc => Sys2Proof.Machine.execJobImport port sealIt blob s phase ecc
  | .memberLoad port blob phase ecc => Sys2Proof.Machine.execMemberLoad port blob s phase ecc
  | .jobClear port phase => Sys2Proof.Machine.execJobClear port s phase
  | .dbgChallenge port phase => Sys2Proof.Machine.execDbgChallenge port s phase
  | .dbgUnlock port blob phase ecc => Sys2Proof.Machine.execDbgUnlock port blob s phase ecc
  | .svnCommit port phase => Sys2Proof.Machine.execSvnCommit port s phase
  | .ownerEnrol port blob phase ecc => Sys2Proof.Machine.execOwnerEnrol port blob s phase ecc
  | .recoveryGo image boot phase => Sys2Proof.Machine.execRecoveryGo image boot s phase
  | .spdmRequest port req => Sys2Proof.Machine.execSpdmRequest port req s
  | .ideCheckFail port selective => Sys2Proof.Machine.execIdeCheckFail port s selective
  | .vordaustFault => Sys2Proof.Machine.execVordaustFault s
  | .faultMessage m => Sys2Proof.Machine.execFaultMessage m s
  | .settleExpiry cls scope => Sys2Proof.Machine.execSettleExpiry cls scope s
  | .fcAck port seq => Sys2Proof.Machine.execFcAck port seq s
  | .faultRingEnable port val => Sys2Proof.Machine.execFaultRingEnable port val s
  | .faultRingHeadWrite port head => Sys2Proof.Machine.execFaultRingHeadWrite port head s
  | .injGo port val => Sys2Proof.Machine.execInjGo port val s
  | .pairFault group idx => Sys2Proof.Machine.execPairFault group idx s
  | .signalPairBroken group idx => Sys2Proof.Machine.execSignalPairBroken group idx s
  | .forwardedPartialReceive p m => Sys2Proof.Machine.execForwardedPartialReceive p m s
  | .forwardedAckReceive p stack row table step partner => Sys2Proof.Machine.execForwardedAckReceive p stack row table step partner s
  | .hotrowFetchReplyReceive p m => Sys2Proof.Machine.execHotrowFetchReplyReceive p m s
  | .epochCloseAckReceive p => Sys2Proof.Machine.execEpochCloseAckReceive p s
  | .d2dLinkFailed l retries => Sys2Proof.Machine.execD2dLinkFailed l s retries
  | .powerOn b => Sys2Proof.Machine.execPowerOn b s
  | .railTimeout ix boot image => Sys2Proof.Machine.execRailTimeout ix s boot image
  | .powerRemoved torn blown => Sys2Proof.Machine.execPowerRemoved s torn blown
  | .capEvaluate p power diePower => Sys2Proof.Machine.execCapEvaluate p power diePower s
  | .thermalEvaluate temps retried => Sys2Proof.Machine.execThermalEvaluate temps s retried
  | .levelMoveDone d => Sys2Proof.Machine.execLevelMoveDone d s
  | .currentLimit d ma => Sys2Proof.Machine.execCurrentLimit d ma s
  | .avsPoll link reads => Sys2Proof.Machine.execAvsPoll link reads s
  | .pwrApply port profile => Sys2Proof.Machine.execPwrApply port profile s
  | .pwrCapWrite port val => Sys2Proof.Machine.execPwrCapWrite port val s
  | .setNode port => Sys2Proof.Machine.execSetNode port s
  | .setSubsys port => Sys2Proof.Machine.execSetSubsys port s
  | .setIdeReq port => Sys2Proof.Machine.execSetIdeReq port s
  | .setPkgCap port => Sys2Proof.Machine.execSetPkgCap port s
  | .csCompact port => Sys2Proof.Machine.execCsCompact port s
  | .csCompactionDone ok erased => Sys2Proof.Machine.execCsCompactionDone ok s erased
  | .csRecordCommit ok => Sys2Proof.Machine.execCsRecordCommit ok s
  | .frzPairAssert equalLevels => Sys2Proof.Machine.execFrzPairAssert equalLevels s
  | .frzPairRelease => Sys2Proof.Machine.execFrzPairRelease s
  | .frzPkgFreeze port => Sys2Proof.Machine.execFrzPkgFreeze port s
  | .frzPkgThaw port => Sys2Proof.Machine.execFrzPkgThaw port s
  | .quiescent p => Sys2Proof.Machine.execQuiescent p s
  | .freezeForced p => Sys2Proof.Machine.execFreezeForced p s
  | .stFreezeResume port => Sys2Proof.Machine.execStFreezeResume port s
  | .dumpStart port hostOk => Sys2Proof.Machine.execDumpStart port hostOk s
  | .dbgWindowAccess port write off val => Sys2Proof.Machine.execDbgWindowAccess port write off val s
  | .accDbgAccess port t write val half => Sys2Proof.Machine.execAccDbgAccess port t write val s half
  | .sideDbgAccess port t write val half => Sys2Proof.Machine.execSideDbgAccess port t write val s half
  | .extest cells => Sys2Proof.Machine.execExtest cells s
  | .idcode => Sys2Proof.Machine.execIdcode s
  | .samplePreload load pins => Sys2Proof.Machine.execSamplePreload load pins s
  | .clamp => Sys2Proof.Machine.execClamp s
  | .bypass tdi => Sys2Proof.Machine.execBypass tdi s
  | .dbgAccessRead => Sys2Proof.Machine.execDbgAccessRead s
  | .dbgAccessWrite data => Sys2Proof.Machine.execDbgAccessWrite data s
  | .dbgAccessAddress addr => Sys2Proof.Machine.execDbgAccessAddress addr s
  | .dbgAuth token => Sys2Proof.Machine.execDbgAuth token s
  | .dbgChal => Sys2Proof.Machine.execDbgChal s
  | .registerWrite a => Sys2Proof.Machine.execRegisterWrite a s
  | .barAccessInvalid port write off size => Sys2Proof.Machine.execBarAccessInvalid port write off size s
  | .hostLinkUp port speed width flit => Sys2Proof.Machine.execHostLinkUp port speed width flit s
  | .storageLinkUp k speed width fmtOk lbas => Sys2Proof.Machine.execStorageLinkUp k speed width fmtOk lbas s
  | .completionTimeout issuer => Sys2Proof.Machine.execCompletionTimeout issuer s
  | .lifeRecordUpdate => Sys2Proof.Machine.execLifeRecordUpdate s

end Sys2Proof.Machine
end

