-- ==== Sys2Proof/Safety.lean ====
section
/-!
DEFINITION. The terms in which claims about the package are stated: what a change leaves alone, when a core or a partition runs, and what
counts as a sound state.
-/

namespace Sys2Proof.Machine

/-! ### Frames -/

/-- Every register field whose bit address is not in `ks` reads in u as in s. -/
def RegsKept (s u : State) (ks : List Nat) : Prop := ∀ d k, k ∉ ks → mapGet d u.regs k = mapGet d s.regs k

/-- Every tile but t holds in u what it holds in s: registers of the core, queues, bindings, tables. -/
def TilesKept (s u : State) (t : Nat) : Prop := ∀ t', t' ≠ t → tile u t' = tile s t'

/-- Everything but register fields is in u as in s, and so is every register field but those of `ks`. -/
def OnlyRegs (s u : State) (ks : List Nat) : Prop := u = { s with regs := u.regs } ∧ RegsKept s u ks

/-- Every register field whose bit address lies outside [lo, hi) and is not in `ks` reads in u as in s. -/
def RegsKeptBut (s u : State) (lo hi : Nat) (ks : List Nat) : Prop :=
  ∀ d k, (k < lo ∨ hi ≤ k) → k ∉ ks → mapGet d u.regs k = mapGet d s.regs k

/-- Every byte of the on-chip memories outside the spans (address, length) of `l` reads in u as in s. -/
def SramKeptBut (s u : State) (l : List (Nat × Nat)) : Prop := ∀ b, (∀ x ∈ l, b < x.1 ∨ x.1 + x.2 ≤ b) → sramGet u b = sramGet s b

/-- Every byte of the on-chip memories outside [a, a + n) reads in u as in s. -/
def SramKept (s u : State) (a n : Nat) : Prop := ∀ b, b < a ∨ a + n ≤ b → sramGet u b = sramGet s b

/-! ### Control cores -/

/-- After this instruction execution goes on in sequence: PC is not the last index, and the next opcode is defined (R168, R170). -/
abbrev FlowsOn (s : State) (t : Nat) : Prop := pcOf s t < 16383 ∧ opcodeDefined (fetchWord s t (pcOf s t + 1) / 2 ^ 26) = true

/-- PC may go to index pc: it is in range and the opcode there is defined (R168, R170). -/
abbrev MayEnter (s : State) (t : Nat) (pc : Int) : Prop :=
  0 ≤ pc ∧ pc ≤ 16383 ∧ opcodeDefined (fetchWord s t pc.toNat / 2 ^ 26) = true

/-- Tile t's core stands at index pc, g`rd` holds v, and nothing else of the package has changed. -/
structure CoreWrote (s u : State) (t : Nat) (rd : BitVec 5) (v : Word) (pc : Nat) : Prop where
  frame  : u = { s with regs := u.regs, tiles := u.tiles }
  regs   : RegsKept s u [fieldKey R.TILE_STATUS_PC 4 t 0]
  tiles  : TilesKept s u t
  others : tile u t = { tile s t with gpr := (tile u t).gpr }
  pcNow  : pcOf u t = pc
  /-- g0 keeps reading 0 (R166). -/
  dest   : getG u t rd = if rd = 0 then 0 else v
  gprs   : ∀ r, r ≠ rd → getG u t r = getG s t r

/-- Tile t's core stands at index pc, and nothing else of the package has changed. -/
def CoreMoved (s u : State) (t pc : Nat) : Prop := OnlyRegs s u [fieldKey R.TILE_STATUS_PC 4 t 0] ∧ pcOf u t = pc

/-- Tile t's core has stopped with a fault of kind k at its instruction: HALTED, HALT_CODE FFH, PC, general registers and memories as
before, and the message on its way (R189, R442). -/
structure CoreStopped (s u : State) (t : Nat) (k : Kind) : Prop where
  frame : u = { s with regs := u.regs, faultQ := u.faultQ }
  regs  : RegsKept s u [fieldKey R.TILE_STATUS_STATE 4 t 0, fieldKey R.TILE_STATUS_HALT_CODE 4 t 0, fieldKey R.TILE_STATUS_FAULT_KIND 4 t 0]
  state : rd u 4 R.TILE_STATUS_STATE t = 0
  code  : rd u 4 R.TILE_STATUS_HALT_CODE t = 0xFF
  kind  : rd u 4 R.TILE_STATUS_FAULT_KIND t = k.code
  sent  : ∃ st, u.faultQ = s.faultQ ++ [⟨mkFault (srcTile t 0) k (partOfTile s t) 0 0, st⟩]

/-! ### Engine queues -/

/-- Queue q of tile t may start its front entry e, whose operation is `opc` and whose header is good (R175, R176, R180, R183). -/
abbrev MayStart (s : State) (t q opc : Nat) (e : QEntry) : Prop :=
  headEntry s t q = some e ∧ opcOf e.cmd = opc ∧ headerRefuse s (partOfTile s t) e.cmd = none

/-- The front entry e of queue q has left the waiting entries and runs as r; every other queue of the tile is as before (R175). -/
structure Started (s u : State) (t q : Nat) (e : QEntry) (r : RunCmd) : Prop where
  front  : (queue s t q).waiting.head? = some e
  queue  : queue u t q = { waiting := (queue s t q).waiting.tail, running := (queue s t q).running ++ [r] }
  others : ∀ q', q' ≠ q → Machine.queue u t q' = Machine.queue s t q'
  cmd    : r.cmd = e.cmd

/-- r has done its work and will complete with OK (R177). -/
def DoneOk (r : RunCmd) : Prop := r.finished = true ∧ r.status = St.OK ∧ r.fault = none

/-- Only tile t has changed among the tiles, and there only its queues. -/
def QueuesOnly (s u : State) (t : Nat) : Prop := TilesKept s u t ∧ tile u t = { tile s t with queues := (tile u t).queues }

/-! ### Sound states -/

/-- The canonical form of the memories. -/
def MemInv (s : State) : Prop := Memory.wf s.sram = true ∧ Memory.wfHbm s.hbm = true

end Sys2Proof.Machine
end

