-- ==== Sys2Proof/WellFormed.lean ====
section
/-!
DEFINITION. Which commands a sender can form: the bounds that the buses and protocols of the spec put on operands that a Lean type leaves
wider. `exec` gives a meaning to the other terms too; what they do stands for nothing in the package.
-/

namespace Sys2Proof

/-- An access of `size` bytes at `off` that lies in a BAR of 64 MiB (spec/14). -/
def wfRange (off size : Nat) : Bool := decide (1 ≤ size) && decide (off + size ≤ 2 ^ 26)

/-- A register write: in the BAR, and its value has no bit above its size (R13). -/
def wfAccess (a : Access) : Bool := wfRange a.off a.size && decide (a.val.toNat < 2 ^ (8 * a.size))

/-- A size of a doorbell write in bytes: a power of two up to eight (R13, R393). -/
def wfSize (size : Nat) : Bool := [1, 2, 4, 8].contains size

/-- A frame carries at most 8,192 bytes of payload: 8,262 bytes in all, 70 of them around the payload (R313). -/
def wfFrame (m : Frame) : Bool := decide (m.body.length ≤ 8192)

/-- A member or takeover certificate blob has 256 bytes (R428). -/
def wfCert (blob : List Byte) : Bool := blob.length == 256

/-- A queue descriptor has 64 bytes (spec/15). -/
def wfDescs (descs : List (List Byte)) : Bool := descs.all (fun d => d.length == 64)

/-- A power sample of each die of a partition, of which there are four at most (R471). -/
def wfDieList (l : List Nat) : Bool := decide (l.length ≤ 4)

/-- The 92 sensors: sixteen each of CD0 to CD3, four of Anise, one of each base die (R473). -/
def wfSensors (l : List Int) : Bool := l.length == 92

/-- A link trains at a data rate from 1 (2.5 GT/s) to 6 (64 GT/s) and at one to `most` lanes: 8 of a host port, 4 of a storage port (R363, R384). -/
def wfLink (most speed width : Nat) : Bool := decide (1 ≤ speed ∧ speed ≤ 6) && [1, 2, 4, 8].contains width && decide (width ≤ most)

/-- The rails of one AVSBus link: three of AVS0 to AVS3, four of AVS4 (R463). -/
def wfRails (link : Fin 5) (l : List RailRead) : Bool := l.length == if link.val = 4 then 4 else 3

/-- A command is one that a sender can form. -/
def Instr.wf (i : Instr) : Bool :=
  match i with
  | .alu _ _ _ _ _
  | .addi _ _ _ _
  | .andi _ _ _ _
  | .ori _ _ _ _
  | .xori _ _ _ _
  | .shi _ _ _ _
  | .lui _ _ _ _
  | .fpu _ _ _ _ _
  | .insi _ _ _ _
  | .ldd _ _ _ _
  | .ldw _ _ _ _
  | .ldws _ _ _ _
  | .ldb _ _ _ _
  | .std _ _ _ _
  | .stw _ _ _ _
  | .stb _ _ _ _
  | .beq _ _ _ _
  | .bne _ _ _ _
  | .blt _ _ _ _
  | .bge _ _ _ _
  | .bltu _ _ _ _
  | .bgeu _ _ _ _
  | .jal _ _
  | .jalr _ _ _ _
  | .push _ _ _ _
  | .qstat _ _ _ _
  | .sig _ _ _ _ _
  | .wait _ _ _ _ _
  | .waitRelease _
  | .vsum _ _ _ _
  | .rdsr _ _ _ _
  | .wrsr _ _ _ _
  | .fence _ _ _ _
  | .fenceRelease _
  | .halt _ _ _ _
  | .tileStart _ _ _
  | .tileStop _ _ _
  | .qreset _ _ _
  | .commandComplete _ _
  | .mma _ _ _
  | .mdrain _ _ _
  | .mtload _ _ _
  | .mbind _ _ _
  | .mslot _ _
  | .vadd _ _
  | .vsub _ _
  | .vmul _ _
  | .vfma _ _
  | .vmin _ _
  | .vmax _ _
  | .vcmp _ _
  | .vsel _ _
  | .vcvt _ _
  | .vred _ _
  | .idxgen _ _
  | .smaxF _ _
  | .smaxB _ _
  | .normF _ _
  | .normB _ _
  | .copy _ _ _
  | .stream _ _
  | .streamChunkStart _
  | .streamChunkLanded _ _ _
  | .dcopy _ _
  | .lookup _ _ _
  | .merge _ _ _
  | .tload _ _ _
  | .tstart _
  | .lookupRequestReceive _ _ _
  | .forwardedRequestReceive _ _ _
  | .lookupReplyReceive _ _
  | .lookupComplete _
  | .lookupTimeout _
  | .install _ _ _
  | .seal _ _ _
  | .abort _ _ _
  | .free _ _ _
  | .activate _ _ _
  | .versionRetire _ _ _
  | .clovePassDone _ _ _
  | .contributionReceive _ _ _
  | .contributionAckReceive _ _
  | .withdrawalReceive _ _
  | .mergeComplete _
  | .mergeTimeout _
  | .forwardedContributionReceive _ _ _
  | .applyStepFinished _
  | .migrate _ _
  | .migrationCopyStart _ _ _ _
  | .migrationCopyReceive _ _ _
  | .migrationCopyAck _ _ _ _ _
  | .loadSnapshot _ _
  | .readinessReportSend _
  | .readinessReportReceive _ _
  | .stMasterAdvance _ _
  | .beaconReceive _ _ _
  | .beaconTimeout _
  | .hotrowFetchReadReceive _ _ _
  | .hotrowFetchDone _ _ _
  | .hotrowSwap _
  | .migrationRetire _
  | .epochClose _ _
  | .normPassDone _
  | .sdLocalPartial _
  | .sdSubtreeSend _
  | .sdPartialReceive _ _
  | .sdResultReceive _ _
  | .normTimeout _
  | .voteSet _
  | .weightWriteRelease _
  | .incrementApply _
  | .remoteIncrementReceive _ _
  | .syncHostSig _ _
  | .syncTimeout _ _ _
  | .tgStart _ _
  | .tgStop _ _
  | .tgDone _ _ _
  | .portEnable _ _
  | .portDisable _ _
  | .retrain _ _
  | .linkTrained _ _
  | .linkTrainTimeout _
  | .linkDown _ _
  | .helloReceive _ _ _
  | .helloRepeat _ _
  | .ka1 _ _ _
  | .ka2 _ _ _
  | .ka3 _ _ _
  | .ka4 _ _
  | .handshakeTimeout _ _
  | .peerEntryWrite _ _ _ _
  | .nakReceive _ _ _
  | .ackReceive _ _ _
  | .replayTimeout _ _
  | .nodeUnreachable _ _
  | .faultBeaconSend _
  | .faultBeaconReceive _ _ _ _
  | .collTrigger _ _ _
  | .collSegmentReceive _ _
  | .collDone _ _
  | .collTimeout _ _
  | .rsHold _
  | .rewind _
  | .reload _
  | .assume _
  | .restore _ _ _ _
  | .seed _ _ _
  | .watchModeWrite _ _ _
  | .copyReceive _ _
  | .seedingDone _ _
  | .lapseNoticeReceive _ _
  | .journalFormat _
  | .journalEnable _ _ _
  | .journalCompact _ _
  | .compactionDone _
  | .journalSealDone _
  | .journalIo _
  | .exportStart _
  | .importExport _ _ _ _
  | .linkLoss _
  | .d3hotEntry _
  | .flr _
  | .bmeClear _
  | .mseClear _
  | .scrubDone _
  | .preset _ _
  | .partitionResetDone _
  | .resume _
  | .modeVote _ _ _
  | .flushReadDone _ _ _ _ _
  | .lpEnable _ _ _
  | .storageLinkDown _
  | .nvmeCompletion _ _
  | .descriptorReread _ _ _
  | .nop _ _
  | .input _ _ _ _
  | .output _ _ _
  | .queueWait _ _
  | .queueWaitTimeout _ _
  | .hostTload _ _ _ _
  | .hostTstart _ _
  | .descriptorComplete _ _ _
  | .irqHoldoffExpiry _ _
  | .hbmKeyLoad _ _
  | .jobImport _ _ _ _ _
  | .jobClear _ _
  | .dbgChallenge _ _
  | .dbgUnlock _ _ _ _
  | .svnCommit _ _
  | .ownerEnrol _ _ _ _
  | .recoveryGo _ _ _
  | .spdmRequest _ _
  | .ideCheckFail _ _
  | .vordaustFault
  | .settleExpiry _ _
  | .fcAck _ _
  | .faultRingEnable _ _
  | .faultRingHeadWrite _ _
  | .injGo _ _
  | .pairFault _ _
  | .signalPairBroken _ _
  | .d2dLinkFailed _ _
  | .powerOn _
  | .railTimeout _ _ _
  | .powerRemoved _ _
  | .levelMoveDone _
  | .currentLimit _ _
  | .pwrApply _ _
  | .pwrCapWrite _ _
  | .setNode _
  | .setSubsys _
  | .setIdeReq _
  | .setPkgCap _
  | .csCompact _
  | .csCompactionDone _ _
  | .csRecordCommit _
  | .frzPairAssert _
  | .frzPairRelease
  | .frzPkgFreeze _
  | .frzPkgThaw _
  | .quiescent _
  | .freezeForced _
  | .stFreezeResume _
  | .dumpStart _ _
  | .accDbgAccess _ _ _ _ _
  | .sideDbgAccess _ _ _ _ _
  | .extest _
  | .idcode
  | .samplePreload _ _
  | .clamp
  | .bypass _
  | .dbgAccessRead
  | .dbgAccessWrite _
  | .dbgAccessAddress _
  | .dbgAuth _
  | .dbgChal
  | .forwardedPartialReceive _ _
  | .forwardedAckReceive _ _ _ _ _ _
  | .hotrowFetchReplyReceive _ _
  | .epochCloseAckReceive _
  | .completionTimeout _
  | .lifeRecordUpdate => true
  | .stEnableWrite a
  | .stNowWrite a
  | .eventArm a
  | .eventDisarm a
  | .counterWrite _ a
  | .collArm a _
  | .collDisarm a
  | .windowWrite a
  | .queueEnable a
  | .queueDisable a
  | .queueOwnerWrite a
  | .registerWrite a => wfAccess a
  | .frameReceive _ _ m _
  | .transitFrame _ m => wfFrame m
  | .takeoverReceive _ _ _ cert
  | .verify _ cert _ => wfCert cert
  | .sqDb _ _ size _
  | .cqDb _ _ size _ => wfSize size
  | .descriptorFetchReturn _ _ descs => wfDescs descs
  | .memberLoad _ blob _ _ => wfCert blob
  | .capEvaluate _ _ diePower => wfDieList diePower
  | .thermalEvaluate temps retried => wfSensors temps && decide (retried.length ≤ 8)
  | .faultMessage m => m.part.isSome || m.cls == 0 || m.cls == 3
  | .avsPoll link reads => wfRails link reads
  | .dbgWindowAccess _ _ off _ => wfRange off 8
  | .barAccessInvalid _ _ off size => wfRange off size
  | .hostLinkUp _ speed width _ => wfLink 8 speed width
  | .storageLinkUp _ speed width _ _ => wfLink 4 speed width

end Sys2Proof
end

