-- ==== Sys2Proof/Certificates/Slice0/Obligations.lean ====
section
/-!
DEFINITION. The statements for the provers. Each says what its docstring says, over all states that meet its premises.
-/

namespace Sys2Proof.Claims

end Sys2Proof.Claims

open Sys2Proof Sys2Proof.Machine Sys2Proof.Claims

namespace Sys2Proof.Claims

/-- The result of ALU by funct, in the arithmetic of naturals and integers (R171, R172). -/
def aluValue (f : Nat) (a b v : Word) : Prop :=
  match f with
  | 0x0 => v.toNat = (a.toNat + b.toNat) % 2 ^ 64
  | 0x1 => v.toNat = (2 ^ 64 + a.toNat - b.toNat) % 2 ^ 64
  | 0x2 => ∀ i, v.getLsbD i = (a.getLsbD i && b.getLsbD i)
  | 0x3 => ∀ i, v.getLsbD i = (a.getLsbD i || b.getLsbD i)
  | 0x4 => ∀ i, v.getLsbD i = (a.getLsbD i != b.getLsbD i)
  | 0x5 => v.toNat = a.toNat * 2 ^ (b.toNat % 64) % 2 ^ 64
  | 0x6 => v.toNat = a.toNat / 2 ^ (b.toNat % 64)
  | 0x7 => v.toInt = a.toInt / 2 ^ (b.toNat % 64)
  | 0x8 => v.toNat = a.toNat * b.toNat % 2 ^ 64
  | 0x9 => v.toNat = a.toNat * b.toNat / 2 ^ 64
  | 0xA => v.toNat = if b.toNat = 0 then 2 ^ 64 - 1 else a.toNat / b.toNat
  | 0xB => v.toNat = if b.toNat = 0 then a.toNat else a.toNat % b.toNat
  | 0xC => v.toNat = if a.toInt < b.toInt then 1 else 0
  | 0xD => v.toNat = if a.toNat < b.toNat then 1 else 0
  | 0xE => v.toInt = min a.toInt b.toInt
  | _ => v.toInt = max a.toInt b.toInt

/-- An FP32 pattern is a NaN (R62). -/
abbrev nanBits (a : Half) : Prop := a.toNat / 2 ^ 23 % 256 = 255 ∧ a.toNat % 2 ^ 23 ≠ 0

/-- The result of FPU by funct: bits [31:0] hold the result of the FP32 operation, bits [63:32] are 0 (R166, R171, R172). -/
def fpuValue (f : Nat) (a b : Half) (v : Word) : Prop :=
  match f with
  | 0x0 => v.toNat = (fAdd a b).toNat
  | 0x1 => v.toNat = (fSub a b).toNat
  | 0x2 => v.toNat = (fMul a b).toNat
  | 0x3 => v.toNat = (fDiv a b).toNat
  | 0x4 => v.toNat = (fSqrt a).toNat
  | 0x5 => v.toNat = (fMin a b).toNat
  | 0x6 => v.toNat = (fMax a b).toNat
  | 0x7 => v.toNat = if fEq a b then 1 else 0
  | 0x8 => v.toNat = if fLt a b then 1 else 0
  | 0x9 => v.toNat = if fLe a b then 1 else 0
  | 0xA => v.toNat = (fCvtSW a).toNat
  | 0xB => v.toInt = (fCvtWS a).toInt
  | 0xC => (nanBits a → v.toNat = 0x7FC00000) ∧ (¬ nanBits a → v.toNat = a.toNat % 2 ^ 31)
  | _ => (nanBits a → v.toNat = 0x7FC00000) ∧ (¬ nanBits a → v.toNat = (a.toNat + 2 ^ 31) % 2 ^ 32)

/-- From s, command c answers a state in which tile t's g`rd` holds v, its PC is pc, and all else is as before. -/
def Writes (c : Instr) (s : State) (t : Nat) (rd : BitVec 5) (v : Word) (pc : Nat) : Prop :=
  ∃ u, exec c s = .next u ∧ CoreWrote s u t rd v pc

/-- From s, command c stops tile t's core with a fault of kind k. -/
def Stops (c : Instr) (s : State) (t : Nat) (k : Kind) : Prop := ∃ u, exec c s = .next u ∧ CoreStopped s u t k

/-- From s, command c moves tile t's PC to pc and changes nothing else. -/
def Moves (c : Instr) (s : State) (t pc : Nat) : Prop := ∃ u, exec c s = .next u ∧ CoreMoved s u t pc

/-- A conditional branch: on `taken` to a legal target, PC + off; on a target out of range, a stop with PC_RANGE; else on in sequence. -/
def Branches (c : Instr) (s : State) (t : Nat) (off : BitVec 16) (taken : Prop) : Prop :=
  (taken → MayEnter s t (pcOf s t + off.toInt) → Moves c s t (pcOf s t + off.toInt).toNat)
    ∧ (taken → (pcOf s t + off.toInt < 0 ∨ 16383 < pcOf s t + off.toInt) → Stops c s t K.PC_RANGE)
    ∧ (¬ taken → FlowsOn s t → Moves c s t (pcOf s t + 1))

/-- The control-core address of a load or store: rs1 + the sign-extended immediate, modulo 2^64 (R168, R170). -/
def coreAddr (s : State) (t : Nat) (rs1 : BitVec 5) (imm : BitVec 16) : Nat :=
  (((getG s t rs1).toNat + imm.toInt) % (2 ^ 64 : Int)).toNat

/-- A load of n bytes by c: the bytes at the address, through `f`; or DMEM_RANGE when it is out of range or not aligned. -/
def Loads (c : Instr) (s : State) (t : Nat) (rd rs1 : BitVec 5) (imm : BitVec 16) (n : Nat) (f : Nat → Int) : Prop :=
  (coreAddr s t rs1 imm < 65536 → coreAddr s t rs1 imm % n = 0 → FlowsOn s t →
      Writes c s t rd (BitVec.ofInt 64 (f (leNat (sramRead s (dmemKey t (coreAddr s t rs1 imm)) n)))) (pcOf s t + 1))
    ∧ ((65536 ≤ coreAddr s t rs1 imm ∨ coreAddr s t rs1 imm % n ≠ 0) → Stops c s t K.DMEM_RANGE)

/-- A store of n bytes by c: the low n bytes of rs2 at the address and no other byte; or DMEM_RANGE. -/
def Stores (c : Instr) (s : State) (t : Nat) (rs2 rs1 : BitVec 5) (imm : BitVec 16) (n : Nat) : Prop :=
  (coreAddr s t rs1 imm < 65536 → coreAddr s t rs1 imm % n = 0 → FlowsOn s t →
      ∃ u, exec c s = .next u ∧ u = { s with regs := u.regs, sram := u.sram }
        ∧ RegsKept s u [fieldKey R.TILE_STATUS_PC 4 t 0] ∧ pcOf u t = pcOf s t + 1
        ∧ SramKept s u (dmemKey t (coreAddr s t rs1 imm)) n
        ∧ ∀ i, i < n → sramGet u (dmemKey t (coreAddr s t rs1 imm) + i) = (getG s t rs2).extractLsb' (8 * i) 8)
    ∧ ((65536 ≤ coreAddr s t rs1 imm ∨ coreAddr s t rs1 imm % n ≠ 0) → Stops c s t K.DMEM_RANGE)

end Sys2Proof.Claims

/-- For every tile whose core stands at an ALU with a defined funct and a defined next instruction, execution answers a next state: rd holds
the result of the table in integer arithmetic (g0 keeps reading 0), PC is one further, and nothing else changes. (R166, R171, R172, R170) -/
def Obligations.alu_results : Prop :=
  ∀ (t : Tile) (rd rs1 rs2 : BitVec 5) (funct : BitVec 11) (s : State),
    coreAt s t (encR 0x01 rd rs1 rs2 funct) = true → funct.toNat ≤ 0xF → FlowsOn s t →
    ∃ v, aluValue funct.toNat (getG s t rs1) (getG s t rs2) v ∧ Writes (.alu t rd rs1 rs2 funct) s t rd v (pcOf s t + 1)

/-- For every tile that stands at one of them in a legal form with a defined next instruction, rd takes the result of the opcode table, PC
moves on by one, and nothing else changes. (R166, R169, R170) -/
def Obligations.immediate_results : Prop :=
  ∀ (t : Tile) (rd rs1 : BitVec 5) (imm : BitVec 16) (s : State), FlowsOn s t →
    (coreAt s t (encI 0x02 rd rs1 imm) = true →
      Writes (.addi t rd rs1 imm) s t rd (BitVec.ofInt 64 ((getG s t rs1).toInt + imm.toInt)) (pcOf s t + 1))
    ∧ (coreAt s t (encI 0x03 rd rs1 imm) = true →
      Writes (.andi t rd rs1 imm) s t rd (getG s t rs1 &&& BitVec.ofNat 64 imm.toNat) (pcOf s t + 1))
    ∧ (coreAt s t (encI 0x04 rd rs1 imm) = true →
      Writes (.ori t rd rs1 imm) s t rd (getG s t rs1 ||| BitVec.ofNat 64 imm.toNat) (pcOf s t + 1))
    ∧ (coreAt s t (encI 0x05 rd rs1 imm) = true →
      Writes (.xori t rd rs1 imm) s t rd (getG s t rs1 ^^^ BitVec.ofNat 64 imm.toNat) (pcOf s t + 1))
    ∧ (coreAt s t (encI 0x06 rd rs1 imm) = true → imm.toNat < 192 →
      ∃ v : Word, (imm.toNat < 64 → v.toNat = (getG s t rs1).toNat * 2 ^ imm.toNat % 2 ^ 64)
        ∧ (64 ≤ imm.toNat → imm.toNat < 128 → v.toNat = (getG s t rs1).toNat / 2 ^ (imm.toNat - 64))
        ∧ (128 ≤ imm.toNat → v.toInt = (getG s t rs1).toInt / 2 ^ (imm.toNat - 128))
        ∧ Writes (.shi t rd rs1 imm) s t rd v (pcOf s t + 1))
    ∧ (coreAt s t (encI 0x07 rd rs1 imm) = true → rs1 = 0 →
      Writes (.lui t rd rs1 imm) s t rd (BitVec.ofInt 64 (imm.toInt * 65536)) (pcOf s t + 1))
    ∧ (coreAt s t (encI 0x09 rd rs1 imm) = true →
      Writes (.insi t rd rs1 imm) s t rd (BitVec.ofNat 64 ((getG s t rs1).toNat * 65536 + imm.toNat)) (pcOf s t + 1))

/-- For every tile that stands at a legal FPU instruction, rd takes the FP32 result of its funct (FABS and FNEG of a NaN give the canonical
NaN, FCVTWS is sign-extended), PC moves on, and nothing else changes. (R166, R171, R172) -/
def Obligations.fpu_results : Prop :=
  ∀ (t : Tile) (rd rs1 rs2 : BitVec 5) (funct : BitVec 11) (s : State),
    coreAt s t (encR 0x08 rd rs1 rs2 funct) = true → funct.toNat ≤ 0xD → (funct.toNat = 4 → rs2 = 0) → FlowsOn s t →
    ∃ v, fpuValue funct.toNat ((getG s t rs1).setWidth 32) ((getG s t rs2).setWidth 32) v
      ∧ Writes (.fpu t rd rs1 rs2 funct) s t rd v (pcOf s t + 1)

/-- QSTAT returns FILL, DEPTH, QSTATE, PRESENT, BUSY, LAST_STATUS and DONE in their bits; VSUM the named field of a slot; RDSR SR_TILE,
SR_STNOW, or for SR_CYCLE what it last read plus a free amount (the model counts no cycles, log 7). PC moves on and nothing else changes
but, for SR_CYCLE, what it last read and the counter of free values. (R170, R174, R181) -/
def Obligations.status_reads : Prop :=
  ∀ (t : Tile) (rd : BitVec 5) (imm : BitVec 16) (s : State), FlowsOn s t →
    (coreAt s t (encI 0x21 rd 0 imm) = true → imm.toNat ≤ 4 →
      Writes (.qstat t rd 0 imm) s t rd
        (BitVec.ofNat 64 ((queue s t imm.toNat).waiting.length + queueDepth s t imm.toNat * 2 ^ 8
          + Machine.rd s 4 R.ENGQ_STATUS_QSTATE t imm.toNat * 2 ^ 16
          + (if enginePresent s t (if imm.toNat = 4 then 0 else imm.toNat) then 2 ^ 18 else 0)
          + (if (queue s t imm.toNat).running = [] then 0 else 2 ^ 19)
          + Machine.rd s 4 R.ENGQ_STATUS_LAST_STATUS t imm.toNat * 2 ^ 24 + Machine.rd s 4 R.ENGQ_STATUS_DONE t imm.toNat * 2 ^ 32))
        (pcOf s t + 1))
    ∧ (∀ (rs1 : BitVec 5) (k f : Nat), k < 8 → f < 4 → imm.toNat = 16 * f + k → coreAt s t (encI 0x24 rd rs1 imm) = true →
      Writes (.vsum t rd rs1 imm) s t rd (BitVec.ofNat 64
        (Machine.rd s 4 (if f = 0 then R.VX_SUM_SUM else if f = 1 then R.VX_MAX_MAX else if f = 2 then R.VX_MIN_MIN else R.VX_NONFIN_NONFIN) t k))
        (pcOf s t + 1))
    ∧ (∀ rs1 : BitVec 5, coreAt s t (encI 0x25 rd rs1 imm) = true →
      (imm.toNat % 4096 = 0 → Writes (.rdsr t rd rs1 imm) s t rd
          (BitVec.ofNat 64 (t.val + t.val / 8 * 2 ^ 8 + t.val / 64 * 2 ^ 13 + partOfTile s t * 2 ^ 16)) (pcOf s t + 1))
      ∧ (imm.toNat % 4096 = 2 → Writes (.rdsr t rd rs1 imm) s t rd (BitVec.ofNat 64 (stNow s (partOfTile s t))) (pcOf s t + 1))
      ∧ (imm.toNat % 4096 = 1 → ∀ n : Nat, n = (tile s t).cycle + freshNat s →
          ∃ u, exec (.rdsr t rd rs1 imm) s = .next u
            ∧ CoreWrote (tickFree (setTile s t { tile s t with cycle := n })) u t rd (BitVec.ofNat 64 n) (pcOf s t + 1)))

/-- LDD, LDW, LDWS and LDB: at an address with a bit of 63 to 16 set, or not aligned to the size, the core stops on the instruction with
DMEM_RANGE and no register is written; else rd takes the little-endian bytes of data memory, extended as the opcode table says. The clause
on branches of the same rule is branch_results and jump_results. (R168) -/
def Obligations.load_results : Prop :=
  ∀ (t : Tile) (rd rs1 : BitVec 5) (imm : BitVec 16) (s : State),
    (coreAt s t (encI 0x10 rd rs1 imm) = true → Loads (.ldd t rd rs1 imm) s t rd rs1 imm 8 (fun x => x))
    ∧ (coreAt s t (encI 0x11 rd rs1 imm) = true → Loads (.ldw t rd rs1 imm) s t rd rs1 imm 4 (fun x => x))
    ∧ (coreAt s t (encI 0x12 rd rs1 imm) = true →
        Loads (.ldws t rd rs1 imm) s t rd rs1 imm 4 (fun x => if x < 2 ^ 31 then x else (x : Int) - 2 ^ 32))
    ∧ (coreAt s t (encI 0x13 rd rs1 imm) = true → Loads (.ldb t rd rs1 imm) s t rd rs1 imm 1 (fun x => x))

/-- STD, STW and STB store the low bytes of rs2 at rs1 + imm in the data memory of the tile, in a state whose on-chip memory is in its
canonical form (memory_form_kept); every other byte and every register keeps its value; a bad address stops the core with DMEM_RANGE and
stores nothing. (R167, R168, R170) -/
def Obligations.store_results : Prop :=
  ∀ (t : Tile) (rs2 rs1 : BitVec 5) (imm : BitVec 16) (s : State), Memory.wf s.sram = true →
    (coreAt s t (encI 0x14 rs2 rs1 imm) = true → Stores (.std t rs2 rs1 imm) s t rs2 rs1 imm 8)
    ∧ (coreAt s t (encI 0x15 rs2 rs1 imm) = true → Stores (.stw t rs2 rs1 imm) s t rs2 rs1 imm 4)
    ∧ (coreAt s t (encI 0x16 rs2 rs1 imm) = true → Stores (.stb t rs2 rs1 imm) s t rs2 rs1 imm 1)

/-- A taken branch with a target in range moves PC to its own index plus the offset; one with a target outside 0 to 16,383 has no effect and
stops with PC_RANGE; one not taken moves on by one. Nothing else changes. (R168, R169, R170) -/
def Obligations.branch_results : Prop :=
  ∀ (t : Tile) (rs1 rs2 : BitVec 5) (off : BitVec 16) (s : State),
    (coreAt s t (encI 0x18 rs1 rs2 off) = true → Branches (.beq t rs1 rs2 off) s t off (getG s t rs1 = getG s t rs2))
    ∧ (coreAt s t (encI 0x19 rs1 rs2 off) = true → Branches (.bne t rs1 rs2 off) s t off (getG s t rs1 ≠ getG s t rs2))
    ∧ (coreAt s t (encI 0x1A rs1 rs2 off) = true →
        Branches (.blt t rs1 rs2 off) s t off ((getG s t rs1).toInt < (getG s t rs2).toInt))
    ∧ (coreAt s t (encI 0x1B rs1 rs2 off) = true →
        Branches (.bge t rs1 rs2 off) s t off ((getG s t rs2).toInt ≤ (getG s t rs1).toInt))
    ∧ (coreAt s t (encI 0x1C rs1 rs2 off) = true →
        Branches (.bltu t rs1 rs2 off) s t off ((getG s t rs1).toNat < (getG s t rs2).toNat))
    ∧ (coreAt s t (encI 0x1D rs1 rs2 off) = true →
        Branches (.bgeu t rs1 rs2 off) s t off ((getG s t rs2).toNat ≤ (getG s t rs1).toNat))

/-- JAL writes g31 and goes to PC + offset; JALR writes rd and goes to rs1 + imm modulo 2^64; when the target lies outside 0 to 16,383 no
register is written and the core stops with PC_RANGE. (R166, R168, R170) -/
def Obligations.jump_results : Prop :=
  ∀ (t : Tile) (s : State),
    (∀ off : BitVec 26, coreAt s t (encJ 0x1E off) = true →
      (MayEnter s t (pcOf s t + off.toInt) →
        Writes (.jal t off) s t 31 (BitVec.ofNat 64 (pcOf s t + 1)) (pcOf s t + off.toInt).toNat)
      ∧ ((pcOf s t + off.toInt < 0 ∨ 16383 < pcOf s t + off.toInt) → Stops (.jal t off) s t K.PC_RANGE))
    ∧ (∀ (rd rs1 : BitVec 5) (imm : BitVec 16), coreAt s t (encI 0x1F rd rs1 imm) = true →
      (MayEnter s t (coreAddr s t rs1 imm) →
        Writes (.jalr t rd rs1 imm) s t rd (BitVec.ofNat 64 (pcOf s t + 1)) (coreAddr s t rs1 imm))
      ∧ (16383 < coreAddr s t rs1 imm → Stops (.jalr t rd rs1 imm) s t K.PC_RANGE))

namespace Sys2Proof.Claims

/-- A counter value has reached a target: (int32)(value - target) is not negative (R260). -/
abbrev hasReached (value target : Nat) : Prop := (value + 2 ^ 32 - target % 2 ^ 32) % 2 ^ 32 < 2 ^ 31

/-- A queue has settled for FENCE: it is empty and idle, or STALLED, or its engine is absent (R186). -/
abbrev settled (s : State) (t q : Nat) : Prop :=
  ((queue s t q).waiting = [] ∧ (queue s t q).running = []) ∨ rd s 4 R.ENGQ_STATUS_QSTATE t q = 1
    ∨ enginePresent s t (if q = 4 then 0 else q) = false

/-- A core that goes on behind its WAIT or FENCE: the stall is over, PC is one further, and nothing else has changed. -/
def GoesOn (s u : State) (t : Nat) : Prop :=
  u = { s with regs := u.regs, tiles := u.tiles } ∧ RegsKept s u [fieldKey R.TILE_STATUS_PC 4 t 0] ∧ pcOf u t = pcOf s t + 1
    ∧ TilesKept s u t ∧ tile u t = { tile s t with stall := none }

/-- Queues of a mask are reset: those of present engines have no waiting entry and are ACTIVE, or RESET while a command still runs; what
runs goes on, and the other queues are as before (R185). -/
def QueuesReset (s u : State) (t mask : Nat) : Prop :=
  ∀ q, q < 5 →
    (mask.testBit q = true → enginePresent s t (if q = 4 then 0 else q) = true →
      queue u t q = { queue s t q with waiting := [] }
        ∧ rd u 4 R.ENGQ_STATUS_QSTATE t q = if (queue s t q).running = [] then 0 else 2)
    ∧ ((mask.testBit q = false ∨ enginePresent s t (if q = 4 then 0 else q) = false) →
      queue u t q = queue s t q ∧ rd u 4 R.ENGQ_STATUS_QSTATE t q = rd s 4 R.ENGQ_STATUS_QSTATE t q)

/-- What a reset of queues touches besides them: with the DMA queue the tile's places in the lines of loads and merges go (R128, R185, R191). -/
def ResetFrame (s u : State) (t mask : Nat) : Prop :=
  (∀ t', ∃ q l, tile u t' = { tile s t' with queues := q, loadWaits := l } ∧ (t' ≠ t → q = (tile s t').queues)
      ∧ l = if mask.testBit 3 = true ∧ enginePresent s t 3 = true then (tile s t').loadWaits.filter (fun x => x != srcTile t 4)
          else (tile s t').loadWaits)
    ∧ (¬ (mask.testBit 3 = true ∧ enginePresent s t 3 = true) → u.cloveWait = s.cloveWait)
    ∧ ∀ c, mapGet [] u.cloveWait c = if mask.testBit 3 = true ∧ enginePresent s t 3 = true then (mapGet [] s.cloveWait c).filter (fun x => x != t)
        else mapGet [] s.cloveWait c

/-- The QSTATE fields of a tile's queues. -/
def qstateKeys (t : Nat) : List Nat := (List.range 5).map (fun q => fieldKey R.ENGQ_STATUS_QSTATE 4 t q)

end Sys2Proof.Claims

/-- A legal PUSH to an ACTIVE queue with room appends one entry, whose byte 8j + b is byte b of g(4k + j), with the step of the die, and
moves on; to a full one it discards the command, raises QUEUE_OVERRUN and stalls the queue, and the core goes on; for an absent engine only
LAST_STATUS changes; to a STALLED or RESET queue nothing but PC changes. (R175, R182, R188) -/
def Obligations.push_results : Prop :=
  ∀ (t : Tile) (q k : BitVec 3) (s : State),
    coreAt s t (encE 0x20 q k 0) = true → q.toNat ≤ 4 → k ≠ 0 → FlowsOn s t →
    (enginePresent s t (if q.toNat = 4 then 0 else q.toNat) = true → Machine.rd s 4 R.ENGQ_STATUS_QSTATE t q.toNat = 0 →
      (queue s t q.toNat).waiting.length < queueDepth s t q.toNat →
      ∃ u, ∃ c : Cmd, exec (.push t q k 0) s = .next u
        ∧ (∀ j b, j < 4 → b < 8 →
            c.extractLsb' (8 * (8 * j + b)) 8 = (getG s t (BitVec.ofNat 5 (4 * k.toNat + j))).extractLsb' (8 * b) 8)
        ∧ queue u t q.toNat = { queue s t q.toNat with
            waiting := (queue s t q.toNat).waiting ++ [⟨c, Machine.rd s (partOfTile s t) R.ST_NOW_STEP⟩] }
        ∧ (∀ q', q' ≠ q.toNat → queue u t q' = queue s t q') ∧ QueuesOnly s u t
        ∧ u = { s with regs := u.regs, tiles := u.tiles } ∧ RegsKept s u [fieldKey R.TILE_STATUS_PC 4 t 0] ∧ pcOf u t = pcOf s t + 1)
    ∧ (enginePresent s t (if q.toNat = 4 then 0 else q.toNat) = true → Machine.rd s 4 R.ENGQ_STATUS_QSTATE t q.toNat = 0 →
      queueDepth s t q.toNat ≤ (queue s t q.toNat).waiting.length →
      ∃ u st, exec (.push t q k 0) s = .next u
        ∧ u = { s with regs := u.regs, faultQ := s.faultQ ++ [⟨mkFault (srcTile t (q.toNat + 1)) K.QUEUE_OVERRUN (partOfTile s t) 0 0, st⟩] }
        ∧ RegsKept s u [fieldKey R.TILE_STATUS_PC 4 t 0, fieldKey R.ENGQ_STATUS_QSTATE 4 t q.toNat]
        ∧ pcOf u t = pcOf s t + 1 ∧ Machine.rd u 4 R.ENGQ_STATUS_QSTATE t q.toNat = 1)
    ∧ (enginePresent s t (if q.toNat = 4 then 0 else q.toNat) = false →
      ∃ u, exec (.push t q k 0) s = .next u
        ∧ OnlyRegs s u [fieldKey R.TILE_STATUS_PC 4 t 0, fieldKey R.ENGQ_STATUS_LAST_STATUS 4 t q.toNat]
        ∧ pcOf u t = pcOf s t + 1 ∧ Machine.rd u 4 R.ENGQ_STATUS_LAST_STATUS t q.toNat = 0x02)
    ∧ (enginePresent s t (if q.toNat = 4 then 0 else q.toNat) = true → Machine.rd s 4 R.ENGQ_STATUS_QSTATE t q.toNat ≠ 0 →
      Moves (.push t q k 0) s t (pcOf s t + 1))

/-- SIG of a counter of the package with an increment from 1 to 2^31 - 1 issues it from the tile; WRSR of SR_QRESET resets the queues of its
mask, and with the DMA queue gives up the loads and merges it waits for; HALT sets HALT_CODE to its immediate, PC to the index after it
modulo 16,384 and the tile to HALTED. Nothing else changes. (R170, R174, R185, R189, R256) -/
def Obligations.sig_wrsr_halt_results : Prop :=
  ∀ (t : Tile) (s : State),
    (∀ (rs1 rs2 : BitVec 5) (c : CtrRef), coreAt s t (encR 0x22 0 rs1 rs2 0) = true → FlowsOn s t →
      (getG s t rs1).toNat < 2 ^ 32 → resolveName s (partOfTile s t) ((getG s t rs1).setWidth 32) = .ctr c →
      0 < (getG s t rs2).toNat % 2 ^ 32 → (getG s t rs2).toNat % 2 ^ 32 < 2 ^ 31 →
      ∃ u, exec (.sig t 0 rs1 rs2 0) s = .next u
        ∧ u = { s with regs := u.regs, incs := s.incs ++ [⟨c, srcTile t 0, (getG s t rs2).setWidth 32⟩] }
        ∧ RegsKept s u [fieldKey R.TILE_STATUS_PC 4 t 0] ∧ pcOf u t = pcOf s t + 1)
    ∧ (∀ (rs1 : BitVec 5) (imm : BitVec 16), coreAt s t (encI 0x26 0 rs1 imm) = true → imm.toNat % 4096 = 3 → FlowsOn s t →
      ∃ u, exec (.wrsr t 0 rs1 imm) s = .next u ∧ QueuesReset s u t (getG s t rs1).toNat
        ∧ ResetFrame s u t (getG s t rs1).toNat ∧ u = { s with regs := u.regs, tiles := u.tiles, cloveWait := u.cloveWait }
        ∧ RegsKept s u (fieldKey R.TILE_STATUS_PC 4 t 0 :: qstateKeys t) ∧ pcOf u t = pcOf s t + 1)
    ∧ (∀ (rd rs1 : BitVec 5) (imm : BitVec 16), coreAt s t (encI 0x28 rd rs1 imm) = true →
      ∃ u, exec (.halt t rd rs1 imm) s = .next u
        ∧ OnlyRegs s u [fieldKey R.TILE_STATUS_PC 4 t 0, fieldKey R.TILE_STATUS_STATE 4 t 0, fieldKey R.TILE_STATUS_HALT_CODE 4 t 0]
        ∧ pcOf u t = (pcOf s t + 1) % 16384 ∧ Machine.rd u 4 R.TILE_STATUS_STATE t = 0
        ∧ Machine.rd u 4 R.TILE_STATUS_HALT_CODE t = imm.toNat % 256)

/-- WAIT of a counter that has reached its target, and FENCE of queues that have settled, move on; otherwise the core stalls with PC on the
instruction and nothing else changes; WAIT_RELEASE and FENCE_RELEASE move a stalled RUNNING core on once the condition holds in a running
partition. (R170, R186, R260) -/
def Obligations.wait_fence_results : Prop :=
  ∀ (t : Tile) (s : State),
    (∀ (rs1 rs2 : BitVec 5) (c : CtrRef), coreAt s t (encR 0x23 0 rs1 rs2 0) = true →
      (getG s t rs1).toNat < 2 ^ 32 → resolveName s (partOfTile s t) ((getG s t rs1).setWidth 32) = .ctr c → ctrVal s c < 2 ^ 32 →
      (hasReached (ctrVal s c) (getG s t rs2).toNat → FlowsOn s t → Moves (.wait t 0 rs1 rs2 0) s t (pcOf s t + 1))
      ∧ (¬ hasReached (ctrVal s c) (getG s t rs2).toNat →
        exec (.wait t 0 rs1 rs2 0) s =
          .next (setTile s t { tile s t with stall := some (.wait ((getG s t rs1).setWidth 32) ((getG s t rs2).setWidth 32)) })))
    ∧ (∀ (rd rs1 : BitVec 5) (imm : BitVec 16), coreAt s t (encI 0x27 rd rs1 imm) = true →
      ((∀ q, q < 5 → imm.getLsbD q = true → settled s t q) → FlowsOn s t → Moves (.fence t rd rs1 imm) s t (pcOf s t + 1))
      ∧ (¬ (∀ q, q < 5 → imm.getLsbD q = true → settled s t q) →
        exec (.fence t rd rs1 imm) s = .next (setTile s t { tile s t with stall := some (.fence (imm.setWidth 5)) })))
    ∧ (∀ (name target : Half) (c : CtrRef), (tile s t).stall = some (.wait name target) →
      resolveName s (partOfTile s t) name = .ctr c → ctrVal s c < 2 ^ 32 → hasReached (ctrVal s c) target.toNat →
      running s (partOfTile s t) = true → tileState s t = 1 → FlowsOn s t → ∃ u, exec (.waitRelease t) s = .next u ∧ GoesOn s u t)
    ∧ (∀ mask : BitVec 5, (tile s t).stall = some (.fence mask) → (∀ q, q < 5 → mask.getLsbD q = true → settled s t q) →
      running s (partOfTile s t) = true → tileState s t = 1 → FlowsOn s t → ∃ u, exec (.fenceRelease t) s = .next u ∧ GoesOn s u t)

/-- ALU with a funct above 0xF, FPU with one above 0xD or FSQRT with rs2, SHI with a reserved selector, LUI with rs1, PUSH with a reserved
field, q or k, SIG and WAIT with rd or funct, and an instruction whose successor has a reserved opcode: the tile goes to HALTED with
ILLEGAL_INSTR, PC on that instruction. (R170) -/
def Obligations.illegal_forms_stop : Prop :=
  ∀ (t : Tile) (rd rs1 rs2 : BitVec 5) (funct : BitVec 11) (imm : BitVec 16) (q k : BitVec 3) (rsvd : BitVec 20) (s : State),
    (coreAt s t (encR 0x01 rd rs1 rs2 funct) = true → 0xF < funct.toNat → Stops (.alu t rd rs1 rs2 funct) s t K.ILLEGAL_INSTR)
    ∧ (coreAt s t (encR 0x08 rd rs1 rs2 funct) = true → (0xD < funct.toNat ∨ (funct.toNat = 4 ∧ rs2 ≠ 0)) →
        Stops (.fpu t rd rs1 rs2 funct) s t K.ILLEGAL_INSTR)
    ∧ (coreAt s t (encI 0x06 rd rs1 imm) = true → 192 ≤ imm.toNat → Stops (.shi t rd rs1 imm) s t K.ILLEGAL_INSTR)
    ∧ (coreAt s t (encI 0x07 rd rs1 imm) = true → rs1 ≠ 0 → Stops (.lui t rd rs1 imm) s t K.ILLEGAL_INSTR)
    ∧ (coreAt s t (encE 0x20 q k rsvd) = true → (4 < q.toNat ∨ k = 0 ∨ rsvd ≠ 0) → Stops (.push t q k rsvd) s t K.ILLEGAL_INSTR)
    ∧ (coreAt s t (encI 0x21 rd rs1 imm) = true → (rs1 ≠ 0 ∨ 4 < imm.toNat) → Stops (.qstat t rd rs1 imm) s t K.ILLEGAL_INSTR)
    ∧ (coreAt s t (encR 0x22 rd rs1 rs2 funct) = true → (rd ≠ 0 ∨ funct ≠ 0) → Stops (.sig t rd rs1 rs2 funct) s t K.ILLEGAL_INSTR)
    ∧ (coreAt s t (encR 0x23 rd rs1 rs2 funct) = true → (rd ≠ 0 ∨ funct ≠ 0) → Stops (.wait t rd rs1 rs2 funct) s t K.ILLEGAL_INSTR)
    ∧ (coreAt s t (encI 0x24 rd rs1 imm) = true → (64 ≤ imm.toNat ∨ imm.getLsbD 3 = true) → Stops (.vsum t rd rs1 imm) s t K.ILLEGAL_INSTR)
    ∧ (coreAt s t (encI 0x25 rd rs1 imm) = true → 2 < imm.toNat % 4096 → Stops (.rdsr t rd rs1 imm) s t K.ILLEGAL_INSTR)
    ∧ (coreAt s t (encI 0x26 rd rs1 imm) = true → (rd ≠ 0 ∨ imm.toNat % 4096 ≠ 3) → Stops (.wrsr t rd rs1 imm) s t K.ILLEGAL_INSTR)
    ∧ (coreAt s t (encI 0x02 rd rs1 imm) = true → pcOf s t < 16383 →
        opcodeDefined (fetchWord s t (pcOf s t + 1) / 2 ^ 26) = false →
        ∃ u v, exec (.addi t rd rs1 imm) s = .next u
          ∧ CoreWrote s v t rd (BitVec.ofInt 64 ((getG s t rs1).toInt + imm.toInt)) (pcOf s t + 1) ∧ CoreStopped v u t K.ILLEGAL_INSTR)

/-- Written by a port that reaches the tile: START of a HALTED tile of a READY partition that is not being loaded writes START_PC and PC,
clears FAULT_KIND and SR_CYCLE and makes it RUNNING; during a load it is held; of a RUNNING tile, or in a partition that is not READY, it is
discarded; STOP sets HALT_CODE FEH and HALTED and abandons a WAIT or FENCE; QRESET resets the queues of its mask. (R185, R189, R192) -/
def Obligations.tile_control_results : Prop :=
  ∀ (port : HPort) (t : Tile) (s : State), tileAccess s port t = true →
    (∀ val : Half, val.getLsbD 0 = true → val.getLsbD 1 = false →
      (tileState s t = 0 → isReady s (partOfTile s t) = true → rd s 4 R.TILE_STATUS_LOADING t = 0 →
        opcodeDefined (fetchWord s t (val.toNat / 2 ^ 16 % 2 ^ 14) / 2 ^ 26) = true →
        ∃ u, exec (.tileStart port t val) s = .next u ∧ u = { s with regs := u.regs, tiles := u.tiles } ∧ TilesKept s u t
          ∧ tile u t = { tile s t with cycle := 0, stall := none }
          ∧ RegsKept s u [fieldKey R.TILE_CTRL_START_PC 4 t 0, fieldKey R.TILE_STATUS_FAULT_KIND 4 t 0, fieldKey R.TILE_STATUS_STATE 4 t 0,
              fieldKey R.TILE_STATUS_PC 4 t 0]
          ∧ rd u 4 R.TILE_CTRL_START_PC t = val.toNat / 2 ^ 16 % 2 ^ 14 ∧ pcOf u t = val.toNat / 2 ^ 16 % 2 ^ 14
          ∧ rd u 4 R.TILE_STATUS_FAULT_KIND t = 0 ∧ rd u 4 R.TILE_STATUS_STATE t = 1)
      ∧ (tileState s t = 0 → isReady s (partOfTile s t) = true → rd s 4 R.TILE_STATUS_LOADING t = 1 →
        exec (.tileStart port t val) s = .next (setTile s t { tile s t with heldStart := some (val.toNat / 2 ^ 16 % 2 ^ 14) }))
      ∧ ((tileState s t = 1 ∨ isReady s (partOfTile s t) = false) → exec (.tileStart port t val) s = .next s))
    ∧ (∀ val : Half, val.getLsbD 0 = false → val.getLsbD 1 = true → tileState s t = 1 →
      ∃ u, exec (.tileStop port t val) s = .next u ∧ u = { s with regs := u.regs, tiles := u.tiles }
        ∧ TilesKept s u t ∧ tile u t = { tile s t with stall := none }
        ∧ RegsKept s u [fieldKey R.TILE_CTRL_START_PC 4 t 0, fieldKey R.TILE_STATUS_HALT_CODE 4 t 0, fieldKey R.TILE_STATUS_STATE 4 t 0]
        ∧ rd u 4 R.TILE_STATUS_HALT_CODE t = 0xFE ∧ rd u 4 R.TILE_STATUS_STATE t = 0)
    ∧ (∀ mask : BitVec 5, ∃ u, exec (.qreset port t mask) s = .next u ∧ QueuesReset s u t mask.toNat ∧ ResetFrame s u t mask.toNat
        ∧ u = { s with regs := u.regs, tiles := u.tiles, cloveWait := u.cloveWait } ∧ RegsKept s u (qstateKeys t))

namespace Sys2Proof.Claims

/-- Bit addresses of the register window of tile t (R192). -/
def winLo (t : Nat) : Nat := 4 * 2 ^ 40 + 8 * (0x800000 + t * 0x1000)
def winHi (t : Nat) : Nat := winLo t + 8 * 0x1000

/-- A matrix command may start from its queue: its front entry is good, its unit and slots are free, and the choice of R209 falls on it. -/
abbrev MxMayStart (s : State) (t : Nat) (deferred : Bool) (opc : Nat) (e : QEntry) : Prop :=
  MayStart s t (if deferred then 4 else 0) opc e ∧ mxStartable s t e.cmd = true
    ∧ (mxHeadReady s t 0 = true → mxHeadReady s t 4 = true → mxPickDeferred s t = deferred)

/-- The queue part of a completion: r, the oldest started command of queue q, is gone, DONE counts it, LAST_STATUS shows its status (R177, R181). -/
def Completed (s u : State) (t q : Nat) (r : RunCmd) (rest : List RunCmd) : Prop :=
  queue u t q = { queue s t q with running := rest } ∧ (∀ q', q' ≠ q → queue u t q' = queue s t q')
    ∧ rd u 4 R.ENGQ_STATUS_DONE t q = (rd s 4 R.ENGQ_STATUS_DONE t q + 1) % 2 ^ 32
    ∧ rd u 4 R.ENGQ_STATUS_LAST_STATUS t q = r.status % 256

/-- A command that completed with OK and whose header signal names a counter of a node without a route (R322). -/
def signalUnrouted (s : State) (t : Nat) (r : RunCmd) : Bool :=
  r.status == St.OK && sigEn r.cmd && (match resolveName s (partOfTile s t) (BitVec.ofNat 32 (cbs r.cmd 4 4)) with
    | .remote nd _ => !hasRoute s (partOfTile s t) nd
    | _ => false)

/-- The three registers of a queue that a completion may write. -/
def doneKeys (t q : Nat) : List Nat :=
  [fieldKey R.ENGQ_STATUS_DONE 4 t q, fieldKey R.ENGQ_STATUS_LAST_STATUS 4 t q, fieldKey R.ENGQ_STATUS_QSTATE 4 t q]

/-- An on-chip span of an `undef` list. -/
def onChip (l : List (Bool × Nat × Nat)) : List (Nat × Nat) := l.map (fun x => (x.2.1, x.2.2))

end Sys2Proof.Claims

/-- Every finished oldest command in a partition whose clocks run, with no acknowledgement outstanding, completes: DONE counts it modulo
2^32 and LAST_STATUS shows its status (NO_ROUTE where its header signal has no route), also where its fault of class F2 then puts the
partition into HOLD. With status OK an enabled signal to a counter of the package is issued once, with its increment; with a fault of class
F1 an ACTIVE queue goes to STALLED and the fault is raised, with no signal; a queue in RESET returns to ACTIVE with its last command. A
summary takes its slot, and a load ends, with the completion. A matrix command ends with its slots as its kind says: an MDRAIN with FREE
leaves them FREE; an MMA whose operands are as they were at its start leaves memory as it is. A COPY to another node waits for the
acknowledgements. (R170, R177, R181, R183, R185) -/
def Obligations.completion_results : Prop :=
  ∀ (t : Tile) (q : Fin 5) (s : State) (r : RunCmd) (rest : List RunCmd), (queue s t q).running = r :: rest → r.finished = true →
    clocked s (partOfTile s t) = true → r.acks = 0 →
    ((∀ f, r.fault = some f → f.cls < 2) →
      ∃ u, exec (.commandComplete t q) s = .next u ∧ queue u t q = { queue s t q with running := rest }
        ∧ (∀ q', q' ≠ q → queue u t q' = queue s t q') ∧ rd u 4 R.ENGQ_STATUS_DONE t q = (rd s 4 R.ENGQ_STATUS_DONE t q + 1) % 2 ^ 32
        ∧ rd u 4 R.ENGQ_STATUS_LAST_STATUS t q = if signalUnrouted s t r then St.NO_ROUTE else r.status % 256)
    ∧ (∀ f : CmdFault, r.fault = some f → f.cls = 2 → r.status ≠ St.OK →
      ∃ u, exec (.commandComplete t q) s = .next u ∧ rd u 4 R.ENGQ_STATUS_DONE t q = (rd s 4 R.ENGQ_STATUS_DONE t q + 1) % 2 ^ 32
        ∧ rd u 4 R.ENGQ_STATUS_LAST_STATUS t q = r.status % 256
        ∧ (isReady s (partOfTile s t) = true → isHold u (partOfTile s t) = true))
    ∧ (r.status = St.OK → r.fault = none → r.summary = none → r.loading = none → sigEn r.cmd = false →
      (q.val = 1 ∨ q.val = 2 ∨ q.val = 3 ∨ (opcOf r.cmd ≠ 1 ∧ opcOf r.cmd ≠ 2)) →
      ∃ u, exec (.commandComplete t q) s = .next u ∧ Completed s u t q r rest ∧ QueuesOnly s u t
        ∧ u = { s with regs := u.regs, tiles := u.tiles } ∧ RegsKept s u (doneKeys t q)
        ∧ rd u 4 R.ENGQ_STATUS_QSTATE t q
            = if rd s 4 R.ENGQ_STATUS_QSTATE t q = 2 ∧ rest = [] then 0 else rd s 4 R.ENGQ_STATUS_QSTATE t q)
    ∧ (∀ c : CtrRef, r.status = St.OK → r.fault = none → r.summary = none → r.loading = none → sigEn r.cmd = true →
      (q.val = 1 ∨ q.val = 2 ∨ q.val = 3 ∨ (opcOf r.cmd ≠ 1 ∧ opcOf r.cmd ≠ 2)) →
      resolveName s (partOfTile s t) (BitVec.ofNat 32 (cbs r.cmd 4 4)) = .ctr c →
      ∃ u, exec (.commandComplete t q) s = .next u ∧ Completed s u t q r rest ∧ QueuesOnly s u t
        ∧ u = { s with regs := u.regs, tiles := u.tiles, incs := s.incs ++ [⟨c, srcTile t (q + 1), BitVec.ofNat 32 (cbs r.cmd 2 2)⟩] }
        ∧ RegsKept s u (doneKeys t q))
    ∧ (∀ f : CmdFault, r.fault = some f → f.cls = 1 → f.kind ≠ K.HOST_DMA_ERROR.code → r.status ≠ St.OK → r.summary = none →
      r.loading = none →
      ∃ u st, exec (.commandComplete t q) s = .next u ∧ Completed s u t q r rest ∧ QueuesOnly s u t
        ∧ u = { s with regs := u.regs, tiles := u.tiles
                       faultQ := s.faultQ ++ [⟨mkFault (srcTile t (q + 1)) ⟨f.kind, 1⟩ (partOfTile s t) f.addr r.status, st⟩] }
        ∧ RegsKept s u (doneKeys t q)
        ∧ rd u 4 R.ENGQ_STATUS_QSTATE t q = if rd s 4 R.ENGQ_STATUS_QSTATE t q = 2 ∧ rest = [] then 0
            else if rd s 4 R.ENGQ_STATUS_QSTATE t q = 0 then 1 else rd s 4 R.ENGQ_STATUS_QSTATE t q)
    ∧ ((q.val = 0 ∨ q.val = 4) → (opcOf r.cmd = 1 ∨ opcOf r.cmd = 2) → r.status = St.OK → r.fault = none → r.summary = none →
      r.loading = none → sigEn r.cmd = false →
      ∃ u, exec (.commandComplete t q) s = .next u ∧ Completed s u t q r rest ∧ QueuesOnly s u t
        ∧ u = { s with regs := u.regs, tiles := u.tiles, sram := u.sram, freeCtr := u.freeCtr }
        ∧ (opcOf r.cmd = 1 → RegsKept s u (doneKeys t q) ∧ (mmaCodes s t (mmaOf r.cmd) = r.codes → u.sram = s.sram))
        ∧ (opcOf r.cmd = 2 → u.sram = s.sram ∧ (∀ k, k < 32 → slotRec u t k
            = if cbit r.cmd 20 25 = true ∧ (k = cbits r.cmd 16 20 5 ∨ (k = cbits r.cmd 16 20 5 + 1 ∧ (slotRec s t (cbits r.cmd 16 20 5)).fp16 = false))
              then ⟨0, false, 0, 0⟩ else slotRec s t k)))
    ∧ (∀ (k : Nat) (a b c d : Half), k < 8 → r.status = St.OK → r.fault = none → r.summary = some (k, [a, b, c, d]) → r.loading = none →
      cbit r.cmd 10 6 = false → sigEn r.cmd = false →
      ∃ u, exec (.commandComplete t q) s = .next u ∧ Completed s u t q r rest
        ∧ rd u 4 R.VX_SUM_SUM t k = a.toNat ∧ rd u 4 R.VX_MAX_MAX t k = b.toNat ∧ rd u 4 R.VX_MIN_MIN t k = c.toNat
        ∧ rd u 4 R.VX_NONFIN_NONFIN t k = d.toNat)
    ∧ (∀ v : Tile, r.status = St.OK → r.fault = none → r.summary = none → r.loading = some v.val → sigEn r.cmd = false →
      (tile s v).heldStart = none →
      ∃ u, exec (.commandComplete t q) s = .next u ∧ Completed s u t q r rest ∧ rd u 4 R.TILE_STATUS_LOADING v = 0
        ∧ QueuesOnly s u t ∧ RegsKept s u (fieldKey R.TILE_STATUS_LOADING 4 v 0 :: doneKeys t q))

/-- For the vector, row and DMA queues, under any ECC event: the front entry leaves the queue as a started command with status BAD_DESC and
a fault of kind BAD_DESC, class F1; memory, registers and every other queue keep their values. Matrix queues follow the same rule through
the same operation. (R180) -/
def Obligations.refused_commands : Prop :=
  ∀ (t : Tile) (s : State) (e : QEntry) (c : Instr) (q opc top : Nat) (ext : List Byte) (ecc : Ecc),
    (c, q, opc, top) ∈ [(Instr.vadd t ecc, 1, 1, 11), (.vsub t ecc, 1, 2, 11), (.vmul t ecc, 1, 3, 11), (.vfma t ecc, 1, 4, 11),
      (.vmin t ecc, 1, 5, 11), (.vmax t ecc, 1, 6, 11), (.vcmp t ecc, 1, 7, 11), (.vsel t ecc, 1, 8, 11), (.vcvt t ecc, 1, 9, 11),
      (.vred t ecc, 1, 10, 11), (.idxgen t ecc, 1, 11, 11), (.smaxF t ecc, 2, 1, 4), (.smaxB t ecc, 2, 2, 4), (.normF t ecc, 2, 3, 4),
      (.normB t ecc, 2, 4, 4), (.copy t ext ecc, 3, 1, 7), (.stream t ecc, 3, 2, 7), (.dcopy t ecc, 3, 3, 7), (.tload t ext ecc, 3, 6, 7),
      (.tstart t, 3, 7, 7)] →
    headEntry s t q = some e →
    (opcOf e.cmd = 0 ∨ top < opcOf e.cmd
      ∨ (opcOf e.cmd = opc ∧ (cb e.cmd 1 / 2 ≠ 0 ∨ (cb e.cmd 1 % 2 = 1 ∧ cbs e.cmd 2 2 = 0)))) →
    ∃ u r, exec c s = .next u ∧ Started s u t q e r ∧ r.status = St.BAD_DESC ∧ r.fault = some ⟨K.BAD_DESC.code, 1, 0⟩ ∧ r.finished = true
      ∧ QueuesOnly s u t ∧ u = { s with tiles := u.tiles }

/-- A good MMA from either queue starts; element (i, j) within the valid rows and columns becomes the accumulation of its products in
ascending k, one rounding each, from 0 under INIT or else from its old value; the other elements of the slot become 0 under INIT or keep
their value; INIT records state, format, shape and offset sum in each slot of the tile, and frees the other half of an FP32 tile that an
FP16 one replaces; nothing else of memory or of the registers changes but DEF_POS. (R194, R196, R197, R198, R203, R205) -/
def Obligations.mma_results : Prop :=
  ∀ (t : Tile) (deferred : Bool) (s : State) (e : QEntry), Memory.wf s.sram = true → MxMayStart s t deferred 1 e →
    mmaBad s t deferred (mmaOf e.cmd) = false → mmaSlotBad s t deferred (mmaOf e.cmd) = false →
    ∃ u r, exec (.mma t deferred .none) s = .next u ∧ Started s u t (if deferred then 4 else 0) e r ∧ DoneOk r ∧ QueuesOnly s u t
      ∧ u = { s with regs := u.regs, tiles := u.tiles, sram := u.sram }
      ∧ RegsKeptBut s u (fieldKey R.MX_SLOT_INFO_STATE 4 t 0) (fieldKey R.MX_SLOT_INFO_STATE 4 t 32) [fieldKey R.MX_STATUS_DEF_POS 4 t 0]
      ∧ SramKept s u (accKey t (8192 * (mmaOf e.cmd).acc)) ((if (mmaOf e.cmd).accFp16 then 2 else 4) * 4096)
      ∧ (∀ i j, i < shapeM (mmaOf e.cmd).shape → j < shapeN (mmaOf e.cmd).shape →
          sramRead u (accElemKey t (mmaOf e.cmd).acc (mmaOf e.cmd).accFp16 (shapeN (mmaOf e.cmd).shape) i j) (if (mmaOf e.cmd).accFp16 then 2 else 4)
            = if i < (mmaOf e.cmd).a.valid ∧ j < (mmaOf e.cmd).b.valid then
                leBytes (if (mmaOf e.cmd).accFp16 then 2 else 4) (mmaElem (tile s t) (mmaOf e.cmd) (mmaCodes s t (mmaOf e.cmd)) (mmaOf e.cmd).k i j
                  (if (mmaOf e.cmd).init then 0 else
                    leNat (sramRead s (accElemKey t (mmaOf e.cmd).acc (mmaOf e.cmd).accFp16 (shapeN (mmaOf e.cmd).shape) i j)
                      (if (mmaOf e.cmd).accFp16 then 2 else 4))))
              else if (mmaOf e.cmd).init then List.replicate (if (mmaOf e.cmd).accFp16 then 2 else 4) 0
              else sramRead s (accElemKey t (mmaOf e.cmd).acc (mmaOf e.cmd).accFp16 (shapeN (mmaOf e.cmd).shape) i j)
                (if (mmaOf e.cmd).accFp16 then 2 else 4))
      ∧ ((mmaOf e.cmd).init = true → ∀ k, k < 32 → slotRec u t k
          = if k = (mmaOf e.cmd).acc ∨ (k = (mmaOf e.cmd).acc + 1 ∧ (mmaOf e.cmd).accFp16 = false) then
              ⟨if (mmaOf e.cmd).hold then 2 else 1, (mmaOf e.cmd).accFp16, (mmaOf e.cmd).shape, toBits 10 (mmaOffset s t (mmaOf e.cmd))⟩
            else if k = (mmaOf e.cmd).acc + 1 ∧ (slotRec s t (mmaOf e.cmd).acc).state ≠ 0 ∧ (slotRec s t (mmaOf e.cmd).acc).fp16 = false then
              ⟨0, false, 0, 0⟩
            else slotRec s t k)
      ∧ ((mmaOf e.cmd).init = false → ∀ k, slotRec u t k = slotRec s t k)

/-- A good MDRAIN starts; where its rows can all be written it has written them (one row to a scratchpad: every element scaled and
converted), and its slots are as before until it completes; MTLOAD leaves its slices in the resident region and touches no other byte; MBIND
of a good codebook object makes its binding valid with that format, offset and identity and rounded entries and its product table valid
exactly when both bindings of the index are valid CB4, of a bad one leaves it invalid; MSLOT frees or makes LIVE the slots it names and no
other. (R201, R202, R206, R212, R213, R215, R218) -/
def Obligations.matrix_path_results : Prop :=
  ∀ (t : Tile) (deferred : Bool) (s : State) (e : QEntry),
    (MxMayStart s t deferred 2 e → drainBad s t (drainOf e.cmd) = false →
      (∀ i, i < (drainOf e.cmd).m →
        checkDev s (partOfTile s t) ((drainOf e.cmd).dst + i * (drainOf e.cmd).stride) (outSize (drainOf e.cmd).ofmt * (drainOf e.cmd).n) true = none
        ∧ devTgBusy s (devSpace s (partOfTile s t) ((drainOf e.cmd).dst + i * (drainOf e.cmd).stride))
            (outSize (drainOf e.cmd).ofmt * (drainOf e.cmd).n) = false) →
      slotBad s t (drainOf e.cmd).acc (!(slotRec s t (drainOf e.cmd).acc).fp16) deferred = false → (slotRec s t (drainOf e.cmd).acc).state ≠ 0 →
      ∃ u r, exec (.mdrain t deferred .none) s = .next u ∧ Started s u t (if deferred then 4 else 0) e r ∧ r.finished = true ∧ QueuesOnly s u t
        ∧ u = { s with regs := u.regs, tiles := u.tiles, sram := u.sram, hbm := u.hbm, freeCtr := u.freeCtr }
        ∧ RegsKept s u [fieldKey R.MX_STATUS_DEF_POS 4 t 0]
        ∧ (∀ v : State, drainRows s t (partOfTile s t) (drainOf e.cmd) (List.range (drainOf e.cmd).m) s = (v, none) →
            DoneOk r ∧ u.sram = v.sram ∧ u.hbm = v.hbm)
        ∧ (∀ (v : State) (x : Refuse), drainRows s t (partOfTile s t) (drainOf e.cmd) (List.range (drainOf e.cmd).m) s = (v, some x) →
            r.status = x.status ∧ r.fault = x.fault))
    ∧ (∀ x o : Nat, Memory.wf s.sram = true → MxMayStart s t deferred 2 e → drainBad s t (drainOf e.cmd) = false → (drainOf e.cmd).m = 1 →
      (drainOf e.cmd).addIn = false → devSpace s (partOfTile s t) (drainOf e.cmd).dst = .sp x o →
      checkDev s (partOfTile s t) (drainOf e.cmd).dst (outSize (drainOf e.cmd).ofmt * (drainOf e.cmd).n) true = none →
      slotBad s t (drainOf e.cmd).acc (!(slotRec s t (drainOf e.cmd).acc).fp16) deferred = false → (slotRec s t (drainOf e.cmd).acc).state ≠ 0 →
      ∃ u r, exec (.mdrain t deferred .none) s = .next u ∧ Started s u t (if deferred then 4 else 0) e r ∧ DoneOk r ∧ QueuesOnly s u t
        ∧ u = { s with regs := u.regs, tiles := u.tiles, sram := u.sram } ∧ RegsKept s u [fieldKey R.MX_STATUS_DEF_POS 4 t 0]
        ∧ SramKept s u (spKey x o) (outSize (drainOf e.cmd).ofmt * (drainOf e.cmd).n)
        ∧ ∀ j, j < (drainOf e.cmd).n → sramRead u (spKey x o + outSize (drainOf e.cmd).ofmt * j) (outSize (drainOf e.cmd).ofmt)
            = leBytes (outSize (drainOf e.cmd).ofmt) (drainElem s t (drainOf e.cmd) 0 0 j))
    ∧ (Memory.wf s.sram = true → MxMayStart s t deferred 3 e → mtloadBad (mtloadOf e.cmd) = false →
      ∃ u r, exec (.mtload t deferred .none) s = .next u ∧ Started s u t (if deferred then 4 else 0) e r ∧ DoneOk r ∧ QueuesOnly s u t
        ∧ u = { s with regs := u.regs, tiles := u.tiles, sram := u.sram } ∧ RegsKept s u [fieldKey R.MX_STATUS_DEF_POS 4 t 0]
        ∧ SramKept s u (resKey t (mtloadOf e.cmd).off) (mtloadLen (mtloadOf e.cmd))
        ∧ sramRead u (resKey t (mtloadOf e.cmd).off) (mtloadLen (mtloadOf e.cmd))
            = mtloadBytes s t (mtloadOf e.cmd).o (mtloadOf e.cmd).sideB (elemBits (mtloadOf e.cmd).fmt) (mtloadOf e.cmd).k)
    ∧ (MxMayStart s t deferred 4 e → cbits e.cmd 8 19 13 = 0 → cbs e.cmd 12 20 = 0 →
      ∀ a cnt : Nat, a = 64 * cbits e.cmd 8 0 16 → cnt = leNat (sramRead s (spKey t (a + 2)) 2) → a + 16 + 2 * cnt ≤ 2 ^ 22 →
      ∃ u r, exec (.mbind t deferred .none) s = .next u ∧ Started s u t (if deferred then 4 else 0) e r ∧ TilesKept s u t
        ∧ u = { s with regs := u.regs, tiles := u.tiles } ∧ RegsKeptBut s u (winLo t) (winHi t) []
        ∧ (∀ fmt id entries, checkCodebook (sramRead s (spKey t a) (16 + 2 * cnt)) = .ok (fmt, id, entries) →
            DoneOk r ∧ cbValid u t (cbits e.cmd 8 16 1) (cbits e.cmd 8 17 2) = true
              ∧ cbFmt u t (cbits e.cmd 8 16 1) (cbits e.cmd 8 17 2) = fmt
              ∧ rd u 4 (if cbits e.cmd 8 16 1 = 0 then R.MX_CB_A_X else R.MX_CB_B_X) t (cbits e.cmd 8 17 2) = toBits 9 (k12Offset entries)
              ∧ rd u 4 (if cbits e.cmd 8 16 1 = 0 then R.MX_CB_A_CB_ID else R.MX_CB_B_CB_ID) t (cbits e.cmd 8 17 2) = id
              ∧ (ptValid u t (cbits e.cmd 8 17 2) = true ↔ ∀ side, side < 2 →
                  cbValid u t side (cbits e.cmd 8 17 2) = true ∧ cbFmt u t side (cbits e.cmd 8 17 2) = 4)
              ∧ mapGet [] (tile u t).k12 (4 * cbits e.cmd 8 16 1 + cbits e.cmd 8 17 2) = entries.map (k12Of (k12Offset entries)))
        ∧ (∀ f, checkCodebook (sramRead s (spKey t a) (16 + 2 * cnt)) = .error f →
            r.status = f.status ∧ r.fault = f.fault ∧ cbValid u t (cbits e.cmd 8 16 1) (cbits e.cmd 8 17 2) = false))
    ∧ (MxMayStart s t deferred 5 e → cb e.cmd 8 ≤ 31 → 0 < cb e.cmd 9 → cb e.cmd 8 + cb e.cmd 9 ≤ 32 → (cb e.cmd 10 = 1 ∨ cb e.cmd 10 = 2) →
      cbs e.cmd 11 21 = 0 → mslotBad s t deferred (cb e.cmd 8) (cb e.cmd 9) (cb e.cmd 10) = false →
      ∃ u r, exec (.mslot t deferred) s = .next u ∧ Started s u t (if deferred then 4 else 0) e r ∧ DoneOk r ∧ QueuesOnly s u t
        ∧ u = { s with regs := u.regs, tiles := u.tiles }
        ∧ RegsKeptBut s u (fieldKey R.MX_SLOT_INFO_STATE 4 t 0) (fieldKey R.MX_SLOT_INFO_STATE 4 t 32) [fieldKey R.MX_STATUS_DEF_POS 4 t 0]
        ∧ ∀ k, k < 32 → if cb e.cmd 8 ≤ k ∧ k < cb e.cmd 8 + cb e.cmd 9 then
              (if cb e.cmd 10 = 1 then slotRec u t k = ⟨0, false, 0, 0⟩ else slotRec u t k = { slotRec s t k with state := 1 })
            else slotRec u t k = slotRec s t k)

namespace Sys2Proof.Claims

/-- Tile t's DMA queue is in no line of loads any more; its own queues apart, the tiles are otherwise as before (R191). -/
def LeftLines (s u : State) (t : Nat) : Prop :=
  ∀ t', ∃ q, tile u t' = { tile s t' with queues := q, loadWaits := (tile s t').loadWaits.filter (fun x => x != srcTile t 4) }
    ∧ (t' ≠ t → q = (tile s t').queues)

end Sys2Proof.Claims

/-- A good vector command that reads no accumulator slot of a running MMA, whose codebooks verify and whose weight gate is open starts with
status OK; on-chip memory outside its output rows and scale tensor keeps its value, and so does all else but the queue and the counter of
free values; for one row of plain FP32 output without overlap, element c is the operation on the elements c of its inputs, and VRED writes
the reduction of the row. A weight write that waits for the decision of its step runs when the step is decided to apply, and ends with
STEP_SKIPPED, writing nothing, when it is skipped. (R224, R227, R229, R230, R231, R232, R143, R308, R252) -/
def Obligations.vector_results : Prop :=
  (∀ (t : Tile) (s : State) (e : QEntry) (c : Instr) (opc : Nat) (ob : List Byte) (v : VecCmd) (b0 b1 b2 bo : List (BitVec 16)),
    (c, opc) ∈ [(Instr.vadd t .none, 1), (.vsub t .none, 2), (.vmul t .none, 3), (.vfma t .none, 4), (.vmin t .none, 5), (.vmax t .none, 6),
      (.vcmp t .none, 7), (.vsel t .none, 8), (.vcvt t .none, 9), (.vred t .none, 10)] →
    MayStart s t 1 opc e → operandBlock s t e.cmd = some ob → v = vecOf e.cmd ob → accAbsent s t ob = false → vecBad v = false →
    slotInUse s t v = false →
    (v.sr = true → weightGate s t (vecStep v e.step) = .run) →
    strmBook s t v.in0 = .ok b0 → strmBook s t v.in1 = .ok b1 → strmBook s t v.in2 = .ok b2 → strmBook s t v.out0 = .ok bo →
    ∃ u r, exec c s = .next u ∧ Started s u t 1 e r ∧ DoneOk r ∧ QueuesOnly s u t
      ∧ u = { s with tiles := u.tiles, sram := u.sram, freeCtr := u.freeCtr }
      ∧ SramKeptBut s u (onChip (outUndef t v.rows v.cols [(v.out0, fmtBits v.out0.fmt)]))
      ∧ r.summary.isSome = v.sumEn
      ∧ (Memory.wf s.sram = true → v.rows = 1 → v.out0.fmt = 0 → v.out0.scaled = false →
          overlapIn t 1 v.cols (vecOuts v) (([v.in0, v.in1, v.in2].filter (fun x => x.en)).map (fun x => (x, fmtBits x.fmt))) = [] →
          (opc ≠ 10 → ∀ k, k < v.cols →
            sramRead u (spaceKey t v.out0.space + v.out0.off + 4 * k) 4
              = leBytes 4 (cvtF fp32 fp32 (vecElem opc v.sub (inElem s t v.in0 b0 0 0 k) (if v.in1.en then inElem s t v.in1 b1 v.imm0 0 k else 0)
                  (if v.in2.en then inElem s t v.in2 b2 v.imm1 0 k else 0)).toNat))
          ∧ (opc = 10 → sramRead u (spaceKey t v.out0.space + v.out0.off) 4
              = leBytes 4 (cvtF fp32 fp32 (vredRow v.sub (inRow s t v.in0 b0 0 0 v.cols)
                  (if v.in1.en then inRow s t v.in1 b1 v.imm0 0 v.cols else [])).toNat))))
    ∧ (∀ (t : Tile) (s : State) (l : List RunCmd) (r : RunCmd) (v : VecCmd), running s (partOfTile s t) = true →
    (queue s t 1).running = l ++ [r] → v = vecOf r.cmd r.keep → v.sr = true → r.waitStep = some (vecStep v r.step) →
    slotInUse s t v = false →
    (weightGate s t (vecStep v r.step) = .skipped →
      ∃ u x, exec (.weightWriteRelease t) s = .next u ∧ queue u t 1 = { queue s t 1 with running := l ++ [x] } ∧ x.cmd = r.cmd
        ∧ x.finished = true ∧ x.status = St.STEP_SKIPPED ∧ x.fault = none ∧ QueuesOnly s u t ∧ u = { s with tiles := u.tiles })
    ∧ (∀ b0 b1 b2 bo, weightGate s t (vecStep v r.step) = .run →
      strmBook s t v.in0 = .ok b0 → strmBook s t v.in1 = .ok b1 → strmBook s t v.in2 = .ok b2 → strmBook s t v.out0 = .ok bo →
      ∃ u x, exec (.weightWriteRelease t) s = .next u ∧ queue u t 1 = { queue s t 1 with running := l ++ [x] } ∧ x.cmd = r.cmd ∧ DoneOk x
        ∧ QueuesOnly s u t ∧ u = { s with tiles := u.tiles, sram := u.sram, freeCtr := u.freeCtr }
        ∧ SramKeptBut s u (onChip (outUndef t v.rows v.cols [(v.out0, fmtBits v.out0.fmt)]))))

/-- A good row command starts with status OK and changes only the bytes of its enabled output streams, their scale tensors and its
statistics records; without overlap memory is what its rows, done in turn, leave. IDXGEN over row IDs below 2^40 starts with OK and changes
only its output entries, which without overlap are those of its elements in turn. (R235, R239, R241, R242, R244, R246, R247, R252) -/
def Obligations.row_engine_results : Prop :=
  ∀ (t : Tile) (s : State) (e : QEntry) (ob : List Byte), operandBlock s t e.cmd = some ob → accAbsent s t ob = false →
    (∀ (c : Instr) (opc : Nat), (c, opc) ∈ [(Instr.smaxF t .none, 1), (.smaxB t .none, 2), (.normF t .none, 3), (.normB t .none, 4)] →
      MayStart s t 2 opc e → rowBad (rowOf e.cmd ob) = false →
      ∃ u r, exec c s = .next u ∧ Started s u t 2 e r ∧ DoneOk r ∧ QueuesOnly s u t
        ∧ u = { s with tiles := u.tiles, sram := u.sram, freeCtr := u.freeCtr }
        ∧ SramKeptBut s u (onChip (outUndef t (rowOf e.cmd ob).rows (rowOf e.cmd ob).cols (rowOuts (rowNormal (rowOf e.cmd ob))))
            ++ (List.range (rowOf e.cmd ob).rows).map (fun k => (recKey t (rowOf e.cmd ob) k, 8)))
        ∧ (overlapIn t (rowOf e.cmd ob).rows (rowOf e.cmd ob).cols (rowOuts (rowNormal (rowOf e.cmd ob)))
              (([(rowNormal (rowOf e.cmd ob)).in0, (rowNormal (rowOf e.cmd ob)).in1, (rowNormal (rowOf e.cmd ob)).in2].filter (fun x => x.en)).map
                (fun x => (x, fmtBits x.fmt))) = [] →
            overlapOut t (rowOf e.cmd ob).rows (rowOf e.cmd ob).cols (rowOuts (rowNormal (rowOf e.cmd ob))) = [] →
            u.sram = ((List.range (rowOf e.cmd ob).rows).foldl (rowStep t (rowNormal (rowOf e.cmd ob))) s).sram))
    ∧ (MayStart s t 1 11 e → idxBad s (partOfTile s t) (vecOf e.cmd ob) = false → slotInUse s t (vecOf e.cmd ob) = false →
      (∀ u' k, idxRun t (vecOf e.cmd ob) (List.range ((vecOf e.cmd ob).rows * (vecOf e.cmd ob).cols)) s ≠ (u', some k)) →
      ∃ u r, exec (.idxgen t .none) s = .next u ∧ Started s u t 1 e r ∧ DoneOk r ∧ QueuesOnly s u t
        ∧ u = { s with tiles := u.tiles, sram := u.sram, freeCtr := u.freeCtr }
        ∧ SramKeptBut s u (onChip (outUndef t (vecOf e.cmd ob).rows (vecOf e.cmd ob).cols
            [((vecOf e.cmd ob).out0, if (vecOf e.cmd ob).sub = 1 then 256 else 128)]))
        ∧ ∀ u', overlapIn t (vecOf e.cmd ob).rows (vecOf e.cmd ob).cols [((vecOf e.cmd ob).out0, if (vecOf e.cmd ob).sub = 1 then 256 else 128)]
              (((vecOf e.cmd ob).in0, 64) ::
                (if (vecOf e.cmd ob).in1.en then [((vecOf e.cmd ob).in1, fmtBits (vecOf e.cmd ob).in1.fmt)] else [])) = [] →
            spansMeet (keySpans t (vecOf e.cmd ob).out0 (strmSpans (vecOf e.cmd ob).out0 (if (vecOf e.cmd ob).sub = 1 then 256 else 128)
                (vecOf e.cmd ob).rows (vecOf e.cmd ob).cols))
              [(spaceKey t (vecOf e.cmd ob).in2.space + (vecOf e.cmd ob).in2.off,
                4 * rd s (partOfTile s t) R.TABLE_DESC_SHARD_CNT ((vecOf e.cmd ob).imm0 % 1024))] = [] →
            idxRun t (vecOf e.cmd ob) (List.range ((vecOf e.cmd ob).rows * (vecOf e.cmd ob).cols)) s = (u', none) → u.sram = u'.sram)

/-- A COPY with every address good starts and ends as its reads and writes do; one between scratchpads or cluster memories without overlap
copies its bytes and changes no other byte; DCOPY copies between data memory and scratchpad in its direction; TLOAD from on-chip memory of a
HALTED, present tile of the partition writes its instruction or data memory and sets LOADING; TSTART of such a tile writes START_PC and PC
and makes it RUNNING. A TLOAD that meets a load under way joins the line of the tile; one of a RUNNING tile writes nothing and completes
with IMEM_BUSY; a TSTART of one with TILE_BUSY. (R179, R188, R189, R191) -/
def Obligations.dma_results : Prop :=
  ∀ (t : Tile) (s : State) (e : QEntry), Memory.wf s.sram = true →
    (∀ (ext : List Byte) (v : State) (f : Option Refuse), MayStart s t 3 1 e → cbs e.cmd 24 4 ≠ 0 → cbs e.cmd 28 4 = 0 →
      checkDev s (partOfTile s t) (cbs e.cmd 8 8) (cbs e.cmd 24 4) false = none →
      checkDev s (partOfTile s t) (cbs e.cmd 16 8) (cbs e.cmd 24 4) true = none →
      devTgBusy s (devSpace s (partOfTile s t) (cbs e.cmd 8 8)) (cbs e.cmd 24 4) = false →
      devTgBusy s (devSpace s (partOfTile s t) (cbs e.cmd 16 8)) (cbs e.cmd 24 4) = false →
      devCopy { s with msgSeq := s.msgSeq + 1 } (partOfTile s t) (devSpace s (partOfTile s t) (cbs e.cmd 8 8))
        (devSpace s (partOfTile s t) (cbs e.cmd 16 8)) (cbs e.cmd 24 4) ext (srcTile t 4) s.msgSeq.toNat = (v, f) →
      ∃ r, exec (.copy t ext .none) s = .next (setQueue v t 3 { waiting := (queue v t 3).waiting.tail, running := (queue v t 3).running ++ [r] })
        ∧ r.cmd = e.cmd ∧ r.finished = true ∧ r.status = (match f with | none => St.OK | some x => x.status))
    ∧ (∀ (ka kb : Nat), MayStart s t 3 1 e → cbs e.cmd 24 4 ≠ 0 → cbs e.cmd 28 4 = 0 →
      checkDev s (partOfTile s t) (cbs e.cmd 8 8) (cbs e.cmd 24 4) false = none →
      checkDev s (partOfTile s t) (cbs e.cmd 16 8) (cbs e.cmd 24 4) true = none →
      devSpans (devSpace s (partOfTile s t) (cbs e.cmd 8 8)) (cbs e.cmd 24 4) = [(false, ka, cbs e.cmd 24 4)] →
      devSpans (devSpace s (partOfTile s t) (cbs e.cmd 16 8)) (cbs e.cmd 24 4) = [(false, kb, cbs e.cmd 24 4)] →
      (ka + cbs e.cmd 24 4 ≤ kb ∨ kb + cbs e.cmd 24 4 ≤ ka) →
      ∃ u r, exec (.copy t [] .none) s = .next u ∧ Started s u t 3 e r ∧ DoneOk r ∧ QueuesOnly s u t
        ∧ u = { s with tiles := u.tiles, sram := u.sram, freeCtr := u.freeCtr, msgSeq := s.msgSeq + 1 } ∧ SramKept s u kb (cbs e.cmd 24 4)
        ∧ sramRead u kb (cbs e.cmd 24 4) = sramRead s ka (cbs e.cmd 24 4))
    ∧ (MayStart s t 3 3 e → ∀ a dm n : Nat, a = cbs e.cmd 8 8 → dm = cbs e.cmd 16 2 → n = 8 * cbs e.cmd 18 2 → n ≠ 0 → a + n ≤ 2 ^ 22 → a % 8 = 0 →
      dm + n ≤ 65536 → dm % 8 = 0 → cbits e.cmd 20 1 7 = 0 → cbs e.cmd 21 11 = 0 →
      ∃ u r, exec (.dcopy t .none) s = .next u ∧ Started s u t 3 e r ∧ DoneOk r ∧ QueuesOnly s u t
        ∧ u = { s with tiles := u.tiles, sram := u.sram }
        ∧ (cbit e.cmd 20 0 = true → SramKept s u (dmemKey t dm) n ∧ sramRead u (dmemKey t dm) n = sramRead s (spKey t a) n)
        ∧ (cbit e.cmd 20 0 = false → SramKept s u (spKey t a) n ∧ sramRead u (spKey t a) n = sramRead s (dmemKey t dm) n))
    ∧ (∀ (v : Tile) (ka : Nat), MayStart s t 3 6 e → loadBad e.cmd = false → cb e.cmd 8 = v.val → partOfTile s v = partOfTile s t →
      tilePresent s v = true → checkDev s (partOfTile s t) (cbs e.cmd 16 8) (64 * cbs e.cmd 26 2) false = none →
      devSpans (devSpace s (partOfTile s t) (cbs e.cmd 16 8)) (64 * cbs e.cmd 26 2) = [(false, ka, 64 * cbs e.cmd 26 2)] →
      (rd s 4 R.TILE_STATUS_STATE v = 0 → rd s 4 R.TILE_STATUS_LOADING v = 0 →
        ((tile s v).loadWaits = [] ∨ (tile s v).loadWaits.head? = some (srcTile t 4)) →
        ∃ u r, exec (.tload t [] .none) s = .next u ∧ Started s u t 3 e r ∧ DoneOk r ∧ r.loading = some v.val ∧ LeftLines s u t
          ∧ u = { s with regs := u.regs, tiles := u.tiles, sram := u.sram } ∧ RegsKept s u [fieldKey R.TILE_STATUS_LOADING 4 v 0]
          ∧ rd u 4 R.TILE_STATUS_LOADING v = 1
          ∧ SramKept s u (tileMemKey v (cbit e.cmd 9 0) (64 * cbs e.cmd 24 2)) (64 * cbs e.cmd 26 2)
          ∧ sramRead u (tileMemKey v (cbit e.cmd 9 0) (64 * cbs e.cmd 24 2)) (64 * cbs e.cmd 26 2) = sramRead s ka (64 * cbs e.cmd 26 2))
      ∧ (rd s 4 R.TILE_STATUS_LOADING v = 1 → srcTile t 4 ∉ (tile s v).loadWaits →
        exec (.tload t [] .none) s = .next (setTile s v { tile s v with loadWaits := (tile s v).loadWaits ++ [srcTile t 4] }))
      ∧ (rd s 4 R.TILE_STATUS_STATE v = 1 → rd s 4 R.TILE_STATUS_LOADING v = 0 →
        ((tile s v).loadWaits = [] ∨ (tile s v).loadWaits.head? = some (srcTile t 4)) →
        ∃ u r, exec (.tload t [] .none) s = .next u ∧ Started s u t 3 e r ∧ r.status = St.IMEM_BUSY ∧ LeftLines s u t ∧ u = { s with tiles := u.tiles }))
    ∧ (∀ v : Tile, MayStart s t 3 7 e → cb e.cmd 8 = v.val → cb e.cmd 9 = 0 → cbs e.cmd 10 2 ≤ 16383 → cbs e.cmd 12 20 = 0 →
      partOfTile s v = partOfTile s t → tilePresent s v = true →
      (rd s 4 R.TILE_STATUS_STATE v = 0 → rd s 4 R.TILE_STATUS_LOADING v = 0 →
        opcodeDefined (fetchWord s v (cbs e.cmd 10 2) / 2 ^ 26) = true →
        ∃ u r, exec (.tstart t) s = .next u ∧ Started s u t 3 e r ∧ DoneOk r
          ∧ u = { s with regs := u.regs, tiles := u.tiles }
          ∧ (∀ t', ∃ q, (t' ≠ t.val → q = (tile s t').queues) ∧ tile u t' = if t' = v.val then { tile s t' with queues := q, cycle := 0, stall := none }
              else { tile s t' with queues := q })
          ∧ RegsKept s u [fieldKey R.TILE_CTRL_START_PC 4 v 0, fieldKey R.TILE_STATUS_FAULT_KIND 4 v 0, fieldKey R.TILE_STATUS_STATE 4 v 0,
              fieldKey R.TILE_STATUS_PC 4 v 0]
          ∧ rd u 4 R.TILE_CTRL_START_PC v = cbs e.cmd 10 2 ∧ pcOf u v = cbs e.cmd 10 2 ∧ rd u 4 R.TILE_STATUS_STATE v = 1)
      ∧ (rd s 4 R.TILE_STATUS_STATE v = 1 →
        ∃ u r, exec (.tstart t) s = .next u ∧ Started s u t 3 e r ∧ r.status = St.TILE_BUSY ∧ r.fault = none ∧ QueuesOnly s u t
          ∧ u = { s with tiles := u.tiles }))

/-- A good STREAM starts unfinished; STREAM_CHUNK_START starts the next chunk once a buffer is free and the free counter has reached
FREE_BASE + i - NBUF + 1; STREAM_CHUNK_LANDED of a chunk of on-chip memory copies it to its buffer, adds 1 to the full counter and finishes
the command with its last chunk. (R281, R282, R283) -/
def Obligations.stream_results : Prop :=
  ∀ (t : Tile) (s : State),
    (∀ (e : QEntry) (a : Nat), MayStart s t 3 2 e → spOperand e.cmd 64 64 = some a → cbs e.cmd 16 16 = 0 →
      streamRefuse s (partOfTile s t) (streamOf (sramRead s (spKey t a) 64)) = none →
      ∃ u r, exec (.stream t .none) s = .next u ∧ Started s u t 3 e r ∧ r.finished = false ∧ r.started = 0 ∧ r.landed = 0 ∧ QueuesOnly s u t
        ∧ u = { s with tiles := u.tiles })
    ∧ (∀ (before : List RunCmd) (r : RunCmd), runningStream s t = some (before, r) → running s (partOfTile s t) = true →
      devTgBusy s (devSpace s (partOfTile s t) ((streamOf r.keep).chunk r.started)) (streamOf r.keep).len = false →
      spaceLive s (partOfTile s t) (devSpace s (partOfTile s t) ((streamOf r.keep).chunk r.started)) = true →
      r.started < (streamOf r.keep).cnt → r.started < r.landed + (streamOf r.keep).nbuf →
      (∀ c : CtrRef, (streamOf r.keep).nbuf ≤ r.started → resolveName s (partOfTile s t) (BitVec.ofNat 32 (streamOf r.keep).free) = .ctr c →
        ctrVal s c < 2 ^ 32 ∧ hasReached (ctrVal s c) ((streamOf r.keep).freeBase + (r.started - (streamOf r.keep).nbuf + 1))) →
      ∃ u r', exec (.streamChunkStart t) s = .next u ∧ queue u t 3 = { queue s t 3 with running := before ++ [r'] }
        ∧ r'.started = r.started + 1 ∧ r'.landed = r.landed ∧ r'.finished = r.finished ∧ r'.cmd = r.cmd ∧ r'.keep = r.keep
        ∧ (∀ q, q ≠ 3 → queue u t q = queue s t q) ∧ QueuesOnly s u t
        ∧ u = { noteRead s (partOfTile s t) (devSpace s (partOfTile s t) ((streamOf r.keep).chunk r.started)) (streamOf r.keep).len (srcTile t 4)
            with tiles := u.tiles })
    ∧ (∀ (before : List RunCmd) (r : RunCmd) (c : CtrRef) (ka kb : Nat), Memory.wf s.sram = true → runningStream s t = some (before, r) →
      clocked s (partOfTile s t) = true → r.landed < r.started →
      devSpans (devSpace s (partOfTile s t) ((streamOf r.keep).chunk r.landed)) (streamOf r.keep).len = [(false, ka, (streamOf r.keep).len)] →
      devSpans (devSpace s (partOfTile s t) ((streamOf r.keep).buffer r.landed)) (streamOf r.keep).len = [(false, kb, (streamOf r.keep).len)] →
      (ka + (streamOf r.keep).len ≤ kb ∨ kb + (streamOf r.keep).len ≤ ka) → 0 < (streamOf r.keep).len →
      resolveName s (partOfTile s t) (BitVec.ofNat 32 (streamOf r.keep).full) = .ctr c →
      ∃ u r', exec (.streamChunkLanded t [] .none) s = .next u ∧ queue u t 3 = { queue s t 3 with running := before ++ [r'] }
        ∧ r'.landed = r.landed + 1 ∧ r'.started = r.started ∧ r'.finished = (r.landed + 1 == (streamOf r.keep).cnt) ∧ r'.status = r.status
        ∧ u.incs = s.incs ++ [⟨c, srcTile t 4, 1⟩] ∧ QueuesOnly s u t
        ∧ u = { s with tiles := u.tiles, sram := u.sram, freeCtr := u.freeCtr, incs := u.incs } ∧ SramKept s u kb (streamOf r.keep).len
        ∧ sramRead u kb (streamOf r.keep).len = sramRead s ka (streamOf r.keep).len)

namespace Sys2Proof.Claims

/-- The five version commands of a port. -/
def tdCommands (port : HPort) (table : BitVec 10) (ver : BitVec 16) : List Instr :=
  [.install port table ver, .seal port table ver, .abort port table ver, .free port table ver, .activate port table ver]

/-- The command only reports code r of partition p's version commands (R127). -/
def Reports (c : Instr) (s : State) (p r : Nat) : Prop :=
  ∃ u, exec c s = .next u ∧ OnlyRegs s u [fieldKey R.TD_STATUS_CMD_RESULT p 0 0] ∧ rd u p R.TD_STATUS_CMD_RESULT = r

end Sys2Proof.Claims

/-- A look-up whose descriptor, entries and version are good is issued: it holds its version slot (INFLIGHT), waits for one reply from each
home of an entry without a hot copy, and its command stays unfinished. A reply from a home it waits for is taken. With no home left
LOOKUP_COMPLETE, and LOOKUP_TIMEOUT with one left, write the 16-byte status word, add 1 to DONE_CTR on the die and end the look-up; a
timeout with every reply OK gives status TIMEOUT. (R104, R105, R106, R107, R109, R111, R112, R121) -/
def Obligations.lookup_results : Prop :=
  ∀ (s : State),
    (∀ (t : Tile) (e : QEntry) (ext bb ib : List Byte) (a j : Nat) (d : LookDesc), MayStart s t 3 4 e → spOperand e.cmd 64 64 = some a →
      cbs e.cmd 16 16 = 0 → d = lookDescOf (sramRead s (spKey t a) 64) → lookStatic s (partOfTile s t) d = none →
      devTgBusy s (devSpace s (partOfTile s t) d.bagAddr) (4 * (d.bags + 1)) = false →
      devTgBusy s (devSpace s (partOfTile s t) d.idxAddr) (16 * d.idx) = false →
      readArray s (partOfTile s t) d.bagAddr (4 * (d.bags + 1)) ext = .ok bb →
      readArray s (partOfTile s t) d.idxAddr (16 * d.idx)
        (if isExtern (devSpace s (partOfTile s t) d.bagAddr) then ext.drop (4 * (d.bags + 1)) else ext) = .ok ib →
      offsetsOk (offsetsOf bb (d.bags + 1)) d.idx = true →
      (∀ k, k < d.idx → lookRowRefuse s (partOfTile s t) d ib (lookRow (offsetsOf bb (d.bags + 1)) ib k) = none) →
      resolveVer s (partOfTile s t) d.table d.useCur d.ver = .ok j →
      ∃ u r run, exec (.lookup t ext .none) s = .next u ∧ Started s u t 3 e r ∧ r.finished = false ∧ QueuesOnly s u t
        ∧ u.looks = s.looks ++ [run] ∧ run.tile = t.val ∧ run.msgId = s.msgSeq.toNat ∧ u.msgSeq = s.msgSeq + 1 ∧ run.slot = some j
        ∧ run.rows.length = d.idx ∧ run.replies = []
        ∧ (∀ h, h ∈ run.waiting ↔ ∃ x ∈ run.rows, x.hot = none ∧ h = (x.node, x.stack))
        ∧ rd u (partOfTile s t) R.TABLE_DESC_INFLIGHT d.table j = min (rd s (partOfTile s t) R.TABLE_DESC_INFLIGHT d.table j + 1) (2 ^ 32 - 1)
        ∧ u.sram = s.sram ∧ u.hbm = s.hbm)
    ∧ (∀ (p : Part) (m : LookupResp) (run : LookRun), running s p = true →
      s.looks.find? (fun x => x.msgId == m.msgId.toNat && partOfTile s x.tile == p.val && x.waiting.contains (m.node.toNat, m.stack.toNat)) = some run →
      exec (.lookupReplyReceive p m) s = .next { s with looks := s.looks.map (fun x => if x.msgId = run.msgId then
        { run with waiting := run.waiting.filter (fun h => h != (m.node.toNat, m.stack.toNat)), replies := run.replies ++ [m] } else x) })
    ∧ (∀ (t : Tile) (late : Bool) (run : LookRun) (x o : Nat), Memory.wf s.sram = true → running s (partOfTile s t) = true →
      s.looks.find? (fun x => x.tile == t.val && (if late then !x.waiting.isEmpty else x.waiting.isEmpty && x.acks == 0)) = some run →
      run.phase = 0 → run.rows.length = (lookDescOf run.desc).idx → run.bags = (lookDescOf run.desc).bags → (lookDescOf run.desc).status % 16 = 0 → checkDev s (partOfTile s t) (lookDescOf run.desc).status 16 true = none →
      devSpace s (partOfTile s t) (lookDescOf run.desc).status = .sp x o →
      (∀ b, b < (lookDescOf run.desc).outRows → ∃ y q, devSpace s (partOfTile s t) ((lookDescOf run.desc).outAddr + (lookDescOf run.desc).stride * b) = .sp y q) →
      ∃ u st, exec (if late then .lookupTimeout t else .lookupComplete t) s = .next u
        ∧ u.looks = s.looks.filter (fun x => x.msgId != run.msgId)
        ∧ u.incs = s.incs ++ [⟨.die (Fin.ofNat 4 (t.val / 64)) (Fin.ofNat 4096 (lookDescOf run.desc).done), srcTile t 4, 1⟩]
        ∧ sramRead u (spKey x o) 16 = lookWord run st ∧ u.hbm = s.hbm
        ∧ (run.fault = none → run.slot.isSome = true → run.status = St.OK → (∀ m ∈ run.replies, m.status = 0) →
            st = if late then St.TIMEOUT else St.OK)
        ∧ (∀ j, run.slot = some j → rd u (partOfTile s t) R.TABLE_DESC_INFLIGHT (lookDescOf run.desc).table j
            = (rd s (partOfTile s t) R.TABLE_DESC_INFLIGHT (lookDescOf run.desc).table j - 1) % 2 ^ 32))

/-- A request of a version that is held and not RETIRED, none of whose rows waits, is answered at once with status OK when no row has moved;
with moved rows a run waits for their engines; one that must wait is kept with its version held. A forwarded request is answered with a
partial. The last partial of a run sends the reply, the others are kept. (R100, R101, R103, R108, R110, R123) -/
def Obligations.owner_results : Prop :=
  ∀ (p : Part) (s : State), running s p = true → suEnabled s p = true →
    (∀ (m : LookupReq) (j : Nat), ownStack s p m.stack.toNat = true → ownerVer s p m.table.toNat m.ver.toNat = .ok j →
      ((engineWaits s m.stack.toNat = true ∨ (homeChecks s p m = none ∧
          ∃ x ∈ m.entries, rowWaits s m.stack.toNat m.table.toNat x.row.toNat m.step.toNat = true)) →
        ∃ u, exec (.lookupRequestReceive p m .none) s = .next u ∧ u.waitReqs = s.waitReqs ++ [(p.val, .look m (some j))]
          ∧ u = { s with regs := u.regs, waitReqs := u.waitReqs } ∧ RegsKept s u [fieldKey R.TABLE_DESC_INFLIGHT p m.table.toNat j])
      ∧ (∀ hits : List RowHit, engineWaits s m.stack.toNat = false →
        (∀ x ∈ m.entries, rowWaits s m.stack.toNat m.table.toNat x.row.toNat m.step.toNat = false) →
        homeEntries (holdVer s p m.table.toNat 1 (some j)) p m = .ok hits →
        (m.src.toNat = ownNode s p ∨ hasRoute s p m.src.toNat = true) →
        ((∀ h ∈ hits, ∀ x r, h ≠ .forward x r) →
          ∃ u resp, exec (.lookupRequestReceive p m .none) s = .next u ∧ u.outbox = s.outbox ++ [⟨p, .lookupResp m.src.toNat resp⟩]
            ∧ resp.msgId = m.msgId ∧ resp.stack = m.stack ∧ resp.status = 0 ∧ resp.node.toNat = ownNode s p % 4096
            ∧ resp.absent = (hits.filter (fun h => h == .absent)).length ∧ resp.redirect = 0
            ∧ resp.data = poolData m.pool.toNat m.wtFp32 (tblWidth s p m.table.toNat) m.entries hits
            ∧ u.ownRuns = s.ownRuns ∧ u.sram = s.sram ∧ u.hbm = s.hbm ∧ u.tiles = s.tiles)
        ∧ ((∃ h ∈ hits, ∃ x r, h = .forward x r) →
          ∃ u run, exec (.lookupRequestReceive p m .none) s = .next u ∧ u.ownRuns = s.ownRuns ++ [run] ∧ run.req = m ∧ run.slot = some j
            ∧ run.part = p.val ∧ run.waiting = fwdTargets hits ∧ run.got.length = 1 ∧ u.sram = s.sram ∧ u.hbm = s.hbm)))
    ∧ (∀ (m : FwdReq) (j : Nat), ownStack s p m.stack.toNat = true → ownerVer s p m.table.toNat m.ver.toNat = .ok j →
      (engineWaits s m.stack.toNat = true →
        ∃ u, exec (.forwardedRequestReceive p m .none) s = .next u ∧ u.waitReqs = s.waitReqs ++ [(p.val, .fwd m (some j))]
          ∧ u = { s with regs := u.regs, waitReqs := u.waitReqs } ∧ RegsKept s u [fieldKey R.TABLE_DESC_INFLIGHT p m.table.toNat j])
      ∧ (∀ hits : List RowHit, engineWaits s m.stack.toNat = false →
        m.entries.mapM (fwdEntry (holdVer s p m.table.toNat 1 (some j)) p m.stack.toNat m.table.toNat m.ver.toNat) = .ok hits →
        (m.home.toNat = ownNode s p ∨ hasRoute s p m.home.toNat = true) →
        ∃ u resp, exec (.forwardedRequestReceive p m .none) s = .next u ∧ u.outbox = s.outbox ++ [⟨p, .partialResp m.home.toNat resp⟩]
          ∧ resp.msgId = m.msgId ∧ resp.status = 0 ∧ resp.data = poolData m.pool.toNat m.wtFp32 (tblWidth s p m.table.toNat) m.entries hits
          ∧ u.sram = s.sram ∧ u.hbm = s.hbm))
    ∧ (∀ (m : LookupResp) (run : OwnRun),
      s.ownRuns.find? (fun x => x.part == p.val && x.req.msgId == m.msgId && x.waiting.contains (m.node.toNat, m.stack.toNat)) = some run →
      (run.waiting.filter (fun h => h != (m.node.toNat, m.stack.toNat)) ≠ [] →
        exec (.forwardedPartialReceive p m) s = .next { s with ownRuns := s.ownRuns.filter (fun x => x != run) ++
          [{ run with waiting := run.waiting.filter (fun h => h != (m.node.toNat, m.stack.toNat)), got := run.got ++ [m] }] })
      ∧ (run.waiting.filter (fun h => h != (m.node.toNat, m.stack.toNat)) = [] →
        (run.req.src.toNat = ownNode s p ∨ hasRoute s p run.req.src.toNat = true) →
        ∃ u resp, exec (.forwardedPartialReceive p m) s = .next u ∧ u.ownRuns = s.ownRuns.filter (fun x => x != run)
          ∧ u.outbox = s.outbox ++ [⟨p, .lookupResp run.req.src.toNat resp⟩] ∧ u.sram = s.sram ∧ u.hbm = s.hbm))

/-- A read of an absent row is answered with no record, of a row last written before the fetch step with its record and the codebook of its
shard; a read of a moved row goes on to its serving engine, and one that must wait is kept with its version held. A reply with a record
writes it to its slot of the inactive buffer and counts it; one with an error status only leaves the fetch failed. The end of a die whose
fetch did not fail adds 1 to FETCH_CTR there and clears FETCH_BUSY with the last die. (R117, R118, R119) -/
def Obligations.hot_row_results : Prop :=
  ∀ (p : Part) (s : State), running s p = true →
    (∀ (m : HotRead) (j : Nat), suEnabled s p = true → ownStack s p m.home.stack.toNat = true →
      ownerVer s p m.table.toNat m.ver.toNat = .ok j →
      ((engineWaits s m.home.stack.toNat = true ∨ rowWaits s m.home.stack.toNat m.table.toNat m.row.toNat m.fetchStep.toNat = true) →
        ∃ u, exec (.hotrowFetchReadReceive p m .none) s = .next u ∧ u.waitReqs = s.waitReqs ++ [(p.val, .hot m (some j))]
          ∧ u = { s with regs := u.regs, waitReqs := u.waitReqs } ∧ RegsKept s u [fieldKey R.TABLE_DESC_INFLIGHT p m.table.toNat j])
      ∧ (∀ d : Shard, engineWaits s m.home.stack.toNat = false →
        rowWaits s m.home.stack.toNat m.table.toNat m.row.toNat m.fetchStep.toNat = false →
        (if m.fwd = true then shardFor s p m.home.stack.toNat m.home.lshard.toNat m.table.toNat m.ver.toNat m.shard.toNat
          else rowShardFor s p m.home.stack.toNat m.home.lshard.toNat m.table.toNat m.ver.toNat m.row.toNat m.shard.toNat m.digest.toNat) = .ok d →
        (m.src.toNat = ownNode s p ∨ hasRoute s p m.src.toNat = true) →
        (∀ r, m.fwd = false → redirectOf s none m.home.stack.toNat m.row.toNat m.table.toNat m.ver.toNat = some r →
          (r.node % 2 ^ 12 = ownNode s p ∨ hasRoute s p (r.node % 2 ^ 12) = true) →
          ∃ u, exec (.hotrowFetchReadReceive p m .none) s = .next u ∧ u.outbox = s.outbox ++ [⟨p, .hotRead { m with
              fwd := true, home := ⟨BitVec.ofNat 12 r.node, BitVec.ofNat 5 r.stack, BitVec.ofNat 15 r.lshard⟩ }⟩]
            ∧ u.sram = s.sram ∧ u.hbm = s.hbm)
        ∧ ((m.fwd = false → redirectOf s none m.home.stack.toNat m.row.toNat m.table.toNat m.ver.toNat = none) →
          (m.fwd = false → readRec s m.home.stack.toNat d (rowHash s p m.table.toNat m.row.toNat) m.row.toNat = .ok none →
            ∃ u, exec (.hotrowFetchReadReceive p m .none) s = .next u
              ∧ u.outbox = s.outbox ++ [⟨p, .hotReply m.src.toNat ⟨m.die, m.set, m.slot, 0, none, []⟩⟩] ∧ u.sram = s.sram ∧ u.hbm = s.hbm)
          ∧ (∀ f bs book, readRec s m.home.stack.toNat d (rowHash s p m.table.toNat m.row.toNat) m.row.toNat = .ok (some (f, bs)) →
            shardBook s m.home.stack.toNat d = .ok book →
            signedOf 32 (recTag bs + 2 ^ 32 - m.fetchStep.toNat % 2 ^ 32) < 0 →
            ∃ u, exec (.hotrowFetchReadReceive p m .none) s = .next u
              ∧ u.outbox = s.outbox ++ [⟨p, .hotReply m.src.toNat ⟨m.die, m.set, m.slot, 0, some bs, book⟩⟩] ∧ u.sram = s.sram ∧ u.hbm = s.hbm))))
    ∧ (∀ (m : HotReply) (f : HotFetch) (bs : List Byte),
      s.fetches.find? (fun x => x.part == p.val && x.die == m.die.val && x.set == m.set.val && x.waiting.contains m.slot) = some f →
      (m.status ≠ 0 → exec (.hotrowFetchReplyReceive p m) s = .next { s with fetches := s.fetches.map (fun x =>
        if x = f then { x with waiting := x.waiting.filter (· != m.slot), failed := true } else x) })
      ∧ (m.status = 0 → m.record = some bs →
      exec (.hotrowFetchReplyReceive p m) s = .next { s with
        freeCtr := s.freeCtr + 1
        hotBooks := if tblFmt s p (rd s p R.HOTROW_SET_HR_TABLE f.set) = 1 then mapErase s.hotBooks (hotSlotKey f.die (hotBuf s p f.set false)
            (hotSlots s p f.set) (recSize (tblFmt s p (rd s p R.HOTROW_SET_HR_TABLE f.set)) (tblWidth s p (rd s p R.HOTROW_SET_HR_TABLE f.set))) m.slot)
          else mapSet s.hotBooks (hotSlotKey f.die (hotBuf s p f.set false) (hotSlots s p f.set)
            (recSize (tblFmt s p (rd s p R.HOTROW_SET_HR_TABLE f.set)) (tblWidth s p (rd s p R.HOTROW_SET_HR_TABLE f.set))) m.slot) m.book
        sram := sramCells s.sram (hotSlotKey f.die (hotBuf s p f.set false) (hotSlots s p f.set)
          (recSize (tblFmt s p (rd s p R.HOTROW_SET_HR_TABLE f.set)) (tblWidth s p (rd s p R.HOTROW_SET_HR_TABLE f.set))) m.slot)
          (bs.take (recSize (tblFmt s p (rd s p R.HOTROW_SET_HR_TABLE f.set)) (tblWidth s p (rd s p R.HOTROW_SET_HR_TABLE f.set))))
        fetches := s.fetches.map (fun x => if x = f then { x with waiting := x.waiting.filter (· != m.slot), copied := x.copied + 1 } else x) }))
    ∧ (∀ (d : Die) (set : Fin 32) (f : HotFetch),
      s.fetches.find? (fun x => x.part == p.val && x.die == d.val && x.set == set.val && x.waiting.isEmpty) = some f →
      ∃ u, exec (.hotrowFetchDone p d set) s = .next u ∧ u.fetches = s.fetches.filter (fun x => x != f)
        ∧ u = { s with regs := u.regs, fetches := u.fetches, incs := u.incs }
        ∧ RegsKept s u [fieldKey R.HOTROW_SET_FETCHED p set 0, fieldKey R.HOTROW_SET_FETCH_BUSY p set 0]
        ∧ (f.failed = true → u.incs = s.incs)
        ∧ (f.failed = false → u.incs = s.incs ++ [⟨.die d (Fin.ofNat 4096 (rd s p R.HOTROW_SET_FETCH_CTR set)), srcTransport, 1⟩])
        ∧ ((∀ x ∈ s.fetches, x ≠ f → x.part ≠ p.val ∨ x.set ≠ set.val) → rd u p R.HOTROW_SET_FETCH_BUSY set = 0))

/-- From the controlling port, with no command being applied, for a defined table. INSTALL takes the lowest FREE slot for a version newer
than those the other slots hold; with no FREE slot it reports VERSION_SLOTS_FULL, for a version not newer VERSION_ORDER. SEAL of an
INSTALLING version with a later swap step makes it PENDING and names it in NEXT_VER; ABORT of an INSTALLING or PENDING one frees its slot
and clears NEXT_VALID if it named it; FREE of a RETIRED one clears its slot; ACTIVATE of a PENDING one, in HOLD with no slot CURRENT, makes
it CURRENT; each reports OK. SEAL with a step that is not later reports BAD_DESC; each op on a version in another state or in no slot
reports WRONG_STATE. A refused command changes nothing else. On a table that is not defined each reports BAD_DESC; while CMD_BUSY is set
each is discarded. VERSION_RETIRE makes a RETIRING slot with no look-up in flight, past its step, RETIRED, and no engine of the partition
then holds a Redirect entry of its version. (R122, R125, R126, R127, R165) -/
def Obligations.version_commands : Prop :=
  (∀ (port : HPort) (table : BitVec 10) (ver : BitVec 16) (p : Nat) (s : State), ctrlAccess s port = some p →
    (rdb s p R.TD_STATUS_CMD_BUSY = true → ∀ c ∈ tdCommands port table ver, exec c s = .next s)
    ∧ (rdb s p R.TD_STATUS_CMD_BUSY = false → tableDefined s p table.toNat = false → ∀ c ∈ tdCommands port table ver, Reports c s p St.BAD_DESC)
    ∧ (rdb s p R.TD_STATUS_CMD_BUSY = false → tableDefined s p table.toNat = true →
      (∀ j, j < 4 → slotState s p table.toNat j = 0 → (∀ i, i < j → slotState s p table.toNat i ≠ 0) →
        ((∀ i, i < 4 → slotState s p table.toNat i ≠ 0 → newerVer ver.toNat (rd s p R.TABLE_DESC_SLOT_VER table.toNat i) = true) →
          ∃ u, exec (.install port table ver) s = .next u
            ∧ OnlyRegs s u [fieldKey R.TABLE_DESC_SLOT_VER p table.toNat j, fieldKey R.TABLE_DESC_SLOT_STATE p table.toNat j, fieldKey R.TD_STATUS_CMD_RESULT p 0 0]
            ∧ rd u p R.TABLE_DESC_SLOT_VER table.toNat j = ver.toNat ∧ slotState u p table.toNat j = 1 ∧ rd u p R.TD_STATUS_CMD_RESULT = 0)
        ∧ (∀ i, i < 4 → slotState s p table.toNat i ≠ 0 → newerVer ver.toNat (rd s p R.TABLE_DESC_SLOT_VER table.toNat i) = false →
          Reports (.install port table ver) s p St.VERSION_ORDER))
      ∧ ((∀ i, i < 4 → slotState s p table.toNat i ≠ 0) → Reports (.install port table ver) s p St.VERSION_SLOTS_FULL)
      ∧ (stepDiff (rd s p R.TD_ARG_CMD_STEP) (rd s p R.ST_NOW_STEP) ≤ 0 → Reports (.seal port table ver) s p St.BAD_DESC)
      ∧ (verSlot s p table.toNat ver.toNat = none →
        (0 < stepDiff (rd s p R.TD_ARG_CMD_STEP) (rd s p R.ST_NOW_STEP) → Reports (.seal port table ver) s p St.WRONG_STATE)
        ∧ Reports (.abort port table ver) s p St.WRONG_STATE ∧ Reports (.free port table ver) s p St.WRONG_STATE
        ∧ Reports (.activate port table ver) s p St.WRONG_STATE)
      ∧ (∀ j, verSlot s p table.toNat ver.toNat = some j →
        (0 < stepDiff (rd s p R.TD_ARG_CMD_STEP) (rd s p R.ST_NOW_STEP) → slotState s p table.toNat j = 1 →
          ∃ u, exec (.seal port table ver) s = .next u
            ∧ OnlyRegs s u [fieldKey R.TABLE_DESC_SLOT_STATE p table.toNat j, fieldKey R.TABLE_DESC_SLOT_STEP p table.toNat j,
                fieldKey R.TABLE_DESC_NEXT_VALID p table.toNat 0, fieldKey R.TABLE_DESC_NEXT_VER p table.toNat 0,
                fieldKey R.TABLE_DESC_NEXT_STEP p table.toNat 0, fieldKey R.TD_STATUS_CMD_RESULT p 0 0]
            ∧ slotState u p table.toNat j = 2 ∧ rd u p R.TABLE_DESC_SLOT_STEP table.toNat j = rd s p R.TD_ARG_CMD_STEP % 2 ^ 48
            ∧ rd u p R.TABLE_DESC_NEXT_VALID table.toNat = 1 ∧ rd u p R.TABLE_DESC_NEXT_VER table.toNat = ver.toNat
            ∧ rd u p R.TABLE_DESC_NEXT_STEP table.toNat = rd s p R.TD_ARG_CMD_STEP % 2 ^ 48 ∧ rd u p R.TD_STATUS_CMD_RESULT = 0)
        ∧ (0 < stepDiff (rd s p R.TD_ARG_CMD_STEP) (rd s p R.ST_NOW_STEP) → slotState s p table.toNat j ≠ 1 → Reports (.seal port table ver) s p St.WRONG_STATE)
        ∧ ((slotState s p table.toNat j = 1 ∨ slotState s p table.toNat j = 2) →
          ∃ u, exec (.abort port table ver) s = .next u
            ∧ OnlyRegs s u [fieldKey R.TABLE_DESC_SLOT_STATE p table.toNat j, fieldKey R.TABLE_DESC_SLOT_STEP p table.toNat j,
                fieldKey R.TABLE_DESC_NEXT_VALID p table.toNat 0, fieldKey R.TD_STATUS_CMD_RESULT p 0 0]
            ∧ slotState u p table.toNat j = 0 ∧ rd u p R.TABLE_DESC_SLOT_STEP table.toNat j = 0
            ∧ rd u p R.TABLE_DESC_NEXT_VALID table.toNat = (if rd s p R.TABLE_DESC_NEXT_VER table.toNat = ver.toNat then 0
                else rd s p R.TABLE_DESC_NEXT_VALID table.toNat)
            ∧ rd u p R.TD_STATUS_CMD_RESULT = 0)
        ∧ (slotState s p table.toNat j ≠ 1 → slotState s p table.toNat j ≠ 2 → Reports (.abort port table ver) s p St.WRONG_STATE)
        ∧ (slotState s p table.toNat j = 6 →
          ∃ u, exec (.free port table ver) s = .next u
            ∧ OnlyRegs s u [fieldKey R.TABLE_DESC_SLOT_STATE p table.toNat j, fieldKey R.TABLE_DESC_SLOT_STEP p table.toNat j,
                fieldKey R.TABLE_DESC_SLOT_VER p table.toNat j, fieldKey R.TABLE_DESC_INFLIGHT p table.toNat j, fieldKey R.TD_STATUS_CMD_RESULT p 0 0]
            ∧ slotState u p table.toNat j = 0 ∧ rd u p R.TABLE_DESC_SLOT_STEP table.toNat j = 0 ∧ rd u p R.TABLE_DESC_SLOT_VER table.toNat j = 0
            ∧ rd u p R.TABLE_DESC_INFLIGHT table.toNat j = 0 ∧ rd u p R.TD_STATUS_CMD_RESULT = 0)
        ∧ (slotState s p table.toNat j ≠ 6 → Reports (.free port table ver) s p St.WRONG_STATE)
        ∧ (slotState s p table.toNat j = 2 → isHold s p = true → (∀ i, i < 4 → slotState s p table.toNat i ≠ 3) →
          ∃ u, exec (.activate port table ver) s = .next u
            ∧ OnlyRegs s u [fieldKey R.TABLE_DESC_SLOT_STATE p table.toNat j, fieldKey R.TABLE_DESC_SLOT_STEP p table.toNat j,
                fieldKey R.TABLE_DESC_CUR_VER p table.toNat 0, fieldKey R.TABLE_DESC_CUR_VALID p table.toNat 0,
                fieldKey R.TABLE_DESC_NEXT_VALID p table.toNat 0, fieldKey R.TD_STATUS_CMD_RESULT p 0 0]
            ∧ slotState u p table.toNat j = 3 ∧ rd u p R.TABLE_DESC_CUR_VER table.toNat = ver.toNat
            ∧ rd u p R.TABLE_DESC_CUR_VALID table.toNat = 1 ∧ rd u p R.TABLE_DESC_NEXT_VALID table.toNat = 0 ∧ rd u p R.TD_STATUS_CMD_RESULT = 0)
        ∧ ((slotState s p table.toNat j ≠ 2 ∨ isHold s p = false ∨ ∃ i, i < 4 ∧ slotState s p table.toNat i = 3) →
          Reports (.activate port table ver) s p St.WRONG_STATE))))
    ∧ (∀ (q : Part) (table : BitVec 10) (slot : Fin 4) (s : State), clocked s q = true → q.val < partCount s.mode → slotState s q table.toNat slot = 5 →
      rd s q R.TABLE_DESC_INFLIGHT table.toNat slot = 0 →
      0 < stepDiff (rd s q R.ST_NOW_STEP) (rd s q R.TABLE_DESC_SLOT_STEP table.toNat slot) →
      ∃ u, exec (.versionRetire q table slot) s = .next u ∧ slotState u q table.toNat slot = 6
        ∧ (∀ k, k < 24 → partOfStack s k = q.val → ∀ e ∈ mapGet [] u.redirects k,
            ¬ (e.table = table.toNat ∧ e.ver = rd s q R.TABLE_DESC_SLOT_VER table.toNat slot))
        ∧ u.sram = s.sram ∧ u.hbm = s.hbm ∧ u.tiles = s.tiles)

namespace Sys2Proof.Claims

/-- The state in which a MERGE of tile t has its keys: its place in the line is given up, and the reads of the array are noted. -/
def keyRead (s : State) (t : Tile) (d : MergeDesc) : State :=
  noteRead (dropMerge s t) (partOfTile s t) (devSpace (dropMerge s t) (partOfTile s t) d.keyAddr) (32 * d.cnt) (srcCluster (clusterOfTile t) 0x40)

/-- The state in which the final pass of a merge has its gradient rows. -/
def passRead (s : State) (c : Cluster) (run : CloveRun) : State :=
  (passReads s (partOfCluster s c) run).foldl (fun s x =>
    noteRead s (partOfCluster s c) (devSpace s (partOfCluster s c) x.1) x.2 (srcCluster c 0x40)) s

end Sys2Proof.Claims

/-- A good MERGE that is first in the line of its free Clove unit leaves the line and occupies the unit, with the next sequence number of
the step when it sends; one that finds the unit busy takes its place in the line. A pass before the last counts itself; the final pass of
rows whose keys agree marks the run sent, counts its rows, and under SEND waits for the home of each; keys of a row that disagree end a run
under SEND with BAD_DESC. An acknowledgement of its SEQ is taken off; MERGE_COMPLETE without, and MERGE_TIMEOUT with, missing
acknowledgements write the status word, add 1 to DONE_CTR and free the unit. (R128, R129, R131, R133, R134, R137, R138, R140) -/
def Obligations.merge_results : Prop :=
  ∀ (s : State),
    (∀ (t : Tile) (e : QEntry) (ext bs : List Byte) (a : Nat) (d : MergeDesc), MayStart s t 3 5 e → spOperand e.cmd 64 64 = some a →
      cbs e.cmd 16 16 = 0 → d = mergeDescOf (sramRead s (spKey t a) 64) →
      (mergeHeld s t (clusterOfTile t) = true → ∃ u, exec (.merge t ext .none) s = .next u ∧ u = { s with cloveWait := u.cloveWait }
        ∧ mapGet [] u.cloveWait (clusterOfTile t) = (if (mapGet [] s.cloveWait (clusterOfTile t)).contains t.val = true
            then mapGet [] s.cloveWait (clusterOfTile t) else mapGet [] s.cloveWait (clusterOfTile t) ++ [t.val]))
      ∧ (∀ v : State, mergeHeld s t (clusterOfTile t) = false → v = keyRead s t d → mergeStatic (dropMerge s t) (partOfTile s t) (clusterOfTile t) d = none →
        (∀ r ∈ mergeAddrs v (partOfTile s t) d, r = none) →
        verCurrent s (partOfTile s t) d.table (namedVer s (partOfTile s t) d.table d.useCur d.ver) = true →
        (d.useCur = true → rdb s (partOfTile s t) R.TABLE_DESC_CUR_VALID d.table = true) →
        devTgBusy s (devSpace s (partOfTile s t) d.keyAddr) (32 * d.cnt) = false → readArray v (partOfTile s t) d.keyAddr (32 * d.cnt) ext = .ok bs →
        (∀ i, i < d.cnt → mergeKeyRefuse v (partOfTile s t) d bs i (mergeKeyOf bs i) = none) →
        (d.multi = false → ∀ x ∈ keyRows ((List.range d.cnt).map (mergeKeyOf bs)), keysBad x.2 = false) →
        (d.send = false → checkSpan v (partOfTile s t) d.outAddr
          (mergedSize (tblWidth v (partOfTile s t) d.table) * (keyRows ((List.range d.cnt).map (mergeKeyOf bs))).length) true = none) →
        ∃ u r run, exec (.merge t ext .none) s = .next u ∧ Started s u t 3 e r ∧ r.finished = false ∧ QueuesOnly s u t
          ∧ u = { v with tiles := u.tiles, clove := mapSet v.clove (clusterOfTile t) run, cloveSeq := u.cloveSeq, msgSeq := v.msgSeq + 1 }
          ∧ run.tile = t.val ∧ run.keys = (List.range d.cnt).map (mergeKeyOf bs) ∧ run.seq = seqGiven v (clusterOfTile t)
          ∧ run.done = 0 ∧ run.sent = false ∧ run.waiting = [] ∧ run.status = St.OK
          ∧ (d.send = true → seqGiven u (clusterOfTile t) = seqGiven v (clusterOfTile t) + 1) ∧ (d.send = false → u.cloveSeq = v.cloveSeq)))
    ∧ (∀ (c : Cluster) (ext : List Byte) (run : CloveRun), mapFind s.clove c = some run → running s (partOfCluster s c) = true → run.sent = false →
      run.acks = 0 →
      (∀ x ∈ passReads s (partOfCluster s c) run ++ passWrites s (partOfCluster s c) run, devTgBusy s (devSpace s (partOfCluster s c) x.1) x.2 = false) →
      (∀ (v w : State) (rest : List Byte) (x : Space), v = passRead s c run → run.done + 1 < run.passes →
        readRuns v (partOfCluster s c) run ext = .ok rest → x = devSpace v (partOfCluster s c) (runHalf (mergeDescOf run.desc) run.done) →
        devWrite (tickFree v) (partOfCluster s c) x (freshBytes v (16 * (mergeDescOf run.desc).cnt)) (srcCluster c 0x40) run.msgId = (w, none) →
        exec (.clovePassDone c ext .none) s = .next { w with clove := mapSet w.clove c { run with
          done := run.done + 1, acks := remoteFrames v (partOfCluster s c) x (16 * (mergeDescOf run.desc).cnt) } })
      ∧ (∀ (v : State) (rest : List Byte) ms, run.passes ≤ run.done + 1 → v = passRead s c run →
        readRuns v (partOfCluster s c) run ext = .ok rest →
        mergeRows v (partOfCluster s c) (mergeDescOf run.desc) (tblWidth v (partOfCluster s c) (mergeDescOf run.desc).table) rest
          ((keyRows run.keys).takeWhile (fun r => !keysBad r.2)) 0 = .ok ms →
        ∃ u run', exec (.clovePassDone c ext .none) s = .next u ∧ u.clove = mapSet v.clove c run' ∧ run'.sent = true ∧ run'.done = run.passes
          ∧ run'.unique = ms.length
          ∧ ((mergeDescOf run.desc).send = true →
              (∀ m ∈ ms, sendable v (partOfCluster s c) (mergeDescOf run.desc).table m.key.node m.row = true) → u.sram = v.sram ∧ u.hbm = v.hbm
              ∧ ((∀ x ∈ keyRows run.keys, keysBad x.2 = false) → run'.status = run.status ∧ ∀ m ∈ ms, (m.row, m.key.node, false) ∈ run'.waiting)
              ∧ ((∃ x ∈ keyRows run.keys, keysBad x.2 = true) → run'.status = St.BAD_DESC ∧ run'.waiting = run.waiting))
          ∧ ((mergeDescOf run.desc).send = false → (∀ x ∈ keyRows run.keys, keysBad x.2 = false) →
              (writeRows v (partOfCluster s c) (mergeDescOf run.desc).outAddr (mergedSize (tblWidth v (partOfCluster s c) (mergeDescOf run.desc).table))
                (ms.map (mergedRecord (mergeDescOf run.desc) (tblWidth v (partOfCluster s c) (mergeDescOf run.desc).table)))
                (srcCluster c 0x40) run.msgId).2 = none →
              run'.status = run.status ∧ run'.waiting = run.waiting)))
    ∧ (∀ (p : Part) (m : ContribAck) (run : CloveRun), running s p = true → partOfCluster s m.cluster = p.val → mapFind s.clove m.cluster = some run →
      run.seq % 65536 = m.seq.toNat →
      exec (.contributionAckReceive p m) s = .next { s with
        clove := mapSet s.clove m.cluster { run with waiting := run.waiting.filter (fun x => x != (m.row.toNat, m.node.toNat, m.partner)) } })
    ∧ (∀ (c : Cluster) (late : Bool) (run : CloveRun) (x o : Nat), Memory.wf s.sram = true → mapFind s.clove c = some run →
      running s (partOfCluster s c) = true → run.sent = true → run.waiting.isEmpty = !late →
      run.acks = 0 → run.worded = false →
      devSpace s (partOfTile s run.tile) (mergeDescOf run.desc).status = .sp x o →
      ∃ u, exec (if late then .mergeTimeout c else .mergeComplete c) s = .next u ∧ u.clove = mapErase s.clove c
        ∧ u.incs = s.incs ++ [⟨.die (Fin.ofNat 4 (run.tile / 64)) (Fin.ofNat 4096 (mergeDescOf run.desc).done), srcCluster c 0x40, 1⟩]
        ∧ sramRead u (spKey x o) 16 = mergeWord run (if late then St.TIMEOUT else run.status) ∧ SramKept s u (spKey x o) 16
        ∧ u = { s with tiles := u.tiles, sram := u.sram, clove := u.clove, incs := u.incs })

/-- A contribution that its shard, window and buffer admit is added to those held, holds its version and is acknowledged to its source; a
withdrawal removes exactly the contributions of its source, cluster, SEQ and step held by engines of the partition; a forwarded contribution
is applied at once and acknowledged. Both kinds are kept unanswered while a traffic generator drives their stack. An acknowledgement of a
forwarded one, which names the serving stack, is taken off, and the row is released with the last. (R138, R139, R141, R142, R145, R148,
R340) -/
def Obligations.contribution_results : Prop :=
  ∀ (p : Part) (s : State), running s p = true →
    (∀ m : Contribution, suEnabled s p = true → ownStack s p m.stack.toNat = true → engineWaits s m.stack.toNat = true →
      (m.fwd = false → exec (.contributionReceive p m) s = .next { s with stackReqs := s.stackReqs ++ [(p.val, .contrib m)] })
      ∧ (m.fwd = true → exec (.forwardedContributionReceive p m .none) s = .next { s with stackReqs := s.stackReqs ++ [(p.val, .fwd m)] }))
    ∧ (∀ (m : Contribution) (d : Shard), suEnabled s p = true → m.fwd = false → ownStack s p m.stack.toNat = true →
      engineWaits s m.stack.toNat = false →
      rowShardFor s p m.stack.toNat m.lshard.toNat m.table.toNat m.ver.toNat m.row.toNat m.shard.toNat m.digest.toNat = .ok d →
      contribFault s p m.stack.toNat m = none → (m.srcNode.toNat = ownNode s p ∨ hasRoute s p m.srcNode.toNat = true) →
      ∃ u, exec (.contributionReceive p m) s = .next u ∧ u.held = s.held ++ [⟨none, m.stack.toNat, m⟩]
        ∧ u.outbox = s.outbox ++ [⟨p, .contribAck m.srcNode.toNat (contribAckOf m (ownNode s p) false)⟩]
        ∧ u.sram = s.sram ∧ u.tiles = s.tiles
        ∧ (∀ j, verSlot s p m.table.toNat m.ver.toNat = some j →
            rd u p R.TABLE_DESC_INFLIGHT m.table.toNat j = min (rd s p R.TABLE_DESC_INFLIGHT m.table.toNat j + 1) (2 ^ 32 - 1)))
    ∧ (∀ m : Withdrawal, ∃ u, exec (.withdrawalReceive p m) s = .next u ∧ u = { s with regs := u.regs, held := u.held }
        ∧ ∀ x, x ∈ u.held ↔ x ∈ s.held ∧ ¬ (x.slot = none ∧ x.stack < 24 ∧ partOfStack s x.stack = p.val ∧ x.c.step = m.step
            ∧ x.c.srcNode = m.srcNode ∧ x.c.srcCluster = m.srcCluster ∧ x.c.seq = m.seq))
    ∧ (∀ (m : Contribution) (v : State), suEnabled s p = true → m.fwd = true → ownStack s p m.stack.toNat = true →
      engineWaits s m.stack.toNat = false →
      applyRow s p m.stack.toNat
        (rowShardFor s p m.stack.toNat m.lshard.toNat m.table.toNat m.ver.toNat m.row.toNat m.shard.toNat m.digest.toNat)
        m.table.toNat m.row.toNat m.ver.toNat m.step.toNat (coeffAt s p m.table.toNat m.step.toNat) (clipFor s p m.step.toNat)
        m.grad m.count.toNat = (v, none) →
      (m.srcNode.toNat = ownNode v p ∨ hasRoute v p m.srcNode.toNat = true) →
      ∃ u, exec (.forwardedContributionReceive p m .none) s = .next u
        ∧ u.outbox = v.outbox ++ [⟨p, .fwdAck m.srcNode.toNat m.stack.toNat m.row.toNat m.table.toNat m.step.toNat false⟩]
        ∧ u.hbm = v.hbm ∧ u.sram = v.sram ∧ u.shardCnt = v.shardCnt)
    ∧ (∀ (k : BitVec 5) (row : BitVec 40) (table : BitVec 10) (step : StepIx) (partner : Bool), (∀ x ∈ s.waitReqs, x.1 ≠ p.val) →
      ∃ u, exec (.forwardedAckReceive p k row table step partner) s = .next u
        ∧ u = { s with regs := u.regs, fwdOuts := u.fwdOuts, verHolds := u.verHolds }
        ∧ u.fwdOuts = ((s.fwdOuts.map (fun x => if ownStack s p x.stack = true ∧ x.serve = k.toNat ∧ x.row = row.toNat ∧ x.table = table.toNat ∧ x.step = step.toNat then
              (if partner then { x with partner := false } else { x with own := false }) else x)).filter (fun x => x.own || x.partner)))

/-- With no row waiting and no forwarded row outstanding the oldest step in hand becomes LAST_STEP with its status and APPLY_CTR is
incremented on the die; a good batch is accepted with result OK; a batch that is ready copies its rows; a copy that finds room is stored and
acknowledged as stored, one that finds none as not stored, and one for a stack that a traffic generator drives is kept; the last
acknowledgement of a row makes its Redirect entry ACTIVE, one of a copy that was not stored leaves the row where it is; a load snapshot
clears the counts of the partition and signals SNAP_CTR on its dies, or stays busy while a traffic generator drives a stack. (R149, R158,
R159, R160, R161, R162, R163) -/
def Obligations.engine_step_results : Prop :=
  ∀ (s : State),
    (∀ (k : Stack) (v : State) (n : Nat) (skip : Bool) (rest : List (Nat × Bool)), v = retryLocks s (partOfStack s k) →
      mapGet [] v.applying k = (n, skip) :: rest → clocked v (partOfStack s k) = true →
      (∀ x ∈ v.fwdOuts, ¬ (x.stack = k.val ∧ x.step = n)) → (∀ x ∈ v.rowLocks, ¬ (x.stack = k.val ∧ x.step = n)) →
      ∃ u, exec (.applyStepFinished k) s = .next u ∧ mapGet [] u.applying k = rest ∧ k.val ∈ u.stepped
        ∧ rd u 4 R.UPD_STATE_LAST_STEP k = n % 2 ^ 48 ∧ rd u 4 R.UPD_STATE_LAST_STATUS k = (if skip then St.STEP_SKIPPED else St.OK)
        ∧ u.incs = v.incs ++ [⟨.die (Fin.ofNat 4 (k.val / 6)) (Fin.ofNat 4096 (rd v (partOfStack s k) R.UPD_CFG_APPLY_CTR)), srcStack k 0, 1⟩]
        ∧ u = { v with regs := u.regs, applying := u.applying, stepped := u.stepped, incs := u.incs, batches := u.batches }
        ∧ RegsKept v u [fieldKey R.UPD_STATE_LAST_STEP 4 k 0, fieldKey R.UPD_STATE_LAST_STATUS 4 k 0])
    ∧ (∀ (port : HPort) (p k cnt a step : Nat) (bs : List Byte), ctrlAccess s port = some p → rdb s p R.MIG_STATUS_MIG_BUSY = false → migListWaits s p = false →
      k = rd s p R.MIG_ARG_STACK → cnt = rd s p R.MIG_ARG_ENTRY_CNT → a = rd s p R.MIG_ADDR_MIG_LIST → step = rd s p R.MIG_STEP_STEP →
      ownStack s p k = true → 0 < cnt → cnt ≤ 4096 → 0 < stepDiff step (rd s p R.ST_NOW_STEP) → a % 16 = 0 →
      checkDev s p a (16 * cnt) false = none → isExtern (devSpace s p a) = false → (s.batches.filter (fun b => b.stack == k)).length < 16 →
      readArray s p a (16 * cnt) [] = .ok bs → (∀ i, i < cnt → migRowRsvd bs i = false) →
      (∀ i, i < cnt → verCurrent s p (migRowOf bs i).table (migRowOf bs i).ver = true ∧ (migRowOf bs i).stack ≤ 23) →
      (mapGet [] s.redirects k).length + migReserved s p k + (((List.range cnt).map (migRowOf bs)).filter (migNeeds s p k)).length ≤ 32768 →
      ∃ u b, exec (.migrate port) s = .next u ∧ u.batches = s.batches ++ [b] ∧ b.stack = k ∧ b.id = rd s p R.MIG_ARG_BATCH_ID ∧ b.step = step
        ∧ b.rows = (List.range cnt).map (migRowOf bs) ∧ b.installed = false ∧ rd u p R.MIG_STATUS_MIG_RESULT = 0
        ∧ u = { s with regs := u.regs, batches := u.batches } ∧ RegsKept s u [fieldKey R.MIG_STATUS_MIG_RESULT p 0 0])
    ∧ (∀ (k : Stack) (batch : Byte) (ext : List (List Byte)) (b : MigBatch) (v : State) (rows : List MigRow),
      s.batches.find? (fun b => b.stack == k.val && b.id == batch.toNat && b.ready && !b.installed) = some b →
      running s (partOfStack s k) = true → batchWaits s (partOfStack s k) k b = false →
      migCopyRows s (partOfStack s k) k b.id b.rows ext = (v, rows, none) →
      (∀ x ∈ v.rowLocks, x.part ≠ partOfStack s k) → (∀ x ∈ v.waitReqs, x.1 ≠ partOfStack s k) →
      ∃ u, exec (.migrationCopyStart k batch ext .none) s = .next u ∧ u = { v with batches := u.batches }
        ∧ u.batches = v.batches.map (fun x => if x = b then { b with rows := rows, installed := rows.all (fun r => decide (2 ≤ r.phase)) } else x))
    ∧ (∀ (p : Part) (m : MigCopy), running s p = true → suEnabled s p = true → ownStack s p m.home.stack.toNat = true →
      engineWaits s m.home.stack.toNat = true →
      exec (.migrationCopyReceive p m) s = .next { s with stackReqs := s.stackReqs ++ [(p.val, .mig m)] })
    ∧ (∀ (p : Part) (m : MigCopy) (d : Shard), running s p = true → suEnabled s p = true → ownStack s p m.home.stack.toNat = true →
      engineWaits s m.home.stack.toNat = false →
      rowShardFor s p m.home.stack.toNat m.home.lshard.toNat m.table.toNat m.ver.toNat m.row.toNat m.shard.toNat m.digest.toNat = .ok d →
      (∀ v, createRow s m.home.stack.toNat d (rowHash s p m.table.toNat m.row.toNat) m.row.toNat (m.record.take (recSize d.fmt d.w)) = .ok (some v) →
        (m.src.toNat = ownNode v p ∨ hasRoute v p m.src.toNat = true) →
        ∃ u, exec (.migrationCopyReceive p m) s = .next u ∧ u.hbm = v.hbm ∧ u.sram = v.sram
          ∧ u.outbox = v.outbox ++ [⟨p, .migAck m.src.toNat m.srcStack.toNat m.row.toNat m.table.toNat m.ver.toNat true⟩])
      ∧ (createRow s m.home.stack.toNat d (rowHash s p m.table.toNat m.row.toNat) m.row.toNat (m.record.take (recSize d.fmt d.w)) = .ok none →
        (m.src.toNat = ownNode s p ∨ hasRoute s p m.src.toNat = true) →
        ∃ u, exec (.migrationCopyReceive p m) s = .next u ∧ u.hbm = s.hbm ∧ u.sram = s.sram
          ∧ u.outbox = s.outbox ++ [⟨p, .migAck m.src.toNat m.srcStack.toNat m.row.toNat m.table.toNat m.ver.toNat false⟩]))
    ∧ (∀ (k : Stack) (row : BitVec 40) (table : BitVec 10) (ver : BitVec 16) (b : MigBatch) (r : MigRow),
      s.batches.find? (fun b => b.stack == k.val && b.rows.any
        (fun r => r.row == row.toNat && r.table == table.toNat && r.ver == ver.toNat && r.phase == 1)) = some b →
      running s (partOfStack s k) = true → ackWaits s (partOfStack s k) k b = false → (∀ x ∈ s.rowLocks, x.part ≠ partOfStack s k) → (∀ x ∈ s.waitReqs, x.1 ≠ partOfStack s k) → r ∈ b.rows → r.row = row.toNat → r.table = table.toNat → r.ver = ver.toNat → r.phase = 1 →
      (∀ r' ∈ b.rows, r'.row = row.toNat → r'.table = table.toNat → r'.ver = ver.toNat → r'.phase = 1 → r' = r) →
      (r.acks ≤ 1 → ∃ u, exec (.migrationCopyAck k row table ver true) s = .next u
        ∧ (∃ e ∈ mapGet [] u.redirects k, e = ⟨r.row, r.table, r.ver, r.node, r.stack, r.lshard⟩)
        ∧ ∃ b' ∈ u.batches, b'.rows = b.rows.map (fun x => if x = r then { r with phase := 2, acks := 0 } else x))
      ∧ (1 < r.acks → ∃ u, exec (.migrationCopyAck k row table ver true) s = .next u ∧ u.redirects = s.redirects
        ∧ ∃ b' ∈ u.batches, b'.rows = b.rows.map (fun x => if x = r then { r with acks := r.acks - 1 } else x))
      ∧ ∃ u, exec (.migrationCopyAck k row table ver false) s = .next u ∧ u.redirects = s.redirects
        ∧ (∃ b' ∈ u.batches, b'.rows = b.rows.map (fun x => if x = r then { r with phase := 3 } else x))
        ∧ ∃ st, u.faultQ = s.faultQ ++ [⟨mkFault (srcStack k 0) K.MIG_TARGET_FULL (partOfStack s k) 0 0, st⟩])
    ∧ (∀ (port : HPort) (p : Nat) (val : Half), ctrlAccess s port = some p → p < 4 → val.getLsbD 0 = true → rdb s p R.LOAD_CTRL_SNAP_BUSY = false →
      ((∃ k ∈ stacksOf s p, engineWaits s k = true) → ∃ u, exec (.loadSnapshot port val) s = .next u
        ∧ OnlyRegs s u [fieldKey R.LOAD_CTRL_SNAP_CTR p 0 0, fieldKey R.LOAD_CTRL_SNAP_BUSY p 0 0] ∧ rd u p R.LOAD_CTRL_SNAP_BUSY = 1)
      ∧ ((∀ k ∈ stacksOf s p, engineWaits s k = false ∧ ∀ o b, stackOff k (rd s 4 R.SHARD_STATE_BASE_SS_ADDR k) (16 * 32768) = some o → b < 128 →
          blockGood s k (o + 4096 * b) = true) → keyLoaded s p = true →
      ∃ u, exec (.loadSnapshot port val) s = .next u
        ∧ (∀ k l, k < 24 → partOfStack s k = p → l < 32768 → mapGet (0, 0, 0) u.shardCnt (32768 * k + l) = (0, 0, 0))
        ∧ u.incs = s.incs ++ (diesOf s p).map (fun d => ⟨.die (Fin.ofNat 4 d) (Fin.ofNat 4096 (val.toNat / 16 % 4096)), srcTransport, 1⟩)))

namespace Sys2Proof.Claims

/-- A write of the controlling port of partition p that reaches its block (R13, R503). -/
abbrev CtrlWrite (s : State) (a : Access) (p : Nat) : Prop := ctrlAccess s a.port = some p ∧ accessSized a = true

/-- A message can leave for node n: the own node, or one with a route (R322). -/
abbrev CanReach (s : State) (p n : Nat) : Prop := n = ownNode s p ∨ hasRoute s p n = true

/-- A fault of kind k from unit `src` of partition p has been noted (R442). -/
def Noted (u : State) (src : Nat) (k : Kind) (p : Nat) : Prop := ∃ a d st, ⟨mkFault src k p a d, st⟩ ∈ u.faultQ

/-- No event waits and none is armed for value v; the step-decision unit is off. -/
abbrev QuietAt (s : State) (p v : Nat) : Prop :=
  firingOf s p = [] ∧ (∀ i, i < eventShare s → rd s p R.EVENT_STATE i = 1 → rd s p R.EVENT_EV_WHEN i ≠ v) ∧ rdb s p R.SD_CFG_SD_EN = false

/-- ST_NOW has taken value v: TARGET moves by GATE_INC, REPORTED falls, the tick adds 1 to TICK_CTR on each die (R42, R53, R56). -/
def TookValue (s u : State) (p v : Nat) : Prop :=
  stNow u p = v ∧ rd u p R.ST_GATE_TGT_TARGET = (rd s p R.ST_GATE_TGT_TARGET + rd s p R.ST_GATE_GATE_INC) % 2 ^ 32
    ∧ rd u p R.ST_STATUS_REPORTED = 0
    ∧ u.incs = s.incs ++ (if rdb s p R.ST_TICK_TICK_EN then (diesOf s p).map (fun d =>
        ⟨.die (Fin.ofNat 4 d) (Fin.ofNat 4096 (rd s p R.ST_TICK_TICK_CTR)), srcStepTime, 1⟩) else [])
    ∧ u.sram = s.sram ∧ u.hbm = s.hbm ∧ u.tiles = s.tiles

end Sys2Proof.Claims

/-- A ready member that has not reported sends one report of its next value to its parent. A report of a child for the next value is kept. A
ready master sends a beacon to each child in order and takes the next value; a member whose parent sends the next value of its master passes
the beacon on and takes it: TARGET moves by GATE_INC, REPORTED falls and the tick adds 1 on each die. A member that has reported and gets no
beacon goes to HOLD with BEACON_TIMEOUT. (R41, R42, R43, R46, R47, R53, R56, R58) -/
def Obligations.step_time_results : Prop :=
  ∀ (p : Part) (s : State), running s p = true → stEnabled s p = true →
    (isMaster s p = false → rdb s p R.ST_STATUS_REPORTED = false → stReady s p = true → CanReach s p (rd s p R.ST_TREE_PARENT_NODE) →
      ∃ u v, exec (.readinessReportSend p) s = .next u ∧ rd u p R.ST_STATUS_REPORTED = 1
        ∧ u.outbox = s.outbox ++ [⟨p, .report (rd s p R.ST_TREE_PARENT_NODE)
            ⟨ownNode12 s p, BitVec.ofNat 64 (nextVal s p), if nextDecides s p then some (voteOr s p) else none⟩⟩]
        ∧ u = emit v p (.report (rd s p R.ST_TREE_PARENT_NODE)
            ⟨ownNode12 s p, BitVec.ofNat 64 (nextVal s p), if nextDecides s p then some (voteOr s p) else none⟩)
        ∧ v = { s with regs := v.regs, reported := v.reported } ∧ RegsKept s v [fieldKey R.ST_STATUS_REPORTED p 0 0]
        ∧ mapGet [] v.reported p = mapGet [] s.reported p ++ [nextVal s p])
    ∧ (∀ m : Report, (stChildren s p).contains m.sender.toNat = true → (∀ r ∈ reportsFor s p m.value.toNat, r.1 ≠ m.sender.toNat) →
      m.value.toNat = nextVal s p → m.vote.isSome = nextDecides s p →
      ∃ u, exec (.readinessReportReceive p m) s = .next u ∧ u = { s with reports := u.reports }
        ∧ reportsFor u p m.value.toNat = reportsFor s p m.value.toNat ++ [(m.sender.toNat, m.vote)])
    ∧ (isMaster s p = true → stReady s p = true → nextVal s p < 2 ^ 64 → QuietAt s p (nextVal s p) →
      (∀ c ∈ stChildren s p, CanReach s p c) →
      ∃ u, exec (.stMasterAdvance p .none) s = .next u ∧ TookValue s u p (nextVal s p)
        ∧ u.outbox = s.outbox ++ (stChildren s p).map (fun c => ⟨p, .beacon c
            ⟨ownNode12 s p, BitVec.ofNat 64 (nextVal s p), ownNode12 s p, nextDecides s p, nextDecides s p && voteOr s p⟩⟩))
    ∧ (∀ m : Beacon, isMaster s p = false → m.sender.toNat = rd s p R.ST_TREE_PARENT_NODE → m.master.toNat = rd s p R.ST_TREE_MASTER_NODE →
      m.st.toNat = nextVal s p → m.decision = nextDecides s p → QuietAt s p (nextVal s p) → (∀ c ∈ stChildren s p, CanReach s p c) →
      ∃ u, exec (.beaconReceive p m .none) s = .next u ∧ TookValue s u p (nextVal s p)
        ∧ u.outbox = s.outbox ++ (stChildren s p).map (fun c => ⟨p, .beacon c { m with sender := ownNode12 s p }⟩))
    ∧ (isMaster s p = false → rdb s p R.ST_STATUS_REPORTED = true →
      ∃ u, exec (.beaconTimeout p) s = .next u ∧ isHold u p = true ∧ Noted u srcStepTime K.BEACON_TIMEOUT p)

/-- A valid write of ST_CTRL takes effect; in a context that it enables, or that is enabled and whose next value it changes, REPORTED then
says whether that value has been reported. One that would set ENABLE with a bad phase list, tree or gate, or against the conditions of the
step-decision unit, leaves ENABLE clear and sets CFG_ERR; a bad one in an enabled context only sets CFG_ERR. ST_NOW is written in HOLD, sets
DECIDED to one step before and misses the armed entries that are not later; outside HOLD the write is discarded. ARM of an entry with a
kind, a later Step Time, a phase of the list and, for a decision under SD_EN, a phase after collection makes it ARMED (the first
COMMIT_DECIDE sets DECIDING), another is refused with EVENT_REJECTED; DISARM of an armed entry frees it. (R41, R43, R50, R52, R55, R142,
R300, R308) -/
def Obligations.step_time_writes : Prop :=
  ∀ (a : Access) (p : Nat) (s : State), CtrlWrite s a p →
    (a.off = 0x200008 → a.size = 4 → rdb s p R.ST_CTRL_LOCK = false →
      (stBreach (wr s p R.ST_CTRL_PHASE_CNT (bitsOf a.val.toNat 8 5)) p = false →
        (stEnabled s p = true ∨ bitAt a.val.toNat 0 = false ∨ sdBreach (wr s p R.ST_CTRL_PHASE_CNT (bitsOf a.val.toNat 8 5)) p = false) →
        ∃ u, exec (.stEnableWrite a) s = .next u
          ∧ OnlyRegs s u [fieldKey R.ST_STATUS_REPORTED p 0 0, fieldKey R.ST_CTRL_ENABLE p 0 0, fieldKey R.ST_CTRL_ROLE p 0 0, fieldKey R.ST_CTRL_PHASE_CNT p 0 0, fieldKey R.ST_CTRL_LOCK p 0 0]
          ∧ rd u p R.ST_CTRL_ENABLE = bitsOf a.val.toNat 0 1 ∧ rd u p R.ST_CTRL_ROLE = bitsOf a.val.toNat 1 1
          ∧ rd u p R.ST_CTRL_PHASE_CNT = bitsOf a.val.toNat 8 5 ∧ rd u p R.ST_CTRL_LOCK = bitsOf a.val.toNat 31 1
          ∧ rd u p R.ST_STATUS_REPORTED = (if (stEnabled s p = true ∧ nextVal u p ≠ nextVal s p)
                ∨ (stEnabled s p = false ∧ bitAt a.val.toNat 0 = true) then ((mapGet [] s.reported p).contains (nextVal u p)).toNat
              else rd s p R.ST_STATUS_REPORTED))
      ∧ (stBreach (wr s p R.ST_CTRL_PHASE_CNT (bitsOf a.val.toNat 8 5)) p = true → stEnabled s p = true →
        ∃ u, exec (.stEnableWrite a) s = .next u ∧ OnlyRegs s u [fieldKey R.ST_STATUS_CFG_ERR p 0 0] ∧ rd u p R.ST_STATUS_CFG_ERR = 1)
      ∧ ((stBreach (wr s p R.ST_CTRL_PHASE_CNT (bitsOf a.val.toNat 8 5)) p = true ∨ sdBreach (wr s p R.ST_CTRL_PHASE_CNT (bitsOf a.val.toNat 8 5)) p = true) →
        stEnabled s p = false → bitAt a.val.toNat 0 = true →
        ∃ u, exec (.stEnableWrite a) s = .next u ∧ rd u p R.ST_CTRL_ENABLE = 0 ∧ rd u p R.ST_STATUS_CFG_ERR = 1))
    ∧ (a.off = 0x200000 → a.size = 8 →
      (isHold s p = true → ∃ u, exec (.stNowWrite a) s = .next u ∧ stNow u p = a.val.toNat
        ∧ rd u p R.UPD_DECIDED_DECIDED_STEP = (a.val.toNat / 65536 + 2 ^ 48 - 1) % 2 ^ 48
        ∧ (∀ i, i < eventShare s → rd u p R.EVENT_STATE i
            = if rd s p R.EVENT_STATE i = 1 ∧ rd s p R.EVENT_EV_WHEN i ≤ a.val.toNat then 3 else rd s p R.EVENT_STATE i)
        ∧ u.sram = s.sram ∧ u.hbm = s.hbm ∧ u.tiles = s.tiles)
      ∧ (isHold s p = false → exec (.stNowWrite a) s = .next s))
    ∧ (∀ i, i < eventShare s → a.off = 0x201008 + 32 * i → a.size = 4 →
      (rd s p R.EVENT_STATE i ≠ 1 → bitAt a.val.toNat 16 = true →
        ∃ u, exec (.eventArm a) s = .next u ∧ rd u p R.EVENT_KIND i = bitsOf a.val.toNat 0 8
          ∧ RegsKept s u [fieldKey R.EVENT_KIND p i 0, fieldKey R.EVENT_STATE p i 0, fieldKey R.EVENT_ERR p i 0, fieldKey R.SD_STATUS_DECIDING p 0 0]
          ∧ u = { s with regs := u.regs, faultQ := u.faultQ }
          ∧ (if 1 ≤ bitsOf a.val.toNat 0 8 ∧ bitsOf a.val.toNat 0 8 ≤ 9 ∧ stNow s p < rd s p R.EVENT_EV_WHEN i
                ∧ (phases s p).contains (rd s p R.EVENT_EV_WHEN i % 65536) = true
                ∧ (bitsOf a.val.toNat 0 8 = 1 → rdb s p R.SD_CFG_SD_EN = true → rd s p R.SD_CFG_COLLECT_PHASE < rd s p R.EVENT_EV_WHEN i % 65536) then
              rd u p R.EVENT_STATE i = 1 ∧ u.faultQ = s.faultQ
                ∧ rd u p R.SD_STATUS_DECIDING = if bitsOf a.val.toNat 0 8 = 1 then 1 else rd s p R.SD_STATUS_DECIDING
            else rd u p R.EVENT_STATE i = rd s p R.EVENT_STATE i ∧ rd u p R.EVENT_ERR i = 1 ∧ Noted u srcStepTime K.EVENT_REJECTED p))
      ∧ (rd s p R.EVENT_STATE i = 1 → bitAt a.val.toNat 17 = true → firingOf s p = [] →
        ∃ u, exec (.eventDisarm a) s = .next u ∧ OnlyRegs s u [fieldKey R.EVENT_STATE p i 0, fieldKey R.EVENT_ERR p i 0]
          ∧ rd u p R.EVENT_STATE i = 0))

/-- A HOTROW event that swaps acts once no fetch of its set runs: the active buffer changes. MIGRATION_RETIRE acts once its batch is
INSTALLED: the old entries are cleared and the batch is gone. EPOCH_CLOSE acts once the applies and the gate are done: without partners the
epoch closes at once, with partners it waits for an acknowledgement of each, the last of which closes it. The entry is DONE when its event
acts. (R54, R55, R118, R161, R345, R346) -/
def Obligations.waiting_event_results : Prop :=
  ∀ (p : Part) (s : State) (e : FiredEv), firingOf s p = [e] → running s p = true → e.idx < 256 →
    (e.kind = 4 → bitAt e.arg0 0 = true → e.target < 32 → hotSwapReady s p e.target = true →
      ∃ u, exec (.hotrowSwap p) s = .next u ∧ firingOf u p = [] ∧ rd u p R.EVENT_STATE e.idx = 2
        ∧ rd u p R.HOTROW_SET_ACTIVE_BUF e.target = 1 - rd s p R.HOTROW_SET_ACTIVE_BUF e.target
        ∧ u = { s with regs := u.regs, firing := u.firing }
        ∧ RegsKept s u [fieldKey R.EVENT_STATE p e.idx 0, fieldKey R.HOTROW_SET_ACTIVE_BUF p e.target 0])
    ∧ (∀ (b : MigBatch) (v r : State), e.kind = 5 → ownStack s p e.target = true → retireBatch s e = some b → b.installed = true →
      engineWaits s b.stack = false →
      v = eventEcho (wr (setFiring s p []) p R.EVENT_STATE 2 e.idx) p e →
      retireRows { v with batches := s.batches.filter (fun x => x != b) } p b.stack b b.rows = (r, none) →
      exec (.migrationRetire p) s = .next (setFiring r p []))
    ∧ (∀ rs, e.kind = 6 → mapFind s.epochWait p = none → rsEnabled s p = true → keyLoaded s p = true → appliesDone s p = true → gateMet s p = true →
      stacksFree s p = true → e.target = (rd s p R.RS_EPOCH_LAST_EPOCH + 1) % 2 ^ 32 → listRegions s p = (rs, none) → journals s p = false →
      ∃ u, exec (.epochClose p) s = .next u ∧ rd u p R.EVENT_STATE e.idx = 2
        ∧ rd u p R.RS_EPOCH_TGT_TARGET = (rd s p R.RS_EPOCH_TGT_TARGET + rd s p R.RS_EPOCH_CFG_GATE_INC) % 2 ^ 32
        ∧ u.sram = s.sram ∧ u.hbm = s.hbm ∧ u.tiles = s.tiles
        ∧ (allPartners s p (ownNode s p) = [] → u.outbox = s.outbox)
        ∧ ((allPartners s p (ownNode s p)).filter (notLapsed s p) = [] → firingOf u p = [] ∧ rd u p R.RS_EPOCH_LAST_EPOCH = e.target
          ∧ rd u p R.RS_EPOCH_STEP_EPOCH_STEP = epochStep s p % 2 ^ 48
          ∧ u.incs = s.incs ++ (diesOf s p).map (fun d =>
              ⟨.die (Fin.ofNat 4 d) (Fin.ofNat 4096 (rd s p R.RS_EPOCH_CFG_DONE_CTR)), srcResilience, 1⟩))
        ∧ ((allPartners s p (ownNode s p)).filter (notLapsed s p) ≠ [] → firingOf u p = [e]
          ∧ rd u p R.RS_EPOCH_LAST_EPOCH = rd s p R.RS_EPOCH_LAST_EPOCH
          ∧ mapFind u.epochWait p = some (e.target, epochStep s p, ((allPartners s p (ownNode s p)).filter (notLapsed s p)).length)))
    ∧ (∀ ep c n, e.kind = 6 → mapFind s.epochWait p = some (ep, c, n) →
      (1 < n → exec (.epochCloseAckReceive p) s = .next { s with epochWait := mapSet s.epochWait p (ep, c, n - 1) })
      ∧ (n = 1 → ∃ u, exec (.epochCloseAckReceive p) s = .next u ∧ firingOf u p = []
        ∧ u = { s with regs := u.regs, firing := u.firing, epochWait := mapErase s.epochWait p, incs := u.incs }
        ∧ RegsKept s u [fieldKey R.RS_EPOCH_LAST_EPOCH p 0 0, fieldKey R.RS_EPOCH_STEP_EPOCH_STEP p 0 0]
        ∧ rd u p R.RS_EPOCH_LAST_EPOCH = ep % 2 ^ 32 ∧ rd u p R.RS_EPOCH_STEP_EPOCH_STEP = c % 2 ^ 48
        ∧ u.incs = s.incs ++ (diesOf s p).map (fun d =>
            ⟨.die (Fin.ofNat 4 d) (Fin.ofNat 4096 (rd s p R.RS_EPOCH_CFG_DONE_CTR)), srcResilience, 1⟩)))

namespace Sys2Proof.Claims

/-- The unit stands in RESULT with total (a, f, b): the clip factor and flag of R306, and one signal of DONE_FCTR. -/
def EnteredResult (s u : State) (p : Nat) (a : Half) (f : Nat) (b : Bool) : Prop :=
  sdState u p = 3 ∧ rd u p R.SD_RESULT_SUMSQ = a.toNat ∧ rd u p R.SD_RESULT_NF_NONFIN = f % 2 ^ 32
    ∧ rd u p R.SD_RESULT_NF_SKIP_REQ_ANY = b.toNat
    ∧ rd u p R.SD_STATUS_FLAG = (f != 0 || !fIsFinite a).toNat
    ∧ rd u p R.SD_RESULT_CLIP = (if f ≠ 0 ∨ fIsFinite a = false then (0 : Half)
        else if rd s p R.SD_CLIP_MAX_CLIP_MAX % 2 ^ 31 = 0 ∨ fLe (fSqrt a) (BitVec.ofNat 32 (rd s p R.SD_CLIP_MAX_CLIP_MAX)) = true then one32
        else fDiv (BitVec.ofNat 32 (rd s p R.SD_CLIP_MAX_CLIP_MAX)) (fSqrt a)).toNat
    ∧ rd u p R.ST_STATUS_SKIP_VOTE = (if f ≠ 0 ∨ fIsFinite a = false ∨ b = true then 1 else rd s p R.ST_STATUS_SKIP_VOTE)
    ∧ u.incs = s.incs ++ [⟨.fab (Fin.ofNat 4 p) (Fin.ofNat 1024 (rd s p R.SD_CTR_DONE_FCTR)), srcTransport, 1⟩]
    ∧ u.hbm = s.hbm ∧ u.tiles = s.tiles

end Sys2Proof.Claims

/-- A norm pass stores its sum; with every pass done the local partial is written and the unit reduces. With the partials of all children a
member sends its subtree partial to its parent once, and the master enters RESULT; the result of the parent puts a member into RESULT.
RESULT shows the totals, the clip factor and the flag, sets the vote when flagged or asked, signals DONE_FCTR once and sends the result to
each child. A timeout puts the partition into HOLD; VOTE_SET sets the vote. (R302, R303, R304, R305, R306, R307, R519) -/
def Obligations.decision_results : Prop :=
  (∀ (k : Stack) (s : State) (x : NormPass), running s (partOfStack s k) = true → mapFind s.norms k = some x → x.done = false →
      sdState s (partOfStack s k) = 1 → engineWaits s k = false →
      ∃ u y, exec (.normPassDone k) s = .next u ∧ u = { s with norms := u.norms } ∧ mapFind u.norms k = some y ∧ y.done = true ∧ y.step = x.step
        ∧ y.sumsq = (normOf s (partOfStack s k) k x.step).1 ∧ y.nonfin.toNat = (normOf s (partOfStack s k) k x.step).2 % 2 ^ 32
        ∧ ∀ k', k' ≠ k.val → mapFind u.norms k' = mapFind s.norms k')
    ∧ (∀ (p : Part) (s : State), running s p = true →
      (sdState s p = 1 → (∀ k ∈ stacksOf s p, ∀ x, mapFind s.norms k = some x → x.done = true) →
        ∃ u, exec (.sdLocalPartial p) s = .next u ∧ sdState u p = 2 ∧ rd u p R.SD_LOCAL_LOCAL_SUMSQ = (sdLocalOf s p).1.toNat
          ∧ rd u p R.SD_LOCAL_LOCAL_NONFIN = (sdLocalOf s p).2.1 % 2 ^ 32
          ∧ u = { s with regs := u.regs, sdSkip := if (sdLocalOf s p).2.2 then s.sdSkip ++ [p.val] else s.sdSkip }
          ∧ RegsKept s u [fieldKey R.SD_LOCAL_LOCAL_SUMSQ p 0 0, fieldKey R.SD_LOCAL_LOCAL_NONFIN p 0 0, fieldKey R.SD_STATUS_SD_STATE p 0 0])
      ∧ (∀ a f b, sdState s p = 2 → p.val ∉ s.sdSent → subtreeOf s p = some (a, f, b) →
        (isMaster s p = true → ∃ u, exec (.sdSubtreeSend p) s = .next u ∧ EnteredResult s u p a f b
          ∧ ((∀ c ∈ stChildren s p, CanReach s p c) → u.outbox = s.outbox ++ (stChildren s p).map (fun c => ⟨p, .sdResult c
              ⟨BitVec.ofNat 12 (ownNode s p), BitVec.ofNat 48 (sdStep s p), a, BitVec.ofNat 32 f, b⟩⟩)))
        ∧ (isMaster s p = false → CanReach s p (rd s p R.ST_TREE_PARENT_NODE) →
          ∃ u, exec (.sdSubtreeSend p) s = .next u ∧ u.sdSent = s.sdSent ++ [p.val]
            ∧ u = emit { s with sdSent := s.sdSent ++ [p.val] } p (.sdPartial (rd s p R.ST_TREE_PARENT_NODE)
                ⟨BitVec.ofNat 12 (ownNode s p), BitVec.ofNat 48 (sdStep s p), a, BitVec.ofNat 32 f, b⟩)
            ∧ u.outbox = s.outbox ++ [⟨p, .sdPartial (rd s p R.ST_TREE_PARENT_NODE)
                ⟨BitVec.ofNat 12 (ownNode s p), BitVec.ofNat 48 (sdStep s p), a, BitVec.ofNat 32 f, b⟩⟩]))
      ∧ (∀ m : SdMsg, stepDiff m.step.toNat (sdStep s p) = 0 →
        ((sdState s p = 1 ∨ sdState s p = 2) → (stChildren s p).contains m.sender.toNat = true →
          ∃ u, exec (.sdPartialReceive p m) s = .next u ∧ u = { s with sdParts := u.sdParts } ∧ partialFrom u p m.sender.toNat = some m
            ∧ ∀ n, n ≠ m.sender.toNat → partialFrom u p n = partialFrom s p n)
        ∧ (sdState s p = 2 → isMaster s p = false → m.sender.toNat = rd s p R.ST_TREE_PARENT_NODE →
          ∃ u, exec (.sdResultReceive p m) s = .next u ∧ EnteredResult s u p m.sumsq m.nonfin.toNat m.skipReq))
      ∧ ((sdState s p = 1 ∨ sdState s p = 2) →
        ∃ u, exec (.normTimeout p) s = .next u ∧ isHold u p = true ∧ sdState u p = 0 ∧ Noted u srcTransport K.NORM_TIMEOUT p))
    ∧ (∀ (port : HPort) (p : Nat) (s : State), ctrlAccess s port = some p →
      ∃ u, exec (.voteSet port) s = .next u ∧ OnlyRegs s u [fieldKey R.ST_STATUS_SKIP_VOTE p 0 0] ∧ rd u p R.ST_STATUS_SKIP_VOTE = 1)

namespace Sys2Proof.Claims

/-- The increments of counter c that u no longer holds are the first eight; the later ones wait in the unit, and other counters' stay. -/
def CounterTook (s u : State) (c : CtrRef) : Prop :=
  u.incWait.filter (fun x => x.ref = c) = (incOrder s c).drop 8 ∧ u.incs.filter (fun x => x.ref = c) = []
    ∧ u.incs.filter (fun x => x.ref ≠ c) = s.incs.filter (fun x => x.ref ≠ c)
    ∧ u.incWait.filter (fun x => x.ref ≠ c) = s.incWait.filter (fun x => x.ref ≠ c)

end Sys2Proof.Claims

/-- In a READY partition a counter takes the first eight increments of its order (those that wait in its unit, then those that reach it now
by ascending source ID), added modulo 2^32; the others wait in the unit, and none is lost. In HOLD the increments are discarded and counted
and the counter keeps its value. An admitted remote increment, or a signal of the host with a good name and an increment, joins the waiting
ones. A counter write through BAR0 in HOLD sets the counter; in READY it is refused. Waits of cores and streams that expire in one cycle are
counted; the one of the lowest source ID is recorded if none is, SYNC_TIMEOUT names its unit, and the partition is in HOLD. (R255, R256,
R257, R262, R263, R264, R265, R266, R268) -/
def Obligations.counter_results : Prop :=
  (∀ (c : CtrRef) (s : State), clocked s (ctrPart s c) = true →
      (isReady s (ctrPart s c) = true → ∃ u, exec (.incrementApply c) s = .next u ∧ u = { s with
            regs := u.regs, incs := u.incs, incWait := u.incWait, hqueues := u.hqueues }
        ∧ ctrVal u c = (ctrVal s c + (((incOrder s c).take 8).map (fun x => x.amount.toNat)).sum) % 2 ^ 32
        ∧ (∀ c', c' ≠ c → ctrVal u c' = ctrVal s c') ∧ CounterTook s u c)
      ∧ (isHold s (ctrPart s c) = true → incOrder s c ≠ [] →
        ∃ u, exec (.incrementApply c) s = .next u ∧ (∀ c', ctrVal u c' = ctrVal s c') ∧ CounterTook s u c
          ∧ rd u (ctrPart s c) R.SYNC_STATUS_HOLD_DROPS
              = min (rd s (ctrPart s c) R.SYNC_STATUS_HOLD_DROPS + min 8 (incOrder s c).length) (2 ^ 32 - 1)
          ∧ ctrPart s c ∈ u.incDropped))
    ∧ (∀ (p : Part) (m : RemoteInc) (s : State), s.safe = false → m.admitted = true → m.index.toNat < fabShare s →
      exec (.remoteIncrementReceive p m) s = .next { s with incs := s.incs ++ [⟨.fab p (Fin.ofNat 1024 m.index.toNat), m.srcUnit.toNat, m.amount⟩] })
    ∧ (∀ (port : HPort) (v : Word) (p : Nat) (c : CtrRef) (s : State), ctrlAccess s port = some p → bitAt v.toNat 63 = false →
      bitsOf v.toNat 32 31 ≠ 0 → bitsOf v.toNat 14 2 < 2 → resolveName s p (BitVec.ofNat 32 (bitsOf v.toNat 0 32)) = .ctr c →
      exec (.syncHostSig port v) s = .next { s with incs := s.incs ++ [⟨c, srcHub 22 0, BitVec.ofNat 32 (bitsOf v.toNat 32 31)⟩] })
    ∧ (∀ (a : Access) (p : Nat) (c : CtrRef) (s : State), CtrlWrite s a p → a.size = 4 → counterAt s p a.off = some c →
      (isHold s p = true → ∃ u, exec (.counterWrite false a) s = .next u ∧ ctrVal u c = bitsOf a.val.toNat 0 32
        ∧ u = { s with regs := u.regs, hqueues := u.hqueues } ∧ (∀ c', c' ≠ c → ctrVal u c' = ctrVal s c'))
      ∧ (isReady s p = true → dbgAuth s p = false → ∃ u, exec (.counterWrite false a) s = .next u ∧ u.regs = s.regs
        ∧ Noted u (ctrUnit c) K.COUNTER_WRITE_REFUSED p))
    ∧ (∀ (t : Tile) (dma : Bool) (also others : List (Tile × Bool)) (w : Tile × Bool) (s : State) (name target : Half) (c : CtrRef),
    partOfTile s t < 4 → openWait s t dma ≠ none →
    others = (also.filter (fun w => partOfTile s w.1 == partOfTile s t && (openWait s w.1 w.2).isSome && w != (t, dma))).dedup →
    w ∈ (t, dma) :: others → (∀ x ∈ (t, dma) :: others, waitSource w ≤ waitSource x) → openWait s w.1 w.2 = some (name, target) →
    resolveName s (partOfTile s t) name = .ctr c → running s (partOfTile s t) = true →
    ∃ u, exec (.syncTimeout t dma also) s = .next u ∧ isHold u (partOfTile s t) = true
      ∧ rd u (partOfTile s t) R.SYNC_STATUS_TO_COUNT = min (rd s (partOfTile s t) R.SYNC_STATUS_TO_COUNT + 1 + others.length) (2 ^ 16 - 1)
      ∧ rd u (partOfTile s t) R.SYNC_TO_VALUE_TO_VALID = (if rdb s (partOfTile s t) R.SYNC_TO_VALUE_TO_VALID then rd s (partOfTile s t) R.SYNC_TO_VALUE_TO_VALID else 1)
      ∧ (rdb s (partOfTile s t) R.SYNC_TO_VALUE_TO_VALID = false →
        rd u (partOfTile s t) R.SYNC_TO_INFO_TO_NAME = name.toNat ∧ rd u (partOfTile s t) R.SYNC_TO_INFO_TO_TARGET = target.toNat
        ∧ rd u (partOfTile s t) R.SYNC_TO_VALUE_TO_VALUE = ctrVal s c % 2 ^ 32 ∧ rd u (partOfTile s t) R.SYNC_TO_VALUE_TO_TILE = w.1.val
        ∧ rd u (partOfTile s t) R.SYNC_TO_VALUE_TO_DMA = w.2.toNat)
      ∧ Noted u (waitSource w) K.SYNC_TIMEOUT (partOfTile s t))

/-- START in HOLD with a good configuration runs the generators of PC_EN: RUNNING is set, DONE and MISCOMPARE are clear, DONE_CNT is 0, and
only bytes that its run with TG_COUNT may write become unknown. In another state START is refused. STOP lets them end. A generator that ends
leaves RUNNING, stores its count, and with mismatches its error count, the first address and the bits that differ from its data; the last
one sets DONE, and what waited for the stack is served. (R290, R291, R292, R293) -/
def Obligations.traffic_generator_results : Prop :=
  (∀ (port : HPort) (k : Stack) (s : State), ctrlAccess s port = some (partOfStack s k) →
      (isHold s (partOfStack s k) = true → rdb s 4 R.TG_CTRL_RUNNING k = false → (∀ g ∈ tgMask s k, tgCfgOk s k g = true) → tgMask s k ≠ [] →
        rd s 4 R.TG_MASK_PC_EN k < 2 ^ 64 →
        ∃ u, exec (.tgStart port k) s = .next u ∧ rdb u 4 R.TG_CTRL_RUNNING k = true ∧ rdb u 4 R.TG_CTRL_DONE k = false
          ∧ rdb u 4 R.TG_CTRL_MISCOMPARE k = false ∧ (∀ g ∈ tgMask s k, rd u 4 R.TG_DONE_CNT_DONE_CNT k g = 0)
          ∧ mapGet 0 u.tgRun k = rd s 4 R.TG_MASK_PC_EN k ∧ k.val ∉ u.tgStop
          ∧ (∀ a, (∀ g ∈ tgMask s k, rd s 4 R.TG_CFG_RD_PCT k g < 100 → tgReaches s k g a = false) → cellGet u.hbm a = cellGet s.hbm a)
          ∧ u.sram = s.sram ∧ u.tiles = s.tiles)
      ∧ (isHold s (partOfStack s k) = false →
        ∃ u, exec (.tgStart port k) s = .next u ∧ u = { s with faultQ := u.faultQ } ∧ Noted u (srcStack k 2) K.TG_REFUSED (partOfStack s k))
      ∧ (rdb s 4 R.TG_CTRL_RUNNING k = true → ∃ u, exec (.tgStop port k) s = .next u ∧ u = { s with tgStop := u.tgStop } ∧ k.val ∈ u.tgStop))
    ∧ (∀ (k : Stack) (g : Fin 64) (r : TgResult) (s : State), tgEnds s k g r = true →
      ∃ u, exec (.tgDone k g r) s = .next (if mapGet 0 s.tgRun k - 2 ^ g.val ≠ 0 then u else serveStack u k) ∧ rd u 4 R.TG_DONE_CNT_DONE_CNT k g = r.accesses.toNat
        ∧ mapGet 0 u.tgRun k = mapGet 0 s.tgRun k - 2 ^ g.val
        ∧ rdb u 4 R.TG_CTRL_RUNNING k = (mapGet 0 s.tgRun k - 2 ^ g.val != 0) ∧ rdb u 4 R.TG_CTRL_DONE k = (mapGet 0 s.tgRun k - 2 ^ g.val == 0)
        ∧ (r.errs = 0 → u.faultQ = s.faultQ ∧ rd u 4 R.TG_ERRS_ERRS k g = rd s 4 R.TG_ERRS_ERRS k g)
        ∧ (r.errs ≠ 0 → rd u 4 R.TG_ERRS_ERRS k g = min (rd s 4 R.TG_ERRS_ERRS k g + r.errs.toNat) (2 ^ 32 - 1)
          ∧ rd u 4 R.TG_ERR_ADDR_ERR_ADDR k g = r.errAddr.toNat ∧ rd u 4 R.TG_ERR_BITS_ERR_BITS k g = (tgData s k g r.errAddr.toNat ^^^ r.readWord).toNat
          ∧ rdb u 4 R.TG_CTRL_MISCOMPARE k = true ∧ Noted u (srcStack k (0x40 + g)) K.TG_MISCOMPARE (partOfStack s k))
        ∧ u.sram = s.sram ∧ u.hbm = s.hbm ∧ u.tiles = s.tiles)

namespace Sys2Proof.Claims

/-- The entry once a matching HELLO is taken: a fresh handshake whose transcript holds HELLO in both directions (R318, R431). -/
def helloTaken (s : State) (k : Nat) : State :=
  tickFree (setSess s k { abandonKa (sess s k) with stage := 1, tag := s.freeCtr, trans := helloTrans s k })

/-- What this partition answers KA1 and KA2 with, signed over the transcript so far (R431). -/
def ka2Answer (s : State) (k : Nat) (m : PeerProof) : KaMsg := proofMsg s k ((sess s k).trans ++ (ka1Of m).bytes) (ka1Msg s)
def ka3Answer (s : State) (k : Nat) (m : PeerProof) : KaMsg :=
  proofMsg (peerVerifies s k m).1 k ((sess s k).trans ++ (peerMsg m).bytes) {}

/-- Every session of port f is closed. -/
def AllClosed (u : State) (f : Nat) : Prop := ∀ k ∈ portSessions f, sessOpen u k = false

/-- HELLO has left on each valid entry of port f that has no session, in order (R312, R318). -/
def HelloSent (s u : State) (f : Nat) : Prop :=
  u.outbox = s.outbox ++ ((portSessions f).filter (fun k => peerValid s k && !sessOpen s k)).map (fun k =>
    ⟨sessPart s k, .link (k / 32) (k % 32) .hello⟩)

end Sys2Proof.Claims

/-- Enabling a DISABLED port with FAB_EN set starts training; disabling any port, and retraining one that runs half, closes its sessions.
Training over all lanes leads to UP, over a half with HALF_OK to UP_HALF with LINK_DEGRADED, and HELLO leaves on each valid entry without a
session. Each training that fails is counted, every eighth is noted. Losing a lane closes the sessions, counts LINK_DOWN and trains again.
(R310, R311, R312) -/
def Obligations.fabric_port_results : Prop :=
  (∀ (port : HPort) (f : FPort) (s : State), ctrlAccess s port = some (partOfFPort s f) →
      (portState s f = 0 → fabEn s (partOfFPort s f) = true → ∃ u, exec (.portEnable port f) s = .next u
        ∧ OnlyRegs s u [fieldKey R.FP_CTRL_EN 4 f 0, fieldKey R.FP_STATUS_PSTATE 4 f 0] ∧ rd u 4 R.FP_CTRL_EN f = 1 ∧ portState u f = 1)
      ∧ (portState s f ≠ 0 → ∃ u, exec (.portDisable port f) s = .next u ∧ rd u 4 R.FP_CTRL_EN f = 0 ∧ portState u f = 0
        ∧ rd u 4 R.FP_STATUS_LANE_LOCK f = 0 ∧ AllClosed u f ∧ u.sram = s.sram ∧ u.hbm = s.hbm ∧ u.tiles = s.tiles ∧ u.outbox = s.outbox)
      ∧ (portState s f = 3 → ∃ u, exec (.retrain port f) s = .next u ∧ portState u f = 1 ∧ AllClosed u f
        ∧ u.sram = s.sram ∧ u.hbm = s.hbm ∧ u.tiles = s.tiles ∧ u.outbox = s.outbox)
      ∧ (portState s f ≠ 3 → exec (.retrain port f) s = .next s))
    ∧ (∀ (f : FPort) (lanes : BitVec 4) (s : State), s.safe = false →
      (portState s f = 1 → f.val ∉ s.fabBad →
        (lanes = 0xF#4 → ∃ u, exec (.linkTrained f lanes) s = .next u ∧ u = { s with regs := u.regs, outbox := u.outbox }
          ∧ RegsKept s u [fieldKey R.FP_STATUS_LANE_LOCK 4 f 0, fieldKey R.FP_STATUS_PSTATE 4 f 0]
          ∧ portState u f = 2 ∧ rd u 4 R.FP_STATUS_LANE_LOCK f = 15 ∧ HelloSent s u f)
        ∧ ((lanes = 0x3#4 ∨ lanes = 0xC#4) → rdb s 4 R.FP_CTRL_HALF_OK f = true → ∃ u, exec (.linkTrained f lanes) s = .next u
          ∧ portState u f = 3 ∧ rd u 4 R.FP_STATUS_LANE_LOCK f = lanes.toNat ∧ HelloSent s u f
          ∧ Noted u (srcFPort f) K.LINK_DEGRADED (partOfFPort s f))
        ∧ (lanes ≠ 0xF#4 → rdb s 4 R.FP_CTRL_HALF_OK f = false → ∃ u, exec (.linkTrained f lanes) s = .next u
          ∧ OnlyRegs s u [fieldKey R.FP_STATUS_LANE_LOCK 4 f 0]))
      ∧ (portState s f = 1 → ∃ u, exec (.linkTrainTimeout f) s = .next u ∧ u = { s with regs := u.regs, faultQ := u.faultQ, trainFails := u.trainFails }
        ∧ RegsKept s u [fieldKey R.FP_TRAIN_TRAIN_FAILS 4 f 0] ∧ mapGet 0 u.trainFails f = mapGet 0 s.trainFails f + 1
        ∧ rd u 4 R.FP_TRAIN_TRAIN_FAILS f = min (rd s 4 R.FP_TRAIN_TRAIN_FAILS f + 1) (2 ^ 16 - 1)
        ∧ (mapGet 0 u.trainFails f % 8 = 0 → Noted u (srcFPort f) K.LINK_TRAIN_FAIL (partOfFPort s f))
        ∧ (mapGet 0 u.trainFails f % 8 ≠ 0 → u.faultQ = s.faultQ))
      ∧ (portUp s f = true → BitVec.ofNat 4 (rd s 4 R.FP_STATUS_LANE_LOCK f) &&& lanes ≠ BitVec.ofNat 4 (rd s 4 R.FP_STATUS_LANE_LOCK f) →
        ∃ u, exec (.linkDown f lanes) s = .next u ∧ portState u f = 1 ∧ rd u 4 R.FP_STATUS_LANE_LOCK f = lanes.toNat ∧ AllClosed u f
          ∧ rd u 4 R.FP_TRAIN_DOWN_CNT f = min (rd s 4 R.FP_TRAIN_DOWN_CNT f + 1) (2 ^ 16 - 1)
          ∧ Noted u (srcFPort f) K.LINK_DOWN (partOfFPort s f) ∧ u.sram = s.sram ∧ u.hbm = s.hbm))

/-- A HELLO that matches its entry starts key agreement, opened by the lower node; one that does not match is a refusal, noted once in an
episode; one with the own node ID is a NODE_ID_CONFLICT and HOLD, once in an episode. KA1 and KA2 with a good proof move the handshake on;
KA3 with a good proof opens the session and answers; KA4 opens it. A proof that does not verify opens nothing. A timeout abandons the
handshake. A peer entry is written with its bits; one that becomes invalid or names another node closes its session. (R318, R319, R431) -/
def Obligations.session_results : Prop :=
  ∀ (f : FPort) (i : Fin 32) (s : State) (k : Nat), k = 32 * f.val + i.val →
    (entryLive s k = true →
      (∀ h : Hello, (h.node.toNat = peerNode s k → h.node.toNat ≠ ownNode s (sessPart s k) → h.pfx.toNat = rd s (sessPart s k) R.FAB_PREFIX_PREFIX →
          h.jobId.toNat = rd s (sessPart s k) R.FAB_JOB_ID_JOB_ID → h.maxPayload.toNat = rd s (sessPart s k) R.FAB_CTRL_MAX_PAYLOAD →
          ∃ u, exec (.helloReceive f i h) s = .next u ∧ u.regs = s.regs ∧ (∀ j, j ≠ k → sess u j = sess s j)
            ∧ (¬ (ownNode s (sessPart s k) < peerNode s k ∧ jobReady s (sessPart s k) = true) → u = helloTaken s k)
            ∧ (ownNode s (sessPart s k) < peerNode s k → jobReady s (sessPart s k) = true →
                sess u k = { sess (helloTaken s k) k with
                  eph := ephKey (helloTaken s k), trans := helloTrans s k ++ (ka1Msg (helloTaken s k)).bytes }
                ∧ u.outbox = s.outbox ++ [⟨sessPart s k, .link f i (.ka 1 (ka1Msg (helloTaken s k)))⟩]))
        ∧ (h.node.toNat = ownNode s (sessPart s k) →
          ∃ u, exec (.helloReceive f i h) s = .next u ∧ sess u k = { abandonKa (sess s k) with conflict := true }
            ∧ ((sess s k).conflict = false → Noted u (srcSess k) K.NODE_ID_CONFLICT (sessPart s k)
              ∧ (isReady s (sessPart s k) = true → isHold u (sessPart s k) = true))
            ∧ ((sess s k).conflict = true → u = { s with sess := u.sess }))
        ∧ (h.node.toNat ≠ ownNode s (sessPart s k) → (h.node.toNat ≠ peerNode s k ∨ h.pfx.toNat ≠ rd s (sessPart s k) R.FAB_PREFIX_PREFIX
            ∨ h.jobId.toNat ≠ rd s (sessPart s k) R.FAB_JOB_ID_JOB_ID ∨ h.maxPayload.toNat ≠ rd s (sessPart s k) R.FAB_CTRL_MAX_PAYLOAD) →
          ∃ u, exec (.helloReceive f i h) s = .next u ∧ u = { s with sess := u.sess, faultQ := u.faultQ }
            ∧ sess u k = { abandonKa (sess s k) with refused := true }
            ∧ ((sess s k).refused = false → Noted u (srcSess k) K.SESSION_REFUSED (sessPart s k))
            ∧ ((sess s k).refused = true → u.faultQ = s.faultQ)))
      ∧ exec (.helloRepeat f i) s = .next { s with outbox := s.outbox ++ [⟨sessPart s k, .link f i .hello⟩] }
      ∧ ((sess s k).stage ≠ 0 → ∃ u, exec (.handshakeTimeout f i) s = .next u ∧ u = { s with sess := u.sess, faultQ := u.faultQ }
        ∧ sess u k = { abandonKa (sess s k) with refused := true })
      ∧ (∀ m : PeerProof, jobReady s (sessPart s k) = true → s.fabWait.length < 2 ^ 40 →
        (peerNode s k ≤ ownNode s (sessPart s k) → (sess s k).stage = 1 → ∃ u, exec (.ka1 f i m) s = .next u
          ∧ u = { s with sess := u.sess, freeCtr := s.freeCtr + 2, outbox := s.outbox ++ [⟨sessPart s k, .link f i (.ka 2 (ka2Answer s k m))⟩] }
          ∧ sess u k = { kaSess (sess s k) 2 [ka1Of m, ka2Answer s k m] with eph := ephKey s, z := Config.ecdh (ephKey s) m.pub })
        ∧ (ownNode s (sessPart s k) < peerNode s k → (sess s k).stage = 1 → (peerVerifies s k m).2 = true → ∃ u, exec (.ka2 f i m) s = .next u
          ∧ sess u k = { kaSess (sess s k) 3 [peerMsg m, ka3Answer s k m] with device := m.deviceId, z := Config.ecdh (sess s k).eph m.pub }
          ∧ u.regs = s.regs ∧ u.outbox = s.outbox ++ [⟨sessPart s k, .link f i (.ka 3 (ka3Answer s k m))⟩])
        ∧ (peerNode s k ≤ ownNode s (sessPart s k) → (sess s k).stage = 2 → (peerVerifies s k (ka3Of m)).2 = true → ∃ u, exec (.ka3 f i m) s = .next u
          ∧ sessOpen u k = true ∧ (sess u k).device = m.deviceId ∧ ⟨sessPart s k, .link f i (.ka 4)⟩ ∈ u.outbox)
        ∧ (peerNode s k ≤ ownNode s (sessPart s k) → (sess s k).stage = 2 → (peerVerifies s k (ka3Of m)).2 = false → ∃ u, exec (.ka3 f i m) s = .next u
          ∧ sessOpen u k = false ∧ u.regs = s.regs ∧ (sess u k).stage = 0)
        ∧ (ownNode s (sessPart s k) < peerNode s k → (sess s k).stage = 3 → ∃ u, exec (.ka4 f i) s = .next u
          ∧ sessOpen u k = true ∧ (sess u k).device = (sess s k).device)))
    ∧ (∀ (port : HPort) (v : BitVec 16), ctrlAccess s port = some (partOfFPort s f) →
      ∃ u, exec (.peerEntryWrite port f i v) s = .next u ∧ peerNode u k = v.toNat % 4096 ∧ peerValid u k = v.getLsbD 15
        ∧ sessOpen u k = (sessOpen s k && v.getLsbD 15 && v.toNat % 4096 == peerNode s k)
        ∧ u.sram = s.sram ∧ u.hbm = s.hbm ∧ u.tiles = s.tiles)

namespace Sys2Proof.Claims

/-- Session k has taken the frame that it expected, under EPOCH ep, in state s, and acknowledged it (R320, R321). -/
def frameTaken (s : State) (k : Nat) (ep : Byte) : State :=
  sendLink (setSess s k (takeSeq (sess s k) ep)) k (.ack ((sess s k).rx + 1))

/-- A frame of the fabric's EtherType whose check, tag and key number are good, and whose key is not erased (R310, R321, R432). -/
abbrev GoodFrame (s : State) (k : Nat) (m : Frame) : Prop :=
  m.macCtl = false ∧ m.etype.toNat = rd s (sessPart s k) R.FAB_ETYPE_ETYPE ∧ m.fcsOk = true ∧ m.tagOk = true ∧ m.cls ≠ 0
    ∧ m.epoch = epochOf m.seq.toNat ∧ (m.epoch = (sess s k).rxEpoch ∨ m.epoch = (sess s k).rxEpoch + 1)

end Sys2Proof.Claims

/-- MAC control frames are discarded, and frames of another EtherType are discarded and counted. On an open session, a sound frame with the
expected number is taken and acknowledged, and what it carries acts: a write or read of this node is served and answered, or kept while a
traffic generator drives the stack; an order about an old copy is followed; a visible copy is noted; a frame that HOLD drops is counted; a
malformed one is noted. A frame out of sequence is answered with NAK and is not taken; a LINK frame has no number; the first frame that is
authenticated under the next key epoch, whichever it is, moves the receiver to it; a bad tag is counted. An acknowledgement drops the frames
below its number and lets waiting frames go. A NAK or a replay timeout replays what is outstanding, marked as such; the sixteenth replay of
a frame closes the session with LINK_DOWN. (R310, R316, R317, R320, R321, R326, R432) -/
def Obligations.session_frame_results : Prop :=
  ∀ (f : FPort) (i : Fin 32) (s : State) (k : Nat) (ep : Byte) (v : State), k = 32 * f.val + i.val → sessRuns s k = true → (sess s k).link < 2 ^ 48 - 1 →
    v = frameTaken s k ep →
    ((sess v k).rx = (sess s k).rx + 1 ∧ v.outbox = s.outbox ++ [⟨sessPart s k, .link f i (.ack ((sess s k).rx + 1))⟩]
        ∧ v = { s with sess := v.sess, outbox := v.outbox })
    ∧ (∀ m : Frame,
      (m.macCtl = true → exec (.frameReceive f i m) s = .next s)
      ∧ (m.macCtl = false → m.fcsOk = true → m.etype.toNat ≠ rd s (sessPart s k) R.FAB_ETYPE_ETYPE →
        ∃ u, exec (.frameReceive f i m) s = .next u ∧ OnlyRegs s u [fieldKey R.FAB_STATUS_OTHER_RX (sessPart s k) 0 0]
          ∧ rd u (sessPart s k) R.FAB_STATUS_OTHER_RX = min (rd s (sessPart s k) R.FAB_STATUS_OTHER_RX + 1) (2 ^ 16 - 1))
      ∧ (GoodFrame s k m → m.seq.toNat ≠ (sess s k).rx → exec (.frameReceive f i m) s = .next (sendLink (authed s k m.epoch) k (.nak (sess s k).rx)))
      ∧ (m.macCtl = false → m.etype.toNat = rd s (sessPart s k) R.FAB_ETYPE_ETYPE → m.fcsOk = true → m.tagOk = true → m.cls = 0 →
        (m.epoch = (sess s k).rxEpoch ∨ m.epoch = (sess s k).rxEpoch + 1) → malformed s (sessPart s k) m = false →
        ∃ u, exec (.frameReceive f i m) s = .next u ∧ u = { s with sess := u.sess } ∧ (sess u k).rxEpoch = m.epoch ∧ (sess u k).rx = (sess s k).rx)
      ∧ (GoodFrame s k m → m.epoch = ep → m.seq.toNat = (sess s k).rx → m.ackValid = false →
        (malformed v (sessPart s k) m = true → ∃ u, exec (.frameReceive f i m) s = .next u ∧ (sess u k).rx = (sess s k).rx + 1
          ∧ Noted u (srcSess k) K.FRAME_MALFORMED (sessPart s k))
        ∧ (malformed v (sessPart s k) m = false → m.dst.toNat ≠ ownNode s (sessPart s k) → exec (.frameReceive f i m) s = .next v)
        ∧ (malformed v (sessPart s k) m = false → m.dst.toNat = ownNode s (sessPart s k) →
          (isHold s (sessPart s k) = true → frozen s (sessPart s k) = false → holdDrops m.cls.toNat = true →
            ∃ u, exec (.frameReceive f i m) s = .next u ∧ OnlyRegs v u [fieldKey R.FAB_STATUS_HOLD_RX_DROPS (sessPart s k) 0 0]
              ∧ rd u (sessPart s k) R.FAB_STATUS_HOLD_RX_DROPS = min (rd v (sessPart s k) R.FAB_STATUS_HOLD_RX_DROPS + 1) (2 ^ 32 - 1))
          ∧ (frozen s (sessPart s k) = true →
            exec (.frameReceive f i m) s = .next { v with heldRx := v.heldRx ++ [(sessPart s k, .frameReceive f i m .none)] })
          ∧ (isHold s (sessPart s k) = false → frozen s (sessPart s k) = false →
            (m.access = none → m.moved = none → (m.cls ≠ 6 ∨ m.visible = false) → exec (.frameReceive f i m) s = .next v)
            ∧ (m.cls = 6 → m.visible = true → exec (.frameReceive f i m) s = .next (ackVisible v (sessPart s k) m.src.toNat m.msgId.toNat))
            ∧ (∀ x, m.access = none → m.moved = some x → m.cls = 3 → running s (sessPart s k) = true →
              exec (.frameReceive f i m) s = .next (takeMoved v (sessPart s k) x))
            ∧ (∀ a, m.access = some a → m.cls = 6 → m.visible = false → running s (sessPart s k) = true →
              ownStack s (sessPart s k) a.stack.toNat = true → keyLoaded s (sessPart s k) = true →
              a.off.toNat + (if a.bytes = [] then a.read else a.bytes.length) ≤ (Space.hbm a.raw a.stack.toNat a.off.toNat).size →
              (engineWaits s a.stack.toNat = true → exec (.frameReceive f i m) s = .next { v with
                stackReqs := v.stackReqs ++ [(sessPart s k, .access m.src.toNat m.srcUnit.toNat m.msgId.toNat a)] })
              ∧ (engineWaits s a.stack.toNat = false →
                (∀ w, a.bytes ≠ [] → devWrite v (sessPart s k) (.hbm a.raw a.stack.toNat a.off.toNat) a.bytes = (w, none) →
                  CanReach w (sessPart s k) m.src.toNat →
                  ∃ u, exec (.frameReceive f i m) s = .next u ∧ u.hbm = w.hbm ∧ u.outbox = w.outbox ++ [⟨sessPart s k, .visible m.src.toNat⟩])
                ∧ (∀ bs, a.bytes = [] → devRead v (.hbm a.raw a.stack.toNat a.off.toNat) a.read [] = (bs, none) →
                  CanReach v (sessPart s k) m.src.toNat →
                  ∃ u, exec (.frameReceive f i m) s = .next u ∧ u.hbm = s.hbm ∧ u.sram = s.sram
                    ∧ u.outbox = v.outbox ++ [⟨sessPart s k, .readData m.src.toNat bs⟩]))))))
      ∧ (m.macCtl = false → m.etype.toNat = rd s (sessPart s k) R.FAB_ETYPE_ETYPE → m.fcsOk = true → m.tagOk = false →
        ∃ u, exec (.frameReceive f i m) s = .next u ∧ (sess u k).rx = (sess s k).rx
          ∧ rd u 4 R.FP_RETRY_AUTH_FAILS f = min (rd s 4 R.FP_RETRY_AUTH_FAILS f + 1) (2 ^ 32 - 1)
          ∧ u.outbox = s.outbox ++ [⟨sessPart s k, .link f i (.nak (sess s k).rx)⟩] ∧ u.hbm = s.hbm ∧ u.sram = s.sram))
    ∧ (∀ n : StepIx, ∃ u, exec (.ackReceive f i n) s = .next u
        ∧ u = drainWait (setSess s k { sess s k with unacked := (sess s k).unacked.filter (fun x => n.toNat ≤ x.seq) }) (sessPart s k)
        ∧ ((∀ x ∈ s.fabWait, x.1 ≠ sessPart s k) → u = { s with sess := u.sess }
          ∧ sess u k = { sess s k with unacked := (sess s k).unacked.filter (fun x => n.toNat ≤ x.seq) }))
    ∧ (∀ (c : Instr) (n : StepIx), (c = .nakReceive f i n ∨ c = .replayTimeout f i) →
      ((sess s k).unacked = [] → exec c s = .next s)
      ∧ ((sess s k).unacked ≠ [] → (∀ x ∈ (sess s k).unacked, x.replays ≠ 15) → ∃ u, exec c s = .next u
        ∧ u = { s with regs := u.regs, sess := u.sess, wire := u.wire }
        ∧ sess u k = { sess s k with unacked := (sess s k).unacked.map (fun x => { x with replays := x.replays + 1 }) }
        ∧ u.wire = s.wire ++ (sess s k).unacked.map (fun x => wireFrame k x.seq (epochOf x.seq) true x.frame)
        ∧ rd u 4 R.FP_RETRY_REPLAYS f = min (rd s 4 R.FP_RETRY_REPLAYS f + (sess s k).unacked.length) (2 ^ 32 - 1)
        ∧ RegsKept s u [fieldKey R.FP_RETRY_REPLAYS 4 f 0])
      ∧ ((∃ x ∈ (sess s k).unacked, x.replays = 15) → ∃ u, exec c s = .next u ∧ sessOpen u k = false
        ∧ Noted u (srcSess k) K.LINK_DOWN (sessPart s k)))

/-- A transit frame with a route and a TTL goes on with TTL less 1: in a partition none of whose frames wait, on the session of its flow to
the next hop when the replay buffer has room, else it waits. Without a route or TTL it is dropped and counted. When a next hop stays without
a session its frames are dropped and the partition goes to HOLD. In SAFE a fault beacon leaves on each valid entry of a port that is up;
receiving one closes the session and is noted, and the partition does not go to HOLD for it. (R320, R322, R323, R324, R327) -/
def Obligations.routing_results : Prop :=
  (∀ (f : FPort) (m : Frame) (s : State) (p hop : Nat) (x : FabFrame), s.safe = false → p = partOfFPort s f → m.dst.toNat ≠ ownNode s p →
      hop = rd s p R.ROUTE_NEXT_HOP m.dst.toNat →
      x = ⟨⟨p, .frame { m with ttl := m.ttl - 1, retx := false, ackValid := false, ackSeq := 0 }⟩, m.srcUnit.toNat, m.msgId.toNat, 0, m.last⟩ →
      (hasRoute s p m.dst.toNat = true → m.ttl ≠ 0 → (∀ w ∈ s.fabWait, w.1 ≠ p) →
        (sessionsTo s p hop = [] → exec (.transitFrame f m) s = .next { s with fabWait := s.fabWait ++ [(p, hop, x)] })
        ∧ (sessionsTo s p hop ≠ [] → ∃ k ∈ sessionsTo s p hop, flowSess s hop x = some k ∧ ((sess s k).tx < 2 ^ 48 - 1 →
          (2 ^ 20 < replayBytes s (k / 32) + frameBytes s x →
            exec (.transitFrame f m) s = .next { s with fabWait := s.fabWait ++ [(p, hop, x)] })
          ∧ (replayBytes s (k / 32) + frameBytes s x ≤ 2 ^ 20 →
            ∃ u, exec (.transitFrame f m) s = .next u ∧ u = { s with sess := u.sess, wire := u.wire }
              ∧ (∀ j, j ≠ k → sess u j = sess s j) ∧ (sess u k).tx = (sess s k).tx + 1
              ∧ (sess u k).unacked = (sess s k).unacked ++ [⟨(sess s k).tx, 0, x⟩]
              ∧ u.wire = s.wire ++ [wireFrame k (sess s k).tx (sess s k).txEpoch false x]))))
      ∧ ((hasRoute s p m.dst.toNat = false ∨ m.ttl = 0) →
        ∃ u, exec (.transitFrame f m) s = .next u ∧ u = { s with regs := u.regs, faultQ := u.faultQ }
          ∧ RegsKept s u [fieldKey R.FAB_STATUS_ROUTE_DROPS p 0 0]
          ∧ rd u p R.FAB_STATUS_ROUTE_DROPS = min (rd s p R.FAB_STATUS_ROUTE_DROPS + 1) (2 ^ 16 - 1)
          ∧ Noted u srcTransport K.ROUTE_DROP p))
    ∧ (∀ (p : Part) (hop : Node) (s : State), running s p = true → sessionsTo s p hop.toNat = [] → (∃ x ∈ s.fabWait, x.1 = p.val ∧ x.2.1 = hop.toNat) →
      ∃ u, exec (.nodeUnreachable p hop) s = .next u ∧ isHold u p = true ∧ Noted u srcTransport K.NODE_UNREACHABLE p
        ∧ ∀ x ∈ u.fabWait, ¬ (x.1 = p.val ∧ x.2.1 = hop.toNat))
    ∧ (∀ (f : FPort) (s : State), s.safe = true → portUp s f = true → (∀ k ∈ portSessions f, (sess s k).link < 2 ^ 48 - 1) →
      ∃ u, exec (.faultBeaconSend f) s = .next u ∧ u = { s with outbox := u.outbox, sess := u.sess }
        ∧ u.outbox = s.outbox ++ ((portSessions f).filter (peerValid s)).map (fun k =>
          ⟨sessPart s k, .link (k / 32) (k % 32) (.beacon (ownNode s (sessPart s k)) s.safeKind)⟩))
    ∧ (∀ (f : FPort) (i : Fin 32) (n : Node) (kd : BitVec 12) (s : State), sessRuns s (32 * f.val + i.val) = true →
      ∃ u, exec (.faultBeaconReceive f i n kd) s = .next u ∧ sessOpen u (32 * f.val + i.val) = false
        ∧ Noted u (srcSess (32 * f.val + i.val)) K.PEER_SAFE (sessPart s (32 * f.val + i.val))
        ∧ (∀ q, partState u q = partState s q) ∧ u.sram = s.sram ∧ u.hbm = s.hbm ∧ u.tiles = s.tiles)

namespace Sys2Proof.Claims

/-- s after the word of collective slot k that a.val gives is written: the plain fields of an IDLE or ERROR slot (R329). -/
def collWord (s : State) (p : Nat) (a : Access) : State :=
  fieldsWrite s p a.off a.size a.val.toNat false false (fun f _ _ => decide (0x504000 ≤ f.base ∧ f.base < 0x504040))

/-- A frame of n payload bytes each: pieces of a chunk of bytes (R332). -/
def segPieces (m : Nat) (bs : List Byte) : List (Nat × List Byte) :=
  (List.range ((bs.length + m - 1) / m)).map (fun j => (j, (bs.drop (j * m)).take m))

end Sys2Proof.Claims

/-- ARM of an IDLE slot whose configuration and group list are good makes it ARMED with its rank in the list and the next and previous nodes
of the ring; otherwise ERR is set, COLL_CFG is noted, with the fault of the read of the list where that is what failed, and the slot stays
IDLE. While a traffic generator drives a stack of the list, ARM waits. DISARM makes an ARMED slot IDLE. A RUNNING slot that does not end
goes to ERROR and its partition to HOLD. (R86, R288, R291, R328, R329, R333) -/
def Obligations.collective_setup : Prop :=
  (∀ (a : Access) (p : Nat) (k : Fin 64) (s : State), CtrlWrite s a p → a.off = 0x504000 + 64 * k.val → a.size = 4 →
      (collState s p k = 0 → bitAt a.val.toNat 18 = true → bitAt a.val.toNat 19 = false →
        (armWaits (collWord s p a) p k = true → ∃ u, exec (.collArm a) s = .next u ∧ u = { s with regs := u.regs, stackReqs := u.stackReqs }
          ∧ (p, StackReq.arm k) ∈ u.stackReqs ∧ collState u p k = 0)
        ∧ (armWaits (collWord s p a) p k = false → ∀ bs, armList (collWord s p a) p k = some bs → ∃ u, exec (.collArm a) s = .next u
          ∧ u = { s with regs := u.regs, colls := u.colls } ∧ collState u p k = 1
          ∧ rd u p R.COLL_SLOT_KIND k = bitsOf a.val.toNat 0 4
          ∧ rd u p R.COLL_SLOT_MY_RANK k = (groupNodes bs (rd s p R.COLL_SLOT_RANK_CNT k)).idxOf (ownNode s p) % 2 ^ 13
          ∧ (collRun u p k).next = (groupNodes bs (rd s p R.COLL_SLOT_RANK_CNT k)).getD
              (((groupNodes bs (rd s p R.COLL_SLOT_RANK_CNT k)).idxOf (ownNode s p) + 1) % rd s p R.COLL_SLOT_RANK_CNT k) 0
          ∧ (collRun u p k).prev = (groupNodes bs (rd s p R.COLL_SLOT_RANK_CNT k)).getD
              (((groupNodes bs (rd s p R.COLL_SLOT_RANK_CNT k)).idxOf (ownNode s p) + rd s p R.COLL_SLOT_RANK_CNT k - 1) % rd s p R.COLL_SLOT_RANK_CNT k) 0
          ∧ (collRun u p k).got = [] ∧ (collRun u p k).early = [])
        ∧ (armWaits (collWord s p a) p k = false → armList (collWord s p a) p k = none → ∃ u, exec (.collArm a) s = .next u
          ∧ collState u p k = 0 ∧ rd u p R.COLL_SLOT_ERR k = 1 ∧ Noted u (srcColl k) K.COLL_CFG p
          ∧ (armFault (collWord s p a) p k = none → u = { s with regs := u.regs, faultQ := u.faultQ })
          ∧ (∀ f, armFault (collWord s p a) p k = some f → Noted u (srcColl k) f p)))
      ∧ (collState s p k = 1 → bitAt a.val.toNat 19 = true → bitAt a.val.toNat 18 = false →
        ∃ u, exec (.collDisarm a) s = .next u ∧ u = { s with regs := u.regs, colls := mapErase s.colls (collKey p k) } ∧ collState u p k = 0
          ∧ RegsKept s u [fieldKey R.COLL_SLOT_CSTATE p k 0]))
    ∧ (∀ (p : Part) (k : Fin 64) (s : State), running s p = true → collState s p k = 2 →
      ∃ u, exec (.collTimeout p k) s = .next u ∧ collState u p k = 3 ∧ isHold u p = true ∧ Noted u (srcColl k) K.COLL_TIMEOUT p)

/-- A trigger that is reached starts the slot: TRIG_TGT moves by TRIG_INC and the chunk of the rank before it (all-gather: its own, coded
under DECODE) leaves in pieces of the largest payload, as FP32 partials or output elements or coded bytes; then the segments that waited are
taken. With one rank nothing is sent and a reduction writes its own elements. A segment for an ARMED slot waits. A reducing segment of
another chunk is added in FP32 to the own elements and passed to the next node. With everything taken the slot counts a run, signals
DONE_NAME by 1 and is ARMED again; one that an error has ended is IDLE with ERR. (R329, R330, R331, R332) -/
def Obligations.collective_results : Prop :=
  ∀ (p : Part) (k : Fin 64) (s : State) (d : Coll), running s p = true → d = collOf s p k → CanReach s p (collRun s p k).next →
    (∀ (c : CtrRef) (bs : List Byte), collState s p k = 1 → resolveName s p (BitVec.ofNat 32 (rd s p R.COLL_SLOT_TRIG_NAME k)) = .ctr c →
      waitMet s c (BitVec.ofNat 32 (rd s p R.COLL_SLOT_TRIG_TGT k)) = true → devTgBusy s (devSpace s p d.input.1) d.input.2 = false →
      devTgBusy s (devSpace s p d.buf) (d.e * elemSize d.ofmt) = false → spaceKeyed s p d.input.1 = none →
      devRead (collRuns s p k) (devSpace s p d.input.1) d.input.2 [] = (bs, none) →
      ∃ v, v.sram = s.sram ∧ v.hbm = s.hbm ∧ v.tiles = s.tiles ∧ collState v p k = 2 ∧ (collRun v p k).input = bs ∧ (collRun v p k).got = []
        ∧ rd v p R.COLL_SLOT_TRIG_TGT k = (rd s p R.COLL_SLOT_TRIG_TGT k + rd s p R.COLL_SLOT_TRIG_INC k) % 2 ^ 32
        ∧ (1 < d.n → exec (.collTrigger p k .none) s = .next ((collRun s p k).early.foldl (fun s m => takeSegment s p k m) v))
        ∧ (d.n = 1 → d.decode = true → exec (.collTrigger p k .none) s = .next v)
        ∧ (d.n = 1 → d.decode = false → exec (.collTrigger p k .none) s = .next (bufWrite v p k d 0
            ((List.range d.e).flatMap (fun i => narrowElem d.ofmt (wideElem d.ifmt bs i)))))
        ∧ (d.n = 1 → v.outbox = s.outbox)
        ∧ (1 < d.n → d.kind = 3 → v.outbox = s.outbox ++ (segPieces (maxPayload s p) bs).map (fun x =>
              ⟨p, .segment (collRun s p k).next ⟨BitVec.ofNat 16 d.gid, (collRun s p k).digest, d.rank,
                x.1 * maxPayload s p / (if d.decode then 1 else elemSize d.ofmt), false, x.2⟩ (x.1 % 32) k⟩))
        ∧ (1 < d.n → d.kind ≠ 3 → v.outbox = s.outbox ++ (segPieces (maxPayload s p)
            ((List.range (d.count ((d.rank + d.n - 1) % d.n))).flatMap (fun i => leBytes 4 (wideElem d.ifmt bs (d.lo ((d.rank + d.n - 1) % d.n) + i)).toNat))).map
              (fun x => ⟨p, .segment (collRun s p k).next ⟨BitVec.ofNat 16 d.gid, (collRun s p k).digest, (d.rank + d.n - 1) % d.n,
                x.1 * maxPayload s p / 4, true, x.2⟩ (x.1 % 32) k⟩)))
    ∧ (∀ m : Segment, (List.range 64).find? (fun j => (collState s p j == 1 || collState s p j == 2)
        && rd s p R.COLL_SLOT_GROUP_ID j == m.groupId.toNat) = some k.val → m.digest = (collRun s p k).digest →
      (collState s p k = 1 → exec (.collSegmentReceive p m) s
        = .next (setCollRun s p k { collRun s p k with early := (collRun s p k).early ++ [m] }))
      ∧ (∀ n, collState s p k = 2 → d.decode = false → m.reduce = true → m.chunk ≠ d.rank → n = m.data.length / 4 → 0 < n → m.chunk < d.n →
        m.off + n ≤ d.count m.chunk →
        ∃ u, exec (.collSegmentReceive p m) s = .next u ∧ u.sram = s.sram ∧ u.hbm = s.hbm ∧ u.tiles = s.tiles
          ∧ (collRun u p k).got = (collRun s p k).got ++ [(true, m.chunk, m.off, n)]
          ∧ u.outbox = s.outbox ++ [⟨p, .segment (collRun s p k).next ⟨BitVec.ofNat 16 d.gid, (collRun s p k).digest, m.chunk, m.off, true,
              (List.range n).flatMap (fun i => leBytes 4 (fAdd (wideElem 0 m.data i) (wideElem d.ifmt (collRun s p k).input (d.lo m.chunk + m.off + i))).toNat)⟩
              (m.off / (maxPayload s p / 4) % 32) k⟩]))
    ∧ (∀ c : CtrRef, collState s p k = 2 → collComplete d (collRun s p k) = true →
      resolveName s p (BitVec.ofNat 32 (rd s p R.COLL_SLOT_DONE_NAME k)) = .ctr c →
      ((collRun s p k).failed = true → ∃ u, exec (.collDone p k) s = .next u ∧ collState u p k = 0 ∧ rd u p R.COLL_SLOT_ERR k = 1
        ∧ u = { s with regs := u.regs, colls := mapErase s.colls (collKey p k) }
        ∧ RegsKept s u [fieldKey R.COLL_SLOT_ERR p k 0, fieldKey R.COLL_SLOT_CSTATE p k 0])
      ∧ ((collRun s p k).failed = false →
      ∃ u, exec (.collDone p k) s = .next u ∧ collState u p k = 1 ∧ rd u p R.COLL_SLOT_RUNS k = (rd s p R.COLL_SLOT_RUNS k + 1) % 2 ^ 32
        ∧ u = { s with regs := u.regs, incs := s.incs ++ [⟨c, srcColl k, 1⟩], colls := u.colls }
        ∧ RegsKept s u [fieldKey R.COLL_SLOT_RUNS p k 0, fieldKey R.COLL_SLOT_CSTATE p k 0] ∧ (collRun u p k).got = []))

/-- Writing a mode to an OFF slot with a good log area opens it as WATCHING with an empty log; mode 0 closes it and drops all that it held.
While RS_EN is set and no traffic generator drives a stack, a contribution copy for a watched node is appended, counted in USED and
acknowledged while it fits; one that does not fit lapses the slot with WINDOW_OVERFLOW; one for another node is noted; a durable mark frees
the entries up to its step. A lapse notice is remembered and sets LAPSED. When seeding ends the slot is MIRRORED with the replayed state; a
window that does not replay ends with SOURCE_FAILED and RESTORE_FAILED, and the slot goes on logging (log 44). (R291, R339, R340, R342,
R344, R352, R362) -/
def Obligations.watch_slot_results : Prop :=
  (∀ (port : HPort) (w : Fin 4) (v : Half) (p : Nat) (s : State), ctrlAccess s port = some p →
      (bitsOf v.toNat 12 2 ≠ 0 → wstate s p w = 0 → logArea s p w = true → ∃ u, exec (.watchModeWrite port w v) s = .next u
        ∧ wstate u p w = 1 ∧ rd u p R.WS_CFG_NODE w = v.toNat % 4096 ∧ rd u p R.WS_CFG_MODE w = bitsOf v.toNat 12 2
        ∧ rd u p R.WS_CFG_PORT w = bitsOf v.toNat 14 2 ∧ wlog u p w = [] ∧ rd u p R.WS_LOG_USED_USED w = 0
        ∧ u = { s with regs := u.regs, watch := u.watch, logTail := mapErase s.logTail (4 * p + w) })
      ∧ (bitsOf v.toNat 12 2 = 0 → wstate s p w ≠ 0 → ∃ u, exec (.watchModeWrite port w v) s = .next u ∧ wstate u p w = 0 ∧ wlog u p w = []
        ∧ u.held = s.held.filter (fun x => !(x.slot == some w.val && partOfStack s x.stack == p))
        ∧ u.mirBatches = s.mirBatches.filter (fun x => !(x.1 == p && x.2.1 == w.val))
        ∧ (∀ k, partOfStack s k = p → k < 24 → mapGet [] u.redirects (redirKey (some w.val) k) = [])
        ∧ u.sram = s.sram ∧ u.hbm = s.hbm ∧ u.tiles = s.tiles))
    ∧ (∀ (p : Part) (s : State), running s p = true →
      (rsEnabled s p = true → stacksFree s p = true →
        (∀ (m : CopyMsg) (c : Contribution) (w : Fin 4), slotOf s p m.forNode.toNat = some w.val → wstate s p w = 1 → (m.typ = 1 ∨ m.typ = 2) →
          m.contrib = some c → keyLoaded s p = true →
          ((wlog s p w ++ [m]).foldl (fun a x => a + copySize s p x) 0 ≤ rd s p R.WS_LOG_SIZE_SIZE w → c.fwd = false → CanReach s p c.srcNode.toNat →
            ∃ u, exec (.copyReceive p m) s = .next u ∧ wlog u p w = wlog s p w ++ [m]
              ∧ rd u p R.WS_LOG_USED_USED w = (wlog s p w ++ [m]).foldl (fun a x => a + copySize s p x) 0 % 2 ^ 64
              ∧ u.outbox = s.outbox ++ [⟨p, .contribAck c.srcNode.toNat (contribAckOf c (ownNode s p) true)⟩]
              ∧ u.hbm = (logWrite s p w (mapGet 0 s.logTail (4 * p + w)) (entryBytes s p m)).hbm
              ∧ mapGet 0 u.logTail (4 * p + w) = (mapGet 0 s.logTail (4 * p + w) + copySize s p m) % rd s p R.WS_LOG_SIZE_SIZE w
              ∧ u.sram = s.sram ∧ u.tiles = s.tiles ∧ u.held = s.held)
          ∧ (rd s p R.WS_LOG_SIZE_SIZE w < (wlog s p w ++ [m]).foldl (fun a x => a + copySize s p x) 0 →
            ∃ u, exec (.copyReceive p m) s = .next u ∧ wstate u p w = 4 ∧ wlog u p w = [] ∧ Noted u srcResilience K.WINDOW_OVERFLOW p))
        ∧ (∀ (m : CopyMsg) (w : Fin 4), slotOf s p m.forNode.toNat = some w.val → wstate s p w < 4 → m.typ.toNat ≤ 9 → keyLoaded s p = false →
          ∃ u, exec (.copyReceive p m) s = .next u ∧ Noted u srcResilience K.HBM_KEY_ABSENT p ∧ isHold u p = true ∧ wlog u p w = wlog s p w)
        ∧ (∀ (m : CopyMsg) (w : Fin 4), slotOf s p m.forNode.toNat = some w.val → wstate s p w = 1 → m.typ = typDurable →
          mapFind s.seedFrom (4 * p.val + w.val) = none →
          ∃ u, exec (.copyReceive p m) s = .next u ∧ rd u p R.WS_DURABLE_STEP w = m.step.toNat
            ∧ wlog u p w = (wlog s p w).filter (fun x => x.typ == 7 || x.typ == 8 || decide (0 < stepDiff x.step.toNat m.step.toNat))
            ∧ u = { s with regs := u.regs, watch := u.watch })
        ∧ (∀ m : CopyMsg, slotOf s p m.forNode.toNat = none → (m.typ.toNat ≤ 9 ∨ m.typ = typDurable) →
          ∃ u, exec (.copyReceive p m) s = .next u ∧ u = { s with faultQ := u.faultQ } ∧ Noted u srcResilience K.UNWATCHED_COPY p))
      ∧ (∀ n : Node, ∃ u, exec (.lapseNoticeReceive p n) s = .next u ∧ (p.val, n.toNat) ∈ u.lapsed ∧ rd u p R.RS_STATUS_LAPSED = 1
        ∧ Noted u srcResilience K.PARTNER_LAPSED p ∧ u.sram = s.sram ∧ u.hbm = s.hbm)
      ∧ (stacksFree s p = true → ∀ (w : Fin 4) d n s', wstate s p w = 2 → d = mapGet 0 s.seedFrom (4 * p + w) →
        n = ((wlog s p w).filter isCommit).foldl (fun a m => max a m.step.toNat) d →
        s' = { s with seedFrom := mapErase s.seedFrom (4 * p.val + w.val) } →
        (∀ x r, replayWindow s' p w d n (wlog s p w) = (x, true) → replayRest x p w n (wlog s p w) = some r →
          ∃ u, exec (.seedingDone p w) s = .next u ∧ wstate u p w = 3 ∧ wlog u p w = (wlog s p w).filter (fun x => x.typ == 9)
            ∧ u = { r with regs := u.regs, watch := u.watch })
        ∧ (∀ x ok, replayWindow s' p w d n (wlog s p w) = (x, ok) → (ok = true → replayRest x p w n (wlog s p w) = none) →
          ∃ u, exec (.seedingDone p w) s = .next u ∧ wstate u p w = 1 ∧ rd u p R.RS_STATUS_CMD_RESULT = St.SOURCE_FAILED
            ∧ Noted u srcResilience K.RESTORE_FAILED p)))

namespace Sys2Proof.Claims

/-- A command of the resilience unit that R357 admits: from the controlling port, in HOLD, with no command running, and no traffic generator
on a stack of the partition (R291). -/
abbrev RsAdmitted (s : State) (port : HPort) (p : Nat) : Prop :=
  ctrlAccess s port = some p ∧ rdb s p R.RS_STATUS_CMD_BUSY = false ∧ stacksFree s p = true ∧ isHold s p = true

/-- What is stored for step m of partition p in the state list's unit belongs to a later step than n. -/
abbrev laterStep (m n : Nat) : Bool := decide (0 < stepDiff m n)

end Sys2Proof.Claims

/-- HOLD puts the partition into HOLD. In HOLD: REWIND drops the contributions of later steps, the rows of them that wait, and the inputs of
the step, and sets the plan; RELOAD, with the key loaded, writes the sealed images of its step; SEED reads the newest sealed state into a
slot; ASSUME takes the node of the verified certificate, closes every session and announces to every peer entry; RESTORE from a mirror that
has applied the step makes the state of the slot the own one. VERIFY keeps a certificate that holds and refuses another, and ends with the
code of a read that fails. Out of HOLD each of the five in HOLD gives NOT_IN_HOLD and nothing else. (R288, R291, R352, R357, R358, R359) -/
def Obligations.recovery_results : Prop :=
  ∀ (port : HPort) (p : Nat) (s : State),
    (ctrlAccess s port = some p → p < 4 → isReady s p = true →
      ∃ u, exec (.rsHold port) s = .next u ∧ isHold u p = true ∧ Noted u srcResilience K.HOLD_REQUESTED p)
    ∧ (RsAdmitted s port p →
      (∃ u, exec (.rewind port) s = .next u ∧ rd u p R.RS_STATUS_CMD_RESULT = 0
        ∧ u.held = s.held.filter (fun x => !(partOfStack s x.stack == p && laterStep x.c.step.toNat (rd s p R.RS_CMD_STEP_STEP)))
        ∧ u.rowLocks = s.rowLocks.filter (fun x => !(x.part == p && laterStep x.step (rd s p R.RS_CMD_STEP_STEP)))
        ∧ u.fwdOuts = s.fwdOuts.filter (fun x => !(partOfStack s x.stack == p && laterStep x.step (rd s p R.RS_CMD_STEP_STEP)))
        ∧ (∀ w, w < 4 → wlog u p w = (wlog s p w).filter (fun m =>
            !((m.typ == 1 || m.typ == 2 || m.typ == 3) && laterStep m.step.toNat (rd s p R.RS_CMD_STEP_STEP))))
        ∧ mapGet [] u.inputs p = [] ∧ u.hbm = s.hbm ∧ u.sram = s.sram ∧ u.tiles = s.tiles
        ∧ rd u p R.RS_STATUS_PLAN = (s.ilogs.any (fun x => x.1 == p && x.2.step == (rd s p R.RS_CMD_STEP_STEP + 1) % 2 ^ 48)).toNat)
      ∧ (∀ d l x v, drive s p = some d → driveReady s p = true → keyLoaded s p = true →
        sealedImages s p d (fun _ c => c == rd s p R.RS_CMD_STEP_STEP) = some (l, x) → applyImages s p none l = (v, true) →
        ∃ u, exec (.reload port) s = .next u ∧ rd u p R.RS_STATUS_CMD_RESULT = 0 ∧ u.hbm = v.hbm ∧ u.sram = v.sram ∧ u.batches = v.batches)
      ∧ (∀ (w : Fin 4) d l e c v, wstate s p w = 1 → rd s p R.WS_CFG_MODE w = 1 → keyLoaded s p = true →
        sealedImages s p d (fun _ _ => true) = some (l, e, c) → applyImages s p (some w.val) l = (v, true) →
        ∃ u, exec (.seed port w (some d)) s = .next u ∧ wstate u p w = 2 ∧ rd u p R.WS_DURABLE_STEP w = c % 2 ^ 48
          ∧ mapFind u.seedFrom (4 * p + w) = some c ∧ rd u p R.RS_STATUS_CMD_RESULT = 0 ∧ u = { v with regs := u.regs, seedFrom := u.seedFrom })
      ∧ (∀ b, mapFind s.certs p = some b → p < 4 →
        (∃ u, exec (.assume port) s = .next u ∧ ownNode u p = certDead b % 4096 ∧ rd u p R.TK_LAST_SEQ_SEQ = certSeq b % 2 ^ 32
          ∧ rd u p R.RS_STATUS_CMD_RESULT = 0 ∧ (∀ f ∈ fportsOf s p, AllClosed u f)
          ∧ (∀ f ∈ fportsOf s p, ∀ k ∈ portSessions f, peerValid s k = true → ⟨p, .takeover f (k % 32) b⟩ ∈ u.outbox)
          ∧ (∀ w, w < 4 → wstate s p w ≠ 0 → rd s p R.WS_CFG_NODE w ≠ certDead b → wstate u p w = 0) ∧ u.hbm = s.hbm ∧ u.sram = s.sram)
        ∧ (∀ (w : Fin 4) image shares, certSource b = 0 → wstate s p w = 3 →
          denseHeld s p (rd s p R.WS_DENSE_STEP w) (certStep b) = true → rd s p R.WS_APPLIED_STEP w = certStep b →
          ∃ u, exec (.restore port w image shares) s = .next u ∧ wstate u p w = 5 ∧ rd u p R.RS_STATUS_CMD_RESULT = 0
            ∧ rd u p R.RS_STATUS_PLAN = (certPlan b (wlog s p w)).isSome.toNat
            ∧ u.held = s.held.map (fun x => if x.slot = some w.val ∧ partOfStack s x.stack = p then { x with slot := none } else x)
            ∧ u.batches = s.batches ++ (s.mirBatches.filter (fun x => x.1 == p && x.2.1 == w.val)).map (·.2.2)
            ∧ (∀ k ∈ stacksOf s p, mapGet [] u.redirects k = mapGet [] s.redirects (redirKey (some w.val) k)) ∧ u.hbm = s.hbm ∧ u.sram = s.sram)))
    ∧ (ctrlAccess s port = some p → rdb s p R.RS_STATUS_CMD_BUSY = false → stacksFree s p = true → isHold s p = false →
      ∀ (c : Instr) (w : Fin 4) image shares, c ∈ [.rewind port, .reload port, .assume port, .restore port w image shares, .seed port w image] →
      ∃ u, exec c s = .next u ∧ OnlyRegs s u [fieldKey R.RS_STATUS_CMD_RESULT p 0 0] ∧ rd u p R.RS_STATUS_CMD_RESULT = St.NOT_IN_HOLD)
    ∧ (∀ ext v c, ctrlAccess s port = some p → rdb s p R.RS_STATUS_CMD_BUSY = false → certRead s p ext .none = (v, .error c) →
      ∃ u, exec (.verify port ext) s = .next u ∧ rd u p R.RS_STATUS_CMD_RESULT = c ∧ u.certs = s.certs)
    ∧ (∀ ext v b, ctrlAccess s port = some p → rdb s p R.RS_STATUS_CMD_BUSY = false → certRead s p ext .none = (v, .ok b) →
      (certSigned s p b = true → certJob b = rd s p R.FAB_JOB_ID_JOB_ID → certSpare b = ownNode s p → certSpareId b = Config.deviceId →
        rd s p R.TK_LAST_SEQ_SEQ < certSeq b → certReserved b = true →
        ∃ u, exec (.verify port ext) s = .next u ∧ mapFind u.certs p = some b ∧ rd u p R.RS_STATUS_CMD_RESULT = 0
          ∧ u = { s with regs := u.regs, certs := u.certs, hostReads := u.hostReads } ∧ RegsKept s u [fieldKey R.RS_STATUS_CMD_RESULT p 0 0])
      ∧ (certSigned s p b = false → ∃ u, exec (.verify port ext) s = .next u ∧ u.certs = s.certs
        ∧ rd u p R.RS_STATUS_CMD_RESULT = St.CERT_INVALID ∧ Noted u srcResilience K.CERT_REJECTED p))

namespace Sys2Proof.Claims

/-- The drive of p holds d: readable, with current superblock x and `base` in the base area that x selects (R348). -/
def Holds (u : State) (p : Nat) (d : DriveImage) (x : Superblock) (base : List JRec) : Prop :=
  drive u p = some d ∧ currentSb d = some x ∧ mapFind d.bases (baseLba u p x.baseSel) = some base

/-- The sealed records of the ring. -/
abbrev ringSealed (s : State) (p : Nat) : List JRec := (sealedPart (ringOf s p)).1

/-- Epoch and step of the last SEAL in the ring, else those of the base. -/
abbrev sealOf (s : State) (p : Nat) (x : Superblock) : Nat × Nat := (lastSeal (ringSealed s p)).getD (x.baseEpoch, x.baseStep)

end Sys2Proof.Claims

/-- FORMAT of an OFF journal on a ready drive with the key loaded writes a base image and then a superblock with the next SEQ, and empties
the ring; enabling a journal on a drive of the job registers the own key, acquires the reservation and makes it RUN, an acquisition that
fails leaves it OFF with JOURNAL_IO, as FORMAT on a drive of another format does; disabling it makes it OFF. Compaction starts by the host
or at 75 % of the ring, and writes the sealed part of the ring after the base into the other base area under the next SEQ; a completed SEAL
joins the ring, sets DURABLE and starts compaction at 75 %, in SAFE it only joins the ring; a failed request is counted and makes a running
journal FAILED. An export writes its chunks and shows its step, an import whose headers and chunks hold replaces the image. A valid
announcement rebinds the dead node to the spare and closes its sessions but the announcing one. (R291, R348, R349, R350, R351, R353, R360,
R386, R387) -/
def Obligations.journal_results : Prop :=
  ∀ (p : Part) (s : State),
    (∀ port : HPort, ctrlAccess s port = some p.val →
      (∀ rs, jstate s p = 0 → stacksFree s p = true → driveReady s p = true → keyLoaded s p = true → listRegions s p = (rs, none) →
        recsSize (baseImage s p rs) ≤ 4096 * rd s p R.JNL_BASE_LEN_LEN →
        ∃ u d x, exec (.journalFormat port) s = .next u ∧ Holds u p d x (baseImage s p rs) ∧ d.ok = true ∧ d.ring = []
          ∧ x = ⟨nextSeq ((drive s p).getD { ok := true }), rd s p R.FAB_JOB_ID_JOB_ID, false, rd s p R.RS_EPOCH_STEP_EPOCH_STEP,
              rd s p R.RS_EPOCH_LAST_EPOCH, rd s p R.JNL_RING_LBA_LBA, true⟩
          ∧ u = { s with regs := u.regs, drives := u.drives, lastEngine := u.lastEngine } ∧ RegsKept s u [fieldKey R.JNL_STATUS_FILL_PCT p 0 0])
      ∧ (jstate s p = 0 → stacksFree s p = true → rd s 4 R.LP_STATUS_DRIVE_READY (journalPort s p) = 1 → rd s 4 R.LP_STATUS_FMT_OK (journalPort s p) = 0 →
        ∃ u, exec (.journalFormat port) s = .next u ∧ jstate u p = 0 ∧ u.drives = s.drives ∧ Noted u srcResilience K.JOURNAL_IO p)
      ∧ (∀ d, jstate s p = 0 → drive s p = some d → driveReady s p = true → (jobSb s p d).isSome = true →
        ∃ u, exec (.journalEnable port true) s = .next u ∧ jstate u p = 1 ∧ rd u p R.JNL_CTRL_JNL_EN = 1
          ∧ rd u 4 R.LP_STATUS_RESV_HELD (journalPort s p) = 1
          ∧ (∃ e, drive u p = some e ∧ e.holder = some (ownNode s p) ∧ ownNode s p ∈ e.resvKeys ∧ e.ring = d.ring ∧ e.bases = d.bases)
          ∧ u = { s with regs := u.regs, drives := u.drives, compacting := s.compacting.filter (· != p.val) })
      ∧ (∀ d, jstate s p = 0 → drive s p = some d → driveReady s p = true → (jobSb s p d).isSome = true →
        ∃ u, exec (.journalEnable port true false) s = .next u ∧ jstate u p = 0 ∧ u.drives = s.drives ∧ Noted u srcResilience K.JOURNAL_IO p)
      ∧ (∃ u, exec (.journalEnable port false) s = .next u ∧ jstate u p = 0 ∧ rd u p R.JNL_CTRL_JNL_EN = 0
        ∧ u = { s with regs := u.regs, staging := mapErase s.staging p }
        ∧ RegsKept s u [fieldKey R.JNL_STATUS_JSTATE p 0 0, fieldKey R.JNL_CTRL_JNL_EN p 0 0])
      ∧ (∀ d j x, drive s p = some d → mapFind s.jobs p = some j → driveReady s p = true → jobSb s p d = some x →
        checkWindow s p (rd s p R.EXP_CTRL_WINDOW) (rd s p R.EXP_OFF_OFF) (exportChunks s p (exportKey s p (sealOf s p x).1) (sealOf s p x).1
          (sealOf s p x).2 ((mapGet [] d.bases (baseLba s p x.baseSel) ++ ringSealed s p).flatMap jrecBytes)).flatten.length true = none →
        ∃ u, exec (.exportStart port) s = .next u ∧ rd u p R.EXP_STEP_STEP = (sealOf s p x).2 % 2 ^ 48
          ∧ u.hostOut = (devWrite s p (.win (rd s p R.EXP_CTRL_WINDOW) (rd s p R.EXP_OFF_OFF)) (exportChunks s p (exportKey s p (sealOf s p x).1)
              (sealOf s p x).1 (sealOf s p x).2 ((mapGet [] d.bases (baseLba s p x.baseSel) ++ ringSealed s p).flatMap jrecBytes)).flatten).1.hostOut
          ∧ RegsKept s u [fieldKey R.EXP_STEP_STEP p 0 0] ∧ u.drives = s.drives ∧ u.sram = s.sram ∧ u.hbm = s.hbm ∧ u.tiles = s.tiles)
      ∧ (∀ chunks image nonces x a l, image.sb0 = some x → image.bases.head? = some (a, l) → (mapFind s.jobs p).isSome = true → driveReady s p = true →
        checkWindow s p (rd s p R.EXP_CTRL_WINDOW) (rd s p R.EXP_OFF_OFF) chunks.flatten.length false = none →
        headersOk s p x.baseEpoch x.baseStep chunks nonces = true → chunksSpell (exportKey s p x.baseEpoch) chunks l = true →
        ∃ u d y, exec (.importExport port chunks image nonces) s = .next u ∧ Holds u p d y l ∧ d.ok = true ∧ d.ring = []
          ∧ y = ⟨nextSeq ((drive s p).getD { ok := true }), rd s p R.FAB_JOB_ID_JOB_ID, false, x.baseStep, x.baseEpoch, rd s p R.JNL_RING_LBA_LBA, true⟩
          ∧ u.sram = s.sram ∧ u.hbm = s.hbm ∧ u.tiles = s.tiles ∧ RegsKept s u [fieldKey R.JNL_STATUS_FILL_PCT p 0 0])
      ∧ (jstate s p = 1 → ∃ u, exec (.journalCompact p (some port)) s = .next u ∧ jstate u p = 2 ∧ p.val ∈ u.compacting
        ∧ u = { s with regs := u.regs, compacting := u.compacting } ∧ RegsKept s u [fieldKey R.JNL_STATUS_JSTATE p 0 0]))
    ∧ (s.safe = false →
      (jstate s p = 1 → ringFull75 s p = true → ∃ u, exec (.journalCompact p none) s = .next u ∧ jstate u p = 2 ∧ p.val ∈ u.compacting
        ∧ u = { s with regs := u.regs, compacting := u.compacting } ∧ RegsKept s u [fieldKey R.JNL_STATUS_JSTATE p 0 0])
      ∧ (∀ d x, drive s p = some d → currentSb d = some x → (jstate s p = 2 ∨ (jstate s p = 3 ∧ p.val ∈ s.compacting)) →
        ∃ u e y, exec (.compactionDone p) s = .next u ∧ jstate u p = 1
        ∧ Holds u p e y (mapGet [] d.bases (baseLba s p x.baseSel) ++ ringSealed s p) ∧ e.ring.map (·.body) = (sealedPart (ringOf s p)).2
        ∧ y.seq = x.seq + 1 ∧ y.jobId = x.jobId ∧ y.baseSel = !x.baseSel ∧ (y.baseEpoch, y.baseStep) = sealOf s p x
        ∧ u = { s with regs := u.regs, drives := u.drives, compacting := s.compacting.filter (· != p.val) })
      ∧ (∀ d l e c rest, firstSeal (staged s p) = some (l, (e, c), rest) → drive s p = some d → journals s p = true →
        ∃ u x, exec (.journalSealDone p) s = .next u ∧ drive u p = some x ∧ x = { d with ring := ringAppend s p d l }
          ∧ x.ring.map (·.body) = d.ring.map (·.body) ++ l ∧ staged u p = rest ∧ l ++ rest = staged s p
          ∧ rd u p R.JNL_DURABLE_STEP = c % 2 ^ 48 ∧ rd u p R.JNL_DURABLE_EPOCH_EPOCH = e % 2 ^ 32
          ∧ jstate u p = if jstate s p = 1 ∧ ringFull75 u p = true then 2 else jstate s p)
      ∧ (∃ u, exec (.journalIo p) s = .next u ∧ rd u p R.JNL_STATUS_IO_ERRS = min (rd s p R.JNL_STATUS_IO_ERRS + 1) (2 ^ 32 - 1)
        ∧ (jstate s p ≠ 0 → jstate u p = 4 ∧ Noted u srcResilience K.JOURNAL_IO p) ∧ (jstate s p = 0 → jstate u p = 0 ∧ u.faultQ = s.faultQ))
      ∧ (∀ (f : FPort) (i : Fin 32) (b : List Byte), sessPart s (32 * f.val + i.val) = p → frozen s p = false → certSigned s p b = true →
        rd s p R.TK_LAST_SEQ_SEQ < certSeq b → (sess s (32 * f.val + i.val)).device.toNat = certSpareId b →
        ∃ u, exec (.takeoverReceive p f i b) s = .next u ∧ rd u p R.TK_LAST_SEQ_SEQ = certSeq b % 2 ^ 32
          ∧ (p.val, certDead b, certSpareId b) ∈ u.rebound
          ∧ (∀ g ∈ fportsOf s p, ∀ k ∈ portSessions g, k ≠ 32 * f.val + i.val → sessOpen s k = true → peerNode s k = certDead b →
            sessOpen u k = false)))
    ∧ (s.safe = true → ∀ d l e c rest, firstSeal (staged s p) = some (l, (e, c), rest) → drive s p = some d → journals s p = true →
      ∃ u, exec (.journalSealDone p) s = .next u ∧ drive u p = some { d with ring := ringAppend s p d l } ∧ staged u p = rest
        ∧ u = { s with staging := u.staging, drives := u.drives })

/-- PRESET with KEY A5H, and a function reset of the controlling port, reset the partition: HOLD, RESET_BUSY, the cause, memories of 0,
tiles as after reset, no HBM key; other partitions' memories stay when no queue of it had work. Another KEY does nothing. The end of the
reset is READY with a note. When a controlling port is lost, by its link or by D3hot, the loss is counted, the partition is in HOLD, its
memories are scrubbed and its HBM key is revoked. A mode vote is written, and every write with VOTE clear withdraws it; scrubbing ends.
(R376, R378, R379, R380, R381) -/
def Obligations.partition_reset_results : Prop :=
  (∀ (port : HPort) (key : Byte) (p : Nat) (s : State), ctrlAccess s port = some p →
      (key = 0xA5#8 → ∃ u, exec (.preset port key) s = .next u ∧ isHold u p = true ∧ rd u p R.PART_CTRL_RESET_BUSY = 1
        ∧ rd u p R.PART_RESET_INFO_RESET_CAUSE = 1 ∧ mapFind u.hbmKeys p = none ∧ mapFind u.jobs p = none
        ∧ (∀ a, cellPart s a = p → cellGet u.sram a = none) ∧ (∀ t, partOfTile s t = p → tile u t = default)
        ∧ ((∀ q, q < 256 → hqState s p q = 2) → ∀ a, cellPart s a ≠ p → cellGet u.sram a = cellGet s.sram a))
      ∧ (key ≠ 0xA5#8 → exec (.preset port key) s = .next s)
      ∧ (∀ (m : BitVec 2) (vote : Bool), m ≠ 3 → (vote = true → m.toNat ≠ modeCode s.mode) → ∃ u, exec (.modeVote port m vote) s = .next u
        ∧ u = { s with regs := u.regs, csWants := u.csWants } ∧ rd u p R.PART_MODE_REQ_NEW_MODE = m.toNat
        ∧ rd u p R.PART_MODE_REQ_VOTE = vote.toNat
        ∧ RegsKept s u [fieldKey R.PART_MODE_REQ_NEW_MODE p 0 0, fieldKey R.PART_MODE_REQ_VOTE p 0 0])
      ∧ (∃ u, exec (.modeVote port 3 false) s = .next u ∧ OnlyRegs s u [fieldKey R.PART_MODE_REQ_VOTE p 0 0] ∧ rd u p R.PART_MODE_REQ_VOTE = 0))
    ∧ (∀ (port : HPort) (s : State), rdb s 4 R.HP_STATUS_LINK_UP port = true → s.safe = false →
      rdb s (portPart s port) R.PART_CTRL_RESET_BUSY = false → portRole s port = 0 → recovering s = false →
      (∃ u, exec (.flr port) s = .next u ∧ isHold u (portPart s port) = true ∧ rd u (portPart s port) R.PART_CTRL_RESET_BUSY = 1
        ∧ rd u (portPart s port) R.PART_RESET_INFO_RESET_CAUSE = 2 ∧ (∀ a, cellPart s a = portPart s port → cellGet u.sram a = none))
      ∧ (∀ c, (c = .linkLoss port ∨ (c = .d3hotEntry port ∧ port.val ∉ s.d3hot)) → frozen s (portPart s port) = true →
        ∃ u, exec c s = .next u ∧ rd u (portPart s port) R.PART_CTRL_SCRUB_BUSY = 1 ∧ keyLoaded u (portPart s port) = false)
      ∧ (∀ c, (c = .linkLoss port ∨ (c = .d3hotEntry port ∧ port.val ∉ s.d3hot)) → frozen s (portPart s port) = false → ∃ u, exec c s = .next u ∧ isHold u (portPart s port) = true
        ∧ rd u (portPart s port) R.PART_CTRL_SCRUB_BUSY = 1 ∧ keyLoaded u (portPart s port) = false
        ∧ rd u 4 R.HP_STATUS_LOSS_CNT port = min (rd s 4 R.HP_STATUS_LOSS_CNT port + 1) (2 ^ 16 - 1)
        ∧ (∀ a, cellPart s a = portPart s port → a / 2 ^ 40 ≠ 7 → cellGet u.sram a = none)
        ∧ Noted u (srcHub port 0) K.HOST_LINK_LOSS (portPart s port)))
    ∧ (∀ (p : Part) (s : State), s.safe = false →
      (rdb s p R.PART_CTRL_RESET_BUSY = true → rdb s p R.SD_CFG_SD_EN = false → (∀ x ∈ s.rowLocks, x.part ≠ p.val) → ∃ u, exec (.partitionResetDone p) s = .next u ∧ isReady u p = true
        ∧ rd u p R.PART_CTRL_RESET_BUSY = 0 ∧ rd u p R.PART_CFG_EVER_READY = 1 ∧ Noted u (srcHub (ctrlPort s p) 0) K.PARTITION_RESET_DONE p
        ∧ u.sram = s.sram ∧ u.hbm = s.hbm)
      ∧ (∃ u, exec (.scrubDone p) s = .next u ∧ OnlyRegs s u [fieldKey R.PART_CTRL_SCRUB_BUSY p 0 0] ∧ rd u p R.PART_CTRL_SCRUB_BUSY = 0))

/-- RESUME of a partition in HOLD takes effect, the partition leaving the hold of its faults and, with no collection to start again and no
row that waits for its lock, being READY, when its HBM key is LOADED, its controlling port's link is up, no scrub runs and it holds no
unacknowledged record of class F2; otherwise it stays in HOLD, RESUME_ERR is set and RESUME_REFUSED is noted. (R377) -/
def Obligations.resume_conditions : Prop :=
  ∀ (port : HPort) (p : Nat) (s : State), ctrlAccess s port = some p → isHold s p = true →
    (rd s p R.HBM_KEY_STATE_STATE = 1 ∧ rd s 4 R.HP_STATUS_LINK_UP (ctrlPort s p) = 1 ∧ rd s p R.PART_CTRL_SCRUB_BUSY ≠ 1
        ∧ (∀ r ∈ s.recs, r.cls = 2 → p ∉ r.unacked) →
      ∃ u, exec (.resume port) s = .next u
        ∧ u = retryLocks (sdResume (wr { s with heldForF2 := s.heldForF2.filter (· != p), secondF2 := mapErase s.secondF2 p } p R.PART_CFG_PART_STATE 0) p) p
        ∧ ((∀ x ∈ s.rowLocks, x.part ≠ p) → rd u p R.PART_CTRL_RESUME_ERR = rd s p R.PART_CTRL_RESUME_ERR)
        ∧ (rdb s p R.SD_CFG_SD_EN = false → (∀ x ∈ s.rowLocks, x.part ≠ p) → isReady u p = true ∧ u.faultQ = s.faultQ ∧ p ∉ u.heldForF2))
    ∧ (¬ (rd s p R.HBM_KEY_STATE_STATE = 1 ∧ rd s 4 R.HP_STATUS_LINK_UP (ctrlPort s p) = 1 ∧ rd s p R.PART_CTRL_SCRUB_BUSY ≠ 1
        ∧ (∀ r ∈ s.recs, r.cls = 2 → p ∉ r.unacked)) →
      ∃ u, exec (.resume port) s = .next u ∧ isHold u p = true ∧ rd u p R.PART_CTRL_RESUME_ERR = 1
        ∧ Noted u (srcHub (ctrlPort s p) 0) K.RESUME_REFUSED p ∧ u = { s with regs := u.regs, faultQ := u.faultQ })

namespace Sys2Proof.Claims

/-- A write of a port that reaches its partition's windows and queues (R366, R503). -/
abbrev PortWrite (s : State) (a : Access) (p : Nat) : Prop :=
  s.safe = false ∧ s.mseOff.contains a.port.val = false ∧ accessSized a = true ∧ ideBlocked s a.port = false ∧ portRole s a.port ≠ 2
    ∧ rdb s p R.PART_CTRL_RESET_BUSY = false ∧ recovering s = false ∧ p = portPart s a.port

end Sys2Proof.Claims

/-- A host link that trains shows its speed and width and enables the port; clearing Bus Master or Memory Space Enable does just that. The
owner of a window opens it when size, range and permission are good, the owner or the controlling host closes it, and an open window takes
no other write. LP_CTRL enables a storage port or shuts it down; its link comes up with the drive; its loss is counted and stops the journal
on it; a failing command of the journal's drive is a journal failure. (R367, R369, R381, R384, R386, R387) -/
def Obligations.host_port_results : Prop :=
  (∀ (port : HPort) (speed width : Nat) (flit : Bool) (s : State), portTrains s port = true → 1 ≤ speed → speed ≤ 6 → width ∈ [1, 2, 4, 8] →
      ∃ u, exec (.hostLinkUp port speed width flit) s = .next u ∧ rd u 4 R.HP_STATUS_LINK_UP port = 1 ∧ rd u 4 R.HP_STATUS_SPEED port = speed
        ∧ rd u 4 R.HP_STATUS_WIDTH port = width ∧ rd u 4 R.HP_STATUS_FLIT port = flit.toNat ∧ portUsable u port = !ideBlocked s port ∧ port.val ∉ u.mseOff)
    ∧ (∀ (port : HPort) (s : State),
      (∃ u, exec (.bmeClear port) s = .next u ∧ OnlyRegs s u [fieldKey R.HP_STATUS_BME 4 port 0] ∧ portUsable u port = false)
      ∧ (∃ u, exec (.mseClear port) s = .next u ∧ u = { s with mseOff := u.mseOff } ∧ port.val ∈ u.mseOff ∧ ctrlAccess u port = none))
    ∧ (∀ (a : Access) (p w : Nat) (s : State), PortWrite s a p → w < 256 → a.off = 0x101000 + 32 * w → a.size = 8 →
      (rdb s p R.WIN_CFG_VALID w = false → rd s p R.WIN_CFG_OWNER w = a.port → bitsOf a.val.toNat 0 2 = a.port → bitAt a.val.toNat 2 = true →
        (bitAt a.val.toNat 3 || bitAt a.val.toNat 4) = true → bitAt a.val.toNat 7 = false → rd s p R.WIN_SIZE_SIZE w ≠ 0 →
        rd s p R.WIN_BASE_BASE w * 4096 + rd s p R.WIN_SIZE_SIZE w ≤ 2 ^ 64 →
        ∃ u, exec (.windowWrite a) s = .next u ∧ u = { s with regs := u.regs } ∧ rd u p R.WIN_CFG_VALID w = 1
          ∧ rd u p R.WIN_CFG_RD w = bitsOf a.val.toNat 3 1 ∧ rd u p R.WIN_CFG_WR w = bitsOf a.val.toNat 4 1 ∧ rd u p R.WIN_CFG_OWNER w = a.port
          ∧ (∀ v, v < 256 → v ≠ w → rd u p R.WIN_CFG_VALID v = rd s p R.WIN_CFG_VALID v))
      ∧ (rdb s p R.WIN_CFG_VALID w = true →
        (bitAt a.val.toNat 2 = false → (rd s p R.WIN_CFG_OWNER w = a.port ∨ portRole s a.port = 0) →
          ∃ u, exec (.windowWrite a) s = .next u ∧ OnlyRegs s u [fieldKey R.WIN_CFG_VALID p w 0] ∧ rd u p R.WIN_CFG_VALID w = 0)
        ∧ (bitAt a.val.toNat 2 = true → exec (.windowWrite a) s = .next s)))
    ∧ (∀ (port : HPort) (k : LPort) (s : State), ctrlAccess s port = some (partOfLPort s k) →
      (∃ u, exec (.lpEnable port k true) s = .next u ∧ OnlyRegs s u [fieldKey R.LP_CTRL_EN 4 k 0] ∧ rd u 4 R.LP_CTRL_EN k = 1)
      ∧ (∃ u, exec (.lpEnable port k false) s = .next u ∧ u = { s with regs := u.regs } ∧ rd u 4 R.LP_CTRL_EN k = 0 ∧ rd u 4 R.LP_STATUS_LINK_UP k = 0
        ∧ rd u 4 R.LP_STATUS_DRIVE_READY k = 0))
    ∧ (∀ (k : LPort) (s : State), s.safe = false →
      (∀ (speed width : Nat) (fmtOk : Bool) (lbas : Word), rdb s 4 R.LP_CTRL_EN k = true → 1 ≤ speed → speed ≤ 6 → width ∈ [1, 2, 4] →
        ∃ u, exec (.storageLinkUp k speed width fmtOk lbas) s = .next u ∧ rd u 4 R.LP_STATUS_LINK_UP k = 1 ∧ rd u 4 R.LP_STATUS_SPEED k = speed
          ∧ rd u 4 R.LP_STATUS_WIDTH k = width ∧ rd u 4 R.LP_STATUS_DRIVE_READY k = 1 ∧ rd u 4 R.LP_STATUS_FMT_OK k = fmtOk.toNat
          ∧ rd u 4 R.LP_NS1_LBAS_LBAS k = lbas.toNat ∧ u = { s with regs := u.regs, freeCtr := s.freeCtr + 1 })
      ∧ (rdb s 4 R.LP_STATUS_LINK_UP k = true → ∃ u, exec (.storageLinkDown k) s = .next u ∧ rd u 4 R.LP_STATUS_LINK_UP k = 0
        ∧ rd u 4 R.LP_STATUS_LOSS_CNT k = min (rd s 4 R.LP_STATUS_LOSS_CNT k + 1) (2 ^ 16 - 1)
        ∧ (journalUses s (partOfLPort s k) k = true → jstate u (partOfLPort s k) = 4)
        ∧ Noted u (srcHub (4 + k) 0) K.STORAGE_LINK_DOWN (partOfLPort s k) ∧ u = { s with regs := u.regs, faultQ := u.faultQ })
      ∧ (rdb s 4 R.LP_CTRL_EN k = true → journalPort s (partOfLPort s k) = k.val →
        ∃ u, exec (.nvmeCompletion k false) s = .next u
          ∧ rd u (partOfLPort s k) R.JNL_STATUS_IO_ERRS = min (rd s (partOfLPort s k) R.JNL_STATUS_IO_ERRS + 1) (2 ^ 32 - 1)
          ∧ (jstate s (partOfLPort s k) ≠ 0 → jstate u (partOfLPort s k) = 4)))

namespace Sys2Proof.Claims

/-- Word 0 of queue q's registers is written by port a.port (R390, R391). -/
abbrev QueueWord (s : State) (a : Access) (p q : Nat) : Prop := PortWrite s a p ∧ q < 256 ∧ a.off = 0x110000 + 64 * q ∧ a.size = 4

/-- The queue's engine reads its rings, and descriptors are posted (R403). -/
abbrev MayFetch (s : State) (p q : Nat) : Prop :=
  qFetches s p q = true ∧ posted s p q ≠ 0 ∧ rd s p R.Q_SQ_STATUS_SQ_HEAD q < ringLen s p q

/-- bs has been accepted as the descriptor at SQ_HEAD (R403). -/
def Accepted (s u : State) (p q : Nat) (bs : List Byte) : Prop :=
  (hq u p q).descs = (hq s p q).descs ++ [{ idx := rd s p R.Q_SQ_STATUS_SQ_HEAD q, bytes := bs }]
    ∧ rd u p R.Q_SQ_STATUS_SQ_HEAD q = (rd s p R.Q_SQ_STATUS_SQ_HEAD q + 1) % ringLen s p q % 2 ^ 16
    ∧ rd u p R.Q_SQ_STATUS_EXP_SEQ q = (rd s p R.Q_SQ_STATUS_EXP_SEQ q + 1) % 2 ^ 16
    ∧ rd u p R.Q_SQ_STATUS_EXP_PHASE q = if (rd s p R.Q_SQ_STATUS_SQ_HEAD q + 1) % ringLen s p q = 0 then
        (1 - rd s p R.Q_SQ_STATUS_EXP_PHASE q) % 2 else rd s p R.Q_SQ_STATUS_EXP_PHASE q

end Sys2Proof.Claims

/-- Setting Q_EN on a queue in RESET whose rings are good makes it ACTIVE with its indices at 0 and both phases at 1; clearing Q_EN puts it
into RESET without descriptors; the controlling host moves a queue in RESET to another port. SQ_DB sets the tail and wakes a stalled queue;
CQ_DB sets the head, and held records that fit are written. A descriptor with the expected phase and number is accepted; another starts the
re-reads, the eighth of which stalls the queue. A hold-off that expires raises the vector once, or leaves it pending while it is masked.
(R390, R391, R393, R403, R408, R410) -/
def Obligations.queue_setup_results : Prop :=
  (∀ (a : Access) (p q : Nat) (s : State), QueueWord s a p q →
      (qOwner s p q = a.port → hqState s p q = 2 → bitAt a.val.toNat 0 = true → bitsOf a.val.toNat 1 2 = a.port →
        1 ≤ bitsOf a.val.toNat 3 5 → bitsOf a.val.toNat 3 5 ≤ 16 → bitAt a.val.toNat 18 = false → portUsable s a.port = true →
        rd s p R.SQ_BASE_BASE q * 4096 + 64 * 2 ^ bitsOf a.val.toNat 3 5 ≤ 2 ^ 64 →
        rd s p R.CQ_BASE_BASE q * 4096 + 16 * 2 ^ bitsOf a.val.toNat 3 5 ≤ 2 ^ 64 →
        (rd s p R.CQ_BASE_BASE q * 4096 + 16 * 2 ^ bitsOf a.val.toNat 3 5 ≤ rd s p R.SQ_BASE_BASE q * 4096
          ∨ rd s p R.SQ_BASE_BASE q * 4096 + 64 * 2 ^ bitsOf a.val.toNat 3 5 ≤ rd s p R.CQ_BASE_BASE q * 4096) →
        ∃ u, exec (.queueEnable a) s = .next u ∧ hqState u p q = 0 ∧ rd u p R.Q_CFG_Q_EN q = 1
          ∧ rd u p R.Q_CFG_LOG2_SIZE q = bitsOf a.val.toNat 3 5 ∧ (hq u p q).descs = [] ∧ (hq u p q).held = []
          ∧ rd u p R.Q_SQ_STATUS_SQ_HEAD q = 0 ∧ rd u p R.Q_SQ_STATUS_SQ_TAIL q = 0 ∧ rd u p R.Q_SQ_STATUS_EXP_PHASE q = 1
          ∧ rd u p R.Q_CQ_STATUS_CQ_TAIL q = 0 ∧ rd u p R.Q_CQ_STATUS_CQ_PHASE q = 1 ∧ u.sram = s.sram ∧ u.hbm = s.hbm)
      ∧ ((qOwner s p q = a.port ∨ portRole s a.port = 0) → hqState s p q ≠ 2 → bitAt a.val.toNat 0 = false →
        ∃ u, exec (.queueDisable a) s = .next u ∧ hqState u p q = 2 ∧ rd u p R.Q_CFG_Q_EN q = 0 ∧ (hq u p q).descs = [])
      ∧ (portRole s a.port = 0 → hqState s p q = 2 → bitAt a.val.toNat 0 = false → s.mode = .pm1 →
        ∃ u, exec (.queueOwnerWrite a) s = .next u ∧ qOwner u p q = bitsOf a.val.toNat 1 2 ∧ hqState u p q = 2 ∧ u = { s with regs := u.regs }))
    ∧ (∀ (port : HPort) (q : Fin 256) (v : Half) (p : Nat) (s : State), p = portPart s port → s.safe = false → port.val ∉ s.mseOff →
      portRole s port ≠ 2 → ideBlocked s port = false → recovering s = false → qOwner s p q = port → hqState s p q ≠ 2 → rdb s p R.PART_CTRL_RESET_BUSY = false →
      v.toNat < ringLen s p q → v.toNat < 2 ^ 16 →
      (∃ u, exec (.sqDb port q 4 v) s = .next u ∧ rd u p R.Q_SQ_STATUS_SQ_TAIL q = v.toNat
        ∧ hqState u p q = (if hqState s p q = 1 ∧ qMayRun s p q = true then 0 else hqState s p q)
        ∧ u = { s with regs := u.regs, hqueues := u.hqueues } ∧ (hq u p q).descs = (hq s p q).descs)
      ∧ (frozen s p = true → exec (.cqDb port q 4 v) s
        = .next (wr (wr s p R.CQ_DB_VALUE v.toNat q) p R.Q_CQ_STATUS_CQ_HEAD v.toNat q))
      ∧ (portUsable s port = true → frozen s p = false → ∃ u, exec (.cqDb port q 4 v) s = .next u ∧ rd u p R.Q_CQ_STATUS_CQ_HEAD q = v.toNat
        ∧ (hq u p q).held = (hq s p q).held.drop (cqRoom (wr s p R.Q_CQ_STATUS_CQ_HEAD v.toNat q) p q)
        ∧ u.hostOut.length = s.hostOut.length + min (hq s p q).held.length (cqRoom (wr s p R.Q_CQ_STATUS_CQ_HEAD v.toNat q) p q)))
    ∧ (∀ (p : Part) (q : Fin 256) (bs : List Byte) (s : State), MayFetch s p q →
      ((hq s p q).rereads = 0 →
        (descMatches s p q bs = true → ∃ u, exec (.descriptorFetchReturn p q [bs]) s = .next u ∧ Accepted s u p q bs
          ∧ u.hostReads = (fetchRead s p q (fetchLen s p q)).hostReads)
        ∧ (descMatches s p q bs = false → exec (.descriptorFetchReturn p q [bs]) s =
          .next (setHq (fetchRead s p q (fetchLen s p q)) p q { hq s p q with rereads := 1 })))
      ∧ (∀ k, (hq s p q).rereads = k → 1 ≤ k →
        (descMatches s p q bs = true → ∃ u, exec (.descriptorReread p q bs) s = .next u ∧ Accepted s u p q bs ∧ (hq u p q).rereads = 0)
        ∧ (descMatches s p q bs = false → k < 8 → exec (.descriptorReread p q bs) s =
          .next (setHq (fetchRead s p q 1) p q { hq s p q with rereads := k + 1 }))
        ∧ (descMatches s p q bs = false → k = 8 → ∃ u, exec (.descriptorReread p q bs) s = .next u ∧ hqState u p q = 1
          ∧ rd u p R.Q_STATE_STALL_KIND q = K.DESC_NOT_READY.code ∧ (hq u p q).rereads = 0 ∧ Noted u (srcQueue p q) K.DESC_NOT_READY p)))
    ∧ (∀ (p : Part) (q : Fin 256) (s : State), s.safe = false → rdb s p R.Q_CFG_IRQ_EN q = true → 0 < (hq s p q).counted →
      portUsable s (qOwner s p q) = true →
      ∃ u, exec (.irqHoldoffExpiry p q) s = .next u ∧ (hq u p q).counted = 0 ∧ u = { s with hqueues := u.hqueues, irqs := u.irqs, msixPend := u.msixPend }
        ∧ (vecMasked s (qOwner s p q) (rd s p R.Q_CFG_VECTOR q) = false → u.irqs = s.irqs ++ [(qOwner s p q, rd s p R.Q_CFG_VECTOR q)])
        ∧ (vecMasked s (qOwner s p q) (rd s p R.Q_CFG_VECTOR q) = true → u.irqs = s.irqs ∧ (qOwner s p q, rd s p R.Q_CFG_VECTOR q) ∈ u.msixPend))

namespace Sys2Proof.Claims

/-- Queue q may start descriptor d, whose operation is `opc` and which passes every check (R397, R404). -/
abbrev DescStarts (s : State) (p q opc : Nat) (d : QDesc) : Prop := nextDesc s p q = some d ∧ d.opc = opc ∧ descRefuse s p q d = none

/-- In the queue's list, d's place is taken by x; every other descriptor is as before. -/
def DescBecame (s u : State) (p q : Nat) (d x : QDesc) : Prop :=
  (hq u p q).descs = (hq s p q).descs.map (fun y => if sameDesc y d then x else y)

end Sys2Proof.Claims

/-- A descriptor that passes its checks starts: NOP ends at once; INPUT delivers the window's bytes, or keeps them under a replay plan;
OUTPUT writes the bytes it read to the window; WAIT ends with the counter's value once its test holds and waits otherwise, until its
timeout; TLOAD loads a halted tile; TSTART starts one. A finished descriptor leaves the list in its turn, adds its increment to its counter
when its status is OK, and writes its record at CQ_TAIL when there is room; an OUTPUT with FLUSH or FENCE_ALL first issues a read of no
bytes on each port that it wrote through, and its record follows the last of them; one through a port that cannot be used fails. A host read
without completion ends in HOST_ABORT and changes no memory. (R368, R396, R398, R399, R400, R401, R402, R404, R405, R372) -/
def Obligations.queue_operation_results : Prop :=
  ∀ (p : Part) (q : Fin 256) (s : State) (d : QDesc),
    (DescStarts s p q 1 d → ∃ u, exec (.nop p q) s = .next u ∧ DescBecame s u p q d { d with started := true, finished := true, info := 0 }
      ∧ u = { s with regs := u.regs, hqueues := u.hqueues, qLast := u.qLast } ∧ RegsKept s u [fieldKey R.Q_STATE_INFLIGHT p q 0])
    ∧ (∀ (data bs : List Byte) (v : State), DescStarts s p q 2 d → devTgBusy s (devSpace s p d.dst) d.len = false → d.len ≤ data.length →
      (planned s p = false → devRead s (devSpace s p d.src) d.len (data.take d.len) = (bs, none) → devWrite s p (devSpace s p d.dst) bs = (v, none) →
        ∃ u x, exec (.input p q data) s = .next u ∧ DescBecame s u p q d x ∧ x.finished = true ∧ x.status = d.status ∧ x.info = bs.length
          ∧ u.sram = v.sram ∧ u.hbm = v.hbm)
      ∧ (planned s p = true → ∃ u x, exec (.input p q data) s = .next u ∧ DescBecame s u p q d x ∧ x.finished = true ∧ x.late.isSome = true
          ∧ u.sram = s.sram ∧ u.hbm = s.hbm))
    ∧ (∀ (bs : List Byte) (v : State), DescStarts s p q 3 d → devTgBusy s (devSpace s p d.src) d.len = false →
      devRead s (devSpace s p d.src) d.len [] = (bs, none) → devWrite s p (devSpace s p d.dst) bs = (v, none) →
      ∃ u x, exec (.output p q .none) s = .next u ∧ DescBecame s u p q d x ∧ x.finished = true ∧ x.status = d.status ∧ u.hostOut = v.hostOut
        ∧ x.wrote = lastWrite s p (devSpace s p d.dst) bs.length
        ∧ u.sram = s.sram ∧ u.hbm = s.hbm)
    ∧ (runningWait s p q = none → DescStarts s p q 4 d → ∀ c, waitCtr s p d = some c →
      ∃ u x, exec (.queueWait p q) s = .next u ∧ DescBecame s u p q d x ∧ x.started = true ∧ x.finished = (d.finished || waitHolds s p d)
        ∧ (waitHolds s p d = true → x.info = ctrVal s c) ∧ u.sram = s.sram ∧ u.hbm = s.hbm)
    ∧ (runningWait s p q = some d → clocked s p = true → waitHolds s p d = false →
      (∃ u, exec (.queueWait p q) s = .next u ∧ DescBecame s u p q d { d with started := true })
      ∧ (∃ u x, exec (.queueWaitTimeout p q) s = .next u ∧ DescBecame s u p q d x ∧ x.finished = true ∧ x.status = St.TIMEOUT ∧ x.info = waitVal s p d
        ∧ u.sram = s.sram ∧ u.hbm = s.hbm))
    ∧ (∀ (ext bs : List Byte), DescStarts s p q 5 d → tileState s (d.arg0 % 256) ≠ 1 → rdb s 4 R.TILE_STATUS_LOADING (d.arg0 % 256) = false →
      devTgBusy s (devSpace s p d.src) (64 * bitsOf d.arg0 32 16) = false →
      ((tile s (d.arg0 % 256)).loadWaits = [] ∨ (tile s (d.arg0 % 256)).loadWaits.head? = some (srcQueue p q)) →
      devRead s (devSpace s p d.src) (64 * bitsOf d.arg0 32 16) ext = (bs, none) →
      ∃ u x, exec (.hostTload p q ext .none) s = .next u ∧ DescBecame s u p q d x ∧ x.finished = true ∧ x.status = d.status ∧ x.loading = some (d.arg0 % 256)
        ∧ rd u 4 R.TILE_STATUS_LOADING (d.arg0 % 256) = 1 ∧ u.hbm = s.hbm
        ∧ u.sram = sramCells s.sram (tileMemKey (d.arg0 % 256) (bitAt d.arg0 8) (64 * bitsOf d.arg0 16 16)) bs)
    ∧ (DescStarts s p q 6 d → tileState s (d.arg0 % 256) = 0 → isReady s p = true → rdb s 4 R.TILE_STATUS_LOADING (d.arg0 % 256) = false →
      opcodeDefined (fetchWord s (d.arg0 % 256) (bitsOf d.arg0 16 14) / 2 ^ 26) = true →
      ∃ u, exec (.hostTstart p q) s = .next u ∧ rd u 4 R.TILE_STATUS_STATE (d.arg0 % 256) = 1 ∧ pcOf u (d.arg0 % 256) = bitsOf d.arg0 16 14
        ∧ DescBecame s u p q d { d with started := true, finished := true, info := 0 })
    ∧ (∀ i : BitVec 16, findDesc s p q i.toNat = some d → clocked s p = true → mayComplete (hq s p q).descs d = true →
      (d.opc = 2 → d.late = none ∧ ∀ x, d.entry = some x → isReady s p = true → (noteInput s p x).2 = true) →
      d.status = St.OK → d.fault = none → flushPorts s p q d = [] → portUsable s (qOwner s p q) = true → (hq s p q).held = [] → cqRoom s p q ≠ 0 →
      ∃ u, exec (.descriptorComplete p q i) s = .next u ∧ (hq u p q).descs = (hq s p q).descs.filter (fun x => !sameDesc x d)
        ∧ u.hostOut = s.hostOut ++ [⟨qOwner s p q, rd s p R.CQ_BASE_BASE q * 4096 + 16 * rd s p R.Q_CQ_STATUS_CQ_TAIL q,
            (descRec d St.OK d.info).bytes (rd s p R.Q_CQ_STATUS_CQ_PHASE q) (rd s p R.Q_SQ_STATUS_SQ_HEAD q), false, false, qPasid s p q⟩]
        ∧ (∀ x, d.opc = 2 → d.entry = some x → isReady s p = true → u.inputs = (noteInput s p x).1.inputs)
        ∧ (∀ t, d.loading = some t → rd u 4 R.TILE_STATUS_LOADING t = 0)
        ∧ rd u p R.Q_CQ_STATUS_CQ_TAIL q = (rd s p R.Q_CQ_STATUS_CQ_TAIL q + 1) % ringLen s p q % 2 ^ 16
        ∧ rd u p R.Q_STATE_DONE q = (rd s p R.Q_STATE_DONE q + 1) % 2 ^ 32
        ∧ (∀ c, d.flag 4 = true → resolveName s p (BitVec.ofNat 32 (d.f 28 4)) = .ctr c →
            u.incs = s.incs ++ [⟨c, srcQueue p q, BitVec.ofNat 32 (d.f 32 2)⟩]) ∧ (d.flag 4 = false → u.incs = s.incs) ∧ u.sram = s.sram ∧ u.hbm = s.hbm)
    ∧ (∀ i : BitVec 16, findDesc s p q i.toNat = some d → clocked s p = true → mayComplete (hq s p q).descs d = true → d.opc = 3 → d.loading = none →
      d.fault = none → flushPorts s p q d ≠ [] →
      ((∀ x ∈ flushPorts s p q d, portUsable s x.1 = false) → ∃ u, exec (.descriptorComplete p q i) s = .next u ∧ u.hostReads = s.hostReads
        ∧ Noted u (srcQueue p q) K.HOST_DMA_ERROR p)
      ∧ ((∀ x ∈ flushPorts s p q d, portUsable s x.1 = true) → ∃ u, exec (.descriptorComplete p q i) s = .next u ∧ DescBecame s u p q d { d with flushing := true, flushWait := (flushPorts s p q d).map (·.1) }
        ∧ u.hostReads = s.hostReads ++ (flushPorts s p q d).map (fun x => ⟨x.1, x.2, 0, false, destPasid s p d⟩) ∧ u.hostOut = s.hostOut))
    ∧ (∀ (i : BitVec 16) (h : HPort), (hq s p q).descs.find? (fun x => x.idx == i.toNat && x.flushWait.contains h.val) = some d → s.safe = false → frozen s p = false → rdb s 4 R.HP_STATUS_LINK_UP h = true →
      (d.flushWait.filter (· != h.val) = [] → portUsable s (qOwner s p q) = true → (hq s p q).held = [] → cqRoom s p q ≠ 0 →
        ∃ u, exec (.flushReadDone p q i true h) s = .next u ∧ (hq u p q).descs = (hq s p q).descs.filter (fun x => !sameDesc x d)
          ∧ u.hostOut.length = s.hostOut.length + 1 ∧ u.incs = s.incs ∧ u.faultQ = s.faultQ)
      ∧ (d.flushWait.filter (· != h.val) ≠ [] →
        ∃ u, exec (.flushReadDone p q i true h) s = .next u ∧ DescBecame s u p q d { d with flushWait := d.flushWait.filter (· != h.val) }
          ∧ u = { s with hqueues := u.hqueues, regs := u.regs } ∧ u.hostOut = s.hostOut))
    ∧ (DescStarts s p q 2 d → devTgBusy s (devSpace s p d.dst) d.len = false →
      ∃ u x, exec (.completionTimeout (.inl (p, q))) s = .next u ∧ DescBecame s u p q d x ∧ x.finished = true ∧ x.status = St.HOST_ABORT
        ∧ u.sram = s.sram ∧ u.hbm = s.hbm)

namespace Sys2Proof.Claims

/-- A security command of the controlling port with none running (R436). -/
abbrev SecOk (s : State) (port : HPort) (p : Nat) : Prop := ctrlAccess s port = some p ∧ rdb s p R.SEC_RESULT_CMD_BUSY = false

/-- A fault of kind k from package-level unit `src` has been noted (R440). -/
def NotedPkg (u : State) (src : Nat) (k : Kind) : Prop := ∃ a d st, ⟨{ mkFault src k 0 a d with part := none }, st⟩ ∈ u.faultQ

def secCode (u : State) (p : Nat) : Nat := rd u p R.SEC_RESULT_CMD_RESULT

/-- Where the blob of a security command lies (R437). -/
abbrev blobAt (s : State) (p : Nat) : Nat := rd s p R.SEC_CMD_ADDR_ADDR

end Sys2Proof.Claims

/-- In HOLD: HBM_KEY_LOAD loads a fresh key and the old contents are lost, JOB_IMPORT stores the secret that unwraps, MEMBER_LOAD a
certificate that checks, JOB_CLEAR drops both and closes the sessions; out of HOLD HBM_KEY_LOAD is refused with a note. DBG_CHALLENGE gives
a nonce; a good token opens debug and drops the job secret and the HBM key. SVN_COMMIT raises the fused number from HP0 only; OWNER_ENROL
takes a first owner key that signs itself. A recovery image that fails is refused, one that passes boots to READY. SPDM sessions are counted
within their limit, GET_MEASUREMENTS reports the recorded digests, IDE keys make a port secure, a failed IDE check drops its stream and
holds the partition. A command that takes time is busy from its start to its end. A Vordaust fault is SAFE. (R420, R421, R422, R423, R424,
R425, R427, R428, R429, R433, R434, R435) -/
def Obligations.security_results : Prop :=
  (∀ (port : HPort) (p : Nat) (s : State), SecOk s port p →
      (isHold s p = true → ∃ u, exec (.hbmKeyLoad port) s = .next u ∧ keyLoaded u p = true ∧ secCode u p = 0
        ∧ (∀ k ∈ stacksOf s p, ∀ o, o < 2 ^ 36 → cellGet u.hbm (hbmKey k o) = none)
        ∧ (∀ a, (∀ k ∈ stacksOf s p, a / 2 ^ 36 ≠ k) → cellGet u.hbm a = cellGet s.hbm a) ∧ u.sram = s.sram ∧ u.tiles = s.tiles)
      ∧ (isHold s p = false → ∃ u, exec (.hbmKeyLoad port) s = .next u ∧ secCode u p = St.SEC_NOT_HOLD ∧ u.hbm = s.hbm
        ∧ NotedPkg u srcVordaust K.HBM_KEY_REFUSED)
      ∧ (∀ sealIt blob v b j, jobGate s p true = none → secBlob s p (blobAt s p) 512 blob .none = (v, .ok b) → unwrapJob s p b = .ok j →
        ∃ u, exec (.jobImport port sealIt blob) s = .next u ∧ mapFind u.jobs p = some j ∧ rd u p R.SEC_STATUS_JOB_LOADED = 1 ∧ secCode u p = 0
          ∧ (u.csWants = s.csWants ↔ sealIt = false))
      ∧ (∀ blob v b j, jobGate s p false = none → mapFind s.jobs p = some j → secBlob s p (blobAt s p) 256 blob .none = (v, .ok b) → memberCheck s p j b = 0 →
        ∃ u, exec (.memberLoad port blob) s = .next u ∧ mapFind u.jobs p = some { j with member := some b }
          ∧ rd u p R.SEC_STATUS_MEMBER_LOADED = 1 ∧ secCode u p = 0)
      ∧ (isHold s p = true → ∃ u, exec (.jobClear port) s = .next u ∧ mapFind u.jobs p = none ∧ rd u p R.SEC_STATUS_JOB_LOADED = 0
        ∧ rd u p R.SEC_STATUS_MEMBER_LOADED = 0 ∧ secCode u p = 0 ∧ (∀ f ∈ fportsOf s p, AllClosed u f) ∧ u.hbm = s.hbm)
      ∧ (∃ u, exec (.dbgChallenge port) s = .next u ∧ (mapFind u.dbgChal p).isSome = true ∧ secCode u p = 0 ∧ u.sram = s.sram)
      ∧ (∀ blob v b, secBlob s p (blobAt s p) 256 blob .none = (v, .ok b) → b.length = 256 → leNat (sub b 80 1) = 2 ^ p → zeroAt b 81 79 = true → held s p = true →
        p < partCount s.mode → mapFind s.dbgChal p = some (leNat (b.take 32)) → leNat (sub b 32 48) = Config.deviceId →
        Config.ecdsaOk (s.ownerBoot.getD Config.flezelDebug) (b.take 160) (sub b 160 96) = true →
        ∃ u, exec (.dbgUnlock port blob) s = .next u ∧ dbgAuth u p = true ∧ mapFind u.jobs p = none ∧ keyLoaded u p = false
          ∧ mapFind u.dbgChal p = none ∧ secCode u p = 0 ∧ Noted u srcVordaust K.DEBUG_AUTHORISED p)
      ∧ (port = 0 → ∃ u, exec (.svnCommit port) s = .next u ∧ secCode u p = 0 ∧ (rd s 4 R.SEC_STATUS_IMAGE_SVN < 128 →
          rd u 4 R.SEC_STATUS_FUSE_SVN = max (rd s 4 R.SEC_STATUS_FUSE_SVN) (rd s 4 R.SEC_STATUS_IMAGE_SVN)))
      ∧ (port ≠ 0 → ∃ u, exec (.svnCommit port) s = .next u ∧ secCode u p = St.ACCESS_DENIED ∧ OnlyRegs s u [fieldKey R.SEC_RESULT_CMD_RESULT p 0 0])
      ∧ (∀ blob v b, port = 0 → rdb s 4 R.SEC_STATUS_OWNER_ENROLLED = false → secBlob s p (blobAt s p) 256 blob .none = (v, .ok b) → zeroAt b 97 63 = true →
        Config.ecdsaOk (b.take 97) (leBytes 48 Config.deviceId ++ b.take 97) (sub b 160 96) = true →
        ∃ u, exec (.ownerEnrol port blob) s = .next u ∧ u.ownerKey = some (b.take 97) ∧ rd u 4 R.SEC_STATUS_OWNER_ENROLLED = 1 ∧ secCode u p = 0)
      ∧ (∀ blob v c, secBlob s p (blobAt s p) 256 blob .none = (v, .error c) → ∃ u, exec (.dbgUnlock port blob) s = .next u ∧ secCode u p = c
        ∧ u.dbgChal = s.dbgChal ∧ NotedPkg u srcVordaust K.DEBUG_AUTH_FAIL)
      ∧ (∀ blob sealIt, ∀ x ∈ [(1, Instr.hbmKeyLoad port .begins), (2 + 16 * sealIt.toNat, .jobImport port sealIt blob .begins),
          (3, .memberLoad port blob .begins), (4, .jobClear port .begins), (5, .dbgChallenge port .begins), (6, .dbgUnlock port blob .begins),
          (7, .svnCommit port .begins), (8, .ownerEnrol port blob .begins)],
        ∃ u, exec x.2 s = .next u ∧ u = { s with regs := u.regs, secRun := u.secRun } ∧ rd u p R.SEC_RESULT_CMD_BUSY = 1
          ∧ mapFind u.secRun p = some ⟨x.1, blobAt s p, port⟩))
    ∧ (∀ (port : HPort) (p a : Nat) (s : State), s.safe = false → p = portPart s port → mapFind s.secRun p = some ⟨1, a, port⟩ →
      ∃ u, exec (.hbmKeyLoad port .ends) s = .next u ∧ rd u p R.SEC_RESULT_CMD_BUSY = 0 ∧ mapFind u.secRun p = none
        ∧ (isHold s p = true → keyLoaded u p = true ∧ secCode u p = 0) ∧ (isHold s p = false → secCode u p = St.SEC_NOT_HOLD))
    ∧ (∀ (img : List Byte) (b : BootFacts) (s : State), s.safe = false → recovering s = true → rdb s 4 R.REC_CTRL_REC_WAIT = true →
      rdb s 4 R.REC_CTRL_REC_BUSY = false → portUsable s 0 = true → img.length = rd s 4 R.REC_LEN_LEN →
      (imageCheck s img ≠ 0 → imageCheck s img < 256 → ∃ u, exec (.recoveryGo img b) s = .next u
        ∧ rd u 4 R.REC_CTRL_REC_RESULT = imageCheck s img ∧ NotedPkg u srcVordaust K.RECOVERY_REJECTED ∧ recovering u = true)
      ∧ (imageCheck s img = 0 → b.unitsOk = true → b.hbmOk = true → ∃ u, exec (.recoveryGo img b) s = .next u
        ∧ rd u 4 R.BOOT_STATUS_STAGE = 9 ∧ rd u 4 R.REC_CTRL_REC_WAIT = 0 ∧ rd u 4 R.REC_CTRL_REC_RESULT = 0
        ∧ rd u 4 R.SEC_STATUS_RECOVERED = 1 ∧ (rdb s 4 R.REC_CTRL_PERSIST = true → u.flash = some img)))
    ∧ (∀ (port : HPort) (s : State),
      (spdmLive s = true → mapGet 0 s.spdm port < 4 → ∃ u, exec (.spdmRequest (some port) .keyExchange) s = .next u
        ∧ mapGet 0 u.spdm port = mapGet 0 s.spdm port + 1
        ∧ u.spdmOut = s.spdmOut ++ [⟨port.val, .keyExchange, true, .empty, some (Config.ecdsaSign s.aliasKey [])⟩])
      ∧ (spdmLive s = true → ∃ u, exec (.spdmRequest (some port) .getMeasurements) s = .next u
        ∧ (∀ x ∈ s.measures, (port.val, x.1, x.2.2) ∈ u.measured) ∧ u = { s with measured := u.measured, spdmOut := u.spdmOut }
        ∧ (portRole s port ≠ 2 → s.safe = false → (port.val, 6, Config.sha384 (measure6 s (portPart s port))) ∈ u.measured)
        ∧ u.spdmOut = s.spdmOut ++ [⟨port.val, .getMeasurements, true, .measurements (reportedMeasures s port),
            some (Config.ecdsaSign s.aliasKey (SpdmBody.measurements (reportedMeasures s port)).bytes)⟩])
      ∧ (∀ slot, spdmLive s = true → slot < 2 → ∃ u, exec (.spdmRequest (some port) (.getCertificate slot)) s = .next u
        ∧ u = { s with spdmOut := s.spdmOut ++ [⟨port.val, .getCertificate slot, true, .chain (certChain s slot), none⟩] })
      ∧ (∀ sel set key, spdmLive s = true → 0 < mapGet 0 s.spdm port →
        (∃ u, exec (.spdmRequest (some port) (.ideKm sel (.go set))) s = .next u ∧ (ideStream u port sel).secure = true
          ∧ (ideStream u port sel).set = set ∧ rd u 4 R.HP_STATUS_IDE_ACTIVE port = 1 ∧ ideBlocked u port = false)
        ∧ (∃ u, exec (.spdmRequest (some port) (.ideKm sel (.program set key))) s = .next u ∧ (ideStream u port sel).secure = (ideStream s port sel).secure
          ∧ (if set then (ideStream u port sel).key1 else (ideStream u port sel).key0) = key))
      ∧ (∀ sel, s.safe = false → (ideStream s port sel).secure = true → portRole s port ≠ 2 → isReady s (portPart s port) = true →
        ∃ u, exec (.ideCheckFail port sel) s = .next u ∧ (ideStream u port sel).secure = false
          ∧ rd u 4 R.HP_STATUS_IDE_ACTIVE port = (ideStream s port (!sel)).secure.toNat ∧ isHold u (portPart s port) = true
          ∧ Noted u (srcHub port 0) K.IDE_CHECK_FAIL (portPart s port)))
    ∧ (∀ s : State, ∃ u, exec .vordaustFault s = .next u ∧ u.safe = true ∧ (s.safe = false → u.hbmKeys = [] ∧ u.jobs = [] ∧ u.certCache = [] ∧ u.safeKind = K.VORDAUST_FAULT.code)
      ∧ u.sram = s.sram ∧ u.hbm = s.hbm)

/-- The first message of class F1 from a source takes the lowest free entry, unacknowledged by its partition, and opens its scope; one in a
settled scope is recorded as F2 and holds the partition. SETTLE_EXPIRY settles its scope. FC_ACK clears the partition's mark on every record
up to its number. A good ring is enabled, a bad one sets CFG_ERR; the head is written. An injected fault of an own unit is raised. A supply,
clock, temperature or safe-state pair at fault, a broken pair other than FRZ and a failed die-to-die link put the package into SAFE; a
broken FRZ pair is noted. The retries of a failed link are counted. (R442, R443, R444, R445, R448, R449, R450, R451, R453, R459) -/
def Obligations.collector_results : Prop :=
  (∀ (m : FaultMsg) (f : PendFault) (rest : List PendFault) (p : Part) (i : Nat) (s : State), takeOut m s.faultQ = some (f, rest) →
      f.msg = m → m.part = some p → m.cls = 1 → mapGet 0 s.lostRecs p = 0 → lowestFree s 0 1008 = some i →
      (scopeAt s 1 m.source.toNat = none → ∃ u r, exec (.faultMessage m) s = .next u ∧ r ∈ u.recs ∧ r.slot = i ∧ r.source = m.source.toNat
        ∧ r.kind = m.kind.toNat ∧ r.cls = 1 ∧ r.secondary = false ∧ r.addr = m.addr.toNat ∧ r.seq = s.seq.toNat ∧ r.unacked = [p.val] ∧ r.st = f.st
        ∧ u.seq = s.seq + 1 ∧ rd u p R.FC_STATUS_LAST_SEQ = s.seq.toNat ∧ (scopeAt u 1 m.source.toNat).isSome = true
        ∧ (∀ x, scopeAt u 2 x = scopeAt s 2 x) ∧ u.sram = s.sram ∧ u.tiles = s.tiles)
      ∧ (∀ x, scopeAt s 1 m.source.toNat = some x → x.settled = true → scopeAt s 2 p = none → isReady s p = true →
        ∃ u r, exec (.faultMessage m) s = .next u ∧ r ∈ u.recs ∧ r.slot = i ∧ r.cls = 2 ∧ r.origCls = 1 ∧ isHold u p = true))
    ∧ (∀ (c : BitVec 2) (x : BitVec 16) (s : State), ∃ u, exec (.settleExpiry c x) s = .next u
        ∧ (∀ y, scopeAt u c.toNat x.toNat = some y → y.settled = true) ∧ (scopeAt u c.toNat x.toNat).isSome = (scopeAt s c.toNat x.toNat).isSome
        ∧ (∀ c' x', (c', x') ≠ (c.toNat, x.toNat) → scopeAt u c' x' = scopeAt s c' x') ∧ u.recs = s.recs)
    ∧ (∀ (port : HPort) (p : Nat) (s : State), ctrlAccess s port = some p →
      (∀ q : Half, ∃ u, exec (.fcAck port q) s = .next u ∧ (∀ r ∈ u.recs, (BitVec.ofNat 32 r.seq - q).toInt ≤ 0 → p ∉ r.unacked)
        ∧ (∀ r ∈ s.recs, p ∉ r.unacked → r.unacked ≠ [] → ¬ (r.cls = 0 ∧ r.unmirrored = []) → r ∈ u.recs) ∧ u.sram = s.sram ∧ u.tiles = s.tiles)
      ∧ (∀ v : Half, v.getLsbD 0 = true → v.getLsbD 15 = false → rdb s p R.FC_RING_CFG_FR_EN = false →
        (4 ≤ bitsOf v.toNat 1 4 → bitsOf v.toNat 1 4 ≤ 12 → rd s p R.FC_RING_BASE_FR_BASE * 4096 + 32 * 2 ^ bitsOf v.toNat 1 4 ≤ 2 ^ 64 →
          rdb s 4 R.HP_STATUS_LINK_UP (ctrlPort s p) = true → ∃ u, exec (.faultRingEnable port v) s = .next u ∧ rd u p R.FC_RING_CFG_FR_EN = 1
            ∧ rd u p R.FC_RING_CFG_LOG2_SIZE = bitsOf v.toNat 1 4 ∧ rd u p R.FC_RING_CFG_VECTOR = bitsOf v.toNat 6 9 ∧ rd u p R.FC_RING_IDX_HEAD = 0)
        ∧ (bitsOf v.toNat 1 4 < 4 → ∃ u, exec (.faultRingEnable port v) s = .next u ∧ rd u p R.FC_RING_CFG_FR_EN = rd s p R.FC_RING_CFG_FR_EN
            ∧ rd u p R.FC_RING_CFG_CFG_ERR = 1 ∧ Noted u (srcHub 23 0) K.FAULT_RING_CFG p))
      ∧ (∀ h : BitVec 16, ∃ u, exec (.faultRingHeadWrite port h) s = .next u ∧ rd u p R.FC_RING_IDX_HEAD = h.toNat ∧ u.sram = s.sram)
      ∧ (∀ v : Half, dbgAuth s p = true → v.getLsbD 30 = true → sourceOwner s p (bitsOf v.toNat 0 16) = some (some p) →
        ∃ u, exec (.injGo port v) s = .next u ∧ Noted u (bitsOf v.toNat 0 16) ⟨bitsOf v.toNat 16 12, bitsOf v.toNat 28 2⟩ p
          ∧ (bitsOf v.toNat 28 2 = 3 → u.safe = true) ∧ (bitsOf v.toNat 28 2 = 2 → isReady s p = true → isHold u p = true)))
    ∧ (∀ (g : Fin 5) (i : Byte) (s : State),
      (g.val < 4 → ∃ u, exec (.pairFault g i) s = .next u ∧ u.safe = true ∧ u.sram = s.sram ∧ u.hbm = s.hbm)
      ∧ (g.val = 4 → exec (.pairFault g i) s = .next s)
      ∧ (∃ u, exec (.signalPairBroken g i) s = .next u ∧ (g.val < 4 → u.safe = true ∧ NotedPkg u srcAnise K.SIGNAL_PAIR_BROKEN)
        ∧ (g.val = 4 → u.safe = s.safe ∧ NotedPkg u srcFreeze K.FRZ_PAIR_INVALID ∧ bitAt (rd u 4 R.FC_PAIRS_BROKEN) 4 = true) ∧ u.sram = s.sram))
    ∧ (∀ (l : Fin 8) (n : Nat) (s : State), ∃ u, exec (.d2dLinkFailed l n) s = .next u ∧ u.safe = true ∧ NotedPkg u (srcHub (40 + l) 0) K.D2D_LINK_FAILED
        ∧ rd u 4 R.D2D_RETRY_RETRIES l = min (rd s 4 R.D2D_RETRY_RETRIES l + n) (2 ^ 32 - 1) ∧ u.sram = s.sram ∧ u.hbm = s.hbm)

namespace Sys2Proof.Claims

/-- A configuration store command of HP0 that runs its body: HP0 controls, none runs, every partition is in HOLD (R482, R483). -/
abbrev CsAdmitted (s : State) : Prop := (ctrlAccess s 0).isSome = true ∧ rdb s 4 R.CS_STATUS_CS_BUSY = false ∧ (partsAll s).all (isHold s) = true

/-- The record is on its way to the store and the command is busy. -/
def CsAsked (s u : State) (r : CsRec) : Prop := u.csWants = s.csWants ++ [(r, .cmd)] ∧ rd u 4 R.CS_STATUS_CS_BUSY = 1 ∧ u.store = s.store

/-- The argument that HP0's partition holds. -/
abbrev csArg (s : State) : Nat := rd s (portPart s 0) R.CS_ARG_ARG

/-- The command of partition p is refused with a code, and a note says so. -/
def CsRefused (s u : State) (p code : Nat) : Prop :=
  rd u p R.CS_STATUS_CS_RESULT = code ∧ rd u 4 R.CS_STATUS_CS_BUSY = rd s 4 R.CS_STATUS_CS_BUSY ∧ u.csWants = s.csWants ∧ u.store = s.store
    ∧ NotedPkg u srcAnise K.CS_CMD_REFUSED

/-- The package has entered SAFE from boot stage n. -/
def BootFailed (u : State) (n src : Nat) (k : Kind) : Prop :=
  u.safe = true ∧ rd u 4 R.BOOT_STATUS_STAGE = 0xF ∧ rd u 4 R.BOOT_STATUS_FAIL_STEP = n ∧ NotedPkg u src k

/-- The cap of partition p in µW, and what die d of it draws: its VDD_CD rail and `dp`, in W, beside it (R463, R470). -/
abbrev capUw (s : State) (p : Nat) : Nat := rd s p R.PWR_CAP_CAP_W * 10 ^ 6
abbrev dieDraw (s : State) (p : Nat) (dp : List Nat) (d : Nat) : Nat := railPower s d 0 + dp.getD ((diesOf s p).idxOf d) 0 * 10 ^ 6

/-- Every level demand is a level. -/
abbrev LevelsOk (s : State) : Prop := ∀ d, d < 4 → rd s 4 R.PWR_DIE_PROF_LVL d ≤ 7 ∧ rd s 4 R.PWR_DIE_CAP_LVL d ≤ 7 ∧ rd s 4 R.PWR_DIE_THERM_LVL d ≤ 7

/-- EFF_LVL is the highest demand on every die whose voltage is not held (R463). -/
def LevelsFollow (u : State) : Prop := ∀ d, d < 4 → rdb u 4 R.PWR_DIE_AVS_HELD d = false →
  rd u 4 R.PWR_DIE_EFF_LVL d = max (rd u 4 R.PWR_DIE_PROF_LVL d) (max (rd u 4 R.PWR_DIE_CAP_LVL d) (rd u 4 R.PWR_DIE_THERM_LVL d))

end Sys2Proof.Claims

/-- From the unpowered state the boot runs: good facts end it at stage 9 with the mode in force and every partition READY (while no step
decision is armed), a Vordaust or rail fault in SAFE with the failed step, a refused image in the recovery wait; the manufacturing input
parks the package. A late rail is SAFE. Removing power keeps fuses, store, flash and drives and loses keys, job secrets and the on-chip
memories. SET_NODE, SET_SUBSYS, SET_IDE_REQ, SET_PKG_CAP and COMPACT ask for their records under their checks. A commit appends the record,
a failed one reports CS_IO_ERROR, a compaction keeps what is in force, an hour counts. (R419, R420, R422, R457, R462, R475, R479, R480,
R482, R483, R484) -/
def Obligations.boot_and_store_results : Prop :=
  (∀ (b : BootFacts) (s : State),
      (unpowered s = false → exec (.powerOn b) s = .next s)
      ∧ (unpowered s = true → b.mfgTest = true → exec (.powerOn b) s = .next { s with mfgTest := true, vao := true })
      ∧ (unpowered s = true → b.mfgTest = false → b.vordaustOk = false →
        ∃ u, exec (.powerOn b) s = .next u ∧ BootFailed u 2 srcVordaust K.VORDAUST_FAULT)
      ∧ (unpowered s = true → b.mfgTest = false → b.vordaustOk = true → b.railsOk = false →
        ∃ u, exec (.powerOn b) s = .next u ∧ BootFailed u 2 srcAnise K.SUPPLY_FAULT)
      ∧ (unpowered s = true → b.mfgTest = false → b.vordaustOk = true → b.railsOk = true → flashCheck s b ≠ 0 →
        ∃ u, exec (.powerOn b) s = .next u ∧ u.safe = false ∧ rd u 4 R.BOOT_STATUS_STAGE = 0xE ∧ rd u 4 R.BOOT_STATUS_FAIL_STEP = 3
          ∧ rd u 4 R.REC_CTRL_REC_WAIT = 1
          ∧ NotedPkg u srcVordaust (if flashCheck s b = St.ROLLBACK then K.ROLLBACK_REFUSED else K.FW_VERIFY_FAIL))
      ∧ (unpowered s = true → b.mfgTest = false → b.vordaustOk = true → b.railsOk = true → b.storeOk = true → flashCheck s b = 0 →
        (b.unitsOk = false → ∃ u, exec (.powerOn b) s = .next u ∧ BootFailed u 4 srcAnise K.BOOT_SELFTEST_FAIL)
        ∧ (b.unitsOk = true → b.hbmOk = false → ∃ u, exec (.powerOn b) s = .next u ∧ BootFailed u 5 srcAnise K.HBM_TRAIN_FAIL)
        ∧ (b.unitsOk = true → b.hbmOk = true → (∀ q, q < 4 → rdb s q R.SD_CFG_SD_EN = false) → s.rowLocks = [] →
          ∃ u, exec (.powerOn b) s = .next u ∧ u.safe = false ∧ rd u 4 R.BOOT_STATUS_STAGE = 9 ∧ rd u 4 R.BOOT_STATUS_BOOT_MS = min b.bootMs 65535
            ∧ u.mode = modeOf (match inForce (mountBank s) 1 0 with | some r => leNat r.payload | none => 0)
            ∧ (s.flash = none → rd u 4 R.SEC_STATUS_IMAGE_SVN = b.imageSvn.toNat) ∧ rd u 4 R.SEC_STATUS_RECOVERED = 0
            ∧ ∀ p, p < partCount u.mode → isReady u p = true ∧ rd u p R.PART_CFG_EVER_READY = 1
              ∧ rd u p R.FAB_NODE_NODE_ID = storedNode u p)))
    ∧ (∀ (i : Fin 16) (b : BootFacts) (img : List Byte) (s : State),
      (unpowered s = true → b.mfgTest = false → b.vordaustOk = true → (i.val < 4 ∨ (b.railsOk = true ∧ flashCheck s b = 0 ∧ (i.val < 8 ∨ b.unitsOk = true))) →
        ∃ u, exec (.railTimeout i b img) s = .next u ∧ BootFailed u (if i.val < 4 then 2 else if i.val < 8 then 4 else 5) srcAnise K.SUPPLY_FAULT)
      ∧ (s.safe = false → s.mfgTest = false → recovering s = true → rdb s 4 R.REC_CTRL_REC_WAIT = true → portUsable s 0 = true →
        img.length = rd s 4 R.REC_LEN_LEN → imageCheck s img = 0 → 4 ≤ i.val → (i.val < 8 ∨ b.unitsOk = true) →
        ∃ u, exec (.railTimeout i b img) s = .next u ∧ BootFailed u (if i.val < 8 then 4 else 5) srcAnise K.SUPPLY_FAULT))
    ∧ (∀ (torn blown : Nat) (s : State), ∃ u, exec (.powerRemoved torn blown) s = .next u ∧ u.safe = false ∧ unpowered u = true ∧ u.vao = false
        ∧ fltPins u = (false, false) ∧ (torn = 0 → u.bank0 = s.bank0 ∧ u.bank1 = s.bank1) ∧ u.store = s.store ∧ u.drives = s.drives
        ∧ u.ownerKey = s.ownerKey ∧ u.flash = s.flash ∧ u.fusedTiles = s.fusedTiles ∧ u.jobs = [] ∧ u.hbmKeys = [] ∧ u.sram = [] ∧ u.hbm = []
        ∧ u.recs = [] ∧ rd u 4 R.SEC_STATUS_FUSE_SVN = fusesKept s blown % 128
        ∧ ((∀ x ∈ s.secRun, x.2.op ≠ 7) → rd u 4 R.SEC_STATUS_FUSE_SVN = rd s 4 R.SEC_STATUS_FUSE_SVN % 128))
    ∧ (∀ s : State, CsAdmitted s →
      (∀ mode part node, mode < 3 → part < 2 ^ mode → node < 4096 → csArg s = mode + 4 * part + 65536 * node →
        ∃ u, exec (.setNode 0) s = .next u ∧ CsAsked s u ⟨2, 4 * mode + part, leBytes 2 node⟩)
      ∧ (csArg s < 2 ^ 32 → ∃ u, exec (.setSubsys 0) s = .next u ∧ CsAsked s u ⟨3, 0, leBytes 4 (csArg s)⟩)
      ∧ (csArg s < 16 → rdb s 4 R.SEC_STATUS_OWNER_ENROLLED = false →
        ∃ u, exec (.setIdeReq 0) s = .next u ∧ CsAsked s u ⟨4, 0, leBytes 1 (csArg s)⟩)
      ∧ (∀ r p, csArg s < 16 → rdb s 4 R.SEC_STATUS_OWNER_ENROLLED = true → inForce s 4 0 = some r → p < 4 →
        bitAt (leNat r.payload) p = true → bitAt (csArg s) p = false →
        ∃ u, exec (.setIdeReq 0) s = .next u ∧ CsRefused s u (portPart s 0) St.CS_OWNER_LOCK)
      ∧ (1200 ≤ csArg s → csArg s ≤ 2800 →
        ∃ u, exec (.setPkgCap 0) s = .next u ∧ CsAsked s u ⟨5, 0, leBytes 2 (csArg s)⟩)
      ∧ (csArg s < 1200 ∨ 2800 < csArg s → ∃ u, exec (.setPkgCap 0) s = .next u ∧ CsRefused s u (portPart s 0) St.BAD_DESC)
      ∧ (csArg s = 0 → ∃ u, exec (.csCompact 0) s = .next u ∧ rd u 4 R.CS_STATUS_COMPACTING = 1 ∧ rd u (portPart s 0) R.CS_STATUS_CS_RESULT = 0
        ∧ u.store = s.store ∧ u.csWants = s.csWants))
    ∧ (∀ (port : HPort) (s : State) (c : Instr), c ∈ [Instr.setNode port, .setSubsys port, .setIdeReq port, .setPkgCap port, .csCompact port] →
      (ctrlAccess s port).isSome = true → rdb s 4 R.CS_STATUS_CS_BUSY = false →
      (port ≠ 0 → ∃ u, exec c s = .next u ∧ CsRefused s u (portPart s port) St.ACCESS_DENIED)
      ∧ (port = 0 → (partsAll s).all (isHold s) = false → ∃ u, exec c s = .next u ∧ CsRefused s u (portPart s port) St.CS_NOT_HOLD))
    ∧ (∀ (r : CsRec) (rest : List (CsRec × CsWhy)) (s : State), takeWant s s.csWants = some ((r, .cmd), rest) →
      (∃ u, exec (.csRecordCommit true) s = .next u ∧ u.store = s.store ++ [r] ∧ u.csWants = rest ∧ rd u 4 R.CS_STATUS_CS_BUSY = 0
        ∧ rd u (portPart s 0) R.CS_STATUS_CS_RESULT = 0 ∧ (∀ v, r = ⟨5, 0, leBytes 2 v⟩ → 1200 ≤ v → v ≤ 2800 → rd u 4 R.PWR_PKG_CAP_PKG_CAP_W = v
          ∧ ∀ p, p < partCount s.mode → rd u p R.PWR_CAP_CAP_W =
            max (1200 / partCount s.mode) (min (v / partCount s.mode) (rd s p R.PWR_CAP_CAP_W))))
      ∧ (∃ u, exec (.csRecordCommit false) s = .next u ∧ u.store = s.store ∧ u.csWants = rest ∧ rd u 4 R.CS_STATUS_CS_BUSY = 0
        ∧ rd u (portPart s 0) R.CS_STATUS_CS_RESULT = St.CS_IO_ERROR ∧ rd u 4 R.CS_STATUS_COMPACTING = 1 ∧ NotedPkg u (srcHub 27 0) K.CFG_STORE_IO))
    ∧ (∀ s : State, s.safe = false → rdb s 4 R.CS_STATUS_COMPACTING = true →
      (∃ u, exec (.csCompactionDone true) s = .next u ∧ rd u 4 R.CS_STATUS_COMPACTING = 0 ∧ u.storeGen = s.storeGen + 1
        ∧ rd u 4 R.CS_STATUS_BANK = 1 - rd s 4 R.CS_STATUS_BANK ∧ bankBytes u (curBank u) = bankHeader u.storeGen ++ u.store.flatMap csRecBytes ∧ (∀ typ key, typ ≠ 10 → inForce u typ key = inForce s typ key)
        ∧ (∀ r ∈ u.store, r ∈ s.store) ∧ (u.store.filter (fun r => r.typ == 10)).length
          ≤ 16384 + ((s.store.drop (s.compactAt.getD s.store.length)).filter (fun r => r.typ == 10)).length)
      ∧ (∃ u, exec (.csCompactionDone false) s = .next u ∧ u.store = s.store ∧ NotedPkg u (srcHub 27 0) K.CFG_STORE_IO))
    ∧ (∀ s : State, rd s 4 R.BOOT_STATUS_STAGE ≠ 1 → ∃ u, exec .lifeRecordUpdate s = .next u
        ∧ rd u 4 R.LIFE_HOURS_HOURS = (rd s 4 R.LIFE_HOURS_HOURS + 1) % 2 ^ 32
        ∧ (s.safe = false → u.csWants = s.csWants ++ [(⟨9, 0, lifePayload u⟩, .plain)]) ∧ (s.safe = true → u.csWants = s.csWants))

/-- Each millisecond the power is noted; above its cap the die that draws most goes one cap level down, after ten milliseconds below 95 %
the one at the highest cap level goes up. A hot sensor raises the thermal level of the dies it throttles, noted once; TEMP is the highest
reading; a sensor above 105 °C is noted. PWR_APPLY copies a profile, a PWR_CAP write is clamped, EFF_LVL is the highest demand. A level move
lowers frequency first and raises voltage first. A current above the limit sets the bit. A third failed AVSBus transaction holds the die's
voltage. (R463, R467, R468, R469, R470, R471, R472, R473, R474) -/
def Obligations.level_results : Prop :=
  (∀ (p : Part) (power : Nat) (dp : List Nat) (s : State), s.safe = false → p.val < partCount s.mode → LevelsOk s →
      (∃ u, exec (.capEvaluate p power dp) s = .next u ∧ rd u p R.PWR_STATUS_POWER_W = min (partPower s p power / 10 ^ 6) 4095 ∧ LevelsFollow u
        ∧ (∀ d, d < 4 → rd u 4 R.PWR_DIE_PROF_LVL d = rd s 4 R.PWR_DIE_PROF_LVL d ∧ rd u 4 R.PWR_DIE_THERM_LVL d = rd s 4 R.PWR_DIE_THERM_LVL d)
        ∧ (partPower s p power ≤ capUw s p → 95 * capUw s p ≤ 100 * partPower s p power →
          ∀ d, d < 4 → rd u 4 R.PWR_DIE_CAP_LVL d = rd s 4 R.PWR_DIE_CAP_LVL d)
        ∧ (capUw s p < partPower s p power → ∀ d ∈ diesOf s p, rd s 4 R.PWR_DIE_CAP_LVL d < 7 →
          (∀ e ∈ diesOf s p, rd s 4 R.PWR_DIE_CAP_LVL e < 7 → e ≠ d → dieDraw s p dp e < dieDraw s p dp d) →
          rd u 4 R.PWR_DIE_CAP_LVL d = rd s 4 R.PWR_DIE_CAP_LVL d + 1
          ∧ ∀ e, e < 4 → e ≠ d → rd u 4 R.PWR_DIE_CAP_LVL e = rd s 4 R.PWR_DIE_CAP_LVL e)
        ∧ (100 * partPower s p power < 95 * capUw s p → 9 ≤ mapGet 0 s.capLow p → ∀ d ∈ diesOf s p,
          (∀ e ∈ diesOf s p, e ≠ d → rd s 4 R.PWR_DIE_CAP_LVL e < rd s 4 R.PWR_DIE_CAP_LVL d) →
          rd u 4 R.PWR_DIE_CAP_LVL d = rd s 4 R.PWR_DIE_CAP_LVL d - 1
          ∧ ∀ e, e < 4 → e ≠ d → rd u 4 R.PWR_DIE_CAP_LVL e = rd s 4 R.PWR_DIE_CAP_LVL e)))
    ∧ (∀ (temps : List Int) (s : State), s.safe = false → LevelsOk s → (∀ k, -32768 ≤ temp temps k ∧ temp temps k ≤ 32767) →
      ∃ u, exec (.thermalEvaluate temps) s = .next u ∧ LevelsFollow u
        ∧ (∀ i, i < 29 → (∀ k, k < 92 → sensorDie k = i → temp temps k ≤ (BitVec.ofNat 16 (rd u 4 R.THERM_TEMP i)).toInt)
          ∧ ∃ k, k < 92 ∧ sensorDie k = i ∧ (BitVec.ofNat 16 (rd u 4 R.THERM_TEMP i)).toInt = temp temps k)
        ∧ (∀ d, d < 4 → rd u 4 R.PWR_DIE_CAP_LVL d = rd s 4 R.PWR_DIE_CAP_LVL d
          ∧ (∀ k, k < 92 → throttles d k = true → 1600 ≤ temp temps k → rd u 4 R.PWR_DIE_THERM_LVL d = min 7 (rd s 4 R.PWR_DIE_THERM_LVL d + 1)
            ∧ (rd s 4 R.PWR_DIE_THERM_LVL d = 0 → NotedPkg u srcAnise K.THROTTLE_THERMAL))
          ∧ ((∀ k, k < 92 → throttles d k = true → temp temps k < 1600) → rd s 4 R.PWR_DIE_THERM_LVL d = 0 → rd u 4 R.PWR_DIE_THERM_LVL d = 0))
        ∧ (∀ k, k < 92 → 1680 < temp temps k → k ∉ s.tempOver → NotedPkg u srcAnise K.TEMP_OVER_MAX ∧ k ∈ u.tempOver))
    ∧ (∀ (d : Die) (s : State), s.safe = false →
      (levelMhz (rd s 4 R.PWR_DIE_EFF_LVL d) < rd s 4 R.PWR_DIE_FREQ_MHZ d → ∃ u, exec (.levelMoveDone d) s = .next u
        ∧ rd u 4 R.PWR_DIE_FREQ_MHZ d = levelMhz (rd s 4 R.PWR_DIE_EFF_LVL d) ∧ OnlyRegs s u [fieldKey R.PWR_DIE_FREQ_MHZ 4 d 0])
      ∧ (rd s 4 R.PWR_DIE_FREQ_MHZ d ≤ levelMhz (rd s 4 R.PWR_DIE_EFF_LVL d) → dieVset s d ≠ levelMv d (rd s 4 R.PWR_DIE_EFF_LVL d) →
        rdb s 4 R.PWR_DIE_AVS_HELD d = false → ∃ u, exec (.levelMoveDone d) s = .next u ∧ u = { s with vset := u.vset }
          ∧ dieVset u d = levelMv d (rd s 4 R.PWR_DIE_EFF_LVL d))
      ∧ (rd s 4 R.PWR_DIE_FREQ_MHZ d ≤ levelMhz (rd s 4 R.PWR_DIE_EFF_LVL d) → dieVset s d = levelMv d (rd s 4 R.PWR_DIE_EFF_LVL d) →
        ∃ u, exec (.levelMoveDone d) s = .next u ∧ rd u 4 R.PWR_DIE_FREQ_MHZ d = levelMhz (rd s 4 R.PWR_DIE_EFF_LVL d)
          ∧ OnlyRegs s u [fieldKey R.PWR_DIE_FREQ_MHZ 4 d 0]))
    ∧ (∀ (d : Die) (ma : Nat) (s : State), s.safe = false →
      (Config.fuseMa d < ma → ∃ u, exec (.currentLimit d ma) s = .next u ∧ d.val ∈ u.curLim ∧ rd u (partOfDie s d) R.PWR_STATUS_CURRENT_LIMITING = 1)
      ∧ (100 * ma < 95 * Config.fuseMa d → ∃ u, exec (.currentLimit d ma) s = .next u ∧ d.val ∉ u.curLim))
    ∧ (∀ (link : Fin 5) (r r1 r2 : RailRead) (s : State), s.safe = false → link.val < 4 → r1.ok = true → r2.ok = true →
      (r.ok = true → ∃ u, exec (.avsPoll link [r, r1, r2]) s = .next u ∧ rd u 4 R.PWR_DIE_VDD_MV link = r.mv % 4096 ∧ u.faultQ = s.faultQ)
      ∧ (r.ok = false → mapGet 0 s.avsFails (4 * link) = 2 → ∃ u, exec (.avsPoll link [r, r1, r2]) s = .next u ∧ rd u 4 R.PWR_DIE_AVS_HELD link = 1
        ∧ NotedPkg u (srcHub 29 0) K.AVS_LINK_FAIL ∧ ∀ sel, railPower u link sel = railRating s link sel))
    ∧ (∀ (port : HPort) (p : Nat) (s : State), ctrlAccess s port = some p →
      (∀ k : BitVec 4, ∃ u, exec (.pwrApply port k) s = .next u ∧ rd u p R.PWR_STATUS_ACTIVE_PROFILE = k.toNat
        ∧ (∀ d ∈ diesOf s p, rd u 4 R.PWR_DIE_PROF_LVL d = min 7 (bitsOf (rd s p R.PWR_PROFILE_LVL k.toNat) (4 * d) 4))
        ∧ (∀ d, d < 4 → d ∉ diesOf s p → rd u 4 R.PWR_DIE_PROF_LVL d = rd s 4 R.PWR_DIE_PROF_LVL d)
        ∧ (LevelsOk s → LevelsFollow u) ∧ u.sram = s.sram ∧ u.tiles = s.tiles)
      ∧ (∀ v : Half, ∃ u, exec (.pwrCapWrite port v) s = .next u ∧ rd u p R.PWR_CAP_CAP_W =
          max (1200 / partCount s.mode) (min (rd s 4 R.PWR_PKG_CAP_PKG_CAP_W / partCount s.mode) (v.toNat % 4096))
        ∧ OnlyRegs s u [fieldKey R.PWR_CAP_CAP_W p 0 0]))

namespace Sys2Proof.Claims

/-- A freeze is released with nothing behind it: no HOLD, event, increment, frame, record or WAIT of a host queue; and every running core stands at a defined opcode (R170). -/
abbrev PlainThaw (s : State) : Prop :=
  s.safe = false ∧ s.holdLater = [] ∧ (∀ q, q < 4 → mapFind s.firing q = none) ∧ s.incs = [] ∧ s.incWait = [] ∧ s.heldRx = []
    ∧ (∀ x ∈ s.hqueues, x.2.held = [] ∧ ∀ d ∈ x.2.descs, d.opc ≠ 4)
    ∧ ∀ t, t < 256 → tileState s t = 1 → opcodeDefined (fetchWord s t (pcOf s t) / 2 ^ 26) = true

/-- Bit address of an access of the debug window to general register r of tile t. -/
def gprOff (t : Tile) (r : BitVec 5) : Nat := 0x1000000 + 0x10000 * t.val + 8 * r.toNat

end Sys2Proof.Claims

/-- The FRZ pair and the package debug freeze set their bit of ST_FREEZE.SRC on every partition and begin its freeze; equal levels are noted
and still freeze. Quiescence or 100 µs gates the clocks, the latter marked FORCED. Releasing the last source thaws a partition, a forced one
stays. RESUME releases the event source alone. A frame for a frozen partition is held in order of arrival. A dump is refused unless frozen;
a good one writes the whole image to its window. (R485, R486, R488, R491, R492, R497, R501) -/
def Obligations.freeze_results : Prop :=
  (∀ (eq : Bool) (s : State), rdb s 4 R.FRZ_PKG_CTRL_PAIR = false → booted s = true → ∃ u, exec (.frzPairAssert eq) s = .next u
        ∧ rd u 4 R.FRZ_PKG_CTRL_PAIR = 1 ∧ (eq = true → NotedPkg u srcFreeze K.FRZ_PAIR_INVALID ∧ bitAt (rd u 4 R.FC_PAIRS_BROKEN) 4 = true)
        ∧ (∀ p, p < partCount s.mode → bitAt (rd u p R.ST_FREEZE_SRC) 0 = true
          ∧ rd u p R.ST_FREEZE_FSTATE = (if rd s p R.ST_FREEZE_FSTATE = 0 then 1 else rd s p R.ST_FREEZE_FSTATE))
        ∧ u.sram = s.sram ∧ u.hbm = s.hbm ∧ u.tiles = s.tiles)
    ∧ (∀ s : State, PlainThaw s → ∃ u, exec .frzPairRelease s = .next u ∧ rd u 4 R.FRZ_PKG_CTRL_PAIR = 0
        ∧ (∀ p, p < partCount s.mode → rd s p R.ST_FREEZE_SRC = 1 → rd u p R.ST_FREEZE_SRC = 0
          ∧ (rdb s p R.ST_FREEZE_FORCED = false → rd u p R.ST_FREEZE_FSTATE = 0)
          ∧ (rdb s p R.ST_FREEZE_FORCED = true → rd u p R.ST_FREEZE_FSTATE = rd s p R.ST_FREEZE_FSTATE))
        ∧ (∀ p, p < partCount s.mode → rd s p R.ST_FREEZE_SRC = 5 → rd u p R.ST_FREEZE_SRC = 4 ∧ rd u p R.ST_FREEZE_FSTATE = rd s p R.ST_FREEZE_FSTATE)
        ∧ u.sram = s.sram ∧ u.hbm = s.hbm ∧ u.tiles = s.tiles)
    ∧ (∀ (port : HPort) (s : State), bar4Open s port = true →
      (dbgAll s = true → rdb s 4 R.FRZ_PKG_CTRL_HELD = false → booted s = true → ∃ u, exec (.frzPkgFreeze port) s = .next u
        ∧ rd u 4 R.FRZ_PKG_CTRL_HELD = 1 ∧ (∀ p, p < partCount s.mode → bitAt (rd u p R.ST_FREEZE_SRC) 1 = true ∧ frozen u p = true)
        ∧ u.sram = s.sram ∧ u.tiles = s.tiles ∧ u.faultQ = s.faultQ)
      ∧ (dbgAll s = false → exec (.frzPkgFreeze port) s = .next s)
      ∧ (PlainThaw s → ∃ u, exec (.frzPkgThaw port) s = .next u ∧ rd u 4 R.FRZ_PKG_CTRL_HELD = 0
        ∧ ∀ p, p < partCount s.mode → rd s p R.ST_FREEZE_SRC = 2 → rdb s p R.ST_FREEZE_FORCED = false →
          rd u p R.ST_FREEZE_SRC = 0 ∧ rd u p R.ST_FREEZE_FSTATE = 0)
      ∧ (rd s (portPart s port) R.ST_FREEZE_FSTATE ≠ 2 → ∀ ok, ∃ u, exec (.dumpStart port ok) s = .next u
        ∧ rd u (portPart s port) R.DUMP_CTRL_DUMP_RESULT = St.DUMP_NOT_FROZEN ∧ rd u (portPart s port) R.DUMP_LEN_LEN = 0 ∧ u.hostOut = s.hostOut)
      ∧ (∀ p w, p = portPart s port → w = rd s p R.DUMP_CTRL_DUMP_WIN → rd s p R.ST_FREEZE_FSTATE = 2 → rdb s p R.WIN_CFG_VALID w = true →
        rdb s p R.WIN_CFG_WR w = true → rd s p R.DUMP_OFF_OFF % 4096 = 0 →
        rd s p R.DUMP_OFF_OFF + (dumpImage s p).length ≤ rd s p R.WIN_SIZE_SIZE w → portUsable s (rd s p R.WIN_CFG_OWNER w) = true →
        ∃ u, exec (.dumpStart port true) s = .next u ∧ rd u p R.DUMP_CTRL_DUMP_RESULT = 0
          ∧ rd u p R.DUMP_LEN_LEN = (dumpImage s p).length % 2 ^ 64
          ∧ u.hostOut = s.hostOut ++ [⟨rd s p R.WIN_CFG_OWNER w, rd s p R.WIN_BASE_BASE w * 4096 + rd s p R.DUMP_OFF_OFF, dumpImage s p,
              rdb s p R.WIN_CFG_NS w, rdb s p R.WIN_CFG_RO_ATTR w, winPasid s p w⟩]
          ∧ u.sram = s.sram ∧ u.tiles = s.tiles))
    ∧ (∀ (p : Part) (s : State), s.safe = false →
      (rd s p R.ST_FREEZE_FSTATE = 1 →
        (∃ u, exec (.quiescent p) s = .next u ∧ rd u p R.ST_FREEZE_FSTATE = 2 ∧ OnlyRegs s u [fieldKey R.ST_FREEZE_FSTATE p 0 0])
        ∧ (∃ u, exec (.freezeForced p) s = .next u ∧ rd u p R.ST_FREEZE_FSTATE = 2 ∧ rd u p R.ST_FREEZE_FORCED = 1
          ∧ OnlyRegs s u [fieldKey R.ST_FREEZE_FSTATE p 0 0, fieldKey R.ST_FREEZE_FORCED p 0 0]))
      ∧ (rd s p R.ST_FREEZE_FSTATE ≠ 1 → exec (.quiescent p) s = .next s ∧ exec (.freezeForced p) s = .next s))
    ∧ (∀ (port : HPort) (p : Nat) (s : State), ctrlAccess s port = some p →
      (rdb s p R.ST_FREEZE_FORCED = true → exec (.stFreezeResume port) s = .next s)
      ∧ (PlainThaw s → rdb s p R.ST_FREEZE_FORCED = false → rd s p R.ST_FREEZE_SRC = 4 → ∃ u, exec (.stFreezeResume port) s = .next u
        ∧ rd u p R.ST_FREEZE_SRC = 0 ∧ rd u p R.ST_FREEZE_FSTATE = 0
        ∧ u = { s with regs := u.regs, hqueues := u.hqueues } ∧ RegsKept s u [fieldKey R.ST_FREEZE_SRC p 0 0, fieldKey R.ST_FREEZE_FSTATE p 0 0])
      ∧ (rdb s p R.ST_FREEZE_FORCED = false → rd s p R.ST_FREEZE_SRC = 4 → frozen s p = true → exec (.stFreezeResume port) s
        = .next (thaw (wr s p R.ST_FREEZE_SRC 0) p))
      ∧ (rdb s p R.ST_FREEZE_FORCED = false → rd s p R.ST_FREEZE_SRC = 5 → ∃ u, exec (.stFreezeResume port) s = .next u
        ∧ rd u p R.ST_FREEZE_SRC = 1 ∧ OnlyRegs s u [fieldKey R.ST_FREEZE_SRC p 0 0]))
    ∧ (∀ (p : Part) (m : CopyMsg) (n : Node) (g : Segment) (r : Report) (x : SdMsg) (s : State), s.safe = false → frozen s p = true →
      ∀ c ∈ [Instr.copyReceive p m, .lapseNoticeReceive p n, .collSegmentReceive p g, .readinessReportReceive p r, .sdPartialReceive p x,
        .sdResultReceive p x], exec c s = .next { s with heldRx := s.heldRx ++ [(p.val, c)] })

/-- With BAR4 open a debug access to a general register of an open tile reads or writes it; locked, it reads all ones and no memory changes.
Accumulator and side debug access the word at their address register and advance it while the engine is idle, and are noted while it is
busy. EXTEST drives the cells only in SAFE or with debug authorised for every partition, and drives FLT_T and FLT_C; IDCODE, SAMPLE, CLAMP
and BYPASS scan as R517 says. A TAP access that may not act reads all ones, sets its error and steps the address; one that may reaches the
same register. A token through the TAP opens debug, a malformed one is noted. (R220, R250, R434, R454, R494, R495, R496, R498, R499, R500,
R517) -/
def Obligations.debug_results : Prop :=
  (∀ (port : HPort) (t : Tile) (r : BitVec 5) (v : Word) (s : State),
      (bar4Open s port = true → partOfTile s t = portPart s port → tilePresent s t = true → tileOpen s t false = true →
        (∃ u, exec (.dbgWindowAccess port false (gprOff t r) v) s = .next u ∧ u.readOut = getG s t r ∧ u = { s with readOut := u.readOut })
        ∧ (∃ u, exec (.dbgWindowAccess port true (gprOff t r) v) s = .next u ∧ getG u t r = (if r = 0 then 0 else v) ∧ TilesKept s u t
          ∧ u = { s with tiles := u.tiles } ∧ ∀ r', r' ≠ r → getG u t r' = getG s t r'))
      ∧ (bar4Open s port = false → ∀ off, ∃ u, exec (.dbgWindowAccess port false off v) s = .next u ∧ u.readOut = BitVec.allOnes 64
        ∧ u.sram = s.sram ∧ ∀ w, ∃ u', exec (.dbgWindowAccess port true off w) s = .next u' ∧ u'.sram = s.sram))
    ∧ (∀ (port : HPort) (t : Tile) (v : Word) (s : State), tileAccess s port t = true → dbgAuth s (partOfTile s t) = true →
      (accOpen s t = true → rd s 4 R.ACC_DBG_ADDR_WORD t < 2 ^ 15 →
        (∃ u, exec (.accDbgAccess port t false v) s = .next u
          ∧ u.readOut = BitVec.ofNat 64 (leNat (sramRead s (accKey t (8 * rd s 4 R.ACC_DBG_ADDR_WORD t)) 8)) ∧ u.sram = s.sram
          ∧ rd u 4 R.ACC_DBG_ADDR_WORD t = (rd s 4 R.ACC_DBG_ADDR_WORD t + 1) % 2 ^ 15)
        ∧ (∀ hi, ∃ u, exec (.accDbgAccess port t false v (some hi)) s = .next u ∧ u.sram = s.sram
          ∧ u.readOut = BitVec.ofNat 64 (if hi then (memWord s (accKey t (8 * rd s 4 R.ACC_DBG_ADDR_WORD t))).toNat / 2 ^ 32
              else (memWord s (accKey t (8 * rd s 4 R.ACC_DBG_ADDR_WORD t))).toNat % 2 ^ 32))
        ∧ (Memory.wf s.sram = true → ∃ u, exec (.accDbgAccess port t true v) s = .next u
          ∧ sramRead u (accKey t (8 * rd s 4 R.ACC_DBG_ADDR_WORD t)) 8 = leBytes 8 v.toNat
          ∧ SramKept s u (accKey t (8 * rd s 4 R.ACC_DBG_ADDR_WORD t)) 8 ∧ u.tiles = s.tiles))
      ∧ (accOpen s t = false → ∀ w, ∃ u, exec (.accDbgAccess port t w v) s = .next u ∧ u.sram = s.sram
        ∧ Noted u (srcTile t 7) K.ACC_DEBUG_BUSY (partOfTile s t) ∧ (w = false → u.readOut = BitVec.allOnes 64))
      ∧ (sideOpen s t = true → rd s 4 R.SIDE_DBG_ADDR_WORD t < 2 ^ 15 →
        (∃ u, exec (.sideDbgAccess port t false v) s = .next u
          ∧ u.readOut = BitVec.ofNat 64 (leNat (sramRead s (sideKey t (8 * rd s 4 R.SIDE_DBG_ADDR_WORD t)) 8)) ∧ u.sram = s.sram
          ∧ rd u 4 R.SIDE_DBG_ADDR_WORD t = (rd s 4 R.SIDE_DBG_ADDR_WORD t + 1) % 2 ^ 15)
        ∧ (Memory.wf s.sram = true → ∃ u, exec (.sideDbgAccess port t true v) s = .next u
          ∧ sramRead u (sideKey t (8 * rd s 4 R.SIDE_DBG_ADDR_WORD t)) 8 = leBytes 8 v.toNat
          ∧ SramKept s u (sideKey t (8 * rd s 4 R.SIDE_DBG_ADDR_WORD t)) 8 ∧ u.tiles = s.tiles))
      ∧ (sideOpen s t = false → ∀ w, ∃ u, exec (.sideDbgAccess port t w v) s = .next u ∧ u.sram = s.sram
        ∧ Noted u (srcTile t 8) K.SIDE_DEBUG_BUSY (partOfTile s t)))
    ∧ (∀ (cells pins : BitVec 61) (load : Option (BitVec 61)) (tdi : Bool) (s : State),
      (tapMayDrive s = true → ∃ u, exec (.extest cells) s = .next u ∧ u.bscan = cells ∧ u.bscanDrive = true ∧ u.tapIr = 0
        ∧ (s.vao = true → fltPins u = (cells.getLsbD 12, cells.getLsbD 13)) ∧ u.regs = s.regs)
      ∧ (tapMayDrive s = false → ∃ u, exec (.extest cells) s = .next u ∧ u.bscan = s.bscan ∧ u.bscanDrive = false ∧ u.regs = s.regs
        ∧ (s.vao = true → fltPins u = (fltFault s, !fltFault s)))
      ∧ (s.vao = false → fltPins s = (false, false))
      ∧ (∃ u, exec .idcode s = .next u ∧ u.tapIr = 1 ∧ u.tapOut % 2 = 1 ∧ u.tapOut / 2 ^ 12 % 2 ^ 16 = 0x00C4 ∧ u.bscanDrive = false)
      ∧ (∃ u, exec (.samplePreload load pins) s = .next u ∧ u.tapOut = pins.toNat ∧ u.bscan = load.getD s.bscan ∧ u.bscanDrive = false)
      ∧ (∃ u, exec .clamp s = .next u ∧ u.bscanDrive = tapMayDrive s ∧ u.bscan = s.bscan ∧ u.tapIr = 3)
      ∧ (∃ u, exec (.bypass tdi) s = .next u ∧ u.tapBypass = tdi ∧ u.bscanDrive = false
        ∧ u.tapOut = (if s.tapIr = 0xFF then s.tapBypass.toNat else 0)))
    ∧ (∀ (t : Tile) (r : BitVec 5) (v : Word) (s : State), s.tapAddr.toNat = gprOff t r → dbgAuth s (partOfTile s t) = true →
      (s.safe = true → s.safeKind ≠ K.VORDAUST_FAULT.code) → tilePresent s t = true → tileOpen s t true = true →
      (∃ u, exec .dbgAccessRead s = .next u ∧ u.tapData = getG s t r ∧ u.tapOut = tapCapture s ∧ u.tapErr = false ∧ u.tapAddr = s.tapAddr + 8 ∧ u.tiles = s.tiles
        ∧ u.regs = s.regs)
      ∧ (∃ u, exec (.dbgAccessWrite v) s = .next u ∧ getG u t r = (if r = 0 then 0 else v) ∧ u.tapErr = false ∧ TilesKept s u t))
    ∧ (∀ (v : Word) (s : State),
      (tapMay s s.tapAddr.toNat = false → (∃ u, exec .dbgAccessRead s = .next u ∧ u.tapData = BitVec.allOnes 64 ∧ u.tapErr = true
          ∧ u.tapAddr = s.tapAddr + 8 ∧ u.regs = s.regs ∧ u.sram = s.sram ∧ u.tiles = s.tiles)
        ∧ (∃ u, exec (.dbgAccessWrite v) s = .next u ∧ u.tapErr = true ∧ u.regs = s.regs ∧ u.sram = s.sram ∧ u.tiles = s.tiles))
      ∧ (∃ u, exec (.dbgAccessAddress v) s = .next u ∧ u.tapAddr = v ∧ u.tapOut = tapCapture s ∧ u.regs = s.regs ∧ u.sram = s.sram)
      ∧ (∃ u, exec .dbgChal s = .next u ∧ ∃ n, mapFind u.dbgChal 4 = some n ∧ u.tapOut = n))
    ∧ (∀ (b : List Byte) (p : Nat) (s : State),
      (b.length = 256 → leNat (sub b 80 1) = 2 ^ p → zeroAt b 81 79 = true → held s p = true → p < partCount s.mode →
        mapFind s.dbgChal 4 = some (leNat (b.take 32)) → leNat (sub b 32 48) = Config.deviceId →
        Config.ecdsaOk (s.ownerBoot.getD Config.flezelDebug) (b.take 160) (sub b 160 96) = true →
        ∃ u, exec (.dbgAuth b) s = .next u ∧ dbgAuth u p = true ∧ u.tapResult = 0 ∧ u.tapOut = s.tapResult ∧ mapFind u.dbgChal 4 = none
          ∧ mapFind u.jobs p = none ∧ keyLoaded u p = false ∧ Noted u srcVordaust K.DEBUG_AUTHORISED p)
      ∧ (b.length ≠ 256 ∨ 16 ≤ leNat (sub b 80 1) → ∃ u, exec (.dbgAuth b) s = .next u ∧ u.tapResult = St.BAD_DESC
        ∧ NotedPkg u srcVordaust K.DEBUG_AUTH_FAIL ∧ u.regs = s.regs))

/-- The range of generator g of stack k covers the byte at offset o of stack k exactly when o lies in pseudo-channel g, (o >> 8) & 63, at a
channel offset ((o >> 14) << 8) | (o & 0xFF) inside [BASE, BASE + LEN). Pseudo-channel and channel offset name one byte: channel offsets are
below 1 GiB, every pair is reached by one offset and no two offsets share a pair. The bytes of a 2 KiB-aligned access of 2 KiB lie in eight
consecutive pseudo-channels. (R290) -/
def Obligations.pseudo_channels : Prop :=
  (∀ (s : State) (k g o : Nat), o < 2 ^ 36 →
      (tgCovers s k g (hbmKey k o) = true ↔ (o >>> 8) &&& 63 = g
        ∧ rd s 4 R.TG_BASE_BASE k g ≤ ((o >>> 14) <<< 8) ||| (o &&& 0xFF)
        ∧ ((o >>> 14) <<< 8) ||| (o &&& 0xFF) < rd s 4 R.TG_BASE_BASE k g + rd s 4 R.TG_LEN_LEN k g))
    ∧ (∀ o, o < 2 ^ 36 → (o >>> 8) &&& 63 < 64 ∧ ((o >>> 14) <<< 8) ||| (o &&& 0xFF) < 2 ^ 30)
    ∧ (∀ c x, c < 64 → x < 2 ^ 30 → ∃ o, o < 2 ^ 36 ∧ (o >>> 8) &&& 63 = c ∧ ((o >>> 14) <<< 8) ||| (o &&& 0xFF) = x
      ∧ ∀ o', (o' >>> 8) &&& 63 = c → ((o' >>> 14) <<< 8) ||| (o' &&& 0xFF) = x → o' = o)
    ∧ (∀ o i, o % 2048 = 0 → i < 2048 → ((o + i) >>> 8) &&& 63 = ((o >>> 8) &&& 63) + i / 256)

/-- REGISTER_WRITE completes for every access that R503 lets reach its partition, with what the role of its port and the block at its offset
give: the controlling host's write of CS_ARG, FC_RING_BASE, FC_SETTLE, SEC_CMD_ADDR and PWR_PROFILE stores the field, one of the upper half
of CS_ARG keeps the lower half. BAR_ACCESS_INVALID completes for every malformed access outside SAFE: its note, and only that, and all-ones
as what a read returns. In SAFE a write changes nothing; a malformed one and a half write of SYNC_HOST_SIG or TD_CMD are noted and change no
register of any block; a write during a partition reset is discarded, as is one of a feeder to a block of the controlling host and one to a
range that holds no register. A write of a doorbell page beside its two registers is malformed too. A write of the control word of an MSI-X
vector masks or unmasks it, and one that is pending is then sent (log 69). No other access is malformed. (R11, R13, R366, R456, R484, R502,
R503, R504) -/
def Obligations.register_write_results : Prop :=
  (∀ (a : Access) (s : State),
      (s.safe = true → exec (.registerWrite a) s = .next s)
      ∧ (s.safe = false → a.port.val ∉ s.mseOff → badAccess true a.off a.size = true → ∃ u, exec (.registerWrite a) s = .next u
        ∧ (portRole s a.port ≠ 2 → Noted u (srcHub a.port 0) K.BAR_ACCESS_INVALID (portPart s a.port))
        ∧ (portRole s a.port = 2 → NotedPkg u (srcHub a.port 0) K.BAR_ACCESS_INVALID) ∧ u = { s with faultQ := u.faultQ })
      ∧ (s.safe = false → a.port.val ∉ s.mseOff → badAccess true a.off a.size = false → recovering s = false → ideBlocked s a.port = false →
        (portRole s a.port = 2 ∨ rdb s (portPart s a.port) R.PART_CTRL_RESET_BUSY = true → exec (.registerWrite a) s = .next s)
        ∧ (portRole s a.port ≠ 2 → rdb s (portPart s a.port) R.PART_CTRL_RESET_BUSY = false → a.off < 0x4000000 →
          exec (.registerWrite a) s = .next (roleWrite s (portPart s a.port) a))
        ∧ (portRole s a.port ≠ 2 → rdb s (portPart s a.port) R.PART_CTRL_RESET_BUSY = false → 0x4000000 ≤ a.off → a.off < 0x4100000 →
          (a.size = 4 ∧ a.off % 0x1000 < 8 → exec (.registerWrite a) s = .next s)
          ∧ (¬ (a.size = 4 ∧ a.off % 0x1000 < 8) → ∃ u, exec (.registerWrite a) s = .next u ∧ u = { s with faultQ := u.faultQ }
            ∧ Noted u (srcHub a.port 0) K.BAR_ACCESS_INVALID (portPart s a.port)))
        ∧ (portRole s a.port = 1 → inWindows a.off = false → inQueues a.off = false → a.off < 0x4000000 → exec (.registerWrite a) s = .next s))
      ∧ (∀ p, ctrlAccess s a.port = some p → badAccess true a.off a.size = false →
        ((0x700000 ≤ a.off ∧ a.off < 0x800000) ∨ (0x900000 ≤ a.off ∧ a.off < 0xA00000) ∨ (0xB00000 ≤ a.off ∧ a.off < 0xC00000)
          ∨ (0xF00000 ≤ a.off ∧ a.off < 0x4000000) ∨ 0x4102000 ≤ a.off → exec (.registerWrite a) s = .next s)
        ∧ (∀ n, n < 512 → a.off = 0x410000C + 16 * n → a.size = 4 → ∃ u, exec (.registerWrite a) s = .next u
          ∧ vecMasked u a.port n = a.val.getLsbD 0 ∧ u = { s with msix := u.msix, msixPend := u.msixPend, irqs := u.irqs }
          ∧ (a.val.getLsbD 0 = true ∨ (a.port.val, n) ∉ s.msixPend → u.irqs = s.irqs ∧ u.msixPend = s.msixPend)
          ∧ (a.val.getLsbD 0 = false → (a.port.val, n) ∈ s.msixPend → u.irqs = s.irqs ++ [(a.port.val, n)] ∧ (a.port.val, n) ∉ u.msixPend))
        ∧ (a.off = 0xC00808 → a.size = 8 → ∃ u, exec (.registerWrite a) s = .next u ∧ rd u p R.CS_ARG_ARG = a.val.toNat
          ∧ OnlyRegs s u [fieldKey R.CS_ARG_ARG p 0 0])
        ∧ (a.off = 0xC0080C → a.size = 4 → rd s p R.CS_ARG_ARG < 2 ^ 64 → ∃ u, exec (.registerWrite a) s = .next u
          ∧ rd u p R.CS_ARG_ARG = rd s p R.CS_ARG_ARG % 2 ^ 32 + a.val.toNat % 2 ^ 32 * 2 ^ 32 ∧ OnlyRegs s u [fieldKey R.CS_ARG_ARG p 0 0])
        ∧ (a.off = 0x400000 → a.size = 8 → ∃ u, exec (.registerWrite a) s = .next u ∧ rd u p R.FC_RING_BASE_FR_BASE = a.val.toNat / 2 ^ 12
          ∧ OnlyRegs s u [fieldKey R.FC_RING_BASE_FR_BASE p 0 0])
        ∧ (a.off = 0x400014 → a.size = 4 → ∃ u, exec (.registerWrite a) s = .next u ∧ rd u p R.FC_SETTLE_SETTLE = a.val.toNat % 2 ^ 32
          ∧ OnlyRegs s u [fieldKey R.FC_SETTLE_SETTLE p 0 0])
        ∧ (a.off = 0xD00010 → a.size = 8 → ∃ u, exec (.registerWrite a) s = .next u ∧ rd u p R.SEC_CMD_ADDR_ADDR = a.val.toNat
          ∧ OnlyRegs s u [fieldKey R.SEC_CMD_ADDR_ADDR p 0 0])
        ∧ (∀ k, k < 16 → a.off = 0xC00100 + 4 * k → a.size = 4 → ∃ u, exec (.registerWrite a) s = .next u
          ∧ rd u p R.PWR_PROFILE_LVL k = a.val.toNat % 2 ^ 16 ∧ OnlyRegs s u [fieldKey R.PWR_PROFILE_LVL p k 0])))
    ∧ (∀ (port : HPort) (write : Bool) (off size : Nat) (s : State), s.safe = false → port.val ∉ s.mseOff →
      (badAccess write off size = true → ∃ u, exec (.barAccessInvalid port write off size) s = .next u
        ∧ u.faultQ = s.faultQ ++ [⟨{ mkFault (srcHub port 0) K.BAR_ACCESS_INVALID (portPart s port) 0 0 with
            part := if portRole s port = 2 then none else some (Fin.ofNat 4 (portPart s port)) }, (partsAll s).map (stNow s)⟩]
        ∧ (write = true → u = { s with faultQ := u.faultQ })
        ∧ (write = false → u = { s with faultQ := u.faultQ, readOut := BitVec.allOnes 64 }))
      ∧ (badAccess write off size = false → exec (.barAccessInvalid port write off size) s = .next s))
    ∧ (∀ off size, badAccess false off size = true ↔ ¬ ((size = 4 ∨ size = 8) ∧ off % size = 0))
    ∧ (∀ off, off % 4 = 0 → (badAccess true off 4 = true ↔ off ∈ [0x320020, 0x320024, 0xA00010, 0xA00014]))

/-- With command c at the front, a step is exec of c on the state with the queue's rest; every command answers a next state from every
state. On an empty queue the block idles, which is the model's choice (log 1). (Bus and host interface (spec/14), log 1 (the model's own
queue)) -/
def Obligations.step_takes_the_front : Prop :=
  (∀ (s : State) (c : Instr) (rest : List Instr), s.pending = c :: rest → step s = exec c { s with pending := rest })
    ∧ (∀ s : State, s.pending = [] → step s = .next s)
    ∧ (∀ (c : Instr) (s : State), ∃ u, exec c s = .next u)

/-- From a state in SAFE every command but the removal of power leaves the package in SAFE, and the removal ends it. Function level reset, a
partition reset request and a mode vote are each discarded; losing a link or entering D3hot keeps SAFE too. A further F3, once the records
of the entry are mirrored, is stored in the internal buffer and nothing goes to a host. During a partition reset an F2 fault puts its
partition into HOLD and an F3 puts the package into SAFE, and the end of a reset then changes nothing. (R457) -/
def Obligations.safe_is_left_by_power_alone : Prop :=
  (∀ (c : Instr) (s u : State), s.safe = true → exec c s = .next u → (∀ torn blown, c ≠ .powerRemoved torn blown) → u.safe = true)
    ∧ (∀ (torn blown : Nat) (s : State), ∃ u, exec (.powerRemoved torn blown) s = .next u ∧ u.safe = false)
    ∧ (∀ (port : HPort) (key : Byte) (m : BitVec 2) (v : Bool) (s : State), s.safe = true →
        exec (.flr port) s = .next s ∧ exec (.preset port key) s = .next s ∧ exec (.modeVote port m v) s = .next s)
    ∧ (∀ (m : FaultMsg) (i : Nat) (s : State), s.safe = true → s.safeMirrored = true → m.cls = 3 → lowestFree s 0 1008 = some i →
        ∃ u r, exec (.faultMessage m) s = .next u ∧ r ∈ u.recs ∧ r.slot = i ∧ r.cls = 3 ∧ r.source = m.source.toNat ∧ r.kind = m.kind.toNat
          ∧ u.hostOut = s.hostOut ∧ u.irqs = s.irqs ∧ u.safe = true)
    ∧ (∀ (m : FaultMsg) (p : Part) (s : State), rdb s p R.PART_CTRL_RESET_BUSY = true → takeOut m s.faultQ = none → s.safe = false →
        (m.part = some p → m.cls = 2 → isReady s p = true → scopeAt s 2 p = none → (place s 2).isSome = true →
          ∃ u, exec (.faultMessage m) s = .next u ∧ isHold u p = true)
        ∧ (m.cls = 3 → ∃ u, exec (.faultMessage m) s = .next u ∧ u.safe = true ∧ (p.val < partCount s.mode → rd u p R.PART_CTRL_RESET_BUSY = 0)
          ∧ ∀ q : Part, exec (.partitionResetDone q) u = .next u))

/-- From a state whose memories are in canonical form (addresses rise strictly, no listed byte of an on-chip memory equals what an unlisted
address reads as) every step ends in such a state. (Memory map (spec/03), R79, R288) -/
def Obligations.memory_form_kept : Prop :=
  ∀ s u : State, MemInv s → step s = .next u → MemInv u

/-- After reset the package is not in SAFE, the boot is at stage 1, every partition is in HOLD with its key slot empty, every tile is halted
with its general registers at the model's value 0 (log 12), no queue, record or session holds anything, no memory byte is listed and the
memories are in canonical form. (R475, R376, R433, R166) -/
def Obligations.reset_state : Prop :=
  MemInv State.reset ∧ State.reset.safe = false ∧ State.reset.pending = [] ∧ State.reset.sram = [] ∧ State.reset.hbm = [] ∧ State.reset.recs = []
    ∧ State.reset.mode = .pm1 ∧ rd State.reset 4 R.BOOT_STATUS_STAGE = 1 ∧ unpowered State.reset = true
    ∧ (∀ p, p < 4 → isHold State.reset p = true ∧ keyLoaded State.reset p = false ∧ rd State.reset p R.ST_FREEZE_FSTATE = 0)
    ∧ (∀ (t : Tile) (r : BitVec 5), getG State.reset t r = 0 ∧ tileState State.reset t ≠ 1)
    ∧ (∀ t q, queue State.reset t q = {})
end

