-- ==== Sys2Proof/Laws/Blocks.lean ====
section
/-!
SUPPORT. Blocks of HBM written out: a block whose bytes and CRC are known passes its check.
-/

namespace Sys2Proof.Machine

/-- Successive cells. -/
def cells : Nat → List Byte → List Host.Cell
  | _, [] => []
  | a, b :: bs => (a, b) :: cells (a + 1) bs

theorem cellGet_append_ne (l m : List Host.Cell) (c : Nat) (h : ∀ x ∈ l, x.1 ≠ c) : cellGet (l ++ m) c = cellGet m c := by
  induction l with
  | nil => rfl
  | cons x l ih =>
    obtain ⟨k, b⟩ := x
    rw [List.cons_append, cellGet, if_neg (h _ List.mem_cons_self)]
    exact ih (fun y hy => h y (List.mem_cons_of_mem _ hy))

theorem cells_range (a : Nat) (bs : List Byte) : ∀ x ∈ cells a bs, a ≤ x.1 ∧ x.1 < a + bs.length := by
  induction bs generalizing a with
  | nil => simp [cells]
  | cons b bs ih =>
    intro x hx
    simp only [cells, List.mem_cons] at hx
    rcases hx with rfl | hx
    · simp
    · have := ih (a + 1) x hx; simp only [List.length_cons]; omega

theorem cellGet_cells (bs : List Byte) (a i : Nat) (m : List Host.Cell) (h : i < bs.length) : cellGet (cells a bs ++ m) (a + i) = bs[i]? := by
  induction bs generalizing a i with
  | nil => simp at h
  | cons b bs ih =>
    cases i with
    | zero => simp [cells, cellGet]
    | succ i =>
      rw [cells, List.cons_append, cellGet, if_neg (by omega), show a + (i + 1) = (a + 1) + i by omega, ih (a + 1) i (by simpa using h)]
      rfl

theorem mapM_some {α β : Type} (l : List α) (f : α → Option β) (g : α → β) (h : ∀ x ∈ l, f x = some (g x)) : l.mapM f = some (l.map g) := by
  induction l with
  | nil => rfl
  | cons x l ih =>
    rw [List.mapM_cons, h x List.mem_cons_self, ih (fun y hy => h y (List.mem_cons_of_mem _ hy))]
    rfl

theorem map_getD (l : List Byte) : (List.range l.length).map (fun i => l.getD i 0) = l := by
  apply List.ext_getElem
  · simp
  · intro i h1 h2; simp [h2]

theorem hbmKnown_cells (s : State) (a : Nat) (bs : List Byte) (m n : List Host.Cell) (hm : s.hbm = m ++ (cells a bs ++ n))
    (h : ∀ x ∈ m, x.1 < a ∨ a + bs.length ≤ x.1) : hbmKnown s a bs.length = some bs := by
  unfold hbmKnown
  rw [mapM_some _ _ (fun i => bs.getD i 0), map_getD]
  intro i hi
  have hi := List.mem_range.1 hi
  rw [hm, cellGet_append_ne _ _ _ (fun x hx => by have := h x hx; omega), cellGet_cells _ _ _ _ hi]
  simp [hi]

theorem crcShift_lt (n c : Nat) (h : c < 2 ^ 32) : crcShift n c < 2 ^ 32 := by
  induction n generalizing c with
  | zero => simpa [crcShift]
  | succ n ih =>
    rw [crcShift]
    apply ih
    split
    · exact Nat.xor_lt_two_pow (by omega) (by decide)
    · omega

theorem crc32c_lt (bs : List Byte) : crc32c bs < 2 ^ 32 := by
  have h : ∀ (bs : List Byte) (c : Nat), c < 2 ^ 32 → crcUpdate c bs < 2 ^ 32 := by
    intro bs
    induction bs with
    | nil => intro c h; exact h
    | cons b bs ih =>
      intro c h
      exact ih _ (crcShift_lt _ _ (Nat.xor_lt_two_pow h (by have := b.isLt; omega)))
  exact Nat.xor_lt_two_pow (h bs _ (by decide)) (by decide)

theorem leNat_leBytes4 (x : Nat) (h : x < 2 ^ 32) : leNat (leBytes 4 x) = x := by
  simp [leBytes, leNat]; omega

/-- A block of known bytes with its CRC passes its check when the read meets no poisoned atom. -/
theorem blockGood_cells (s : State) (k b : Nat) (blk : List Byte) (n : List Host.Cell) (hl : blk.length = 4096) (hb : hbmKey k b + 4096 ≤ hbmKey k (crcOff b))
    (hm : s.hbm = cells (hbmKey k b) blk ++ (cells (hbmKey k (crcOff b)) (leBytes 4 (crc32c blk)) ++ n)) (hp : s.poison = none := by rfl) :
    blockGood s k b = true := by
  have h1 : hbmKnown s (hbmKey k b) 4096 = some blk := by
    have := hbmKnown_cells s (hbmKey k b) blk [] _ hm (by simp); rwa [hl] at this
  have h2 : hbmKnown s (hbmKey k (crcOff b)) 4 = some (leBytes 4 (crc32c blk)) :=
    hbmKnown_cells s (hbmKey k (crcOff b)) (leBytes 4 (crc32c blk)) (cells (hbmKey k b) blk) n hm (fun x hx => by
      have := cells_range _ _ x hx; omega)
  unfold blockGood
  rw [h1, h2]
  simp [leNat_leBytes4 _ (crc32c_lt blk), unpoisoned, hp]

end Sys2Proof.Machine
end

