-- ==== Sys2Proof/Laws/Map.lean ====
section
/-!
SUPPORT. Laws of the keyed maps and of register fields: a read after a write of the same field, and of another.
-/

namespace Sys2Proof.Machine

variable {β : Type}

theorem mapGet_mapSet_same (d : β) (m : NatMap β) (i : Nat) (v : β) : mapGet d (mapSet m i v) i = v := by
  induction m with
  | nil => simp [mapSet, mapGet]
  | cons x m ih =>
    obtain ⟨k, w⟩ := x
    simp only [mapSet]
    split
    · simp [mapGet]
    · split
      · simp [mapGet]
      · rename_i h; simp [mapGet, Ne.symm h, ih]

theorem mapGet_mapSet_ne (d : β) (m : NatMap β) {i j : Nat} (v : β) (h : i ≠ j) : mapGet d (mapSet m i v) j = mapGet d m j := by
  induction m with
  | nil => simp [mapSet, mapGet, h]
  | cons x m ih =>
    obtain ⟨k, w⟩ := x
    simp only [mapSet]
    split
    · simp [mapGet, h]
    · split
      · subst_vars; simp [mapGet, h]
      · simp [mapGet, ih]

theorem mapGet_mapErase_same (d : β) (m : NatMap β) (i : Nat) : mapGet d (mapErase m i) i = d := by
  induction m with
  | nil => rfl
  | cons x m ih =>
    obtain ⟨k, w⟩ := x
    by_cases h : k = i <;> simp [mapErase, mapGet, h, ih]

theorem mapGet_mapErase_ne (d : β) (m : NatMap β) {i j : Nat} (h : i ≠ j) : mapGet d (mapErase m i) j = mapGet d m j := by
  induction m with
  | nil => rfl
  | cons x m ih =>
    obtain ⟨k, w⟩ := x
    by_cases hk : k = i
    · subst hk; simp [mapErase, mapGet, h, ih]
    · simp [mapErase, mapGet, hk, ih]

theorem mapFind_mapSet_same (m : NatMap β) (i : Nat) (v : β) : mapFind (mapSet m i v) i = some v := by
  induction m with
  | nil => simp [mapSet, mapFind]
  | cons x m ih =>
    obtain ⟨k, w⟩ := x
    simp only [mapSet]
    split
    · simp [mapFind]
    · split
      · simp [mapFind]
      · rename_i h; simp [mapFind, Ne.symm h, ih]

theorem mapFind_mapErase_same (m : NatMap β) (i : Nat) : mapFind (mapErase m i) i = none := by
  induction m with
  | nil => rfl
  | cons x m ih =>
    obtain ⟨k, w⟩ := x
    by_cases h : k = i <;> simp [mapErase, mapFind, h, ih]

/-- A field reads back what was written, modulo its width. -/
@[simp] theorem rd_wr_same (s : State) (p : Nat) (f : Reg) (v i j : Nat) : rd (wr s p f v i j) p f i j = v % 2 ^ f.width := by
  simp only [rd, wr]
  split
  · rename_i h; rw [mapGet_mapErase_same, h]
  · rw [mapGet_mapSet_same]

/-- A write leaves every field at another place alone. -/
theorem rd_wr_ne (s : State) {p q : Nat} {f g : Reg} (v : Nat) {i j i' j' : Nat} (h : fieldKey f p i j ≠ fieldKey g q i' j') :
    rd (wr s p f v i j) q g i' j' = rd s q g i' j' := by
  simp only [rd, wr]
  split
  · rw [mapGet_mapErase_ne _ _ h]
  · rw [mapGet_mapSet_ne _ _ _ h]

/-- Reads of fields depend on the register map alone. -/
theorem rd_of_regs {s s' : State} (h : s'.regs = s.regs) (p : Nat) (f : Reg) (i j : Nat) : rd s' p f i j = rd s p f i j := by
  simp only [rd, h]

end Sys2Proof.Machine
end

