-- ==== Sys2Proof/Laws/State.lean ====
section
/-!
SUPPORT. What the updates of State leave alone: one lemma a field and an update, each true by definition.
-/

namespace Sys2Proof.Machine

@[simp] theorem wr_pending (s : State) (p : Nat) (f : Reg) (v i j : Nat) : (wr s p f v i j).pending = s.pending := rfl
@[simp] theorem wr_sram (s : State) (p : Nat) (f : Reg) (v i j : Nat) : (wr s p f v i j).sram = s.sram := rfl
@[simp] theorem wr_hbm (s : State) (p : Nat) (f : Reg) (v i j : Nat) : (wr s p f v i j).hbm = s.hbm := rfl
@[simp] theorem wr_hbmGen (s : State) (p : Nat) (f : Reg) (v i j : Nat) : (wr s p f v i j).hbmGen = s.hbmGen := rfl
@[simp] theorem wr_freeCtr (s : State) (p : Nat) (f : Reg) (v i j : Nat) : (wr s p f v i j).freeCtr = s.freeCtr := rfl
@[simp] theorem wr_mode (s : State) (p : Nat) (f : Reg) (v i j : Nat) : (wr s p f v i j).mode = s.mode := rfl
@[simp] theorem wr_safe (s : State) (p : Nat) (f : Reg) (v i j : Nat) : (wr s p f v i j).safe = s.safe := rfl
@[simp] theorem wr_fusedTiles (s : State) (p : Nat) (f : Reg) (v i j : Nat) : (wr s p f v i j).fusedTiles = s.fusedTiles := rfl
@[simp] theorem wr_fusesRead (s : State) (p : Nat) (f : Reg) (v i j : Nat) : (wr s p f v i j).fusesRead = s.fusesRead := rfl
@[simp] theorem wr_retiredTiles (s : State) (p : Nat) (f : Reg) (v i j : Nat) : (wr s p f v i j).retiredTiles = s.retiredTiles := rfl
@[simp] theorem wr_retiredEngines (s : State) (p : Nat) (f : Reg) (v i j : Nat) : (wr s p f v i j).retiredEngines = s.retiredEngines := rfl
@[simp] theorem wr_tiles (s : State) (p : Nat) (f : Reg) (v i j : Nat) : (wr s p f v i j).tiles = s.tiles := rfl
@[simp] theorem wr_tgRun (s : State) (p : Nat) (f : Reg) (v i j : Nat) : (wr s p f v i j).tgRun = s.tgRun := rfl
@[simp] theorem wr_tgStop (s : State) (p : Nat) (f : Reg) (v i j : Nat) : (wr s p f v i j).tgStop = s.tgStop := rfl
@[simp] theorem wr_incDropped (s : State) (p : Nat) (f : Reg) (v i j : Nat) : (wr s p f v i j).incDropped = s.incDropped := rfl
@[simp] theorem wr_holdLater (s : State) (p : Nat) (f : Reg) (v i j : Nat) : (wr s p f v i j).holdLater = s.holdLater := rfl
@[simp] theorem wr_heldRx (s : State) (p : Nat) (f : Reg) (v i j : Nat) : (wr s p f v i j).heldRx = s.heldRx := rfl
@[simp] theorem wr_heldForF2 (s : State) (p : Nat) (f : Reg) (v i j : Nat) : (wr s p f v i j).heldForF2 = s.heldForF2 := rfl
@[simp] theorem wr_dieDecided (s : State) (p : Nat) (f : Reg) (v i j : Nat) : (wr s p f v i j).dieDecided = s.dieDecided := rfl
@[simp] theorem wr_incs (s : State) (p : Nat) (f : Reg) (v i j : Nat) : (wr s p f v i j).incs = s.incs := rfl
@[simp] theorem wr_incWait (s : State) (p : Nat) (f : Reg) (v i j : Nat) : (wr s p f v i j).incWait = s.incWait := rfl
@[simp] theorem wr_faultQ (s : State) (p : Nat) (f : Reg) (v i j : Nat) : (wr s p f v i j).faultQ = s.faultQ := rfl
@[simp] theorem wr_recs (s : State) (p : Nat) (f : Reg) (v i j : Nat) : (wr s p f v i j).recs = s.recs := rfl
@[simp] theorem wr_seq (s : State) (p : Nat) (f : Reg) (v i j : Nat) : (wr s p f v i j).seq = s.seq := rfl
@[simp] theorem wr_scopes (s : State) (p : Nat) (f : Reg) (v i j : Nat) : (wr s p f v i j).scopes = s.scopes := rfl
@[simp] theorem wr_lostRecs (s : State) (p : Nat) (f : Reg) (v i j : Nat) : (wr s p f v i j).lostRecs = s.lostRecs := rfl
@[simp] theorem wr_secondF2 (s : State) (p : Nat) (f : Reg) (v i j : Nat) : (wr s p f v i j).secondF2 = s.secondF2 := rfl
@[simp] theorem wr_ringPhase (s : State) (p : Nat) (f : Reg) (v i j : Nat) : (wr s p f v i j).ringPhase = s.ringPhase := rfl
@[simp] theorem wr_ringWaits (s : State) (p : Nat) (f : Reg) (v i j : Nat) : (wr s p f v i j).ringWaits = s.ringWaits := rfl
@[simp] theorem wr_safeMirrored (s : State) (p : Nat) (f : Reg) (v i j : Nat) : (wr s p f v i j).safeMirrored = s.safeMirrored := rfl
@[simp] theorem wr_store (s : State) (p : Nat) (f : Reg) (v i j : Nat) : (wr s p f v i j).store = s.store := rfl
@[simp] theorem wr_storeGen (s : State) (p : Nat) (f : Reg) (v i j : Nat) : (wr s p f v i j).storeGen = s.storeGen := rfl
@[simp] theorem wr_csWants (s : State) (p : Nat) (f : Reg) (v i j : Nat) : (wr s p f v i j).csWants = s.csWants := rfl
@[simp] theorem wr_bank0 (s : State) (p : Nat) (f : Reg) (v i j : Nat) : (wr s p f v i j).bank0 = s.bank0 := rfl
@[simp] theorem wr_bank1 (s : State) (p : Nat) (f : Reg) (v i j : Nat) : (wr s p f v i j).bank1 = s.bank1 := rfl
@[simp] theorem wr_compactAt (s : State) (p : Nat) (f : Reg) (v i j : Nat) : (wr s p f v i j).compactAt = s.compactAt := rfl
@[simp] theorem wr_lapsed (s : State) (p : Nat) (f : Reg) (v i j : Nat) : (wr s p f v i j).lapsed = s.lapsed := rfl
@[simp] theorem wr_reports (s : State) (p : Nat) (f : Reg) (v i j : Nat) : (wr s p f v i j).reports = s.reports := rfl
@[simp] theorem wr_reported (s : State) (p : Nat) (f : Reg) (v i j : Nat) : (wr s p f v i j).reported = s.reported := rfl
@[simp] theorem wr_ptmLog (s : State) (p : Nat) (f : Reg) (v i j : Nat) : (wr s p f v i j).ptmLog = s.ptmLog := rfl
@[simp] theorem wr_sdRecs (s : State) (p : Nat) (f : Reg) (v i j : Nat) : (wr s p f v i j).sdRecs = s.sdRecs := rfl
@[simp] theorem wr_sdParts (s : State) (p : Nat) (f : Reg) (v i j : Nat) : (wr s p f v i j).sdParts = s.sdParts := rfl
@[simp] theorem wr_sdSkip (s : State) (p : Nat) (f : Reg) (v i j : Nat) : (wr s p f v i j).sdSkip = s.sdSkip := rfl
@[simp] theorem wr_sdSent (s : State) (p : Nat) (f : Reg) (v i j : Nat) : (wr s p f v i j).sdSent = s.sdSent := rfl
@[simp] theorem wr_firing (s : State) (p : Nat) (f : Reg) (v i j : Nat) : (wr s p f v i j).firing = s.firing := rfl
@[simp] theorem wr_msgSeq (s : State) (p : Nat) (f : Reg) (v i j : Nat) : (wr s p f v i j).msgSeq = s.msgSeq := rfl
@[simp] theorem wr_looks (s : State) (p : Nat) (f : Reg) (v i j : Nat) : (wr s p f v i j).looks = s.looks := rfl
@[simp] theorem wr_ownRuns (s : State) (p : Nat) (f : Reg) (v i j : Nat) : (wr s p f v i j).ownRuns = s.ownRuns := rfl
@[simp] theorem wr_waitReqs (s : State) (p : Nat) (f : Reg) (v i j : Nat) : (wr s p f v i j).waitReqs = s.waitReqs := rfl
@[simp] theorem wr_fetches (s : State) (p : Nat) (f : Reg) (v i j : Nat) : (wr s p f v i j).fetches = s.fetches := rfl
@[simp] theorem wr_hotBooks (s : State) (p : Nat) (f : Reg) (v i j : Nat) : (wr s p f v i j).hotBooks = s.hotBooks := rfl
@[simp] theorem wr_redirects (s : State) (p : Nat) (f : Reg) (v i j : Nat) : (wr s p f v i j).redirects = s.redirects := rfl
@[simp] theorem wr_held (s : State) (p : Nat) (f : Reg) (v i j : Nat) : (wr s p f v i j).held = s.held := rfl
@[simp] theorem wr_fwdOuts (s : State) (p : Nat) (f : Reg) (v i j : Nat) : (wr s p f v i j).fwdOuts = s.fwdOuts := rfl
@[simp] theorem wr_rowLocks (s : State) (p : Nat) (f : Reg) (v i j : Nat) : (wr s p f v i j).rowLocks = s.rowLocks := rfl
@[simp] theorem wr_verHolds (s : State) (p : Nat) (f : Reg) (v i j : Nat) : (wr s p f v i j).verHolds = s.verHolds := rfl
@[simp] theorem wr_stepped (s : State) (p : Nat) (f : Reg) (v i j : Nat) : (wr s p f v i j).stepped = s.stepped := rfl
@[simp] theorem wr_stackReqs (s : State) (p : Nat) (f : Reg) (v i j : Nat) : (wr s p f v i j).stackReqs = s.stackReqs := rfl
@[simp] theorem wr_poison (s : State) (p : Nat) (f : Reg) (v i j : Nat) : (wr s p f v i j).poison = s.poison := rfl
@[simp] theorem wr_applying (s : State) (p : Nat) (f : Reg) (v i j : Nat) : (wr s p f v i j).applying = s.applying := rfl
@[simp] theorem wr_batches (s : State) (p : Nat) (f : Reg) (v i j : Nat) : (wr s p f v i j).batches = s.batches := rfl
@[simp] theorem wr_coeffPast (s : State) (p : Nat) (f : Reg) (v i j : Nat) : (wr s p f v i j).coeffPast = s.coeffPast := rfl
@[simp] theorem wr_shardCnt (s : State) (p : Nat) (f : Reg) (v i j : Nat) : (wr s p f v i j).shardCnt = s.shardCnt := rfl
@[simp] theorem wr_clove (s : State) (p : Nat) (f : Reg) (v i j : Nat) : (wr s p f v i j).clove = s.clove := rfl
@[simp] theorem wr_cloveSeq (s : State) (p : Nat) (f : Reg) (v i j : Nat) : (wr s p f v i j).cloveSeq = s.cloveSeq := rfl
@[simp] theorem wr_cloveWait (s : State) (p : Nat) (f : Reg) (v i j : Nat) : (wr s p f v i j).cloveWait = s.cloveWait := rfl
@[simp] theorem wr_norms (s : State) (p : Nat) (f : Reg) (v i j : Nat) : (wr s p f v i j).norms = s.norms := rfl
@[simp] theorem wr_clips (s : State) (p : Nat) (f : Reg) (v i j : Nat) : (wr s p f v i j).clips = s.clips := rfl
@[simp] theorem wr_d3hot (s : State) (p : Nat) (f : Reg) (v i j : Nat) : (wr s p f v i j).d3hot = s.d3hot := rfl
@[simp] theorem wr_outbox (s : State) (p : Nat) (f : Reg) (v i j : Nat) : (wr s p f v i j).outbox = s.outbox := rfl
@[simp] theorem wr_wire (s : State) (p : Nat) (f : Reg) (v i j : Nat) : (wr s p f v i j).wire = s.wire := rfl
@[simp] theorem wr_sess (s : State) (p : Nat) (f : Reg) (v i j : Nat) : (wr s p f v i j).sess = s.sess := rfl
@[simp] theorem wr_fabWait (s : State) (p : Nat) (f : Reg) (v i j : Nat) : (wr s p f v i j).fabWait = s.fabWait := rfl
@[simp] theorem wr_rebound (s : State) (p : Nat) (f : Reg) (v i j : Nat) : (wr s p f v i j).rebound = s.rebound := rfl
@[simp] theorem wr_colls (s : State) (p : Nat) (f : Reg) (v i j : Nat) : (wr s p f v i j).colls = s.colls := rfl
@[simp] theorem wr_jobs (s : State) (p : Nat) (f : Reg) (v i j : Nat) : (wr s p f v i j).jobs = s.jobs := rfl
@[simp] theorem wr_certCache (s : State) (p : Nat) (f : Reg) (v i j : Nat) : (wr s p f v i j).certCache = s.certCache := rfl
@[simp] theorem wr_hbmKeys (s : State) (p : Nat) (f : Reg) (v i j : Nat) : (wr s p f v i j).hbmKeys = s.hbmKeys := rfl
@[simp] theorem wr_dbgChal (s : State) (p : Nat) (f : Reg) (v i j : Nat) : (wr s p f v i j).dbgChal = s.dbgChal := rfl
@[simp] theorem wr_ownerKey (s : State) (p : Nat) (f : Reg) (v i j : Nat) : (wr s p f v i j).ownerKey = s.ownerKey := rfl
@[simp] theorem wr_ownerBoot (s : State) (p : Nat) (f : Reg) (v i j : Nat) : (wr s p f v i j).ownerBoot = s.ownerBoot := rfl
@[simp] theorem wr_ideNoted (s : State) (p : Nat) (f : Reg) (v i j : Nat) : (wr s p f v i j).ideNoted = s.ideNoted := rfl
@[simp] theorem wr_spdm (s : State) (p : Nat) (f : Reg) (v i j : Nat) : (wr s p f v i j).spdm = s.spdm := rfl
@[simp] theorem wr_spdmOut (s : State) (p : Nat) (f : Reg) (v i j : Nat) : (wr s p f v i j).spdmOut = s.spdmOut := rfl
@[simp] theorem wr_aliasKey (s : State) (p : Nat) (f : Reg) (v i j : Nat) : (wr s p f v i j).aliasKey = s.aliasKey := rfl
@[simp] theorem wr_aliasCert (s : State) (p : Nat) (f : Reg) (v i j : Nat) : (wr s p f v i j).aliasCert = s.aliasCert := rfl
@[simp] theorem wr_ideStreams (s : State) (p : Nat) (f : Reg) (v i j : Nat) : (wr s p f v i j).ideStreams = s.ideStreams := rfl
@[simp] theorem wr_secRun (s : State) (p : Nat) (f : Reg) (v i j : Nat) : (wr s p f v i j).secRun = s.secRun := rfl
@[simp] theorem wr_measures (s : State) (p : Nat) (f : Reg) (v i j : Nat) : (wr s p f v i j).measures = s.measures := rfl
@[simp] theorem wr_measured (s : State) (p : Nat) (f : Reg) (v i j : Nat) : (wr s p f v i j).measured = s.measured := rfl
@[simp] theorem wr_watch (s : State) (p : Nat) (f : Reg) (v i j : Nat) : (wr s p f v i j).watch = s.watch := rfl
@[simp] theorem wr_staging (s : State) (p : Nat) (f : Reg) (v i j : Nat) : (wr s p f v i j).staging = s.staging := rfl
@[simp] theorem wr_drives (s : State) (p : Nat) (f : Reg) (v i j : Nat) : (wr s p f v i j).drives = s.drives := rfl
@[simp] theorem wr_epochWait (s : State) (p : Nat) (f : Reg) (v i j : Nat) : (wr s p f v i j).epochWait = s.epochWait := rfl
@[simp] theorem wr_compacting (s : State) (p : Nat) (f : Reg) (v i j : Nat) : (wr s p f v i j).compacting = s.compacting := rfl
@[simp] theorem wr_lastEngine (s : State) (p : Nat) (f : Reg) (v i j : Nat) : (wr s p f v i j).lastEngine = s.lastEngine := rfl
@[simp] theorem wr_inputs (s : State) (p : Nat) (f : Reg) (v i j : Nat) : (wr s p f v i j).inputs = s.inputs := rfl
@[simp] theorem wr_ilogs (s : State) (p : Nat) (f : Reg) (v i j : Nat) : (wr s p f v i j).ilogs = s.ilogs := rfl
@[simp] theorem wr_plans (s : State) (p : Nat) (f : Reg) (v i j : Nat) : (wr s p f v i j).plans = s.plans := rfl
@[simp] theorem wr_certs (s : State) (p : Nat) (f : Reg) (v i j : Nat) : (wr s p f v i j).certs = s.certs := rfl
@[simp] theorem wr_seedFrom (s : State) (p : Nat) (f : Reg) (v i j : Nat) : (wr s p f v i j).seedFrom = s.seedFrom := rfl
@[simp] theorem wr_logTail (s : State) (p : Nat) (f : Reg) (v i j : Nat) : (wr s p f v i j).logTail = s.logTail := rfl
@[simp] theorem wr_mirBatches (s : State) (p : Nat) (f : Reg) (v i j : Nat) : (wr s p f v i j).mirBatches = s.mirBatches := rfl
@[simp] theorem wr_safeKind (s : State) (p : Nat) (f : Reg) (v i j : Nat) : (wr s p f v i j).safeKind = s.safeKind := rfl
@[simp] theorem wr_mseOff (s : State) (p : Nat) (f : Reg) (v i j : Nat) : (wr s p f v i j).mseOff = s.mseOff := rfl
@[simp] theorem wr_bar4Noted (s : State) (p : Nat) (f : Reg) (v i j : Nat) : (wr s p f v i j).bar4Noted = s.bar4Noted := rfl
@[simp] theorem wr_fabBad (s : State) (p : Nat) (f : Reg) (v i j : Nat) : (wr s p f v i j).fabBad = s.fabBad := rfl
@[simp] theorem wr_trainFails (s : State) (p : Nat) (f : Reg) (v i j : Nat) : (wr s p f v i j).trainFails = s.trainFails := rfl
@[simp] theorem wr_vset (s : State) (p : Nat) (f : Reg) (v i j : Nat) : (wr s p f v i j).vset = s.vset := rfl
@[simp] theorem wr_thermBy (s : State) (p : Nat) (f : Reg) (v i j : Nat) : (wr s p f v i j).thermBy = s.thermBy := rfl
@[simp] theorem wr_thermCool (s : State) (p : Nat) (f : Reg) (v i j : Nat) : (wr s p f v i j).thermCool = s.thermCool := rfl
@[simp] theorem wr_tempOver (s : State) (p : Nat) (f : Reg) (v i j : Nat) : (wr s p f v i j).tempOver = s.tempOver := rfl
@[simp] theorem wr_capLow (s : State) (p : Nat) (f : Reg) (v i j : Nat) : (wr s p f v i j).capLow = s.capLow := rfl
@[simp] theorem wr_capHigh (s : State) (p : Nat) (f : Reg) (v i j : Nat) : (wr s p f v i j).capHigh = s.capHigh := rfl
@[simp] theorem wr_curLim (s : State) (p : Nat) (f : Reg) (v i j : Nat) : (wr s p f v i j).curLim = s.curLim := rfl
@[simp] theorem wr_avsFails (s : State) (p : Nat) (f : Reg) (v i j : Nat) : (wr s p f v i j).avsFails = s.avsFails := rfl
@[simp] theorem wr_rails (s : State) (p : Nat) (f : Reg) (v i j : Nat) : (wr s p f v i j).rails = s.rails := rfl
@[simp] theorem wr_avsDown (s : State) (p : Nat) (f : Reg) (v i j : Nat) : (wr s p f v i j).avsDown = s.avsDown := rfl
@[simp] theorem wr_vao (s : State) (p : Nat) (f : Reg) (v i j : Nat) : (wr s p f v i j).vao = s.vao := rfl
@[simp] theorem wr_pwrEn (s : State) (p : Nat) (f : Reg) (v i j : Nat) : (wr s p f v i j).pwrEn = s.pwrEn := rfl
@[simp] theorem wr_hqueues (s : State) (p : Nat) (f : Reg) (v i j : Nat) : (wr s p f v i j).hqueues = s.hqueues := rfl
@[simp] theorem wr_qLast (s : State) (p : Nat) (f : Reg) (v i j : Nat) : (wr s p f v i j).qLast = s.qLast := rfl
@[simp] theorem wr_subsys (s : State) (p : Nat) (f : Reg) (v i j : Nat) : (wr s p f v i j).subsys = s.subsys := rfl
@[simp] theorem wr_mfgTest (s : State) (p : Nat) (f : Reg) (v i j : Nat) : (wr s p f v i j).mfgTest = s.mfgTest := rfl
@[simp] theorem wr_flash (s : State) (p : Nat) (f : Reg) (v i j : Nat) : (wr s p f v i j).flash = s.flash := rfl
@[simp] theorem wr_flashBad (s : State) (p : Nat) (f : Reg) (v i j : Nat) : (wr s p f v i j).flashBad = s.flashBad := rfl
@[simp] theorem wr_tapIr (s : State) (p : Nat) (f : Reg) (v i j : Nat) : (wr s p f v i j).tapIr = s.tapIr := rfl
@[simp] theorem wr_tapBypass (s : State) (p : Nat) (f : Reg) (v i j : Nat) : (wr s p f v i j).tapBypass = s.tapBypass := rfl
@[simp] theorem wr_bscan (s : State) (p : Nat) (f : Reg) (v i j : Nat) : (wr s p f v i j).bscan = s.bscan := rfl
@[simp] theorem wr_bscanDrive (s : State) (p : Nat) (f : Reg) (v i j : Nat) : (wr s p f v i j).bscanDrive = s.bscanDrive := rfl
@[simp] theorem wr_tapAddr (s : State) (p : Nat) (f : Reg) (v i j : Nat) : (wr s p f v i j).tapAddr = s.tapAddr := rfl
@[simp] theorem wr_tapData (s : State) (p : Nat) (f : Reg) (v i j : Nat) : (wr s p f v i j).tapData = s.tapData := rfl
@[simp] theorem wr_tapErr (s : State) (p : Nat) (f : Reg) (v i j : Nat) : (wr s p f v i j).tapErr = s.tapErr := rfl
@[simp] theorem wr_tapResult (s : State) (p : Nat) (f : Reg) (v i j : Nat) : (wr s p f v i j).tapResult = s.tapResult := rfl
@[simp] theorem wr_tapOut (s : State) (p : Nat) (f : Reg) (v i j : Nat) : (wr s p f v i j).tapOut = s.tapOut := rfl
@[simp] theorem wr_readOut (s : State) (p : Nat) (f : Reg) (v i j : Nat) : (wr s p f v i j).readOut = s.readOut := rfl
@[simp] theorem wr_hostOut (s : State) (p : Nat) (f : Reg) (v i j : Nat) : (wr s p f v i j).hostOut = s.hostOut := rfl
@[simp] theorem wr_hostReads (s : State) (p : Nat) (f : Reg) (v i j : Nat) : (wr s p f v i j).hostReads = s.hostReads := rfl
@[simp] theorem wr_msix (s : State) (p : Nat) (f : Reg) (v i j : Nat) : (wr s p f v i j).msix = s.msix := rfl
@[simp] theorem wr_msixPend (s : State) (p : Nat) (f : Reg) (v i j : Nat) : (wr s p f v i j).msixPend = s.msixPend := rfl
@[simp] theorem wr_irqs (s : State) (p : Nat) (f : Reg) (v i j : Nat) : (wr s p f v i j).irqs = s.irqs := rfl

@[simp] theorem setTile_pending (s : State) (t : Nat) (x : TileState) : (setTile s t x).pending = s.pending := rfl
@[simp] theorem setTile_regs (s : State) (t : Nat) (x : TileState) : (setTile s t x).regs = s.regs := rfl
@[simp] theorem setTile_sram (s : State) (t : Nat) (x : TileState) : (setTile s t x).sram = s.sram := rfl
@[simp] theorem setTile_hbm (s : State) (t : Nat) (x : TileState) : (setTile s t x).hbm = s.hbm := rfl
@[simp] theorem setTile_hbmGen (s : State) (t : Nat) (x : TileState) : (setTile s t x).hbmGen = s.hbmGen := rfl
@[simp] theorem setTile_freeCtr (s : State) (t : Nat) (x : TileState) : (setTile s t x).freeCtr = s.freeCtr := rfl
@[simp] theorem setTile_mode (s : State) (t : Nat) (x : TileState) : (setTile s t x).mode = s.mode := rfl
@[simp] theorem setTile_safe (s : State) (t : Nat) (x : TileState) : (setTile s t x).safe = s.safe := rfl
@[simp] theorem setTile_fusedTiles (s : State) (t : Nat) (x : TileState) : (setTile s t x).fusedTiles = s.fusedTiles := rfl
@[simp] theorem setTile_fusesRead (s : State) (t : Nat) (x : TileState) : (setTile s t x).fusesRead = s.fusesRead := rfl
@[simp] theorem setTile_retiredTiles (s : State) (t : Nat) (x : TileState) : (setTile s t x).retiredTiles = s.retiredTiles := rfl
@[simp] theorem setTile_retiredEngines (s : State) (t : Nat) (x : TileState) : (setTile s t x).retiredEngines = s.retiredEngines := rfl
@[simp] theorem setTile_tgRun (s : State) (t : Nat) (x : TileState) : (setTile s t x).tgRun = s.tgRun := rfl
@[simp] theorem setTile_tgStop (s : State) (t : Nat) (x : TileState) : (setTile s t x).tgStop = s.tgStop := rfl
@[simp] theorem setTile_incDropped (s : State) (t : Nat) (x : TileState) : (setTile s t x).incDropped = s.incDropped := rfl
@[simp] theorem setTile_holdLater (s : State) (t : Nat) (x : TileState) : (setTile s t x).holdLater = s.holdLater := rfl
@[simp] theorem setTile_heldRx (s : State) (t : Nat) (x : TileState) : (setTile s t x).heldRx = s.heldRx := rfl
@[simp] theorem setTile_heldForF2 (s : State) (t : Nat) (x : TileState) : (setTile s t x).heldForF2 = s.heldForF2 := rfl
@[simp] theorem setTile_dieDecided (s : State) (t : Nat) (x : TileState) : (setTile s t x).dieDecided = s.dieDecided := rfl
@[simp] theorem setTile_incs (s : State) (t : Nat) (x : TileState) : (setTile s t x).incs = s.incs := rfl
@[simp] theorem setTile_incWait (s : State) (t : Nat) (x : TileState) : (setTile s t x).incWait = s.incWait := rfl
@[simp] theorem setTile_faultQ (s : State) (t : Nat) (x : TileState) : (setTile s t x).faultQ = s.faultQ := rfl
@[simp] theorem setTile_recs (s : State) (t : Nat) (x : TileState) : (setTile s t x).recs = s.recs := rfl
@[simp] theorem setTile_seq (s : State) (t : Nat) (x : TileState) : (setTile s t x).seq = s.seq := rfl
@[simp] theorem setTile_scopes (s : State) (t : Nat) (x : TileState) : (setTile s t x).scopes = s.scopes := rfl
@[simp] theorem setTile_lostRecs (s : State) (t : Nat) (x : TileState) : (setTile s t x).lostRecs = s.lostRecs := rfl
@[simp] theorem setTile_secondF2 (s : State) (t : Nat) (x : TileState) : (setTile s t x).secondF2 = s.secondF2 := rfl
@[simp] theorem setTile_ringPhase (s : State) (t : Nat) (x : TileState) : (setTile s t x).ringPhase = s.ringPhase := rfl
@[simp] theorem setTile_ringWaits (s : State) (t : Nat) (x : TileState) : (setTile s t x).ringWaits = s.ringWaits := rfl
@[simp] theorem setTile_safeMirrored (s : State) (t : Nat) (x : TileState) : (setTile s t x).safeMirrored = s.safeMirrored := rfl
@[simp] theorem setTile_store (s : State) (t : Nat) (x : TileState) : (setTile s t x).store = s.store := rfl
@[simp] theorem setTile_storeGen (s : State) (t : Nat) (x : TileState) : (setTile s t x).storeGen = s.storeGen := rfl
@[simp] theorem setTile_csWants (s : State) (t : Nat) (x : TileState) : (setTile s t x).csWants = s.csWants := rfl
@[simp] theorem setTile_bank0 (s : State) (t : Nat) (x : TileState) : (setTile s t x).bank0 = s.bank0 := rfl
@[simp] theorem setTile_bank1 (s : State) (t : Nat) (x : TileState) : (setTile s t x).bank1 = s.bank1 := rfl
@[simp] theorem setTile_compactAt (s : State) (t : Nat) (x : TileState) : (setTile s t x).compactAt = s.compactAt := rfl
@[simp] theorem setTile_lapsed (s : State) (t : Nat) (x : TileState) : (setTile s t x).lapsed = s.lapsed := rfl
@[simp] theorem setTile_reports (s : State) (t : Nat) (x : TileState) : (setTile s t x).reports = s.reports := rfl
@[simp] theorem setTile_reported (s : State) (t : Nat) (x : TileState) : (setTile s t x).reported = s.reported := rfl
@[simp] theorem setTile_ptmLog (s : State) (t : Nat) (x : TileState) : (setTile s t x).ptmLog = s.ptmLog := rfl
@[simp] theorem setTile_sdRecs (s : State) (t : Nat) (x : TileState) : (setTile s t x).sdRecs = s.sdRecs := rfl
@[simp] theorem setTile_sdParts (s : State) (t : Nat) (x : TileState) : (setTile s t x).sdParts = s.sdParts := rfl
@[simp] theorem setTile_sdSkip (s : State) (t : Nat) (x : TileState) : (setTile s t x).sdSkip = s.sdSkip := rfl
@[simp] theorem setTile_sdSent (s : State) (t : Nat) (x : TileState) : (setTile s t x).sdSent = s.sdSent := rfl
@[simp] theorem setTile_firing (s : State) (t : Nat) (x : TileState) : (setTile s t x).firing = s.firing := rfl
@[simp] theorem setTile_msgSeq (s : State) (t : Nat) (x : TileState) : (setTile s t x).msgSeq = s.msgSeq := rfl
@[simp] theorem setTile_looks (s : State) (t : Nat) (x : TileState) : (setTile s t x).looks = s.looks := rfl
@[simp] theorem setTile_ownRuns (s : State) (t : Nat) (x : TileState) : (setTile s t x).ownRuns = s.ownRuns := rfl
@[simp] theorem setTile_waitReqs (s : State) (t : Nat) (x : TileState) : (setTile s t x).waitReqs = s.waitReqs := rfl
@[simp] theorem setTile_fetches (s : State) (t : Nat) (x : TileState) : (setTile s t x).fetches = s.fetches := rfl
@[simp] theorem setTile_hotBooks (s : State) (t : Nat) (x : TileState) : (setTile s t x).hotBooks = s.hotBooks := rfl
@[simp] theorem setTile_redirects (s : State) (t : Nat) (x : TileState) : (setTile s t x).redirects = s.redirects := rfl
@[simp] theorem setTile_held (s : State) (t : Nat) (x : TileState) : (setTile s t x).held = s.held := rfl
@[simp] theorem setTile_fwdOuts (s : State) (t : Nat) (x : TileState) : (setTile s t x).fwdOuts = s.fwdOuts := rfl
@[simp] theorem setTile_rowLocks (s : State) (t : Nat) (x : TileState) : (setTile s t x).rowLocks = s.rowLocks := rfl
@[simp] theorem setTile_verHolds (s : State) (t : Nat) (x : TileState) : (setTile s t x).verHolds = s.verHolds := rfl
@[simp] theorem setTile_stepped (s : State) (t : Nat) (x : TileState) : (setTile s t x).stepped = s.stepped := rfl
@[simp] theorem setTile_stackReqs (s : State) (t : Nat) (x : TileState) : (setTile s t x).stackReqs = s.stackReqs := rfl
@[simp] theorem setTile_poison (s : State) (t : Nat) (x : TileState) : (setTile s t x).poison = s.poison := rfl
@[simp] theorem setTile_applying (s : State) (t : Nat) (x : TileState) : (setTile s t x).applying = s.applying := rfl
@[simp] theorem setTile_batches (s : State) (t : Nat) (x : TileState) : (setTile s t x).batches = s.batches := rfl
@[simp] theorem setTile_coeffPast (s : State) (t : Nat) (x : TileState) : (setTile s t x).coeffPast = s.coeffPast := rfl
@[simp] theorem setTile_shardCnt (s : State) (t : Nat) (x : TileState) : (setTile s t x).shardCnt = s.shardCnt := rfl
@[simp] theorem setTile_clove (s : State) (t : Nat) (x : TileState) : (setTile s t x).clove = s.clove := rfl
@[simp] theorem setTile_cloveSeq (s : State) (t : Nat) (x : TileState) : (setTile s t x).cloveSeq = s.cloveSeq := rfl
@[simp] theorem setTile_cloveWait (s : State) (t : Nat) (x : TileState) : (setTile s t x).cloveWait = s.cloveWait := rfl
@[simp] theorem setTile_norms (s : State) (t : Nat) (x : TileState) : (setTile s t x).norms = s.norms := rfl
@[simp] theorem setTile_clips (s : State) (t : Nat) (x : TileState) : (setTile s t x).clips = s.clips := rfl
@[simp] theorem setTile_d3hot (s : State) (t : Nat) (x : TileState) : (setTile s t x).d3hot = s.d3hot := rfl
@[simp] theorem setTile_outbox (s : State) (t : Nat) (x : TileState) : (setTile s t x).outbox = s.outbox := rfl
@[simp] theorem setTile_wire (s : State) (t : Nat) (x : TileState) : (setTile s t x).wire = s.wire := rfl
@[simp] theorem setTile_sess (s : State) (t : Nat) (x : TileState) : (setTile s t x).sess = s.sess := rfl
@[simp] theorem setTile_fabWait (s : State) (t : Nat) (x : TileState) : (setTile s t x).fabWait = s.fabWait := rfl
@[simp] theorem setTile_rebound (s : State) (t : Nat) (x : TileState) : (setTile s t x).rebound = s.rebound := rfl
@[simp] theorem setTile_colls (s : State) (t : Nat) (x : TileState) : (setTile s t x).colls = s.colls := rfl
@[simp] theorem setTile_jobs (s : State) (t : Nat) (x : TileState) : (setTile s t x).jobs = s.jobs := rfl
@[simp] theorem setTile_certCache (s : State) (t : Nat) (x : TileState) : (setTile s t x).certCache = s.certCache := rfl
@[simp] theorem setTile_hbmKeys (s : State) (t : Nat) (x : TileState) : (setTile s t x).hbmKeys = s.hbmKeys := rfl
@[simp] theorem setTile_dbgChal (s : State) (t : Nat) (x : TileState) : (setTile s t x).dbgChal = s.dbgChal := rfl
@[simp] theorem setTile_ownerKey (s : State) (t : Nat) (x : TileState) : (setTile s t x).ownerKey = s.ownerKey := rfl
@[simp] theorem setTile_ownerBoot (s : State) (t : Nat) (x : TileState) : (setTile s t x).ownerBoot = s.ownerBoot := rfl
@[simp] theorem setTile_ideNoted (s : State) (t : Nat) (x : TileState) : (setTile s t x).ideNoted = s.ideNoted := rfl
@[simp] theorem setTile_spdm (s : State) (t : Nat) (x : TileState) : (setTile s t x).spdm = s.spdm := rfl
@[simp] theorem setTile_spdmOut (s : State) (t : Nat) (x : TileState) : (setTile s t x).spdmOut = s.spdmOut := rfl
@[simp] theorem setTile_aliasKey (s : State) (t : Nat) (x : TileState) : (setTile s t x).aliasKey = s.aliasKey := rfl
@[simp] theorem setTile_aliasCert (s : State) (t : Nat) (x : TileState) : (setTile s t x).aliasCert = s.aliasCert := rfl
@[simp] theorem setTile_ideStreams (s : State) (t : Nat) (x : TileState) : (setTile s t x).ideStreams = s.ideStreams := rfl
@[simp] theorem setTile_secRun (s : State) (t : Nat) (x : TileState) : (setTile s t x).secRun = s.secRun := rfl
@[simp] theorem setTile_measures (s : State) (t : Nat) (x : TileState) : (setTile s t x).measures = s.measures := rfl
@[simp] theorem setTile_measured (s : State) (t : Nat) (x : TileState) : (setTile s t x).measured = s.measured := rfl
@[simp] theorem setTile_watch (s : State) (t : Nat) (x : TileState) : (setTile s t x).watch = s.watch := rfl
@[simp] theorem setTile_staging (s : State) (t : Nat) (x : TileState) : (setTile s t x).staging = s.staging := rfl
@[simp] theorem setTile_drives (s : State) (t : Nat) (x : TileState) : (setTile s t x).drives = s.drives := rfl
@[simp] theorem setTile_epochWait (s : State) (t : Nat) (x : TileState) : (setTile s t x).epochWait = s.epochWait := rfl
@[simp] theorem setTile_compacting (s : State) (t : Nat) (x : TileState) : (setTile s t x).compacting = s.compacting := rfl
@[simp] theorem setTile_lastEngine (s : State) (t : Nat) (x : TileState) : (setTile s t x).lastEngine = s.lastEngine := rfl
@[simp] theorem setTile_inputs (s : State) (t : Nat) (x : TileState) : (setTile s t x).inputs = s.inputs := rfl
@[simp] theorem setTile_ilogs (s : State) (t : Nat) (x : TileState) : (setTile s t x).ilogs = s.ilogs := rfl
@[simp] theorem setTile_plans (s : State) (t : Nat) (x : TileState) : (setTile s t x).plans = s.plans := rfl
@[simp] theorem setTile_certs (s : State) (t : Nat) (x : TileState) : (setTile s t x).certs = s.certs := rfl
@[simp] theorem setTile_seedFrom (s : State) (t : Nat) (x : TileState) : (setTile s t x).seedFrom = s.seedFrom := rfl
@[simp] theorem setTile_logTail (s : State) (t : Nat) (x : TileState) : (setTile s t x).logTail = s.logTail := rfl
@[simp] theorem setTile_mirBatches (s : State) (t : Nat) (x : TileState) : (setTile s t x).mirBatches = s.mirBatches := rfl
@[simp] theorem setTile_safeKind (s : State) (t : Nat) (x : TileState) : (setTile s t x).safeKind = s.safeKind := rfl
@[simp] theorem setTile_mseOff (s : State) (t : Nat) (x : TileState) : (setTile s t x).mseOff = s.mseOff := rfl
@[simp] theorem setTile_bar4Noted (s : State) (t : Nat) (x : TileState) : (setTile s t x).bar4Noted = s.bar4Noted := rfl
@[simp] theorem setTile_fabBad (s : State) (t : Nat) (x : TileState) : (setTile s t x).fabBad = s.fabBad := rfl
@[simp] theorem setTile_trainFails (s : State) (t : Nat) (x : TileState) : (setTile s t x).trainFails = s.trainFails := rfl
@[simp] theorem setTile_vset (s : State) (t : Nat) (x : TileState) : (setTile s t x).vset = s.vset := rfl
@[simp] theorem setTile_thermBy (s : State) (t : Nat) (x : TileState) : (setTile s t x).thermBy = s.thermBy := rfl
@[simp] theorem setTile_thermCool (s : State) (t : Nat) (x : TileState) : (setTile s t x).thermCool = s.thermCool := rfl
@[simp] theorem setTile_tempOver (s : State) (t : Nat) (x : TileState) : (setTile s t x).tempOver = s.tempOver := rfl
@[simp] theorem setTile_capLow (s : State) (t : Nat) (x : TileState) : (setTile s t x).capLow = s.capLow := rfl
@[simp] theorem setTile_capHigh (s : State) (t : Nat) (x : TileState) : (setTile s t x).capHigh = s.capHigh := rfl
@[simp] theorem setTile_curLim (s : State) (t : Nat) (x : TileState) : (setTile s t x).curLim = s.curLim := rfl
@[simp] theorem setTile_avsFails (s : State) (t : Nat) (x : TileState) : (setTile s t x).avsFails = s.avsFails := rfl
@[simp] theorem setTile_rails (s : State) (t : Nat) (x : TileState) : (setTile s t x).rails = s.rails := rfl
@[simp] theorem setTile_avsDown (s : State) (t : Nat) (x : TileState) : (setTile s t x).avsDown = s.avsDown := rfl
@[simp] theorem setTile_vao (s : State) (t : Nat) (x : TileState) : (setTile s t x).vao = s.vao := rfl
@[simp] theorem setTile_pwrEn (s : State) (t : Nat) (x : TileState) : (setTile s t x).pwrEn = s.pwrEn := rfl
@[simp] theorem setTile_hqueues (s : State) (t : Nat) (x : TileState) : (setTile s t x).hqueues = s.hqueues := rfl
@[simp] theorem setTile_qLast (s : State) (t : Nat) (x : TileState) : (setTile s t x).qLast = s.qLast := rfl
@[simp] theorem setTile_subsys (s : State) (t : Nat) (x : TileState) : (setTile s t x).subsys = s.subsys := rfl
@[simp] theorem setTile_mfgTest (s : State) (t : Nat) (x : TileState) : (setTile s t x).mfgTest = s.mfgTest := rfl
@[simp] theorem setTile_flash (s : State) (t : Nat) (x : TileState) : (setTile s t x).flash = s.flash := rfl
@[simp] theorem setTile_flashBad (s : State) (t : Nat) (x : TileState) : (setTile s t x).flashBad = s.flashBad := rfl
@[simp] theorem setTile_tapIr (s : State) (t : Nat) (x : TileState) : (setTile s t x).tapIr = s.tapIr := rfl
@[simp] theorem setTile_tapBypass (s : State) (t : Nat) (x : TileState) : (setTile s t x).tapBypass = s.tapBypass := rfl
@[simp] theorem setTile_bscan (s : State) (t : Nat) (x : TileState) : (setTile s t x).bscan = s.bscan := rfl
@[simp] theorem setTile_bscanDrive (s : State) (t : Nat) (x : TileState) : (setTile s t x).bscanDrive = s.bscanDrive := rfl
@[simp] theorem setTile_tapAddr (s : State) (t : Nat) (x : TileState) : (setTile s t x).tapAddr = s.tapAddr := rfl
@[simp] theorem setTile_tapData (s : State) (t : Nat) (x : TileState) : (setTile s t x).tapData = s.tapData := rfl
@[simp] theorem setTile_tapErr (s : State) (t : Nat) (x : TileState) : (setTile s t x).tapErr = s.tapErr := rfl
@[simp] theorem setTile_tapResult (s : State) (t : Nat) (x : TileState) : (setTile s t x).tapResult = s.tapResult := rfl
@[simp] theorem setTile_tapOut (s : State) (t : Nat) (x : TileState) : (setTile s t x).tapOut = s.tapOut := rfl
@[simp] theorem setTile_readOut (s : State) (t : Nat) (x : TileState) : (setTile s t x).readOut = s.readOut := rfl
@[simp] theorem setTile_hostOut (s : State) (t : Nat) (x : TileState) : (setTile s t x).hostOut = s.hostOut := rfl
@[simp] theorem setTile_hostReads (s : State) (t : Nat) (x : TileState) : (setTile s t x).hostReads = s.hostReads := rfl
@[simp] theorem setTile_msix (s : State) (t : Nat) (x : TileState) : (setTile s t x).msix = s.msix := rfl
@[simp] theorem setTile_msixPend (s : State) (t : Nat) (x : TileState) : (setTile s t x).msixPend = s.msixPend := rfl
@[simp] theorem setTile_irqs (s : State) (t : Nat) (x : TileState) : (setTile s t x).irqs = s.irqs := rfl

@[simp] theorem sramWrite_pending (s : State) (a : Nat) (bs : List Byte) : (sramWrite s a bs).pending = s.pending := rfl
@[simp] theorem sramWrite_regs (s : State) (a : Nat) (bs : List Byte) : (sramWrite s a bs).regs = s.regs := rfl
@[simp] theorem sramWrite_hbm (s : State) (a : Nat) (bs : List Byte) : (sramWrite s a bs).hbm = s.hbm := rfl
@[simp] theorem sramWrite_hbmGen (s : State) (a : Nat) (bs : List Byte) : (sramWrite s a bs).hbmGen = s.hbmGen := rfl
@[simp] theorem sramWrite_freeCtr (s : State) (a : Nat) (bs : List Byte) : (sramWrite s a bs).freeCtr = s.freeCtr := rfl
@[simp] theorem sramWrite_mode (s : State) (a : Nat) (bs : List Byte) : (sramWrite s a bs).mode = s.mode := rfl
@[simp] theorem sramWrite_safe (s : State) (a : Nat) (bs : List Byte) : (sramWrite s a bs).safe = s.safe := rfl
@[simp] theorem sramWrite_fusedTiles (s : State) (a : Nat) (bs : List Byte) : (sramWrite s a bs).fusedTiles = s.fusedTiles := rfl
@[simp] theorem sramWrite_fusesRead (s : State) (a : Nat) (bs : List Byte) : (sramWrite s a bs).fusesRead = s.fusesRead := rfl
@[simp] theorem sramWrite_retiredTiles (s : State) (a : Nat) (bs : List Byte) : (sramWrite s a bs).retiredTiles = s.retiredTiles := rfl
@[simp] theorem sramWrite_retiredEngines (s : State) (a : Nat) (bs : List Byte) : (sramWrite s a bs).retiredEngines = s.retiredEngines := rfl
@[simp] theorem sramWrite_tiles (s : State) (a : Nat) (bs : List Byte) : (sramWrite s a bs).tiles = s.tiles := rfl
@[simp] theorem sramWrite_tgRun (s : State) (a : Nat) (bs : List Byte) : (sramWrite s a bs).tgRun = s.tgRun := rfl
@[simp] theorem sramWrite_tgStop (s : State) (a : Nat) (bs : List Byte) : (sramWrite s a bs).tgStop = s.tgStop := rfl
@[simp] theorem sramWrite_incDropped (s : State) (a : Nat) (bs : List Byte) : (sramWrite s a bs).incDropped = s.incDropped := rfl
@[simp] theorem sramWrite_holdLater (s : State) (a : Nat) (bs : List Byte) : (sramWrite s a bs).holdLater = s.holdLater := rfl
@[simp] theorem sramWrite_heldRx (s : State) (a : Nat) (bs : List Byte) : (sramWrite s a bs).heldRx = s.heldRx := rfl
@[simp] theorem sramWrite_heldForF2 (s : State) (a : Nat) (bs : List Byte) : (sramWrite s a bs).heldForF2 = s.heldForF2 := rfl
@[simp] theorem sramWrite_dieDecided (s : State) (a : Nat) (bs : List Byte) : (sramWrite s a bs).dieDecided = s.dieDecided := rfl
@[simp] theorem sramWrite_incs (s : State) (a : Nat) (bs : List Byte) : (sramWrite s a bs).incs = s.incs := rfl
@[simp] theorem sramWrite_incWait (s : State) (a : Nat) (bs : List Byte) : (sramWrite s a bs).incWait = s.incWait := rfl
@[simp] theorem sramWrite_faultQ (s : State) (a : Nat) (bs : List Byte) : (sramWrite s a bs).faultQ = s.faultQ := rfl
@[simp] theorem sramWrite_recs (s : State) (a : Nat) (bs : List Byte) : (sramWrite s a bs).recs = s.recs := rfl
@[simp] theorem sramWrite_seq (s : State) (a : Nat) (bs : List Byte) : (sramWrite s a bs).seq = s.seq := rfl
@[simp] theorem sramWrite_scopes (s : State) (a : Nat) (bs : List Byte) : (sramWrite s a bs).scopes = s.scopes := rfl
@[simp] theorem sramWrite_lostRecs (s : State) (a : Nat) (bs : List Byte) : (sramWrite s a bs).lostRecs = s.lostRecs := rfl
@[simp] theorem sramWrite_secondF2 (s : State) (a : Nat) (bs : List Byte) : (sramWrite s a bs).secondF2 = s.secondF2 := rfl
@[simp] theorem sramWrite_ringPhase (s : State) (a : Nat) (bs : List Byte) : (sramWrite s a bs).ringPhase = s.ringPhase := rfl
@[simp] theorem sramWrite_ringWaits (s : State) (a : Nat) (bs : List Byte) : (sramWrite s a bs).ringWaits = s.ringWaits := rfl
@[simp] theorem sramWrite_safeMirrored (s : State) (a : Nat) (bs : List Byte) : (sramWrite s a bs).safeMirrored = s.safeMirrored := rfl
@[simp] theorem sramWrite_store (s : State) (a : Nat) (bs : List Byte) : (sramWrite s a bs).store = s.store := rfl
@[simp] theorem sramWrite_storeGen (s : State) (a : Nat) (bs : List Byte) : (sramWrite s a bs).storeGen = s.storeGen := rfl
@[simp] theorem sramWrite_csWants (s : State) (a : Nat) (bs : List Byte) : (sramWrite s a bs).csWants = s.csWants := rfl
@[simp] theorem sramWrite_bank0 (s : State) (a : Nat) (bs : List Byte) : (sramWrite s a bs).bank0 = s.bank0 := rfl
@[simp] theorem sramWrite_bank1 (s : State) (a : Nat) (bs : List Byte) : (sramWrite s a bs).bank1 = s.bank1 := rfl
@[simp] theorem sramWrite_compactAt (s : State) (a : Nat) (bs : List Byte) : (sramWrite s a bs).compactAt = s.compactAt := rfl
@[simp] theorem sramWrite_lapsed (s : State) (a : Nat) (bs : List Byte) : (sramWrite s a bs).lapsed = s.lapsed := rfl
@[simp] theorem sramWrite_reports (s : State) (a : Nat) (bs : List Byte) : (sramWrite s a bs).reports = s.reports := rfl
@[simp] theorem sramWrite_reported (s : State) (a : Nat) (bs : List Byte) : (sramWrite s a bs).reported = s.reported := rfl
@[simp] theorem sramWrite_ptmLog (s : State) (a : Nat) (bs : List Byte) : (sramWrite s a bs).ptmLog = s.ptmLog := rfl
@[simp] theorem sramWrite_sdRecs (s : State) (a : Nat) (bs : List Byte) : (sramWrite s a bs).sdRecs = s.sdRecs := rfl
@[simp] theorem sramWrite_sdParts (s : State) (a : Nat) (bs : List Byte) : (sramWrite s a bs).sdParts = s.sdParts := rfl
@[simp] theorem sramWrite_sdSkip (s : State) (a : Nat) (bs : List Byte) : (sramWrite s a bs).sdSkip = s.sdSkip := rfl
@[simp] theorem sramWrite_sdSent (s : State) (a : Nat) (bs : List Byte) : (sramWrite s a bs).sdSent = s.sdSent := rfl
@[simp] theorem sramWrite_firing (s : State) (a : Nat) (bs : List Byte) : (sramWrite s a bs).firing = s.firing := rfl
@[simp] theorem sramWrite_msgSeq (s : State) (a : Nat) (bs : List Byte) : (sramWrite s a bs).msgSeq = s.msgSeq := rfl
@[simp] theorem sramWrite_looks (s : State) (a : Nat) (bs : List Byte) : (sramWrite s a bs).looks = s.looks := rfl
@[simp] theorem sramWrite_ownRuns (s : State) (a : Nat) (bs : List Byte) : (sramWrite s a bs).ownRuns = s.ownRuns := rfl
@[simp] theorem sramWrite_waitReqs (s : State) (a : Nat) (bs : List Byte) : (sramWrite s a bs).waitReqs = s.waitReqs := rfl
@[simp] theorem sramWrite_fetches (s : State) (a : Nat) (bs : List Byte) : (sramWrite s a bs).fetches = s.fetches := rfl
@[simp] theorem sramWrite_hotBooks (s : State) (a : Nat) (bs : List Byte) : (sramWrite s a bs).hotBooks = s.hotBooks := rfl
@[simp] theorem sramWrite_redirects (s : State) (a : Nat) (bs : List Byte) : (sramWrite s a bs).redirects = s.redirects := rfl
@[simp] theorem sramWrite_held (s : State) (a : Nat) (bs : List Byte) : (sramWrite s a bs).held = s.held := rfl
@[simp] theorem sramWrite_fwdOuts (s : State) (a : Nat) (bs : List Byte) : (sramWrite s a bs).fwdOuts = s.fwdOuts := rfl
@[simp] theorem sramWrite_rowLocks (s : State) (a : Nat) (bs : List Byte) : (sramWrite s a bs).rowLocks = s.rowLocks := rfl
@[simp] theorem sramWrite_verHolds (s : State) (a : Nat) (bs : List Byte) : (sramWrite s a bs).verHolds = s.verHolds := rfl
@[simp] theorem sramWrite_stepped (s : State) (a : Nat) (bs : List Byte) : (sramWrite s a bs).stepped = s.stepped := rfl
@[simp] theorem sramWrite_stackReqs (s : State) (a : Nat) (bs : List Byte) : (sramWrite s a bs).stackReqs = s.stackReqs := rfl
@[simp] theorem sramWrite_poison (s : State) (a : Nat) (bs : List Byte) : (sramWrite s a bs).poison = s.poison := rfl
@[simp] theorem sramWrite_applying (s : State) (a : Nat) (bs : List Byte) : (sramWrite s a bs).applying = s.applying := rfl
@[simp] theorem sramWrite_batches (s : State) (a : Nat) (bs : List Byte) : (sramWrite s a bs).batches = s.batches := rfl
@[simp] theorem sramWrite_coeffPast (s : State) (a : Nat) (bs : List Byte) : (sramWrite s a bs).coeffPast = s.coeffPast := rfl
@[simp] theorem sramWrite_shardCnt (s : State) (a : Nat) (bs : List Byte) : (sramWrite s a bs).shardCnt = s.shardCnt := rfl
@[simp] theorem sramWrite_clove (s : State) (a : Nat) (bs : List Byte) : (sramWrite s a bs).clove = s.clove := rfl
@[simp] theorem sramWrite_cloveSeq (s : State) (a : Nat) (bs : List Byte) : (sramWrite s a bs).cloveSeq = s.cloveSeq := rfl
@[simp] theorem sramWrite_cloveWait (s : State) (a : Nat) (bs : List Byte) : (sramWrite s a bs).cloveWait = s.cloveWait := rfl
@[simp] theorem sramWrite_norms (s : State) (a : Nat) (bs : List Byte) : (sramWrite s a bs).norms = s.norms := rfl
@[simp] theorem sramWrite_clips (s : State) (a : Nat) (bs : List Byte) : (sramWrite s a bs).clips = s.clips := rfl
@[simp] theorem sramWrite_d3hot (s : State) (a : Nat) (bs : List Byte) : (sramWrite s a bs).d3hot = s.d3hot := rfl
@[simp] theorem sramWrite_outbox (s : State) (a : Nat) (bs : List Byte) : (sramWrite s a bs).outbox = s.outbox := rfl
@[simp] theorem sramWrite_wire (s : State) (a : Nat) (bs : List Byte) : (sramWrite s a bs).wire = s.wire := rfl
@[simp] theorem sramWrite_sess (s : State) (a : Nat) (bs : List Byte) : (sramWrite s a bs).sess = s.sess := rfl
@[simp] theorem sramWrite_fabWait (s : State) (a : Nat) (bs : List Byte) : (sramWrite s a bs).fabWait = s.fabWait := rfl
@[simp] theorem sramWrite_rebound (s : State) (a : Nat) (bs : List Byte) : (sramWrite s a bs).rebound = s.rebound := rfl
@[simp] theorem sramWrite_colls (s : State) (a : Nat) (bs : List Byte) : (sramWrite s a bs).colls = s.colls := rfl
@[simp] theorem sramWrite_jobs (s : State) (a : Nat) (bs : List Byte) : (sramWrite s a bs).jobs = s.jobs := rfl
@[simp] theorem sramWrite_certCache (s : State) (a : Nat) (bs : List Byte) : (sramWrite s a bs).certCache = s.certCache := rfl
@[simp] theorem sramWrite_hbmKeys (s : State) (a : Nat) (bs : List Byte) : (sramWrite s a bs).hbmKeys = s.hbmKeys := rfl
@[simp] theorem sramWrite_dbgChal (s : State) (a : Nat) (bs : List Byte) : (sramWrite s a bs).dbgChal = s.dbgChal := rfl
@[simp] theorem sramWrite_ownerKey (s : State) (a : Nat) (bs : List Byte) : (sramWrite s a bs).ownerKey = s.ownerKey := rfl
@[simp] theorem sramWrite_ownerBoot (s : State) (a : Nat) (bs : List Byte) : (sramWrite s a bs).ownerBoot = s.ownerBoot := rfl
@[simp] theorem sramWrite_ideNoted (s : State) (a : Nat) (bs : List Byte) : (sramWrite s a bs).ideNoted = s.ideNoted := rfl
@[simp] theorem sramWrite_spdm (s : State) (a : Nat) (bs : List Byte) : (sramWrite s a bs).spdm = s.spdm := rfl
@[simp] theorem sramWrite_spdmOut (s : State) (a : Nat) (bs : List Byte) : (sramWrite s a bs).spdmOut = s.spdmOut := rfl
@[simp] theorem sramWrite_aliasKey (s : State) (a : Nat) (bs : List Byte) : (sramWrite s a bs).aliasKey = s.aliasKey := rfl
@[simp] theorem sramWrite_aliasCert (s : State) (a : Nat) (bs : List Byte) : (sramWrite s a bs).aliasCert = s.aliasCert := rfl
@[simp] theorem sramWrite_ideStreams (s : State) (a : Nat) (bs : List Byte) : (sramWrite s a bs).ideStreams = s.ideStreams := rfl
@[simp] theorem sramWrite_secRun (s : State) (a : Nat) (bs : List Byte) : (sramWrite s a bs).secRun = s.secRun := rfl
@[simp] theorem sramWrite_measures (s : State) (a : Nat) (bs : List Byte) : (sramWrite s a bs).measures = s.measures := rfl
@[simp] theorem sramWrite_measured (s : State) (a : Nat) (bs : List Byte) : (sramWrite s a bs).measured = s.measured := rfl
@[simp] theorem sramWrite_watch (s : State) (a : Nat) (bs : List Byte) : (sramWrite s a bs).watch = s.watch := rfl
@[simp] theorem sramWrite_staging (s : State) (a : Nat) (bs : List Byte) : (sramWrite s a bs).staging = s.staging := rfl
@[simp] theorem sramWrite_drives (s : State) (a : Nat) (bs : List Byte) : (sramWrite s a bs).drives = s.drives := rfl
@[simp] theorem sramWrite_epochWait (s : State) (a : Nat) (bs : List Byte) : (sramWrite s a bs).epochWait = s.epochWait := rfl
@[simp] theorem sramWrite_compacting (s : State) (a : Nat) (bs : List Byte) : (sramWrite s a bs).compacting = s.compacting := rfl
@[simp] theorem sramWrite_lastEngine (s : State) (a : Nat) (bs : List Byte) : (sramWrite s a bs).lastEngine = s.lastEngine := rfl
@[simp] theorem sramWrite_inputs (s : State) (a : Nat) (bs : List Byte) : (sramWrite s a bs).inputs = s.inputs := rfl
@[simp] theorem sramWrite_ilogs (s : State) (a : Nat) (bs : List Byte) : (sramWrite s a bs).ilogs = s.ilogs := rfl
@[simp] theorem sramWrite_plans (s : State) (a : Nat) (bs : List Byte) : (sramWrite s a bs).plans = s.plans := rfl
@[simp] theorem sramWrite_certs (s : State) (a : Nat) (bs : List Byte) : (sramWrite s a bs).certs = s.certs := rfl
@[simp] theorem sramWrite_seedFrom (s : State) (a : Nat) (bs : List Byte) : (sramWrite s a bs).seedFrom = s.seedFrom := rfl
@[simp] theorem sramWrite_logTail (s : State) (a : Nat) (bs : List Byte) : (sramWrite s a bs).logTail = s.logTail := rfl
@[simp] theorem sramWrite_mirBatches (s : State) (a : Nat) (bs : List Byte) : (sramWrite s a bs).mirBatches = s.mirBatches := rfl
@[simp] theorem sramWrite_safeKind (s : State) (a : Nat) (bs : List Byte) : (sramWrite s a bs).safeKind = s.safeKind := rfl
@[simp] theorem sramWrite_mseOff (s : State) (a : Nat) (bs : List Byte) : (sramWrite s a bs).mseOff = s.mseOff := rfl
@[simp] theorem sramWrite_bar4Noted (s : State) (a : Nat) (bs : List Byte) : (sramWrite s a bs).bar4Noted = s.bar4Noted := rfl
@[simp] theorem sramWrite_fabBad (s : State) (a : Nat) (bs : List Byte) : (sramWrite s a bs).fabBad = s.fabBad := rfl
@[simp] theorem sramWrite_trainFails (s : State) (a : Nat) (bs : List Byte) : (sramWrite s a bs).trainFails = s.trainFails := rfl
@[simp] theorem sramWrite_vset (s : State) (a : Nat) (bs : List Byte) : (sramWrite s a bs).vset = s.vset := rfl
@[simp] theorem sramWrite_thermBy (s : State) (a : Nat) (bs : List Byte) : (sramWrite s a bs).thermBy = s.thermBy := rfl
@[simp] theorem sramWrite_thermCool (s : State) (a : Nat) (bs : List Byte) : (sramWrite s a bs).thermCool = s.thermCool := rfl
@[simp] theorem sramWrite_tempOver (s : State) (a : Nat) (bs : List Byte) : (sramWrite s a bs).tempOver = s.tempOver := rfl
@[simp] theorem sramWrite_capLow (s : State) (a : Nat) (bs : List Byte) : (sramWrite s a bs).capLow = s.capLow := rfl
@[simp] theorem sramWrite_capHigh (s : State) (a : Nat) (bs : List Byte) : (sramWrite s a bs).capHigh = s.capHigh := rfl
@[simp] theorem sramWrite_curLim (s : State) (a : Nat) (bs : List Byte) : (sramWrite s a bs).curLim = s.curLim := rfl
@[simp] theorem sramWrite_avsFails (s : State) (a : Nat) (bs : List Byte) : (sramWrite s a bs).avsFails = s.avsFails := rfl
@[simp] theorem sramWrite_rails (s : State) (a : Nat) (bs : List Byte) : (sramWrite s a bs).rails = s.rails := rfl
@[simp] theorem sramWrite_avsDown (s : State) (a : Nat) (bs : List Byte) : (sramWrite s a bs).avsDown = s.avsDown := rfl
@[simp] theorem sramWrite_vao (s : State) (a : Nat) (bs : List Byte) : (sramWrite s a bs).vao = s.vao := rfl
@[simp] theorem sramWrite_pwrEn (s : State) (a : Nat) (bs : List Byte) : (sramWrite s a bs).pwrEn = s.pwrEn := rfl
@[simp] theorem sramWrite_hqueues (s : State) (a : Nat) (bs : List Byte) : (sramWrite s a bs).hqueues = s.hqueues := rfl
@[simp] theorem sramWrite_qLast (s : State) (a : Nat) (bs : List Byte) : (sramWrite s a bs).qLast = s.qLast := rfl
@[simp] theorem sramWrite_subsys (s : State) (a : Nat) (bs : List Byte) : (sramWrite s a bs).subsys = s.subsys := rfl
@[simp] theorem sramWrite_mfgTest (s : State) (a : Nat) (bs : List Byte) : (sramWrite s a bs).mfgTest = s.mfgTest := rfl
@[simp] theorem sramWrite_flash (s : State) (a : Nat) (bs : List Byte) : (sramWrite s a bs).flash = s.flash := rfl
@[simp] theorem sramWrite_flashBad (s : State) (a : Nat) (bs : List Byte) : (sramWrite s a bs).flashBad = s.flashBad := rfl
@[simp] theorem sramWrite_tapIr (s : State) (a : Nat) (bs : List Byte) : (sramWrite s a bs).tapIr = s.tapIr := rfl
@[simp] theorem sramWrite_tapBypass (s : State) (a : Nat) (bs : List Byte) : (sramWrite s a bs).tapBypass = s.tapBypass := rfl
@[simp] theorem sramWrite_bscan (s : State) (a : Nat) (bs : List Byte) : (sramWrite s a bs).bscan = s.bscan := rfl
@[simp] theorem sramWrite_bscanDrive (s : State) (a : Nat) (bs : List Byte) : (sramWrite s a bs).bscanDrive = s.bscanDrive := rfl
@[simp] theorem sramWrite_tapAddr (s : State) (a : Nat) (bs : List Byte) : (sramWrite s a bs).tapAddr = s.tapAddr := rfl
@[simp] theorem sramWrite_tapData (s : State) (a : Nat) (bs : List Byte) : (sramWrite s a bs).tapData = s.tapData := rfl
@[simp] theorem sramWrite_tapErr (s : State) (a : Nat) (bs : List Byte) : (sramWrite s a bs).tapErr = s.tapErr := rfl
@[simp] theorem sramWrite_tapResult (s : State) (a : Nat) (bs : List Byte) : (sramWrite s a bs).tapResult = s.tapResult := rfl
@[simp] theorem sramWrite_tapOut (s : State) (a : Nat) (bs : List Byte) : (sramWrite s a bs).tapOut = s.tapOut := rfl
@[simp] theorem sramWrite_readOut (s : State) (a : Nat) (bs : List Byte) : (sramWrite s a bs).readOut = s.readOut := rfl
@[simp] theorem sramWrite_hostOut (s : State) (a : Nat) (bs : List Byte) : (sramWrite s a bs).hostOut = s.hostOut := rfl
@[simp] theorem sramWrite_hostReads (s : State) (a : Nat) (bs : List Byte) : (sramWrite s a bs).hostReads = s.hostReads := rfl
@[simp] theorem sramWrite_msix (s : State) (a : Nat) (bs : List Byte) : (sramWrite s a bs).msix = s.msix := rfl
@[simp] theorem sramWrite_msixPend (s : State) (a : Nat) (bs : List Byte) : (sramWrite s a bs).msixPend = s.msixPend := rfl
@[simp] theorem sramWrite_irqs (s : State) (a : Nat) (bs : List Byte) : (sramWrite s a bs).irqs = s.irqs := rfl

@[simp] theorem hbmWrite_pending (s : State) (a : Nat) (bs : List Byte) : (hbmWrite s a bs).pending = s.pending := rfl
@[simp] theorem hbmWrite_regs (s : State) (a : Nat) (bs : List Byte) : (hbmWrite s a bs).regs = s.regs := rfl
@[simp] theorem hbmWrite_sram (s : State) (a : Nat) (bs : List Byte) : (hbmWrite s a bs).sram = s.sram := rfl
@[simp] theorem hbmWrite_hbmGen (s : State) (a : Nat) (bs : List Byte) : (hbmWrite s a bs).hbmGen = s.hbmGen := rfl
@[simp] theorem hbmWrite_freeCtr (s : State) (a : Nat) (bs : List Byte) : (hbmWrite s a bs).freeCtr = s.freeCtr := rfl
@[simp] theorem hbmWrite_mode (s : State) (a : Nat) (bs : List Byte) : (hbmWrite s a bs).mode = s.mode := rfl
@[simp] theorem hbmWrite_safe (s : State) (a : Nat) (bs : List Byte) : (hbmWrite s a bs).safe = s.safe := rfl
@[simp] theorem hbmWrite_fusedTiles (s : State) (a : Nat) (bs : List Byte) : (hbmWrite s a bs).fusedTiles = s.fusedTiles := rfl
@[simp] theorem hbmWrite_fusesRead (s : State) (a : Nat) (bs : List Byte) : (hbmWrite s a bs).fusesRead = s.fusesRead := rfl
@[simp] theorem hbmWrite_retiredTiles (s : State) (a : Nat) (bs : List Byte) : (hbmWrite s a bs).retiredTiles = s.retiredTiles := rfl
@[simp] theorem hbmWrite_retiredEngines (s : State) (a : Nat) (bs : List Byte) : (hbmWrite s a bs).retiredEngines = s.retiredEngines := rfl
@[simp] theorem hbmWrite_tiles (s : State) (a : Nat) (bs : List Byte) : (hbmWrite s a bs).tiles = s.tiles := rfl
@[simp] theorem hbmWrite_tgRun (s : State) (a : Nat) (bs : List Byte) : (hbmWrite s a bs).tgRun = s.tgRun := rfl
@[simp] theorem hbmWrite_tgStop (s : State) (a : Nat) (bs : List Byte) : (hbmWrite s a bs).tgStop = s.tgStop := rfl
@[simp] theorem hbmWrite_incDropped (s : State) (a : Nat) (bs : List Byte) : (hbmWrite s a bs).incDropped = s.incDropped := rfl
@[simp] theorem hbmWrite_holdLater (s : State) (a : Nat) (bs : List Byte) : (hbmWrite s a bs).holdLater = s.holdLater := rfl
@[simp] theorem hbmWrite_heldRx (s : State) (a : Nat) (bs : List Byte) : (hbmWrite s a bs).heldRx = s.heldRx := rfl
@[simp] theorem hbmWrite_heldForF2 (s : State) (a : Nat) (bs : List Byte) : (hbmWrite s a bs).heldForF2 = s.heldForF2 := rfl
@[simp] theorem hbmWrite_dieDecided (s : State) (a : Nat) (bs : List Byte) : (hbmWrite s a bs).dieDecided = s.dieDecided := rfl
@[simp] theorem hbmWrite_incs (s : State) (a : Nat) (bs : List Byte) : (hbmWrite s a bs).incs = s.incs := rfl
@[simp] theorem hbmWrite_incWait (s : State) (a : Nat) (bs : List Byte) : (hbmWrite s a bs).incWait = s.incWait := rfl
@[simp] theorem hbmWrite_faultQ (s : State) (a : Nat) (bs : List Byte) : (hbmWrite s a bs).faultQ = s.faultQ := rfl
@[simp] theorem hbmWrite_recs (s : State) (a : Nat) (bs : List Byte) : (hbmWrite s a bs).recs = s.recs := rfl
@[simp] theorem hbmWrite_seq (s : State) (a : Nat) (bs : List Byte) : (hbmWrite s a bs).seq = s.seq := rfl
@[simp] theorem hbmWrite_scopes (s : State) (a : Nat) (bs : List Byte) : (hbmWrite s a bs).scopes = s.scopes := rfl
@[simp] theorem hbmWrite_lostRecs (s : State) (a : Nat) (bs : List Byte) : (hbmWrite s a bs).lostRecs = s.lostRecs := rfl
@[simp] theorem hbmWrite_secondF2 (s : State) (a : Nat) (bs : List Byte) : (hbmWrite s a bs).secondF2 = s.secondF2 := rfl
@[simp] theorem hbmWrite_ringPhase (s : State) (a : Nat) (bs : List Byte) : (hbmWrite s a bs).ringPhase = s.ringPhase := rfl
@[simp] theorem hbmWrite_ringWaits (s : State) (a : Nat) (bs : List Byte) : (hbmWrite s a bs).ringWaits = s.ringWaits := rfl
@[simp] theorem hbmWrite_safeMirrored (s : State) (a : Nat) (bs : List Byte) : (hbmWrite s a bs).safeMirrored = s.safeMirrored := rfl
@[simp] theorem hbmWrite_store (s : State) (a : Nat) (bs : List Byte) : (hbmWrite s a bs).store = s.store := rfl
@[simp] theorem hbmWrite_storeGen (s : State) (a : Nat) (bs : List Byte) : (hbmWrite s a bs).storeGen = s.storeGen := rfl
@[simp] theorem hbmWrite_csWants (s : State) (a : Nat) (bs : List Byte) : (hbmWrite s a bs).csWants = s.csWants := rfl
@[simp] theorem hbmWrite_bank0 (s : State) (a : Nat) (bs : List Byte) : (hbmWrite s a bs).bank0 = s.bank0 := rfl
@[simp] theorem hbmWrite_bank1 (s : State) (a : Nat) (bs : List Byte) : (hbmWrite s a bs).bank1 = s.bank1 := rfl
@[simp] theorem hbmWrite_compactAt (s : State) (a : Nat) (bs : List Byte) : (hbmWrite s a bs).compactAt = s.compactAt := rfl
@[simp] theorem hbmWrite_lapsed (s : State) (a : Nat) (bs : List Byte) : (hbmWrite s a bs).lapsed = s.lapsed := rfl
@[simp] theorem hbmWrite_reports (s : State) (a : Nat) (bs : List Byte) : (hbmWrite s a bs).reports = s.reports := rfl
@[simp] theorem hbmWrite_reported (s : State) (a : Nat) (bs : List Byte) : (hbmWrite s a bs).reported = s.reported := rfl
@[simp] theorem hbmWrite_ptmLog (s : State) (a : Nat) (bs : List Byte) : (hbmWrite s a bs).ptmLog = s.ptmLog := rfl
@[simp] theorem hbmWrite_sdRecs (s : State) (a : Nat) (bs : List Byte) : (hbmWrite s a bs).sdRecs = s.sdRecs := rfl
@[simp] theorem hbmWrite_sdParts (s : State) (a : Nat) (bs : List Byte) : (hbmWrite s a bs).sdParts = s.sdParts := rfl
@[simp] theorem hbmWrite_sdSkip (s : State) (a : Nat) (bs : List Byte) : (hbmWrite s a bs).sdSkip = s.sdSkip := rfl
@[simp] theorem hbmWrite_sdSent (s : State) (a : Nat) (bs : List Byte) : (hbmWrite s a bs).sdSent = s.sdSent := rfl
@[simp] theorem hbmWrite_firing (s : State) (a : Nat) (bs : List Byte) : (hbmWrite s a bs).firing = s.firing := rfl
@[simp] theorem hbmWrite_msgSeq (s : State) (a : Nat) (bs : List Byte) : (hbmWrite s a bs).msgSeq = s.msgSeq := rfl
@[simp] theorem hbmWrite_looks (s : State) (a : Nat) (bs : List Byte) : (hbmWrite s a bs).looks = s.looks := rfl
@[simp] theorem hbmWrite_ownRuns (s : State) (a : Nat) (bs : List Byte) : (hbmWrite s a bs).ownRuns = s.ownRuns := rfl
@[simp] theorem hbmWrite_waitReqs (s : State) (a : Nat) (bs : List Byte) : (hbmWrite s a bs).waitReqs = s.waitReqs := rfl
@[simp] theorem hbmWrite_fetches (s : State) (a : Nat) (bs : List Byte) : (hbmWrite s a bs).fetches = s.fetches := rfl
@[simp] theorem hbmWrite_hotBooks (s : State) (a : Nat) (bs : List Byte) : (hbmWrite s a bs).hotBooks = s.hotBooks := rfl
@[simp] theorem hbmWrite_redirects (s : State) (a : Nat) (bs : List Byte) : (hbmWrite s a bs).redirects = s.redirects := rfl
@[simp] theorem hbmWrite_held (s : State) (a : Nat) (bs : List Byte) : (hbmWrite s a bs).held = s.held := rfl
@[simp] theorem hbmWrite_fwdOuts (s : State) (a : Nat) (bs : List Byte) : (hbmWrite s a bs).fwdOuts = s.fwdOuts := rfl
@[simp] theorem hbmWrite_rowLocks (s : State) (a : Nat) (bs : List Byte) : (hbmWrite s a bs).rowLocks = s.rowLocks := rfl
@[simp] theorem hbmWrite_verHolds (s : State) (a : Nat) (bs : List Byte) : (hbmWrite s a bs).verHolds = s.verHolds := rfl
@[simp] theorem hbmWrite_stepped (s : State) (a : Nat) (bs : List Byte) : (hbmWrite s a bs).stepped = s.stepped := rfl
@[simp] theorem hbmWrite_stackReqs (s : State) (a : Nat) (bs : List Byte) : (hbmWrite s a bs).stackReqs = s.stackReqs := rfl
@[simp] theorem hbmWrite_poison (s : State) (a : Nat) (bs : List Byte) : (hbmWrite s a bs).poison = s.poison := rfl
@[simp] theorem hbmWrite_applying (s : State) (a : Nat) (bs : List Byte) : (hbmWrite s a bs).applying = s.applying := rfl
@[simp] theorem hbmWrite_batches (s : State) (a : Nat) (bs : List Byte) : (hbmWrite s a bs).batches = s.batches := rfl
@[simp] theorem hbmWrite_coeffPast (s : State) (a : Nat) (bs : List Byte) : (hbmWrite s a bs).coeffPast = s.coeffPast := rfl
@[simp] theorem hbmWrite_shardCnt (s : State) (a : Nat) (bs : List Byte) : (hbmWrite s a bs).shardCnt = s.shardCnt := rfl
@[simp] theorem hbmWrite_clove (s : State) (a : Nat) (bs : List Byte) : (hbmWrite s a bs).clove = s.clove := rfl
@[simp] theorem hbmWrite_cloveSeq (s : State) (a : Nat) (bs : List Byte) : (hbmWrite s a bs).cloveSeq = s.cloveSeq := rfl
@[simp] theorem hbmWrite_cloveWait (s : State) (a : Nat) (bs : List Byte) : (hbmWrite s a bs).cloveWait = s.cloveWait := rfl
@[simp] theorem hbmWrite_norms (s : State) (a : Nat) (bs : List Byte) : (hbmWrite s a bs).norms = s.norms := rfl
@[simp] theorem hbmWrite_clips (s : State) (a : Nat) (bs : List Byte) : (hbmWrite s a bs).clips = s.clips := rfl
@[simp] theorem hbmWrite_d3hot (s : State) (a : Nat) (bs : List Byte) : (hbmWrite s a bs).d3hot = s.d3hot := rfl
@[simp] theorem hbmWrite_outbox (s : State) (a : Nat) (bs : List Byte) : (hbmWrite s a bs).outbox = s.outbox := rfl
@[simp] theorem hbmWrite_wire (s : State) (a : Nat) (bs : List Byte) : (hbmWrite s a bs).wire = s.wire := rfl
@[simp] theorem hbmWrite_sess (s : State) (a : Nat) (bs : List Byte) : (hbmWrite s a bs).sess = s.sess := rfl
@[simp] theorem hbmWrite_fabWait (s : State) (a : Nat) (bs : List Byte) : (hbmWrite s a bs).fabWait = s.fabWait := rfl
@[simp] theorem hbmWrite_rebound (s : State) (a : Nat) (bs : List Byte) : (hbmWrite s a bs).rebound = s.rebound := rfl
@[simp] theorem hbmWrite_colls (s : State) (a : Nat) (bs : List Byte) : (hbmWrite s a bs).colls = s.colls := rfl
@[simp] theorem hbmWrite_jobs (s : State) (a : Nat) (bs : List Byte) : (hbmWrite s a bs).jobs = s.jobs := rfl
@[simp] theorem hbmWrite_certCache (s : State) (a : Nat) (bs : List Byte) : (hbmWrite s a bs).certCache = s.certCache := rfl
@[simp] theorem hbmWrite_hbmKeys (s : State) (a : Nat) (bs : List Byte) : (hbmWrite s a bs).hbmKeys = s.hbmKeys := rfl
@[simp] theorem hbmWrite_dbgChal (s : State) (a : Nat) (bs : List Byte) : (hbmWrite s a bs).dbgChal = s.dbgChal := rfl
@[simp] theorem hbmWrite_ownerKey (s : State) (a : Nat) (bs : List Byte) : (hbmWrite s a bs).ownerKey = s.ownerKey := rfl
@[simp] theorem hbmWrite_ownerBoot (s : State) (a : Nat) (bs : List Byte) : (hbmWrite s a bs).ownerBoot = s.ownerBoot := rfl
@[simp] theorem hbmWrite_ideNoted (s : State) (a : Nat) (bs : List Byte) : (hbmWrite s a bs).ideNoted = s.ideNoted := rfl
@[simp] theorem hbmWrite_spdm (s : State) (a : Nat) (bs : List Byte) : (hbmWrite s a bs).spdm = s.spdm := rfl
@[simp] theorem hbmWrite_spdmOut (s : State) (a : Nat) (bs : List Byte) : (hbmWrite s a bs).spdmOut = s.spdmOut := rfl
@[simp] theorem hbmWrite_aliasKey (s : State) (a : Nat) (bs : List Byte) : (hbmWrite s a bs).aliasKey = s.aliasKey := rfl
@[simp] theorem hbmWrite_aliasCert (s : State) (a : Nat) (bs : List Byte) : (hbmWrite s a bs).aliasCert = s.aliasCert := rfl
@[simp] theorem hbmWrite_ideStreams (s : State) (a : Nat) (bs : List Byte) : (hbmWrite s a bs).ideStreams = s.ideStreams := rfl
@[simp] theorem hbmWrite_secRun (s : State) (a : Nat) (bs : List Byte) : (hbmWrite s a bs).secRun = s.secRun := rfl
@[simp] theorem hbmWrite_measures (s : State) (a : Nat) (bs : List Byte) : (hbmWrite s a bs).measures = s.measures := rfl
@[simp] theorem hbmWrite_measured (s : State) (a : Nat) (bs : List Byte) : (hbmWrite s a bs).measured = s.measured := rfl
@[simp] theorem hbmWrite_watch (s : State) (a : Nat) (bs : List Byte) : (hbmWrite s a bs).watch = s.watch := rfl
@[simp] theorem hbmWrite_staging (s : State) (a : Nat) (bs : List Byte) : (hbmWrite s a bs).staging = s.staging := rfl
@[simp] theorem hbmWrite_drives (s : State) (a : Nat) (bs : List Byte) : (hbmWrite s a bs).drives = s.drives := rfl
@[simp] theorem hbmWrite_epochWait (s : State) (a : Nat) (bs : List Byte) : (hbmWrite s a bs).epochWait = s.epochWait := rfl
@[simp] theorem hbmWrite_compacting (s : State) (a : Nat) (bs : List Byte) : (hbmWrite s a bs).compacting = s.compacting := rfl
@[simp] theorem hbmWrite_lastEngine (s : State) (a : Nat) (bs : List Byte) : (hbmWrite s a bs).lastEngine = s.lastEngine := rfl
@[simp] theorem hbmWrite_inputs (s : State) (a : Nat) (bs : List Byte) : (hbmWrite s a bs).inputs = s.inputs := rfl
@[simp] theorem hbmWrite_ilogs (s : State) (a : Nat) (bs : List Byte) : (hbmWrite s a bs).ilogs = s.ilogs := rfl
@[simp] theorem hbmWrite_plans (s : State) (a : Nat) (bs : List Byte) : (hbmWrite s a bs).plans = s.plans := rfl
@[simp] theorem hbmWrite_certs (s : State) (a : Nat) (bs : List Byte) : (hbmWrite s a bs).certs = s.certs := rfl
@[simp] theorem hbmWrite_seedFrom (s : State) (a : Nat) (bs : List Byte) : (hbmWrite s a bs).seedFrom = s.seedFrom := rfl
@[simp] theorem hbmWrite_logTail (s : State) (a : Nat) (bs : List Byte) : (hbmWrite s a bs).logTail = s.logTail := rfl
@[simp] theorem hbmWrite_mirBatches (s : State) (a : Nat) (bs : List Byte) : (hbmWrite s a bs).mirBatches = s.mirBatches := rfl
@[simp] theorem hbmWrite_safeKind (s : State) (a : Nat) (bs : List Byte) : (hbmWrite s a bs).safeKind = s.safeKind := rfl
@[simp] theorem hbmWrite_mseOff (s : State) (a : Nat) (bs : List Byte) : (hbmWrite s a bs).mseOff = s.mseOff := rfl
@[simp] theorem hbmWrite_bar4Noted (s : State) (a : Nat) (bs : List Byte) : (hbmWrite s a bs).bar4Noted = s.bar4Noted := rfl
@[simp] theorem hbmWrite_fabBad (s : State) (a : Nat) (bs : List Byte) : (hbmWrite s a bs).fabBad = s.fabBad := rfl
@[simp] theorem hbmWrite_trainFails (s : State) (a : Nat) (bs : List Byte) : (hbmWrite s a bs).trainFails = s.trainFails := rfl
@[simp] theorem hbmWrite_vset (s : State) (a : Nat) (bs : List Byte) : (hbmWrite s a bs).vset = s.vset := rfl
@[simp] theorem hbmWrite_thermBy (s : State) (a : Nat) (bs : List Byte) : (hbmWrite s a bs).thermBy = s.thermBy := rfl
@[simp] theorem hbmWrite_thermCool (s : State) (a : Nat) (bs : List Byte) : (hbmWrite s a bs).thermCool = s.thermCool := rfl
@[simp] theorem hbmWrite_tempOver (s : State) (a : Nat) (bs : List Byte) : (hbmWrite s a bs).tempOver = s.tempOver := rfl
@[simp] theorem hbmWrite_capLow (s : State) (a : Nat) (bs : List Byte) : (hbmWrite s a bs).capLow = s.capLow := rfl
@[simp] theorem hbmWrite_capHigh (s : State) (a : Nat) (bs : List Byte) : (hbmWrite s a bs).capHigh = s.capHigh := rfl
@[simp] theorem hbmWrite_curLim (s : State) (a : Nat) (bs : List Byte) : (hbmWrite s a bs).curLim = s.curLim := rfl
@[simp] theorem hbmWrite_avsFails (s : State) (a : Nat) (bs : List Byte) : (hbmWrite s a bs).avsFails = s.avsFails := rfl
@[simp] theorem hbmWrite_rails (s : State) (a : Nat) (bs : List Byte) : (hbmWrite s a bs).rails = s.rails := rfl
@[simp] theorem hbmWrite_avsDown (s : State) (a : Nat) (bs : List Byte) : (hbmWrite s a bs).avsDown = s.avsDown := rfl
@[simp] theorem hbmWrite_vao (s : State) (a : Nat) (bs : List Byte) : (hbmWrite s a bs).vao = s.vao := rfl
@[simp] theorem hbmWrite_pwrEn (s : State) (a : Nat) (bs : List Byte) : (hbmWrite s a bs).pwrEn = s.pwrEn := rfl
@[simp] theorem hbmWrite_hqueues (s : State) (a : Nat) (bs : List Byte) : (hbmWrite s a bs).hqueues = s.hqueues := rfl
@[simp] theorem hbmWrite_qLast (s : State) (a : Nat) (bs : List Byte) : (hbmWrite s a bs).qLast = s.qLast := rfl
@[simp] theorem hbmWrite_subsys (s : State) (a : Nat) (bs : List Byte) : (hbmWrite s a bs).subsys = s.subsys := rfl
@[simp] theorem hbmWrite_mfgTest (s : State) (a : Nat) (bs : List Byte) : (hbmWrite s a bs).mfgTest = s.mfgTest := rfl
@[simp] theorem hbmWrite_flash (s : State) (a : Nat) (bs : List Byte) : (hbmWrite s a bs).flash = s.flash := rfl
@[simp] theorem hbmWrite_flashBad (s : State) (a : Nat) (bs : List Byte) : (hbmWrite s a bs).flashBad = s.flashBad := rfl
@[simp] theorem hbmWrite_tapIr (s : State) (a : Nat) (bs : List Byte) : (hbmWrite s a bs).tapIr = s.tapIr := rfl
@[simp] theorem hbmWrite_tapBypass (s : State) (a : Nat) (bs : List Byte) : (hbmWrite s a bs).tapBypass = s.tapBypass := rfl
@[simp] theorem hbmWrite_bscan (s : State) (a : Nat) (bs : List Byte) : (hbmWrite s a bs).bscan = s.bscan := rfl
@[simp] theorem hbmWrite_bscanDrive (s : State) (a : Nat) (bs : List Byte) : (hbmWrite s a bs).bscanDrive = s.bscanDrive := rfl
@[simp] theorem hbmWrite_tapAddr (s : State) (a : Nat) (bs : List Byte) : (hbmWrite s a bs).tapAddr = s.tapAddr := rfl
@[simp] theorem hbmWrite_tapData (s : State) (a : Nat) (bs : List Byte) : (hbmWrite s a bs).tapData = s.tapData := rfl
@[simp] theorem hbmWrite_tapErr (s : State) (a : Nat) (bs : List Byte) : (hbmWrite s a bs).tapErr = s.tapErr := rfl
@[simp] theorem hbmWrite_tapResult (s : State) (a : Nat) (bs : List Byte) : (hbmWrite s a bs).tapResult = s.tapResult := rfl
@[simp] theorem hbmWrite_tapOut (s : State) (a : Nat) (bs : List Byte) : (hbmWrite s a bs).tapOut = s.tapOut := rfl
@[simp] theorem hbmWrite_readOut (s : State) (a : Nat) (bs : List Byte) : (hbmWrite s a bs).readOut = s.readOut := rfl
@[simp] theorem hbmWrite_hostOut (s : State) (a : Nat) (bs : List Byte) : (hbmWrite s a bs).hostOut = s.hostOut := rfl
@[simp] theorem hbmWrite_hostReads (s : State) (a : Nat) (bs : List Byte) : (hbmWrite s a bs).hostReads = s.hostReads := rfl
@[simp] theorem hbmWrite_msix (s : State) (a : Nat) (bs : List Byte) : (hbmWrite s a bs).msix = s.msix := rfl
@[simp] theorem hbmWrite_msixPend (s : State) (a : Nat) (bs : List Byte) : (hbmWrite s a bs).msixPend = s.msixPend := rfl
@[simp] theorem hbmWrite_irqs (s : State) (a : Nat) (bs : List Byte) : (hbmWrite s a bs).irqs = s.irqs := rfl

@[simp] theorem tickFree_pending (s : State) : (tickFree s).pending = s.pending := rfl
@[simp] theorem tickFree_regs (s : State) : (tickFree s).regs = s.regs := rfl
@[simp] theorem tickFree_sram (s : State) : (tickFree s).sram = s.sram := rfl
@[simp] theorem tickFree_hbm (s : State) : (tickFree s).hbm = s.hbm := rfl
@[simp] theorem tickFree_hbmGen (s : State) : (tickFree s).hbmGen = s.hbmGen := rfl
@[simp] theorem tickFree_mode (s : State) : (tickFree s).mode = s.mode := rfl
@[simp] theorem tickFree_safe (s : State) : (tickFree s).safe = s.safe := rfl
@[simp] theorem tickFree_fusedTiles (s : State) : (tickFree s).fusedTiles = s.fusedTiles := rfl
@[simp] theorem tickFree_fusesRead (s : State) : (tickFree s).fusesRead = s.fusesRead := rfl
@[simp] theorem tickFree_retiredTiles (s : State) : (tickFree s).retiredTiles = s.retiredTiles := rfl
@[simp] theorem tickFree_retiredEngines (s : State) : (tickFree s).retiredEngines = s.retiredEngines := rfl
@[simp] theorem tickFree_tiles (s : State) : (tickFree s).tiles = s.tiles := rfl
@[simp] theorem tickFree_tgRun (s : State) : (tickFree s).tgRun = s.tgRun := rfl
@[simp] theorem tickFree_tgStop (s : State) : (tickFree s).tgStop = s.tgStop := rfl
@[simp] theorem tickFree_incDropped (s : State) : (tickFree s).incDropped = s.incDropped := rfl
@[simp] theorem tickFree_holdLater (s : State) : (tickFree s).holdLater = s.holdLater := rfl
@[simp] theorem tickFree_heldRx (s : State) : (tickFree s).heldRx = s.heldRx := rfl
@[simp] theorem tickFree_heldForF2 (s : State) : (tickFree s).heldForF2 = s.heldForF2 := rfl
@[simp] theorem tickFree_dieDecided (s : State) : (tickFree s).dieDecided = s.dieDecided := rfl
@[simp] theorem tickFree_incs (s : State) : (tickFree s).incs = s.incs := rfl
@[simp] theorem tickFree_incWait (s : State) : (tickFree s).incWait = s.incWait := rfl
@[simp] theorem tickFree_faultQ (s : State) : (tickFree s).faultQ = s.faultQ := rfl
@[simp] theorem tickFree_recs (s : State) : (tickFree s).recs = s.recs := rfl
@[simp] theorem tickFree_seq (s : State) : (tickFree s).seq = s.seq := rfl
@[simp] theorem tickFree_scopes (s : State) : (tickFree s).scopes = s.scopes := rfl
@[simp] theorem tickFree_lostRecs (s : State) : (tickFree s).lostRecs = s.lostRecs := rfl
@[simp] theorem tickFree_secondF2 (s : State) : (tickFree s).secondF2 = s.secondF2 := rfl
@[simp] theorem tickFree_ringPhase (s : State) : (tickFree s).ringPhase = s.ringPhase := rfl
@[simp] theorem tickFree_ringWaits (s : State) : (tickFree s).ringWaits = s.ringWaits := rfl
@[simp] theorem tickFree_safeMirrored (s : State) : (tickFree s).safeMirrored = s.safeMirrored := rfl
@[simp] theorem tickFree_store (s : State) : (tickFree s).store = s.store := rfl
@[simp] theorem tickFree_storeGen (s : State) : (tickFree s).storeGen = s.storeGen := rfl
@[simp] theorem tickFree_csWants (s : State) : (tickFree s).csWants = s.csWants := rfl
@[simp] theorem tickFree_bank0 (s : State) : (tickFree s).bank0 = s.bank0 := rfl
@[simp] theorem tickFree_bank1 (s : State) : (tickFree s).bank1 = s.bank1 := rfl
@[simp] theorem tickFree_compactAt (s : State) : (tickFree s).compactAt = s.compactAt := rfl
@[simp] theorem tickFree_lapsed (s : State) : (tickFree s).lapsed = s.lapsed := rfl
@[simp] theorem tickFree_reports (s : State) : (tickFree s).reports = s.reports := rfl
@[simp] theorem tickFree_reported (s : State) : (tickFree s).reported = s.reported := rfl
@[simp] theorem tickFree_ptmLog (s : State) : (tickFree s).ptmLog = s.ptmLog := rfl
@[simp] theorem tickFree_sdRecs (s : State) : (tickFree s).sdRecs = s.sdRecs := rfl
@[simp] theorem tickFree_sdParts (s : State) : (tickFree s).sdParts = s.sdParts := rfl
@[simp] theorem tickFree_sdSkip (s : State) : (tickFree s).sdSkip = s.sdSkip := rfl
@[simp] theorem tickFree_sdSent (s : State) : (tickFree s).sdSent = s.sdSent := rfl
@[simp] theorem tickFree_firing (s : State) : (tickFree s).firing = s.firing := rfl
@[simp] theorem tickFree_msgSeq (s : State) : (tickFree s).msgSeq = s.msgSeq := rfl
@[simp] theorem tickFree_looks (s : State) : (tickFree s).looks = s.looks := rfl
@[simp] theorem tickFree_ownRuns (s : State) : (tickFree s).ownRuns = s.ownRuns := rfl
@[simp] theorem tickFree_waitReqs (s : State) : (tickFree s).waitReqs = s.waitReqs := rfl
@[simp] theorem tickFree_fetches (s : State) : (tickFree s).fetches = s.fetches := rfl
@[simp] theorem tickFree_hotBooks (s : State) : (tickFree s).hotBooks = s.hotBooks := rfl
@[simp] theorem tickFree_redirects (s : State) : (tickFree s).redirects = s.redirects := rfl
@[simp] theorem tickFree_held (s : State) : (tickFree s).held = s.held := rfl
@[simp] theorem tickFree_fwdOuts (s : State) : (tickFree s).fwdOuts = s.fwdOuts := rfl
@[simp] theorem tickFree_rowLocks (s : State) : (tickFree s).rowLocks = s.rowLocks := rfl
@[simp] theorem tickFree_verHolds (s : State) : (tickFree s).verHolds = s.verHolds := rfl
@[simp] theorem tickFree_stepped (s : State) : (tickFree s).stepped = s.stepped := rfl
@[simp] theorem tickFree_stackReqs (s : State) : (tickFree s).stackReqs = s.stackReqs := rfl
@[simp] theorem tickFree_poison (s : State) : (tickFree s).poison = s.poison := rfl
@[simp] theorem tickFree_applying (s : State) : (tickFree s).applying = s.applying := rfl
@[simp] theorem tickFree_batches (s : State) : (tickFree s).batches = s.batches := rfl
@[simp] theorem tickFree_coeffPast (s : State) : (tickFree s).coeffPast = s.coeffPast := rfl
@[simp] theorem tickFree_shardCnt (s : State) : (tickFree s).shardCnt = s.shardCnt := rfl
@[simp] theorem tickFree_clove (s : State) : (tickFree s).clove = s.clove := rfl
@[simp] theorem tickFree_cloveSeq (s : State) : (tickFree s).cloveSeq = s.cloveSeq := rfl
@[simp] theorem tickFree_cloveWait (s : State) : (tickFree s).cloveWait = s.cloveWait := rfl
@[simp] theorem tickFree_norms (s : State) : (tickFree s).norms = s.norms := rfl
@[simp] theorem tickFree_clips (s : State) : (tickFree s).clips = s.clips := rfl
@[simp] theorem tickFree_d3hot (s : State) : (tickFree s).d3hot = s.d3hot := rfl
@[simp] theorem tickFree_outbox (s : State) : (tickFree s).outbox = s.outbox := rfl
@[simp] theorem tickFree_wire (s : State) : (tickFree s).wire = s.wire := rfl
@[simp] theorem tickFree_sess (s : State) : (tickFree s).sess = s.sess := rfl
@[simp] theorem tickFree_fabWait (s : State) : (tickFree s).fabWait = s.fabWait := rfl
@[simp] theorem tickFree_rebound (s : State) : (tickFree s).rebound = s.rebound := rfl
@[simp] theorem tickFree_colls (s : State) : (tickFree s).colls = s.colls := rfl
@[simp] theorem tickFree_jobs (s : State) : (tickFree s).jobs = s.jobs := rfl
@[simp] theorem tickFree_certCache (s : State) : (tickFree s).certCache = s.certCache := rfl
@[simp] theorem tickFree_hbmKeys (s : State) : (tickFree s).hbmKeys = s.hbmKeys := rfl
@[simp] theorem tickFree_dbgChal (s : State) : (tickFree s).dbgChal = s.dbgChal := rfl
@[simp] theorem tickFree_ownerKey (s : State) : (tickFree s).ownerKey = s.ownerKey := rfl
@[simp] theorem tickFree_ownerBoot (s : State) : (tickFree s).ownerBoot = s.ownerBoot := rfl
@[simp] theorem tickFree_ideNoted (s : State) : (tickFree s).ideNoted = s.ideNoted := rfl
@[simp] theorem tickFree_spdm (s : State) : (tickFree s).spdm = s.spdm := rfl
@[simp] theorem tickFree_spdmOut (s : State) : (tickFree s).spdmOut = s.spdmOut := rfl
@[simp] theorem tickFree_aliasKey (s : State) : (tickFree s).aliasKey = s.aliasKey := rfl
@[simp] theorem tickFree_aliasCert (s : State) : (tickFree s).aliasCert = s.aliasCert := rfl
@[simp] theorem tickFree_ideStreams (s : State) : (tickFree s).ideStreams = s.ideStreams := rfl
@[simp] theorem tickFree_secRun (s : State) : (tickFree s).secRun = s.secRun := rfl
@[simp] theorem tickFree_measures (s : State) : (tickFree s).measures = s.measures := rfl
@[simp] theorem tickFree_measured (s : State) : (tickFree s).measured = s.measured := rfl
@[simp] theorem tickFree_watch (s : State) : (tickFree s).watch = s.watch := rfl
@[simp] theorem tickFree_staging (s : State) : (tickFree s).staging = s.staging := rfl
@[simp] theorem tickFree_drives (s : State) : (tickFree s).drives = s.drives := rfl
@[simp] theorem tickFree_epochWait (s : State) : (tickFree s).epochWait = s.epochWait := rfl
@[simp] theorem tickFree_compacting (s : State) : (tickFree s).compacting = s.compacting := rfl
@[simp] theorem tickFree_lastEngine (s : State) : (tickFree s).lastEngine = s.lastEngine := rfl
@[simp] theorem tickFree_inputs (s : State) : (tickFree s).inputs = s.inputs := rfl
@[simp] theorem tickFree_ilogs (s : State) : (tickFree s).ilogs = s.ilogs := rfl
@[simp] theorem tickFree_plans (s : State) : (tickFree s).plans = s.plans := rfl
@[simp] theorem tickFree_certs (s : State) : (tickFree s).certs = s.certs := rfl
@[simp] theorem tickFree_seedFrom (s : State) : (tickFree s).seedFrom = s.seedFrom := rfl
@[simp] theorem tickFree_logTail (s : State) : (tickFree s).logTail = s.logTail := rfl
@[simp] theorem tickFree_mirBatches (s : State) : (tickFree s).mirBatches = s.mirBatches := rfl
@[simp] theorem tickFree_safeKind (s : State) : (tickFree s).safeKind = s.safeKind := rfl
@[simp] theorem tickFree_mseOff (s : State) : (tickFree s).mseOff = s.mseOff := rfl
@[simp] theorem tickFree_bar4Noted (s : State) : (tickFree s).bar4Noted = s.bar4Noted := rfl
@[simp] theorem tickFree_fabBad (s : State) : (tickFree s).fabBad = s.fabBad := rfl
@[simp] theorem tickFree_trainFails (s : State) : (tickFree s).trainFails = s.trainFails := rfl
@[simp] theorem tickFree_vset (s : State) : (tickFree s).vset = s.vset := rfl
@[simp] theorem tickFree_thermBy (s : State) : (tickFree s).thermBy = s.thermBy := rfl
@[simp] theorem tickFree_thermCool (s : State) : (tickFree s).thermCool = s.thermCool := rfl
@[simp] theorem tickFree_tempOver (s : State) : (tickFree s).tempOver = s.tempOver := rfl
@[simp] theorem tickFree_capLow (s : State) : (tickFree s).capLow = s.capLow := rfl
@[simp] theorem tickFree_capHigh (s : State) : (tickFree s).capHigh = s.capHigh := rfl
@[simp] theorem tickFree_curLim (s : State) : (tickFree s).curLim = s.curLim := rfl
@[simp] theorem tickFree_avsFails (s : State) : (tickFree s).avsFails = s.avsFails := rfl
@[simp] theorem tickFree_rails (s : State) : (tickFree s).rails = s.rails := rfl
@[simp] theorem tickFree_avsDown (s : State) : (tickFree s).avsDown = s.avsDown := rfl
@[simp] theorem tickFree_vao (s : State) : (tickFree s).vao = s.vao := rfl
@[simp] theorem tickFree_pwrEn (s : State) : (tickFree s).pwrEn = s.pwrEn := rfl
@[simp] theorem tickFree_hqueues (s : State) : (tickFree s).hqueues = s.hqueues := rfl
@[simp] theorem tickFree_qLast (s : State) : (tickFree s).qLast = s.qLast := rfl
@[simp] theorem tickFree_subsys (s : State) : (tickFree s).subsys = s.subsys := rfl
@[simp] theorem tickFree_mfgTest (s : State) : (tickFree s).mfgTest = s.mfgTest := rfl
@[simp] theorem tickFree_flash (s : State) : (tickFree s).flash = s.flash := rfl
@[simp] theorem tickFree_flashBad (s : State) : (tickFree s).flashBad = s.flashBad := rfl
@[simp] theorem tickFree_tapIr (s : State) : (tickFree s).tapIr = s.tapIr := rfl
@[simp] theorem tickFree_tapBypass (s : State) : (tickFree s).tapBypass = s.tapBypass := rfl
@[simp] theorem tickFree_bscan (s : State) : (tickFree s).bscan = s.bscan := rfl
@[simp] theorem tickFree_bscanDrive (s : State) : (tickFree s).bscanDrive = s.bscanDrive := rfl
@[simp] theorem tickFree_tapAddr (s : State) : (tickFree s).tapAddr = s.tapAddr := rfl
@[simp] theorem tickFree_tapData (s : State) : (tickFree s).tapData = s.tapData := rfl
@[simp] theorem tickFree_tapErr (s : State) : (tickFree s).tapErr = s.tapErr := rfl
@[simp] theorem tickFree_tapResult (s : State) : (tickFree s).tapResult = s.tapResult := rfl
@[simp] theorem tickFree_tapOut (s : State) : (tickFree s).tapOut = s.tapOut := rfl
@[simp] theorem tickFree_readOut (s : State) : (tickFree s).readOut = s.readOut := rfl
@[simp] theorem tickFree_hostOut (s : State) : (tickFree s).hostOut = s.hostOut := rfl
@[simp] theorem tickFree_hostReads (s : State) : (tickFree s).hostReads = s.hostReads := rfl
@[simp] theorem tickFree_msix (s : State) : (tickFree s).msix = s.msix := rfl
@[simp] theorem tickFree_msixPend (s : State) : (tickFree s).msixPend = s.msixPend := rfl
@[simp] theorem tickFree_irqs (s : State) : (tickFree s).irqs = s.irqs := rfl

@[simp] theorem sendFault_pending (s : State) (m : FaultMsg) : (sendFault s m).pending = s.pending := rfl
@[simp] theorem sendFault_regs (s : State) (m : FaultMsg) : (sendFault s m).regs = s.regs := rfl
@[simp] theorem sendFault_sram (s : State) (m : FaultMsg) : (sendFault s m).sram = s.sram := rfl
@[simp] theorem sendFault_hbm (s : State) (m : FaultMsg) : (sendFault s m).hbm = s.hbm := rfl
@[simp] theorem sendFault_hbmGen (s : State) (m : FaultMsg) : (sendFault s m).hbmGen = s.hbmGen := rfl
@[simp] theorem sendFault_freeCtr (s : State) (m : FaultMsg) : (sendFault s m).freeCtr = s.freeCtr := rfl
@[simp] theorem sendFault_mode (s : State) (m : FaultMsg) : (sendFault s m).mode = s.mode := rfl
@[simp] theorem sendFault_safe (s : State) (m : FaultMsg) : (sendFault s m).safe = s.safe := rfl
@[simp] theorem sendFault_fusedTiles (s : State) (m : FaultMsg) : (sendFault s m).fusedTiles = s.fusedTiles := rfl
@[simp] theorem sendFault_fusesRead (s : State) (m : FaultMsg) : (sendFault s m).fusesRead = s.fusesRead := rfl
@[simp] theorem sendFault_retiredTiles (s : State) (m : FaultMsg) : (sendFault s m).retiredTiles = s.retiredTiles := rfl
@[simp] theorem sendFault_retiredEngines (s : State) (m : FaultMsg) : (sendFault s m).retiredEngines = s.retiredEngines := rfl
@[simp] theorem sendFault_tiles (s : State) (m : FaultMsg) : (sendFault s m).tiles = s.tiles := rfl
@[simp] theorem sendFault_tgRun (s : State) (m : FaultMsg) : (sendFault s m).tgRun = s.tgRun := rfl
@[simp] theorem sendFault_tgStop (s : State) (m : FaultMsg) : (sendFault s m).tgStop = s.tgStop := rfl
@[simp] theorem sendFault_incDropped (s : State) (m : FaultMsg) : (sendFault s m).incDropped = s.incDropped := rfl
@[simp] theorem sendFault_holdLater (s : State) (m : FaultMsg) : (sendFault s m).holdLater = s.holdLater := rfl
@[simp] theorem sendFault_heldRx (s : State) (m : FaultMsg) : (sendFault s m).heldRx = s.heldRx := rfl
@[simp] theorem sendFault_heldForF2 (s : State) (m : FaultMsg) : (sendFault s m).heldForF2 = s.heldForF2 := rfl
@[simp] theorem sendFault_dieDecided (s : State) (m : FaultMsg) : (sendFault s m).dieDecided = s.dieDecided := rfl
@[simp] theorem sendFault_incs (s : State) (m : FaultMsg) : (sendFault s m).incs = s.incs := rfl
@[simp] theorem sendFault_incWait (s : State) (m : FaultMsg) : (sendFault s m).incWait = s.incWait := rfl
@[simp] theorem sendFault_recs (s : State) (m : FaultMsg) : (sendFault s m).recs = s.recs := rfl
@[simp] theorem sendFault_seq (s : State) (m : FaultMsg) : (sendFault s m).seq = s.seq := rfl
@[simp] theorem sendFault_scopes (s : State) (m : FaultMsg) : (sendFault s m).scopes = s.scopes := rfl
@[simp] theorem sendFault_lostRecs (s : State) (m : FaultMsg) : (sendFault s m).lostRecs = s.lostRecs := rfl
@[simp] theorem sendFault_secondF2 (s : State) (m : FaultMsg) : (sendFault s m).secondF2 = s.secondF2 := rfl
@[simp] theorem sendFault_ringPhase (s : State) (m : FaultMsg) : (sendFault s m).ringPhase = s.ringPhase := rfl
@[simp] theorem sendFault_ringWaits (s : State) (m : FaultMsg) : (sendFault s m).ringWaits = s.ringWaits := rfl
@[simp] theorem sendFault_safeMirrored (s : State) (m : FaultMsg) : (sendFault s m).safeMirrored = s.safeMirrored := rfl
@[simp] theorem sendFault_store (s : State) (m : FaultMsg) : (sendFault s m).store = s.store := rfl
@[simp] theorem sendFault_storeGen (s : State) (m : FaultMsg) : (sendFault s m).storeGen = s.storeGen := rfl
@[simp] theorem sendFault_csWants (s : State) (m : FaultMsg) : (sendFault s m).csWants = s.csWants := rfl
@[simp] theorem sendFault_bank0 (s : State) (m : FaultMsg) : (sendFault s m).bank0 = s.bank0 := rfl
@[simp] theorem sendFault_bank1 (s : State) (m : FaultMsg) : (sendFault s m).bank1 = s.bank1 := rfl
@[simp] theorem sendFault_compactAt (s : State) (m : FaultMsg) : (sendFault s m).compactAt = s.compactAt := rfl
@[simp] theorem sendFault_lapsed (s : State) (m : FaultMsg) : (sendFault s m).lapsed = s.lapsed := rfl
@[simp] theorem sendFault_reports (s : State) (m : FaultMsg) : (sendFault s m).reports = s.reports := rfl
@[simp] theorem sendFault_reported (s : State) (m : FaultMsg) : (sendFault s m).reported = s.reported := rfl
@[simp] theorem sendFault_ptmLog (s : State) (m : FaultMsg) : (sendFault s m).ptmLog = s.ptmLog := rfl
@[simp] theorem sendFault_sdRecs (s : State) (m : FaultMsg) : (sendFault s m).sdRecs = s.sdRecs := rfl
@[simp] theorem sendFault_sdParts (s : State) (m : FaultMsg) : (sendFault s m).sdParts = s.sdParts := rfl
@[simp] theorem sendFault_sdSkip (s : State) (m : FaultMsg) : (sendFault s m).sdSkip = s.sdSkip := rfl
@[simp] theorem sendFault_sdSent (s : State) (m : FaultMsg) : (sendFault s m).sdSent = s.sdSent := rfl
@[simp] theorem sendFault_firing (s : State) (m : FaultMsg) : (sendFault s m).firing = s.firing := rfl
@[simp] theorem sendFault_msgSeq (s : State) (m : FaultMsg) : (sendFault s m).msgSeq = s.msgSeq := rfl
@[simp] theorem sendFault_looks (s : State) (m : FaultMsg) : (sendFault s m).looks = s.looks := rfl
@[simp] theorem sendFault_ownRuns (s : State) (m : FaultMsg) : (sendFault s m).ownRuns = s.ownRuns := rfl
@[simp] theorem sendFault_waitReqs (s : State) (m : FaultMsg) : (sendFault s m).waitReqs = s.waitReqs := rfl
@[simp] theorem sendFault_fetches (s : State) (m : FaultMsg) : (sendFault s m).fetches = s.fetches := rfl
@[simp] theorem sendFault_hotBooks (s : State) (m : FaultMsg) : (sendFault s m).hotBooks = s.hotBooks := rfl
@[simp] theorem sendFault_redirects (s : State) (m : FaultMsg) : (sendFault s m).redirects = s.redirects := rfl
@[simp] theorem sendFault_held (s : State) (m : FaultMsg) : (sendFault s m).held = s.held := rfl
@[simp] theorem sendFault_fwdOuts (s : State) (m : FaultMsg) : (sendFault s m).fwdOuts = s.fwdOuts := rfl
@[simp] theorem sendFault_rowLocks (s : State) (m : FaultMsg) : (sendFault s m).rowLocks = s.rowLocks := rfl
@[simp] theorem sendFault_verHolds (s : State) (m : FaultMsg) : (sendFault s m).verHolds = s.verHolds := rfl
@[simp] theorem sendFault_stepped (s : State) (m : FaultMsg) : (sendFault s m).stepped = s.stepped := rfl
@[simp] theorem sendFault_stackReqs (s : State) (m : FaultMsg) : (sendFault s m).stackReqs = s.stackReqs := rfl
@[simp] theorem sendFault_poison (s : State) (m : FaultMsg) : (sendFault s m).poison = s.poison := rfl
@[simp] theorem sendFault_applying (s : State) (m : FaultMsg) : (sendFault s m).applying = s.applying := rfl
@[simp] theorem sendFault_batches (s : State) (m : FaultMsg) : (sendFault s m).batches = s.batches := rfl
@[simp] theorem sendFault_coeffPast (s : State) (m : FaultMsg) : (sendFault s m).coeffPast = s.coeffPast := rfl
@[simp] theorem sendFault_shardCnt (s : State) (m : FaultMsg) : (sendFault s m).shardCnt = s.shardCnt := rfl
@[simp] theorem sendFault_clove (s : State) (m : FaultMsg) : (sendFault s m).clove = s.clove := rfl
@[simp] theorem sendFault_cloveSeq (s : State) (m : FaultMsg) : (sendFault s m).cloveSeq = s.cloveSeq := rfl
@[simp] theorem sendFault_cloveWait (s : State) (m : FaultMsg) : (sendFault s m).cloveWait = s.cloveWait := rfl
@[simp] theorem sendFault_norms (s : State) (m : FaultMsg) : (sendFault s m).norms = s.norms := rfl
@[simp] theorem sendFault_clips (s : State) (m : FaultMsg) : (sendFault s m).clips = s.clips := rfl
@[simp] theorem sendFault_d3hot (s : State) (m : FaultMsg) : (sendFault s m).d3hot = s.d3hot := rfl
@[simp] theorem sendFault_outbox (s : State) (m : FaultMsg) : (sendFault s m).outbox = s.outbox := rfl
@[simp] theorem sendFault_wire (s : State) (m : FaultMsg) : (sendFault s m).wire = s.wire := rfl
@[simp] theorem sendFault_sess (s : State) (m : FaultMsg) : (sendFault s m).sess = s.sess := rfl
@[simp] theorem sendFault_fabWait (s : State) (m : FaultMsg) : (sendFault s m).fabWait = s.fabWait := rfl
@[simp] theorem sendFault_rebound (s : State) (m : FaultMsg) : (sendFault s m).rebound = s.rebound := rfl
@[simp] theorem sendFault_colls (s : State) (m : FaultMsg) : (sendFault s m).colls = s.colls := rfl
@[simp] theorem sendFault_jobs (s : State) (m : FaultMsg) : (sendFault s m).jobs = s.jobs := rfl
@[simp] theorem sendFault_certCache (s : State) (m : FaultMsg) : (sendFault s m).certCache = s.certCache := rfl
@[simp] theorem sendFault_hbmKeys (s : State) (m : FaultMsg) : (sendFault s m).hbmKeys = s.hbmKeys := rfl
@[simp] theorem sendFault_dbgChal (s : State) (m : FaultMsg) : (sendFault s m).dbgChal = s.dbgChal := rfl
@[simp] theorem sendFault_ownerKey (s : State) (m : FaultMsg) : (sendFault s m).ownerKey = s.ownerKey := rfl
@[simp] theorem sendFault_ownerBoot (s : State) (m : FaultMsg) : (sendFault s m).ownerBoot = s.ownerBoot := rfl
@[simp] theorem sendFault_ideNoted (s : State) (m : FaultMsg) : (sendFault s m).ideNoted = s.ideNoted := rfl
@[simp] theorem sendFault_spdm (s : State) (m : FaultMsg) : (sendFault s m).spdm = s.spdm := rfl
@[simp] theorem sendFault_spdmOut (s : State) (m : FaultMsg) : (sendFault s m).spdmOut = s.spdmOut := rfl
@[simp] theorem sendFault_aliasKey (s : State) (m : FaultMsg) : (sendFault s m).aliasKey = s.aliasKey := rfl
@[simp] theorem sendFault_aliasCert (s : State) (m : FaultMsg) : (sendFault s m).aliasCert = s.aliasCert := rfl
@[simp] theorem sendFault_ideStreams (s : State) (m : FaultMsg) : (sendFault s m).ideStreams = s.ideStreams := rfl
@[simp] theorem sendFault_secRun (s : State) (m : FaultMsg) : (sendFault s m).secRun = s.secRun := rfl
@[simp] theorem sendFault_measures (s : State) (m : FaultMsg) : (sendFault s m).measures = s.measures := rfl
@[simp] theorem sendFault_measured (s : State) (m : FaultMsg) : (sendFault s m).measured = s.measured := rfl
@[simp] theorem sendFault_watch (s : State) (m : FaultMsg) : (sendFault s m).watch = s.watch := rfl
@[simp] theorem sendFault_staging (s : State) (m : FaultMsg) : (sendFault s m).staging = s.staging := rfl
@[simp] theorem sendFault_drives (s : State) (m : FaultMsg) : (sendFault s m).drives = s.drives := rfl
@[simp] theorem sendFault_epochWait (s : State) (m : FaultMsg) : (sendFault s m).epochWait = s.epochWait := rfl
@[simp] theorem sendFault_compacting (s : State) (m : FaultMsg) : (sendFault s m).compacting = s.compacting := rfl
@[simp] theorem sendFault_lastEngine (s : State) (m : FaultMsg) : (sendFault s m).lastEngine = s.lastEngine := rfl
@[simp] theorem sendFault_inputs (s : State) (m : FaultMsg) : (sendFault s m).inputs = s.inputs := rfl
@[simp] theorem sendFault_ilogs (s : State) (m : FaultMsg) : (sendFault s m).ilogs = s.ilogs := rfl
@[simp] theorem sendFault_plans (s : State) (m : FaultMsg) : (sendFault s m).plans = s.plans := rfl
@[simp] theorem sendFault_certs (s : State) (m : FaultMsg) : (sendFault s m).certs = s.certs := rfl
@[simp] theorem sendFault_seedFrom (s : State) (m : FaultMsg) : (sendFault s m).seedFrom = s.seedFrom := rfl
@[simp] theorem sendFault_logTail (s : State) (m : FaultMsg) : (sendFault s m).logTail = s.logTail := rfl
@[simp] theorem sendFault_mirBatches (s : State) (m : FaultMsg) : (sendFault s m).mirBatches = s.mirBatches := rfl
@[simp] theorem sendFault_safeKind (s : State) (m : FaultMsg) : (sendFault s m).safeKind = s.safeKind := rfl
@[simp] theorem sendFault_mseOff (s : State) (m : FaultMsg) : (sendFault s m).mseOff = s.mseOff := rfl
@[simp] theorem sendFault_bar4Noted (s : State) (m : FaultMsg) : (sendFault s m).bar4Noted = s.bar4Noted := rfl
@[simp] theorem sendFault_fabBad (s : State) (m : FaultMsg) : (sendFault s m).fabBad = s.fabBad := rfl
@[simp] theorem sendFault_trainFails (s : State) (m : FaultMsg) : (sendFault s m).trainFails = s.trainFails := rfl
@[simp] theorem sendFault_vset (s : State) (m : FaultMsg) : (sendFault s m).vset = s.vset := rfl
@[simp] theorem sendFault_thermBy (s : State) (m : FaultMsg) : (sendFault s m).thermBy = s.thermBy := rfl
@[simp] theorem sendFault_thermCool (s : State) (m : FaultMsg) : (sendFault s m).thermCool = s.thermCool := rfl
@[simp] theorem sendFault_tempOver (s : State) (m : FaultMsg) : (sendFault s m).tempOver = s.tempOver := rfl
@[simp] theorem sendFault_capLow (s : State) (m : FaultMsg) : (sendFault s m).capLow = s.capLow := rfl
@[simp] theorem sendFault_capHigh (s : State) (m : FaultMsg) : (sendFault s m).capHigh = s.capHigh := rfl
@[simp] theorem sendFault_curLim (s : State) (m : FaultMsg) : (sendFault s m).curLim = s.curLim := rfl
@[simp] theorem sendFault_avsFails (s : State) (m : FaultMsg) : (sendFault s m).avsFails = s.avsFails := rfl
@[simp] theorem sendFault_rails (s : State) (m : FaultMsg) : (sendFault s m).rails = s.rails := rfl
@[simp] theorem sendFault_avsDown (s : State) (m : FaultMsg) : (sendFault s m).avsDown = s.avsDown := rfl
@[simp] theorem sendFault_vao (s : State) (m : FaultMsg) : (sendFault s m).vao = s.vao := rfl
@[simp] theorem sendFault_pwrEn (s : State) (m : FaultMsg) : (sendFault s m).pwrEn = s.pwrEn := rfl
@[simp] theorem sendFault_hqueues (s : State) (m : FaultMsg) : (sendFault s m).hqueues = s.hqueues := rfl
@[simp] theorem sendFault_qLast (s : State) (m : FaultMsg) : (sendFault s m).qLast = s.qLast := rfl
@[simp] theorem sendFault_subsys (s : State) (m : FaultMsg) : (sendFault s m).subsys = s.subsys := rfl
@[simp] theorem sendFault_mfgTest (s : State) (m : FaultMsg) : (sendFault s m).mfgTest = s.mfgTest := rfl
@[simp] theorem sendFault_flash (s : State) (m : FaultMsg) : (sendFault s m).flash = s.flash := rfl
@[simp] theorem sendFault_flashBad (s : State) (m : FaultMsg) : (sendFault s m).flashBad = s.flashBad := rfl
@[simp] theorem sendFault_tapIr (s : State) (m : FaultMsg) : (sendFault s m).tapIr = s.tapIr := rfl
@[simp] theorem sendFault_tapBypass (s : State) (m : FaultMsg) : (sendFault s m).tapBypass = s.tapBypass := rfl
@[simp] theorem sendFault_bscan (s : State) (m : FaultMsg) : (sendFault s m).bscan = s.bscan := rfl
@[simp] theorem sendFault_bscanDrive (s : State) (m : FaultMsg) : (sendFault s m).bscanDrive = s.bscanDrive := rfl
@[simp] theorem sendFault_tapAddr (s : State) (m : FaultMsg) : (sendFault s m).tapAddr = s.tapAddr := rfl
@[simp] theorem sendFault_tapData (s : State) (m : FaultMsg) : (sendFault s m).tapData = s.tapData := rfl
@[simp] theorem sendFault_tapErr (s : State) (m : FaultMsg) : (sendFault s m).tapErr = s.tapErr := rfl
@[simp] theorem sendFault_tapResult (s : State) (m : FaultMsg) : (sendFault s m).tapResult = s.tapResult := rfl
@[simp] theorem sendFault_tapOut (s : State) (m : FaultMsg) : (sendFault s m).tapOut = s.tapOut := rfl
@[simp] theorem sendFault_readOut (s : State) (m : FaultMsg) : (sendFault s m).readOut = s.readOut := rfl
@[simp] theorem sendFault_hostOut (s : State) (m : FaultMsg) : (sendFault s m).hostOut = s.hostOut := rfl
@[simp] theorem sendFault_hostReads (s : State) (m : FaultMsg) : (sendFault s m).hostReads = s.hostReads := rfl
@[simp] theorem sendFault_msix (s : State) (m : FaultMsg) : (sendFault s m).msix = s.msix := rfl
@[simp] theorem sendFault_msixPend (s : State) (m : FaultMsg) : (sendFault s m).msixPend = s.msixPend := rfl
@[simp] theorem sendFault_irqs (s : State) (m : FaultMsg) : (sendFault s m).irqs = s.irqs := rfl

@[simp] theorem wrb_eq (s : State) (p : Nat) (f : Reg) (b : Bool) (i j : Nat) : wrb s p f b i j = wr s p f b.toNat i j := rfl
@[simp] theorem wrSat_eq (s : State) (p : Nat) (f : Reg) (n i j : Nat) :
    wrSat s p f n i j = wr s p f (min (rd s p f i j + n) (2 ^ f.width - 1)) i j := rfl
@[simp] theorem wrAdd_eq (s : State) (p : Nat) (f : Reg) (n i j : Nat) : wrAdd s p f n i j = wr s p f (rd s p f i j + n) i j := rfl

@[simp] theorem rd_setTile (s : State) (t : Nat) (x : TileState) (p : Nat) (f : Reg) (i j : Nat) :
    rd (setTile s t x) p f i j = rd s p f i j := rfl
@[simp] theorem rd_sramWrite (s : State) (a : Nat) (bs : List Byte) (p : Nat) (f : Reg) (i j : Nat) :
    rd (sramWrite s a bs) p f i j = rd s p f i j := rfl
@[simp] theorem rd_hbmWrite (s : State) (a : Nat) (bs : List Byte) (p : Nat) (f : Reg) (i j : Nat) :
    rd (hbmWrite s a bs) p f i j = rd s p f i j := rfl
@[simp] theorem rd_tickFree (s : State) (p : Nat) (f : Reg) (i j : Nat) : rd (tickFree s) p f i j = rd s p f i j := rfl
@[simp] theorem rd_sendFault (s : State) (m : FaultMsg) (p : Nat) (f : Reg) (i j : Nat) : rd (sendFault s m) p f i j = rd s p f i j := rfl

@[simp] theorem tile_setTile_same (s : State) (t : Nat) (x : TileState) : tile (setTile s t x) t = x := mapGet_mapSet_same _ _ _ _
theorem tile_setTile_ne (s : State) {t u : Nat} (x : TileState) (h : t ≠ u) : tile (setTile s t x) u = tile s u := mapGet_mapSet_ne _ _ _ h
@[simp] theorem tile_wr (s : State) (p : Nat) (f : Reg) (v i j t : Nat) : tile (wr s p f v i j) t = tile s t := rfl

/-- A general register reads back what was written; g0 stays 0 (R166). -/
theorem getG_setG_same (s : State) (t : Nat) (r : BitVec 5) (v : Word) : getG (setG s t r v) t r = if r = 0 then 0 else v := by
  by_cases h : r = 0
  · unfold getG; rw [if_pos h, if_pos h]
  · unfold getG setG; rw [if_neg h, if_neg h, if_neg h, tile_setTile_same]; exact mapGet_mapSet_same _ _ _ _

theorem getG_setG_ne (s : State) (t : Nat) {r r' : BitVec 5} (v : Word) (h : r ≠ r') : getG (setG s t r v) t r' = getG s t r' := by
  by_cases h0 : r = 0
  · unfold setG; rw [if_pos h0]
  · by_cases h1 : r' = 0
    · unfold getG; rw [if_pos h1, if_pos h1]
    · have : r.toNat ≠ r'.toNat := fun e => h (BitVec.eq_of_toNat_eq e)
      unfold getG setG; rw [if_neg h1, if_neg h1, if_neg h0, tile_setTile_same]; exact mapGet_mapSet_ne _ _ _ this

end Sys2Proof.Machine
end

