-- ==== Sys2Proof/Laws/Core.lean ====
section
/-!
SUPPORT. What the shared operations of the control core do: a register result, moving on, a jump, a stop; and what a register write leaves.
-/

namespace Sys2Proof.Machine

/-- A register write leaves every other field. -/
theorem regsKept_wr (s : State) (p : Nat) (f : Reg) (v i j : Nat) : RegsKept s (wr s p f v i j) [fieldKey f p i j] := by
  intro d k hk
  simp only [List.mem_singleton] at hk
  simp only [wr]
  split
  · exact mapGet_mapErase_ne _ _ (Ne.symm hk)
  · exact mapGet_mapSet_ne _ _ _ (Ne.symm hk)

theorem RegsKept.refl (s : State) (ks : List Nat) : RegsKept s s ks := fun _ _ _ => rfl

theorem RegsKept.trans {s u v : State} {ks : List Nat} (h : RegsKept s u ks) (h' : RegsKept u v ks) : RegsKept s v ks :=
  fun d k hk => (h' d k hk).trans (h d k hk)

theorem RegsKept.mono {s u : State} {ks ls : List Nat} (h : RegsKept s u ks) (hs : ∀ k ∈ ks, k ∈ ls) : RegsKept s u ls :=
  fun d k hk => h d k (fun hin => hk (hs k hin))

/-- A register field outside the changed ones reads as before. -/
theorem RegsKept.rd {s u : State} {ks : List Nat} (h : RegsKept s u ks) (p : Nat) (f : Reg) (i j : Nat) (hk : fieldKey f p i j ∉ ks) :
    rd u p f i j = rd s p f i j := h _ _ hk

theorem fetchWord_setG (s : State) (t : Nat) (r : BitVec 5) (v : Word) (t' pc : Nat) : fetchWord (setG s t r v) t' pc = fetchWord s t' pc := by
  unfold setG; split <;> rfl

theorem pcOf_setG (s : State) (t : Nat) (r : BitVec 5) (v : Word) (t' : Nat) : pcOf (setG s t r v) t' = pcOf s t' := by
  unfold setG; split <;> rfl

/-- Writing a general register and PC is what CoreWrote says. -/
theorem coreWrote_setG (s : State) (t : Nat) (rd : BitVec 5) (v : Word) (pc : Nat) (hpc : pc < 16384) :
    CoreWrote s (wr (setG s t rd v) 4 R.TILE_STATUS_PC pc t) t rd v pc := by
  have hreg : (setG s t rd v).regs = s.regs := by unfold setG; split <;> rfl
  have hget : ∀ r, getG (wr (setG s t rd v) 4 R.TILE_STATUS_PC pc t) t r = getG (setG s t rd v) t r := fun _ => rfl
  refine ⟨?_, ?_, ?_, ?_, ?_, ?_, ?_⟩
  · unfold setG; split <;> rfl
  · intro d k hk
    rw [regsKept_wr _ _ _ _ _ _ d k hk, hreg]
  · intro t' h
    simp only [tile, wr_tiles]
    unfold setG; split
    · rfl
    · simp only [setTile]; exact mapGet_mapSet_ne _ _ _ (Ne.symm h)
  · simp only [tile, wr_tiles]
    unfold setG; split
    · rfl
    · simp only [setTile, mapGet_mapSet_same]; rfl
  · simp only [pcOf, rd_wr_same]; exact Nat.mod_eq_of_lt hpc
  · rw [hget]; exact getG_setG_same s t rd v
  · intro r hr
    rw [hget]
    unfold setG
    split
    · rfl
    · simp only [getG, tile, setTile, mapGet_mapSet_same]
      split
      · rfl
      · refine mapGet_mapSet_ne _ _ _ ?_
        intro h; exact hr (BitVec.eq_of_toNat_eq h.symm)

/-- In sequence with a defined opcode ahead, only PC changes. -/
theorem advance_flowsOn (s : State) (t : Nat) (h : FlowsOn s t) : advance s t = wr s 4 R.TILE_STATUS_PC (pcOf s t + 1) t := by
  have : ¬ pcOf s t = 16383 := by have := h.1; omega
  simp only [advance, this, if_false, enterPc]
  have : opcodeDefined (fetchWord (wr s 4 R.TILE_STATUS_PC (pcOf s t + 1) t) t (pcOf s t + 1) / 2 ^ 26) = true := h.2
  rw [if_pos this]

/-- A legal register result. -/
theorem coreResult_wrote (s : State) (t w : Nat) (rd : BitVec 5) (v : Word) (hc : coreAt s t w = true) (hf : FlowsOn s t) :
    CoreWrote s (coreResult s t w true rd v) t rd v (pcOf s t + 1) := by
  have h2 : FlowsOn (setG s t rd v) t := by
    constructor
    · rw [pcOf_setG]; exact hf.1
    · rw [pcOf_setG, fetchWord_setG]; exact hf.2
  simp only [coreResult, coreExec, hc, if_true]
  rw [advance_flowsOn _ _ h2, pcOf_setG]
  exact coreWrote_setG _ _ _ _ _ (by have := hf.1; omega)

/-- A jump to a legal target, with its link. -/
theorem jumpTo_wrote (s : State) (t : Nat) (r : BitVec 5) (v : Word) (x : Int) (h : MayEnter s t x) :
    CoreWrote s (jumpTo s t x (fun s => setG s t r v)) t r v x.toNat := by
  obtain ⟨h0, h1, h2⟩ := h
  simp only [jumpTo, h0, h1, true_and, if_true, enterPc]
  have : opcodeDefined (fetchWord (wr (setG s t r v) 4 R.TILE_STATUS_PC x.toNat t) t x.toNat / 2 ^ 26) = true := by
    rw [show fetchWord (wr (setG s t r v) 4 R.TILE_STATUS_PC x.toNat t) t x.toNat = fetchWord (setG s t r v) t x.toNat from rfl,
      fetchWord_setG]; exact h2
  simp only [this, if_true]
  exact coreWrote_setG _ _ _ _ _ (by omega)

/-- A stop by a fault of class F1. -/
theorem coreFault_stopped (s : State) (t : Nat) (k : Kind) (hk : k.cls = 1) (hc : k.code < 4096) : CoreStopped s (coreFault s t k) t k := by
  have hne : k.cls ≠ 2 := by omega
  have hne3 : k.cls ≠ 3 := by omega
  simp only [coreFault, raise, hne, hne3, if_false]
  refine ⟨rfl, ?_, ?_, ?_, ?_, ⟨_, rfl⟩⟩
  · intro d k' hk'
    simp only [List.mem_cons, List.not_mem_nil, or_false, not_or] at hk'
    simp only [sendFault_regs]
    rw [regsKept_wr _ _ _ _ _ _ d k' (by simp [hk'.2.2]), regsKept_wr _ _ _ _ _ _ d k' (by simp [hk'.2.1]),
      regsKept_wr _ _ _ _ _ _ d k' (by simp [hk'.1])]
  · rw [rd_sendFault, rd_wr_ne, rd_wr_ne, rd_wr_same]
    all_goals simp [fieldKey, R.TILE_STATUS_STATE, R.TILE_STATUS_HALT_CODE, R.TILE_STATUS_FAULT_KIND]
  · rw [rd_sendFault, rd_wr_ne, rd_wr_same]
    all_goals simp [fieldKey, R.TILE_STATUS_HALT_CODE, R.TILE_STATUS_FAULT_KIND]
  · rw [rd_sendFault, rd_wr_same]; exact Nat.mod_eq_of_lt hc

/-- The address of a load or store in the arithmetic of integers. -/
theorem add_sext16_toNat (a : Word) (imm : BitVec 16) : ((a.toNat + imm.toInt) % (2 ^ 64 : Int)).toNat = (a + sext16 imm).toNat := by
  simp only [sext16, BitVec.toNat_add]
  have h := BitVec.toNat_signExtend (x := imm) (v := 64)
  rw [BitVec.toInt_eq_msb_cond]
  have := imm.isLt; have := a.isLt
  rw [h]; simp only [BitVec.toNat_setWidth]
  cases hm : imm.msb <;> simp <;> omega

end Sys2Proof.Machine
end

