-- ==== Sys2Proof/Laws/Memory.lean ====
section
/-!
SUPPORT. Laws of the byte memories: a read after a write, the cells a write leaves alone, and that every memory operation keeps the
canonical form.
-/

namespace Sys2Proof.Machine

/-! ### One cell -/

theorem cellGet_cellSet_same (m : List Host.Cell) (a : Nat) (b : Byte) : cellGet (cellSet m a b) a = some b := by
  induction m with
  | nil => simp [cellSet, cellGet]
  | cons x m ih =>
    obtain ⟨k, w⟩ := x
    simp only [cellSet]
    split
    · simp [cellGet]
    · split
      · simp [cellGet]
      · rename_i h; simp [cellGet, Ne.symm h, ih]

theorem cellGet_cellSet_ne (m : List Host.Cell) {a c : Nat} (b : Byte) (h : a ≠ c) : cellGet (cellSet m a b) c = cellGet m c := by
  induction m with
  | nil => simp [cellSet, cellGet, h]
  | cons x m ih =>
    obtain ⟨k, w⟩ := x
    simp only [cellSet]
    split
    · simp [cellGet, h]
    · split
      · subst_vars; simp [cellGet, h]
      · simp [cellGet, ih]

theorem cellGet_cellErase_ne (m : List Host.Cell) {a c : Nat} (h : a ≠ c) : cellGet (cellErase m a) c = cellGet m c := by
  induction m with
  | nil => rfl
  | cons x m ih =>
    obtain ⟨k, w⟩ := x
    simp only [cellErase]
    split
    · subst_vars; simp [cellGet, h]
    · simp [cellGet, ih]

/-! ### The order of addresses -/

/-- Addresses rise from above a bound, as a proposition about the head. -/
theorem cellsRise_cons (l : Option Nat) (k : Nat) (c : Byte) (m : List Host.Cell) :
    cellsRise l ((k, c) :: m) = true ↔ (∀ x ∈ l, x < k) ∧ cellsRise (some k) m = true := by
  cases l <;> simp [cellsRise]

theorem cellsRise_mono {l l' : Option Nat} {m : List Host.Cell} (h : ∀ x ∈ l', ∃ y ∈ l, x ≤ y) (hm : cellsRise l m = true) :
    cellsRise l' m = true := by
  cases m with
  | nil => simp [cellsRise]
  | cons x m =>
    obtain ⟨k, c⟩ := x
    rw [cellsRise_cons] at hm ⊢
    refine ⟨fun x hx => ?_, hm.2⟩
    obtain ⟨y, hy, hxy⟩ := h x hx
    exact lt_of_le_of_lt hxy (hm.1 y hy)

/-- No cell lies at or below the bound. -/
theorem cellGet_of_rise {l k : Nat} {m : List Host.Cell} (hm : cellsRise (some l) m = true) (h : k ≤ l) : cellGet m k = none := by
  induction m generalizing l with
  | nil => rfl
  | cons x m ih =>
    obtain ⟨a, c⟩ := x
    rw [cellsRise_cons] at hm
    have hla : l < a := hm.1 l rfl
    have : a ≠ k := by omega
    simp only [cellGet, this, if_false]
    exact ih hm.2 (by omega)

theorem cellsRise_cellSet (l : Option Nat) (m : List Host.Cell) (a : Nat) (b : Byte) (hl : ∀ x ∈ l, x < a) (hm : cellsRise l m = true) :
    cellsRise l (cellSet m a b) = true := by
  induction m generalizing l with
  | nil => rw [cellSet, cellsRise_cons]; exact ⟨hl, by simp [cellsRise]⟩
  | cons x m ih =>
    obtain ⟨k, c⟩ := x
    rw [cellsRise_cons] at hm
    simp only [cellSet]
    split
    · rename_i h
      rw [cellsRise_cons, cellsRise_cons]
      exact ⟨hl, fun x hx => by cases hx; exact h, hm.2⟩
    · split
      · rename_i h; subst h
        rw [cellsRise_cons]; exact ⟨hl, hm.2⟩
      · rename_i h1 h2
        rw [cellsRise_cons]
        exact ⟨hm.1, ih (some k) (fun x hx => by cases hx; omega) hm.2⟩

theorem cellsRise_cellErase (l : Option Nat) (m : List Host.Cell) (a : Nat) (hm : cellsRise l m = true) :
    cellsRise l (cellErase m a) = true := by
  induction m generalizing l with
  | nil => simp [cellErase, cellsRise]
  | cons x m ih =>
    obtain ⟨k, c⟩ := x
    rw [cellsRise_cons] at hm
    simp only [cellErase]
    split
    · exact cellsRise_mono (fun x hx => ⟨k, rfl, le_of_lt (hm.1 x hx)⟩) hm.2
    · rw [cellsRise_cons]; exact ⟨hm.1, ih (some k) hm.2⟩

theorem cellsRise_filter (l : Option Nat) (m : List Host.Cell) (f : Host.Cell → Bool) (hm : cellsRise l m = true) :
    cellsRise l (m.filter f) = true := by
  induction m generalizing l with
  | nil => simp [cellsRise]
  | cons x m ih =>
    obtain ⟨k, c⟩ := x
    rw [cellsRise_cons] at hm
    rw [List.filter_cons]
    split
    · rw [cellsRise_cons]; exact ⟨hm.1, ih (some k) hm.2⟩
    · exact ih l (cellsRise_mono (fun x hx => ⟨k, rfl, le_of_lt (hm.1 x hx)⟩) hm.2)

theorem all_cellSet (m : List Host.Cell) (a : Nat) (b : Byte) (f : Host.Cell → Bool) (hm : m.all f = true) (hb : f (a, b) = true) :
    (cellSet m a b).all f = true := by
  induction m with
  | nil => simp [cellSet, hb]
  | cons x m ih =>
    obtain ⟨k, c⟩ := x
    simp only [List.all_cons, Bool.and_eq_true] at hm
    simp only [cellSet]
    split
    · simp [hb, hm.1, hm.2]
    · split
      · simp [hb, hm.2]
      · simp [hm.1, ih hm.2]

theorem all_cellErase (m : List Host.Cell) (a : Nat) (f : Host.Cell → Bool) (hm : m.all f = true) : (cellErase m a).all f = true := by
  induction m with
  | nil => simp [cellErase]
  | cons x m ih =>
    obtain ⟨k, c⟩ := x
    simp only [List.all_cons, Bool.and_eq_true] at hm
    simp only [cellErase]
    split
    · exact hm.2
    · simp [hm.1, ih hm.2]

/-! ### Every memory operation keeps the canonical form -/

theorem wf_sramSetCell (m : List Host.Cell) (a : Nat) (b : Byte) (h : Memory.wf m = true) : Memory.wf (sramSetCell m a b) = true := by
  simp only [Memory.wf, Bool.and_eq_true] at h ⊢
  simp only [sramSetCell]
  split
  · exact ⟨cellsRise_cellErase _ _ _ h.1, all_cellErase _ _ _ h.2⟩
  · rename_i hb
    exact ⟨cellsRise_cellSet _ _ _ _ (by simp) h.1, all_cellSet _ _ _ _ h.2 (by simpa using hb)⟩

theorem wf_sramCells (bs : List Byte) (m : List Host.Cell) (a : Nat) (h : Memory.wf m = true) : Memory.wf (sramCells m a bs) = true := by
  induction bs generalizing m a with
  | nil => exact h
  | cons b bs ih => exact ih _ _ (wf_sramSetCell m a b h)

theorem wf_sramWrite (s : State) (a : Nat) (bs : List Byte) (h : Memory.wf s.sram = true) : Memory.wf (sramWrite s a bs).sram = true :=
  wf_sramCells bs _ _ h

theorem wf_sramSet (s : State) (a : Nat) (b : Byte) (h : Memory.wf s.sram = true) : Memory.wf (sramSet s a b).sram = true :=
  wf_sramSetCell _ _ _ h

theorem wf_sramForget (s : State) (a n : Nat) (h : Memory.wf s.sram = true) : Memory.wf (sramForget s a n).sram = true :=
  wf_sramWrite _ _ _ h

theorem wf_filter (m : List Host.Cell) (f : Host.Cell → Bool) (h : Memory.wf m = true) : Memory.wf (m.filter f) = true := by
  simp only [Memory.wf, Bool.and_eq_true] at h ⊢
  refine ⟨cellsRise_filter _ _ _ h.1, ?_⟩
  rw [List.all_eq_true] at h ⊢
  exact fun x hx => h.2 x (List.mem_of_mem_filter hx)

theorem wf_cellsDrop (m : List Host.Cell) (a n : Nat) (h : Memory.wf m = true) : Memory.wf (cellsDrop m a n) = true := wf_filter _ _ h

theorem wfHbm_hbmCells (bs : List Byte) (m : List Host.Cell) (a : Nat) (h : Memory.wfHbm m = true) : Memory.wfHbm (hbmCells m a bs) = true := by
  induction bs generalizing m a with
  | nil => exact h
  | cons b bs ih => exact ih _ _ (cellsRise_cellSet _ _ _ _ (by simp) h)

theorem wfHbm_hbmWrite (s : State) (a : Nat) (bs : List Byte) (h : Memory.wfHbm s.hbm = true) : Memory.wfHbm (hbmWrite s a bs).hbm = true :=
  wfHbm_hbmCells bs _ _ h

theorem wfHbm_filter (m : List Host.Cell) (f : Host.Cell → Bool) (h : Memory.wfHbm m = true) : Memory.wfHbm (m.filter f) = true :=
  cellsRise_filter _ _ _ h

theorem wfHbm_hbmForget (s : State) (a n : Nat) (h : Memory.wfHbm s.hbm = true) : Memory.wfHbm (hbmForget s a n).hbm = true :=
  wfHbm_filter _ _ h

theorem wf_reset : Memory.wf State.reset.sram = true ∧ Memory.wfHbm State.reset.hbm = true := by decide

/-! ### A read after a write -/

theorem cellGet_cellErase_same {l : Option Nat} {m : List Host.Cell} (a : Nat) (h : cellsRise l m = true) : cellGet (cellErase m a) a = none := by
  induction m generalizing l with
  | nil => rfl
  | cons x m ih =>
    obtain ⟨k, c⟩ := x
    rw [cellsRise_cons] at h
    simp only [cellErase]
    split
    · subst_vars; exact cellGet_of_rise h.2 (Nat.le_refl _)
    · rename_i hk; simp only [cellGet, Ne.symm hk, if_false]; exact ih h.2

theorem sramGet_sramSet_same (s : State) (a : Nat) (b : Byte) (h : Memory.wf s.sram = true) : sramGet (sramSet s a b) a = b := by
  simp only [Memory.wf, Bool.and_eq_true] at h
  simp only [sramGet, sramSet, sramSetCell]
  split
  · rename_i hb; rw [cellGet_cellErase_same a h.1, hb]; rfl
  · rw [cellGet_cellSet_same]; rfl

theorem cellGet_sramSetCell_ne (m : List Host.Cell) {a c : Nat} (b : Byte) (h : a ≠ c) : cellGet (sramSetCell m a b) c = cellGet m c := by
  simp only [sramSetCell]
  split
  · exact cellGet_cellErase_ne m h
  · exact cellGet_cellSet_ne m b h

/-- A write of bytes leaves every byte outside it alone. -/
theorem cellGet_sramCells_out (bs : List Byte) (m : List Host.Cell) (a c : Nat) (h : c < a ∨ a + bs.length ≤ c) :
    cellGet (sramCells m a bs) c = cellGet m c := by
  induction bs generalizing m a with
  | nil => rfl
  | cons b bs ih =>
    simp only [List.length_cons] at h
    rw [sramCells, ih _ _ (by omega), cellGet_sramSetCell_ne _ _ (by omega)]

theorem sramGet_sramWrite_out (s : State) (bs : List Byte) (a c : Nat) (h : c < a ∨ a + bs.length ≤ c) :
    sramGet (sramWrite s a bs) c = sramGet s c := by
  simp only [sramGet, sramWrite, cellGet_sramCells_out bs _ _ _ h]

theorem cellGet_hbmCells_out (bs : List Byte) (m : List Host.Cell) (a c : Nat) (h : c < a ∨ a + bs.length ≤ c) :
    cellGet (hbmCells m a bs) c = cellGet m c := by
  induction bs generalizing m a with
  | nil => rfl
  | cons b bs ih =>
    simp only [List.length_cons] at h
    rw [hbmCells, ih _ _ (by omega), cellGet_cellSet_ne _ _ (by omega)]

theorem hbmGet_hbmWrite_out (s : State) (bs : List Byte) (a c : Nat) (h : c < a ∨ a + bs.length ≤ c) :
    hbmGet (hbmWrite s a bs) c = hbmGet s c := by
  simp only [hbmGet, hbmWrite, cellGet_hbmCells_out bs _ _ _ h]

end Sys2Proof.Machine
end

