-- ==== Sys2Proof/Tests/Slice0.lean ====
section
/-!
SUPPORT. Small tests: ill-formed terms, the spec's worked encodings, and for each statement states and operands that meet its premises
(test_…_premises). Premises that name a function of Config (signatures, key wraps, fused values) have no closed instance.
-/

open Sys2Proof Sys2Proof.Machine Sys2Proof.Claims

namespace Sys2Proof.Tests

set_option Elab.async false

/-! ### Small states -/

/-- Fields (partition, field, value, element) of a state. -/
def put (s : State) (l : List (Nat × Reg × Nat × Nat)) : State := l.foldl (fun s x => wr s x.1 x.2.1 x.2.2.1 x.2.2.2) s

/-- Booted, every partition READY, HP0 up. -/
def ready : State := put State.reset [(0, R.PART_CFG_PART_STATE, 0, 0), (1, R.PART_CFG_PART_STATE, 0, 0), (2, R.PART_CFG_PART_STATE, 0, 0),
  (3, R.PART_CFG_PART_STATE, 0, 0), (4, R.BOOT_STATUS_STAGE, 9, 0), (4, R.HP_STATUS_LINK_UP, 1, 0), (4, R.HP_STATUS_BME, 1, 0)]

/-- Booted, every partition in HOLD, HP0 up. -/
def held9 : State := put State.reset [(4, R.BOOT_STATUS_STAGE, 9, 0), (4, R.HP_STATUS_LINK_UP, 1, 0), (4, R.HP_STATUS_BME, 1, 0)]

/-- Tile 0 RUNNING at index pc on word w, with ADDI g0, g0, 0 behind it, g1 = a and g2 = b. -/
def core (pc w : Nat) (a b : Word := 0) : State :=
  setG (setG (sramWrite (put ready [(4, R.TILE_STATUS_STATE, 1, 0), (4, R.TILE_STATUS_PC, pc, 0)]) (imemKey 0 (4 * pc))
    (leBytes 4 w ++ leBytes 4 (encI 2 0 0 0))) 0 1 a) 0 2 b

/-- A command from the values of its bytes: (first byte, little-endian value). -/
def cmd (l : List (Nat × Nat)) : Cmd := BitVec.ofNat 256 (l.foldl (fun a x => a + x.2 * 2 ^ (8 * x.1)) 0)

/-- Queue q of tile t holds the one waiting command c. -/
def queued (s : State) (t q : Nat) (c : Cmd) : State := setQueue s t q { waiting := [⟨c, 0⟩] }

/-! ### Control cores -/

theorem test_alu_premises : coreAt (core 16382 (encR 0x01 0 31 31 0xF)) 0 (encR 0x01 0 31 31 0xF) = true
    ∧ (0xF : BitVec 11).toNat ≤ 0xF ∧ FlowsOn (core 16382 (encR 0x01 0 31 31 0xF)) 0 := by decide +kernel

theorem test_immediate_premises : ∀ op ∈ [0x02, 0x03, 0x04, 0x05, 0x06, 0x07, 0x09], FlowsOn (core 0 (encI op 1 0 0xBF)) 0
    ∧ coreAt (core 0 (encI op 1 0 0xBF)) 0 (encI op 1 0 0xBF) = true ∧ (0xBF : BitVec 16).toNat < 192 := by decide +kernel

theorem test_fpu_premises : ∀ f ∈ [(0 : BitVec 11), 4, 0xD], coreAt (core 0 (encR 0x08 1 2 0 f)) 0 (encR 0x08 1 2 0 f) = true ∧ f.toNat ≤ 0xD
    ∧ (f.toNat = 4 → (0 : BitVec 5) = 0) ∧ FlowsOn (core 0 (encR 0x08 1 2 0 f)) 0 := by decide +kernel

theorem test_status_premises : (∀ w ∈ [encI 0x21 1 0 4, encI 0x24 1 0 0x37, encI 0x25 1 0 0, encI 0x25 1 0 1, encI 0x25 1 0 2],
    coreAt (core 0 w) 0 w = true ∧ FlowsOn (core 0 w) 0) ∧ 0x37 = 16 * 3 + 7 := by decide +kernel

/-- The last doubleword, and one past it, of data memory. -/
theorem test_load_premises : (∀ op ∈ [0x10, 0x11, 0x12, 0x13], coreAt (core 0 (encI op 3 1 0) 65528) 0 (encI op 3 1 0) = true
      ∧ coreAddr (core 0 (encI op 3 1 0) 65528) 0 1 0 < 65536 ∧ coreAddr (core 0 (encI op 3 1 0) 65528) 0 1 0 % 8 = 0
      ∧ FlowsOn (core 0 (encI op 3 1 0) 65528) 0)
    ∧ (∀ op ∈ [0x10, 0x11, 0x12, 0x13], coreAt (core 0 (encI op 3 1 8) 65528) 0 (encI op 3 1 8) = true
      ∧ 65536 ≤ coreAddr (core 0 (encI op 3 1 8) 65528) 0 1 8)
    ∧ coreAddr (core 0 (encI 0x10 3 1 (-4)) 65528) 0 1 (-4) % 8 ≠ 0 := by decide +kernel

theorem test_store_premises : (∀ op ∈ [0x14, 0x15, 0x16], Memory.wf (core 0 (encI op 2 1 0) 65528 7).sram = true
      ∧ coreAt (core 0 (encI op 2 1 0) 65528 7) 0 (encI op 2 1 0) = true ∧ coreAddr (core 0 (encI op 2 1 0) 65528 7) 0 1 0 < 65536
      ∧ coreAddr (core 0 (encI op 2 1 0) 65528 7) 0 1 0 % 8 = 0 ∧ FlowsOn (core 0 (encI op 2 1 0) 65528 7) 0)
    ∧ 65536 ≤ coreAddr (core 0 (encI 0x14 2 1 8) 65528 7) 0 1 8 := by decide +kernel

/-- Each branch taken to itself, taken below index 0, and not taken. -/
theorem test_branch_premises :
    (∀ x ∈ [(0x18, 1, 1), (0x19, 1, 2), (0x1A, 1, 2), (0x1B, 2, 1), (0x1C, 1, 2), (0x1D, 2, 1)],
      coreAt (core 5 (encI x.1 1 2 0) x.2.1 x.2.2) 0 (encI x.1 1 2 0) = true ∧ MayEnter (core 5 (encI x.1 1 2 0) x.2.1 x.2.2) 0 5
      ∧ coreAt (core 5 (encI x.1 1 2 (-6)) x.2.1 x.2.2) 0 (encI x.1 1 2 (-6)) = true
      ∧ (pcOf (core 5 (encI x.1 1 2 (-6)) x.2.1 x.2.2) 0 : Int) + (-6 : BitVec 16).toInt < 0 ∧ FlowsOn (core 5 (encI x.1 1 2 0) x.2.1 x.2.2) 0)
    ∧ getG (core 5 (encI 0x18 1 2 0) 1 1) 0 1 = getG (core 5 (encI 0x18 1 2 0) 1 1) 0 2
    ∧ getG (core 5 (encI 0x1B 1 2 0) 1 2) 0 1 ≠ getG (core 5 (encI 0x1B 1 2 0) 1 2) 0 2 := by decide +kernel

theorem test_jump_premises : coreAt (core 5 (encJ 0x1E 1)) 0 (encJ 0x1E 1) = true ∧ MayEnter (core 5 (encJ 0x1E 1)) 0 6
    ∧ coreAt (core 5 (encJ 0x1E (-6))) 0 (encJ 0x1E (-6)) = true ∧ (pcOf (core 5 (encJ 0x1E (-6))) 0 : Int) + (-6 : BitVec 26).toInt < 0
    ∧ coreAt (core 5 (encI 0x1F 3 1 0) 6) 0 (encI 0x1F 3 1 0) = true ∧ coreAddr (core 5 (encI 0x1F 3 1 0) 6) 0 1 0 = 6
    ∧ MayEnter (core 5 (encI 0x1F 3 1 0) 6) 0 6 ∧ 16383 < coreAddr (core 5 (encI 0x1F 3 1 0) 16384) 0 1 0 := by decide +kernel

def sPush : State := core 0 (encE 0x20 4 7 0)
/-- Thirty-two waiting commands fill the deferred queue. -/
def sPushFull : State := setQueue sPush 0 4 { waiting := List.replicate 32 ⟨0, 0⟩ }

theorem test_push_premises : coreAt sPush 0 (encE 0x20 4 7 0) = true ∧ FlowsOn sPush 0 ∧ enginePresent sPush 0 0 = true
    ∧ rd sPush 4 R.ENGQ_STATUS_QSTATE 0 4 = 0 ∧ (queue sPush 0 4).waiting.length < queueDepth sPush 0 4
    ∧ coreAt sPushFull 0 (encE 0x20 4 7 0) = true ∧ queueDepth sPushFull 0 4 ≤ (queue sPushFull 0 4).waiting.length
    ∧ coreAt { sPush with retiredEngines := [(0, 0)] } 0 (encE 0x20 4 7 0) = true
    ∧ enginePresent { sPush with retiredEngines := [(0, 0)] } 0 0 = false
    ∧ rd (wr sPush 4 R.ENGQ_STATUS_QSTATE 2 0 4) 4 R.ENGQ_STATUS_QSTATE 0 4 ≠ 0 := by decide +kernel

theorem test_sig_premises : coreAt (core 0 (encR 0x22 0 1 2 0) 0x0FFF 0x7FFFFFFF) 0 (encR 0x22 0 1 2 0) = true
    ∧ resolveName (core 0 (encR 0x22 0 1 2 0) 0x0FFF 0x7FFFFFFF) 0 ((0x0FFF : Word).setWidth 32) = .ctr (.die 0 4095)
    ∧ 0 < (0x7FFFFFFF : Word).toNat % 2 ^ 32 ∧ (0x7FFFFFFF : Word).toNat % 2 ^ 32 < 2 ^ 31
    ∧ coreAt (core 0 (encI 0x26 0 1 3) 0x1F) 0 (encI 0x26 0 1 3) = true ∧ FlowsOn (core 0 (encI 0x26 0 1 3) 0x1F) 0
    ∧ coreAt (core 16383 (encI 0x28 0 0 7)) 0 (encI 0x28 0 0 7) = true := by decide +kernel

theorem test_wait_fence_premises :
    (coreAt (core 0 (encR 0x23 0 1 2 0) 3 0) 0 (encR 0x23 0 1 2 0) = true
      ∧ resolveName (core 0 (encR 0x23 0 1 2 0) 3 0) 0 ((3 : Word).setWidth 32) = .ctr (.die 0 3)
      ∧ ctrVal (core 0 (encR 0x23 0 1 2 0) 3 0) (.die 0 3) < 2 ^ 32 ∧ hasReached 0 0 ∧ ¬ hasReached 0 1)
    ∧ (coreAt (core 0 (encI 0x27 0 0 0x1F)) 0 (encI 0x27 0 0 0x1F) = true ∧ FlowsOn (core 0 (encI 0x27 0 0 0x1F)) 0
      ∧ ∀ q, q < 5 → settled (core 0 (encI 0x27 0 0 0x1F)) 0 q)
    ∧ ¬ settled sPushFull 0 4
    ∧ (running (setTile (core 0 (encR 0x23 0 1 2 0)) 0 { stall := some (.wait 3 0) }) 0 = true
      ∧ (tile (setTile (core 0 (encR 0x23 0 1 2 0)) 0 { stall := some (.wait 3 0) }) 0).stall = some (.wait 3 0)
      ∧ FlowsOn (setTile (core 0 (encR 0x23 0 1 2 0)) 0 { stall := some (.wait 3 0) }) 0)
    ∧ ((tile (setTile (core 0 (encI 0x27 0 0 0x1F)) 0 { stall := some (.fence 0x1F) }) 0).stall = some (.fence 0x1F)
      ∧ ∀ q, q < 5 → settled (setTile (core 0 (encI 0x27 0 0 0x1F)) 0 { stall := some (.fence 0x1F) }) 0 q) := by decide +kernel

/-- The first illegal value of each form, and a successor with opcode 0. -/
theorem test_illegal_premises : ∀ w ∈ [encR 0x01 1 2 3 0x10, encR 0x08 1 2 3 0xE, encR 0x08 1 2 3 4, encI 0x06 1 2 192, encI 0x07 1 2 0,
      encE 0x20 5 1 0, encE 0x20 0 0 0, encE 0x20 0 1 1, encI 0x21 1 2 5, encR 0x22 1 2 3 1, encR 0x23 1 2 3 1, encI 0x24 1 2 64, encI 0x24 1 2 8,
      encI 0x25 1 2 3, encI 0x26 1 2 4], coreAt (core 0 w) 0 w = true ∧ pcOf (core 0 w) 0 < 16383
      ∧ opcodeDefined (fetchWord (core 0 w) 0 2 / 2 ^ 26) = false := by decide +kernel

theorem test_tile_control_premises : tileAccess ready 0 255 = true ∧ tileState ready 255 = 0 ∧ isReady ready (partOfTile ready 255) = true
    ∧ rd ready 4 R.TILE_STATUS_LOADING 255 = 0
    ∧ opcodeDefined (fetchWord (sramWrite ready (imemKey 255 0) (leBytes 4 (encI 2 0 0 0))) 255 0 / 2 ^ 26) = true
    ∧ rd (wr ready 4 R.TILE_STATUS_LOADING 1 255) 4 R.TILE_STATUS_LOADING 255 = 1
    ∧ tileAccess (wr ready 4 R.TILE_STATUS_STATE 1 255) 0 255 = true ∧ tileState (wr ready 4 R.TILE_STATUS_STATE 1 255) 255 = 1
    ∧ tileAccess held9 0 255 = true ∧ isReady held9 (partOfTile held9 255) = false := by decide +kernel

/-! ### Engine queues -/

/-- A finished command of queue 1 of tile 0, with an enabled signal of counter 4095 of die 0 when `sig` says so. -/
def doneCmd (sig : Nat) : Cmd := cmd [(0, 1), (1, sig), (2, 1), (4, 0x0FFF)]
def sDone (r : RunCmd) : State := setQueue ready 0 1 { running := [r] }

theorem test_completion_premises : (queue (sDone { cmd := doneCmd 0 }) 0 1).running = [{ cmd := doneCmd 0 }]
    ∧ clocked (sDone { cmd := doneCmd 0 }) (partOfTile (sDone { cmd := doneCmd 0 }) 0) = true ∧ sigEn (doneCmd 0) = false
    ∧ sigEn (doneCmd 1) = true ∧ resolveName (sDone { cmd := doneCmd 1 }) 0 (BitVec.ofNat 32 (cbs (doneCmd 1) 4 4)) = .ctr (.die 0 4095)
    ∧ K.BAD_DESC.code ≠ K.HOST_DMA_ERROR.code ∧ St.BAD_DESC ≠ St.OK ∧ cbit (doneCmd 0) 10 6 = false
    ∧ (tile (sDone { cmd := doneCmd 0, loading := some 255 }) 255).heldStart = none
    ∧ (queue (sDone { cmd := doneCmd 0, status := St.BAD_DESC, fault := some ⟨K.HOST_DMA_ERROR.code, 2, 0⟩ }) 0 1).running
      = [{ cmd := doneCmd 0, status := St.BAD_DESC, fault := some ⟨K.HOST_DMA_ERROR.code, 2, 0⟩ }]
    ∧ clocked (sDone { cmd := doneCmd 0, status := St.BAD_DESC, fault := some ⟨K.HOST_DMA_ERROR.code, 2, 0⟩ }) 0 = true
    ∧ isReady (sDone { cmd := doneCmd 0, status := St.BAD_DESC, fault := some ⟨K.HOST_DMA_ERROR.code, 2, 0⟩ }) 0 = true ∧ ({ cmd := doneCmd 0 } : RunCmd).acks = 0 := by decide +kernel

/-- The opcodes just outside each engine's, and a header with a reserved flag. -/
theorem test_refused_premises : (∀ x ∈ [(1, 12), (2, 5), (3, 8)],
      headEntry (queued ready 0 x.1 (cmd [(0, x.2)])) 0 x.1 = some ⟨cmd [(0, x.2)], 0⟩ ∧ opcOf (cmd [(0, x.2)]) = x.2)
    ∧ headEntry (queued ready 0 1 0) 0 1 = some ⟨0, 0⟩ ∧ opcOf 0 = 0 ∧ cb (cmd [(0, 1), (1, 2)]) 1 / 2 ≠ 0
    ∧ cb (cmd [(0, 1), (1, 1)]) 1 % 2 = 1 ∧ cbs (cmd [(0, 1), (1, 1)]) 2 2 = 0 := by decide +kernel

/-! ### Matrix, vector, row and DMA engines -/

/-- MMA: 1 x 1 of K 1, BF16, into FP32 slot 30 with INIT, B one line further. -/
def mmaCmd : Cmd := cmd [(0, 1), (12, 1), (16, 1 + 2 ^ 18 + 30 * 2 ^ 24 + 2 ^ 30), (20, 1 + 2 ^ 8)]
def sMma (q : Nat) : State := queued ready 0 q mmaCmd

theorem test_mma_premises : ∀ d ∈ [false, true], Memory.wf (sMma (if d then 4 else 0)).sram = true
    ∧ MxMayStart (sMma (if d then 4 else 0)) 0 d 1 ⟨mmaCmd, 0⟩ ∧ mmaBad (sMma (if d then 4 else 0)) 0 d (mmaOf mmaCmd) = false
    ∧ mmaSlotBad (sMma (if d then 4 else 0)) 0 d (mmaOf mmaCmd) = false := by decide +kernel

/-- Both queues hold a command that can start: the choice is the matrix queue's while DEF_SHARE is 0. -/
theorem test_mx_choice_premises : MxMayStart (setQueue (sMma 0) 0 4 { waiting := [⟨mmaCmd, 0⟩] }) 0 false 1 ⟨mmaCmd, 0⟩
    ∧ mxHeadReady (setQueue (sMma 0) 0 4 { waiting := [⟨mmaCmd, 0⟩] }) 0 4 = true := by decide +kernel

/-- MDRAIN of one row of one FP32 element of slot 30 to the last word of tile 255's scratchpad, with FREE. -/
def drainCmd : Cmd := cmd [(0, 2), (8, 2 * 2 ^ 60 + 255 * 2 ^ 22 + 2 ^ 22 - 4), (16, 30 * 2 ^ 20), (20, 2 ^ 25), (28, 1 + 2 ^ 8)]
def sDrain : State := setSlot (setSlot (queued ready 0 0 drainCmd) 0 30 ⟨1, false, 0, 0⟩) 0 31 ⟨1, false, 0, 0⟩

theorem test_matrix_completion_premises : opcOf mmaCmd = 1 ∧ sigEn mmaCmd = false ∧ opcOf drainCmd = 2 ∧ sigEn drainCmd = false := by decide +kernel

theorem test_mdrain_premises : Memory.wf sDrain.sram = true ∧ MxMayStart sDrain 0 false 2 ⟨drainCmd, 0⟩ ∧ drainBad sDrain 0 (drainOf drainCmd) = false
    ∧ (drainOf drainCmd).m = 1 ∧ (drainOf drainCmd).addIn = false
    ∧ devSpace sDrain (partOfTile sDrain 0) (drainOf drainCmd).dst = .sp 255 (2 ^ 22 - 4)
    ∧ checkDev sDrain (partOfTile sDrain 0) (drainOf drainCmd).dst (outSize (drainOf drainCmd).ofmt * (drainOf drainCmd).n) true = none
    ∧ devTgBusy sDrain (.sp 255 (2 ^ 22 - 4)) (outSize (drainOf drainCmd).ofmt * (drainOf drainCmd).n) = false
    ∧ slotBad sDrain 0 (drainOf drainCmd).acc (!(slotRec sDrain 0 (drainOf drainCmd).acc).fp16) false = false
    ∧ (slotRec sDrain 0 (drainOf drainCmd).acc).state ≠ 0
    ∧ (drainRows sDrain 0 0 (drainOf drainCmd) (List.range (drainOf drainCmd).m) sDrain).2 = none := by decide +kernel

/-- MTLOAD of 64 BF16 slices of width 64 ends at the end of the resident region. -/
def mtloadCmd : Cmd := cmd [(0, 3), (8, 2 * 2 ^ 16), (12, 64 + 2 ^ 18), (16, 384)]
/-- MBIND of the codebook at 0, MSLOT making slot 31 FREE. -/
def mbindCmd : Cmd := cmd [(0, 4)]
def mslotCmd : Cmd := cmd [(0, 5), (8, 31), (9, 1), (10, 1)]
/-- A codebook of 16 zeros, format 4. -/
def book : List Byte := [4, 0] ++ leBytes 2 16 ++ leBytes 8 0
def bookFull : List Byte := book ++ leBytes 4 (crc32c (book ++ List.replicate 36 0)) ++ List.replicate 32 0
def sBind : State := queued (sramWrite ready (spKey 0 0) bookFull) 0 0 mbindCmd

theorem test_mtload_premises : MxMayStart (queued ready 0 0 mtloadCmd) 0 false 3 ⟨mtloadCmd, 0⟩ ∧ mtloadBad (mtloadOf mtloadCmd) = false
    ∧ (mtloadOf mtloadCmd).off + mtloadLen (mtloadOf mtloadCmd) = 2 ^ 15 := by decide +kernel

theorem test_mbind_premises : MxMayStart sBind 0 false 4 ⟨mbindCmd, 0⟩ ∧ cbits mbindCmd 8 19 13 = 0 ∧ cbs mbindCmd 12 20 = 0
    ∧ leNat (sramRead sBind (spKey 0 2) 2) = 16 ∧ (checkCodebook (sramRead sBind (spKey 0 0) 48)).isOk = true
    ∧ MxMayStart (queued ready 0 0 mbindCmd) 0 false 4 ⟨mbindCmd, 0⟩ ∧ (checkCodebook (sramRead ready (spKey 0 0) 16)).isOk = false := by
  decide +kernel

theorem test_mslot_premises : MxMayStart (queued ready 0 0 mslotCmd) 0 false 5 ⟨mslotCmd, 0⟩ ∧ cb mslotCmd 8 ≤ 31 ∧ 0 < cb mslotCmd 9
    ∧ cb mslotCmd 8 + cb mslotCmd 9 ≤ 32 ∧ cb mslotCmd 10 = 1 ∧ cbs mslotCmd 11 21 = 0
    ∧ mslotBad (queued ready 0 0 mslotCmd) 0 false 31 1 1 = false := by decide +kernel

/-- A stream descriptor, and an operand block of rows x cols. -/
def strm (off stride fmt : Nat) (bcast : Nat := 0) : Nat := off + stride * 2 ^ 32 + fmt * 2 ^ 64 + bcast * 2 ^ 70 + 2 ^ 72
def block (rows cols : Nat) (l : List (Nat × Nat)) : List Byte :=
  leBytes 128 (rows + cols * 2 ^ 32 + l.foldl (fun a x => a + x.2 * 2 ^ (8 * (32 + 16 * x.1))) 0)
def withBlock (s : State) (ob : List Byte) (q : Nat) (c : Cmd) : State := queued (sramWrite s (dmemKey 0 0) ob) 0 q c

/-- One row of two FP32 elements with as many inputs as operation o takes; the output ends the scratchpad. -/
def vecBlock (o : Nat) : List Byte := block 1 2 ([(0, strm 0 0 0), (3, strm (2 ^ 22 - 8) 0 0 (if o = 10 then 1 else 0))]
  ++ (if o ≤ 8 then [(1, strm 8 0 0)] else []) ++ (if o = 4 ∨ o = 8 then [(2, strm 16 0 0)] else []))
def sVec (o : Nat) : State := withBlock ready (vecBlock o) 1 (cmd [(0, o)])

theorem test_vector_premises : ∀ o ∈ [1, 2, 3, 4, 5, 6, 7, 8, 9, 10], MayStart (sVec o) 0 1 o ⟨cmd [(0, o)], 0⟩
    ∧ operandBlock (sVec o) 0 (cmd [(0, o)]) = some (vecBlock o) ∧ accAbsent (sVec o) 0 (vecBlock o) = false
    ∧ vecBad (vecOf (cmd [(0, o)]) (vecBlock o)) = false
    ∧ (strmBook (sVec o) 0 (vecOf (cmd [(0, o)]) (vecBlock o)).in0).isOk = true ∧ (strmBook (sVec o) 0 (vecOf (cmd [(0, o)]) (vecBlock o)).in1).isOk = true
    ∧ (strmBook (sVec o) 0 (vecOf (cmd [(0, o)]) (vecBlock o)).in2).isOk = true ∧ (strmBook (sVec o) 0 (vecOf (cmd [(0, o)]) (vecBlock o)).out0).isOk = true
    ∧ Memory.wf (sVec o).sram = true ∧ (vecOf (cmd [(0, o)]) (vecBlock o)).rows = 1
    ∧ overlapIn 0 1 2 (vecOuts (vecOf (cmd [(0, o)]) (vecBlock o)))
      (([(vecOf (cmd [(0, o)]) (vecBlock o)).in0, (vecOf (cmd [(0, o)]) (vecBlock o)).in1, (vecOf (cmd [(0, o)]) (vecBlock o)).in2].filter (fun x => x.en)).map
        (fun x => (x, fmtBits x.fmt))) = []
    ∧ slotInUse (sVec o) 0 (vecOf (cmd [(0, o)]) (vecBlock o)) = false := by decide +kernel

/-- A weight write (VCVT to BF16 under SR) of step 0 that waits, with step 0 decided to apply, or to be skipped. -/
def srCmd : Cmd := cmd [(0, 9), (10, 1)]
def srBlock : List Byte := block 1 2 [(0, strm 0 0 0), (3, strm 64 0 1)]
def sSr (skip : Bool) : State := { setQueue (put ready [(0, R.SD_STATUS_DECIDING, 1, 0)]) 0 1
    { running := [{ cmd := srCmd, finished := false, keep := srBlock, waitStep := some 0 }] } with dieDecided := [(0, (0, skip))] }

theorem test_weight_write_premises : ∀ k ∈ [true, false], running (sSr k) (partOfTile (sSr k) 0) = true
    ∧ (queue (sSr k) 0 1).running = [] ++ [{ cmd := srCmd, finished := false, keep := srBlock, waitStep := some 0 }]
    ∧ (vecOf srCmd srBlock).sr = true ∧ vecStep (vecOf srCmd srBlock) 0 = 0 ∧ weightGate (sSr k) 0 0 = (if k then .skipped else .run)
    ∧ (strmBook (sSr k) 0 (vecOf srCmd srBlock).in0).isOk = true ∧ (strmBook (sSr k) 0 (vecOf srCmd srBlock).out0).isOk = true
    ∧ slotInUse (sSr k) 0 (vecOf srCmd srBlock) = false := by decide +kernel

/-- The four row operations on one row of two FP32 elements, with the streams that each takes. -/
def rowCmd (o : Nat) : Cmd := cmd [(0, o), (20, 3 * 2 ^ 20)]
def rowBlock (o : Nat) : List Byte := block 1 2 ([(0, strm 0 0 0), (3, strm 64 0 0)] ++ (if o = 1 then [(4, strm 128 0 0 1), (5, strm 192 0 0 1)]
  else if o = 2 then [(1, strm 256 0 0), (2, strm 320 0 0 1)] else if o = 3 then [(1, strm 256 0 0), (2, strm 320 0 0)]
  else [(1, strm 256 0 0), (2, strm 320 0 0), (4, strm 128 0 0), (5, strm 192 0 0)]))
def sRow (o : Nat) : State := withBlock ready (rowBlock o) 2 (rowCmd o)

theorem test_row_premises : ∀ o ∈ [1, 2, 3, 4], operandBlock (sRow o) 0 (rowCmd o) = some (rowBlock o) ∧ accAbsent (sRow o) 0 (rowBlock o) = false
    ∧ MayStart (sRow o) 0 2 o ⟨rowCmd o, 0⟩ ∧ rowBad (rowOf (rowCmd o) (rowBlock o)) = false
    ∧ overlapIn 0 1 2 (rowOuts (rowNormal (rowOf (rowCmd o) (rowBlock o))))
        (([(rowNormal (rowOf (rowCmd o) (rowBlock o))).in0, (rowNormal (rowOf (rowCmd o) (rowBlock o))).in1,
          (rowNormal (rowOf (rowCmd o) (rowBlock o))).in2].filter (fun x => x.en)).map (fun x => (x, fmtBits x.fmt))) = []
    ∧ overlapOut 0 1 2 (rowOuts (rowNormal (rowOf (rowCmd o) (rowBlock o)))) = [] := by decide +kernel

/-- IDXGEN of one row ID over a table of one shard. -/
def sTable : State := put ready [(0, R.TABLE_DESC_WIDTH_32, 1, 1023), (0, R.TABLE_DESC_FMT, 1, 1023), (0, R.TABLE_DESC_SHARD_CNT, 1, 1023)]
def idxCmd : Cmd := cmd [(0, 11), (12, 1023)]
def idxBlock : List Byte := block 1 1 [(0, strm 0 0 0), (2, strm 64 0 0), (3, strm 128 0 0)]
def sIdx : State := withBlock sTable idxBlock 1 idxCmd

theorem test_idxgen_premises : operandBlock sIdx 0 idxCmd = some idxBlock ∧ accAbsent sIdx 0 idxBlock = false ∧ MayStart sIdx 0 1 11 ⟨idxCmd, 0⟩
    ∧ idxBad sIdx 0 (vecOf idxCmd idxBlock) = false ∧ (idxRun 0 (vecOf idxCmd idxBlock) (List.range 1) sIdx).2 = none
    ∧ overlapIn 0 1 1 [((vecOf idxCmd idxBlock).out0, 128)] [((vecOf idxCmd idxBlock).in0, 64)] = []
    ∧ spansMeet (keySpans 0 (vecOf idxCmd idxBlock).out0 (strmSpans (vecOf idxCmd idxBlock).out0 128 1 1))
        [(spaceKey 0 (vecOf idxCmd idxBlock).in2.space + (vecOf idxCmd idxBlock).in2.off, 4 * rd sIdx 0 R.TABLE_DESC_SHARD_CNT 1023)] = []
    ∧ slotInUse sIdx 0 (vecOf idxCmd idxBlock) = false := by decide +kernel

/-- COPY of 64 bytes from the last line of tile 0's scratchpad to cluster memory 31. -/
def copyCmd : Cmd := cmd [(0, 1), (8, 2 * 2 ^ 60 + 2 ^ 22 - 64), (16, 2 ^ 60 + 31 * 2 ^ 24), (24, 64)]
def sCopy : State := queued ready 0 3 copyCmd

theorem test_copy_premises : Memory.wf sCopy.sram = true ∧ MayStart sCopy 0 3 1 ⟨copyCmd, 0⟩ ∧ cbs copyCmd 24 4 ≠ 0 ∧ cbs copyCmd 28 4 = 0
    ∧ checkDev sCopy 0 (cbs copyCmd 8 8) 64 false = none ∧ checkDev sCopy 0 (cbs copyCmd 16 8) 64 true = none
    ∧ devTgBusy sCopy (devSpace sCopy 0 (cbs copyCmd 8 8)) 64 = false ∧ devTgBusy sCopy (devSpace sCopy 0 (cbs copyCmd 16 8)) 64 = false
    ∧ devSpans (devSpace sCopy 0 (cbs copyCmd 8 8)) 64 = [(false, spKey 0 (2 ^ 22 - 64), 64)]
    ∧ devSpans (devSpace sCopy 0 (cbs copyCmd 16 8)) 64 = [(false, clmKey 31 0, 64)] ∧ spKey 0 (2 ^ 22 - 64) + 64 ≤ clmKey 31 0
    ∧ isHold sCopy 0 = false := by decide +kernel

def dcopyCmd : Cmd := cmd [(0, 3), (8, 2 ^ 22 - 8), (16, 65528), (18, 1), (20, 1)]
/-- TLOAD of the last 64 bytes of tile 255's instruction memory, and TSTART of tile 255 at index 16,383. -/
def tloadCmd : Cmd := cmd [(0, 6), (8, 255), (16, 2 * 2 ^ 60), (24, 1023), (26, 1)]
def tstartCmd : Cmd := cmd [(0, 7), (8, 255), (10, 16383)]
def sTstart : State := queued (sramWrite ready (imemKey 255 65532) (leBytes 4 (encI 2 0 0 0))) 0 3 tstartCmd

theorem test_dma_premises : (MayStart (queued ready 0 3 dcopyCmd) 0 3 3 ⟨dcopyCmd, 0⟩ ∧ cbs dcopyCmd 8 8 + 8 ≤ 2 ^ 22 ∧ cbs dcopyCmd 16 2 + 8 ≤ 65536
      ∧ cbits dcopyCmd 20 1 7 = 0 ∧ cbs dcopyCmd 21 11 = 0)
    ∧ (MayStart (queued ready 0 3 tloadCmd) 0 3 6 ⟨tloadCmd, 0⟩ ∧ loadBad tloadCmd = false ∧ cb tloadCmd 8 = 255 ∧ tilePresent ready 255 = true
      ∧ checkDev ready 0 (cbs tloadCmd 16 8) 64 false = none ∧ devSpans (devSpace ready 0 (cbs tloadCmd 16 8)) 64 = [(false, spKey 0 0, 64)]
      ∧ rd ready 4 R.TILE_STATUS_STATE 255 = 0 ∧ rd ready 4 R.TILE_STATUS_LOADING 255 = 0)
    ∧ MayStart (queued (wr ready 4 R.TILE_STATUS_STATE 1 255) 0 3 tloadCmd) 0 3 6 ⟨tloadCmd, 0⟩
    ∧ (MayStart sTstart 0 3 7 ⟨tstartCmd, 0⟩ ∧ cb tstartCmd 8 = 255 ∧ cb tstartCmd 9 = 0 ∧ cbs tstartCmd 10 2 ≤ 16383 ∧ cbs tstartCmd 12 20 = 0
      ∧ opcodeDefined (fetchWord sTstart 255 16383 / 2 ^ 26) = true) := by decide +kernel

/-- STREAM of three chunks of 64 bytes of cluster memory through two buffers of tile 0's scratchpad. -/
def streamDesc : List Byte := leBytes 64 (2 ^ 60 + (2 * 2 ^ 60 + 4096) * 2 ^ 64 + 64 * 2 ^ 128 + 64 * 2 ^ 160 + 64 * 2 ^ 192 + 3 * 2 ^ 256 + 2 * 2 ^ 280
  + 4094 * 2 ^ 288 + 4095 * 2 ^ 320)
def streamCmd : Cmd := cmd [(0, 2), (8, 0)]
def sStream : State := queued (sramWrite ready (spKey 0 0) streamDesc) 0 3 streamCmd
def streamRun (i l : Nat) : RunCmd := { cmd := streamCmd, finished := false, keep := streamDesc, started := i, landed := l }
/-- The third chunk's buffer is free once counter 4095 has reached 1. -/
def sChunk (i l : Nat) : State := setQueue (put ready [(4, R.DIE_CTR_VALUE, 0, 0)]) 0 3 { running := [streamRun i l] }
def sChunk3 : State := setQueue (wr ready 4 R.DIE_CTR_VALUE 1 0 4095) 0 3 { running := [streamRun 2 1] }

theorem test_stream_premises : (MayStart sStream 0 3 2 ⟨streamCmd, 0⟩ ∧ spOperand streamCmd 64 64 = some 0 ∧ cbs streamCmd 16 16 = 0
      ∧ streamRefuse sStream 0 (streamOf (sramRead sStream (spKey 0 0) 64)) = none)
    ∧ (runningStream sChunk3 0 = some ([], streamRun 2 1) ∧ running sChunk3 0 = true ∧ devSpace sChunk3 0 ((streamOf streamDesc).chunk 2) = .clm 0 128
      ∧ devTgBusy sChunk3 (devSpace sChunk3 0 ((streamOf streamDesc).chunk 2)) 64 = false ∧ 2 < (streamOf streamDesc).cnt
      ∧ 2 < 1 + (streamOf streamDesc).nbuf ∧ resolveName sChunk3 0 (BitVec.ofNat 32 (streamOf streamDesc).free) = .ctr (.die 0 4095)
      ∧ hasReached (ctrVal sChunk3 (.die 0 4095)) ((streamOf streamDesc).freeBase + (2 - (streamOf streamDesc).nbuf + 1)))
    ∧ (runningStream (sChunk 3 2) 0 = some ([], streamRun 3 2) ∧ clocked (sChunk 3 2) 0 = true
      ∧ devSpans (devSpace (sChunk 3 2) 0 ((streamOf streamDesc).chunk 2)) 64 = [(false, clmKey 0 128, 64)]
      ∧ devSpans (devSpace (sChunk 3 2) 0 ((streamOf streamDesc).buffer 2)) 64 = [(false, spKey 0 4096, 64)]
      ∧ resolveName (sChunk 3 2) 0 (BitVec.ofNat 32 (streamOf streamDesc).full) = .ctr (.die 0 4094))
    ∧ spaceLive sChunk3 0 (devSpace sChunk3 0 ((streamOf streamDesc).chunk 2)) = true := by decide +kernel

/-! ### Embedding tables -/

/-- Row 5 of table 1023, version 1, 32 BF16 elements 1.0 last written at step 9. -/
def rowRec : List Byte := recMake 1 32 5 9 1 1 ((List.replicate 32 [(0x80 : Byte), 0x3F]).flatten ++ List.replicate 68 0)
def dirLine : List Byte := let b := [(1 : Byte), 0, 0, 0] ++ leBytes 8 (5 + 2 ^ 63) ++ List.replicate 48 0
  leBytes 4 (crc32c b) ++ b
/-- Block 0 of stack 0: a shard descriptor, its directory of one line, its record slot, and its shard state (one slot used). -/
def storeBlock : List Byte := leBytes 64 (1023 + 2 ^ 15 + 2 ^ 16 + 2 ^ 64 + 64 * 2 ^ 128 + 128 * 2 ^ 192)
  ++ (dirLine ++ (rowRec ++ ([1] ++ List.replicate (4096 - 64 - 64 - 192 - 1) 0)))
/-- Table 1023 of one shard, at LSHARD 0 of engine 0, with version 1 CURRENT. -/
def sStore : State := { put sTable [(0, R.TABLE_DESC_SLOT_STATE, 3, 1023), (0, R.TABLE_DESC_SLOT_VER, 1, 1023), (0, R.TABLE_DESC_CUR_VER, 1, 1023),
    (0, R.TABLE_DESC_CUR_VALID, 1, 1023), (0, R.SUMAC_CTRL_SU_ENABLE, 1, 0), (0, R.HBM_KEY_STATE_STATE, 1, 0), (4, R.SHARD_STATE_BASE_SS_ADDR, 320, 0)]
  with hbm := cells (hbmKey 0 0) storeBlock ++ (cells (hbmKey 0 (crcOff 0)) (leBytes 4 (crc32c storeBlock)) ++ []) }
def theShard : Shard := ⟨0, 0, 1, 64, 128, 0, 1, 32, 1⟩

theorem storeBlock_length : storeBlock.length = 4096 := by
  simp only [storeBlock, List.length_append, List.length_replicate, List.length_cons, List.length_nil]
  decide +kernel

theorem store_good : blockGood sStore 0 0 = true := blockGood_cells _ 0 0 storeBlock [] storeBlock_length (by decide +kernel) rfl

/-- Any state with this store, in which the registers that R97 and R100 name read the same, finds the shard. -/
theorem store_found (s : State) (hm : s.hbm = sStore.hbm) (hp : s.poison = none) (row idx : Nat)
    (h : keyLoaded s 0 = true ∧ stackOff 0 (rd s 4 R.SHARD_DIR_BASE_SD_BASE 0) (64 * 32768) = some 0 ∧ tblFmt s 0 1023 = 1 ∧ tblWidth s 0 1023 = 32
      ∧ tableDefined s 0 1023 = true ∧ tblDigest s 0 1023 = tblDigest sStore 0 1023 ∧ rowShard s 0 1023 row = idx
      ∧ (shardDescOf (hbmRead s (hbmKey 0 (0 + 64 * 0)) 64) = ⟨1023, true, 1, 0, 0, 1, false, 64, 128, 0⟩) ∧ idx = 0) :
    rowShardFor s 0 0 0 1023 1 row idx (tblDigest sStore 0 1023) = .ok theShard := by
  obtain ⟨h1, h2, h3, h4, h5, h6, h7, r, rfl⟩ := h
  have g : blockGood s 0 ((0 + 64 * 0) / 4096 * 4096) = true :=
    blockGood_cells _ 0 0 storeBlock [] storeBlock_length (by decide +kernel) (by rw [hm]; rfl) hp
  unfold rowShardFor shardFor
  rw [h5, h6, h7, h1, h2, h3, h4]
  dsimp only
  rw [if_neg (by decide +kernel), if_neg (by decide), g, if_neg (by decide), r]
  decide +kernel

theorem store_row (row : Nat) (h : row < 8) : rowShardFor sStore 0 0 0 1023 1 row 0 (tblDigest sStore 0 1023) = .ok theShard :=
  store_found _ rfl rfl row 0 (by revert row; decide +kernel)

theorem test_record : readRec sStore 0 theShard (rowHash sStore 0 1023 5) 5 = .ok (some (⟨0, 0, 0⟩, rowRec))
    ∧ readRec sStore 0 theShard (rowHash sStore 0 1023 6) 6 = .ok none := by decide +kernel
/-- LOOKUP of row 5, whose home is stack 0 of this node: descriptor, offsets and index entry in tile 0's scratchpad. -/
def sp (o : Nat) : Nat := 2 * 2 ^ 60 + o
def lookDesc : List Byte := leBytes 64 (1023 + 2 ^ 10 + 2 ^ 13 + 2 ^ 32 + 2 ^ 64 + sp 64 * 2 ^ 128 + sp 80 * 2 ^ 192 + sp 128 * 2 ^ 256
  + 128 * 2 ^ 320 + 4095 * 2 ^ 352 + sp (2 ^ 22 - 16) * 2 ^ 384)
def lookRun (w : List (Nat × Nat)) : LookRun := ⟨0, 7, lookDesc, some 0, 1, 32, 1, [lookRow [0, 1] (leBytes 16 5) 0], w, [], St.OK, none, 0, 0⟩
def lookCmd0 : Cmd := cmd [(0, 4)]
def sLook : State := queued (sramWrite sStore (spKey 0 0) (lookDesc ++ leBytes 16 5 ++ leBytes 8 (2 ^ 32))) 0 3 lookCmd0
def lookReply : LookupResp := ⟨7, 0, 0, 0, [], 0, 0⟩

theorem test_lookup_premises : (MayStart sLook 0 3 4 ⟨lookCmd0, 0⟩ ∧ spOperand lookCmd0 64 64 = some 0 ∧ cbs lookCmd0 16 16 = 0
      ∧ lookDescOf (sramRead sLook (spKey 0 0) 64) = lookDescOf lookDesc ∧ lookStatic sLook 0 (lookDescOf lookDesc) = none
      ∧ devTgBusy sLook (devSpace sLook 0 (sp 80)) 8 = false ∧ devTgBusy sLook (devSpace sLook 0 (sp 64)) 16 = false
      ∧ readArray sLook 0 (sp 80) 8 [] = .ok (leBytes 8 (2 ^ 32))
      ∧ readArray sLook 0 (sp 64) 16 [] = .ok (leBytes 16 5) ∧ offsetsOk (offsetsOf (leBytes 8 (2 ^ 32)) 2) 1 = true
      ∧ lookRowRefuse sLook 0 (lookDescOf lookDesc) (leBytes 16 5) (lookRow (offsetsOf (leBytes 8 (2 ^ 32)) 2) (leBytes 16 5) 0) = none
      ∧ resolveVer sLook 0 1023 true 0 = .ok 0)
    ∧ ({ sStore with looks := [lookRun [(0, 0)]] }.looks.find?
        (fun x => x.msgId == 7 && partOfTile sStore x.tile == 0 && x.waiting.contains (lookReply.node.toNat, lookReply.stack.toNat))) = some (lookRun [(0, 0)])
    ∧ (∀ late ∈ [true, false], [lookRun (if late then [(0, 0)] else [])].find? (fun x => x.tile == 0 && (if late then !x.waiting.isEmpty else x.waiting.isEmpty && x.acks == 0))
        = some (lookRun (if late then [(0, 0)] else [])))
    ∧ Memory.wf sStore.sram = true ∧ running sStore 0 = true ∧ (lookRun []).rows.length = (lookDescOf lookDesc).idx ∧ (lookRun []).bags = (lookDescOf lookDesc).bags
    ∧ (lookDescOf lookDesc).status % 16 = 0 ∧ checkDev sStore 0 (lookDescOf lookDesc).status 16 true = none
    ∧ devSpace sStore 0 (lookDescOf lookDesc).status = .sp 0 (2 ^ 22 - 16) ∧ (lookDescOf lookDesc).outRows = 1
    ∧ devSpace sStore 0 ((lookDescOf lookDesc).outAddr + 0) = .sp 0 128
    ∧ (lookRun []).phase = 0 := by decide +kernel

/-- A request for row 5, which is present and, in the second state, has moved to engine 1. -/
def req : LookupReq := ⟨0, 0, 7, 1023, 1, BitVec.ofNat 32 (tblDigest sStore 0 1023), 1, false, 9, 0, [⟨0, 0, 5, 0, 0, 0⟩]⟩
def reqEntry : LookupEntry := ⟨0, 0, 5, 0, 0, 0⟩
/-- The state that serves the request: its version is held. -/
def sHeld : State := holdVer sStore 0 1023 1 (some 0)
/-- Row 5 has moved to engine 1. -/
def sMoved : State := { sHeld with redirects := [(0, [⟨5, 1023, 1, 0, 1, 0⟩])] }
/-- A traffic generator drives stack 0. -/
def sTg : State := wr sStore 4 R.TG_CTRL_RUNNING 1 0
def row5 : MigRow := ⟨5, 1023, 1, 1, 0, 0, 1, 1, none⟩
/-- A contribution of step 9 for the absent row 6 still waits at engine 0. -/
def contrib : Contribution := ⟨6, 1023, 1, 9, 0, 0, 0, 1, 0, 0, 0, BitVec.ofNat 32 (tblDigest sStore 0 1023), false, List.replicate 32 0⟩
def sContrib : State := { put sStore [(0, R.UPD_DECIDED_DECIDED_STEP, 8, 0), (4, R.CONTRIB_SIZE_CB_BYTES, 320, 0)] with held := [⟨none, 0, { contrib with row := 5 }⟩] }

theorem home_of (s : State) (e : rowShardFor s 0 0 0 1023 1 5 0 (tblDigest sStore 0 1023) = .ok theShard) (h : RowHit)
    (g : (match redirectOf s none 0 5 1023 1 with | some r => Except.ok (RowHit.forward reqEntry r) | none => readEntry s 0 0 1023 theShard reqEntry) = .ok h) :
    homeEntries s 0 req = .ok [h] := by
  have k : homeEntry s 0 0 1023 1 (tblDigest sStore 0 1023) reqEntry = .ok h := by
    unfold homeEntry
    rw [show reqEntry.lshard.toNat = 0 by rfl, show reqEntry.row.toNat = 5 by rfl, show reqEntry.shard.toNat = 0 by rfl, e]
    exact g
  have d : req.digest.toNat = tblDigest sStore 0 1023 := by decide +kernel
  have c : homeChecks s 0 req = none := by
    have e' : rowShardFor s 0 req.stack.toNat reqEntry.lshard.toNat req.table.toNat req.ver.toNat reqEntry.row.toNat reqEntry.shard.toNat
        req.digest.toNat = .ok theShard := by rw [d]; exact e
    unfold homeChecks
    rw [show req.entries = [reqEntry] by rfl]
    simp only [List.filterMap_cons, List.filterMap_nil, e']
    rfl
  unfold homeEntries
  rw [c, d, show req.entries = [reqEntry] by rfl]
  show [reqEntry].mapM (homeEntry s 0 0 1023 1 (tblDigest sStore 0 1023)) = _
  rw [List.mapM_cons, k]
  rfl

theorem test_owner_premises : running sStore 0 = true ∧ suEnabled sStore 0 = true ∧ ownStack sStore 0 0 = true ∧ ownerVer sStore 0 1023 1 = .ok 0
    ∧ engineWaits sTg 0 = true ∧ engineWaits sStore 0 = false ∧ rowWaits sStore 0 1023 5 9 = false ∧ rowWaits sContrib 0 1023 5 10 = true
    ∧ req.src.toNat = ownNode sStore 0
    ∧ [OwnRun.mk 0 (some 0) req [(0, 1), (1, 2)] []].find? (fun x => x.part == 0 && x.req.msgId == 7 && x.waiting.contains (0, 1)) ≠ none
    ∧ [((0 : Nat), (1 : Nat)), (1, 2)].filter (fun h => h != (0, 1)) ≠ [] ∧ [((0 : Nat), (1 : Nat))].filter (fun h => h != (0, 1)) = []
    ∧ homeChecks sContrib 0 { req with entries := [] } = none := by decide +kernel

theorem test_owner_hits : homeEntries sHeld 0 req = .ok [.value reqEntry theShard rowRec []]
    ∧ homeEntries sMoved 0 req = .ok [.forward reqEntry ⟨5, 1023, 1, 0, 1, 0⟩] :=
  ⟨home_of _ (store_found _ (by simp only [sHeld, holdVer, wrSat, wr_hbm]) (by simp only [sHeld, holdVer, wrSat, wr_poison]; rfl) 5 0 (by decide +kernel)) _ (by decide +kernel), home_of _ (store_found _ (by simp only [sHeld, sMoved, holdVer, wrSat, wr_hbm]) (by simp only [sHeld, sMoved, holdVer, wrSat, wr_poison]; rfl) 5 0 (by decide +kernel)) _ (by decide +kernel)⟩

/-- A row last written at step 9 answers a fetch of step 10; row 6 is absent. -/
theorem test_hot_premises : redirectOf sStore none 0 5 1023 1 = none ∧ readRec sStore 0 theShard (rowHash sStore 0 1023 6) 6 = .ok none
    ∧ readRec sStore 0 theShard (rowHash sStore 0 1023 5) 5 = .ok (some (⟨0, 0, 0⟩, rowRec)) ∧ signedOf 32 (recTag rowRec + 2 ^ 32 - 10 % 2 ^ 32) < 0
    ∧ [HotFetch.mk 0 3 31 9 [4] 0 false].find? (fun x => x.part == 0 && x.die == 3 && x.set == 31 && x.waiting.contains 4) ≠ none
    ∧ [HotFetch.mk 0 3 31 9 [] 1 false].find? (fun x => x.part == 0 && x.die == 3 && x.set == 31 && x.waiting.isEmpty) ≠ none
    ∧ [HotFetch.mk 0 3 31 9 [] 1 true].find? (fun x => x.part == 0 && x.die == 3 && x.set == 31 && x.waiting.isEmpty) ≠ none := by decide +kernel

/-- Version 2 of table 1023 against the states of its slots. -/
def sSlot (st : Nat) (more : List (Nat × Reg × Nat × Nat) := []) : State :=
  wr (wr (put (wr sTable 0 R.PART_CFG_PART_STATE 1) more) 0 R.TABLE_DESC_SLOT_STATE st 1023 3) 0 R.TABLE_DESC_SLOT_VER 2 1023 3
def sFull : State := [0, 1, 2, 3].foldl (fun s j => wr (wr s 0 R.TABLE_DESC_SLOT_STATE 1 1023 j) 0 R.TABLE_DESC_SLOT_VER j 1023 j) sTable

theorem test_version_premises : ctrlAccess (sSlot 1) 0 = some 0 ∧ rdb (sSlot 1) 0 R.TD_STATUS_CMD_BUSY = false ∧ tableDefined (sSlot 1) 0 1023 = true
    ∧ slotState (sSlot 1) 0 1023 0 = 0 ∧ newerVer 3 2 = true ∧ (∀ i, i < 4 → slotState (sSlot 1) 0 1023 i ≠ 0 → newerVer 3 (rd (sSlot 1) 0 R.TABLE_DESC_SLOT_VER 1023 i) = true)
    ∧ (∀ i, i < 4 → slotState sFull 0 1023 i ≠ 0) ∧ (∀ st ∈ [1, 2, 6], verSlot (sSlot st) 0 1023 2 = some 3 ∧ slotState (sSlot st) 0 1023 3 = st)
    ∧ 0 < stepDiff (rd (sSlot 1 [(0, R.TD_ARG_CMD_STEP, 1, 0)]) 0 R.TD_ARG_CMD_STEP) (rd (sSlot 1) 0 R.ST_NOW_STEP)
    ∧ isHold (sSlot 2) 0 = true ∧ (∀ i, i < 4 → slotState (sSlot 2) 0 1023 i ≠ 3)
    ∧ clocked (sSlot 5 [(0, R.ST_NOW_STEP, 1, 0)]) 0 = true ∧ slotState (sSlot 5) 0 1023 3 = 5 ∧ rd (sSlot 5) 0 R.TABLE_DESC_INFLIGHT 1023 3 = 0
    ∧ 0 < stepDiff (rd (sSlot 5 [(0, R.ST_NOW_STEP, 1, 0)]) 0 R.ST_NOW_STEP) (rd (sSlot 5) 0 R.TABLE_DESC_SLOT_STEP 1023 3) := by decide +kernel

/-- MERGE of one key, of row 6; SEND (bit 12) or a run of the merged record. -/
def mergeDesc (send : Nat) : List Byte := leBytes 64 (1023 + 2 ^ 10 + send * 2 ^ 12 + 2 ^ 64 + 4095 * 2 ^ 96 + sp 64 * 2 ^ 128 + sp 256 * 2 ^ 192
  + 128 * 2 ^ 256 + sp 512 * 2 ^ 384 + sp (2 ^ 22 - 16) * 2 ^ 448)
def mergeKeyBytes : List Byte := leBytes 32 (6 + 1023 * 2 ^ 40)
def mergeCmd : Cmd := cmd [(0, 5)]
def sMerge (send : Nat) : State := queued (sramWrite sStore (spKey 0 0) (mergeDesc send ++ mergeKeyBytes)) 0 3 mergeCmd
def run0 (send : Nat) : CloveRun := ⟨0, mergeDesc send, 0, 1, 0, [mergeKeyOf mergeKeyBytes 0], 1, 0, false, [], 0, 0, St.OK, none, 0, 0, false⟩

theorem test_merge_premises : (∀ send ∈ [0, 1], MayStart (sMerge send) 0 3 5 ⟨mergeCmd, 0⟩ ∧ spOperand mergeCmd 64 64 = some 0 ∧ cbs mergeCmd 16 16 = 0
      ∧ mapFind (sMerge send).clove 0 = none ∧ mergeDescOf (sramRead (sMerge send) (spKey 0 0) 64) = mergeDescOf (mergeDesc send)
      ∧ mergeStatic (sMerge send) 0 0 (mergeDescOf (mergeDesc send)) = none
      ∧ verCurrent (sMerge send) 0 1023 (namedVer (sMerge send) 0 1023 true 0) = true ∧ rdb (sMerge send) 0 R.TABLE_DESC_CUR_VALID 1023 = true
      ∧ devTgBusy (sMerge send) (devSpace (sMerge send) 0 (sp 64)) 32 = false ∧ readArray (sMerge send) 0 (sp 64) 32 [] = .ok mergeKeyBytes
      ∧ mergeKeyRefuse (sMerge send) 0 (mergeDescOf (mergeDesc send)) mergeKeyBytes 0 (mergeKeyOf mergeKeyBytes 0) = none
      ∧ (∀ x ∈ keyRows [mergeKeyOf mergeKeyBytes 0], keysBad x.2 = false)
      ∧ checkSpan (sMerge send) 0 (mergeDescOf (mergeDesc send)).outAddr (mergedSize 32 * 1) true = none
      ∧ (mergeRows (sMerge send) 0 (mergeDescOf (mergeDesc send)) 32 [] (keyRows (run0 send).keys) 0).isOk = true)
    ∧ (run0 0).done + 1 = (run0 0).passes ∧ ({ run0 1 with passes := 2 }).done + 1 < 2 ∧ (run0 1).seq % 65536 = 0 ∧ partOfCluster sStore 0 = 0
    ∧ devSpace sStore 0 (mergeDescOf (mergeDesc 0)).status = .sp 0 (2 ^ 22 - 16)
    ∧ (run0 0).acks = 0 ∧ (run0 0).worded = false
    ∧ sendable sStore 0 1023 0 6 = true := by decide +kernel

/-- A write to a scratchpad has no refusal. -/
theorem devWrite_sp (s : State) (p t o unit msg : Nat) (bs : List Byte) : (devWrite s p (.sp t o) bs unit msg).2 = none := by
  unfold devWrite
  generalize pieces _ _ = l
  induction l generalizing s with
  | nil => rfl
  | cons x l ih => simpa only [writePieces, writePiece, Space.plus] using ih _

/-- The first of two passes, with its run area in the scratchpad. -/
def run2 : CloveRun := { run0 1 with passes := 2, desc := leBytes 64 (leNat (mergeDesc 1) + 2 * 2 ^ 288 + sp 1024 * 2 ^ 320) }

theorem test_merge_pass_premises : readRuns (passRead sStore 0 run2) 0 run2 [] = .ok [] ∧ run2.done + 1 < run2.passes
    ∧ (devWrite (tickFree (passRead sStore 0 run2)) 0 (devSpace (passRead sStore 0 run2) 0 (runHalf (mergeDescOf run2.desc) 0))
        (freshBytes (passRead sStore 0 run2) 16) (srcCluster 0 0x40) 0).2 = none := by
  refine ⟨rfl, by decide, ?_⟩
  rw [show devSpace (passRead sStore 0 run2) 0 (runHalf (mergeDescOf run2.desc) 0) = .sp 0 1024 by decide +kernel]
  exact devWrite_sp _ _ _ _ _ _ _

theorem test_contribution_premises : running sContrib 0 = true ∧ suEnabled sContrib 0 = true ∧ contrib.fwd = false ∧ ownStack sContrib 0 0 = true
    ∧ engineWaits sContrib 0 = false ∧ ({ contrib with fwd := true }).fwd = true ∧ contribFault sContrib 0 0 contrib = none ∧ contrib.srcNode.toNat = ownNode sContrib 0 := by decide +kernel

theorem test_contribution_shard : rowShardFor sContrib 0 0 0 1023 1 6 0 (tblDigest sStore 0 1023) = .ok theShard
    ∧ (applyRow sStore 0 0 (rowShardFor sStore 0 0 0 1023 1 6 0 (tblDigest sStore 0 1023)) 1023 6 1 9 (coeffOf sStore 0 1023) (clipFor sStore 0 9) contrib.grad 1).2 = none := by
  refine ⟨store_found _ (by simp only [sContrib, put, List.foldl, wr_hbm]) (by simp only [sContrib, put, List.foldl, wr_poison]; rfl) 6 0 (by decide +kernel), ?_⟩
  rw [store_row 6 (by decide)]
  decide +kernel

/-- One entry to move: row 5 of table 1023, version 1, to stack 0 of node 1. -/
def migBytes : List Byte := leBytes 16 (5 + 1023 * 2 ^ 40 + 2 ^ 64 + 2 ^ 96)
def sMig : State := put (sramWrite sStore (spKey 0 0) migBytes) [(0, R.MIG_ARG_ENTRY_CNT, 1, 0), (0, R.MIG_ADDR_MIG_LIST, sp 0, 0), (0, R.MIG_STEP_STEP, 1, 0)]
def batch (rows : List MigRow) : MigBatch := ⟨0, 255, 1, rows, true, false⟩

/-- No row waits: the step in hand is what the engine finishes. -/
theorem test_step_premises : retryLocks { sStore with applying := [(23, [(2 ^ 48 - 1, true)])] } 0
    = { sStore with applying := [(23, [(2 ^ 48 - 1, true)])] } := by
  unfold retryLocks
  rw [show ({ sStore with applying := [(23, [(2 ^ 48 - 1, true)])] } : State).rowLocks = [] by decide +kernel]
  rfl

theorem test_engine_premises : ctrlAccess sMig 0 = some 0 ∧ rdb sMig 0 R.MIG_STATUS_MIG_BUSY = false ∧ 0 < stepDiff 1 (rd sMig 0 R.ST_NOW_STEP)
    ∧ checkDev sMig 0 (sp 0) 16 false = none ∧ isExtern (devSpace sMig 0 (sp 0)) = false ∧ readArray sMig 0 (sp 0) 16 [] = .ok migBytes
    ∧ migRowRsvd migBytes 0 = false ∧ verCurrent sMig 0 1023 1 = true ∧ (migRowOf migBytes 0).stack ≤ 23
    ∧ (mapGet [] sMig.redirects 0).length + migReserved sMig 0 0 + ([migRowOf migBytes 0].filter (migNeeds sMig 0 0)).length ≤ 32768
    ∧ [batch []].find? (fun b => b.stack == 0 && b.id == 255 && b.ready && !b.installed) ≠ none
    ∧ (migCopyRows { sStore with redirects := [(0, [⟨5, 1023, 1, 1, 0, 0⟩])] } 0 0 255 [{ row5 with phase := 0 }] [rowRec]).2.2 = none
    ∧ [batch [row5]].find? (fun b => b.stack == 0 && b.rows.any (fun r => r.row == 5 && r.table == 1023 && r.ver == 1 && r.phase == 1)) ≠ none
    ∧ mapGet [] ({ sStore with applying := [(23, [(2 ^ 48 - 1, true)])] }).applying 23 = (2 ^ 48 - 1, true) :: []
    ∧ sStore.rowLocks = [] ∧ sStore.fwdOuts = [] ∧ sStore.waitReqs = [] ∧ migListWaits sMig 0 = false
    ∧ batchWaits { sStore with redirects := [(0, [⟨5, 1023, 1, 1, 0, 0⟩])] } 0 0 (batch [{ row5 with phase := 0 }]) = false
    ∧ batchWaits sTg 0 0 (batch [{ row5 with phase := 0 }]) = true ∧ keyLoaded sStore 0 = true ∧ (∃ k ∈ stacksOf sTg 0, engineWaits sTg k = true)
    ∧ rdb sStore 0 R.LOAD_CTRL_SNAP_BUSY = false
    ∧ clocked { sStore with applying := [(23, [(2 ^ 48 - 1, true)])] } (partOfStack sStore 23) = true ∧ ackWaits sStore 0 0 (batch [row5]) = false := by decide +kernel

/-- The shard's only slot is used: no room for a copy of row 6. -/
theorem test_full_shard : createRow sStore 0 theShard (rowHash sStore 0 1023 6) 6 rowRec = .ok none := by
  have g : blockGood sStore 0 ((320 + 16 * 0) / 4096 * 4096) = true :=
    blockGood_cells _ 0 0 storeBlock [] storeBlock_length (by decide +kernel) rfl
  unfold createRow
  rw [show shardStateOff sStore 0 theShard.lshard = some (320 + 16 * 0) by decide +kernel]
  dsimp only
  rw [g, if_neg (by decide)]
  decide +kernel

/-! ### Step Time, decision, counters, traffic generators -/

/-- Step Time with one phase (0), and one child, node 1, whose report for the next value counts. -/
def sSt (role : Nat) : State := { put ready [(0, R.ST_CTRL_ENABLE, 1, 0), (0, R.ST_CTRL_ROLE, role, 0), (0, R.ST_CTRL_PHASE_CNT, 1, 0),
    (0, R.ST_TREE_CHILD_CNT, 1, 0), (0, R.ST_CHILD_NODE, 1, 0), (0, R.ROUTE_VALID, 1, 1), (0, R.ROUTE_VALID, 1, 9), (0, R.ST_TREE_PARENT_NODE, 9, 0),
    (0, R.ST_TREE_MASTER_NODE, 9, 0)] with reports := if role = 2 then [] else [(0, [(1, 65536, none)])] }

theorem test_step_time_premises : (∀ r ∈ [0, 1], running (sSt r) 0 = true ∧ stEnabled (sSt r) 0 = true ∧ rdb (sSt r) 0 R.ST_STATUS_REPORTED = false
      ∧ stReady (sSt r) 0 = true ∧ isMaster (sSt r) 0 = (r == 1) ∧ nextVal (sSt r) 0 = 65536 ∧ nextDecides (sSt r) 0 = false
      ∧ (∀ c ∈ stChildren (sSt r) 0, CanReach (sSt r) 0 c) ∧ QuietAt (sSt r) 0 65536)
    ∧ CanReach (sSt 0) 0 9 ∧ nextVal (sSt 0) 0 < 2 ^ 64 ∧ (stChildren (sSt 0) 0).contains 1 = true ∧ (∀ r ∈ reportsFor { sSt 0 with reports := [] } 0 65536, r.1 ≠ 1)
    ∧ rdb (wr (sSt 0) 0 R.ST_STATUS_REPORTED 1) 0 R.ST_STATUS_REPORTED = true := by decide +kernel

/-- The last event entry of a share: value 1.0 of a phase list of 0, DECIDE or a kind that does not exist, an earlier Step Time. -/
def sEvent (st : Nat) : State := put held9 [(0, R.EVENT_EV_WHEN, 65536, 255), (0, R.ST_CTRL_PHASE_CNT, 1, 0), (0, R.EVENT_STATE, st, 255)]

theorem test_step_time_write_premises : CtrlWrite held9 ⟨0, 0x200008, 4, 0x101⟩ 0 ∧ rdb held9 0 R.ST_CTRL_LOCK = false
    ∧ stBreach (wr held9 0 R.ST_CTRL_PHASE_CNT (bitsOf 0x101 8 5)) 0 = false ∧ stBreach (wr held9 0 R.ST_CTRL_PHASE_CNT (bitsOf 0x1101 8 5)) 0 = true
    ∧ stEnabled held9 0 = false ∧ CtrlWrite held9 ⟨0, 0x200000, 8, 0⟩ 0 ∧ isHold held9 0 = true ∧ isHold ready 0 = false
    ∧ CtrlWrite (sEvent 0) ⟨0, 0x201008 + 32 * 255, 4, 0x10001⟩ 0 ∧ 255 < eventShare (sEvent 0) ∧ rd (sEvent 0) 0 R.EVENT_STATE 255 ≠ 1
    ∧ stNow (sEvent 0) 0 < rd (sEvent 0) 0 R.EVENT_EV_WHEN 255 ∧ (phases (sEvent 0) 0).contains (rd (sEvent 0) 0 R.EVENT_EV_WHEN 255 % 65536) = true
    ∧ (phases (wr (sEvent 0) 0 R.EVENT_EV_WHEN 65537 255) 0).contains 1 = false
    ∧ rd (sEvent 1) 0 R.EVENT_STATE 255 = 1 ∧ firingOf (sEvent 1) 0 = [] := by decide +kernel

/-- An event that waits: kind, target and ARG0. -/
def fired (kind target arg0 : Nat) : FiredEv := ⟨kind, 0, target, arg0, 0, 255, false⟩
def sWait (e : FiredEv) : State := { put ready [(0, R.HOTROW_SET_HR_ENABLE, 1, 31), (0, R.RS_CTRL_RS_EN, 1, 0), (0, R.HBM_KEY_STATE_STATE, 1, 0)] with firing := [(0, [e])] }
def oldBatch : MigBatch := { batch [{ row5 with phase := 2, acks := 0, old := some (1, 0, 0, 0) }] with installed := true }
def sRetire : State := { sWait (fired 5 0 255) with batches := [oldBatch] }
/-- Node 0 has partner 1. -/
def sPartner : State := put (sWait (fired 6 1 0)) [(0, R.PARTNER_MAP_KIND, 1, 0), (0, R.PARTNER_MAP_TARGET, 1, 0)]

theorem test_waiting_event_premises : (∀ e ∈ [fired 4 31 1, fired 5 0 255, fired 6 1 0], firingOf (sWait e) 0 = [e] ∧ running (sWait e) 0 = true ∧ e.idx < 256)
    ∧ bitAt 1 0 = true ∧ rdb (sWait (fired 4 31 1)) 0 R.HOTROW_SET_HR_ENABLE 31 = true ∧ hotSwapReady (sWait (fired 4 31 1)) 0 31 = true
    ∧ retireBatch sRetire (fired 5 0 255) = some oldBatch ∧ oldBatch.installed = true ∧ engineWaits sRetire oldBatch.stack = false
    ∧ ownStack sRetire 0 0 = true
    ∧ (retireRows { eventEcho (wr (setFiring sRetire 0 []) 0 R.EVENT_STATE 2 255) 0 (fired 5 0 255) with batches := [] } 0 oldBatch.stack
        oldBatch oldBatch.rows).2 = none
    ∧ (∀ s ∈ [sWait (fired 6 1 0), sPartner], mapFind s.epochWait 0 = none ∧ rsEnabled s 0 = true ∧ keyLoaded s 0 = true ∧ stacksFree s 0 = true
      ∧ appliesDone s 0 = true ∧ gateMet s 0 = true
      ∧ 1 = (rd s 0 R.RS_EPOCH_LAST_EPOCH + 1) % 2 ^ 32 ∧ listRegions s 0 = ([], none) ∧ journals s 0 = false)
    ∧ allPartners (sWait (fired 6 1 0)) 0 0 = [] ∧ (allPartners sPartner 0 (ownNode sPartner 0)).filter (notLapsed sPartner 0) = [1] := by decide +kernel

/-- The unit collects (1), reduces (2); a norm pass of stack 23 runs. -/
def sSd (st role : Nat) : State := { put (sSt role) [(0, R.SD_STATUS_SD_STATE, st, 0), (0, R.ST_TREE_CHILD_CNT, 0, 0)] with norms := [(23, ⟨0, false, 0, 0⟩)] }
def sdMsg (n : Nat) : SdMsg := ⟨BitVec.ofNat 12 n, 0, 0x7F800000, 1, true⟩

theorem test_decision_premises : running (sSd 1 0) (partOfStack (sSd 1 0) 23) = true ∧ mapFind (sSd 1 0).norms 23 = some ⟨0, false, 0, 0⟩ ∧ sdState (sSd 1 0) 0 = 1
    ∧ engineWaits (sSd 1 0) 23 = false
    ∧ (∀ k ∈ stacksOf ready 0, mapFind { sSd 1 0 with norms := [(23, ⟨0, true, 0, 0⟩)] }.norms k = some ⟨0, true, 0, 0⟩
        ∨ mapFind { sSd 1 0 with norms := [(23, ⟨0, true, 0, 0⟩)] }.norms k = none)
    ∧ (∀ r ∈ [0, 1], sdState (sSd 2 r) 0 = 2 ∧ 0 ∉ (sSd 2 r).sdSent ∧ subtreeOf (sSd 2 r) 0 = some (0, 0, false) ∧ isMaster (sSd 2 r) 0 = (r == 1))
    ∧ CanReach (sSd 2 0) 0 (rd (sSd 2 0) 0 R.ST_TREE_PARENT_NODE) ∧ stepDiff (sdMsg 1).step.toNat (sdStep (sSt 0) 0) = 0
    ∧ (stChildren (sSt 0) 0).contains (sdMsg 1).sender.toNat = true ∧ (sdMsg 9).sender.toNat = rd (sSd 2 0) 0 R.ST_TREE_PARENT_NODE
    ∧ ctrlAccess ready 0 = some 0 := by decide +kernel

def nine (c : CtrRef) : List Increment := List.replicate 9 ⟨c, 0, 0x7FFFFFFF⟩

theorem test_counter_premises : (∀ c ∈ [CtrRef.die 3 4095, CtrRef.fab 0 1023], clocked ready (ctrPart ready c) = true ∧ isReady ready (ctrPart ready c) = true
      ∧ isHold held9 (ctrPart held9 c) = true ∧ (nine c).filter (fun x => x.ref = c) ≠ [])
    ∧ ready.safe = false ∧ (1023 : BitVec 12).toNat < fabShare ready
    ∧ bitAt (2 ^ 62 + 4095) 63 = false ∧ bitsOf (2 ^ 62 + 4095) 32 31 ≠ 0 ∧ bitsOf (2 ^ 62 + 4095) 14 2 < 2
    ∧ resolveName ready 0 (BitVec.ofNat 32 (bitsOf (2 ^ 62 + 4095) 0 32)) = .ctr (.die 0 4095)
    ∧ CtrlWrite held9 ⟨0, 0x30FFFC, 4, 7⟩ 0 ∧ counterAt held9 0 0x30FFFC = some (.die 3 4095) ∧ counterAt held9 0 0x310FFC = some (.fab 0 1023)
    ∧ CtrlWrite ready ⟨0, 0x30FFFC, 4, 7⟩ 0 ∧ dbgAuth ready 0 = false
    ∧ openWait (setTile ready 255 { stall := some (.wait 0xFFF 1) }) 255 false = some (0xFFF, 1)
    ∧ openWait (setQueue (put ready [(4, R.DIE_CTR_VALUE, 0, 0)]) 0 3 { running := [streamRun 2 1] }) 0 true = some (0xFFF, 1)
    ∧ running ready (partOfTile ready 255) = true := by decide +kernel

/-- Generator 63 of stack 23 writes and stops at its first error. -/
def sGen (st run : Nat) : State := { put ready ([0, 1, 2, 3].map (fun p => (p, R.PART_CFG_PART_STATE, st, 0)) ++ [(4, R.TG_MASK_PC_EN, 2 ^ 63, 23),
    (4, R.TG_CTRL_RUNNING, run, 23)]) with tgRun := [(23, 2 ^ 63)] }
def sGenCfg (st run : Nat) : State := wr (wr (wr (wr (wr (sGen st run) 4 R.TG_LEN_LEN (2 ^ 30) 23 63) 4 R.TG_CFG_CHECK 1 23 63) 4 R.TG_CFG_STOP_ON_ERR 1 23 63)
  4 R.TG_COUNT_COUNT 64 23 63) 4 R.TG_CFG_RD_PCT 50 23 63

theorem test_traffic_generator_premises : (∀ s ∈ [sGenCfg 1 0], ctrlAccess s 0 = some (partOfStack s 23) ∧ isHold s (partOfStack s 23) = true
      ∧ rdb s 4 R.TG_CTRL_RUNNING 23 = false ∧ (∀ g ∈ tgMask s 23, tgCfgOk s 23 g = true) ∧ tgMask s 23 = [63] ∧ rd s 4 R.TG_MASK_PC_EN 23 < 2 ^ 64)
    ∧ isHold (sGenCfg 0 0) 0 = false ∧ rdb (sGenCfg 1 1) 4 R.TG_CTRL_RUNNING 23 = true
    ∧ tgEnds (sGenCfg 1 1) 23 63 ⟨64, 0, 0, 0⟩ = true
    ∧ tgEnds (sGenCfg 1 1) 23 63 ⟨1, 8, 56, 1⟩ = true ∧ tgEnds (sGenCfg 1 1) 23 63 ⟨1, 9, 56, 1⟩ = false
    ∧ tgEnds (sGenCfg 1 1) 23 63 ⟨1, 8, 64, 1⟩ = false
    ∧ (sGenCfg 1 1).tgRun = [(23, 2 ^ 63)] := by decide +kernel
/-! ### Fabric, sessions, collectives -/

/-- Port 11 in a state, and its last peer entry: node 9, valid, open or not. -/
def sPort (st : Nat) (openV : Nat := 1) : State := wr (wr (wr (put ready [(0, R.FAB_CTRL_FAB_EN, 1, 0), (4, R.FP_STATUS_PSTATE, st, 11), (4, R.FP_STATUS_LANE_LOCK, 15, 11),
  (0, R.ROUTE_VALID, 1, 9), (0, R.ROUTE_NEXT_HOP, 9, 9)]) 4 R.FP_PEER_NODE 9 11 31) 4 R.FP_PEER_VALID 1 11 31) 4 R.FP_PEER_OPEN openV 11 31
def job : JobKeys := ⟨0, [], some []⟩

theorem test_port_premises : (∀ st ∈ [0, 1, 2, 3], ctrlAccess (sPort st) 0 = some (partOfFPort (sPort st) 11) ∧ portState (sPort st) 11 = st)
    ∧ fabEn (sPort 0) 0 = true ∧ (sPort 1).safe = false ∧ 11 ∉ (sPort 1).fabBad ∧ rdb (wr (sPort 1) 4 R.FP_CTRL_HALF_OK 1 11) 4 R.FP_CTRL_HALF_OK 11 = true
    ∧ rdb (sPort 1) 4 R.FP_CTRL_HALF_OK 11 = false ∧ portUp (sPort 2) 11 = true
    ∧ BitVec.ofNat 4 (rd (sPort 2) 4 R.FP_STATUS_LANE_LOCK 11) &&& 7 ≠ BitVec.ofNat 4 (rd (sPort 2) 4 R.FP_STATUS_LANE_LOCK 11) := by decide +kernel

/-- A handshake at a stage, of a node below (0) or above (4095) the peer. -/
def sHand (stage own : Nat) : State := setSess { wr (sPort 2 0) 0 R.FAB_NODE_NODE_ID own with jobs := [(0, job)] } 383 { stage := stage }
def helloOf (n : Nat) : Hello := ⟨BitVec.ofNat 12 n, BitVec.ofNat 36 536870912, 0, 3⟩

theorem test_session_premises : (∀ own ∈ [0, 4095], ∀ st ∈ [0, 1, 2, 3], entryLive (sHand st own) 383 = true ∧ jobReady (sHand st own) 0 = true
      ∧ (sess (sHand st own) 383).stage = st)
    ∧ (helloOf 9).node.toNat = peerNode (sHand 0 0) 383 ∧ (helloOf 9).node.toNat ≠ ownNode (sHand 0 0) 0 ∧ (helloOf 9).pfx.toNat = rd (sHand 0 0) 0 R.FAB_PREFIX_PREFIX
    ∧ (helloOf 9).jobId.toNat = rd (sHand 0 0) 0 R.FAB_JOB_ID_JOB_ID ∧ (helloOf 9).maxPayload.toNat = rd (sHand 0 0) 0 R.FAB_CTRL_MAX_PAYLOAD
    ∧ (helloOf 8).node.toNat ≠ ownNode (sHand 0 0) 0 ∧ (helloOf 8).node.toNat ≠ peerNode (sHand 0 0) 383
    ∧ peerNode (sHand 0 4095) 383 ≤ ownNode (sHand 0 4095) 0 ∧ ownNode (sHand 0 0) 0 < peerNode (sHand 0 0) 383
    ∧ ctrlAccess (sPort 2) 0 = some (partOfFPort (sPort 2) 11) := by decide +kernel

/-- A sound frame of node 9: a DMA access, its class and its other attributes plain. -/
def plainFrame (cls : BitVec 4) : Frame :=
  { fcsOk := true, tagOk := true, ver := 1, cls := cls, rsvd := false, len := 0, dst := 0, src := 9, seq := 0
    epoch := 0, ttl := 1, ackValid := false, ackSeq := 0, srcUnit := 0, stripe := 0, body := [], access := none }
def frame0 : Frame := { plainFrame 6 with access := some ⟨false, 23, 0, [], 64⟩ }
def frameW : Frame := { plainFrame 6 with access := some ⟨true, 23, 0, List.replicate 64 7, 0⟩ }
def sKeyed : State := put (sPort 2) [(0, R.HBM_KEY_STATE_STATE, 1, 0), (0, R.FAB_ETYPE_ETYPE, 0x88B5, 0)]
def sOut (n : Nat) : State := setSess (sPort 2) 383 { tx := 1, unacked := [⟨0, n, ⟨⟨0, .frame frame0⟩, 0, 0, 0, true⟩⟩] }
def vKeyed : State := frameTaken sKeyed 383 0

theorem test_session_frame_premises : sessRuns sKeyed 383 = true ∧ (sess sKeyed 383).tx < 2 ^ 48 ∧ (sess sKeyed 383).link < 2 ^ 48 - 1 ∧ sessPart sKeyed 383 = 0
    ∧ (∀ m ∈ [frame0, frameW, plainFrame 6, plainFrame 3], GoodFrame sKeyed 383 m ∧ m.seq.toNat = (sess sKeyed 383).rx ∧ m.ackValid = false
      ∧ malformed vKeyed 0 m = false ∧ m.dst.toNat = ownNode sKeyed 0 ∧ CanReach vKeyed 0 m.src.toNat)
    ∧ malformed vKeyed 0 { frame0 with ver := 2 } = true ∧ GoodFrame sKeyed 383 { frame0 with ver := 2 }
    ∧ malformed vKeyed 0 { frame0 with dst := 9 } = false ∧ GoodFrame sKeyed 383 { frame0 with dst := 9 } := by decide +kernel

theorem test_session_state_premises : isHold sKeyed 0 = false ∧ running sKeyed 0 = true ∧ ownStack sKeyed 0 23 = true ∧ engineWaits sKeyed 23 = false
    ∧ engineWaits (wr sKeyed 4 R.TG_CTRL_RUNNING 1 23) 23 = true ∧ keyLoaded sKeyed 0 = true ∧ 0 + 64 ≤ (Space.hbm false 23 0).size
    ∧ (devWrite vKeyed 0 (.hbm true 23 0) (List.replicate 64 7)).2 = none
    ∧ isHold (wr sKeyed 0 R.PART_CFG_PART_STATE 1) 0 = true ∧ frozen (wr sKeyed 0 R.PART_CFG_PART_STATE 1) 0 = false ∧ holdDrops 6 = true
    ∧ GoodFrame sKeyed 383 { frame0 with seq := 1 } ∧ ({ frame0 with seq := 1 }).seq.toNat ≠ (sess sKeyed 383).rx
    ∧ frame0.etype.toNat ≠ rd (wr sKeyed 0 R.FAB_ETYPE_ETYPE 0x88B6) (sessPart sKeyed 383) R.FAB_ETYPE_ETYPE ∧ ({ frame0 with tagOk := false }).tagOk = false
    ∧ (∀ n ∈ [0, 14], sessRuns (sOut n) 383 = true ∧ (sess (sOut n) 383).unacked ≠ [] ∧ (∀ x ∈ (sess (sOut n) 383).unacked, x.replays ≠ 15))
    ∧ sessRuns (sOut 15) 383 = true ∧ (∃ x ∈ (sess (sOut 15) 383).unacked, x.replays = 15) ∧ (∀ x ∈ sKeyed.fabWait, x.1 ≠ sessPart sKeyed 383) := by decide +kernel

theorem test_session_freeze_premises : (∀ m ∈ [frame0, frameW, plainFrame 6, plainFrame 3], m.epoch = 0) ∧ frozen sKeyed (sessPart sKeyed 383) = false
    ∧ frozen (wr sKeyed 0 R.ST_FREEZE_FSTATE 2) (sessPart sKeyed 383) = true ∧ ({ plainFrame 6 with visible := true }).visible = true
    ∧ (∀ e ∈ [0, 1], (plainFrame 0).cls = 0 ∧ (({ plainFrame 0 with epoch := e }).epoch = (sess sKeyed 383).rxEpoch
      ∨ ({ plainFrame 0 with epoch := e }).epoch = (sess sKeyed 383).rxEpoch + 1) ∧ malformed sKeyed 0 { plainFrame 0 with epoch := e } = false) := by decide +kernel

def transit : Frame := { frame0 with dst := 9 }
def fabT : FabFrame := ⟨⟨0, .frame { transit with ttl := 0 }⟩, 0, 0, 0, true⟩

theorem test_routing_premises : (sPort 2).safe = false ∧ transit.dst.toNat ≠ ownNode (sPort 2) (partOfFPort (sPort 2) 0) ∧ hasRoute (sPort 2) 0 9 = true ∧ transit.ttl ≠ 0
    ∧ sessionsTo (sPort 2) 0 9 = [383] ∧ sessionsTo (sPort 2 0) 0 9 = [] ∧ hasRoute ready 0 9 = false ∧ ({ transit with ttl := 0 }).ttl = 0
    ∧ (∃ x ∈ { ready with fabWait := [(0, 9, fabT)] }.fabWait, x.1 = 0 ∧ x.2.1 = 9)
    ∧ (∀ w ∈ (sPort 2).fabWait, w.1 ≠ partOfFPort (sPort 2) 0) ∧ flowSess (sPort 2) 9 fabT = some 383 ∧ (sess (sPort 2) 383).tx < 2 ^ 48 - 1
    ∧ replayBytes (sPort 2) (383 / 32) + frameBytes (sPort 2) fabT ≤ 2 ^ 20
    ∧ portUp { sPort 2 with safe := true } 11 = true ∧ (∀ k ∈ portSessions 11, (sess { sPort 2 with safe := true } k).link < 2 ^ 48 - 1)
    ∧ sessRuns (sPort 2) 383 = true := by decide +kernel

/-- 127 frames of 8,192 bytes fill the replay buffer of port 11. -/
def sReplay : State := setSess (wr (sPort 2) 0 R.FAB_CTRL_MAX_PAYLOAD 3) 383
  { unacked := List.replicate 127 ⟨0, 0, { fabT with msg := ⟨0, .frame { transit with ttl := 0, body := List.replicate 8192 0 }⟩ }⟩ }

theorem test_routing_full_premises : sessionsTo sReplay 0 9 = [383] ∧ (sess sReplay 383).tx < 2 ^ 48 - 1 ∧ (∀ w ∈ sReplay.fabWait, w.1 ≠ 0)
    ∧ flowSess sReplay 9 fabT = some 383 ∧ 2 ^ 20 < replayBytes sReplay (383 / 32) + frameBytes sReplay fabT := by decide +kernel

/-- The last slot: an all-reduce of four FP32 elements in cluster memory 31 over nodes 0 and 9. -/
def sColl (st : Nat) (kind : Nat := 1) : State := { put (sramWrite (sPort 2) (clmKey 31 64) [0, 0, 9, 0]) [(0, R.HBM_KEY_STATE_STATE, 1, 0), (0, R.COLL_SLOT_KIND, kind, 63),
    (0, R.COLL_SLOT_RANK_CNT, 2, 63), (0, R.COLL_SLOT_GROUP_ADDR, 2 ^ 60 + 31 * 2 ^ 24 + 64, 63), (0, R.COLL_SLOT_BUF_ADDR, 2 ^ 60 + 31 * 2 ^ 24, 63),
    (0, R.COLL_SLOT_ELEM_CNT, 4, 63), (0, R.COLL_SLOT_GROUP_ID, 65535, 63), (0, R.COLL_SLOT_DONE_NAME, 4095, 63), (0, R.COLL_SLOT_CSTATE, st, 63)]
  with colls := [(63, { digest := 7, next := 9, input := List.replicate 16 0 })] }
/-- The same slot with its list in stack 0, which a traffic generator drives. -/
def sCollHbm : State := wr (wr (sColl 0) 0 R.COLL_SLOT_GROUP_ADDR 0 63) 4 R.TG_CTRL_RUNNING 1 0
/-- The same with no generator and no key. -/
def sCollNoKey : State := wr (wr (sColl 0) 0 R.COLL_SLOT_GROUP_ADDR 0 63) 0 R.HBM_KEY_STATE_STATE 0
def seg (chunk : Nat) : Segment := ⟨65535, 7, chunk, 1, true, [0, 0, 0x80, 0x3F]⟩

theorem test_collective_setup_premises : CtrlWrite (sColl 0) ⟨0, 0x504FC0, 4, 0x40001⟩ 0 ∧ 0x504FC0 = 0x504000 + 64 * 63 ∧ collState (sColl 0) 0 63 = 0
    ∧ bitAt 0x40001 18 = true ∧ bitAt 0x40001 19 = false ∧ armList (collWord (sColl 0) 0 ⟨0, 0x504FC0, 4, 0x40001⟩) 0 63 = some [0, 0, 9, 0]
    ∧ armList (collWord (sColl 0) 0 ⟨0, 0x504FC0, 4, 0x40004⟩) 0 63 = none ∧ collState (sColl 1) 0 63 = 1 ∧ bitAt 0x80001 19 = true ∧ bitAt 0x80001 18 = false
    ∧ running (sColl 2) 0 = true ∧ collState (sColl 2) 0 63 = 2
    ∧ armWaits (collWord (sColl 0) 0 ⟨0, 0x504FC0, 4, 0x40001⟩) 0 63 = false ∧ armFault (collWord (sColl 0) 0 ⟨0, 0x504FC0, 4, 0x40004⟩) 0 63 = none
    ∧ armWaits (collWord sCollHbm 0 ⟨0, 0x504FC0, 4, 0x40001⟩) 0 63 = true
    ∧ armWaits (collWord sCollNoKey 0 ⟨0, 0x504FC0, 4, 0x40001⟩) 0 63 = false ∧ armList (collWord sCollNoKey 0 ⟨0, 0x504FC0, 4, 0x40001⟩) 0 63 = none
    ∧ armFault (collWord sCollNoKey 0 ⟨0, 0x504FC0, 4, 0x40001⟩) 0 63 = some K.HBM_KEY_ABSENT := by decide +kernel

theorem test_collective_premises : (∀ kind ∈ [1, 3], running (sColl 1 kind) 0 = true ∧ CanReach (sColl 1 kind) 0 (collRun (sColl 1 kind) 0 63).next
      ∧ resolveName (sColl 1 kind) 0 (BitVec.ofNat 32 (rd (sColl 1 kind) 0 R.COLL_SLOT_TRIG_NAME 63)) = .ctr (.die 0 0)
      ∧ waitMet (sColl 1 kind) (.die 0 0) (BitVec.ofNat 32 (rd (sColl 1 kind) 0 R.COLL_SLOT_TRIG_TGT 63)) = true ∧ (collOf (sColl 1 kind) 0 63).decode = false
      ∧ 1 < (collOf (sColl 1 kind) 0 63).n ∧ (collRun (sColl 1 kind) 0 63).early = []
      ∧ devTgBusy (sColl 1 kind) (devSpace (sColl 1 kind) 0 (collOf (sColl 1 kind) 0 63).input.1) (collOf (sColl 1 kind) 0 63).input.2 = false
      ∧ devTgBusy (sColl 1 kind) (devSpace (sColl 1 kind) 0 (collOf (sColl 1 kind) 0 63).buf) 16 = false
      ∧ spaceKeyed (sColl 1 kind) 0 (collOf (sColl 1 kind) 0 63).input.1 = none
      ∧ devRead (sColl 1 kind) (devSpace (sColl 1 kind) 0 (collOf (sColl 1 kind) 0 63).input.1) (collOf (sColl 1 kind) 0 63).input.2 []
        = (List.replicate (collOf (sColl 1 kind) 0 63).input.2 0, none))
    ∧ (∀ st ∈ [1, 2], (List.range 64).find? (fun j => (collState (sColl st) 0 j == 1 || collState (sColl st) 0 j == 2)
        && rd (sColl st) 0 R.COLL_SLOT_GROUP_ID j == (seg 1).groupId.toNat) = some 63 ∧ (seg 1).digest = (collRun (sColl st) 0 63).digest)
    ∧ (seg 1).reduce = true ∧ (seg 1).chunk ≠ (collOf (sColl 2) 0 63).rank ∧ 1 = (seg 1).data.length / 4 ∧ (seg 1).off + 1 ≤ (collOf (sColl 2) 0 63).count 1
    ∧ collComplete (collOf (sColl 2) 0 63) { collRun (sColl 2) 0 63 with got := [(true, 1, 0, 2), (true, 0, 0, 2), (false, 0, 0, 2), (false, 1, 0, 2)] } = true
    ∧ resolveName (sColl 2) 0 (BitVec.ofNat 32 (rd (sColl 2) 0 R.COLL_SLOT_DONE_NAME 63)) = .ctr (.die 0 4095) := by decide +kernel
/-! ### Resilience, reset, host ports -/

/-- Watch slot 3 of node 9 in a state, over a log area of 64 KiB that ends stack 23's data. -/
def sWatch (ws : Nat) : State := put sContrib [(0, R.RS_CTRL_RS_EN, 1, 0), (0, R.WS_CFG_NODE, 9, 3), (0, R.WS_CFG_WSTATE, ws, 3), (0, R.WS_CFG_MODE, 1, 3),
  (0, R.WS_LOG_BASE_BASE, 23 * 2 ^ 36 + 0xFFC000000 - 65536, 3), (0, R.WS_LOG_SIZE_SIZE, 65536, 3)]
def copyOf (n : Nat) : CopyMsg := ⟨BitVec.ofNat 12 n, 1, 9, [], some contrib⟩

theorem test_watch_premises : ctrlAccess (sWatch 0) 0 = some 0 ∧ bitsOf 0x1009 12 2 ≠ 0 ∧ bitsOf 9 12 2 = 0 ∧ wstate (sWatch 0) 0 3 = 0 ∧ logArea (sWatch 0) 0 3 = true
    ∧ wstate (sWatch 1) 0 3 ≠ 0 ∧ running (sWatch 1) 0 = true ∧ slotOf (sWatch 1) 0 9 = some 3 ∧ rsEnabled (sWatch 1) 0 = true
    ∧ stacksFree (sWatch 1) 0 = true ∧ stacksFree (sWatch 2) 0 = true ∧ mapFind (sWatch 1).seedFrom (4 * 0 + 3) = none ∧ contrib.fwd = false ∧ CanReach (sWatch 1) 0 contrib.srcNode.toNat
    ∧ (wlog (sWatch 1) 0 3 ++ [copyOf 9]).foldl (fun a x => a + copySize (sWatch 1) 0 x) 0 ≤ rd (sWatch 1) 0 R.WS_LOG_SIZE_SIZE 3
    ∧ rd (wr (sWatch 1) 0 R.WS_LOG_SIZE_SIZE 128 3) 0 R.WS_LOG_SIZE_SIZE 3 < (wlog (sWatch 1) 0 3 ++ [copyOf 9]).foldl (fun a x => a + copySize (sWatch 1) 0 x) 0
    ∧ slotOf (sWatch 1) 0 8 = none ∧ wstate (sWatch 2) 0 3 = 2
    ∧ (replayWindow (sWatch 2) 0 3 0 0 (wlog (sWatch 2) 0 3)).2 = true
    ∧ (replayRest (replayWindow (sWatch 2) 0 3 0 0 (wlog (sWatch 2) 0 3)).1 0 3 0 (wlog (sWatch 2) 0 3)).isSome = true
    ∧ keyLoaded (wr (sWatch 1) 0 R.HBM_KEY_STATE_STATE 1) 0 = true ∧ keyLoaded (wr (sWatch 1) 0 R.HBM_KEY_STATE_STATE 2) 0 = false
    ∧ mapGet 0 { sWatch 2 with seedFrom := [(3, 5)], watch := [(3, [⟨9, 3, 7, [], none⟩])] }.seedFrom (4 * 0 + 3) = 5
    ∧ (replayWindow (sWatch 2) 0 3 5 7 [⟨9, 3, 7, [], none⟩]).2 = false := by decide +kernel

/-- A drive image whose ring ends with the seal of epoch 1, step 0. -/
def image : DriveImage := { ok := true, sb0 := some ⟨1, 0, false, 0, 0, 4096, true⟩, bases := [(0, [.image 0 0 [7]])]
                            ring := [⟨4096, true, .image 0 4096 [7]⟩, ⟨4096, true, .seal 1 0⟩] }
def sDrive (js : Nat) (s : State := held9) : State := { put s [(0, R.JNL_STATUS_JSTATE, js, 0), (4, R.LP_STATUS_DRIVE_READY, 1, 0), (4, R.LP_STATUS_FMT_OK, 1, 0),
    (0, R.HBM_KEY_STATE_STATE, 1, 0), (0, R.JNL_BASE_LEN_LEN, 1024, 0), (0, R.JNL_BASE_LBA1_LBA, 1024, 0), (0, R.JNL_RING_LBA_LBA, 4096, 0),
    (0, R.JNL_RING_LEN_LEN, 4, 0), (0, R.WIN_CFG_VALID, 1, 255), (0, R.WIN_CFG_RD, 1, 255), (0, R.WIN_SIZE_SIZE, 2 ^ 40, 255), (0, R.EXP_CTRL_WINDOW, 255, 0)]
  with drives := [(0, image)], jobs := [(0, job)], staging := [(0, [.seal 2 1])] }
/-- A certificate for dead node 9, step 0, SEQ 1. -/
def certB : List Byte := leBytes 8 0 ++ leBytes 2 9 ++ leBytes 2 0 ++ List.replicate 16 0 ++ leBytes 4 1 ++ List.replicate 224 0
def sMirror : State := { put (sWatch 3) [(0, R.PART_CFG_PART_STATE, 1, 0)] with certs := [(0, certB)] }

theorem test_recovery_premises : ctrlAccess ready 0 = some 0 ∧ isReady ready 0 = true ∧ RsAdmitted held9 0 0 ∧ drive (sDrive 0) 0 = some image ∧ driveReady (sDrive 0) 0 = true
    ∧ RsAdmitted (sDrive 0) 0 0 ∧ keyLoaded (sDrive 0) 0 = true
    ∧ sealedImages (sDrive 0) 0 image (fun _ c => c == rd (sDrive 0) 0 R.RS_CMD_STEP_STEP)
        = some ([.image 0 0 [7], .image 0 4096 [7], .seal 1 0], 1, 0)
    ∧ sealedImages (sDrive 0) 0 image (fun _ _ => true) = some ([.image 0 0 [7], .image 0 4096 [7], .seal 1 0], 1, 0)
    ∧ (∀ w ∈ [none, some 3], (applyImages (sDrive 0) 0 w [.image 0 0 [7], .image 0 4096 [7], .seal 1 0]).2 = true)
    ∧ keyLoaded (put (sWatch 1) [(0, R.PART_CFG_PART_STATE, 1, 0)]) 0 = true ∧ stacksFree ready 0 = true
    ∧ RsAdmitted (put (sWatch 1) [(0, R.PART_CFG_PART_STATE, 1, 0)]) 0 0 ∧ wstate (sWatch 1) 0 3 = 1 ∧ rd (sWatch 1) 0 R.WS_CFG_MODE 3 = 1
    ∧ mapFind sMirror.certs 0 = some certB ∧ certSource certB = 0 ∧ bitAt (certFlags certB) 1 = false ∧ wstate sMirror 0 3 = 3 ∧ RsAdmitted sMirror 0 0
    ∧ denseHeld sMirror 0 (rd sMirror 0 R.WS_DENSE_STEP 3) (certStep certB) = true ∧ rd sMirror 0 R.WS_APPLIED_STEP 3 = certStep certB
    ∧ rdb ready 0 R.RS_STATUS_CMD_BUSY = false ∧ isHold ready 0 = false
    ∧ (certRead (wr ready 0 R.TK_CERT_ADDR_ADDR (sp 0)) 0 [] .none).2.toOption = some (List.replicate 256 0)
    ∧ (certRead (wr ready 0 R.TK_CERT_ADDR_ADDR (sp 8)) 0 [] .none).2.isOk = false
    ∧ certSigned ready 0 (List.replicate 256 0) = false ∧ certReserved certB = true := by decide +kernel

theorem test_journal_premises : ctrlAccess (sDrive 0) 0 = some 0 ∧ jstate (sDrive 0) 0 = 0 ∧ driveReady (sDrive 0) 0 = true ∧ drive (sDrive 0) 0 = some image ∧ image.ok = true
    ∧ jobSb (sDrive 0) 0 image = image.sb0 ∧ (jobSb (sDrive 0) 0 image).isSome = true ∧ mapFind (sDrive 0).jobs 0 = some job
    ∧ sealOf (sDrive 0) 0 ⟨1, 0, false, 0, 0, 4096, true⟩ = (1, 0) ∧ stacksFree (sDrive 0) 0 = true ∧ keyLoaded (sDrive 0) 0 = true
    ∧ listRegions (sDrive 0) 0 = ([], none) ∧ recsSize (baseImage (sDrive 0) 0 []) ≤ 4096 * rd (sDrive 0) 0 R.JNL_BASE_LEN_LEN
    ∧ currentSb image = image.sb0 ∧ ringFull75 (sDrive 1) 0 = false ∧ ringFull75 (wr (sDrive 1) 0 R.JNL_RING_LEN_LEN 1) 0 = true
    ∧ 0 ∈ { sDrive 3 with compacting := [0] }.compacting ∧ image.bases.head? = some (0, [.image 0 0 [7]])
    ∧ checkWindow (sDrive 0) 0 (rd (sDrive 0) 0 R.EXP_CTRL_WINDOW) (rd (sDrive 0) 0 R.EXP_OFF_OFF) ([] : List Nat).sum false = none
    ∧ (sDrive 1).safe = false ∧ (∀ js ∈ [1, 2, 3], jstate (sDrive js) 0 = js) ∧ firstSeal (staged (sDrive 1) 0) = some ([.seal 2 1], (2, 1), [])
    ∧ journals (sDrive 1) 0 = true ∧ sessPart ready (32 * 11 + 31) = 0 := by decide +kernel

theorem test_journal_refused_premises : jstate (wr (sDrive 0) 4 R.LP_STATUS_FMT_OK 0) 0 = 0
    ∧ rd (wr (sDrive 0) 4 R.LP_STATUS_FMT_OK 0) 4 R.LP_STATUS_DRIVE_READY (journalPort (sDrive 0) 0) = 1
    ∧ rd (wr (sDrive 0) 4 R.LP_STATUS_FMT_OK 0) 4 R.LP_STATUS_FMT_OK (journalPort (sDrive 0) 0) = 0
    ∧ stacksFree (wr (sDrive 0) 4 R.LP_STATUS_FMT_OK 0) 0 = true ∧ ({ sDrive 1 with safe := true }).safe = true
    ∧ firstSeal (staged { sDrive 1 with safe := true } 0) = some ([.seal 2 1], (2, 1), []) ∧ journals { sDrive 1 with safe := true } 0 = true
    ∧ frozen (sDrive 0) 0 = false := by decide +kernel

/-- HP3 controls partition 3. -/
def sFour : State := { ready with mode := .pm4 }

theorem test_partition_reset_premises : ctrlAccess (wr sFour 4 R.HP_STATUS_LINK_UP 1 3) 3 = some 3 ∧ ctrlAccess ready 0 = some 0
    ∧ (∀ q, q < 256 → hqState (put ready ((List.range 256).map (fun q => (0, R.Q_STATE_QSTATE, 2, q)))) 0 q = 2)
    ∧ modeCode ready.mode ≠ 2 ∧ rdb ready 4 R.HP_STATUS_LINK_UP 0 = true ∧ ready.safe = false
    ∧ rdb ready (portPart ready 0) R.PART_CTRL_RESET_BUSY = false ∧ portRole ready 0 = 0 ∧ 0 ∉ ready.d3hot
    ∧ rdb (wr held9 0 R.PART_CTRL_RESET_BUSY 1) 0 R.PART_CTRL_RESET_BUSY = true ∧ rdb held9 0 R.SD_CFG_SD_EN = false
    ∧ frozen (wr ready 0 R.ST_FREEZE_FSTATE 2) 0 = true ∧ frozen ready 0 = false ∧ portRole (wr ready 0 R.ST_FREEZE_FSTATE 2) 0 = 0
    ∧ recovering ready = false ∧ rdb ready 0 R.PART_CTRL_RESET_BUSY = false := by decide +kernel

def sResume : State := wr held9 0 R.HBM_KEY_STATE_STATE 1

theorem test_resume_premises : ctrlAccess sResume 0 = some 0 ∧ isHold sResume 0 = true ∧ rd sResume 0 R.HBM_KEY_STATE_STATE = 1
    ∧ rd sResume 4 R.HP_STATUS_LINK_UP (ctrlPort sResume 0) = 1 ∧ rd sResume 0 R.PART_CTRL_SCRUB_BUSY ≠ 1 ∧ (∀ r ∈ sResume.recs, r.cls = 2 → 0 ∉ r.unacked)
    ∧ rdb sResume 0 R.SD_CFG_SD_EN = false ∧ rd held9 0 R.HBM_KEY_STATE_STATE ≠ 1 ∧ rd (wr sResume 0 R.PART_CTRL_SCRUB_BUSY 1) 0 R.PART_CTRL_SCRUB_BUSY = 1
    ∧ rd (wr sResume 4 R.HP_STATUS_LINK_UP 0) 4 R.HP_STATUS_LINK_UP ≠ 1 := by decide +kernel

/-- Window 255 of port 0 may be opened for reads of the whole address space. -/
def sWin (valid : Nat) : State := wr (wr ready 0 R.WIN_SIZE_SIZE (2 ^ 48 - 1) 255) 0 R.WIN_CFG_VALID valid 255
def winA (v : Nat) : Access := ⟨0, 0x101000 + 32 * 255, 8, BitVec.ofNat 64 v⟩
/-- Storage port 3 with its drive up. -/
def sLp (up : Nat) : State := put ready [(4, R.LP_CTRL_EN, 1, 3), (4, R.LP_CTRL_EN, 1, 0), (4, R.LP_STATUS_LINK_UP, up, 3)]

theorem test_host_port_premises : portTrains ready 3 = true ∧ (∀ v, v < 2 → PortWrite (sWin v) (winA 12) 0) ∧ rd (sWin 0) 0 R.WIN_CFG_VALID 255 = 0
    ∧ rdb (sWin 0) 0 R.WIN_CFG_VALID 255 = false ∧ rd (sWin 0) 0 R.WIN_CFG_OWNER 255 = 0 ∧ bitsOf 12 0 2 = 0 ∧ bitAt 12 2 = true ∧ (bitAt 12 3 || bitAt 12 4) = true
    ∧ bitAt 12 7 = false ∧ rd (sWin 0) 0 R.WIN_SIZE_SIZE 255 ≠ 0 ∧ rd (sWin 0) 0 R.WIN_BASE_BASE 255 * 4096 + rd (sWin 0) 0 R.WIN_SIZE_SIZE 255 ≤ 2 ^ 64
    ∧ rdb (sWin 1) 0 R.WIN_CFG_VALID 255 = true ∧ bitAt 0 2 = false ∧ ctrlAccess (sLp 0) 0 = some (partOfLPort (sLp 0) 3)
    ∧ (sLp 0).safe = false ∧ rdb (sLp 0) 4 R.LP_CTRL_EN 3 = true ∧ rdb (sLp 1) 4 R.LP_STATUS_LINK_UP 3 = true
    ∧ rdb (sLp 0) 4 R.LP_CTRL_EN = true ∧ journalPort (sLp 0) (partOfLPort (sLp 0) 0) = 0 := by decide +kernel
/-! ### Queues -/

/-- Queue 255 of port 0 in a state, with a ring of 2^log2 entries; window 255 is open for reads and writes. -/
def sQ (st log2 : Nat) (h : HQueue := {}) : State := { put ready [(0, R.Q_STATE_QSTATE, st, 255), (0, R.Q_CFG_LOG2_SIZE, log2, 255), (0, R.Q_SQ_STATUS_SQ_TAIL, 1, 255),
    (0, R.Q_SQ_STATUS_EXP_PHASE, 1, 255), (0, R.Q_CQ_STATUS_CQ_PHASE, 1, 255), (0, R.WIN_CFG_VALID, 1, 255), (0, R.WIN_CFG_RD, 1, 255), (0, R.WIN_CFG_WR, 1, 255),
    (0, R.WIN_SIZE_SIZE, 2 ^ 40, 255), (0, R.CQ_BASE_BASE, 1, 255), (0, R.Q_CFG_IRQ_EN, 1, 255), (0, R.HBM_KEY_STATE_STATE, 1, 0)] with hqueues := [(255, h)] }
def qA (v : Nat) : Access := ⟨0, 0x110000 + 64 * 255, 4, BitVec.ofNat 64 v⟩

theorem test_queue_setup_premises : (∀ l ∈ [1, 16], QueueWord (sQ 2 l) (qA (1 + 8 * l)) 0 255 ∧ qOwner (sQ 2 l) 0 255 = 0 ∧ hqState (sQ 2 l) 0 255 = 2
      ∧ bitsOf (1 + 8 * l) 3 5 = l ∧ portUsable (sQ 2 l) 0 = true ∧ rd (wr (sQ 2 l) 0 R.CQ_BASE_BASE 1024 255) 0 R.SQ_BASE_BASE 255 * 4096 + 64 * 2 ^ l
        ≤ rd (wr (sQ 2 l) 0 R.CQ_BASE_BASE 1024 255) 0 R.CQ_BASE_BASE 255 * 4096)
    ∧ QueueWord (sQ 1 1) (qA 0) 0 255 ∧ hqState (sQ 1 1) 0 255 ≠ 2 ∧ portRole (sQ 1 1) 0 = 0 ∧ (sQ 2 1).mode = .pm1
    ∧ 0 ∉ (sQ 1 1).mseOff ∧ ideBlocked (sQ 1 1) 0 = false ∧ rdb (sQ 1 1) 0 R.PART_CTRL_RESET_BUSY = false ∧ 1 < ringLen (sQ 1 1) 0 255
    ∧ MayFetch (sQ 0 1) 0 255 ∧ (hq (sQ 0 1) 0 255).rereads = 0 ∧ descMatches (sQ 0 1) 0 255 (leBytes 64 257) = true
    ∧ descMatches (sQ 0 1) 0 255 (leBytes 64 1) = false ∧ (∀ k ∈ [1, 7, 8], MayFetch (sQ 0 1 { rereads := k }) 0 255 ∧ (hq (sQ 0 1 { rereads := k }) 0 255).rereads = k)
    ∧ rdb (sQ 0 1) 0 R.Q_CFG_IRQ_EN 255 = true ∧ 0 < (hq (sQ 0 1 { counted := 1 }) 0 255).counted
    ∧ frozen (sQ 1 1) 0 = false ∧ recovering (sQ 1 1) = false ∧ frozen (wr (sQ 1 1) 0 R.ST_FREEZE_FSTATE 2) 0 = true := by decide +kernel

def win (o : Nat) : Nat := 3 * 2 ^ 60 + 255 * 2 ^ 48 + o
def clm (o : Nat) : Nat := 2 ^ 60 + 31 * 2 ^ 24 + o
/-- A descriptor with its operation, SRC, DST, LEN and ARG0, and a signal of counter 4095 of die 0. -/
def qd (opc src dst len arg0 : Nat) (flags : Nat := 0) : QDesc := { idx := 0, bytes := leBytes 64 (opc + (1 + flags) * 2 ^ 8 + src * 2 ^ 64 + dst * 2 ^ 128 + len * 2 ^ 192
  + (if flags = 0 then 0 else 4095 * 2 ^ 224 + 2 ^ 256) + arg0 * 2 ^ 288) }
def sD (d : QDesc) : State := sramWrite (sQ 0 4 { descs := [d] }) (imemKey 255 65532) (leBytes 4 (encI 2 0 0 0))
def dNop : QDesc := qd 1 0 0 0 0
def dInput : QDesc := qd 2 (win 0) (clm 0) 64 0
def dOutput : QDesc := qd 3 (clm 0) (win 0) 64 0
def dWait (x : Nat) : QDesc := qd 4 0 0 0 (4095 + x * 2 ^ 32)
def dLoad : QDesc := qd 5 (clm 0) 0 0 (255 + 1023 * 2 ^ 16 + 2 ^ 32)
def dStart : QDesc := qd 6 0 0 0 (255 + 16383 * 2 ^ 16)
def dDone : QDesc := { qd 3 (clm 0) (win 0) 64 0 16 with started := true, finished := true }
/-- A finished OUTPUT with FLUSH that wrote through port 0. -/
def dFlush : QDesc := { qd 3 (clm 0) (win 0) 64 0 4 with started := true, finished := true, wrote := [(0, 60)] }

theorem test_queue_operation_premises : (∀ x ∈ [(1, dNop), (2, dInput), (3, dOutput), (4, dWait 0), (4, dWait 1), (5, dLoad), (6, dStart)], DescStarts (sD x.2) 0 255 x.1 x.2)
    ∧ devTgBusy (sD dInput) (devSpace (sD dInput) 0 dInput.dst) 64 = false ∧ dInput.len = 64 ∧ planned (sD dInput) 0 = false
    ∧ planned { sD dInput with plans := [(0, ⟨0, false, []⟩)] } 0 = true
    ∧ devRead (sD dInput) (devSpace (sD dInput) 0 dInput.src) 64 (List.replicate 64 7) = (List.replicate 64 7, none)
    ∧ (devWrite (sD dInput) 0 (devSpace (sD dInput) 0 dInput.dst) (List.replicate 64 7)).2 = none
    ∧ devRead (sD dOutput) (devSpace (sD dOutput) 0 dOutput.src) 64 [] = (List.replicate 64 0, none)
    ∧ (devWrite (sD dOutput) 0 (devSpace (sD dOutput) 0 dOutput.dst) (List.replicate 64 0)).2 = none
    ∧ runningWait (sD (dWait 0)) 0 255 = none ∧ waitCtr (sD (dWait 0)) 0 (dWait 0) = some (.die 0 4095) ∧ waitHolds (sD (dWait 0)) 0 (dWait 0) = true
    ∧ runningWait (sD { dWait 1 with started := true }) 0 255 = some { dWait 1 with started := true } ∧ clocked (sD (dWait 1)) 0 = true
    ∧ waitHolds (sD (dWait 1)) 0 (dWait 1) = false
    ∧ tileState (sD dLoad) (dLoad.arg0 % 256) = 0 ∧ rdb (sD dLoad) 4 R.TILE_STATUS_LOADING (dLoad.arg0 % 256) = false
    ∧ devRead (sD dLoad) (devSpace (sD dLoad) 0 dLoad.src) (64 * bitsOf dLoad.arg0 32 16) [] = (List.replicate 64 0, none)
    ∧ opcodeDefined (fetchWord (sD dStart) (dStart.arg0 % 256) (bitsOf dStart.arg0 16 14) / 2 ^ 26) = true ∧ isReady (sD dStart) 0 = true := by decide +kernel

theorem test_queue_completion_premises : findDesc (sD dDone) 0 255 0 = some dDone ∧ mayComplete (hq (sD dDone) 0 255).descs dDone = true ∧ dDone.opc ≠ 2 ∧ dDone.late = none ∧ flushPorts (sD dDone) 0 255 dDone = []
    ∧ portUsable (sD dDone) (qOwner (sD dDone) 0 255) = true ∧ (hq (sD dDone) 0 255).held = [] ∧ cqRoom (sD dDone) 0 255 ≠ 0 ∧ dDone.flag 4 = true
    ∧ resolveName (sD dDone) 0 (BitVec.ofNat 32 (dDone.f 28 4)) = .ctr (.die 0 4095) ∧ dNop.flag 4 = false
    ∧ (tile (sD dLoad) (dLoad.arg0 % 256)).loadWaits = [] ∧ devTgBusy (sD dLoad) (devSpace (sD dLoad) 0 dLoad.src) (64 * bitsOf dLoad.arg0 32 16) = false
    ∧ devTgBusy (sD dOutput) (devSpace (sD dOutput) 0 dOutput.src) 64 = false ∧ rdb (sD dStart) 4 R.TILE_STATUS_LOADING (dStart.arg0 % 256) = false
    ∧ findDesc (sD dFlush) 0 255 0 = some dFlush ∧ mayComplete (hq (sD dFlush) 0 255).descs dFlush = true ∧ dFlush.opc = 3 ∧ dFlush.loading = none
    ∧ flushPorts (sD dFlush) 0 255 dFlush ≠ [] ∧ (∀ l ∈ [[0], [0, 1]], (hq (sD { dFlush with flushing := true, flushWait := l }) 0 255).descs.find? (fun x => x.idx == 0 && x.flushWait.contains 0)
        = some { dFlush with flushing := true, flushWait := l }) ∧ [0].filter (· != 0) = [] ∧ [0, 1].filter (· != 0) ≠ []
    ∧ (sD dFlush).safe = false ∧ rdb (sD dFlush) 4 R.HP_STATUS_LINK_UP 0 = true ∧ clocked (sD dDone) 0 = true
    ∧ vecMasked (sQ 0 1) (qOwner (sQ 0 1) 0 255) (rd (sQ 0 1) 0 R.Q_CFG_VECTOR 255) = true
    ∧ vecMasked { sQ 0 1 with msix := [(2048 * 0 + 3, 0)] } 0 (rd (sQ 0 1) 0 R.Q_CFG_VECTOR 255) = false
    ∧ (∀ x ∈ flushPorts (sD dFlush) 0 255 dFlush, portUsable (sD dFlush) x.1 = true)
    ∧ (∀ x ∈ flushPorts (sD dFlush) 0 255 dFlush, portUsable (wr (sD dFlush) 4 R.HP_STATUS_BME 0) x.1 = false) ∧ frozen (sD dFlush) 0 = false := by decide +kernel
/-! ### Security, collector, boot, power, freeze, debug, register writes -/

/-- Partition 0 in HOLD with a job, or without. -/
def sJob (j : Bool) : State := { wr held9 0 R.SEC_CMD_ADDR_ADDR (sp 0) with jobs := if j then [(0, job)] else [] }
def sRec : State := put held9 [(4, R.BOOT_STATUS_STAGE, 14, 0), (4, R.REC_CTRL_REC_WAIT, 1, 0)]
def facts (a b c d e f : Bool) : BootFacts := ⟨a, b, c, d, 0, false, true, ⟨false, [], []⟩, [], e, f, [], 800, true⟩

theorem test_security_premises : SecOk held9 0 0 ∧ isHold held9 0 = true ∧ SecOk ready 0 0 ∧ isHold ready 0 = false ∧ jobGate (sJob false) 0 true = none
    ∧ (secBlob (sJob false) 0 (blobAt (sJob false) 0) 512 [] .none).2.isOk = true ∧ jobGate (sJob true) 0 false = none ∧ (secBlob (sJob true) 0 (blobAt (sJob true) 0) 256 [] .none).2.isOk = true
    ∧ (secBlob (wr (sJob true) 0 R.SEC_CMD_ADDR_ADDR 1) 0 1 256 [] .none).2.isOk = false ∧ rdb sRec 4 R.REC_CTRL_REC_BUSY = false
    ∧ mapFind { ready with secRun := [(0, ⟨1, 0, 0⟩)] }.secRun 0 = some ⟨1, 0, 0⟩ ∧ held held9 0 = true
    ∧ rdb held9 4 R.SEC_STATUS_OWNER_ENROLLED = false ∧ rd held9 4 R.SEC_STATUS_IMAGE_SVN < 128 ∧ SecOk { ready with mode := .pm4 } 3 3
    ∧ sRec.safe = false ∧ recovering sRec = true ∧ rdb sRec 4 R.REC_CTRL_REC_WAIT = true ∧ portUsable sRec 0 = true ∧ ([] : List Byte).length = rd sRec 4 R.REC_LEN_LEN
    ∧ imageCheck sRec [] ≠ 0 ∧ imageCheck sRec [] < 256 ∧ spdmLive ready = true ∧ mapGet 0 { ready with spdm := [(0, 3)] }.spdm 0 = 3
    ∧ (∀ b ∈ [false, true], (ideStream (setIdeStream ready 0 b { secure := true }) 0 b).secure = true) ∧ portRole ready 0 ≠ 2 ∧ isReady ready (portPart ready 0) = true
    ∧ unpowered State.reset = true ∧ (facts false true true true true true).vordaustOk = true ∧ (facts false true true true true true).railsOk = true
    ∧ sRec.mfgTest = false ∧ (ideStream ready 0 false).secure = false ∧ ready.mfgTest = false := by decide +kernel

def f1 : FaultMsg := ⟨0x7F, 1, 1, some 0, 0, 0⟩
def sFault (l : List Scope) : State := { ready with faultQ := [⟨f1, [7]⟩], scopes := l, recs := [⟨0, 0, 1, 1, 1, false, false, 0, 0, [0], 5, 0, [], [0], []⟩] }
def sInj : State := wr ready 0 R.SEC_STATUS_DBG_AUTH 1

theorem test_collector_premises : takeOut f1 (sFault []).faultQ = some (⟨f1, [7]⟩, []) ∧ mapGet 0 (sFault []).lostRecs 0 = 0 ∧ lowestFree (sFault []) 0 1008 = some 1
    ∧ scopeAt (sFault []) 1 0x7F = none ∧ scopeAt (sFault [⟨1, 0x7F, true⟩]) 1 0x7F = some ⟨1, 0x7F, true⟩ ∧ scopeAt (sFault [⟨1, 0x7F, true⟩]) 2 0 = none
    ∧ isReady (sFault []) 0 = true ∧ ctrlAccess (sFault []) 0 = some 0 ∧ rdb ready 0 R.FC_RING_CFG_FR_EN = false
    ∧ (∀ l ∈ [4, 12], bitsOf (1 + 2 * l) 1 4 = l ∧ rd ready 0 R.FC_RING_BASE_FR_BASE * 4096 + 32 * 2 ^ l ≤ 2 ^ 64 ∧ ((1 + 2 * BitVec.ofNat 32 l : Half)).getLsbD 0 = true)
    ∧ rdb ready 4 R.HP_STATUS_LINK_UP (ctrlPort ready 0) = true ∧ bitsOf 7 1 4 = 3 ∧ dbgAuth sInj 0 = true ∧ sourceOwner sInj 0 0 = some (some 0) := by decide +kernel

/-- A store whose owner's IDE requirement is set for partition 3. -/
def sStoreCmd (arg : Nat) : State := { put held9 [(0, R.CS_ARG_ARG, arg, 0), (4, R.SEC_STATUS_OWNER_ENROLLED, 1, 0), (4, R.CS_STATUS_COMPACTING, 1, 0)] with store := [⟨4, 0, [8]⟩] }

theorem test_boot_and_store_premises : unpowered State.reset = true ∧ unpowered ready = false ∧ flashCheck State.reset (facts false true true true true true) = 0
    ∧ flashCheck State.reset (facts false true true false true true) ≠ 0 ∧ (∀ q, q < 4 → rdb State.reset q R.SD_CFG_SD_EN = false)
    ∧ (facts false true true true true true).storeOk = true ∧ CsAdmitted held9 ∧ csArg (wr held9 0 R.CS_ARG_ARG (2 + 4 * 3 + 65536 * 4095)) = 2 + 4 * 3 + 65536 * 4095
    ∧ (3 : Nat) < 2 ^ 2 ∧ rdb held9 4 R.SEC_STATUS_OWNER_ENROLLED = false ∧ CsAdmitted (sStoreCmd 7) ∧ inForce (sStoreCmd 7) 4 0 = some ⟨4, 0, [8]⟩
    ∧ bitAt (leNat [(8 : Byte)]) 3 = true ∧ bitAt (csArg (sStoreCmd 7)) 3 = false
    ∧ (∀ v ∈ [1200, 2800], CsAdmitted (sStoreCmd v) ∧ csArg (sStoreCmd v) = v) ∧ csArg (sStoreCmd 1199) < 1200 ∧ 2800 < csArg (sStoreCmd 2801)
    ∧ csArg held9 = 0 ∧ (ctrlAccess { ready with mode := .pm4 } 3).isSome = true ∧ (partsAll ready).all (isHold ready) = false
    ∧ takeWant held9 [(⟨5, 0, leBytes 2 2800⟩, .cmd)] = some ((⟨5, 0, leBytes 2 2800⟩, .cmd), []) ∧ rdb (sStoreCmd 0) 4 R.CS_STATUS_COMPACTING = true
    ∧ rd held9 4 R.BOOT_STATUS_STAGE ≠ 1
    ∧ mapFind ready.secRun 0 = none ∧ csArg (wr held9 0 R.CS_ARG_ARG (2 ^ 32 - 1)) = 2 ^ 32 - 1
    ∧ (facts true true true true true true).mfgTest = true ∧ (facts false true true true true true).mfgTest = false := by decide +kernel

def sCap (l : Nat) : State := { wr (wr ready 4 R.PWR_DIE_CAP_LVL l 3) 0 R.PWR_CAP_CAP_W 2800 with capLow := [(0, 9)] }

theorem test_level_premises : (0 : Nat) < partCount ready.mode ∧ (∀ l ∈ [0, 6, 7], LevelsOk (sCap l)) ∧ capUw (sCap 6) 0 < partPower (sCap 6) 0 2801
    ∧ 100 * partPower (sCap 7) 0 2659 < 95 * capUw (sCap 7) 0 ∧ partPower (sCap 7) 0 2660 ≤ capUw (sCap 7) 0 ∧ 95 * capUw (sCap 7) 0 ≤ 100 * partPower (sCap 7) 0 2660
    ∧ (∀ e ∈ diesOf (sCap 6) 0, rd (sCap 6) 4 R.PWR_DIE_CAP_LVL e < 7 → e ≠ 3 → dieDraw (sCap 6) 0 [1, 2, 3, 4] e < dieDraw (sCap 6) 0 [1, 2, 3, 4] 3)
    ∧ rd (sCap 6) 4 R.PWR_DIE_CAP_LVL 3 < 7 ∧ 9 ≤ mapGet 0 (sCap 7).capLow 0 ∧ (∀ e ∈ diesOf (sCap 7) 0, e ≠ 3 → rd (sCap 7) 4 R.PWR_DIE_CAP_LVL e < rd (sCap 7) 4 R.PWR_DIE_CAP_LVL 3)
    ∧ (∀ k < 93, -32768 ≤ temp [1600, 1681] k ∧ temp [1600, 1681] k ≤ 32767) ∧ throttles 0 0 = true ∧ 1600 ≤ temp [1600, 1681] 0 ∧ 1680 < temp [1600, 1681] 1
    ∧ (∀ k, k < 92 → throttles 3 k = true → temp [1600, 1681] k < 1600)
    ∧ levelMhz (rd (wr ready 4 R.PWR_DIE_EFF_LVL 1 3) 4 R.PWR_DIE_EFF_LVL 3) < rd (wr ready 4 R.PWR_DIE_FREQ_MHZ 1100 3) 4 R.PWR_DIE_FREQ_MHZ 3
    ∧ rd (wr ready 4 R.PWR_DIE_FREQ_MHZ 600 3) 4 R.PWR_DIE_FREQ_MHZ 3 ≤ levelMhz (rd ready 4 R.PWR_DIE_EFF_LVL 3) ∧ rdb ready 4 R.PWR_DIE_AVS_HELD 3 = false
    ∧ mapGet 0 { ready with avsFails := [(12, 2)] }.avsFails (4 * 3) = 2 := by decide +kernel

def sFrz (src fs : Nat) : State := put ready [(0, R.ST_FREEZE_SRC, src, 0), (0, R.ST_FREEZE_FSTATE, fs, 0), (0, R.SEC_STATUS_DBG_AUTH, 1, 0), (0, R.WIN_CFG_VALID, 1, 0),
  (0, R.WIN_CFG_WR, 1, 0), (0, R.WIN_SIZE_SIZE, 2 ^ 40, 0)]

theorem test_freeze_premises : rdb ready 4 R.FRZ_PKG_CTRL_PAIR = false ∧ booted ready = true ∧ (∀ x ∈ [(1, 2), (2, 2), (4, 2), (5, 2)], PlainThaw (sFrz x.1 x.2)
      ∧ rd (sFrz x.1 x.2) 0 R.ST_FREEZE_SRC = x.1 ∧ rdb (sFrz x.1 x.2) 0 R.ST_FREEZE_FORCED = false)
    ∧ bar4Open (sFrz 0 0) 0 = true ∧ dbgAll (sFrz 0 0) = true ∧ rdb (sFrz 0 0) 4 R.FRZ_PKG_CTRL_HELD = false ∧ rd (sFrz 0 0) 0 R.ST_FREEZE_FSTATE ≠ 2
    ∧ dbgAll { sFrz 0 0 with mode := .pm2 } = false ∧ bar4Open { sFrz 0 0 with mode := .pm2 } 0 = true
    ∧ rd (sFrz 2 2) 0 R.DUMP_CTRL_DUMP_WIN = 0 ∧ rdb (sFrz 2 2) 0 R.WIN_CFG_VALID 0 = true ∧ rdb (sFrz 2 2) 0 R.WIN_CFG_WR 0 = true
    ∧ rd (sFrz 2 2) 0 R.DUMP_OFF_OFF % 4096 = 0 ∧ portUsable (sFrz 2 2) (rd (sFrz 2 2) 0 R.WIN_CFG_OWNER 0) = true
    ∧ rd (sFrz 2 1) 0 R.ST_FREEZE_FSTATE = 1 ∧ ctrlAccess (sFrz 4 2) 0 = some 0 ∧ rdb (wr (sFrz 4 2) 0 R.ST_FREEZE_FORCED 1) 0 R.ST_FREEZE_FORCED = true
    ∧ frozen (sFrz 4 2) 0 = true ∧ (sFrz 4 2).safe = false := by decide +kernel

/-- Debug authorised for partition 0; the TAP addresses register 31 of tile 255. -/
def sDbg : State := { wr held9 0 R.SEC_STATUS_DBG_AUTH 1 with tapAddr := BitVec.ofNat 64 (gprOff 255 31) }

theorem test_debug_premises : bar4Open sDbg 0 = true ∧ partOfTile sDbg 255 = portPart sDbg 0 ∧ tilePresent sDbg 255 = true ∧ tileOpen sDbg 255 false = true
    ∧ bar4Open ready 0 = false ∧ tileAccess sDbg 0 255 = true ∧ dbgAuth sDbg (partOfTile sDbg 255) = true ∧ accOpen sDbg 255 = true
    ∧ rd (wr sDbg 4 R.ACC_DBG_ADDR_WORD 32767 255) 4 R.ACC_DBG_ADDR_WORD 255 < 2 ^ 15 ∧ sideOpen sDbg 255 = true ∧ Memory.wf sDbg.sram = true
    ∧ accOpen (setQueue sDbg 255 0 { running := [{ cmd := mmaCmd, finished := false }] }) 255 = false
    ∧ tapMayDrive sDbg = true ∧ tapMayDrive ready = false ∧ sDbg.tapAddr.toNat = gprOff 255 31 ∧ tileOpen sDbg 255 true = true
    ∧ tapMay { ready with tapAddr := BitVec.ofNat 64 (gprOff 255 31) } (gprOff 255 31) = false ∧ held sDbg 0 = true ∧ ([] : List Byte).length ≠ 256
    ∧ sDbg.vao = true ∧ ({ sDbg with vao := false }).vao = false := by decide +kernel

theorem test_register_write_premises : badAccess true 0x320020 4 = true ∧ badAccess true 0xC00808 8 = false ∧ recovering ready = false ∧ ideBlocked ready 0 = false
    ∧ portRole ready 3 ≠ 0 ∧ rdb (wr ready 0 R.PART_CTRL_RESET_BUSY 1) (portPart ready 0) R.PART_CTRL_RESET_BUSY = true
    ∧ inWindows 0x700000 = false ∧ inQueues 0x700000 = false ∧ ctrlAccess ready 0 = some 0 ∧ badAccess true 0xF00000 4 = false
    ∧ badAccess true (0xC00100 + 4 * 15) 4 = false ∧ badAccess true (0x410000C + 16 * 511) 4 = false
    ∧ ((0 : Nat), (511 : Nat)) ∈ { ready with msixPend := [(0, 511)] }.msixPend ∧ badAccess true 0x4102000 4 = false ∧ ready.mseOff = [] ∧ rd ready 0 R.CS_ARG_ARG < 2 ^ 64
    ∧ badAccess true 0x4000008 4 = false ∧ portRole ready 0 = 0 ∧ badAccess true 0x400000 8 = false ∧ badAccess true 0x400014 4 = false
    ∧ badAccess true 0xD00010 8 = false ∧ badAccess true 0xC0080C 4 = false ∧ badAccess true 0x4000004 4 = false ∧ inWindows 0x4102000 = false := by decide +kernel

def sSafe : State := { ready with safe := true, safeMirrored := true }
def f3 (c : Nat) : FaultMsg := ⟨0x8000, 1, BitVec.ofNat 2 c, some 0, 0, 0⟩

theorem test_safe_premises : sSafe.safe = true ∧ sSafe.safeMirrored = true ∧ lowestFree sSafe 0 1008 = some 0 ∧ (f3 3).cls = 3
    ∧ rdb (wr ready 0 R.PART_CTRL_RESET_BUSY 1) 0 R.PART_CTRL_RESET_BUSY = true ∧ takeOut (f3 2) ready.faultQ = none ∧ isReady ready 0 = true
    ∧ scopeAt ready 2 0 = none ∧ (place ready 2).isSome = true
    ∧ 0 < partCount ready.mode := by decide +kernel

theorem test_memory_premises : MemInv (core 0 (encI 0x14 2 1 0) 65528 7)
    ∧ (match step { core 0 (encI 0x14 2 1 0) 65528 7 with pending := [.std 0 2 1 0] } with
      | .next u => (sramRead u (dmemKey 0 65528) 8).head? == some 7 | _ => false) = true := by
  unfold MemInv
  decide +kernel
/-! ### Ill-formed commands are refused -/

/-- One ill-formed command for each check, and a well-formed one of the same kind at the bound. -/
theorem test_ill_formed : (∀ c ∈ [Instr.registerWrite ⟨0, 2 ^ 26 - 4, 8, 0⟩, .registerWrite ⟨0, 0, 4, 2 ^ 32⟩, .transitFrame 0 { transit with body := List.replicate 8193 0 },
      .verify 0 (List.replicate 255 0), .cqDb 0 0 3 0, .descriptorFetchReturn 0 0 [List.replicate 63 0], .memberLoad 0 [], .capEvaluate 0 0 [0, 0, 0, 0, 0],
      .thermalEvaluate (List.replicate 91 0), .avsPoll 4 (List.replicate 3 ⟨true, 0, 0⟩), .dbgWindowAccess 0 true (2 ^ 26 - 7) 0, .barAccessInvalid 0 true 0 0,
      .hostLinkUp 0 7 1 true, .storageLinkUp 0 6 8 true 0], c.wf = false)
    ∧ (∀ c ∈ [Instr.registerWrite ⟨0, 2 ^ 26 - 8, 8, 0⟩, .registerWrite ⟨0, 0, 4, 2 ^ 32 - 1⟩, .transitFrame 0 { transit with body := List.replicate 8192 0 },
      .verify 0 (List.replicate 256 0), .cqDb 0 0 4 0, .descriptorFetchReturn 0 0 [List.replicate 64 0], .capEvaluate 0 0 [0, 0, 0, 0],
      .thermalEvaluate (List.replicate 92 0), .avsPoll 4 (List.replicate 4 ⟨true, 0, 0⟩), .dbgWindowAccess 0 true (2 ^ 26 - 8) 0, .barAccessInvalid 0 true 0 1,
      .hostLinkUp 0 6 8 true, .storageLinkUp 0 1 4 true 0], c.wf = true) := by decide +kernel

/-! ### Worked examples of the spec -/

/-- The four encodings of R173's example. -/
theorem test_r173_words : encI 0x04 5 0 0xA3C5 = 0x10A0A3C5 ∧ encI 0x09 5 5 0x9F2B = 0x24A59F2B ∧ encI 0x09 5 5 0x41E7 = 0x24A541E7 ∧ encI 0x09 5 5 0x6D8D = 0x24A56D8D := by
  decide +kernel

/-- Its second row: g5 after INSI g5, g5, 0x9F2B. -/
theorem test_r173_insi : (match exec (.insi 0 5 5 0x9F2B) (setG (core 0 0x24A59F2B) 0 5 0xA3C5) with | .next u => getG u 0 5 == 0xA3C59F2B | _ => false) = true := by
  decide +kernel

/-- R83's check value of "123456789". -/
theorem test_r83_check : crc32c [0x31, 0x32, 0x33, 0x34, 0x35, 0x36, 0x37, 0x38, 0x39] = 0xE3069283 := by decide +kernel

/-- The example of R82: 1 + 2^-9 rounds up under 0xC123 and down under 0x2000. -/
theorem test_stochastic_rounding : srRound 0x3F804000 0xC123 = 0x3F81 ∧ srRound 0x3F804000 0x2000 = 0x3F80 := by decide +kernel

/-- The example after R77: the block's scales and the codes of m = -0.0011 and v = 1.0e-6. -/
theorem test_moment_blocks : m8sBlock [0x3B449BA6, 0xBA902DE0] = ([0x7E, 0xD2], 0x37C7) ∧ (m8qBlock [0x368637BD, 0x358637BD]).2 = 0x3704
    ∧ (m8qBlock [0x368637BD, 0x358637BD]).1.drop 1 = [0x7F] := by decide +kernel

/-- The example of R306: S = 2,500 under CLIP_MAX 10 gives 0x3E4C_CCCD; one NaN gives +0 and the flag. -/
theorem test_clip_factor : clipOf 0x41200000 0x451C4000 0 = (false, 0x3E4CCCCD) ∧ clipOf 0x41200000 0x451C4000 1 = (true, 0) := by decide +kernel

/-- The example of R441 (the matrix queue of T203, the engine of S9) and of R16 (T203's cluster). -/
theorem test_source_ids : srcTile 203 1 = 0x6581 ∧ srcStack 9 0 = 0xA480 ∧ clusterOfTile 203 = 25 := by decide +kernel

/-- The register index's examples: TG_SEED of pseudo-channel 37 of S14, MX_SLOT_INFO[5] of T203, bucket 0xABC of S20; and Q_CFG of queue 17. -/
theorem test_register_offsets : fieldKey R.TG_SEED_SEED 4 14 37 = 4 * 2 ^ 40 + 8 * 0x61E958 ∧ fieldKey R.MX_SLOT_INFO_STATE 4 203 5 = 4 * 2 ^ 40 + 8 * 0x8CB194
    ∧ fieldKey R.BUCKET_READS 4 20 0xABC = 4 * 2 ^ 40 + 8 * 0xAE55E0 ∧ fieldKey R.Q_CFG_Q_EN 0 17 0 = 8 * 0x110440 := by decide +kernel

/-- A trainable record of 128 elements takes 576 bytes, one of 64 takes 320 (the examples of spec/04 and spec/13). -/
theorem test_record_sizes : recSize 1 128 = 576 ∧ recSize 1 64 = 320 := by decide +kernel

/-- The example of R330: element 20,000,000 of 67,108,864 lies in chunk 4 of 16. -/
theorem test_collective_chunk : (Coll.lo ⟨1, 0, 0, false, 16, 0, 67108864, 0, 0, 0, 0⟩ 4, Coll.count ⟨1, 0, 0, false, 16, 0, 67108864, 0, 0, 0, 0⟩ 4) = (16777216, 4194304) := by
  decide +kernel

/-- The example after R268: a counter that wrapped to 0 has reached targets 0 and 0xFFFF_FF00, not 256. -/
theorem test_wrapped_target : reached 0 0 = true ∧ reached 0 0xFFFFFF00 = true ∧ reached 0 256 = false := by decide +kernel

/-! ### Results by hand -/

/-- A command's next state satisfies f. -/
def after (c : Instr) (s : State) (f : State → Bool) : Bool := match exec c s with | .next u => f u | _ => false

/-- ADD wraps at 2^64. -/
theorem test_add_wraps : after (.alu 0 3 1 2 0) (core 0 (encR 0x01 3 1 2 0) (BitVec.allOnes 64) 2) (fun u => getG u 0 3 == 1) = true := by decide +kernel

/-- STB keeps the neighbouring bytes. -/
theorem test_stb_neighbours : after (.stb 0 2 1 3) (sramWrite (core 0 (encI 0x16 2 1 3) 65528 0xFFFFFFFFFFFFFF01) (dmemKey 0 65528) [1, 2, 3, 4, 5])
    (fun u => sramRead u (dmemKey 0 65528) 8 == [1, 2, 3, 1, 5, 0, 0, 0]) = true := by decide +kernel

/-- A counter increment wraps at 2^32 and leaves the list. -/
theorem test_increment_wraps : after (.incrementApply (.die 3 4095)) { wr ready 4 R.DIE_CTR_VALUE 0xFFFFFFFF 3 4095 with incs := [⟨.die 3 4095, 0, 2⟩] }
    (fun u => ctrVal u (.die 3 4095) == 1 && u.incs == []) = true := by decide +kernel

/-- NOP completes its descriptor. -/
theorem test_queue_nop : after (.nop 0 255) (sD dNop) (fun u => (hq u 0 255).descs.all (·.finished)) = true := by decide +kernel

/-- COPY moves a scratchpad byte to cluster memory. -/
theorem test_copy_bytes : after (.copy 0 [] .none) (sramWrite sCopy (spKey 0 (2 ^ 22 - 64)) [9, 8]) (fun u => sramRead u (clmKey 31 0) 3 == [9, 8, 0]) = true := by decide +kernel

/-- A compute-pair fault enters SAFE and keeps the SRAMs. -/
theorem test_pair_fault_is_safe : after (.pairFault 0 0) ready (fun u => u.safe && u.sram == ready.sram) = true := by decide +kernel

/-- An empty queue idles (log 1). -/
theorem test_idle : (match step ready with | .next u => u == ready | _ => false) = true := by decide +kernel
end Sys2Proof.Tests
end

section
/-!
SUPPORT. Writes through BAR0 to plain fields: which fields an access reaches, and what the one field it reaches then holds.
-/

open Sys2Proof

namespace Sys2Proof.Machine

/-- Bits of some element of the field may lie in the access: its first element begins below the end, its last one ends above the start. -/
def nearAccess (off size : Nat) (f : Reg) : Bool :=
  decide (8 * f.base + f.lsb < 8 * (off + size))
    && decide (8 * off < 8 * (f.base + (f.count - 1) * f.stride + (f.count2 - 1) * f.stride2) + f.lsb + f.width)

/-- The element of f whose register begins at byte off + k - 7, with that byte, when bits of it lie in the access. -/
def hitAt (f : Reg) (off size k : Nat) : Option (Nat × Nat × Nat) :=
  if off + k < 7 then none
  else match elemAt f (off + k - 7) with
    | none => none
    | some (i, j) => if touches f (off + k - 7) off size then some (i, j, off + k - 7) else none

/-- The elements of f of which bits lie in the access, each with the byte at which its register begins. -/
def fieldHits (f : Reg) (off size : Nat) : List (Nat × Nat × Nat) := (List.range (size + 7)).filterMap (hitAt f off size)

/-- A write to the elements of one field: the inner loop of `fieldsWrite`. -/
def fieldPass (p off size v : Nat) (locked auth : Bool) (allow : Reg → Nat → Nat → Bool) (s : State) (f : Reg) : State :=
  (fieldHits f off size).foldl (fun s x => if allow f x.1 x.2.1 then fieldWrite s p f x.1 x.2.1 x.2.2 off size v locked auth else s) s

theorem fieldsWrite_eq_foldl (s : State) (p off size v : Nat) (locked auth : Bool) (allow : Reg → Nat → Nat → Bool) :
    fieldsWrite s p off size v locked auth allow = R.all.foldl (fieldPass p off size v locked auth allow) s := by
  unfold fieldsWrite
  congr 1
  funext s f
  unfold fieldPass fieldHits
  rw [List.foldl_filterMap]
  congr 1
  funext s k
  unfold hitAt
  by_cases hk : off + k < 7
  · simp [hk]
  · cases he : elemAt f (off + k - 7) with
    | none => simp [hk, he]
    | some x => cases ht : touches f (off + k - 7) off size <;> simp [hk, he, ht]

/-- A found element stands where its indices put it, and they are in range. -/
theorem elemAt_some {f : Reg} {b i j : Nat} (h : elemAt f b = some (i, j)) :
    b = f.base + i * f.stride + j * f.stride2 ∧ i < f.count ∧ j < f.count2 := by
  have hq (d n : Nat) : (if n = 0 then 0 else d / n) = d / n := by split <;> simp [*]
  have hm (d n : Nat) : (if n = 0 then d else d % n) = d % n := by split <;> simp [*]
  unfold elemAt at h
  split at h
  · cases h
  · next hb =>
    simp only [hq, hm, Option.ite_none_right_eq_some, Option.some.injEq, Prod.mk.injEq] at h
    obtain ⟨⟨hr, hi, hj⟩, rfl, rfl⟩ := h
    have h1 := Nat.div_add_mod' (b - f.base) f.stride
    have h2 := Nat.div_add_mod' ((b - f.base) % f.stride) f.stride2
    exact ⟨by omega, hi, hj⟩

theorem elemAt_touches_near {f : Reg} {b i j off size : Nat} (h : elemAt f b = some (i, j)) (ht : touches f b off size = true) :
    nearAccess off size f = true := by
  obtain ⟨hb, hi, hj⟩ := elemAt_some h
  have h1 : i * f.stride ≤ (f.count - 1) * f.stride := Nat.mul_le_mul_right _ (by omega)
  have h2 : j * f.stride2 ≤ (f.count2 - 1) * f.stride2 := Nat.mul_le_mul_right _ (by omega)
  simp only [touches, decide_eq_true_eq] at ht
  simp only [nearAccess, Bool.and_eq_true, decide_eq_true_eq]
  omega

theorem hitAt_far {f : Reg} {off size : Nat} (h : nearAccess off size f = false) (k : Nat) : hitAt f off size k = none := by
  unfold hitAt
  split
  · rfl
  · split
    · rfl
    · next he => exact if_neg fun ht => by rw [elemAt_touches_near he ht] at h; cases h

theorem fieldHits_far {f : Reg} {off size : Nat} (h : nearAccess off size f = false) : fieldHits f off size = [] :=
  List.filterMap_eq_nil_iff.2 fun k _ => hitAt_far h k

/-- Only the fields near the access count. -/
theorem fieldsWrite_eq_near (s : State) (p off size v : Nat) (locked auth : Bool) (allow : Reg → Nat → Nat → Bool) :
    fieldsWrite s p off size v locked auth allow
      = (R.all.filter (nearAccess off size)).foldl (fieldPass p off size v locked auth allow) s := by
  rw [fieldsWrite_eq_foldl, List.foldl_filter]
  congr 1
  funext s f
  split
  · rfl
  · next h => rw [fieldPass, fieldHits_far (Bool.eq_false_iff.2 h)]; rfl

/-- An access that reaches one element of one field, at byte b. -/
structure HitsOne (off size : Nat) (f : Reg) (i j b : Nat) : Prop where
  field   : R.all.filter (nearAccess off size) = [f]
  element : fieldHits f off size = [(i, j, b)]

theorem fieldsWrite_one {off size : Nat} {f : Reg} {i j b : Nat} (h : HitsOne off size f i j b) (s : State) (p v : Nat)
    (locked auth : Bool) {allow : Reg → Nat → Nat → Bool} (ha : allow f i j = true) :
    fieldsWrite s p off size v locked auth allow = fieldWrite s p f i j b off size v locked auth := by
  rw [fieldsWrite_eq_near, h.field, List.foldl_cons, List.foldl_nil, fieldPass, h.element, List.foldl_cons, List.foldl_nil]
  exact if_pos ha

/-- RW (R11). -/
theorem fieldWrite_rw (s : State) (p : Nat) {f : Reg} (hf : f.acc = .rw) (hp : f.pkg = false) (i j b off size v : Nat) (locked auth : Bool) :
    fieldWrite s p f i j b off size v locked auth = wr s p f (overlay f.width (8 * b + f.lsb) off size v (rd s p f i j)).1 i j := by
  simp [fieldWrite, hf, hp]

/-- An access over a whole field replaces its value by the bits written there. -/
theorem overlay_whole {width pos off size : Nat} (v old : Nat) (hw : 0 < width) (hlo : 8 * off ≤ pos) (hhi : pos + width ≤ 8 * (off + size)) :
    (overlay width pos off size v old).1 % 2 ^ width = v / 2 ^ (pos - 8 * off) % 2 ^ width := by
  have h : ¬ pos + width ≤ pos := by omega
  simp only [overlay, max_eq_left hlo, min_eq_left hhi, h, if_false, Nat.sub_self, Nat.add_sub_cancel_left, bitsOf, pow_zero, mul_one, Nat.div_one]
  have ho := Nat.div_add_mod old (2 ^ width)
  rw [show old - old % 2 ^ width = 2 ^ width * (old / 2 ^ width) by omega, Nat.mul_add_mod, Nat.mod_mod]

theorem onlyRegs_wr (s : State) (p : Nat) (f : Reg) (v i j : Nat) : OnlyRegs s (wr s p f v i j) [fieldKey f p i j] :=
  ⟨rfl, regsKept_wr s p f v i j⟩

/-- An access that reaches one element of one field, covers it whole, and finds it RW in a partition of its own. -/
structure HitsWhole (off size : Nat) (f : Reg) (i j b : Nat) : Prop extends HitsOne off size f i j b where
  code   : f.acc = .rw
  owned  : f.pkg = false
  holds  : 0 < f.width
  starts : 8 * off ≤ 8 * b + f.lsb
  ends   : 8 * b + f.lsb + f.width ≤ 8 * (off + size)

/-- Writing the one field of a register whole stores its bits and changes nothing else. -/
theorem fieldsWrite_stores {off size : Nat} {f : Reg} {i j b : Nat} (h : HitsWhole off size f i j b) (s : State) (p v : Nat)
    (locked auth : Bool) {allow : Reg → Nat → Nat → Bool} (ha : allow f i j = true) :
    rd (fieldsWrite s p off size v locked auth allow) p f i j = v / 2 ^ (8 * b + f.lsb - 8 * off) % 2 ^ f.width
      ∧ OnlyRegs s (fieldsWrite s p off size v locked auth allow) [fieldKey f p i j] := by
  rw [fieldsWrite_one h.toHitsOne s p v locked auth ha, fieldWrite_rw s p h.code h.owned]
  exact ⟨by rw [rd_wr_same, overlay_whole v _ h.holds h.starts h.ends], onlyRegs_wr ..⟩

/-! ### The registers of five plain fields (spec/16, 17, 18) -/

theorem csArg_whole : HitsWhole 0xC00808 8 R.CS_ARG_ARG 0 0 0xC00808 :=
  ⟨⟨by decide +kernel, by decide +kernel⟩, rfl, rfl, by decide, by decide, by decide⟩

theorem csArg_upper : HitsOne 0xC0080C 4 R.CS_ARG_ARG 0 0 0xC00808 := ⟨by decide +kernel, by decide +kernel⟩

theorem fcRingBase_whole : HitsWhole 0x400000 8 R.FC_RING_BASE_FR_BASE 0 0 0x400000 :=
  ⟨⟨by decide +kernel, by decide +kernel⟩, rfl, rfl, by decide, by decide, by decide⟩

theorem fcSettle_whole : HitsWhole 0x400014 4 R.FC_SETTLE_SETTLE 0 0 0x400014 :=
  ⟨⟨by decide +kernel, by decide +kernel⟩, rfl, rfl, by decide, by decide, by decide⟩

theorem secCmdAddr_whole : HitsWhole 0xD00010 8 R.SEC_CMD_ADDR_ADDR 0 0 0xD00010 :=
  ⟨⟨by decide +kernel, by decide +kernel⟩, rfl, rfl, by decide, by decide, by decide⟩

theorem pwrProfile_whole {k : Nat} (hk : k < 16) : HitsWhole (0xC00100 + 4 * k) 4 R.PWR_PROFILE_LVL k 0 (0xC00100 + 4 * k) :=
  have hf : ∀ k < 16, R.all.filter (nearAccess (0xC00100 + 4 * k) 4) = [R.PWR_PROFILE_LVL] := by decide +kernel
  have he : ∀ k < 16, fieldHits R.PWR_PROFILE_LVL (0xC00100 + 4 * k) 4 = [(k, 0, 0xC00100 + 4 * k)] := by decide +kernel
  ⟨⟨hf k hk, he k hk⟩, rfl, rfl, by decide, Nat.le_refl _, by simp only [R.PWR_PROFILE_LVL]; omega⟩

end Sys2Proof.Machine
end

section
/-!
SUPPORT. REGISTER_WRITE and BAR_ACCESS_INVALID (R13, R503, R504): the note of a malformed access, the write that reaches its partition, the
MSI-X table, and the blocks of the controlling host that hold plain fields.
-/

open Sys2Proof Sys2Proof.Machine Sys2Proof.Claims

namespace Sys2Proof.Machine

/-! ### Malformed accesses -/

/-- The message of a malformed access; an unassigned port names no partition. -/
def barMsg (s : State) (h : Nat) : FaultMsg :=
  { mkFault (srcHub h 0) K.BAR_ACCESS_INVALID (portPart s h) 0 0 with
    part := if portRole s h = 2 then none else some (Fin.ofNat 4 (portPart s h)) }

/-- The note is of class F0: the message is all it leaves. -/
theorem barInvalid_eq (s : State) (h : Nat) : barInvalid s h = sendFault s (barMsg s h) := by
  unfold barInvalid barMsg
  split <;> rfl

theorem barInvalid_onlyNotes (s : State) (h : Nat) : barInvalid s h = { s with faultQ := (barInvalid s h).faultQ } := by
  rw [barInvalid_eq]; rfl

theorem barInvalid_noted {s : State} {h : Nat} (hr : portRole s h ≠ 2) :
    Noted (barInvalid s h) (srcHub h 0) K.BAR_ACCESS_INVALID (portPart s h) := by
  refine ⟨0, 0, (partsAll s).map (stNow s), ?_⟩
  rw [barInvalid, if_neg hr]
  exact List.mem_append_right _ List.mem_cons_self

theorem barInvalid_notedPkg {s : State} {h : Nat} (hr : portRole s h = 2) : NotedPkg (barInvalid s h) (srcHub h 0) K.BAR_ACCESS_INVALID := by
  refine ⟨0, 0, (partsAll s).map (stNow s), ?_⟩
  rw [barInvalid, if_pos hr]
  exact List.mem_append_right _ List.mem_cons_self

theorem badAccess_read (off size : Nat) : badAccess false off size = true ↔ ¬ ((size = 4 ∨ size = 8) ∧ off % size = 0) := by
  simp [badAccess, halfCommand, imp_iff_not_or]

theorem badAccess_write4 {off : Nat} (h : off % 4 = 0) :
    badAccess true off 4 = true ↔ off ∈ [0x320020, 0x320024, 0xA00010, 0xA00014] := by
  simp [badAccess, halfCommand, h]

theorem accessSized_of_not_bad {a : Access} (h : badAccess true a.off a.size = false) : accessSized a = true := by
  simp only [badAccess, Bool.or_eq_false_iff, Bool.not_eq_false'] at h
  exact h.1

/-! ### A write that reaches its partition -/

/-- Port h is answered, and is not in the recovery wait or behind IDE_REQ. -/
structure PortHeard (s : State) (h : HPort) : Prop where
  live    : s.safe = false
  enabled : h.val ∉ s.mseOff
  booted  : recovering s = false
  secure  : ideBlocked s h = false

/-- A write of port h reaches its partition p (R503). -/
structure PortReaches (s : State) (h : HPort) : Prop extends PortHeard s h where
  assigned : portRole s h ≠ 2
  idle     : rdb s (portPart s h) R.PART_CTRL_RESET_BUSY = false

/-- What is needed to reach the controlling host's blocks. -/
theorem ctrlAccess_some {s : State} {h : HPort} {p : Nat} (hc : ctrlAccess s h = some p) :
    PortReaches s h ∧ portRole s h = 0 ∧ p = portPart s h := by
  simp only [ctrlAccess, Option.ite_none_left_eq_some, Option.some.injEq, Bool.or_eq_true, not_or, Bool.not_eq_true, bne_eq_false_iff_eq,
    List.contains_eq_mem, decide_eq_false_iff_not] at hc
  obtain ⟨⟨⟨⟨⟨⟨hs, hm⟩, hr⟩, hi⟩, hb⟩, hw⟩, rfl⟩ := hc
  exact ⟨⟨⟨hs, hm, hw, hi⟩, by omega, hb⟩, hr, rfl⟩

theorem exec_registerWrite_safe {s : State} (a : Access) (h : s.safe = true) : exec (.registerWrite a) s = .next s := by
  simp [exec, execRegisterWrite, h]

theorem exec_registerWrite_bad {s : State} {a : Access} (hs : s.safe = false) (hm : a.port.val ∉ s.mseOff)
    (hb : badAccess true a.off a.size = true) : exec (.registerWrite a) s = .next (barInvalid s a.port) := by
  simp [exec, execRegisterWrite, hs, hm, hb]

/-- A well-formed write outside the recovery wait is what `accessPort` makes of it. -/
theorem exec_registerWrite_heard {s : State} {a : Access} (hp : PortHeard s a.port) (hb : badAccess true a.off a.size = false) :
    exec (.registerWrite a) s = .next (
      if portRole s a.port = 2 ∨ rdb s (portPart s a.port) R.PART_CTRL_RESET_BUSY = true then s
      else if 0x4000000 ≤ a.off then bar2Write s a (a.off - 0x4000000) else roleWrite s (portPart s a.port) a) := by
  obtain ⟨hs, hm, hw, hi⟩ := hp
  simp [exec, execRegisterWrite, accessPort, hs, hm, hb, hw, hi, accessSized_of_not_bad hb]

theorem exec_registerWrite_bar0 {s : State} {a : Access} (hp : PortReaches s a.port) (hb : badAccess true a.off a.size = false)
    (ho : a.off < 0x4000000) : exec (.registerWrite a) s = .next (roleWrite s (portPart s a.port) a) := by
  rw [exec_registerWrite_heard hp.toPortHeard hb, if_neg (by simp [hp.assigned, hp.idle]), if_neg (by omega)]

theorem exec_registerWrite_bar2 {s : State} {a : Access} (hp : PortReaches s a.port) (hb : badAccess true a.off a.size = false)
    (ho : 0x4000000 ≤ a.off) : exec (.registerWrite a) s = .next (bar2Write s a (a.off - 0x4000000)) := by
  rw [exec_registerWrite_heard hp.toPortHeard hb, if_neg (by simp [hp.assigned, hp.idle]), if_pos ho]

/-! ### BAR2: doorbell pages and the MSI-X table -/

theorem bar2Write_doorbell (s : State) {a : Access} {off : Nat} (h : off < 0x100000) :
    bar2Write s a off = if a.size = 4 ∧ off % 0x1000 < 8 then s else barInvalid s a.port := if_pos h

theorem bar2Write_past (s : State) (a : Access) {off : Nat} (h : 0x102000 ≤ off) : bar2Write s a off = s := by
  rw [bar2Write, if_neg (by omega), if_neg (by omega)]

/-- A 32-bit write of the control word of vector n. -/
theorem bar2Write_control (s : State) {a : Access} {n : Nat} (hn : n < 512) (hs : a.size = 4) :
    bar2Write s a (0x10000C + 16 * n) = msixPut s a.port (4 * n + 3) (a.val.toNat % 2 ^ 32) := by
  rw [bar2Write, if_neg (by omega), if_pos (by omega), hs]
  simp [bitsOf, show (0x10000C + 16 * n - 0x100000) / 4 = 4 * n + 3 by omega]

theorem msixWord_set (s : State) (h i v : Nat) : msixWord { s with msix := mapSet s.msix (2048 * h + i) v } h i = v :=
  mapGet_mapSet_same ..

/-- The state with the control word of vector n of port h written. -/
def controlSet (s : State) (h n v : Nat) : State := { s with msix := mapSet s.msix (2048 * h + (4 * n + 3)) (v % 2) }

theorem vecMasked_controlSet (s : State) (h n v : Nat) : vecMasked (controlSet s h n v) h n = bitAt v 0 := by
  rw [vecMasked, controlSet, msixWord_set]
  simp [bitAt]

/-- A control word masks its vector, or unmasks it; a pending one is then sent (R365, log 69). -/
theorem msixPut_control (s : State) (h n v : Nat) :
    msixPut s h (4 * n + 3) v =
      if bitAt v 0 = false ∧ (h, n) ∈ s.msixPend then
        { controlSet s h n v with msixPend := s.msixPend.filter (· != (h, n)), irqs := s.irqs ++ [(h, n)] }
      else controlSet s h n v := by
  have hi : (4 * n + 3) % 4 = 3 := by omega
  have hn : (4 * n + 3) / 4 = n := by omega
  have hm := vecMasked_controlSet s h n v
  unfold msixPut
  simp only [hi, hn, true_and, if_true, List.contains_eq_mem, decide_eq_true_eq, Bool.not_eq_true']
  split
  · next hc =>
    rw [raiseIrq, if_neg]
    · rfl
    · rw [hc.1] at hm
      exact Bool.eq_false_iff.1 hm
  · rfl

/-! ### Plain fields of the controlling host's blocks -/

theorem roleWrite_block {s : State} {a : Access} (p : Nat) (hr : portRole s a.port = 0) (hw : inWindows a.off = false)
    (hq : inQueues a.off = false) : roleWrite s p a = blockWrite s p a := by
  simp [roleWrite, hr, hw, hq]

theorem roleWrite_feeder {s : State} {a : Access} (p : Nat) (hr : portRole s a.port = 1) (hw : inWindows a.off = false)
    (hq : inQueues a.off = false) : roleWrite s p a = s := by
  simp [roleWrite, hr, hw, hq]

/-- Past the first MiB there is no window and no queue. -/
theorem outside_windows_queues {off : Nat} (h : 0x200000 ≤ off) : inWindows off = false ∧ inQueues off = false := by
  simp only [inWindows, inQueues, decide_eq_false_iff_not]
  omega

theorem exec_registerWrite_block {s : State} {a : Access} {p : Nat} (hc : ctrlAccess s a.port = some p)
    (hb : badAccess true a.off a.size = false) (hlo : 0x200000 ≤ a.off) (hhi : a.off < 0x4000000) :
    exec (.registerWrite a) s = .next (blockWrite s p a) := by
  obtain ⟨hp, hr, rfl⟩ := ctrlAccess_some hc
  obtain ⟨hw, hq⟩ := outside_windows_queues hlo
  rw [exec_registerWrite_bar0 hp hb hhi, roleWrite_block _ hr hw hq]

/-- The blocks of BAR0 that hold no register of the controlling host. -/
theorem blockWrite_reserved (s : State) (p : Nat) {a : Access} (h : a.off / 0x100000 ∈ [7, 9, 11] ∨ 15 ≤ a.off / 0x100000) :
    blockWrite s p a = s := by
  unfold blockWrite
  split <;> simp_all

/-- A register that the access does not cover whole does not act. -/
theorem onWritten_apart (s : State) (a : Access) (b n : Nat) (k : State → Nat → State) (h : b < a.off ∨ 8 * (a.off + a.size) < 8 * b + n) :
    onWritten s a b n k = s := by
  have hw : written a b 0 n = none := if_neg (by omega)
  rw [onWritten, hw]

/-- The plain fields of the power block and the configuration store. -/
def powerField (s : State) (p : Nat) (f : Reg) (i _j : Nat) : Bool :=
  f == R.CS_ARG_ARG || f == R.CS_HIST_SEL_IDX || plain s p 0xC00100 0xC00104 f i

/-- The plain fields of the fault collector. -/
def collectorField (f : Reg) (_i _j : Nat) : Bool := f == R.FC_RING_BASE_FR_BASE || f == R.FC_SETTLE_SETTLE || f == R.FC_CFG_FLT_ON_HOLD

/-- The plain field of the security block. -/
def securityField (f : Reg) (_i _j : Nat) : Bool := f == R.SEC_CMD_ADDR_ADDR

theorem powerWrite_fields (s : State) (port p : Nat) {a : Access} (hlo : 0xC00010 < a.off)
    (hcmd : 8 * (a.off + a.size) < 8 * 0xC00800 + 4 ∨ 0xC00800 < a.off) :
    powerWrite s port p a = fieldsWrite s p a.off a.size a.val.toNat false false (powerField s p) := by
  unfold powerWrite
  rw [onWritten_apart _ _ 0xC00800 _ _ hcmd.symm, onWritten_apart _ _ 0xC00010 _ _ (.inl hlo), onWritten_apart _ _ 0xC00000 _ _ (.inl (by omega))]
  rfl

theorem collectorWrite_fields (s : State) (p : Nat) {a : Access} (h : a.off + a.size ≤ 0x400008 ∨ (0x400010 < a.off ∧ a.off + a.size ≤ 0x400038)) :
    collectorWrite s p a = fieldsWrite s p a.off a.size a.val.toNat false false collectorField := by
  unfold collectorWrite
  rw [onWritten_apart _ _ 0x400038 _ _ (by omega), onWritten_apart _ _ 0x400010 _ _ (by omega), onWritten_apart _ _ 0x40000C _ _ (by omega),
    onWritten_apart _ _ 0x400008 _ _ (by omega)]
  rfl

theorem securityWrite_fields (s : State) (port : HPort) (p : Nat) {a : Access} (hlo : 0xD00008 < a.off) (hhi : a.off < 0xD00100) :
    securityWrite s port p a = fieldsWrite s p a.off a.size a.val.toNat false false securityField := by
  rw [securityWrite, if_neg (by omega), onWritten_apart _ _ _ _ _ (.inl hlo)]
  rfl

theorem blockWrite_power (s : State) (p : Nat) {a : Access} (h : a.off / 0x100000 = 0xC) : blockWrite s p a = powerWrite s a.port p a := by
  simp [blockWrite, h]

theorem blockWrite_collector (s : State) (p : Nat) {a : Access} (h : a.off / 0x100000 = 4) : blockWrite s p a = collectorWrite s p a := by
  simp [blockWrite, h]

theorem blockWrite_security (s : State) (p : Nat) {a : Access} (h : a.off / 0x100000 = 0xD) : blockWrite s p a = securityWrite s a.port p a := by
  simp [blockWrite, h]

/-- A write of the upper half of a 64-bit field keeps the lower half (R504). -/
theorem overlay_upper (b v : Nat) {old : Nat} (ho : old < 2 ^ 64) :
    (overlay 64 (8 * b) (b + 4) 4 v old).1 % 2 ^ 64 = old % 2 ^ 32 + v % 2 ^ 32 * 2 ^ 32 := by
  have hlo : max (8 * b) (8 * (b + 4)) = 8 * b + 32 := by omega
  have hhi : min (8 * b + 64) (8 * (b + 4 + 4)) = 8 * b + 64 := by omega
  have h : ¬ 8 * b + 64 ≤ 8 * b + 32 := by omega
  simp only [overlay, hlo, hhi, h, if_false, bitsOf, show 8 * b + 32 - 8 * b = 32 by omega, show 8 * b + 64 - (8 * b + 32) = 32 by omega,
    show 8 * b + 32 - 8 * (b + 4) = 0 by omega, pow_zero, Nat.div_one]
  omega

/-! ### What the controlling host's write does, register by register -/

section
variable {s : State} {a : Access} {p : Nat}

/-- Ranges that hold no register (R502, R503). -/
theorem registerWrite_reserved (hc : ctrlAccess s a.port = some p) (hb : badAccess true a.off a.size = false)
    (h : (0x700000 ≤ a.off ∧ a.off < 0x800000) ∨ (0x900000 ≤ a.off ∧ a.off < 0xA00000) ∨ (0xB00000 ≤ a.off ∧ a.off < 0xC00000)
      ∨ (0xF00000 ≤ a.off ∧ a.off < 0x4000000) ∨ 0x4102000 ≤ a.off) : exec (.registerWrite a) s = .next s := by
  by_cases h2 : a.off < 0x4000000
  · rw [exec_registerWrite_block hc hb (by omega) h2, blockWrite_reserved]
    simp only [List.mem_cons, List.not_mem_nil, or_false]
    omega
  · rw [exec_registerWrite_bar2 (ctrlAccess_some hc).1 hb (by omega), bar2Write_past _ _ (by omega)]

/-- The control word of an MSI-X vector (R365, log 69). -/
theorem registerWrite_control (hc : ctrlAccess s a.port = some p) (hb : badAccess true a.off a.size = false) {n : Nat} (hn : n < 512)
    (ho : a.off = 0x410000C + 16 * n) (hs : a.size = 4) :
    ∃ u, exec (.registerWrite a) s = .next u ∧ vecMasked u a.port n = a.val.getLsbD 0
      ∧ u = { s with msix := u.msix, msixPend := u.msixPend, irqs := u.irqs }
      ∧ (a.val.getLsbD 0 = true ∨ (a.port.val, n) ∉ s.msixPend → u.irqs = s.irqs ∧ u.msixPend = s.msixPend)
      ∧ (a.val.getLsbD 0 = false → (a.port.val, n) ∈ s.msixPend →
          u.irqs = s.irqs ++ [(a.port.val, n)] ∧ (a.port.val, n) ∉ u.msixPend) := by
  have hbit : bitAt (a.val.toNat % 2 ^ 32) 0 = a.val.getLsbD 0 := by
    rw [BitVec.getLsbD, Nat.testBit_zero, bitAt, pow_zero, Nat.div_one, Nat.mod_mod_of_dvd _ (by decide)]
    rfl
  have hmask := vecMasked_controlSet s a.port n (a.val.toNat % 2 ^ 32)
  refine ⟨_, exec_registerWrite_bar2 (ctrlAccess_some hc).1 hb (by omega), ?_⟩
  rw [show a.off - 0x4000000 = 0x10000C + 16 * n by omega, bar2Write_control s hn hs, msixPut_control, ← hbit]
  split
  · next h =>
    refine ⟨hmask, rfl, fun h' => ?_, fun _ _ => ⟨rfl, by simp⟩⟩
    rcases h' with h' | h'
    · rw [h.1] at h'; cases h'
    · exact absurd h.2 h'
  · next h => exact ⟨hmask, rfl, fun _ => ⟨rfl, rfl⟩, fun h1 h2 => absurd ⟨h1, h2⟩ h⟩

theorem registerWrite_csArg (hc : ctrlAccess s a.port = some p) (hb : badAccess true a.off a.size = false)
    (ho : a.off = 0xC00808) (hs : a.size = 8) :
    ∃ u, exec (.registerWrite a) s = .next u ∧ rd u p R.CS_ARG_ARG = a.val.toNat ∧ OnlyRegs s u [fieldKey R.CS_ARG_ARG p 0 0] := by
  refine ⟨_, exec_registerWrite_block hc hb (by omega) (by omega), ?_⟩
  rw [blockWrite_power s p (by omega), powerWrite_fields s _ p (by omega) (by omega), ho, hs]
  obtain ⟨hv, hk⟩ := fieldsWrite_stores csArg_whole s p a.val.toNat false false (allow := powerField s p) (by simp [powerField])
  exact ⟨hv.trans (by simp [R.CS_ARG_ARG, Nat.mod_eq_of_lt a.val.isLt]), hk⟩

theorem registerWrite_csArg_upper (hc : ctrlAccess s a.port = some p) (hb : badAccess true a.off a.size = false)
    (ho : a.off = 0xC0080C) (hs : a.size = 4) (hold : rd s p R.CS_ARG_ARG < 2 ^ 64) :
    ∃ u, exec (.registerWrite a) s = .next u ∧ rd u p R.CS_ARG_ARG = rd s p R.CS_ARG_ARG % 2 ^ 32 + a.val.toNat % 2 ^ 32 * 2 ^ 32
      ∧ OnlyRegs s u [fieldKey R.CS_ARG_ARG p 0 0] := by
  refine ⟨_, exec_registerWrite_block hc hb (by omega) (by omega), ?_⟩
  rw [blockWrite_power s p (by omega), powerWrite_fields s _ p (by omega) (by omega), ho, hs,
    fieldsWrite_one csArg_upper s p a.val.toNat false false (by simp [powerField]), fieldWrite_rw s p rfl rfl]
  exact ⟨(rd_wr_same ..).trans (overlay_upper 0xC00808 _ hold), onlyRegs_wr ..⟩

theorem registerWrite_fcRingBase (hc : ctrlAccess s a.port = some p) (hb : badAccess true a.off a.size = false)
    (ho : a.off = 0x400000) (hs : a.size = 8) :
    ∃ u, exec (.registerWrite a) s = .next u ∧ rd u p R.FC_RING_BASE_FR_BASE = a.val.toNat / 2 ^ 12
      ∧ OnlyRegs s u [fieldKey R.FC_RING_BASE_FR_BASE p 0 0] := by
  refine ⟨_, exec_registerWrite_block hc hb (by omega) (by omega), ?_⟩
  rw [blockWrite_collector s p (by omega), collectorWrite_fields s p (by omega), ho, hs]
  obtain ⟨hv, hk⟩ := fieldsWrite_stores fcRingBase_whole s p a.val.toNat false false (allow := collectorField) (by simp [collectorField])
  have hlt : a.val.toNat / 2 ^ 12 < 2 ^ 52 := by have := a.val.isLt; omega
  exact ⟨hv.trans (Nat.mod_eq_of_lt hlt), hk⟩

theorem registerWrite_fcSettle (hc : ctrlAccess s a.port = some p) (hb : badAccess true a.off a.size = false)
    (ho : a.off = 0x400014) (hs : a.size = 4) :
    ∃ u, exec (.registerWrite a) s = .next u ∧ rd u p R.FC_SETTLE_SETTLE = a.val.toNat % 2 ^ 32
      ∧ OnlyRegs s u [fieldKey R.FC_SETTLE_SETTLE p 0 0] := by
  refine ⟨_, exec_registerWrite_block hc hb (by omega) (by omega), ?_⟩
  rw [blockWrite_collector s p (by omega), collectorWrite_fields s p (by omega), ho, hs]
  obtain ⟨hv, hk⟩ := fieldsWrite_stores fcSettle_whole s p a.val.toNat false false (allow := collectorField) (by simp [collectorField])
  exact ⟨hv.trans (by simp [R.FC_SETTLE_SETTLE]), hk⟩

theorem registerWrite_secCmdAddr (hc : ctrlAccess s a.port = some p) (hb : badAccess true a.off a.size = false)
    (ho : a.off = 0xD00010) (hs : a.size = 8) :
    ∃ u, exec (.registerWrite a) s = .next u ∧ rd u p R.SEC_CMD_ADDR_ADDR = a.val.toNat
      ∧ OnlyRegs s u [fieldKey R.SEC_CMD_ADDR_ADDR p 0 0] := by
  refine ⟨_, exec_registerWrite_block hc hb (by omega) (by omega), ?_⟩
  rw [blockWrite_security s p (by omega), securityWrite_fields s _ p (by omega) (by omega), ho, hs]
  obtain ⟨hv, hk⟩ := fieldsWrite_stores secCmdAddr_whole s p a.val.toNat false false (allow := securityField) (by simp [securityField])
  exact ⟨hv.trans (by simp [R.SEC_CMD_ADDR_ADDR, Nat.mod_eq_of_lt a.val.isLt]), hk⟩

theorem registerWrite_pwrProfile (hc : ctrlAccess s a.port = some p) (hb : badAccess true a.off a.size = false) {k : Nat} (hk16 : k < 16)
    (ho : a.off = 0xC00100 + 4 * k) (hs : a.size = 4) :
    ∃ u, exec (.registerWrite a) s = .next u ∧ rd u p R.PWR_PROFILE_LVL k = a.val.toNat % 2 ^ 16
      ∧ OnlyRegs s u [fieldKey R.PWR_PROFILE_LVL p k 0] := by
  refine ⟨_, exec_registerWrite_block hc hb (by omega) (by omega), ?_⟩
  rw [blockWrite_power s p (by omega), powerWrite_fields s _ p (by omega) (by omega), ho, hs]
  obtain ⟨hv, hk⟩ := fieldsWrite_stores (pwrProfile_whole hk16) s p a.val.toNat false false (allow := powerField s p) (by
    simp [powerField, plain, ownElem, R.PWR_PROFILE_LVL])
  exact ⟨hv.trans (by simp [R.PWR_PROFILE_LVL]), hk⟩

end

/-! ### BAR_ACCESS_INVALID -/

theorem exec_barAccessInvalid {s : State} {port : HPort} (hs : s.safe = false) (hm : port.val ∉ s.mseOff) (write : Bool) {off size : Nat}
    (hb : badAccess write off size = true) :
    exec (.barAccessInvalid port write off size) s
      = .next (if write then barInvalid s port else { barInvalid s port with readOut := BitVec.allOnes 64 }) := by
  simp [exec, execBarAccessInvalid, hs, hm, hb]

theorem exec_barAccessInvalid_wellFormed (s : State) (port : HPort) {write : Bool} {off size : Nat} (hb : badAccess write off size = false) :
    exec (.barAccessInvalid port write off size) s = .next s := by
  simp [exec, execBarAccessInvalid, hb]

/-- The note, and all-ones as what a read returns (R13). -/
theorem barAccessInvalid_notes {s : State} {port : HPort} (hs : s.safe = false) (hm : port.val ∉ s.mseOff) (write : Bool) {off size : Nat}
    (hb : badAccess write off size = true) :
    ∃ u, exec (.barAccessInvalid port write off size) s = .next u
      ∧ u.faultQ = s.faultQ ++ [⟨barMsg s port, (partsAll s).map (stNow s)⟩]
      ∧ (write = true → u = { s with faultQ := u.faultQ })
      ∧ (write = false → u = { s with faultQ := u.faultQ, readOut := BitVec.allOnes 64 }) := by
  refine ⟨_, exec_barAccessInvalid hs hm write hb, ?_⟩
  rw [barInvalid_eq]
  cases write
  · exact ⟨rfl, nofun, fun _ => rfl⟩
  · exact ⟨rfl, fun _ => rfl, nofun⟩

/-- Settles O56: each clause is one of the cases above, for the state and the operand at hand. -/
theorem registerWriteResults : Obligations.register_write_results := by
  refine ⟨fun a s => ⟨exec_registerWrite_safe a, fun hs hm hb => ?_, fun hs hm hb hw hi => ?_, fun p hc hb => ?_⟩,
    fun port write off size s hs hm => ⟨barAccessInvalid_notes hs hm write, exec_barAccessInvalid_wellFormed s port⟩,
    badAccess_read, fun off => badAccess_write4⟩
  · exact ⟨_, exec_registerWrite_bad hs hm hb, barInvalid_noted, barInvalid_notedPkg, barInvalid_onlyNotes s a.port⟩
  · have hp : PortHeard s a.port := ⟨hs, hm, hw, hi⟩
    refine ⟨fun h => by rw [exec_registerWrite_heard hp hb, if_pos h], fun hr hd => exec_registerWrite_bar0 ⟨hp, hr, hd⟩ hb,
      fun hr hd hlo hhi => ?_, fun hr hwin hq ho => ?_⟩
    · have hpage : (a.off - 0x4000000) % 0x1000 = a.off % 0x1000 := by omega
      rw [exec_registerWrite_bar2 ⟨hp, hr, hd⟩ hb hlo, bar2Write_doorbell s (by omega), hpage]
      exact ⟨fun h => by rw [if_pos h], fun h => ⟨_, by rw [if_neg h], barInvalid_onlyNotes s a.port, barInvalid_noted hr⟩⟩
    · have hn : ¬ 0x4000000 ≤ a.off := by omega
      rw [exec_registerWrite_heard hp hb, if_neg hn, roleWrite_feeder _ hr hwin hq, ite_self]
  · exact ⟨registerWrite_reserved hc hb, fun n => registerWrite_control hc hb, registerWrite_csArg hc hb, registerWrite_csArg_upper hc hb,
      registerWrite_fcRingBase hc hb, registerWrite_fcSettle hc hb, registerWrite_secCmdAddr hc hb, fun k => registerWrite_pwrProfile hc hb⟩

end Sys2Proof.Machine
end

section
/-!
SUPPORT. What the transport does with a message (R316 to R324): sessions, frames and their notes are all it touches besides the outbox.
-/

open Sys2Proof Sys2Proof.Machine Sys2Proof.Claims

namespace Sys2Proof.Machine

/-- What sending may touch: sessions, frames that have left or wait, notes of faults, and the session fields of the fabric ports. -/
structure Routed (s u : State) : Prop where
  frame : u = { s with regs := u.regs, sess := u.sess, wire := u.wire, fabWait := u.fabWait, faultQ := u.faultQ }
  regs  : ∀ d k, (∀ f, k ≠ fieldKey R.FP_STATUS_SESS_UP 4 f 0) → (∀ f i, k ≠ fieldKey R.FP_PEER_OPEN 4 f i) →
    mapGet d u.regs k = mapGet d s.regs k

namespace Routed

theorem refl (s : State) : Routed s s := ⟨rfl, fun _ _ _ _ => rfl⟩

theorem trans {s u v : State} (h : Routed s u) (h' : Routed u v) : Routed s v := by
  refine ⟨?_, fun d k h1 h2 => (h'.regs d k h1 h2).trans (h.regs d k h1 h2)⟩
  have := h'.frame
  rw [h.frame] at this
  exact this

/-- A change of sessions, frames and notes that writes no register. -/
theorem of_frame {s u : State} (h : u = { s with sess := u.sess, wire := u.wire, fabWait := u.fabWait, faultQ := u.faultQ }) : Routed s u := by
  have hr : u.regs = s.regs := by rw [h]
  exact ⟨by rw [hr]; exact h, fun _ _ _ _ => by rw [hr]⟩

theorem foldl {α : Type} {k : State → α → State} (h : ∀ s x, Routed s (k s x)) (l : List α) (s : State) : Routed s (l.foldl k s) := by
  induction l generalizing s with
  | nil => exact refl s
  | cons x l ih => exact (h s x).trans (ih _)

/-- A field of a partition's own registers reads as before: the fields that change belong to the fabric ports. -/
theorem rd_part {s u : State} (h : Routed s u) {p : Nat} (hp : p < 4) {f : Reg} (hf : f.pkg = false) {i j : Nat}
    (hb : 8 * (f.base + i * f.stride + j * f.stride2) + f.lsb < 2 ^ 40) : rd u p f i j = rd s p f i j := by
  have hk : fieldKey f p i j < 4 * 2 ^ 40 := by simp only [fieldKey, hf]; simp only [Bool.false_eq_true, if_false]; omega
  refine h.regs _ _ (fun f' he => ?_) (fun f' i' he => ?_) <;>
    · rw [he] at hk
      simp only [fieldKey, R.FP_STATUS_SESS_UP, R.FP_PEER_OPEN, if_true] at hk
      omega

end Routed

theorem routed_sendFault (s : State) (m : FaultMsg) : Routed s (sendFault s m) := .of_frame rfl
theorem routed_setSess (s : State) (k : Nat) (x : Sess) : Routed s (setSess s k x) := .of_frame rfl

theorem routed_sendSess (s : State) (k : Nat) (x : FabFrame) : Routed s (sendSess s k x) := .of_frame rfl

theorem routed_countSess (s : State) (f : Nat) : Routed s (countSess s f) :=
  ⟨rfl, fun d k h _ => regsKept_wr _ _ _ _ _ _ d k (by simpa using h f)⟩

theorem routed_closeEntry (s : State) (f i : Nat) : Routed s (wrb s 4 R.FP_PEER_OPEN false f i) :=
  ⟨rfl, fun d k _ h => regsKept_wr _ _ _ _ _ _ d k (by simpa using h f i)⟩

theorem routed_shutSess (s : State) (k : Nat) : Routed s (shutSess s k) := by
  simp only [shutSess]
  split
  · exact ((routed_setSess ..).trans ((routed_closeEntry ..).trans (routed_countSess ..))).trans (.of_frame rfl)
  · exact routed_setSess ..

theorem routed_exhaustSess (s : State) (k : Nat) : Routed s (exhaustSess s k) := (routed_shutSess s k).trans (routed_sendFault ..)

theorem routed_sendHop (s : State) (hop : Nat) (x : FabFrame) : Routed s (sendHop s hop x) := by
  unfold sendHop
  split
  · exact .of_frame rfl
  · split
    · split
      · exact (routed_exhaustSess ..).trans (.of_frame rfl)
      · split
        · exact routed_sendSess ..
        · exact .of_frame rfl
    · exact .of_frame rfl

theorem routed_drainWait (s : State) (p : Nat) : Routed s (drainWait s p) := by
  unfold drainWait
  split
  · exact (Routed.of_frame rfl).trans (Routed.foldl (fun s (w : Nat × Nat × FabFrame) => routed_sendHop s w.2.1 w.2.2) _ _)
  · exact .refl s

/-- The message is in the outbox, and the transport has taken it on. -/
theorem routed_post (s : State) (p : Nat) (b : Body) (unit msgId : Nat) :
    Routed { s with outbox := s.outbox ++ [⟨p, b⟩] } (post s p b unit msgId) := by
  unfold post
  split
  · exact routed_sendHop ..
  · dsimp only
    split
    · exact .refl _
    · exact (Routed.foldl (fun s x => routed_sendHop s _ x) _ _).trans (routed_drainWait ..)
  · exact .refl _

/-- A route stays what it was: the transport writes no route entry. -/
theorem Routed.hasRoute {s u : State} (h : Routed s u) (p n : Nat) : hasRoute u p n = hasRoute s p n := by
  have : rd u p R.ROUTE_VALID n = rd s p R.ROUTE_VALID n := by
    refine h.regs _ _ (fun f he => ?_) (fun f i he => ?_) <;>
      · simp only [fieldKey, R.FP_STATUS_SESS_UP, R.FP_PEER_OPEN, R.ROUTE_VALID, if_true, Bool.false_eq_true, if_false] at he
        omega
  simp only [Machine.hasRoute, rdb, this]

theorem Routed.ownNode {s u : State} (h : Routed s u) {p : Nat} (hp : p < 4) : ownNode u p = ownNode s p :=
  h.rd_part hp rfl (by decide)

theorem Routed.canReach {s u : State} (h : Routed s u) {p : Nat} (hp : p < 4) {n : Nat} (hn : CanReach s p n) : CanReach u p n := by
  simpa only [CanReach, h.ownNode hp, h.hasRoute] using hn

theorem emit_of_canReach {s : State} {p n : Nat} (h : CanReach s p n) {b : Body} (hb : bodyNode b = some n) (unit msgId : Nat) :
    emit s p b unit msgId = post s p b unit msgId := by
  have : (n != Machine.ownNode s p && !Machine.hasRoute s p n) = false := by
    rcases h with h | h <;> simp [h]
  simp [emit, hb, this]

/-- A message that can leave is the one new message in the outbox. -/
theorem routed_emit {s : State} {p n : Nat} (h : CanReach s p n) {b : Body} (hb : bodyNode b = some n) (unit msgId : Nat) :
    Routed { s with outbox := s.outbox ++ [⟨p, b⟩] } (emit s p b unit msgId) := by
  rw [emit_of_canReach h hb]
  exact routed_post ..

end Sys2Proof.Machine
end

section
/-!
SUPPORT. The entry of HOLD (R49, R190, R252, R409, R439): the partition reads HOLD, and its units raise nothing while they give up their work.
-/

open Sys2Proof Sys2Proof.Machine Sys2Proof.Claims

namespace Sys2Proof.Machine

/-- Partition p reads the state it read in s, and no fault has been noted: neither HOLD nor SAFE has been entered since. -/
structure Unraised (p : Nat) (s u : State) : Prop where
  safe   : u.safe = s.safe
  faultQ : u.faultQ = s.faultQ
  part   : rd u p R.PART_CFG_PART_STATE = rd s p R.PART_CFG_PART_STATE

namespace Unraised

variable {p : Nat}

theorem refl (s : State) : Unraised p s s := ⟨rfl, rfl, rfl⟩

theorem trans {s u v : State} (h : Unraised p s u) (h' : Unraised p u v) : Unraised p s v :=
  ⟨h'.safe.trans h.safe, h'.faultQ.trans h.faultQ, h'.part.trans h.part⟩

theorem of_regs {s u : State} (hr : u.regs = s.regs := by rfl) (hs : u.safe = s.safe := by rfl) (hf : u.faultQ = s.faultQ := by rfl) :
    Unraised p s u :=
  ⟨hs, hf, rd_of_regs hr ..⟩

/-- A step that is taken under a condition only. -/
theorem opt {c : Prop} [Decidable c] {s u v : State} (h : Unraised p s u) (k : Unraised p u v) : Unraised p s (if c then v else u) := by
  split
  · exact h.trans k
  · exact h

theorem ite {c : Prop} [Decidable c] {s u v : State} (h : Unraised p s u) (k : Unraised p s v) : Unraised p s (if c then u else v) := by
  split
  · exact h
  · exact k

/-- Past an update of other fields of u; `pending`, which no unit writes, names u. -/
theorem update {s u v : State} (h : Unraised p s u) (_ : v.pending = u.pending := by dsimp only) (hr : v.regs = u.regs := by rfl)
    (hs : v.safe = u.safe := by rfl) (hf : v.faultQ = u.faultQ := by rfl) : Unraised p s v := h.trans (.of_regs hr hs hf)

theorem foldl {α : Type} {k : State → α → State} (h : ∀ s x, Unraised p s (k s x)) (l : List α) (s : State) : Unraised p s (l.foldl k s) := by
  induction l generalizing s with
  | nil => exact refl s
  | cons x l ih => exact (h s x).trans (ih _)

end Unraised

section
variable {p : Nat} (hp : p < 4)
include hp

/-- PART_CFG is the first register of a partition: a write of a later one, or of a package-wide one, leaves it. -/
theorem unraised_wr (s : State) {q : Nat} {f : Reg} (hq : f.pkg = true ∨ q = p) (hb : 0x10 ≤ f.base) (v i j : Nat) :
    Unraised p s (wr s q f v i j) := by
  refine ⟨rfl, rfl, rd_wr_ne _ _ ?_⟩
  simp only [fieldKey, R.PART_CFG_PART_STATE, Bool.false_eq_true, if_false]
  rcases hq with hq | rfl
  · simp only [hq, if_true]; omega
  · split <;> omega

/-- A package-wide field. -/
theorem unraised_wr_pkg (s : State) {q : Nat} {f : Reg} (hf : f.pkg = true) (hb : 0x10 ≤ f.base) (v i j : Nat) :
    Unraised p s (wr s q f v i j) := unraised_wr hp s (.inl hf) hb v i j

/-- A field of the partition's own registers past the first. -/
theorem unraised_wr_own (s : State) {f : Reg} (hb : 0x10 ≤ f.base) (v i j : Nat) : Unraised p s (wr s p f v i j) :=
  unraised_wr hp s (.inr rfl) hb v i j

end

/-! ### Memories and tiles -/

section
variable {p : Nat}

theorem unraised_setTile (s : State) (t : Nat) (x : TileState) : Unraised p s (setTile s t x) := .of_regs
theorem unraised_tickFree (s : State) : Unraised p s (tickFree s) := .of_regs
theorem unraised_sramWrite (s : State) (a : Nat) (bs : List Byte) : Unraised p s (sramWrite s a bs) := .of_regs
theorem unraised_sramForget (s : State) (a n : Nat) : Unraised p s (sramForget s a n) := .of_regs
theorem unraised_hbmForget (s : State) (a n : Nat) : Unraised p s (hbmForget s a n) := .of_regs

theorem unraised_havoc (s : State) (l : List (Bool × Nat × Nat)) : Unraised p s (havoc s l) :=
  .foldl (fun s _ => .ite (unraised_hbmForget s ..) (unraised_sramForget s ..)) _ _

theorem unraised_devForget (s : State) (x : Space) (n : Nat) : Unraised p s (devForget s x n) := by
  cases x with
  | hbm r k o => exact unraised_hbmForget ..
  | inter r d o => exact .foldl (fun s x => unraised_hbmForget s _ _) _ _
  | clm c o => exact unraised_sramForget ..
  | sp t o => exact unraised_sramForget ..
  | win w o => exact .refl s
  | remote r nd k o => exact .refl s

theorem unraised_mmaTile (s : State) (t : Nat) (m : MmaCmd) (cs : List Nat) (n : Nat) : Unraised p s (mmaTile s t m cs n) :=
  Unraised.trans (.opt (.refl s) (unraised_sramWrite ..)) (.foldl (fun _ _ => .foldl (fun s _ => unraised_sramWrite s ..) _ _) _ _)

theorem unraised_abandonMma (s : State) (t : Nat) (r : RunCmd) : Unraised p s (abandonMma s t r) :=
  .opt (.refl s) ((unraised_sramWrite ..).trans ((unraised_mmaTile ..).trans (unraised_tickFree _)))

theorem unraised_putOld (s : State) (h : Bool) (key : Nat) (b : Option Byte) : Unraised p s (putOld s h key b) := by
  cases b with
  | none => exact .of_regs
  | some b => cases h <;> exact .of_regs

theorem unraised_abandonDrain (s : State) (r : RunCmd) : Unraised p s (abandonDrain s r) :=
  Unraised.trans (.foldl (fun u _ => .opt (.refl u) (unraised_putOld ..)) _ _) (unraised_tickFree _)

end

/-! ### A tile's commands (R190, R222) -/

section
variable {p : Nat} (hp : p < 4)
include hp

theorem unraised_abandonBind (s : State) (t : Nat) (c : Cmd) : Unraised p s (abandonBind s t c) := by
  refine Unraised.trans ?_ (unraised_wr_pkg hp _ rfl (by decide) ..)
  cases cbit c 8 16 <;> exact unraised_wr_pkg hp s rfl (by decide) ..

theorem unraised_abandonMatrix (s : State) (t : Nat) (r : RunCmd) : Unraised p s (abandonMatrix s t r) := by
  unfold abandonMatrix
  split
  · exact unraised_abandonMma ..
  · exact unraised_abandonDrain ..
  · exact .opt (.refl s) (unraised_abandonBind hp ..)
  · exact unraised_havoc ..

theorem unraised_dropLoad (s : State) (u : Nat) : Unraised p s (dropLoad s u) :=
  (unraised_wr_pkg hp s rfl (by decide) ..).trans (unraised_setTile ..)

/-- The load that a command or descriptor was making ends. -/
theorem unraised_dropLoading {s u : State} (h : Unraised p s u) (o : Option Nat) :
    Unraised p s (match o with | some t => dropLoad u t | none => u) := by
  cases o with
  | none => exact h
  | some t => exact h.trans (unraised_dropLoad hp ..)

theorem unraised_abandonCmd (s : State) (t q before after : Nat) (r : RunCmd) : Unraised p s (abandonCmd s t q before after r) :=
  unraised_dropLoading hp (.ite (unraised_tickFree s)
    (.ite ((unraised_tickFree s).trans (unraised_abandonMatrix hp ..)) ((unraised_tickFree s).trans (unraised_havoc ..)))) r.loading

theorem unraised_abandonCmds (t q : Nat) (l : List RunCmd) (s : State) (before : Nat) : Unraised p s (abandonCmds s t q before l) := by
  induction l generalizing s before with
  | nil => exact .refl s
  | cons r l ih => exact (unraised_abandonCmd hp ..).trans (ih ..)

theorem unraised_holdEngQueue (s : State) (t q : Nat) : Unraised p s (holdEngQueue s t q) := by
  have h : Unraised p s (if q = 3 then dropMerge s t else s) := .opt (.refl s) .of_regs
  exact h.trans ((unraised_setTile ..).trans ((unraised_wr_pkg hp _ rfl (by decide) ..).trans (unraised_abandonCmds hp ..)))

theorem unraised_holdTile (s : State) (t : Nat) : Unraised p s (holdTile s t) := by
  have h : Unraised p s (if rd s 4 R.TILE_STATUS_STATE t = 1 then
      wr (wr s 4 R.TILE_STATUS_HALT_CODE 0xFF t) 4 R.TILE_STATUS_STATE 0 t else s) :=
    .opt (.refl s) ((unraised_wr_pkg hp _ rfl (by decide) ..).trans (unraised_wr_pkg hp _ rfl (by decide) ..))
  exact h.trans ((unraised_setTile ..).trans (.foldl (fun s q => unraised_holdEngQueue hp s t q) _ _))

/-! ### Look-ups, collectives, the step-decision unit (R121, R303, R333) -/

theorem unraised_releaseVer (s : State) (t n : Nat) (o : Option Nat) : Unraised p s (releaseVer s p t n o) := by
  cases o with
  | none => exact .refl s
  | some j => exact unraised_wr_own hp s (by decide) ..

theorem unraised_dropLooks (s : State) : Unraised p s (dropLooks s p) := by
  have hlook : ∀ s (x : LookRun), Unraised p s (releaseVer s p (bytesAt (leNat (x.desc.take 64)) 0 2 % 1024) 1 x.slot) :=
    fun s x => unraised_releaseVer hp ..
  have hown : ∀ s (x : OwnRun), Unraised p s (releaseVer s p x.req.table.toNat 1 x.slot) := fun s x => unraised_releaseVer hp ..
  have hfetch : ∀ s (x : HotFetch), Unraised p s (wrb s p R.HOTROW_SET_FETCH_BUSY false x.set) := fun s x => unraised_wr_own hp s (by decide) ..
  unfold dropLooks
  refine Unraised.update (Unraised.trans ?_ (.foldl hfetch _ _))
  refine Unraised.update (Unraised.trans ?_ (.foldl (fun s x => ?_) _ _))
  · refine Unraised.update (Unraised.trans ?_ (.foldl hown _ _))
    exact Unraised.update (Unraised.foldl hlook _ _)
  · split <;> exact unraised_releaseVer hp ..

theorem unraised_holdColl (s : State) (k : Nat) : Unraised p s (holdColl s p k) := by
  have h : ∀ o : Option CollRun, Unraised p s (match o with
      | some x => { s with colls := mapSet s.colls (64 * p + k) { x with failed := false, input := [], got := [], parts := [], early := [] } }
      | none => s) := fun o => by cases o <;> exact .of_regs
  exact .opt (h _) ((unraised_wr_own hp _ (by decide) ..).trans (unraised_devForget ..))

theorem unraised_holdSd (s : State) : Unraised p s (holdSd s p) :=
  .ite .of_regs (Unraised.trans .of_regs (unraised_wr_own hp _ (by decide) ..))

/-! ### Host queues (R409) -/

theorem unraised_setDescs (s : State) (q : Nat) (l : List QDesc) : Unraised p s (setDescs s p q l) :=
  Unraised.trans (.of_regs) (unraised_wr_own hp _ (by decide) ..)

omit hp in
theorem unraised_raiseIrq (s : State) (port vec : Nat) : Unraised p s (raiseIrq s port vec) := .ite .of_regs .of_regs

omit hp in
theorem unraised_countRec (s : State) (q : Nat) : Unraised p s (countRec s p q) :=
  .ite (Unraised.trans .of_regs (unraised_raiseIrq ..)) .of_regs

theorem unraised_writeRec (s : State) (q : Nat) (r : QRec) : Unraised p s (writeRec s p q r) := by
  unfold writeRec
  refine .opt (Unraised.trans (.opt (Unraised.trans ?_ (unraised_wr_own hp _ ?_ ..)) (unraised_wr_own hp _ ?_ ..))
    (unraised_wr_own hp _ ?_ ..)) (unraised_countRec ..)
  · exact .of_regs
  all_goals decide

theorem unraised_drainRecs (s : State) (q : Nat) : Unraised p s (drainRecs s p q) :=
  .ite (Unraised.trans .of_regs (.foldl (fun s r => unraised_writeRec hp s q r) _ _)) (.refl s)

theorem unraised_qRecord (s : State) (q : Nat) (r : QRec) : Unraised p s (qRecord s p q r) :=
  .ite (Unraised.trans .of_regs (unraised_drainRecs hp ..)) (.refl s)

theorem unraised_abandonDesc (s : State) (q : Nat) (status : Option Nat) (d : QDesc) : Unraised p s (abandonDesc s p q status d) := by
  have h : Unraised p s (tickFree (if d.flushing then s else havoc s d.undef)) :=
    Unraised.trans (.ite (.refl s) (unraised_havoc ..)) (unraised_tickFree _)
  cases status with
  | none => exact unraised_dropLoading hp h d.loading
  | some st => exact (unraised_dropLoading hp h d.loading).trans (unraised_qRecord hp ..)

theorem unraised_abandonQueue (s : State) (q : Nat) (status : Option Nat) (keep : Bool) : Unraised p s (abandonQueue s p q status keep) :=
  (unraised_setDescs hp ..).trans <| Unraised.trans .of_regs <| .foldl (fun s d => unraised_abandonDesc hp s q status d) _ _

theorem unraised_holdQueues (s : State) : Unraised p s (holdQueues s p) :=
  .foldl (fun s _ => .ite ((unraised_abandonQueue hp s ..).trans (unraised_wr_own hp _ (by decide) ..)) (.refl s)) _ _

/-! ### The partition -/

theorem unraised_applyHold (s : State) : Unraised p s (applyHold s p) := by
  unfold applyHold
  refine Unraised.trans ?_ (unraised_holdQueues hp _)
  refine Unraised.trans ?_ (.foldl (fun s k => unraised_holdColl hp s k) _ _)
  refine Unraised.trans ?_ (unraised_holdSd hp _)
  refine Unraised.trans ?_ (unraised_wr_own hp _ (by decide) ..)
  refine Unraised.update (Unraised.update (Unraised.trans ?_ (unraised_dropLooks hp _)))
  exact .foldl (fun s t => unraised_holdTile hp s t) _ _

/-- A partition that enters HOLD reads HOLD, and has noted no further fault. -/
theorem enterHold_hold {s : State} (hs : s.safe = false) : isHold (enterHold s p) p = true ∧ (enterHold s p).faultQ = s.faultQ := by
  have hread : ∀ u : State, u.safe = false → rd u p R.PART_CFG_PART_STATE = 1 → isHold u p = true := fun u h1 h2 => by
    simp [isHold, partState, h1, h2]
  unfold enterHold
  simp only [hs, Bool.false_or]
  split
  · next h => exact ⟨h, rfl⟩
  · split
    · exact ⟨hread _ hs (rd_wr_same s p R.PART_CFG_PART_STATE 1 0 0), rfl⟩
    · obtain ⟨hsafe, hq, hpart⟩ := unraised_applyHold hp
        { wr s p R.PART_CFG_PART_STATE 1 with
          incDropped := (wr s p R.PART_CFG_PART_STATE 1).incDropped.filter (· != p)
          secondF2 := mapErase (wr s p R.PART_CFG_PART_STATE 1).secondF2 p }
      exact ⟨hread _ (hsafe.trans hs) (hpart.trans (rd_wr_same s p R.PART_CFG_PART_STATE 1 0 0)), hq⟩

/-- A fault of class F2 puts its partition into HOLD and is noted (R439, R442). -/
theorem raise_f2_hold {s : State} (hs : s.safe = false) (src : Nat) {k : Kind} (hk : k.cls = 2) (addr detail : Nat) :
    isHold (raise s src k p addr detail) p = true
      ∧ (raise s src k p addr detail).faultQ = s.faultQ ++ [⟨mkFault src k p addr detail, (partsAll s).map (stNow s)⟩] := by
  simp only [raise, hk, if_true, faultHold]
  have h : ∀ u : State, u.safe = false → u.faultQ = s.faultQ ++ [⟨mkFault src k p addr detail, (partsAll s).map (stNow s)⟩] →
      isHold (enterHold u p) p = true
        ∧ (enterHold u p).faultQ = s.faultQ ++ [⟨mkFault src k p addr detail, (partsAll s).map (stNow s)⟩] := fun u h1 h2 =>
    ⟨(enterHold_hold hp h1).1, (enterHold_hold hp h1).2.trans h2⟩
  split <;> exact h _ hs rfl

end

end Sys2Proof.Machine
end

section
/-!
SUPPORT. A value of Step Time in which no event is armed (R42, R43, R46, R47, R53, R56): reports, beacons and the registers of the context.
-/

open Sys2Proof Sys2Proof.Machine Sys2Proof.Claims

namespace Sys2Proof.Machine

/-! ### Registers that change from some address on -/

/-- Only register fields from bit address n on have changed. -/
structure RegsFrom (n : Nat) (s u : State) : Prop where
  frame : u = { s with regs := u.regs }
  regs  : ∀ d k, k < n → mapGet d u.regs k = mapGet d s.regs k

namespace RegsFrom

variable {n : Nat}

theorem refl (s : State) : RegsFrom n s s := ⟨rfl, fun _ _ _ => rfl⟩

theorem trans {s u v : State} (h : RegsFrom n s u) (h' : RegsFrom n u v) : RegsFrom n s v := by
  refine ⟨?_, fun d k hk => (h'.regs d k hk).trans (h.regs d k hk)⟩
  have := h'.frame
  rw [h.frame] at this
  exact this

theorem foldl {α : Type} {k : State → α → State} (l : List α) (h : ∀ s, ∀ x ∈ l, RegsFrom n s (k s x)) (s : State) :
    RegsFrom n s (l.foldl k s) := by
  induction l generalizing s with
  | nil => exact refl s
  | cons x l ih => exact (h s x List.mem_cons_self).trans (ih (fun s y hy => h s y (List.mem_cons_of_mem _ hy)) _)

theorem wr (s : State) {p : Nat} {f : Reg} {i j : Nat} (v : Nat) (h : n ≤ fieldKey f p i j) : RegsFrom n s (wr s p f v i j) :=
  ⟨rfl, fun d k hk => regsKept_wr _ _ _ _ _ _ d k (by simp only [List.mem_singleton]; omega)⟩

theorem rd {s u : State} (h : RegsFrom n s u) (p : Nat) (f : Reg) (i j : Nat) (hk : fieldKey f p i j < n) :
    rd u p f i j = Machine.rd s p f i j := h.regs _ _ hk

end RegsFrom

/-- The draining of versions writes slot states of the tables, which lie behind the registers of Step Time (R122). -/
theorem drainVersions_regsFrom (s : State) (p : Nat) : RegsFrom (p * 2 ^ 40 + 8 * 0xa10020) s (drainVersions s p) := by
  refine .foldl _ (fun s t _ => .foldl _ (fun s j _ => ?_) s) s
  split
  · exact .wr s _ (by simp only [fieldKey, R.TABLE_DESC_SLOT_STATE]; simp only [Bool.false_eq_true, if_false]; omega)
  · exact .refl s

/-! ### ST_NOW -/

/-- A write leaves the other single fields of the same partition. -/
theorem rd_wr_single (s : State) (p v : Nat) {f g : Reg} (hf : f.pkg = false) (hg : g.pkg = false) (h : 8 * f.base + f.lsb ≠ 8 * g.base + g.lsb) :
    rd (wr s p f v) p g = rd s p g := rd_wr_ne _ _ (by simp only [fieldKey, hf, hg]; simp only [Bool.false_eq_true, if_false]; omega)

theorem running_iff (s : State) (p : Nat) :
    running s p = true ↔ s.safe = false ∧ rd s p R.PART_CFG_PART_STATE = 0 ∧ rd s p R.ST_FREEZE_FSTATE = 0 := by
  cases h : s.safe <;> simp [running, isReady, partState, frozen, h]

theorem isHold_of_running {s : State} {p : Nat} (h : running s p = true) : isHold s p = false := by
  obtain ⟨hs, hp, -⟩ := (running_iff s p).1 h
  simp [isHold, partState, hs, hp]

theorem frozen_of_running {s : State} {p : Nat} (h : running s p = true) : frozen s p = false := by
  obtain ⟨-, -, hf⟩ := (running_iff s p).1 h
  simp [frozen, hf]

theorem safe_of_running {s : State} {p : Nat} (h : running s p = true) : s.safe = false := ((running_iff s p).1 h).1

/-- The next value is later than the present one (R41). -/
theorem stNow_lt_nextVal (s : State) (p : Nat) : stNow s p < nextVal s p := by
  unfold nextVal
  dsimp only
  split
  · next x hx =>
    have : stNow s p % 65536 < x := by simpa using List.find?_some hx
    omega
  · omega

/-- A frame for a partition that runs acts at once. -/
theorem holdFrame_of_running {s : State} {p : Nat} (h : running s p = true) (c : Instr) (k : State → State) : holdFrame s p c k = k s := by
  simp [holdFrame, frozen_of_running h]

/-- The registers of the context at a new value, before the PTM log and the versions follow. -/
def nowSet (s : State) (p v : Nat) : State :=
  { wrb (wrAdd (setStNow s p v) p R.ST_GATE_TGT_TARGET (rd s p R.ST_GATE_GATE_INC)) p R.ST_STATUS_REPORTED false with
    reported := mapErase s.reported p }

/-- What precedes the events of a new value in `takeValue`: the registers of the context, the PTM log, the versions. -/
def valueEntered (s : State) (p v : Nat) : State :=
  drainVersions (if v / 65536 != rd s p R.ST_NOW_STEP then ptmNote (nowSet s p v) p v else nowSet s p v) p

/-- The fields of the context that a new value changes. -/
def valueKeys (p : Nat) : List Nat :=
  [fieldKey R.ST_NOW_STEP p 0 0, fieldKey R.ST_NOW_PHASE p 0 0, fieldKey R.ST_GATE_TGT_TARGET p 0 0, fieldKey R.ST_STATUS_REPORTED p 0 0,
    fieldKey R.ST_PTM_HEAD_HEAD p 0 0]

/-- What `valueEntered` leaves alone, and what it puts into the context. -/
structure EnteredValue (s u : State) (p v : Nat) : Prop where
  frame    : u = { s with regs := u.regs, reported := u.reported, ptmLog := u.ptmLog, freeCtr := u.freeCtr }
  regs     : ∀ d k, k < p * 2 ^ 40 + 8 * 0xa10020 → k ∉ valueKeys p → mapGet d u.regs k = mapGet d s.regs k
  now      : stNow u p = v
  target   : rd u p R.ST_GATE_TGT_TARGET = (rd s p R.ST_GATE_TGT_TARGET + rd s p R.ST_GATE_GATE_INC) % 2 ^ 32
  reported : rd u p R.ST_STATUS_REPORTED = 0

theorem EnteredValue.kept {s u : State} {p v : Nat} (h : EnteredValue s u p v) : u.mode = s.mode ∧ u.safe = s.safe ∧ u.firing = s.firing
    ∧ u.incs = s.incs ∧ u.outbox = s.outbox ∧ u.sram = s.sram ∧ u.hbm = s.hbm ∧ u.tiles = s.tiles := by
  rw [h.frame]
  exact ⟨rfl, rfl, rfl, rfl, rfl, rfl, rfl, rfl⟩

/-- A single field of the partition other than those of `valueKeys` reads as before. -/
theorem EnteredValue.rd_single {s u : State} {p v : Nat} (h : EnteredValue s u p v) {f : Reg} (hf : f.pkg = false)
    (hb : 8 * f.base + f.lsb < 8 * 0xa10020)
    (hk : 8 * f.base + f.lsb ∉ [8 * 0x200000 + 16, 8 * 0x200000, 8 * 0x200018, 8 * 0x20000c + 1, 8 * 0x200024]) : rd u p f = rd s p f := by
  have hkey : fieldKey f p 0 0 = p * 2 ^ 40 + (8 * f.base + f.lsb) := by simp [fieldKey, hf, Nat.add_assoc]
  refine h.regs _ _ (by omega) ?_
  rw [hkey]
  simp only [List.mem_cons, List.not_mem_nil, or_false, not_or] at hk
  simp only [valueKeys, List.mem_cons, List.not_mem_nil, or_false, fieldKey, R.ST_NOW_STEP, R.ST_NOW_PHASE, R.ST_GATE_TGT_TARGET,
    R.ST_STATUS_REPORTED, R.ST_PTM_HEAD_HEAD, Bool.false_eq_true, if_false]
  omega

/-- The PTM log takes an entry at most, and its head moves (R59). -/
theorem ptmNote_frame (s : State) (p v : Nat) :
    ptmNote s p v = { s with regs := (ptmNote s p v).regs, ptmLog := (ptmNote s p v).ptmLog, freeCtr := (ptmNote s p v).freeCtr }
      ∧ RegsKept s (ptmNote s p v) [fieldKey R.ST_PTM_HEAD_HEAD p 0 0] := ⟨rfl, regsKept_wr _ p R.ST_PTM_HEAD_HEAD _ 0 0⟩

theorem nowSet_entered (s : State) {p v : Nat} (hv : v < 2 ^ 64) : EnteredValue s (nowSet s p v) p v := by
  have hrd : ∀ f, rd (nowSet s p v) p f = rd (wrb (wrAdd (setStNow s p v) p R.ST_GATE_TGT_TARGET (rd s p R.ST_GATE_GATE_INC)) p
    R.ST_STATUS_REPORTED false) p f := fun f => rfl
  refine ⟨rfl, fun d k _ hk => ?_, ?_, ?_, ?_⟩
  · simp only [valueKeys, List.mem_cons, List.not_mem_nil, or_false, not_or] at hk
    obtain ⟨h1, h2, h3, h4, -⟩ := hk
    have w1 := regsKept_wr s p R.ST_NOW_STEP (v / 65536) 0 0
    have w2 := regsKept_wr (wr s p R.ST_NOW_STEP (v / 65536)) p R.ST_NOW_PHASE v 0 0
    have w3 := regsKept_wr (setStNow s p v) p R.ST_GATE_TGT_TARGET (rd (setStNow s p v) p R.ST_GATE_TGT_TARGET + rd s p R.ST_GATE_GATE_INC) 0 0
    have w4 := regsKept_wr (wrAdd (setStNow s p v) p R.ST_GATE_TGT_TARGET (rd s p R.ST_GATE_GATE_INC)) p R.ST_STATUS_REPORTED 0 0 0
    exact (w4 d k (by simpa using h4)).trans <| (w3 d k (by simpa using h3)).trans <| (w2 d k (by simpa using h2)).trans (w1 d k (by simpa using h1))
  · simp only [stNow, hrd, wrb, wrAdd, setStNow]
    simp (disch := decide) only [rd_wr_single, rd_wr_same]
    simp only [R.ST_NOW_STEP, R.ST_NOW_PHASE]
    omega
  · simp only [hrd, wrb, wrAdd, setStNow]
    simp (disch := decide) only [rd_wr_single, rd_wr_same]
    rfl
  · rw [hrd]
    exact rd_wr_same ..

/-- The PTM log and the versions leave the context as `nowSet` has it, but for the head of the log. -/
theorem valueEntered_entered (s : State) {p v : Nat} (hv : v < 2 ^ 64) : EnteredValue s (valueEntered s p v) p v := by
  obtain ⟨hframe, hregs, hnow, htarget, hrep⟩ := nowSet_entered s (p := p) hv
  have hptm : ∀ u, u = (if v / 65536 != rd s p R.ST_NOW_STEP then ptmNote (nowSet s p v) p v else nowSet s p v) →
      u = { nowSet s p v with regs := u.regs, ptmLog := u.ptmLog, freeCtr := u.freeCtr } ∧ RegsKept (nowSet s p v) u [fieldKey R.ST_PTM_HEAD_HEAD p 0 0] := by
    rintro u rfl
    split
    · exact ptmNote_frame ..
    · exact ⟨rfl, RegsKept.refl _ _⟩
  obtain ⟨hf, hk⟩ := hptm _ rfl
  have hd := drainVersions_regsFrom (if v / 65536 != rd s p R.ST_NOW_STEP then ptmNote (nowSet s p v) p v else nowSet s p v) p
  have hread : ∀ {f : Reg}, f.pkg = false → 8 * f.base + f.lsb < 8 * 0xa10020 → 8 * f.base + f.lsb ≠ 8 * 0x200024 →
      rd (valueEntered s p v) p f = rd (nowSet s p v) p f := fun {f} h1 h2 h3 => by
    have hkey : fieldKey f p 0 0 = p * 2 ^ 40 + (8 * f.base + f.lsb) := by simp [fieldKey, h1, Nat.add_assoc]
    exact (hd.rd p f 0 0 (by omega)).trans (hk.rd p f 0 0 (by
      simp only [List.mem_singleton, fieldKey, h1, R.ST_PTM_HEAD_HEAD, Bool.false_eq_true, if_false]; omega))
  have hchain : ∀ a b c : State, a = { s with regs := a.regs, reported := a.reported, ptmLog := a.ptmLog, freeCtr := a.freeCtr } →
      b = { a with regs := b.regs, ptmLog := b.ptmLog, freeCtr := b.freeCtr } → c = { b with regs := c.regs } →
      c = { s with regs := c.regs, reported := c.reported, ptmLog := c.ptmLog, freeCtr := c.freeCtr } := fun a b c ha hb hc => by
    rw [hc, hb, ha]
  refine ⟨hchain _ _ _ hframe hf hd.frame, fun d k hlt hin => ?_, ?_, ?_, ?_⟩
  · have hhead : k ∉ [fieldKey R.ST_PTM_HEAD_HEAD p 0 0] := fun hm => hin (by
      rw [List.mem_singleton] at hm
      simp [valueKeys, hm])
    exact (hd.regs d k hlt).trans ((hk d k hhead).trans (hregs d k hlt hin))
  · simp only [stNow, hread (f := R.ST_NOW_STEP) rfl (by decide) (by decide), hread (f := R.ST_NOW_PHASE) rfl (by decide) (by decide)]
    exact hnow
  · rw [hread rfl (by decide) (by decide)]; exact htarget
  · rw [hread rfl (by decide) (by decide)]; exact hrep

theorem takeValue_eq (s : State) (p v : Nat) (skip : Bool) : takeValue s p v skip =
    (let t := valueEntered s p v
     let t' := if rdb t p R.SD_CFG_SD_EN && v % 65536 == rd t p R.SD_CFG_COLLECT_PHASE && (sdState t p == 0 || sdState t p == 4) then
       sdCollect t p (v / 65536) else t
     runFiring (setFiring t' p (firingOf t' p ++ eventsAt t p v skip)) p) := rfl

/-! ### The tick (R53) -/

/-- One increment of a die counter on each die of a list, the counter named by a register field. -/
theorem foldl_signalDie (l : List Nat) (s : State) (p : Nat) (f : Reg) (src : Nat) :
    l.foldl (fun s d => signalDie s d (rd s p f) src) s
      = { s with incs := s.incs ++ l.map (fun d => ⟨.die (Fin.ofNat 4 d) (Fin.ofNat 4096 (rd s p f)), src, 1⟩) } := by
  induction l generalizing s with
  | nil => simp
  | cons d l ih =>
    rw [List.foldl_cons, ih]
    simp [signalDie, issueInc, rd]

theorem tickDies_eq (s : State) (p : Nat) :
    tickDies s p = { s with incs := s.incs ++ (if rdb s p R.ST_TICK_TICK_EN then (diesOf s p).map (fun d =>
      ⟨.die (Fin.ofNat 4 d) (Fin.ofNat 4096 (rd s p R.ST_TICK_TICK_CTR)), srcStepTime, 1⟩) else []) } := by
  unfold tickDies
  split
  · exact foldl_signalDie ..
  · simp

/-! ### Events (R56) -/

theorem firingOf_setFiring (s : State) (p : Nat) (l : List FiredEv) : firingOf (setFiring s p l) p = l := by
  unfold firingOf setFiring
  cases l with
  | nil => exact mapGet_mapErase_same ..
  | cons e l => exact mapGet_mapSet_same ..

theorem runFiring_nil {s : State} {p : Nat} (h : firingOf s p = []) : runFiring s p = setFiring s p [] := by
  rw [runFiring, h, fireList]

/-- With no entry armed for v the tick alone follows (R53, R56). -/
theorem eventsAt_none {s : State} {p v : Nat} (h : ∀ i, i < eventShare s → rd s p R.EVENT_STATE i = 1 → rd s p R.EVENT_EV_WHEN i ≠ v) (skip : Bool) :
    eventsAt s p v skip = [⟨tickKind, v, 0, 0, 0, 0, skip⟩] := by
  have hnone : ∀ k, (List.range (eventShare s)).filter (fun i =>
      rd s p R.EVENT_STATE i == 1 && rd s p R.EVENT_KIND i == k && rd s p R.EVENT_EV_WHEN i == v) = [] := fun k => by
    refine List.filter_eq_nil_iff.2 fun i hi => ?_
    have := h i (List.mem_range.1 hi)
    simp only [Bool.and_eq_true, beq_iff_eq]
    rintro ⟨⟨h1, -⟩, h2⟩
    exact this h1 h2
  simp [eventsAt, hnone]

/-- The tick fires at once. -/
theorem runFiring_tick {s : State} {p v : Nat} {skip : Bool} (hrun : running s p = true) (h : firingOf s p = [⟨tickKind, v, 0, 0, 0, 0, skip⟩]) :
    runFiring s p = setFiring (tickDies (setFiring s p []) p) p [] := by
  rw [runFiring, h, fireList, if_neg (by simp [isHold_of_running hrun]), if_neg (by simp [hrun, eventWaits, tickKind]), fireList]
  rfl

/-- Fields of the context and of the event table that a new value leaves. -/
theorem EnteredValue.rd_event {s u : State} {p v : Nat} (h : EnteredValue s u p v) {f : Reg} (hf : f.pkg = false) (hlo : 0x201000 ≤ f.base)
    (hhi : f.base < 0x201020) (hl : f.lsb < 64) (hst : f.stride = 0x20) {i : Nat} (hi : i < 256) : Machine.rd u p f i = Machine.rd s p f i := by
  have hk : fieldKey f p i 0 = p * 2 ^ 40 + 8 * (f.base + i * 0x20) + f.lsb := by simp [fieldKey, hf, hst]
  refine h.regs _ _ (by rw [hk]; omega) ?_
  rw [hk]
  simp only [valueKeys, List.mem_cons, List.not_mem_nil, or_false, fieldKey, R.ST_NOW_STEP, R.ST_NOW_PHASE, R.ST_GATE_TGT_TARGET,
    R.ST_STATUS_REPORTED, R.ST_PTM_HEAD_HEAD, Bool.false_eq_true, if_false]
  omega

theorem eventShare_le (s : State) : eventShare s ≤ 256 := by
  unfold eventShare
  split <;> decide

theorem running_congr {s u : State} {p : Nat} (hs : u.safe = s.safe) (hp : rd u p R.PART_CFG_PART_STATE = rd s p R.PART_CFG_PART_STATE)
    (hf : rd u p R.ST_FREEZE_FSTATE = rd s p R.ST_FREEZE_FSTATE) : running u p = running s p := by
  rw [Bool.eq_iff_iff, running_iff, running_iff, hs, hp, hf]

/-- At a new value for which nothing was armed the tick alone fires. -/
theorem EnteredValue.eventsAt {s u : State} {p v : Nat} (h : EnteredValue s u p v)
    (harmed : ∀ i, i < eventShare s → rd s p R.EVENT_STATE i = 1 → rd s p R.EVENT_EV_WHEN i ≠ v) (skip : Bool) :
    eventsAt u p v skip = [⟨tickKind, v, 0, 0, 0, 0, skip⟩] := by
  refine eventsAt_none (fun i hi => ?_) skip
  have hlt : i < 256 := lt_of_lt_of_le hi (eventShare_le u)
  rw [h.rd_event rfl (by decide) (by decide) (by decide) rfl hlt, h.rd_event rfl (by decide) (by decide) (by decide) rfl hlt]
  exact harmed i (by simpa only [eventShare, h.kept.1] using hi)

theorem diesOf_of_mode {s u : State} (h : u.mode = s.mode) (p : Nat) : diesOf u p = diesOf s p := by
  unfold diesOf partOfDie
  rw [h]

/-- The events of a new value for which nothing is armed: the tick alone. -/
theorem EnteredValue.took {s u : State} {p v : Nat} (hu : EnteredValue s u p v) (hrun : running s p = true) (hq : QuietAt s p v) (skip : Bool) :
    TookValue s (runFiring (setFiring u p (firingOf u p ++ Machine.eventsAt u p v skip)) p) p v
      ∧ (runFiring (setFiring u p (firingOf u p ++ Machine.eventsAt u p v skip)) p).outbox = s.outbox := by
  obtain ⟨hfire, harmed, -⟩ := hq
  obtain ⟨hmode, hsafe, hfiring, hincs, houtbox, hsram, hhbm, htiles⟩ := hu.kept
  have hnone := hu.eventsAt harmed skip
  have hfire' : firingOf u p = [] := by rw [firingOf, hfiring]; exact hfire
  have hpart : rd u p R.PART_CFG_PART_STATE = rd s p R.PART_CFG_PART_STATE := hu.rd_single rfl (by decide) (by decide)
  have hfreeze : rd u p R.ST_FREEZE_FSTATE = rd s p R.ST_FREEZE_FSTATE := hu.rd_single rfl (by decide) (by decide)
  have htick : rd u p R.ST_TICK_TICK_EN = rd s p R.ST_TICK_TICK_EN := hu.rd_single rfl (by decide) (by decide)
  have hctr : rd u p R.ST_TICK_TICK_CTR = rd s p R.ST_TICK_TICK_CTR := hu.rd_single rfl (by decide) (by decide)
  have hrun' : running (setFiring u p [⟨tickKind, v, 0, 0, 0, 0, skip⟩]) p = true := (running_congr hsafe hpart hfreeze).trans hrun
  rw [hfire', List.nil_append, hnone, runFiring_tick hrun' (firingOf_setFiring ..), tickDies_eq]
  refine ⟨⟨hu.now, hu.target, hu.reported, ?_, hsram, hhbm, htiles⟩, houtbox⟩
  change u.incs ++ (if rdb u p R.ST_TICK_TICK_EN then (diesOf u p).map (fun d =>
    ⟨.die (Fin.ofNat 4 d) (Fin.ofNat 4096 (rd u p R.ST_TICK_TICK_CTR)), srcStepTime, 1⟩) else []) = _
  rw [hincs, diesOf_of_mode hmode, hctr, rdb, htick, rdb]

/-- A value for which nothing is armed is taken, and no message leaves (R42, R47, R53, R56). -/
theorem takeValue_quiet {s : State} {p v : Nat} (hrun : running s p = true) (hv : v < 2 ^ 64) (hq : QuietAt s p v) (skip : Bool) :
    TookValue s (takeValue s p v skip) p v ∧ (takeValue s p v skip).outbox = s.outbox := by
  have hu := valueEntered_entered s (p := p) hv
  have hsd : rdb (valueEntered s p v) p R.SD_CFG_SD_EN = false := by
    rw [rdb, hu.rd_single rfl (by decide) (by decide)]
    exact hq.2.2
  rw [takeValue_eq]
  simp only [hsd, Bool.false_and, Bool.false_eq_true, if_false]
  exact hu.took hrun hq skip

/-! ### Reports and beacons (R43, R46) -/

theorem Routed.kept {s u : State} (h : Routed s u) : u.mode = s.mode ∧ u.safe = s.safe ∧ u.firing = s.firing
    ∧ u.incs = s.incs ∧ u.outbox = s.outbox ∧ u.sram = s.sram ∧ u.hbm = s.hbm ∧ u.tiles = s.tiles := by
  rw [h.frame]
  exact ⟨rfl, rfl, rfl, rfl, rfl, rfl, rfl, rfl⟩

theorem Routed.append {s u : State} (h : Routed s u) (l : List Sent) :
    Routed { s with outbox := s.outbox ++ l } { u with outbox := u.outbox ++ l } :=
  ⟨congrArg (fun x : State => { x with outbox := x.outbox ++ l }) h.frame, h.regs⟩

/-- Messages to nodes that can be reached leave in order. -/
theorem routed_emits {p : Nat} (hp : p < 4) {body : Nat → Body} (hb : ∀ c, bodyNode (body c) = some c) (l : List Nat) {s : State}
    (hl : ∀ c ∈ l, CanReach s p c) :
    Routed { s with outbox := s.outbox ++ l.map (fun c => ⟨p, body c⟩) } (l.foldl (fun s c => emit s p (body c)) s) := by
  induction l generalizing s with
  | nil => simpa using Routed.refl s
  | cons c l ih =>
    have h := routed_emit (hl c List.mem_cons_self) (hb c) (bodyUnit (body c)) (bodyMsgId (body c))
    have ht := ih (s := emit s p (body c)) fun c' hc' => h.canReach hp (hl c' (List.mem_cons_of_mem _ hc'))
    have := (h.append (l.map (fun c => ⟨p, body c⟩))).trans ht
    simpa only [List.append_assoc, List.singleton_append, List.map_cons, List.foldl_cons] using this

/-- The sender of every beacon is the own node, which sending leaves. -/
theorem foldl_beacons {p : Nat} (hp : p < 4) (m : Beacon) (x : Node) (l : List Nat) {s : State} (hx : ownNode12 s p = x) (hl : ∀ c ∈ l, CanReach s p c) :
    l.foldl (fun s c => emit s p (.beacon c { m with sender := ownNode12 s p })) s
      = l.foldl (fun s c => emit s p (.beacon c { m with sender := x })) s := by
  induction l generalizing s with
  | nil => rfl
  | cons c l ih =>
    have h := routed_emit (hl c List.mem_cons_self) (b := .beacon c { m with sender := x }) rfl
      (bodyUnit (.beacon c { m with sender := x })) (bodyMsgId (.beacon c { m with sender := x }))
    rw [List.foldl_cons, List.foldl_cons, hx]
    exact ih (by rw [ownNode12, h.ownNode hp]; exact hx) fun c' hc' => h.canReach hp (hl c' (List.mem_cons_of_mem _ hc'))

/-- The beacons of a context leave in the order of its children (R46). -/
theorem routed_sendBeacons {s : State} {p : Nat} (hp : p < 4) (hl : ∀ c ∈ stChildren s p, CanReach s p c) (m : Beacon) :
    Routed { s with outbox := s.outbox ++ (stChildren s p).map (fun c => ⟨p, .beacon c { m with sender := ownNode12 s p }⟩) }
      (sendBeacons s p m) := by
  rw [sendBeacons, foldl_beacons hp m _ _ rfl hl]
  exact routed_emits hp (fun _ => rfl) _ hl

/-- A partition that has sent messages takes a value as it would have without them (R46, R47). -/
theorem tookValue_after_sending {s u v : State} {p n : Nat} (hp : p < 4) (h : Routed s u) (ht : TookValue u v p n) : TookValue s v p n := by
  obtain ⟨hnow, htarget, hrep, hincs, hsram, hhbm, htiles⟩ := ht
  obtain ⟨hmode, -, -, hincs', -, hsram', hhbm', htiles'⟩ := h.kept
  refine ⟨hnow, ?_, hrep, ?_, hsram.trans hsram', hhbm.trans hhbm', htiles.trans htiles'⟩
  · rw [htarget, h.rd_part hp (f := R.ST_GATE_TGT_TARGET) rfl (by decide), h.rd_part hp (f := R.ST_GATE_GATE_INC) rfl (by decide)]
  · rw [hincs, hincs', diesOf_of_mode hmode, rdb, h.rd_part hp (f := R.ST_TICK_TICK_EN) rfl (by decide),
      h.rd_part hp (f := R.ST_TICK_TICK_CTR) rfl (by decide), rdb]

theorem Routed.running {s u : State} (h : Routed s u) {p : Nat} (hp : p < 4) : running u p = running s p :=
  running_congr h.kept.2.1 (h.rd_part hp rfl (by decide)) (h.rd_part hp rfl (by decide))

theorem Routed.quietAt {s u : State} (h : Routed s u) {p v : Nat} (hp : p < 4) (hq : QuietAt s p v) : QuietAt u p v := by
  obtain ⟨hfire, harmed, hsd⟩ := hq
  obtain ⟨hmode, -, hfiring, -⟩ := h.kept
  refine ⟨by rw [firingOf, hfiring]; exact hfire, fun i hi => ?_, ?_⟩
  · have hlt := lt_of_lt_of_le hi (eventShare_le u)
    rw [h.rd_part hp (f := R.EVENT_STATE) rfl (by simp only [R.EVENT_STATE]; omega),
      h.rd_part hp (f := R.EVENT_EV_WHEN) rfl (by simp only [R.EVENT_EV_WHEN]; omega)]
    exact harmed i (by simpa only [eventShare, hmode] using hi)
  · rw [rdb, h.rd_part hp (f := R.SD_CFG_SD_EN) rfl (by decide)]
    exact hsd

/-- A context passes the value on to its children and takes it. -/
theorem beacons_then_value {s : State} {p v : Nat} (hp : p < 4) (hrun : running s p = true) (hv : v < 2 ^ 64) (hq : QuietAt s p v)
    (hl : ∀ c ∈ stChildren s p, CanReach s p c) (m : Beacon) (skip : Bool) :
    TookValue s (takeValue (sendBeacons s p m) p v skip) p v
      ∧ (takeValue (sendBeacons s p m) p v skip).outbox
        = s.outbox ++ (stChildren s p).map (fun c => ⟨p, .beacon c { m with sender := ownNode12 s p }⟩) := by
  have h := routed_sendBeacons hp hl m
  obtain ⟨ht, ho⟩ := takeValue_quiet (s := sendBeacons s p m) (skip := skip) ((h.running hp).trans hrun) hv (h.quietAt hp hq)
  have htook := tookValue_after_sending hp h ht
  exact ⟨htook, ho.trans h.kept.2.2.2.2.1⟩

/-! ### The commands -/

/-- A readiness report is noted before it leaves (R43). -/
def reportNoted (s : State) (p : Nat) : State :=
  wrb { s with reported := mapSet s.reported p (mapGet [] s.reported p ++ [nextVal s p]) } p R.ST_STATUS_REPORTED true

/-- The report of a context for its next value, with its vote where the value carries a decision (R43, R58). -/
def ownReport (s : State) (p : Nat) : Report :=
  ⟨ownNode12 s p, BitVec.ofNat 64 (nextVal s p), if nextDecides s p then some (voteOr s p) else none⟩

/-- The parent can be reached after the note as before it. -/
theorem canReach_reportNoted {s : State} {p n : Nat} (h : CanReach s p n) : CanReach (reportNoted s p) p n := by
  have hnode : ownNode (reportNoted s p) p = ownNode s p := rd_wr_single _ p _ rfl rfl (by decide)
  have hroute : rd (reportNoted s p) p R.ROUTE_VALID n = rd s p R.ROUTE_VALID n := rd_wr_ne _ _ (by
    simp only [fieldKey, R.ST_STATUS_REPORTED, R.ROUTE_VALID, Bool.false_eq_true, if_false]; omega)
  simpa only [CanReach, hnode, hasRoute, rdb, hroute] using h

section
variable {p : Part} {s : State} (hrun : running s p = true) (hen : stEnabled s p = true)
include hrun hen

theorem exec_readinessReportSend (hm : isMaster s p = false) (hr : rdb s p R.ST_STATUS_REPORTED = false) (hready : stReady s p = true) :
    exec (.readinessReportSend p) s = .next (emit (reportNoted s p) p (.report (rd s p R.ST_TREE_PARENT_NODE) (ownReport s p))) := by
  simp [exec, execReadinessReportSend, hrun, hen, hm, hr, hready, reportNoted, ownReport]

theorem readinessReportSend_results (hm : isMaster s p = false) (hr : rdb s p R.ST_STATUS_REPORTED = false) (hready : stReady s p = true)
    (hreach : CanReach s p (rd s p R.ST_TREE_PARENT_NODE)) :
    ∃ u v, exec (.readinessReportSend p) s = .next u ∧ rd u p R.ST_STATUS_REPORTED = 1
      ∧ u.outbox = s.outbox ++ [⟨p, .report (rd s p R.ST_TREE_PARENT_NODE) (ownReport s p)⟩]
      ∧ u = emit v p (.report (rd s p R.ST_TREE_PARENT_NODE) (ownReport s p))
      ∧ v = { s with regs := v.regs, reported := v.reported } ∧ RegsKept s v [fieldKey R.ST_STATUS_REPORTED p 0 0]
      ∧ mapGet [] v.reported p = mapGet [] s.reported p ++ [nextVal s p] := by
  have h := routed_emit (canReach_reportNoted hreach) (b := .report (rd s p R.ST_TREE_PARENT_NODE) (ownReport s p)) rfl
    (bodyUnit (.report (rd s p R.ST_TREE_PARENT_NODE) (ownReport s p))) (bodyMsgId (.report (rd s p R.ST_TREE_PARENT_NODE) (ownReport s p)))
  refine ⟨_, reportNoted s p, exec_readinessReportSend hrun hen hm hr hready, ?_, h.kept.2.2.2.2.1, rfl, rfl, regsKept_wr _ _ _ _ _ _, ?_⟩
  · exact (h.rd_part p.isLt rfl (by decide)).trans (rd_wr_same _ p R.ST_STATUS_REPORTED true.toNat 0 0)
  · exact mapGet_mapSet_same ..

theorem readinessReportReceive_results {m : Report} (hchild : (stChildren s p).contains m.sender.toNat = true)
    (hnew : ∀ r ∈ reportsFor s p m.value.toNat, r.1 ≠ m.sender.toNat) (hv : m.value.toNat = nextVal s p) (hvote : m.vote.isSome = nextDecides s p) :
    ∃ u, exec (.readinessReportReceive p m) s = .next u ∧ u = { s with reports := u.reports }
      ∧ reportsFor u p m.value.toNat = reportsFor s p m.value.toNat ++ [(m.sender.toNat, m.vote)] := by
  refine ⟨{ s with reports := mapSet s.reports p (mapGet [] s.reports p ++ [(m.sender.toNat, m.value.toNat, m.vote)]) }, ?_, rfl, ?_⟩
  · have hdup : (reportsFor s p m.value.toNat).any (fun r => r.1 == m.sender.toNat) = false := by simpa using hnew
    have htake : takeReport s p m
        = { s with reports := mapSet s.reports p (mapGet [] s.reports p ++ [(m.sender.toNat, m.value.toNat, m.vote)]) } := by
      rw [takeReport, if_neg (by simp [safe_of_running hrun, isHold_of_running hrun]), if_neg (by simp [hen]), if_neg (by simpa using hchild),
        if_neg (by simp [hdup]), if_neg (by simp [hv])]
      exact if_pos hvote
    simp [exec, execReadinessReportReceive, holdFrame_of_running hrun, htake]
  · simp [reportsFor, mapGet_mapSet_same]

theorem stMasterAdvance_results (hm : isMaster s p = true) (hready : stReady s p = true) (hv : nextVal s p < 2 ^ 64) (hq : QuietAt s p (nextVal s p))
    (hl : ∀ c ∈ stChildren s p, CanReach s p c) :
    ∃ u, exec (.stMasterAdvance p .none) s = .next u ∧ TookValue s u p (nextVal s p)
      ∧ u.outbox = s.outbox ++ (stChildren s p).map (fun c => ⟨p, .beacon c
          ⟨ownNode12 s p, BitVec.ofNat 64 (nextVal s p), ownNode12 s p, nextDecides s p, nextDecides s p && voteOr s p⟩⟩) := by
  obtain ⟨ht, ho⟩ := beacons_then_value p.isLt hrun hv hq hl
    ⟨ownNode12 s p, BitVec.ofNat 64 (nextVal s p), ownNode12 s p, nextDecides s p, nextDecides s p && voteOr s p⟩ (nextDecides s p && voteOr s p)
  refine ⟨_, ?_, ht, ho⟩
  have hadv : masterAdvance s p = takeValue (sendBeacons s p ⟨ownNode12 s p, BitVec.ofNat 64 (nextVal s p), ownNode12 s p, nextDecides s p,
      nextDecides s p && voteOr s p⟩) p (nextVal s p) (nextDecides s p && voteOr s p) := if_neg (by omega)
  simp [exec, execStMasterAdvance, hrun, hen, hm, hready, stepEcc, underEcc, hadv]

theorem beaconReceive_results {m : Beacon} (hm : isMaster s p = false) (hparent : m.sender.toNat = rd s p R.ST_TREE_PARENT_NODE)
    (hmaster : m.master.toNat = rd s p R.ST_TREE_MASTER_NODE) (hst : m.st.toNat = nextVal s p) (hd : m.decision = nextDecides s p)
    (hq : QuietAt s p (nextVal s p)) (hl : ∀ c ∈ stChildren s p, CanReach s p c) :
    ∃ u, exec (.beaconReceive p m .none) s = .next u ∧ TookValue s u p (nextVal s p)
      ∧ u.outbox = s.outbox ++ (stChildren s p).map (fun c => ⟨p, .beacon c { m with sender := ownNode12 s p }⟩) := by
  obtain ⟨ht, ho⟩ := beacons_then_value p.isLt hrun (hst ▸ m.st.isLt) hq hl m (m.decision && m.skip)
  refine ⟨_, ?_, ht, ho⟩
  have hlater : ¬ nextVal s p = stNow s p := (stNow_lt_nextVal s p).ne'
  have htake : takeBeacon s p m = takeValue (sendBeacons s p m) p (nextVal s p) (m.decision && m.skip) := by
    rw [takeBeacon, if_neg (by simp [safe_of_running hrun, isHold_of_running hrun]), if_neg (by simp [hen]), if_neg (by simp [hm, hparent, hmaster]),
      if_neg (by simpa [hst] using hlater), if_neg (by simp [hst]), if_neg (by simp [hd]), hst]
  simp [exec, execBeaconReceive, holdFrame_of_running hrun, stepEcc, underEcc, htake]

theorem beaconTimeout_results (hm : isMaster s p = false) (hr : rdb s p R.ST_STATUS_REPORTED = true) :
    ∃ u, exec (.beaconTimeout p) s = .next u ∧ isHold u p = true ∧ Noted u srcStepTime K.BEACON_TIMEOUT p := by
  refine ⟨raise s srcStepTime K.BEACON_TIMEOUT p, by simp [exec, execBeaconTimeout, hrun, hen, hm, hr], ?_⟩
  obtain ⟨hhold, hq⟩ := raise_f2_hold p.isLt (safe_of_running hrun) srcStepTime (k := K.BEACON_TIMEOUT) rfl 0 0
  exact ⟨hhold, 0, 0, _, by rw [hq]; exact List.mem_append_right _ List.mem_cons_self⟩

end

/-- Settles O29: each clause is the result of one command above, for a partition that runs with its context enabled. -/
theorem stepTimeResults : Obligations.step_time_results := fun _ _ hrun hen =>
  ⟨readinessReportSend_results hrun hen, fun _ => readinessReportReceive_results hrun hen, stMasterAdvance_results hrun hen,
    fun _ => beaconReceive_results hrun hen, fun hm hr => beaconTimeout_results hrun hen hm hr⟩

end Sys2Proof.Machine
end

section
/-!
SUPPORT. The write that arms an event entry (R55), in a state whose PHASE_CNT is wider than its field.
-/

open Sys2Proof Sys2Proof.Machine Sys2Proof.Claims

namespace Sys2Proof.Machine

/-- A state that no run reaches: PHASE_CNT, a field of five bits, holds 2021, so that the phase list runs into the event table and its last
phase is KIND of entry 0. That KIND is 7, and the entry waits for phase 7 of step 1. -/
def overlongPhases : State :=
  { regs := [(fieldKey R.ST_CTRL_PHASE_CNT 0 0 0, 2021), (fieldKey R.EVENT_EV_WHEN 0 0 0, 65536 + 7), (fieldKey R.EVENT_KIND 0 0 0, 7)] }

/-- ARM of entry 0 with kind 8. -/
def armKind8 : Access := { port := 0, off := 0x201008, size := 4, val := 0x10008 }

theorem overlongPhases_premises : CtrlWrite overlongPhases armKind8 0 ∧ rd overlongPhases 0 R.EVENT_STATE 0 ≠ 1
    ∧ bitAt armKind8.val.toNat 16 = true := by
  decide +kernel

/-- Before the write the entry meets every condition of R55. -/
theorem overlongPhases_armable : 1 < bitsOf armKind8.val.toNat 0 8 ∧ bitsOf armKind8.val.toNat 0 8 ≤ 9
    ∧ stNow overlongPhases 0 < rd overlongPhases 0 R.EVENT_EV_WHEN 0
    ∧ (phases overlongPhases 0).contains (rd overlongPhases 0 R.EVENT_EV_WHEN 0 % 65536) = true := by
  decide +kernel

/-- KIND is written first, phase 7 is gone from the list, and the entry is refused. -/
theorem overlongPhases_refused :
    (match exec (.eventArm armKind8) overlongPhases with | .next u => rd u 0 R.EVENT_STATE 0 | _ => 1) = 0 := by
  decide +kernel

/-- What the ARM clause of O30 says of an entry that meets every condition, for a kind other than the decision. -/
theorem armed_of_stepTimeWrites (h : Obligations.step_time_writes) {a : Access} {p i : Nat} {s : State} (hctrl : CtrlWrite s a p)
    (hi : i < eventShare s) (hoff : a.off = 0x201008 + 32 * i) (hsize : a.size = 4) (hstate : rd s p R.EVENT_STATE i ≠ 1)
    (harm : bitAt a.val.toNat 16 = true) (hkind : 1 < bitsOf a.val.toNat 0 8) (hkind' : bitsOf a.val.toNat 0 8 ≤ 9)
    (hlater : stNow s p < rd s p R.EVENT_EV_WHEN i) (hphase : (phases s p).contains (rd s p R.EVENT_EV_WHEN i % 65536) = true) :
    ∃ u, exec (.eventArm a) s = .next u ∧ rd u p R.EVENT_STATE i = 1 := by
  obtain ⟨u, hu, -, -, -, hresult⟩ := ((h a p s hctrl).2.2 i hi hoff hsize).1 hstate harm
  rw [if_pos ⟨hkind.le, hkind', hlater, hphase, fun hk => absurd hk hkind.ne'⟩] at hresult
  exact ⟨u, hu, hresult.1⟩

/-- Refutes O30 through its ARM clause: the statement reads the phase list before KIND is written, the model after it, and no premise bounds
PHASE_CNT by the five bits of its field, so in `overlongPhases` the phase list reaches KIND. -/
theorem not_stepTimeWrites : ¬ Obligations.step_time_writes := fun h => by
  obtain ⟨hctrl, hstate, harm⟩ := overlongPhases_premises
  obtain ⟨hkind, hkind', hlater, hphase⟩ := overlongPhases_armable
  obtain ⟨u, hu, harmed⟩ := armed_of_stepTimeWrites h (i := 0) hctrl (by decide) rfl rfl hstate harm hkind hkind' hlater hphase
  have hrefused := overlongPhases_refused
  rw [hu] at hrefused
  exact absurd (harmed.symm.trans hrefused) (by decide)

end Sys2Proof.Machine
end

section
/-!
SUPPORT. Events that wait for work in flight (R54, R55, R118, R161, R345, R346).
-/

open Sys2Proof Sys2Proof.Machine Sys2Proof.Claims

namespace Sys2Proof.Machine

/-- The mark of epoch 1. -/
def markOne : FiredEv := { kind := 6, when_ := 0, target := 1, arg0 := 0, arg1 := 0, idx := 0, skip := false }

/-- A NODE_ID of more than 12 bits, for which the entry of the partner map lies where SESS_UP of fabric port 0 does. -/
def wideNode : Nat := (2 ^ 39 + 0x500104 - 0xe02000) / 2

/-- A state that no run reaches: NODE_ID, a field of twelve bits, holds `wideNode`, so that the own KIND of the partner map is SESS_UP of
fabric port 0. It names one partner, node 5, which is reached over the one session of that port, and the counter of that session is at its end. -/
def wideNodeState : State :=
  { regs := [(fieldKey R.PART_CFG_PART_STATE 0 0 0, 0), (fieldKey R.FAB_NODE_NODE_ID 0 0 0, wideNode), (fieldKey R.ROUTE_NEXT_HOP 0 5 0, 7),
      (fieldKey R.ROUTE_VALID 0 5 0, 1), (fieldKey R.HBM_KEY_STATE_STATE 0 0 0, 1), (fieldKey R.RS_CTRL_RS_EN 0 0 0, 1),
      (fieldKey R.FP_STATUS_PSTATE 4 0 0, 5), (fieldKey R.FP_STATUS_SESS_UP 4 0 0, 1), (fieldKey R.FP_PEER_NODE 4 0 0, 7),
      (fieldKey R.FP_PEER_OPEN 4 0 0, 1)]
    firing := [(0, [markOne])]
    sess := [(0, { tx := 2 ^ 48 - 1 })] }

theorem wideNodeState_premises : firingOf wideNodeState 0 = [markOne] ∧ running wideNodeState 0 = true ∧ mapFind wideNodeState.epochWait 0 = none
    ∧ rsEnabled wideNodeState 0 = true ∧ keyLoaded wideNodeState 0 = true ∧ appliesDone wideNodeState 0 = true ∧ gateMet wideNodeState 0 = true
    ∧ stacksFree wideNodeState 0 = true ∧ markOne.target = (rd wideNodeState 0 R.RS_EPOCH_LAST_EPOCH + 1) % 2 ^ 32
    ∧ listRegions wideNodeState 0 = ([], none) ∧ journals wideNodeState 0 = false := by
  decide +kernel

/-- One partner must acknowledge the close. -/
theorem wideNodeState_partner :
    (allPartners wideNodeState 0 (ownNode wideNodeState 0)).filter (notLapsed wideNodeState 0) ≠ [] := by
  decide +kernel

/-- The echo of the mark closes the session, SESS_UP falls to 0, and the partner is gone before the epoch asks for it. -/
theorem wideNodeState_closes :
    (match exec (.epochClose 0) wideNodeState with | .next u => firingOf u 0 | _ => [markOne]) = [] := by
  decide +kernel

/-- Refutes O31 through its EPOCH_CLOSE clause: the statement reads the partners before the event acts, the model after the echo of the mark,
which can end a session, and no premise bounds NODE_ID by its twelve bits. In `wideNodeState` the partner map then names the partner by a
status bit which the end of the session clears, and the epoch closes at once. -/
theorem not_waitingEventResults : ¬ Obligations.waiting_event_results := fun h => by
  obtain ⟨hfiring, hrun, hwait, hen, hkey, happlies, hgate, hstacks, htarget, hregions, hjournals⟩ := wideNodeState_premises
  obtain ⟨u, hu, -, -, -, -, -, -, -, hacks⟩ :=
    (h 0 wideNodeState markOne hfiring hrun (by decide)).2.2.1 [] rfl hwait hen hkey happlies hgate hstacks htarget hregions hjournals
  have hwaits : firingOf u 0 = [markOne] := (hacks wideNodeState_partner).1
  have hcloses := wideNodeState_closes
  rw [hu] at hcloses
  exact List.cons_ne_nil _ _ (hwaits.symm.trans hcloses)

end Sys2Proof.Machine
end

section
/-!
SUPPORT. The canonical form of the memories (spec/03, R79, R288) as a rule for each operation of the model: from a canonical state the
operation leaves a canonical one. `MemInv.f` is the rule of the model's function f, and its proof follows f's own branches. Only the few
functions that write a memory have more to say than that the memories are left alone (`MemInv.frame`).
-/

open Sys2Proof Sys2Proof.Machine Sys2Proof.Claims

namespace Sys2Proof.Machine

set_option Elab.async false

/-! ### Results that hold a state -/

/-- The state of an optional result is canonical. -/
def OptInv : Option State → Prop
  | some s => MemInv s
  | none => True

/-- The state of an optional pair is canonical. -/
def OptFst {α : Type} : Option (State × α) → Prop
  | some x => MemInv x.1
  | none => True

/-- The state of a result that may be an error is canonical. -/
def ExcInv {ε : Type} : Except ε State → Prop
  | .ok s => MemInv s
  | .error _ => True

/-- The state of a result that may be an error or absent is canonical. -/
def ExcOpt {ε : Type} : Except ε (Option State) → Prop
  | .ok o => OptInv o
  | .error _ => True

/-- The next state of an outcome is canonical. -/
def OutInv : Host.Outcome State Fault Refusal → Prop
  | .next s => MemInv s
  | _ => True

theorem OutInv.next {s : State} (h : MemInv s) : OutInv (.next s) := h

/-- An update of anything but the memories keeps the form. -/
theorem MemInv.frame {s u : State} (h : MemInv s) (hs : u.sram = s.sram := by rfl) (hh : u.hbm = s.hbm := by rfl) : MemInv u :=
  ⟨hs ▸ h.1, hh ▸ h.2⟩

theorem MemInv.of_fst {α : Type} {p : State × α} {s : State} {a : α} (he : p = (s, a)) (h : MemInv p.1) : MemInv s := by
  subst he
  exact h

theorem MemInv.of_some {o : Option State} {s : State} (he : o = some s) (h : OptInv o) : MemInv s := by
  subst he
  exact h

theorem MemInv.of_some_fst {α : Type} {o : Option (State × α)} {s : State} {a : α} (he : o = some (s, a)) (h : OptFst o) :
    MemInv s := by
  subst he
  exact h

theorem MemInv.of_ok {ε : Type} {o : Except ε State} {s : State} (he : o = .ok s) (h : ExcInv o) : MemInv s := by
  subst he
  exact h

theorem MemInv.of_ok_some {ε : Type} {o : Except ε (Option State)} {s : State} (he : o = .ok (some s)) (h : ExcOpt o) : MemInv s := by
  subst he
  exact h

/-! ### Branches and loops -/

section

variable {c : Prop} [Decidable c] {α ε : Type}

theorem MemInv.ite {a b : State} (ha : MemInv a) (hb : MemInv b) : MemInv (if c then a else b) := by
  split <;> assumption

theorem MemInv.ite_fst {a b : State × α} (ha : MemInv a.1) (hb : MemInv b.1) : MemInv (if c then a else b).1 := by
  split <;> assumption

theorem OptInv.ite {a b : Option State} (ha : OptInv a) (hb : OptInv b) : OptInv (if c then a else b) := by
  split <;> assumption

theorem OptFst.ite {a b : Option (State × α)} (ha : OptFst a) (hb : OptFst b) : OptFst (if c then a else b) := by
  split <;> assumption

theorem ExcInv.ite {a b : Except ε State} (ha : ExcInv a) (hb : ExcInv b) : ExcInv (if c then a else b) := by
  split <;> assumption

theorem ExcOpt.ite {a b : Except ε (Option State)} (ha : ExcOpt a) (hb : ExcOpt b) : ExcOpt (if c then a else b) := by
  split <;> assumption

theorem OutInv.ite {a b : Host.Outcome State Fault Refusal} (ha : OutInv a) (hb : OutInv b) : OutInv (if c then a else b) := by
  split <;> assumption

end

theorem MemInv.foldl {α : Type} {f : State → α → State} {l : List α} {s : State} (h : MemInv s)
    (hf : ∀ u x, MemInv u → MemInv (f u x)) : MemInv (l.foldl f s) := by
  induction l generalizing s with
  | nil => exact h
  | cons x l ih => exact ih (hf _ _ h)

theorem MemInv.foldl_fst {α β : Type} {f : State × β → α → State × β} {l : List α} {x : State × β} (h : MemInv x.1)
    (hf : ∀ x a, MemInv x.1 → MemInv (f x a).1) : MemInv (l.foldl f x).1 := by
  induction l generalizing x with
  | nil => exact h
  | cons a l ih => exact ih (hf _ _ h)

theorem OptInv.foldl {α : Type} {f : Option State → α → Option State} {l : List α} {x : Option State} (h : OptInv x)
    (hf : ∀ x a, OptInv x → OptInv (f x a)) : OptInv (l.foldl f x) := by
  induction l generalizing x with
  | nil => exact h
  | cons a l ih => exact ih (hf _ _ h)

/-! ### The writers of the memories -/

theorem MemInv.sramWrite {s : State} {a : Nat} {bs : List Byte} (h : MemInv s) : MemInv (sramWrite s a bs) :=
  ⟨wf_sramWrite _ _ _ h.1, h.2⟩

theorem MemInv.sramSet {s : State} {a : Nat} {b : Byte} (h : MemInv s) : MemInv (sramSet s a b) :=
  ⟨wf_sramSet _ _ _ h.1, h.2⟩

theorem MemInv.hbmWrite {s : State} {a : Nat} {bs : List Byte} (h : MemInv s) : MemInv (hbmWrite s a bs) :=
  ⟨h.1, wfHbm_hbmWrite _ _ _ h.2⟩

theorem MemInv.hbmForget {s : State} {a n : Nat} (h : MemInv s) : MemInv (hbmForget s a n) :=
  ⟨h.1, wfHbm_hbmForget _ _ _ h.2⟩

end Sys2Proof.Machine
end

section
/-!
SUPPORT. The canonical form of the memories under the named operations of the state: fields, memories, messages, frames and signals.
-/

open Sys2Proof Sys2Proof.Machine Sys2Proof.Claims

namespace Sys2Proof.Machine

set_option Elab.async false

variable {s : State}

theorem MemInv.wr {p : Nat} {f : Reg} {v i j : Nat} (h : MemInv s) : MemInv (wr s p f v i j) := h.frame

theorem MemInv.wrb {p : Nat} {f : Reg} {b : Bool} {i j : Nat} (h : MemInv s) : MemInv (wrb s p f b i j) := h.frame

theorem MemInv.wrSat {p : Nat} {f : Reg} {n i j : Nat} (h : MemInv s) : MemInv (wrSat s p f n i j) := h.frame

theorem MemInv.wrAdd {p : Nat} {f : Reg} {n i j : Nat} (h : MemInv s) : MemInv (wrAdd s p f n i j) := h.frame

theorem MemInv.setTile {t : Nat} {x : TileState} (h : MemInv s) : MemInv (setTile s t x) := h.frame

theorem MemInv.setQueue {t q : Nat} {x : EngQueue} (h : MemInv s) : MemInv (setQueue s t q x) := h.frame

theorem MemInv.setG {t : Nat} {r : BitVec 5} {v : Word} (h : MemInv s) : MemInv (setG s t r v) := .ite h h.frame

theorem MemInv.tickFree (h : MemInv s) : MemInv (tickFree s) := h.frame

theorem MemInv.sramForget {a n : Nat} (h : MemInv s) : MemInv (sramForget s a n) := h.sramWrite.tickFree

theorem MemInv.hostRead {port addr len : Nat} {ns : Bool} {pasid : Option Nat} (h : MemInv s) :
    MemInv (hostRead s port addr len ns pasid) := h.frame

theorem MemInv.raiseIrq {port vec : Nat} (h : MemInv s) : MemInv (raiseIrq s port vec) := .ite h.frame h.frame

theorem MemInv.sendFault {m : FaultMsg} (h : MemInv s) : MemInv (sendFault s m) := h.frame

theorem MemInv.setSess {k : Nat} {x : Sess} (h : MemInv s) : MemInv (setSess s k x) := h.frame

theorem MemInv.sendSess {k : Nat} {x : FabFrame} (h : MemInv s) : MemInv (sendSess s k x) := h.frame

theorem MemInv.shutSess {k : Nat} (h : MemInv s) : MemInv (shutSess s k) := .ite h.frame h.frame

theorem MemInv.exhaustSess {k : Nat} (h : MemInv s) : MemInv (exhaustSess s k) := h.shutSess.sendFault

theorem MemInv.sendHop {hop : Nat} {x : FabFrame} (h : MemInv s) : MemInv (sendHop s hop x) := by
  unfold Machine.sendHop
  refine .ite h.frame ?_
  split
  case h_1 k _ => exact .ite (h.exhaustSess (k := k)).frame (.ite h.sendSess h.frame)
  case h_2 => exact h.frame

theorem MemInv.drainWait {p : Nat} (h : MemInv s) : MemInv (drainWait s p) := .ite (h.frame.foldl fun _ _ h1 => h1.sendHop) h

theorem MemInv.post {p : Nat} {b : Body} {unit msgId : Nat} (h : MemInv s) : MemInv (post s p b unit msgId) := by
  unfold Machine.post
  dsimp only
  split
  exacts [h.frame.sendHop, .ite h.frame ((h.frame.foldl fun _ _ h1 => h1.sendHop).drainWait), h.frame]

end Sys2Proof.Machine
end

section
/-!
SUPPORT. The canonical form of the memories under reads and writes through device addresses, and under abandoned matrix commands.
-/

open Sys2Proof Sys2Proof.Machine Sys2Proof.Claims

namespace Sys2Proof.Machine

set_option Elab.async false

variable {s : State}

theorem MemInv.setCtr {c : CtrRef} {v : Nat} (h : MemInv s) : MemInv (setCtr s c v) := by
  unfold Machine.setCtr
  split <;> exact h.frame

theorem MemInv.issueInc {c : CtrRef} {src amount : Nat} (h : MemInv s) : MemInv (issueInc s c src amount) := h.frame

theorem MemInv.signalDie {d i src : Nat} (h : MemInv s) : MemInv (signalDie s d i src) := h.frame

theorem MemInv.blockPut {k off : Nat} {bs : List Byte} (h : MemInv s) : OptInv (blockPut s k off bs) := .ite h.hbmWrite.hbmWrite trivial

/-- The state a checked write leaves, when its block passes. -/
theorem MemInv.of_blockPut {s' : State} {k off : Nat} {bs : List Byte} (h : MemInv s) (he : Machine.blockPut s k off bs = some s') :
    MemInv s' := .of_some he h.blockPut

theorem MemInv.noteRead {p : Nat} {x : Space} {n unit msg : Nat} (h : MemInv s) : MemInv (noteRead s p x n unit msg) := by
  unfold Machine.noteRead
  split
  exacts [h.post, .ite h h.frame, h]

theorem MemInv.writePiece {p : Nat} {x : Space} {unit msg d : Nat} {bs : List Byte} (h : MemInv s) :
    ExcInv (writePiece s p x unit msg d bs) := by
  unfold Machine.writePiece
  split
  case h_1 =>
    refine .ite h.hbmWrite ?_
    split
    case h_1 he => exact MemInv.of_some he h.blockPut
    exact trivial
  case h_2 =>
    refine .ite h.hbmWrite ?_
    split
    case h_1 he => exact MemInv.of_some he h.blockPut
    exact trivial
  exacts [h.sramWrite, h.sramWrite, MemInv.ite h.frame h, h.post]

theorem MemInv.writePieces {p : Nat} {x : Space} {unit msg : Nat} {bs : List Byte} {l : List (Nat × Nat)} (h : MemInv s) :
    MemInv (writePieces s p x unit msg bs l).1 := by
  induction l generalizing s with
  | nil => exact h
  | cons d l ih =>
    unfold Machine.writePieces
    split
    case h_1 => exact h
    case h_2 he => exact ih (.of_ok he h.writePiece)

theorem MemInv.devWrite {p : Nat} {x : Space} {bs : List Byte} {unit msg : Nat} (h : MemInv s) : MemInv (devWrite s p x bs unit msg).1 :=
  h.writePieces

theorem MemInv.writeRuns {p : Nat} {runs : List (Nat × List Byte)} {unit msg : Nat} (h : MemInv s) :
    MemInv (writeRuns s p runs unit msg).1 := by
  induction runs generalizing s with
  | nil => exact h
  | cons r runs ih =>
    unfold Machine.writeRuns
    split
    case h_1 he => exact .of_fst he h.devWrite
    case h_2 he => exact ih (.of_fst he h.devWrite)

theorem MemInv.devForget {x : Space} {n : Nat} (h : MemInv s) : MemInv (devForget s x n) := by
  unfold Machine.devForget
  split
  exacts [h.hbmForget, h.foldl fun _ _ h1 => h1.hbmForget, h.sramForget, h.sramForget, h, h]

theorem MemInv.mmaTile {t : Nat} {m : MmaCmd} {cs : List Nat} {n : Nat} (h : MemInv s) : MemInv (mmaTile s t m cs n) :=
  .foldl (.ite h.sramWrite h) fun _ _ h1 => h1.foldl fun _ _ h2 => h2.sramWrite

theorem MemInv.mmaRedo {t : Nat} {r : RunCmd} {n : Nat} (h : MemInv s) : MemInv (mmaRedo s t r n) := h.sramWrite.mmaTile.tickFree

theorem MemInv.settleMma {t : Nat} {r : RunCmd} (h : MemInv s) : MemInv (settleMma s t r) := .ite h.mmaRedo h

theorem MemInv.abandonMma {t : Nat} {r : RunCmd} (h : MemInv s) : MemInv (abandonMma s t r) := .ite h.mmaRedo h

/-- Not one of the state's lemmas above: the cells of HBM are dropped without a fresh draw. -/
theorem MemInv.dropCells {key n : Nat} (h : MemInv s) : MemInv { s with hbm := cellsDrop s.hbm key n } :=
  ⟨h.1, wfHbm_filter _ _ h.2⟩

theorem MemInv.putOld {port : Bool} {key : Nat} {x : Option Byte} (h : MemInv s) : MemInv (putOld s port key x) := by
  unfold Machine.putOld
  split
  case h_1 => exact .ite h.hbmWrite h.sramSet
  case h_2 => exact h.dropCells

theorem MemInv.abandonDrain {r : RunCmd} (h : MemInv s) : MemInv (abandonDrain s r) := by
  unfold Machine.abandonDrain
  exact .tickFree (h.foldl fun _ x hx => .ite hx.putOld hx)

end Sys2Proof.Machine
end

section
/-!
SUPPORT. The canonical form of the memories under the rules of host queues, HOLD, SAFE and field writes.
-/

open Sys2Proof Sys2Proof.Machine Sys2Proof.Claims

namespace Sys2Proof.Machine

set_option Elab.async false

variable {s : State}

theorem MemInv.setHq {p q : Nat} {x : HQueue} (h : MemInv s) : MemInv (setHq s p q x) := h.frame

theorem MemInv.setHqState {p q v : Nat} (h : MemInv s) : MemInv (setHqState s p q v) := h.frame

theorem MemInv.dropDesc {p q : Nat} {d : QDesc} (h : MemInv s) : MemInv (dropDesc s p q d) := h.frame

theorem MemInv.releaseWaits {p : Nat} (h : MemInv s) : MemInv (releaseWaits s p) := by
  refine h.foldl fun _ _ h1 => ?_
  split
  exacts [.ite h1.frame h1, h1]

theorem MemInv.qIrq {p q : Nat} (h : MemInv s) : MemInv (qIrq s p q) := h.frame.raiseIrq

theorem MemInv.countRec {p q : Nat} (h : MemInv s) : MemInv (countRec s p q) := .ite h.frame.qIrq h.frame

theorem MemInv.writeRec {p q : Nat} {r : QRec} (h : MemInv s) : MemInv (writeRec s p q r) :=
  .ite (.countRec (.wrAdd (.ite h.frame h.frame))) (.wrAdd (.ite h.frame h.frame))

theorem MemInv.drainRecs {p q : Nat} (h : MemInv s) : MemInv (drainRecs s p q) := .ite (h.frame.foldl fun _ _ h1 => h1.writeRec) h

theorem MemInv.qRecord {p q : Nat} {r : QRec} (h : MemInv s) : MemInv (qRecord s p q r) := .ite h.frame.drainRecs h

theorem MemInv.havoc {l : List (Bool × Nat × Nat)} (h : MemInv s) : MemInv (havoc s l) :=
  h.foldl fun _ _ h1 => .ite h1.hbmForget h1.sramForget

theorem MemInv.dropLoad {u : Nat} (h : MemInv s) : MemInv (dropLoad s u) := h.frame

theorem MemInv.dropWaiter {src : Nat} (h : MemInv s) : MemInv (dropWaiter s src) := h.frame

theorem MemInv.qStall {p q kind : Nat} (h : MemInv s) : MemInv (qStall s p q kind) := .ite h.frame h

theorem MemInv.abandonDesc {p q : Nat} {status : Option Nat} {d : QDesc} (h : MemInv s) : MemInv (abandonDesc s p q status d) := by
  unfold Machine.abandonDesc
  dsimp only
  split
  case h_1 =>
    refine .qRecord ?_
    split
    exacts [.dropLoad (.tickFree (.ite h h.havoc)), .tickFree (.ite h h.havoc)]
  case h_2 =>
    split
    exacts [.dropLoad (.tickFree (.ite h h.havoc)), .tickFree (.ite h h.havoc)]

theorem MemInv.abandonQueue {p q : Nat} {status : Option Nat} {keep : Bool} (h : MemInv s) : MemInv (abandonQueue s p q status keep) :=
  h.frame.foldl fun _ _ h1 => h1.abandonDesc

theorem MemInv.resetHostQueue {p q : Nat} {status : Option Nat} (h : MemInv s) : MemInv (resetHostQueue s p q status) :=
  h.abandonQueue.setHq.wrb.setHqState

theorem MemInv.holdQueues {p : Nat} (h : MemInv s) : MemInv (holdQueues s p) := h.foldl fun _ _ h1 => .ite h1.abandonQueue.setHqState h1

theorem MemInv.holdFrame {p : Nat} {c : Instr} {k : State → State} (h : MemInv s) (hk : ∀ u, MemInv u → MemInv (k u)) :
    MemInv (holdFrame s p c k) := .ite h.frame (hk _ h)

theorem MemInv.abandonMatrix {t : Nat} {r : RunCmd} (h : MemInv s) : MemInv (abandonMatrix s t r) := by
  unfold Machine.abandonMatrix
  split
  exacts [h.abandonMma, h.abandonDrain, .ite h.frame h, h.havoc]

theorem MemInv.abandonCmd {t q before after : Nat} {r : RunCmd} (h : MemInv s) : MemInv (abandonCmd s t q before after r) := by
  unfold Machine.abandonCmd
  dsimp only
  split
  exacts [.dropLoad (.ite h.frame (.ite h.frame.abandonMatrix h.frame.havoc)), .ite h.frame (.ite h.frame.abandonMatrix h.frame.havoc)]

theorem MemInv.abandonCmds {t q before : Nat} {l : List RunCmd} (h : MemInv s) :
    MemInv (abandonCmds s t q before l) := by
  induction l generalizing s before with
  | nil => exact h
  | cons r l ih => exact ih h.abandonCmd

theorem MemInv.holdEngQueue {t q : Nat} (h : MemInv s) : MemInv (holdEngQueue s t q) := .abandonCmds (.wr (.setQueue (.ite h.frame h)))

theorem MemInv.holdTile {t : Nat} (h : MemInv s) : MemInv (holdTile s t) := .foldl (.setTile (.ite h.frame h)) fun _ _ h1 => h1.holdEngQueue

theorem MemInv.holdVer {p t n : Nat} {x : Option Nat} (h : MemInv s) : MemInv (holdVer s p t n x) := by
  unfold Machine.holdVer
  split
  exacts [h.frame, h]

theorem MemInv.releaseVer {p t n : Nat} {x : Option Nat} (h : MemInv s) : MemInv (releaseVer s p t n x) := by
  unfold Machine.releaseVer
  split
  exacts [h.frame, h]

theorem MemInv.dropLooks {p : Nat} (h : MemInv s) : MemInv (dropLooks s p) := by
  unfold Machine.dropLooks
  extract_lets mine s1 s2 s3 s4 s5 s6 s7
  have h1 : MemInv s1 := h.foldl fun _ _ h => h.releaseVer
  have h3 : MemInv s3 := h1.frame (u := s2) |>.foldl fun _ _ h => h.releaseVer
  have h5 : MemInv s5 := h3.frame (u := s4) |>.foldl fun _ _ h => by split <;> exact h.releaseVer
  have h7 : MemInv s7 := h5.frame (u := s6) |>.foldl fun _ _ h => h.wrb
  exact h7.frame

theorem MemInv.holdColl {p k : Nat} (h : MemInv s) : MemInv (holdColl s p k) := by
  refine .ite (.devForget (.wr ?_)) ?_
  · split
    exacts [h.frame, h]
  · split
    exacts [h.frame, h]

theorem MemInv.holdSd {p : Nat} (h : MemInv s) : MemInv (holdSd s p) := .ite h.frame h.frame

theorem MemInv.applyHold {p : Nat} (h : MemInv s) : MemInv (applyHold s p) := by
  unfold Machine.applyHold
  extract_lets s1 s2 s3 s4 s5 s6
  have h2 : MemInv s2 := (h.foldl fun _ _ h => h.holdTile).dropLooks
  clear_value s2
  have h4 : MemInv s4 := h2.frame
  exact (h4.holdSd.foldl fun _ _ h => h.holdColl).holdQueues

theorem MemInv.enterHold {p : Nat} (h : MemInv s) : MemInv (enterHold s p) := .ite h (.ite h.frame h.frame.applyHold)

theorem MemInv.zeroSlot {p : Nat} (h : MemInv s) : MemInv (zeroSlot s p) := h.frame

theorem MemInv.enterSafe {kind : Nat} (h : MemInv s) : MemInv (enterSafe s kind) := by
  unfold Machine.enterSafe
  extract_lets g s1 s2 s3 s4
  have h1 : MemInv s1 := .ite h.frame h
  have h3 : MemInv s3 := .ite h1.wrSat h1.wrSat.wr
  have h4 : MemInv s4 := h3.foldl fun _ _ h => h.zeroSlot
  exact .ite h h4.frame

theorem MemInv.faultHold {p : Nat} (h : MemInv s) : MemInv (faultHold s p) := .enterHold (.ite h h.frame)

theorem MemInv.raise {src : Nat} {k : Kind} {p addr detail : Nat} (h : MemInv s) : MemInv (raise s src k p addr detail) :=
  .ite h.frame.faultHold (.ite h.frame.enterSafe h.frame)

theorem MemInv.raisePkg {src : Nat} {k : Kind} {addr detail : Nat} (h : MemInv s) : MemInv (raisePkg s src k addr detail) :=
  .ite h.frame.enterSafe h.frame

theorem MemInv.ideNote {port : Nat} (h : MemInv s) : MemInv (ideNote s port) := .ite h.frame.raise h

theorem MemInv.barInvalid {port : Nat} (h : MemInv s) : MemInv (barInvalid s port) := .ite h.raisePkg h.raise

theorem MemInv.bar4Note {port : Nat} (h : MemInv s) : MemInv (bar4Note s port) := .ite h (.ite h.ideNote (.ite h h.frame.raise))

theorem MemInv.accessPort {a : Access} {k : Nat → State} (h : MemInv s) (hk : ∀ u, MemInv (k u)) : MemInv (accessPort s a k) :=
  .ite h (.ite h.barInvalid (.ite h.ideNote (.ite h (hk _))))

theorem MemInv.accessCtl {a : Access} {k : Nat → State} (h : MemInv s) (hk : ∀ u, MemInv (k u)) : MemInv (accessCtl s a k) :=
  h.accessPort (fun _ => .ite (hk _) h)

theorem MemInv.fieldWrite {p : Nat} {f : Reg} {i j b off size v : Nat} {locked auth : Bool} (h : MemInv s) :
    MemInv (fieldWrite s p f i j b off size v locked auth) := by
  unfold Machine.fieldWrite
  dsimp only
  split
  exacts [h.frame, h.frame, .ite h h.frame, .ite h.frame h, h]

theorem MemInv.fieldsWrite {p off size v : Nat} {locked auth : Bool} {allow : Reg → Nat → Nat → Bool} (h : MemInv s) :
    MemInv (fieldsWrite s p off size v locked auth allow) := by
  refine h.foldl fun _ _ h1 => h1.foldl fun _ _ h2 => .ite h2 ?_
  split
  exacts [h2, .ite h2.fieldWrite h2]

theorem MemInv.execBarAccessInvalid {port : HPort} {write : Bool} {off size : Nat} (h : MemInv s) :
    OutInv (execBarAccessInvalid port write off size s) := by
  unfold Machine.execBarAccessInvalid
  extract_lets s1
  have h1 : MemInv s1 := .ite h h.barInvalid
  exact .next (.ite h (.ite h1 h1.frame))

end Sys2Proof.Machine
end

section
/-!
SUPPORT. The canonical form of the memories under the control core and the control of the engine queues.
-/

open Sys2Proof Sys2Proof.Machine Sys2Proof.Claims

namespace Sys2Proof.Machine

set_option Elab.async false

variable {s : State}

theorem MemInv.coreFault {t : Nat} {k : Kind} {addr : Nat} (h : MemInv s) : MemInv (coreFault s t k addr) := h.frame.raise

theorem MemInv.enterPc {t pc : Nat} (h : MemInv s) : MemInv (enterPc s t pc) := .ite h.frame h.frame.coreFault

theorem MemInv.recheckPc {t : Nat} (h : MemInv s) : MemInv (recheckPc s t) := .ite h.coreFault h

theorem MemInv.advance {t : Nat} (h : MemInv s) : MemInv (advance s t) := .ite h.coreFault h.enterPc

theorem MemInv.jumpTo {t : Nat} {target : Int} {link : State → State} (h : MemInv s) (hk : ∀ u, MemInv u → MemInv (link u)) :
    MemInv (jumpTo s t target link) := .ite (.enterPc (hk _ h)) h.coreFault

theorem MemInv.coreExec {t w : Nat} {legal : Bool} {body : State → State} (h : MemInv s) (hk : ∀ u, MemInv u → MemInv (body u)) :
    MemInv (coreExec s t w legal body) := .ite (.ite (hk _ h) h.coreFault) h

theorem MemInv.coreResult {t w : Nat} {legal : Bool} {rd : BitVec 5} {v : Word} (h : MemInv s) : MemInv (coreResult s t w legal rd v) :=
  h.coreExec (fun _ h1 => h1.setG.advance)

theorem MemInv.coreLoad {t w n : Nat} {rd rs1 : BitVec 5} {imm : BitVec 16} {f : Nat → Word} (h : MemInv s) :
    MemInv (coreLoad s t w n rd rs1 imm f) := by
  refine h.coreExec (fun _ h1 => ?_)
  split
  exacts [h1.coreFault, h1.setG.advance]

theorem MemInv.coreStore {t w n : Nat} {rs2 rs1 : BitVec 5} {imm : BitVec 16} (h : MemInv s) : MemInv (coreStore s t w n rs2 rs1 imm) := by
  refine h.coreExec (fun _ h1 => ?_)
  split
  exacts [h1.coreFault, h1.sramWrite.advance]

theorem MemInv.coreBranch {t op : Nat} {rs1 rs2 : BitVec 5} {off : BitVec 16} {c : Word → Word → Bool} (h : MemInv s) :
    MemInv (coreBranch s t op rs1 rs2 off c) := h.coreExec (fun _ h1 => .ite (h1.jumpTo (fun _ h2 => h2)) h1.advance)

theorem MemInv.pushQueue {t q : Nat} {c : Cmd} (h : MemInv s) : MemInv (pushQueue s t q c) :=
  .ite h.frame (.ite h (.ite h.frame h.frame.raise))

theorem MemInv.resetQueue {t q : Nat} (h : MemInv s) : MemInv (resetQueue s t q) := .ite (.wr (.ite h.frame h.frame)) h

theorem MemInv.resetQueues {t mask : Nat} (h : MemInv s) : MemInv (resetQueues s t mask) := h.foldl fun _ _ h1 => .ite h1.resetQueue h1

theorem MemInv.sendInc {p src node index amount : Nat} (h : MemInv s) : MemInv (sendInc s p src node index amount) := h.post

theorem MemInv.execSig {t : Tile} {rd rs1 rs2 : BitVec 5} {funct : BitVec 11} (h : MemInv s) : OutInv (execSig t rd rs1 rs2 funct s) := by
  refine h.coreExec (fun _ h1 => ?_)
  split
  exacts [h1.coreFault, h1.coreFault, .ite h1.coreFault h1.frame.advance, .ite h1.coreFault (.ite h1.coreFault h1.sendInc.advance)]

theorem MemInv.execWait {t : Tile} {rd rs1 rs2 : BitVec 5} {funct : BitVec 11} (h : MemInv s) : OutInv (execWait t rd rs1 rs2 funct s) := by
  refine h.coreExec (fun _ h1 => ?_)
  split
  exacts [h1.coreFault, h1.coreFault, h1.coreFault, .ite h1.advance h1.frame]

theorem MemInv.execRdsr {t : Tile} {rd rs1 : BitVec 5} {imm : BitVec 16} (h : MemInv s) : OutInv (execRdsr t rd rs1 imm s) := by
  refine .next ?_
  split
  exacts [h.coreResult, h.coreExec (fun _ h1 => h1.frame.setG.advance), h.coreResult, h.coreExec (fun _ h1 => h1)]

theorem MemInv.startTile {t pc : Nat} (h : MemInv s) : MemInv (startTile s t pc) := h.frame.enterPc

theorem MemInv.requestStart {t pc : Nat} (h : MemInv s) : MemInv (requestStart s t pc) := .ite h (.ite h.frame h.startTile)

theorem MemInv.requestStop {t : Nat} (h : MemInv s) : MemInv (requestStop s t) := .ite h.frame h

theorem MemInv.startCmd {t q : Nat} {r : RunCmd} (h : MemInv s) : MemInv (startCmd s t q r) := h.frame

theorem MemInv.engineRow {t q opc : Nat} {defined : Nat → Bool} {body : State → QEntry → Option (State × RunCmd)} (h : MemInv s)
    (hbody : ∀ u e, MemInv u → OptFst (body u e)) : MemInv (engineRow s t q opc defined body) := by
  unfold Machine.engineRow
  split
  case h_1 => exact h
  case h_2 =>
    refine .ite h.startCmd (.ite h ?_)
    split
    case h_1 => exact h.startCmd
    case h_2 =>
      split
      case h_1 => exact h
      case h_2 he =>
        have h1 := MemInv.of_some_fst he (hbody _ _ h)
        exact .ite h1.startCmd.holdEngQueue h1.startCmd

theorem MemInv.eccCorrected {t : Nat} {x : EccMem} (h : MemInv s) : MemInv (eccCorrected s t x) := by
  unfold Machine.eccCorrected
  dsimp only
  split
  exacts [h.frame.raise, h.frame.raise, h.frame.raise, h.frame.raise, .ite h.frame.raise h.frame]

theorem MemInv.eccUncorrected {t : Nat} {x : EccMem} (h : MemInv s) : MemInv (eccUncorrected s t x) := by
  unfold Machine.eccUncorrected
  dsimp only
  split
  exacts [h.raise, h.raise, h.raise, h.raise, h.frame.raise]

theorem MemInv.underEcc {ecc : Ecc} {f : State → State} (h : MemInv s) (hf : ∀ u, MemInv u → MemInv (f u)) :
    MemInv (underEcc s ecc f) := by
  unfold Machine.underEcc
  extract_lets bad
  have hbad (k o) : MemInv (bad k o) := (hf { s with poison := some (hbmKey k (o.toNat / 64 * 64)) } h.frame).frame
  split
  case h_1 => exact .ite (hf _ h) (hf _ h.eccCorrected)
  case h_2 k o => exact .ite (hf _ h) (hbad k o).eccUncorrected
  case h_3 => exact hf _ h

theorem MemInv.eccReads {t : Nat} {l : List (Bool × Nat × Nat)} {ecc : Ecc} {f : State → State} (h : MemInv s)
    (hk : ∀ u, MemInv u → MemInv (f u)) : MemInv (eccReads s t l ecc f) := by
  unfold Machine.eccReads
  split
  exacts [.ite (hk _ h.eccCorrected) (h.underEcc (fun _ h1 => hk _ h1)), .ite h.eccUncorrected (h.underEcc (fun _ h1 => hk _ h1)), hk _ h]

theorem MemInv.setSlot {t k : Nat} {r : SlotRec} (h : MemInv s) : MemInv (setSlot s t k r) := h.frame

theorem MemInv.freeTile {t k : Nat} (h : MemInv s) : MemInv (freeTile s t k) := .ite h.frame h.frame

theorem MemInv.headerSignal {t q : Nat} {c : Cmd} (h : MemInv s) : MemInv (headerSignal s t q c) := by
  unfold Machine.headerSignal
  dsimp only
  split
  exacts [h.frame, .ite h.sendInc (.raise (.ite h.frame h.frame)), h]

theorem MemInv.writeSummary {t : Nat} {keep : Bool} {x : Option (Nat × List Half)} (h : MemInv s) : MemInv (writeSummary s t keep x) := by
  unfold Machine.writeSummary
  dsimp only
  split
  exacts [h.frame, h]

theorem MemInv.endLoad {u : Nat} (h : MemInv s) : MemInv (endLoad s u) := by
  unfold Machine.endLoad
  dsimp only
  split
  exacts [h.frame, .ite h.frame.startTile h.frame]

theorem MemInv.cmdFault {t q status : Nat} {f : CmdFault} (h : MemInv s) : MemInv (cmdFault s t q status f) := .raise (.ite h.frame h)

theorem MemInv.leaveReset {t q : Nat} (h : MemInv s) : MemInv (leaveReset s t q) := .ite h.frame h

theorem MemInv.countAbort {r : RunCmd} {f : CmdFault} (h : MemInv s) : MemInv (countAbort s r f) := by
  unfold Machine.countAbort
  split
  exacts [.ite h.frame h, h]

theorem MemInv.endMatrix {t : Nat} {r : RunCmd} (h : MemInv s) : MemInv (endMatrix s t r) := by
  refine .ite h ?_
  split
  exacts [h.settleMma, .ite h.freeTile h, h]

theorem MemInv.completeCmd {t q : Nat} {r : RunCmd} {rest : List RunCmd} (h : MemInv s) :
    MemInv (completeCmd s t q r rest) := by
  unfold Machine.completeCmd
  extract_lets _ _ _ _ s4 s5 s6 s7 s8
  have h4 : MemInv s4 := h.setQueue.wrAdd.wr.writeSummary
  have h5 : MemInv s5 := by unfold s5; split; exacts [h4.endLoad, h4]
  have h6 : MemInv s6 := .ite h5.endMatrix h5
  have h7 : MemInv s7 := .ite h6.headerSignal h6
  have h8 : MemInv s8 := by unfold s8; split; exacts [h7.countAbort.cmdFault, h7]
  exact h8.leaveReset

/-- The state and the command an uncorrectable word meets are those the row would have started. -/
theorem MemInv.eccMeets {t q opc : Nat} {touch : State → Cmd → List (Nat × Nat)} {body : State → QEntry → Option (State × RunCmd)}
    {m : EccMem} {e : QEntry} {s' : State} {r : RunCmd} (hm : eccMeets s t q opc touch body m = some (e, s', r)) (h : MemInv s)
    (hbody : ∀ u e, MemInv u → OptFst (body u e)) : MemInv s' := by
  unfold Machine.eccMeets at hm
  split at hm
  case h_2 => cases hm
  case h_1 e _ =>
    split at hm
    case isFalse => cases hm
    case isTrue =>
      split at hm
      case h_2 => cases hm
      case h_1 he =>
        split at hm
        case isFalse => cases hm
        case isTrue => cases hm; exact .of_some_fst he (hbody _ _ h)

theorem MemInv.eccStop {t q : Nat} {e : QEntry} {s' : State} {r : RunCmd} {x : EccMem} (h : MemInv s) (h' : MemInv s') :
    MemInv (eccStop s t q e s' r x) := by
  unfold Machine.eccStop
  dsimp only
  split
  exacts [.eccUncorrected (.ite h.frame.completeCmd h.frame), .eccUncorrected (.startCmd (.ite h' h))]

theorem MemInv.eccRow {t q opc : Nat} {defined : Nat → Bool} {ecc : Ecc} {body : State → QEntry → Option (State × RunCmd)}
    {touch : State → Cmd → List (Nat × Nat)} (h : MemInv s) (hbody : ∀ u e, MemInv u → OptFst (body u e)) :
    MemInv (eccRow s t q opc defined ecc body touch) := by
  unfold Machine.eccRow
  split
  case h_1 => exact h.engineRow hbody
  case h_2 => exact .engineRow (.ite h.eccCorrected h) hbody
  case h_3 =>
    split
    case h_1 he => exact h.eccStop (.eccMeets he h hbody)
    case h_2 => exact h.engineRow hbody

theorem MemInv.writeTileCtrl {t : Nat} {val : Half} (h : MemInv s) : MemInv (writeTileCtrl s t val) :=
  .ite h (.ite h.requestStart (.ite h.frame.requestStop h.frame))

end Sys2Proof.Machine
end

section
/-!
SUPPORT. The canonical form of the memories under the matrix, vector and row engines.
-/

open Sys2Proof Sys2Proof.Machine Sys2Proof.Claims

namespace Sys2Proof.Machine

set_option Elab.async false

variable {s : State}

theorem MemInv.mmaRecords {t : Nat} {m : MmaCmd} (h : MemInv s) : MemInv (mmaRecords s t m) :=
  .ite (.ite (.setSlot (.ite h.frame h)) h.frame) h

theorem MemInv.startMma {t : Nat} {deferred : Bool} {e : QEntry} (h : MemInv s) : OptFst (startMma t deferred s e) :=
  .ite h (.ite h h.mmaRecords.mmaTile)

theorem MemInv.drainAdd {s0 : State} {t p : Nat} {d : DrainCmd} {l : List Nat} (h : MemInv s) :
    MemInv (drainAdd s0 t p d l s).1 := by
  induction l generalizing s with
  | nil => exact h
  | cons i l ih =>
    unfold Machine.drainAdd
    dsimp only
    split
    case h_1 => exact h
    case h_2 =>
      split
      case h_1 => exact h
      case h_2 he => exact ih (.of_fst he h.devWrite)

theorem MemInv.drainRows {s0 : State} {t p : Nat} {d : DrainCmd} {is : List Nat} (h : MemInv s) :
    MemInv (drainRows s0 t p d is s).1 := .ite_fst h.drainAdd h.writeRuns

theorem MemInv.startDrain {t : Nat} {deferred : Bool} {e : QEntry} (h : MemInv s) : OptFst (startDrain t deferred s e) := by
  unfold Machine.startDrain
  dsimp only
  split
  case h_1 => exact h
  case h_2 =>
    refine .ite trivial ?_
    split
    case h_1 => exact h
    case h_2 he => exact .of_fst he h.drainRows

theorem MemInv.mxRow {t opc : Nat} {deferred : Bool} {ecc : Ecc} {body : State → QEntry → Option (State × RunCmd)}
    {touch : State → Cmd → List (Nat × Nat)} (h : MemInv s) (hk : ∀ u a, MemInv u → OptFst (body u a)) :
    MemInv (mxRow s t opc deferred ecc body touch) :=
  .ite h (.ite ((h.eccRow (fun _ _ h1 => hk _ _ h1)).wr) (h.eccRow (fun _ _ h1 => hk _ _ h1)))

theorem MemInv.startMtload {t : Nat} {e : QEntry} (h : MemInv s) : OptFst (startMtload t s e) := .ite h h.sramWrite

theorem MemInv.rebuildTable {t i : Nat} (h : MemInv s) : MemInv (rebuildTable s t i) := .ite h.frame h.frame

theorem MemInv.setBinding {t side i : Nat} {valid : Bool} {fmt x id : Nat} {k : List (BitVec 12)} (h : MemInv s) :
    MemInv (setBinding s t side i valid fmt x id k) := h.frame.rebuildTable

theorem MemInv.startMbind {t : Nat} {e : QEntry} (h : MemInv s) : OptFst (startMbind t s e) := by
  refine .ite h ?_
  split <;> exact h.setBinding

theorem MemInv.startMslot {t : Nat} {deferred : Bool} {e : QEntry} (h : MemInv s) : OptFst (startMslot t deferred s e) :=
  .ite h (.ite h (h.foldl fun _ _ h1 => .ite h1.frame h1.frame))

theorem MemInv.putElem {key w i v : Nat} (h : MemInv s) : MemInv (putElem s key w i v) := .ite (.ite h.sramSet h.sramSet) h.sramWrite

theorem MemInv.putElems {key w i : Nat} {l : List Nat} (h : MemInv s) : MemInv (putElems s key w i l) := by
  induction l generalizing s i with
  | nil => exact h
  | cons v l ih => exact ih h.putElem

theorem MemInv.outRow {t : Nat} {x : Strm} {book : List (BitVec 16)} {sr : Option (Nat → BitVec 16)} {r : Nat} {vals : List Half}
    (h : MemInv s) : MemInv (outRow s t x book sr r vals) := .ite h.frame.sramWrite.putElems h.putElems

theorem MemInv.forgetSpans {l : List (Nat × Nat)} (h : MemInv s) : MemInv (forgetSpans s l) := h.foldl fun _ _ h1 => h1.sramForget

theorem MemInv.vecRow {t : Nat} {v : VecCmd} {b0 b1 b2 bo : List (BitVec 16)} {step : Nat} {acc : State × Summary} {r : Nat}
    (h : MemInv acc.1) : MemInv (vecRow t v b0 b1 b2 bo step acc r).1 := h.outRow

theorem MemInv.vecGo {t : Nat} {v : VecCmd} {cmd : Cmd} {pushed : Nat} (h : MemInv s) :
    MemInv (vecGo s t v cmd pushed).1 := by
  unfold Machine.vecGo
  dsimp only
  split
  case h_1 => exact (h.foldl_fst fun _ _ hx => hx.vecRow).forgetSpans
  all_goals exact h

theorem MemInv.vecGated {t : Nat} {v : VecCmd} {cmd : Cmd} {pushed : Nat} {ob : List Byte} (h : MemInv s) :
    MemInv (vecGated s t v cmd pushed ob).1 := by
  unfold Machine.vecGated
  dsimp only
  split
  exacts [h.vecGo, h, h, h]

theorem MemInv.startVec {t : Nat} {e : QEntry} (h : MemInv s) : OptFst (startVec t s e) := by
  unfold Machine.startVec
  dsimp only
  split
  exacts [h, .ite h (.ite h h.vecGated)]

theorem OptFst.betweenMma {t : Nat} {e : QEntry} {out : Option (State × RunCmd)} (h : OptFst out) :
    OptFst (betweenMma t s e out) := by
  unfold Machine.betweenMma
  split
  case h_1 => exact .ite trivial h
  case h_2 => exact h

theorem MemInv.vecRow0 {t opc : Nat} {ecc : Ecc} {body : State → QEntry → Option (State × RunCmd)} (h : MemInv s)
    (hbody : ∀ u e, MemInv u → OptFst (body u e)) : MemInv (vecRow0 s t opc ecc body) :=
  h.eccRow fun _ _ hx => (hbody _ _ hx).betweenMma

theorem MemInv.execWeightWriteRelease {t : Tile} (h : MemInv s) : OutInv (execWeightWriteRelease t s) := by
  unfold Machine.execWeightWriteRelease
  dsimp only
  split
  case h_2 => exact .next h
  case h_1 =>
    split
    case h_1 => exact .next (.ite h.vecGated.setQueue h)
    case h_2 => exact .next h

theorem MemInv.idxRun {t : Nat} {v : VecCmd} {l : List Nat} (h : MemInv s) : MemInv (idxRun t v l s).1 := by
  induction l generalizing s with
  | nil => exact h
  | cons k l ih =>
    unfold Machine.idxRun
    exact .ite_fst h (ih h.sramWrite)

theorem MemInv.startIdxgen {t : Nat} {e : QEntry} (h : MemInv s) : OptFst (startIdxgen t s e) := by
  unfold Machine.startIdxgen
  dsimp only
  split
  case h_2 =>
    refine .ite h (.ite h ?_)
    split
    exacts [h.idxRun.forgetSpans, h.idxRun.forgetSpans.forgetSpans]
  exact h

theorem MemInv.setRec {t : Nat} {m : RowCmd} {r : Nat} {v : Half × Half} (h : MemInv s) : MemInv (setRec s t m r v) := h.sramWrite

theorem MemInv.smaxFRow {t : Nat} {m : RowCmd} {r : Nat} (h : MemInv s) : MemInv (smaxFRow t m s r) :=
  .setRec (.ite h.outRow.outRow.outRow h.outRow.outRow)

theorem MemInv.smaxBRow {t : Nat} {m : RowCmd} {r : Nat} (h : MemInv s) : MemInv (smaxBRow t m s r) := h.outRow

theorem MemInv.normFRow {t : Nat} {m : RowCmd} {r : Nat} (h : MemInv s) : MemInv (normFRow t m s r) := h.outRow.setRec

theorem MemInv.addRow {t : Nat} {x : Strm} {vals : List Half} (h : MemInv s) : MemInv (addRow s t x vals) := h.outRow

theorem MemInv.normBRow {t : Nat} {m : RowCmd} {r : Nat} (h : MemInv s) : MemInv (normBRow t m s r) :=
  .ite h.outRow.addRow.addRow h.outRow.addRow

theorem MemInv.rowStep {t : Nat} {m : RowCmd} {r : Nat} (h : MemInv s) : MemInv (rowStep t m s r) := by
  unfold Machine.rowStep
  generalize m.opc = o
  rcases o with _ | _ | _ | _ | o
  exacts [h.normBRow, h.smaxFRow, h.smaxBRow, h.normFRow, h.normBRow]

theorem MemInv.startRow {t : Nat} {e : QEntry} (h : MemInv s) : OptFst (startRow t s e) := by
  unfold Machine.startRow
  split
  case h_1 => exact h
  case h_2 => exact .ite h (.ite h (h.foldl fun _ _ hx => hx.rowStep).forgetSpans)

theorem MemInv.rowRow {t opc : Nat} {ecc : Ecc} (h : MemInv s) : MemInv (rowRow s t opc ecc) := h.eccRow (fun _ _ h1 => h1.startRow)

end Sys2Proof.Machine
end

section
/-!
SUPPORT. The canonical form of the memories under the DMA engine of a tile.
-/

open Sys2Proof Sys2Proof.Machine Sys2Proof.Claims

namespace Sys2Proof.Machine

set_option Elab.async false

variable {s : State}

theorem MemInv.devCopy {p : Nat} {src dst : Space} {n : Nat} {ext : List Byte} {unit msg : Nat} (h : MemInv s) :
    MemInv (devCopy s p src dst n ext unit msg).1 := by
  unfold Machine.devCopy
  dsimp only
  split <;> exact h.noteRead.tickFree.devWrite

theorem MemInv.startCopy {t : Nat} {ext : List Byte} {e : QEntry} (h : MemInv s) : OptFst (startCopy t ext s e) := by
  refine .ite h ?_
  split
  exacts [h, .ite trivial h.frame.devCopy]

theorem MemInv.execCopy {t : Tile} {ext : List Byte} {ecc : Ecc} (h : MemInv s) : OutInv (execCopy t ext ecc s) :=
  h.eccRow (fun _ _ h1 => h1.startCopy)

theorem MemInv.copyVisible {p node msg : Nat} (h : MemInv s) : MemInv (copyVisible s p node msg) := h.foldl fun _ _ h1 => .ite h1.frame h1

theorem MemInv.startDcopy {t : Nat} {e : QEntry} (h : MemInv s) : OptFst (startDcopy t s e) := by
  unfold Machine.startDcopy
  dsimp only
  split
  exacts [h, .ite h (.ite h.sramWrite h.sramWrite)]

/-- A tile load keeps the canonical form whether it loads or joins the line at its target. -/
def LoadInv : LoadRes → Prop
  | .refuse _ => True
  | .wait s => MemInv s
  | .done s _ => MemInv s

theorem LoadInv.ite {c : Prop} [Decidable c] {a b : LoadRes} (ha : LoadInv a) (hb : LoadInv b) : LoadInv (if c then a else b) := by
  split <;> assumption

theorem MemInv.tileLoad {p u source : Nat} {dmem : Bool} {src off64 len64 : Nat} {ext : List Byte} (h : MemInv s) :
    LoadInv (tileLoad s p u source dmem src off64 len64 ext) := by
  unfold Machine.tileLoad
  dsimp only
  split
  case h_1 => trivial
  case h_2 => exact .ite (MemInv.ite h h.setTile) (.ite trivial (.ite h h.dropWaiter.wr.noteRead.sramWrite))

theorem MemInv.startTload {t : Nat} {ext : List Byte} {e : QEntry} (h : MemInv s) : OptFst (startTload t ext s e) := by
  unfold Machine.startTload
  have hl : LoadInv _ := h.tileLoad (p := partOfTile s t) (u := cb e.cmd 8) (source := srcTile t 4) (dmem := cbit e.cmd 9 0)
    (src := cbs e.cmd 16 8) (off64 := cbs e.cmd 24 2) (len64 := cbs e.cmd 26 2) (ext := ext)
  refine .ite h ?_
  split
  case h_1 => exact h.dropWaiter
  case h_2 => trivial
  case h_3 he => rwa [he] at hl

theorem MemInv.tloadArrive {t : Nat} {ext : List Byte} (h : MemInv s) : MemInv (tloadArrive s t ext) := by
  unfold Machine.tloadArrive
  split
  case h_2 => exact h
  case h_1 e _ =>
    have hl : LoadInv _ := h.tileLoad (p := partOfTile s t) (u := cb e.cmd 8) (source := srcTile t 4) (dmem := cbit e.cmd 9 0)
      (src := cbs e.cmd 16 8) (off64 := cbs e.cmd 24 2) (len64 := cbs e.cmd 26 2) (ext := ext)
    refine .ite ?_ h
    split
    case h_1 he => rwa [he] at hl
    case h_2 => exact h

theorem MemInv.execTload {t : Tile} {ext : List Byte} {ecc : Ecc} (h : MemInv s) : OutInv (execTload t ext s ecc) :=
  h.tloadArrive.eccRow (fun _ _ h1 => h1.startTload)

theorem MemInv.startTstart {t : Nat} {e : QEntry} (h : MemInv s) : OptFst (startTstart t s e) := by
  refine .ite h ?_
  split
  exacts [h, .ite h (.ite trivial h.startTile)]

theorem MemInv.startStream {t : Nat} {e : QEntry} (h : MemInv s) : OptFst (startStream t s e) := by
  unfold Machine.startStream
  dsimp only
  split
  case h_2 =>
    refine .ite h ?_
    split <;> exact h
  exact h

theorem MemInv.setRunning {t q : Nat} {l : List RunCmd} (h : MemInv s) : MemInv (setRunning s t q l) := h.frame

theorem MemInv.endStream {t : Nat} {before : List RunCmd} {r : RunCmd} {f : Refuse} (h : MemInv s) : MemInv (endStream s t before r f) :=
  h.frame

theorem MemInv.streamEcc {t : Nat} {before : List RunCmd} {r : RunCmd} {spans : List (Bool × Nat × Nat)} {x : Ecc} (h : MemInv s) :
    MemInv (streamEcc s t before r spans x).1 := by
  unfold Machine.streamEcc
  dsimp only
  split
  case h_3 =>
    refine .ite_fst h ?_
    split
    case h_1 =>
      refine .eccUncorrected ?_
      split
      exacts [h.frame.completeCmd, h.frame]
    exact h.eccUncorrected
  exacts [h, .ite h.eccCorrected h]

theorem MemInv.execStreamChunkLanded {t : Tile} {ext : List Byte} {ecc : Ecc} (h : MemInv s) :
    OutInv (execStreamChunkLanded t ext s ecc) := by
  unfold Machine.execStreamChunkLanded
  refine .next ?_
  split
  case h_2 => exact h
  case h_1 =>
    refine .ite ?_ h
    split
    case h_1 => exact h.endStream
    case h_2 he => exact .of_fst he h.streamEcc
    case h_3 he =>
      have h1 := MemInv.of_fst he h.streamEcc
      dsimp only
      split
      case h_1 => exact h1.devCopy.endStream
      case h_2 =>
        refine .setRunning ?_
        split
        exacts [h1.devCopy.issueInc, h1.devCopy]

end Sys2Proof.Machine
end

section
/-!
SUPPORT. The canonical form of the memories under look-ups and table versions.
-/

open Sys2Proof Sys2Proof.Machine Sys2Proof.Claims

namespace Sys2Proof.Machine

set_option Elab.async false

variable {s : State}

theorem MemInv.engFault {p k : Nat} {update : Bool} {e : EngErr} (h : MemInv s) : MemInv (engFault s p k update e) := h.raise

theorem MemInv.emit {p : Nat} {b : Body} {unit msgId : Nat} (h : MemInv s) : MemInv (emit s p b unit msgId) := by
  unfold Machine.emit
  split
  exacts [.ite h.raise h.post, h.post]

theorem MemInv.rxDrop {_p _src : Nat} (h : MemInv s) : MemInv (rxDrop s _p _src) := h

theorem MemInv.setRedirects {slot : Option Nat} {k : Nat} {l : List RedirectEnt} (h : MemInv s) : MemInv (setRedirects s slot k l) := by
  unfold Machine.setRedirects
  dsimp only
  split <;> exact h.frame

theorem MemInv.putRedirect {slot : Option Nat} {k : Nat} {e : RedirectEnt} (h : MemInv s) : MemInv (putRedirect s slot k e) :=
  h.setRedirects

theorem MemInv.dropRedirect {slot : Option Nat} {k row table ver : Nat} (h : MemInv s) : MemInv (dropRedirect s slot k row table ver) :=
  h.setRedirects

theorem MemInv.countRead {k lshard : Nat} {port : Word} (h : MemInv s) : MemInv (countRead s k lshard port) := h.frame

theorem MemInv.countUpdate {k lshard : Nat} {port : Word} {cnt : Nat} (h : MemInv s) : MemInv (countUpdate s k lshard port cnt) := h.frame

theorem MemInv.lookRefused {t : Nat} {e : QEntry} {desc : List Byte} {d : LookDesc} {r : Refuse} {reads : List Nat} (h : MemInv s) :
    MemInv (lookRefused s t e desc d r reads).1 := h.frame

theorem MemInv.lookIssue {t : Nat} {e : QEntry} {desc : List Byte} {d : LookDesc} {j : Nat} {rows : List LookRow} (h : MemInv s) :
    MemInv (lookIssue s t e desc d j rows).1 := by
  unfold Machine.lookIssue
  extract_lets p ver w id served rows hits homes undef run s1 s2
  have h1 : MemInv s1 := h.foldl fun _ _ hx => hx.emit
  have h2 : MemInv s2 := h1.tickFree.holdVer.foldl fun _ _ hx => hx.wrAdd
  exact h2.frame

theorem MemInv.startLookup {t : Nat} {ext : List Byte} {e : QEntry} (h : MemInv s) : OptFst (startLookup t ext s e) := by
  unfold Machine.startLookup
  dsimp only
  split
  case h_2 =>
    refine .ite h ?_
    split
    case h_2 =>
      refine .ite trivial ?_
      split
      case h_3 =>
        split
        exacts [h.noteRead.noteRead.lookRefused, h.noteRead.noteRead.lookIssue, h.noteRead.noteRead.lookRefused]
      all_goals exact h.noteRead.noteRead.lookRefused
    exact h.lookRefused
  exact h

theorem MemInv.writeRows {p addr stride : Nat} {rows : List (List Byte)} {unit msg : Nat} (h : MemInv s) :
    MemInv (writeRows s p addr stride rows unit msg).1 := h.writeRuns

theorem MemInv.setFinished {t q : Nat} {keep : List Byte} {opc status : Nat} {fault : Option CmdFault} {port : Option Nat}
    (h : MemInv s) : MemInv (setFinished s t q keep opc status fault port) := h.frame

theorem MemInv.setLook {run : LookRun} (h : MemInv s) : MemInv (setLook s run) := h.frame

theorem MemInv.lookOut {run : LookRun} {timeout : Bool} (h : MemInv s) : MemInv (lookOut s run timeout).1 := by
  unfold Machine.lookOut
  refine .ite_fst h (.ite_fst ?_ (.ite h (h.foldl fun _ _ hx => hx.devForget)))
  extract_lets rows
  split
  all_goals
    next he =>
      refine .of_fst he ?_
      split
      exacts [h, h.writeRows]

theorem MemInv.lookStatus {run : LookRun} (h : MemInv s) : MemInv (lookStatus s run).1 := by
  refine .ite_fst h ?_
  split
  all_goals
    next he =>
      exact MemInv.of_fst he h.devWrite

theorem MemInv.lookEnd {run : LookRun} (h : MemInv s) : MemInv (lookEnd s run) := h.frame.releaseVer.setFinished

theorem MemInv.finishLook {run : LookRun} {timeout : Bool} (h : MemInv s) : MemInv (finishLook s run timeout) :=
  .ite (.setLook (.ite_fst h.lookOut h)) (.ite (.setLook (.ite_fst (.lookStatus (.ite_fst h.lookOut h)) (.ite_fst h.lookOut h))) (.lookEnd
    (.ite_fst (.lookStatus (.ite_fst h.lookOut h)) (.ite_fst h.lookOut h))))

theorem MemInv.execLookupReplyReceive {p : Part} {m : LookupResp} (h : MemInv s) : OutInv (execLookupReplyReceive p m s) := by
  refine h.holdFrame (fun _ h1 => .ite ?_ h1.rxDrop)
  split
  exacts [h1.frame, h1]

theorem MemInv.countHits {p k table : Nat} {hits : List RowHit} (h : MemInv s) : MemInv (countHits s p k table hits) :=
  h.foldl fun _ _ h1 => h1.frame

theorem MemInv.ownerFail {p src k k' : Nat} {msgId : Half} {partialTo : Bool} {e : EngErr} (h : MemInv s) :
    MemInv (ownerFail s p src k k' msgId partialTo e) := by
  refine .ite (.engFault ?_) (.raise ?_)
  · split
    exacts [h.emit, h]
  · split
    exacts [h.emit, h]

theorem MemInv.serveLook {p : Nat} {m : LookupReq} {slot : Option Nat} {hits : List RowHit} (h : MemInv s) :
    MemInv (serveLook s p m slot hits) := by
  unfold Machine.serveLook
  extract_lets table s1 resp ts s2
  have h2 : MemInv s2 := h.countHits.foldl fun _ _ hx => hx.emit
  exact .ite h.countHits.emit.releaseVer h2.frame

theorem MemInv.ownerServe {p : Nat} {m : LookupReq} {slot : Option Nat} {ecc : Ecc} (h : MemInv s) :
    MemInv (ownerServe s p m slot ecc) := by
  unfold Machine.ownerServe
  dsimp only
  split
  exacts [h.ownerFail.releaseVer, h.serveLook, h.eccCorrected.serveLook, h.ownerFail.releaseVer.eccUncorrected]

theorem MemInv.ownerTake {p : Nat} {m : LookupReq} {ecc : Ecc} (h : MemInv s) : MemInv (ownerTake s p m ecc) := by
  unfold Machine.ownerTake
  extract_lets k table ver park
  have hpark (j) : MemInv (park j) := (h.holdVer (p := p) (t := table) (n := 1) (x := j)).frame
  refine .ite (hpark _) ?_
  split
  exacts [h.ownerFail, h.ownerFail, .ite (hpark _) h.holdVer.ownerServe]

theorem MemInv.execLookupRequestReceive {p : Part} {m : LookupReq} {ecc : Ecc} (h : MemInv s) :
    OutInv (execLookupRequestReceive p m ecc s) := h.holdFrame (fun _ h1 => .ite h1.rxDrop (.ite h1 (.ite h1.ownerFail h1.ownerTake)))

theorem MemInv.fwdServe {p : Nat} {m : FwdReq} {slot : Option Nat} {ecc : Ecc} (h : MemInv s) : MemInv (fwdServe s p m slot ecc) := by
  unfold Machine.fwdServe
  dsimp only
  split
  exacts [h.ownerFail.releaseVer, h.countHits.emit.releaseVer, h.eccCorrected.countHits.emit.releaseVer,
    h.ownerFail.releaseVer.eccUncorrected]

theorem MemInv.execForwardedRequestReceive {p : Part} {m : FwdReq} {ecc : Ecc} (h : MemInv s) :
    OutInv (execForwardedRequestReceive p m s ecc) := by
  refine .next (h.holdFrame fun u hu => .ite hu.rxDrop (.ite hu (.ite hu.ownerFail ?_)))
  split
  case h_1 => exact hu.ownerFail
  case h_2 j _ => exact .ite (hu.holdVer (p := p) (t := m.table.toNat) (n := 1) (x := some j)).frame hu.holdVer.fwdServe

theorem MemInv.execForwardedPartialReceive {p : Part} {m : LookupResp} (h : MemInv s) : OutInv (execForwardedPartialReceive p m s) := by
  refine h.holdFrame (fun _ h1 => .ite ?_ h1.rxDrop)
  split
  exacts [h1, .ite h1.frame.emit.releaseVer h1.frame]

theorem MemInv.hotFail {p k : Nat} {m : HotRead} {st : Option Nat} (h : MemInv s) : MemInv (hotFail s p k m st) := h.frame.emit

theorem MemInv.hotServeRead {p : Nat} {m : HotRead} {ecc : Ecc} (h : MemInv s) : MemInv (hotServeRead s p m ecc) := by
  unfold Machine.hotServeRead
  dsimp only
  split
  case h_2 =>
    split
    case h_2 =>
      split
      case h_5 =>
        refine .ite (.raise (.hotFail ?_)) (.emit (.countRead ?_))
        · split
          exacts [h.eccCorrected, h]
        · split
          exacts [h.eccCorrected, h]
      exacts [h.hotFail.engFault, .ite h.engFault h.emit, h.hotFail.engFault, h.hotFail.engFault.eccUncorrected]
    exact h.emit
  exact h.hotFail.engFault

theorem MemInv.execHotrowFetchReadReceive {p : Part} {m : HotRead} {ecc : Ecc} (h : MemInv s) :
    OutInv (execHotrowFetchReadReceive p m s ecc) := by
  refine .next (h.holdFrame fun u hu => .ite hu.rxDrop (.ite hu (.ite hu.hotFail.raise ?_)))
  split
  case h_1 => exact hu.hotFail.engFault
  case h_2 j _ => exact .ite (hu.holdVer (p := p) (t := m.table.toNat) (n := 1) (x := some j)).frame hu.hotServeRead

theorem MemInv.serveWaiting {p : Nat} (h : MemInv s) : MemInv (serveWaiting s p) := by
  refine h.foldl fun _ _ h1 => .ite ?_ h1
  split
  exacts [h1.frame.ownerTake, h1.frame.ownerServe, h1.frame.fwdServe, h1.frame.hotServeRead.releaseVer]

theorem MemInv.hotFetch {p set step : Nat} (h : MemInv s) : MemInv (hotFetch s p set step) := by
  unfold Machine.hotFetch
  refine h.wr.foldl fun u d hu => ?_
  extract_lets slots u1
  have h1 : MemInv u1 := hu.foldl fun _ _ hx => hx.emit
  exact h1.frame

theorem MemInv.execHotrowFetchReplyReceive {p : Part} {m : HotReply} (h : MemInv s) :
    OutInv (execHotrowFetchReplyReceive p m s) := by
  refine .next (h.holdFrame fun u hu => .ite ?_ hu.rxDrop)
  split
  case h_1 => exact hu
  case h_2 =>
    extract_lets table ver fmt w buf row bs key bad _ u1 upd
    have h1 : MemInv u1 := .ite hu hu.tickFree.sramWrite.frame
    exact h1.frame

theorem MemInv.execHotrowFetchDone {p : Part} {d : Die} {set : Fin 32} (h : MemInv s) : OutInv (execHotrowFetchDone p d set s) := by
  refine .next (.ite ?_ h)
  split
  exacts [h, .ite (.ite (.ite h.frame h.frame) (.signalDie (.ite h.frame h.frame))) (.wr (.ite (.ite h.frame h.frame) (.signalDie (.ite
    h.frame h.frame))))]

theorem MemInv.tdResult {p code : Nat} (h : MemInv s) : MemInv (tdResult s p code) := h.frame

theorem MemInv.clearNext {p t v : Nat} (h : MemInv s) : MemInv (clearNext s p t v) := .ite h.frame h

theorem MemInv.tdCommand {port table : Nat} {body : Nat → State × Nat} (h : MemInv s) (hk : ∀ u, MemInv (body u).1) :
    MemInv (tdCommand s port table body) := by
  unfold Machine.tdCommand
  split
  exacts [h.ideNote, .ite h (.ite h.frame (.tdResult (hk _)))]

theorem MemInv.installVer {t v p : Nat} (h : MemInv s) : MemInv (installVer s t v p).1 := by
  unfold Machine.installVer
  split
  exacts [h, .ite_fst h h.frame]

theorem MemInv.sealVer {t v p : Nat} (h : MemInv s) : MemInv (sealVer s t v p).1 := by
  refine .ite_fst h ?_
  split
  exacts [.ite_fst h.frame h, h]

theorem MemInv.abortVer {t v p : Nat} (h : MemInv s) : MemInv (abortVer s t v p).1 := by
  unfold Machine.abortVer
  dsimp only
  split
  exacts [.ite_fst h.frame.clearNext h, h]

theorem MemInv.freeVer {t v p : Nat} (h : MemInv s) : MemInv (freeVer s t v p).1 := by
  unfold Machine.freeVer
  split
  exacts [.ite_fst h.frame h, h]

theorem MemInv.makeCurrent {p t j v : Nat} (h : MemInv s) : MemInv (makeCurrent s p t j v) := h.frame

theorem MemInv.activateVer {t v p : Nat} (h : MemInv s) : MemInv (activateVer s t v p).1 := by
  unfold Machine.activateVer
  split
  exacts [.ite_fst h.frame h, h]

theorem MemInv.versionSwap {p : Nat} {e : FiredEv} (h : MemInv s) : MemInv (versionSwap s p e) := by
  unfold Machine.versionSwap
  dsimp only
  split
  case h_1 =>
    refine .ite (.makeCurrent ?_) h.raise
    split
    exacts [h.frame, h]
  exact h.raise

theorem MemInv.drainVersions {p : Nat} (h : MemInv s) : MemInv (drainVersions s p) :=
  h.foldl fun _ _ h1 => h1.foldl fun _ _ h2 => .ite h2.frame h2

theorem MemInv.redirectEcho {p k row table ver kind : Nat} {home : Nat × Nat × Nat} {batch : Nat} {old : Option
    (Nat × Nat × Nat × Nat)} (h : MemInv s) : MemInv (redirectEcho s p k row table ver kind home batch old) := by
  unfold Machine.redirectEcho
  split
  exacts [.ite h.emit h, h]

theorem MemInv.freeVersion {p t v : Nat} (h : MemInv s) : MemInv (freeVersion s p t v) := by
  refine h.foldl fun u k hu => ?_
  extract_lets mine u1 u2
  have h1 : MemInv u1 := hu.foldl fun _ _ hx => hx.redirectEcho
  have h2 : MemInv u2 := .ite h1 h1.setRedirects
  exact h2.frame

end Sys2Proof.Machine
end

section
/-!
SUPPORT. The canonical form of the memories under contributions and row updates.
-/

open Sys2Proof Sys2Proof.Machine Sys2Proof.Claims

namespace Sys2Proof.Machine

set_option Elab.async false

variable {s : State}

theorem MemInv.markDirty {k off n : Nat} (h : MemInv s) : MemInv (markDirty s k off n) := by
  unfold Machine.markDirty
  dsimp only
  split
  exacts [h, h.foldl fun _ _ h1 => .ite h1.hbmWrite h1]

theorem MemInv.engWrite {k off : Nat} {bs : List Byte} (h : MemInv s) : MemInv (engWrite s k off bs) := h.hbmWrite.markDirty

theorem MemInv.dirInsert {k : Nat} {d : Shard} {b row slot fuel i : Nat} (h : MemInv s) :
    ExcOpt (dirInsert s k d b row slot fuel i) := by
  induction fuel generalizing s i with
  | zero => exact trivial
  | succ fuel ih =>
    unfold Machine.dirInsert
    split
    case h_1 => exact trivial
    case h_2 => exact .ite h.engWrite (ih (.ite h h.engWrite))

theorem MemInv.createRow {k : Nat} {d : Shard} {hash : Word} {row : Nat} {rec : List Byte} (h : MemInv s) :
    ExcOpt (createRow s k d hash row rec) := by
  unfold Machine.createRow
  split
  case h_1 => exact trivial
  case h_2 =>
    refine .ite trivial (.ite trivial ?_)
    split
    case h_3 he =>
      split
      case h_1 => exact trivial
      case h_2 hb => exact MemInv.markDirty (.of_some hb (MemInv.of_ok_some he h.engWrite.dirInsert).blockPut)
    all_goals exact trivial

theorem MemInv.applyRow {p k : Nat} {d : Except EngErr Shard} {t row ver n : Nat} {cf : Coeff} {clip : Option Half}
    {grad : List Half} {count : Nat} (h : MemInv s) : MemInv (applyRow s p k d t row ver n cf clip grad count).1 := by
  unfold Machine.applyRow
  split
  case h_1 => exact h
  case h_2 =>
    dsimp only
    split
    case h_1 => exact h
    case h_2 =>
      split
      case h_1 => exact h
      case h_2 =>
        refine .ite_fst h ?_
        split
        exacts [h, h.tickFree.engWrite.countUpdate]
      case h_3 =>
        refine .ite_fst h.tickFree ?_
        split
        case h_1 => exact h
        case h_2 =>
          split
          case h_3 he => exact (MemInv.of_ok_some he h.tickFree.createRow).countUpdate
          all_goals exact h

theorem MemInv.dropHeld {p : Nat} {slot : Option Nat} {k n : Nat} {which : Contribution → Bool} (h : MemInv s) :
    MemInv (dropHeld s p slot k n which) := by
  unfold Machine.dropHeld
  extract_lets sel s1
  have h1 : MemInv s1 := h.foldl fun _ _ hx => hx.releaseVer
  exact h1.frame

theorem MemInv.keepVer {p k : Nat} {c : Contribution} (h : MemInv s) : MemInv (keepVer s p k c) := .ite h.frame h.frame

theorem MemInv.doneHeld {p : Nat} {slot : Option Nat} {k n key : Nat} (h : MemInv s) :
    MemInv (doneHeld s p slot k n key) := by
  unfold Machine.doneHeld
  extract_lets sel s1
  have h1 : MemInv s1 := h.foldl fun _ _ hx => .ite hx.keepVer hx.releaseVer
  exact h1.frame

theorem MemInv.settleVers {p : Nat} (h : MemInv s) : MemInv (settleVers s p) := by
  unfold Machine.settleVers
  extract_lets done s1
  have h1 : MemInv s1 := h.foldl fun _ _ hx => hx.releaseVer
  exact h1.frame

theorem MemInv.forwardRow {p k : Nat} {e : RedirectEnt} {c : Contribution} {grad : List Half} {count : Nat} (h : MemInv s) :
    MemInv (forwardRow s p k e c grad count) := by
  unfold Machine.forwardRow
  extract_lets m partner s1 s2
  have h1 : MemInv s1 := h.emit
  clear_value partner
  have h2 : MemInv s2 := by unfold s2; split; exacts [h1.emit, h1]
  exact h2.frame

theorem MemInv.applyGroup {p : Nat} {slot : Option Nat} {k n : Nat} {cf : Coeff} {clip : Option Half} {l : List Contribution}
    (h : MemInv s) : MemInv (applyGroup s p slot k n cf clip l).1 := by
  unfold Machine.applyGroup
  split
  case h_1 => exact h
  case h_2 =>
    dsimp only
    split
    exacts [MemInv.ite h.forwardRow h, h.applyRow]

theorem MemInv.applyGroups {p : Nat} {slot : Option Nat} {k n : Nat} {clip : Option Half} {l : List (Nat × List Contribution)}
    (h : MemInv s) : MemInv (applyGroups s p slot k n clip l).1 := by
  induction l generalizing s with
  | nil => exact h
  | cons x l ih =>
    unfold Machine.applyGroups
    refine .ite_fst (ih h) (.ite_fst (ih h.frame) ?_)
    dsimp only
    split
    case h_1 he => exact ih (MemInv.of_fst he h.applyGroup).doneHeld
    case h_2 he =>
      have h1 := MemInv.of_fst he h.applyGroup
      exact ih (.ite h1.doneHeld h1)

theorem MemInv.unfinish {k n : Nat} (h : MemInv s) : MemInv (unfinish s k n) := h.frame

theorem MemInv.engineStep {p k n : Nat} {skip : Bool} (h : MemInv s) : MemInv (engineStep s p k n skip) :=
  .ite h.frame.dropHeld (.settleVers (.foldl (.ite h.frame.applyGroups.unfinish h.frame.applyGroups) fun _ _ h1 => h1.raise))

theorem MemInv.commitEngines {p n : Nat} {skip : Bool} (h : MemInv s) : MemInv (commitEngines s p n skip) :=
  (h.frame.foldl fun _ _ h1 => .ite h1.engineStep h1).serveWaiting

theorem MemInv.applyLate {x : RowLock} (h : MemInv s) : MemInv (applyLate s x) := by
  unfold Machine.applyLate
  extract_lets s1
  have h1 : MemInv s1 := h.frame
  split
  case h_1 he => exact (MemInv.of_fst he h1.applyGroup).doneHeld.settleVers
  case h_2 he =>
    have h2 := MemInv.of_fst he h1.applyGroup
    exact .settleVers (.raise (.ite h2.doneHeld h2.unfinish))

theorem MemInv.retryLocks {p : Nat} (h : MemInv s) : MemInv (retryLocks s p) := h.foldl fun _ _ h1 => .ite h1.applyLate h1

theorem MemInv.finishStep {p k n : Nat} {skip : Bool} (h : MemInv s) : MemInv (finishStep s p k n skip) := h.frame

theorem MemInv.execApplyStepFinished {k : Stack} (h : MemInv s) : OutInv (execApplyStepFinished k s) := by
  unfold Machine.execApplyStepFinished
  extract_lets p s1
  have h1 : MemInv s1 := h.retryLocks
  clear_value s1
  refine .next ?_
  split
  case h_1 => exact h1
  case h_2 =>
    refine .ite ?_ h1
    extract_lets s2 s3
    have h3 : MemInv s3 := h1.frame (u := s2) |>.finishStep
    exact h3.frame

theorem MemInv.storeContrib {p k : Nat} {m : Contribution} (h : MemInv s) : MemInv (storeContrib s p k m) := by
  unfold Machine.storeContrib
  extract_lets s1 s2
  have h1 : MemInv s1 := h.holdVer
  have h2 : MemInv s2 := h1.frame
  split
  exacts [h2.hbmForget, h2]

theorem MemInv.takeContrib {p : Nat} {m : Contribution} (h : MemInv s) : MemInv (takeContrib s p m) := by
  unfold Machine.takeContrib
  dsimp only
  split
  case h_2 =>
    split
    exacts [h.raise, h.storeContrib.emit]
  exact h.engFault

theorem MemInv.execContributionReceive {p : Part} {m : Contribution} {ecc : Ecc} (h : MemInv s) :
    OutInv (execContributionReceive p m s ecc) :=
  h.holdFrame (fun _ h1 => .ite h1.rxDrop (.ite h1 (.ite h1.raise (.ite h1.frame (h1.underEcc (fun _ h2 => h2.takeContrib))))))

theorem MemInv.execWithdrawalReceive {p : Part} {m : Withdrawal} (h : MemInv s) : OutInv (execWithdrawalReceive p m s) :=
  h.holdFrame (fun _ h1 => .ite h1.rxDrop (h1.foldl fun _ _ h2 => h2.dropHeld))

theorem MemInv.takeForward {p : Nat} {m : Contribution} (h : MemInv s) : MemInv (takeForward s p m) := by
  unfold Machine.takeForward
  dsimp only
  split
  case h_1 he => exact (MemInv.of_fst he h.applyRow).emit
  case h_2 he =>
    have h1 := MemInv.of_fst he h.applyRow
    exact .ite h1.emit.raise h1.raise

theorem MemInv.execForwardedContributionReceive {p : Part} {m : Contribution} {ecc : Ecc} (h : MemInv s) :
    OutInv (execForwardedContributionReceive p m s ecc) :=
  h.holdFrame (fun _ h1 => .ite h1.rxDrop (.ite h1 (.ite h1.raise (.ite h1.frame (h1.underEcc (fun _ h2 => h2.takeForward))))))

theorem MemInv.execForwardedAckReceive {p : Part} {stack : BitVec 5} {row : BitVec 40} {table : BitVec 10} {step : StepIx}
    {partner : Bool} (h : MemInv s) : OutInv (execForwardedAckReceive p stack row table step partner s) :=
  h.holdFrame (fun _ h1 => .ite h1.rxDrop h1.frame.settleVers.serveWaiting)

theorem MemInv.snapEngine {p k : Nat} (h : MemInv s) : MemInv (snapEngine s p k) := by
  unfold Machine.snapEngine
  split
  case h_1 => exact h
  case h_2 =>
    refine .ite h.engFault (.ite h.engFault ?_)
    refine h.foldl fun u b hu => ?_
    split
    case h_1 he => exact (hu.of_blockPut he).markDirty
    case h_2 => exact hu

theorem MemInv.snapClear {k : Nat} (h : MemInv s) : MemInv (snapClear s k) := h.frame

theorem MemInv.snapFinish {p : Nat} (h : MemInv s) : MemInv (snapFinish s p) :=
  (h.foldl fun _ _ h1 => h1.snapEngine.snapClear).foldl fun _ _ h1 => h1.frame

theorem MemInv.loadCtrl {p v : Nat} (h : MemInv s) : MemInv (loadCtrl s p v) := .ite (.ite h.frame h.frame.snapFinish) h.frame

end Sys2Proof.Machine
end

section
/-!
SUPPORT. The canonical form of the memories under merge commands, migration and step decisions.
-/

open Sys2Proof Sys2Proof.Machine Sys2Proof.Claims

namespace Sys2Proof.Machine

set_option Elab.async false

variable {s : State}

theorem MemInv.mergeGo {t : Nat} {e : QEntry} {desc : List Byte} {d : MergeDesc} {keys : List MergeKey} (h : MemInv s) :
    MemInv (mergeGo s t e desc d keys).1 := h.frame

theorem MemInv.startMerge {t : Nat} {ext : List Byte} {e : QEntry} (h : MemInv s) : OptFst (startMerge t ext s e) := by
  unfold Machine.startMerge
  dsimp only
  split
  case h_2 =>
    refine .ite h (.ite trivial ?_)
    split
    case h_2 =>
      refine .ite trivial ?_
      split
      case h_2 =>
        split
        exacts [h.frame.noteRead, h.frame.noteRead.mergeGo]
      exact h.frame.noteRead
    exact h.frame
  exact h

theorem MemInv.mergeArrive {t : Nat} (h : MemInv s) : MemInv (mergeArrive s t) := by
  unfold Machine.mergeArrive
  dsimp only
  split
  exacts [.ite h.frame h, h]

theorem MemInv.sendContrib {p c : Nat} {d : MergeDesc} {run : CloveRun} {x : State × List (Nat × Nat × Bool)} {m : Merged}
    (h : MemInv x.1) : MemInv (sendContrib p c d run x m).1 := by
  unfold Machine.sendContrib
  dsimp only
  split
  exacts [h.emit.emit, h.emit]

theorem MemInv.withdraw {p c : Nat} {run : CloveRun} {wait : List (Nat × Nat × Bool)} (h : MemInv s) : MemInv (withdraw s p c run wait) :=
  (h.foldl fun _ _ h1 => h1.emit).foldl fun _ _ h1 => h1.emit

theorem MemInv.runOver {c : Nat} {r : CloveRun} (h : MemInv s) : MemInv (runOver s c r) := h.frame

theorem MemInv.mergeFinal {p c : Nat} {run : CloveRun} {ext : List Byte} (h : MemInv s) :
    MemInv (mergeFinal s p c run ext) := by
  unfold Machine.mergeFinal
  dsimp only
  split
  case h_1 => exact h.runOver
  case h_2 =>
    refine .ite (.ite h.runOver ?_) ?_
    · have h1 (l : List Merged) (r : CloveRun) : MemInv (l.foldl (Machine.sendContrib p c (mergeDescOf run.desc) r) (s, [])).1 :=
        MemInv.foldl_fst h fun _ _ hx => hx.sendContrib
      exact .ite (h1 _ _).withdraw.runOver (h1 _ _).runOver
    · split
      case h_1 he => exact (MemInv.of_fst he h.writeRows).runOver
      case h_2 he => exact (MemInv.of_fst he h.writeRows).runOver

theorem MemInv.clovePass {p c : Nat} {run : CloveRun} {ext : List Byte} (h : MemInv s) : MemInv (clovePass s p c run ext) := by
  unfold Machine.clovePass
  dsimp only
  split
  case h_2 =>
    refine .ite ?_ ((h.foldl fun _ _ h1 => h1.noteRead).mergeFinal)
    split
    all_goals
      next he =>
        exact .frame (MemInv.of_fst he (.devWrite ((h.foldl fun _ _ h1 => h1.noteRead).tickFree)))
  exact (h.foldl fun _ _ h1 => h1.noteRead).runOver

theorem MemInv.clovePassEcc {p c : Nat} {run : CloveRun} {ext : List Byte} {ecc : Ecc} (h : MemInv s) :
    MemInv (clovePassEcc s p c run ext ecc) := h.eccReads (fun _ h1 => h1.clovePass)

theorem MemInv.execContributionAckReceive {p : Part} {m : ContribAck} (h : MemInv s) : OutInv (execContributionAckReceive p m s) := by
  refine h.holdFrame (fun _ h1 => .ite h1.rxDrop ?_)
  split
  exacts [.ite h1.frame h1, h1]

theorem MemInv.finishMerge {c : Nat} {run : CloveRun} {status : Nat} {fault : Option CmdFault} (h : MemInv s) :
    MemInv (finishMerge s c run status fault) := by
  unfold Machine.finishMerge
  dsimp only
  split
  case h_1 he => exact .frame (MemInv.of_fst he h.devWrite)
  case h_2 he => exact .ite (.frame (MemInv.of_fst he h.devWrite)) (.frame (MemInv.of_fst he h.devWrite))

theorem MemInv.ackVisible {p node msg : Nat} (h : MemInv s) : MemInv (ackVisible s p node msg) := by
  unfold Machine.ackVisible
  extract_lets at' s1
  have h1 : MemInv s1 := h.copyVisible
  exact h1.frame

theorem MemInv.migrateGo {p : Nat} (h : MemInv s) : MemInv (migrateGo s p) := by
  refine .ite h.frame (.ite h.frame (.ite h.frame.engFault ?_))
  split
  exacts [h.frame.engFault, .ite h.frame (.ite h.frame h.frame)]

theorem MemInv.migrateCmd {p : Nat} {ecc : Ecc} (h : MemInv s) : MemInv (migrateCmd s p ecc) :=
  .ite h (.ite h.frame (h.eccReads (fun _ h1 => h1.migrateGo)))

theorem MemInv.markMoved {k : Nat} {d : Shard} {f : Found} {bs : List Byte} {moved : Bool} (h : MemInv s) :
    MemInv (markMoved s k d f bs moved) := h.engWrite

theorem MemInv.partnerMigCopy {p k : Nat} {r : MigRow} {bs : List Byte} (h : MemInv s) : MemInv (partnerMigCopy s p k r bs).1 := by
  unfold Machine.partnerMigCopy
  dsimp only
  split
  exacts [h.emit, h]

theorem MemInv.sendMigCopy {p k : Nat} {r : MigRow} {bs : List Byte} (h : MemInv s) : MemInv (sendMigCopy s p k r bs).1 :=
  h.emit.partnerMigCopy

theorem MemInv.migReturn {p k id : Nat} {r : MigRow} {bs : List Byte} (h : MemInv s) : MemInv (migReturn s p k id r bs).1 := by
  unfold Machine.migReturn
  dsimp only
  split
  case h_2 =>
    split
    exacts [h, h, h.markMoved.dropRedirect.partnerMigCopy.redirectEcho]
  exact h

theorem MemInv.migCopyRow {p k id : Nat} {r : MigRow} {ext : List (List Byte)} (h : MemInv s) :
    MemInv (migCopyRow s p k id r ext).1 := by
  unfold Machine.migCopyRow
  refine .ite_fst h ?_
  extract_lets go
  have hgo (bs old ext) : MemInv (go bs old ext).1 := by
    refine .ite_fst ?_ ?_
    · split
      next he => exact .of_fst he h.migReturn
    · split
      next he => exact .of_fst he h.sendMigCopy
  clear_value go
  split
  case h_1 => exact h
  case h_2 => exact h
  case h_3 => exact .ite_fst h (hgo _ _ _)
  case h_4 =>
    split
    exacts [hgo _ _ _, h]

theorem MemInv.migCopyRows {p k id : Nat} {l : List MigRow} {ext : List (List Byte)} (h : MemInv s) :
    MemInv (migCopyRows s p k id l ext).1 := by
  induction l generalizing s ext with
  | nil => exact h
  | cons r l ih =>
    unfold Machine.migCopyRows
    split
    case h_1 he => exact .of_fst he h.migCopyRow
    case h_2 he => exact ih (.of_fst he h.migCopyRow)

theorem MemInv.settleBatch {p : Nat} {b b' : MigBatch} (h : MemInv s) : MemInv (settleBatch s p b b') := h.frame.retryLocks.serveWaiting

theorem MemInv.copyBatch {p k : Nat} {b : MigBatch} {ext : List (List Byte)} (h : MemInv s) : MemInv (copyBatch s p k b ext) := by
  unfold Machine.copyBatch
  split
  case h_1 he => exact .settleBatch (MemInv.of_fst he h.migCopyRows)
  case h_2 he => exact .engFault (.frame (MemInv.of_fst he h.migCopyRows))

theorem MemInv.takeMigCopy {p : Nat} {m : MigCopy} (h : MemInv s) : MemInv (takeMigCopy s p m) := by
  unfold Machine.takeMigCopy
  dsimp only
  split
  case h_2 =>
    split
    case h_3 he => exact .emit (MemInv.of_ok_some he h.createRow)
    exacts [h.engFault, h.emit]
  exact h.engFault

theorem MemInv.execMigrationCopyReceive {p : Part} {m : MigCopy} {ecc : Ecc} (h : MemInv s) : OutInv (execMigrationCopyReceive p m s ecc) :=
  h.holdFrame (fun _ h1 => .ite h1.rxDrop (.ite h1 (.ite h1.raise (.ite h1.frame (h1.underEcc (fun _ h2 => h2.takeMigCopy))))))

theorem MemInv.markSlot {k : Nat} {d : Shard} {slot row : Nat} (h : MemInv s) : ExcInv (markSlot s k d slot row) := .ite trivial h.markMoved

theorem MemInv.clearFound {k : Nat} {d : Shard} {f : Found} (h : MemInv s) : ExcInv (clearFound s k d f) := by
  unfold Machine.clearFound
  dsimp only
  split
  exacts [trivial, h.engWrite]

theorem MemInv.engDone {p k : Nat} {x : Except EngErr State} (h : MemInv s) (hx : ExcInv x) : MemInv (engDone s p k x) := by
  unfold Machine.engDone
  split
  exacts [hx, h.engFault]

theorem MemInv.moveOld {p k : Nat} {r : MigRow} (h : MemInv s) : MemInv (moveOld s p k r) := by
  unfold Machine.moveOld
  split
  case h_2 => exact h
  case h_1 =>
    refine .ite h.emit ?_
    split
    exacts [h.engDone h.markSlot, h.engFault]

theorem MemInv.takeMoved {p : Nat} {m : MovedMsg} (h : MemInv s) : MemInv (takeMoved s p m) := by
  unfold Machine.takeMoved
  refine .ite h (.ite h.raise (.ite h.frame ?_))
  split
  exacts [h.engFault, h, h.engDone (.ite h.clearFound h.markSlot)]

theorem MemInv.migActivate {p k : Nat} {b : MigBatch} {r : MigRow} (h : MemInv s) : MemInv (migActivate s p k b r) :=
  h.putRedirect.redirectEcho.moveOld.redirectEcho

theorem MemInv.migTargetFull {p k : Nat} {b : MigBatch} {mine : MigRow → Bool} (h : MemInv s) : MemInv (migTargetFull s p k b mine) :=
  h.settleBatch.raise

theorem MemInv.migAcked {p k : Nat} {b : MigBatch} {mine : MigRow → Bool} (h : MemInv s) : MemInv (migAcked s p k b mine) :=
  (h.foldl fun _ _ h1 => h1.migActivate).settleBatch

theorem MemInv.takeMigAck {p k row table ver : Nat} {stored : Bool} (h : MemInv s) : MemInv (takeMigAck s p k row table ver stored) := by
  unfold Machine.takeMigAck
  dsimp only
  split
  exacts [h, .ite h.frame (.ite h.migAcked h.migTargetFull)]

theorem MemInv.clearEntry {p k : Nat} {b : MigBatch} {r : MigRow} (h : MemInv s) : MemInv (clearEntry s p k b r).1 := by
  unfold Machine.clearEntry
  dsimp only
  split
  case h_2 =>
    refine .ite_fst h (.ite_fst h.emit.redirectEcho ?_)
    split
    case h_3 =>
      refine .ite_fst h ?_
      split
      case h_2 he => exact .redirectEcho (MemInv.of_ok he h.clearFound)
      exact h
    all_goals exact h
  exact h

theorem MemInv.retireRows {p k : Nat} {b : MigBatch} {l : List MigRow} (h : MemInv s) :
    MemInv (retireRows s p k b l).1 := by
  induction l generalizing s with
  | nil => exact h
  | cons r l ih =>
    unfold Machine.retireRows
    refine .ite_fst ?_ (ih h)
    split
    case h_1 he => exact ih (.of_fst he h.clearEntry)
    case h_2 he => exact .of_fst he h.clearEntry

theorem MemInv.migrationRetire {p : Nat} {e : FiredEv} (h : MemInv s) : MemInv (migrationRetire s p e) := by
  unfold Machine.migrationRetire
  dsimp only
  split
  case h_2 =>
    split
    case h_1 he => exact MemInv.of_fst he h.frame.retireRows
    case h_2 he => exact .engFault (MemInv.of_fst he h.frame.retireRows)
  exact h.raise

theorem MemInv.setSdState {p v : Nat} (h : MemInv s) : MemInv (setSdState s p v) := h.frame

theorem MemInv.sdIdle {p : Nat} (h : MemInv s) : MemInv (sdIdle s p) := h.frame

theorem MemInv.sdCollect {p n : Nat} (h : MemInv s) : MemInv (sdCollect s p n) := .ite h.frame.raise (.ite h.frame h.frame)

theorem MemInv.writeDecision {p : Nat} {decided skip : Bool} (h : MemInv s) : MemInv (writeDecision s p decided skip) :=
  h.foldl fun _ _ h1 => h1.sramWrite

theorem MemInv.sdResult {p : Nat} {a : Half} {f : Nat} {b : Bool} (h : MemInv s) : MemInv (sdResult s p a f b) := by
  unfold Machine.sdResult
  extract_lets n m s1
  have h1 : MemInv s1 := h.foldl fun _ _ hx => hx.emit
  split
  extract_lets s2 s3 s4 s5 s6 s7 s8
  have h4 : MemInv s4 := h1.wr.wr.wr.wr.wr
  have h5 : MemInv s5 := .ite h4.wr h4
  clear_value s5
  have h6 : MemInv s6 := h5.frame
  exact h6.writeDecision.issueInc.setSdState

theorem MemInv.sdCheck {p : Nat} {m : SdMsg} {known : Bool} {take : State} (h : MemInv s) (h' : MemInv take) :
    MemInv (sdCheck s p m known take) := .ite h.raise (.ite h.raise (.ite h.raise (.ite h.raise h')))

theorem MemInv.execSdPartialReceive {p : Part} {m : SdMsg} (h : MemInv s) : OutInv (execSdPartialReceive p m s) :=
  h.holdFrame (fun _ h1 => .ite h1 (h1.sdCheck h1.frame))

theorem MemInv.execSdResultReceive {p : Part} {m : SdMsg} (h : MemInv s) : OutInv (execSdResultReceive p m s) :=
  h.holdFrame (fun _ h1 => .ite h1 (h1.sdCheck (.ite h1.raise h1.sdResult)))

theorem MemInv.setDieDecided {p n : Nat} {skip : Bool} (h : MemInv s) : MemInv (setDieDecided s p n skip) := h.frame

theorem MemInv.commitDecide {p n : Nat} {skip : Bool} (h : MemInv s) : MemInv (commitDecide s p n skip) := by
  unfold Machine.commitDecide
  extract_lets s1 s2 s3 s4
  have h2 : MemInv s2 := h.setDieDecided.wr.wr
  have h3 : MemInv s3 := .ite h2.writeDecision.setSdState h2
  clear_value s3
  have h4 : MemInv s4 := h3.frame
  exact h4.commitEngines

theorem MemInv.sdResume {p : Nat} (h : MemInv s) : MemInv (sdResume s p) := by
  refine .ite h ?_
  split
  exacts [h, .ite h.sdCollect h]

end Sys2Proof.Machine
end

section
/-!
SUPPORT. The canonical form of the memories under the fabric and the collectives.
-/

open Sys2Proof Sys2Proof.Machine Sys2Proof.Claims

namespace Sys2Proof.Machine

set_option Elab.async false

variable {s : State}

theorem MemInv.recordMeasure {i : Nat} {value : List Byte} (h : MemInv s) : MemInv (recordMeasure s i value) := h.frame

theorem MemInv.setPortState {f v : Nat} (h : MemInv s) : MemInv (setPortState s f v) := h.frame

theorem MemInv.sendLink {k : Nat} {m : LinkMsg} (h : MemInv s) : MemInv (sendLink s k m) := .ite (.ite h.exhaustSess h.frame.post) h.post

theorem MemInv.closeSess {k : Nat} (h : MemInv s) : MemInv (closeSess s k) := h.shutSess.drainWait

theorem MemInv.openSess {k : Nat} {device : BitVec 384} (h : MemInv s) : MemInv (openSess s k device) := h.frame.drainWait

theorem MemInv.endEpisode {k : Nat} (h : MemInv s) : MemInv (endEpisode s k) := h.frame

theorem MemInv.refuseSess {k : Nat} (h : MemInv s) : MemInv (refuseSess s k) := .ite h.frame h.frame.raise

theorem MemInv.conflictSess {k : Nat} (h : MemInv s) : MemInv (conflictSess s k) := .ite h.frame h.frame.raise

theorem MemInv.closePort {f : Nat} (h : MemInv s) : MemInv (closePort s f) := h.foldl fun _ _ h1 => h1.closeSess.endEpisode

theorem MemInv.closePart {p : Nat} (h : MemInv s) : MemInv (closePart s p) := h.foldl fun _ _ h1 => h1.foldl fun _ _ h2 => h2.closeSess

theorem MemInv.helloAll {f : Nat} (h : MemInv s) : MemInv (helloAll s f) := h.foldl fun _ _ h1 => .ite h1.sendLink h1

theorem MemInv.portRun {f : Nat} (h : MemInv s) : MemInv (portRun s f) := .ite (.ite h.frame h) (.ite h h.closePort.setPortState.wr)

theorem MemInv.portWrite {port f : Nat} {body : State → State} (h : MemInv s) (hk : ∀ u, MemInv u → MemInv (body u)) :
    MemInv (portWrite s port f body) := by
  unfold Machine.portWrite
  split
  exacts [.ite (hk _ h) h, h.ideNote]

theorem MemInv.portRetrain {f : Nat} (h : MemInv s) : MemInv (portRetrain s f) := .ite h.closePort.setPortState h

theorem MemInv.sendKa1 {k : Nat} (h : MemInv s) : MemInv (sendKa1 s k) := h.frame.sendLink

theorem MemInv.certCheck {p : Nat} {bytes : List Byte} {ok : Bool} (h : MemInv s) : MemInv (certCheck s p bytes ok).1 :=
  .ite_fst h (.ite_fst (.ite h.frame h) h)

theorem MemInv.peerVerifies {k : Nat} {m : PeerProof} (h : MemInv s) : MemInv (peerVerifies s k m).1 := by
  unfold Machine.peerVerifies
  dsimp only
  split
  exacts [h, h.certCheck.certCheck]

theorem MemInv.openSession {k : Nat} {device : BitVec 384} (h : MemInv s) : MemInv (openSession s k device) :=
  .ite h.openSess.raise h.openSess

theorem MemInv.kaStep {k stage : Nat} {initiator : Bool} {body : State → State} (h : MemInv s) (hk : ∀ u, MemInv u → MemInv (body u)) :
    MemInv (kaStep s k stage initiator body) := .ite (hk _ h) h

theorem MemInv.takeKa1 {k : Nat} {m : PeerProof} (h : MemInv s) : MemInv (takeKa1 s k m) := h.frame.sendLink

theorem MemInv.takeKa2 {k : Nat} {m : PeerProof} (h : MemInv s) : MemInv (takeKa2 s k m) := h.frame.sendLink

theorem MemInv.peerWrite {k v : Nat} (h : MemInv s) : MemInv (peerWrite s k v) :=
  .ite (.sendLink (.wrb (.wr (.ite (.endEpisode (.ite h.closeSess h)) (.setSess (.ite h.closeSess h)))))) (.wrb (.wr (.ite (.endEpisode
    (.ite h.closeSess h)) (.setSess (.ite h.closeSess h)))))

theorem MemInv.ackFrames {k seq : Nat} (h : MemInv s) : MemInv (ackFrames s k seq) := h.frame.drainWait

theorem MemInv.replay {k : Nat} (h : MemInv s) : MemInv (replay s k) := .ite h (.ite h.frame.closeSess.raise h.frame)

theorem MemInv.authFail {k : Nat} (h : MemInv s) : MemInv (authFail s k) := .ite h.frame h.frame.raise

theorem MemInv.serveAccess {p src unit msg : Nat} {a : RemoteAccess} (h : MemInv s) : MemInv (serveAccess s p src unit msg a) := by
  refine .ite h (.ite h.raise (.ite h.frame (.ite ?_ ?_)))
  · split
    exacts [h.emit, h.raise]
  · split
    case h_1 he => exact .emit (MemInv.of_fst he h.devWrite)
    case h_2 he => exact .raise (MemInv.of_fst he h.devWrite)

theorem MemInv.handUp {p : Nat} {m : Frame} {ecc : Ecc} (h : MemInv s) : MemInv (handUp s p m ecc) := by
  refine .ite h.frame (.ite h.ackVisible ?_)
  split
  exacts [.ite (h.underEcc (fun _ h1 => h1.serveAccess)) h, .ite h.takeMoved h, h]

theorem MemInv.authed {k : Nat} {epoch : Byte} (h : MemInv s) : MemInv (authed s k epoch) := .ite h.frame h

theorem MemInv.deliver {k : Nat} {m : Frame} {ecc : Ecc} (h : MemInv s) : MemInv (deliver s k m ecc) :=
  .ite (.raise (.ite h.frame.sendLink.ackFrames h.frame.sendLink)) (.ite (.ite h.frame.sendLink.ackFrames h.frame.sendLink) (.holdFrame
    (.ite h.frame.sendLink.ackFrames h.frame.sendLink) (fun _ h1 => h1.handUp)))

theorem MemInv.execFrameReceive {f : FPort} {i : Fin 32} {m : Frame} {ecc : Ecc} (h : MemInv s) : OutInv (execFrameReceive f i m s ecc) :=
  .next (.ite h (.ite (.ite h.frame h) (.ite h (.ite (.sendLink (.ite h.authFail h)) (.ite (.ite h.authed.raise h.authed) (.ite
    h.authed.sendLink h.deliver))))))

theorem MemInv.fabAfter {p : Nat} {was : Bool} (h : MemInv s) : MemInv (fabAfter s p was) :=
  .foldl (.ite h.frame h) fun _ _ h1 => h1.portRun

theorem MemInv.setCollState {p k v : Nat} (h : MemInv s) : MemInv (setCollState s p k v) := h.frame

theorem MemInv.setCollRun {p k : Nat} {x : CollRun} (h : MemInv s) : MemInv (setCollRun s p k x) := h.frame

theorem MemInv.armNow {p k : Nat} (h : MemInv s) : MemInv (armNow s p k) := by
  unfold Machine.armNow
  dsimp only
  split
  case h_1 =>
    split
    exacts [h.frame.raise.raise, h.frame.raise]
  exact h.frame

theorem MemInv.collArm {p k : Nat} {ecc : Ecc} (h : MemInv s) : MemInv (collArm s p k ecc) :=
  .ite h (.ite (.ite h h.frame) (h.eccReads (fun _ h1 => h1.armNow)))

theorem MemInv.collDisarm {p k : Nat} (h : MemInv s) : MemInv (collDisarm s p k) := .ite h.frame h

theorem MemInv.collWrite {p off size v : Nat} {arm disarm : Bool} {ecc : Ecc} (h : MemInv s) :
    MemInv (collWrite s p off size v arm disarm ecc) :=
  .ite (.collArm (.ite h.fieldsWrite.collDisarm h.fieldsWrite)) (.ite h.fieldsWrite.collDisarm h.fieldsWrite)

theorem MemInv.collAccess {a : Access} {bit : Nat} {ecc : Ecc} (h : MemInv s) : MemInv (collAccess s a bit ecc) :=
  h.accessCtl (fun _ => .ite h.collWrite h)

theorem MemInv.sendSegment {p k : Nat} {d : Coll} {reduce : Bool} {c off stripe : Nat} {bs : List Byte} (h : MemInv s) :
    MemInv (sendSegment s p k d reduce c off stripe bs) := h.emit

theorem MemInv.sendChunk {p k : Nat} {d : Coll} {reduce : Bool} {c : Nat} {bs : List Byte} (h : MemInv s) :
    MemInv (sendChunk s p k d reduce c bs) := h.foldl fun _ _ h1 => h1.sendSegment

theorem MemInv.bufWrite {p k : Nat} {d : Coll} {i : Nat} {bs : List Byte} (h : MemInv s) : MemInv (bufWrite s p k d i bs) := by
  unfold Machine.bufWrite
  split
  case h_1 he => exact MemInv.of_fst he h.devWrite
  case h_2 he => exact .raise (MemInv.of_fst he h.devWrite)

theorem MemInv.decodeChunk {p k : Nat} {d : Coll} {c : Nat} {bs : List Byte} (h : MemInv s) : MemInv (decodeChunk s p k d c bs) := by
  unfold Machine.decodeChunk
  dsimp only
  split
  exacts [.ite h.raise h.frame.raise, h.bufWrite]

theorem MemInv.takeSegment {p k : Nat} {m : Segment} (h : MemInv s) : MemInv (takeSegment s p k m) := by
  unfold Machine.takeSegment
  extract_lets d x n s1 stripe i0 sums out s2 s3 parts _ s4 mine
  have h1 : MemInv s1 := h.setCollRun
  have h2 : MemInv s2 := h1.bufWrite
  have h3 : MemInv s3 := .ite h1 h1.sendSegment
  have h4 : MemInv s4 := h3.setCollRun
  refine .ite h (.ite (.ite (.ite h2.sendSegment h2) h1.sendSegment) (.ite ?_ h3.bufWrite))
  split
  exacts [h4.decodeChunk, h4]

theorem MemInv.collStart {p k : Nat} (h : MemInv s) : MemInv (collStart s p k) := by
  refine .ite h.frame.raise ?_
  split
  exacts [h.frame.raise, .ite (.ite h.frame h.frame.bufWrite) (.foldl (.ite h.frame.sendChunk h.frame.sendChunk) fun _ _ h1 =>
    h1.takeSegment)]

theorem MemInv.collStartEcc {p k : Nat} {ecc : Ecc} (h : MemInv s) : MemInv (collStartEcc s p k ecc) := by
  unfold Machine.collStartEcc
  dsimp only
  split
  exacts [.ite h.eccCorrected.collStart h.collStart, .ite h.frame.eccUncorrected h.collStart, h.underEcc (fun _ h1 => h1.collStart)]

theorem MemInv.execCollSegmentReceive {p : Part} {m : Segment} (h : MemInv s) : OutInv (execCollSegmentReceive p m s) := by
  refine h.holdFrame (fun _ h1 => .ite h1 ?_)
  split
  exacts [h1.raise, .ite h1.frame.raise (.ite h1.frame h1.takeSegment)]

end Sys2Proof.Machine
end

section
/-!
SUPPORT. The canonical form of the memories under freezes, faults of host queues, the configuration store's records and Vordaust.
-/

open Sys2Proof Sys2Proof.Machine Sys2Proof.Claims

namespace Sys2Proof.Machine

set_option Elab.async false

variable {s : State}

theorem MemInv.assertSource {p b : Nat} (h : MemInv s) : MemInv (assertSource s p b) := .ite h.frame h.frame

theorem MemInv.assertAll {b : Nat} (h : MemInv s) : MemInv (assertAll s b) := .ite (h.foldl fun _ _ h1 => h1.assertSource) h

theorem MemInv.pkgFreeze (h : MemInv s) : MemInv (pkgFreeze s) := .ite h.frame.assertAll h

theorem MemInv.frzPairAssert {equalLevels : Bool} (h : MemInv s) : MemInv (frzPairAssert s equalLevels) :=
  .ite (.ite h.frame.raisePkg h) (.assertAll (.wrb (.ite h.frame.raisePkg h)))

theorem MemInv.qRaise {p q : Nat} {k : Kind} {detail : Nat} (h : MemInv s) : MemInv (qRaise s p q k detail) := .raise (.ite h.qStall h)

theorem MemInv.countDmaErr {k : Nat} {port : Option Nat} (h : MemInv s) : MemInv (countDmaErr s k port) := by
  unfold Machine.countDmaErr
  split
  exacts [.ite h.frame h, h]

theorem MemInv.flushEnd {p q : Nat} {d : QDesc} {port : Nat} {ok : Bool} (h : MemInv s) : MemInv (flushEnd s p q d port ok) :=
  .ite h (.ite (.ite h.frame.qRecord h.frame) (.qRaise (.countDmaErr (.ite h.frame.qRecord h.frame))))

theorem MemInv.issueFlush {p q : Nat} {d : QDesc} {pasid : Option Nat} (h : MemInv s) : MemInv (issueFlush s p q d pasid) := by
  refine (h.frame.foldl fun _ _ h1 => h1.frame).foldl fun _ _ h1 => ?_
  split
  exacts [h1.flushEnd, h1]

theorem MemInv.lostFlushes {p port : Nat} (h : MemInv s) : MemInv (lostFlushes s p port) :=
  h.foldl fun _ _ h1 => h1.foldl fun _ _ h2 => .ite h2.countDmaErr.qRaise h2.flushEnd

theorem MemInv.flushDone {p q idx port : Nat} {ok : Bool} (h : MemInv s) : MemInv (flushDone s p q idx port ok) := by
  unfold Machine.flushDone
  split
  exacts [h.flushEnd, h]

theorem MemInv.csWant {r : CsRec} {w : CsWhy} (h : MemInv s) : MemInv (csWant s r w) := h.frame

theorem MemInv.refreshFill (h : MemInv s) : MemInv (refreshFill s) := h.frame

theorem MemInv.setBank {b : Nat} {l : List Byte} (h : MemInv s) : MemInv (setBank s b l) := .ite h.frame h.frame

theorem MemInv.csAppend {r : CsRec} (h : MemInv s) : MemInv (csAppend s r) := by
  unfold Machine.csAppend
  extract_lets s1
  have h1 : MemInv s1 := h.setBank
  exact .refreshFill h1.frame

theorem MemInv.unsealNow {p : Nat} (h : MemInv s) : MemInv (unsealNow s p) := .ite h.frame.csAppend h.frame

theorem MemInv.unsealPart {p : Nat} (h : MemInv s) : MemInv (unsealPart s p) := .ite h.frame h.frame

theorem MemInv.zeroJob {p : Nat} (h : MemInv s) : MemInv (zeroJob s p) := h.frame

theorem MemInv.revokeHbm {p : Nat} (h : MemInv s) : MemInv (revokeHbm s p) := .ite h.frame h

theorem MemInv.dropStream {port : Nat} {selective : Bool} (h : MemInv s) : MemInv (dropStream s port selective) := .ite h.frame h.frame

theorem MemInv.dropIde {port : Nat} (h : MemInv s) : MemInv (dropIde s port) := h.dropStream.dropStream

theorem MemInv.loadHbmKey {p : Nat} (h : MemInv s) : MemInv (loadHbmKey s p) := by
  unfold Machine.loadHbmKey
  extract_lets s1 s2
  have h1 : MemInv s1 := h.foldl fun _ _ hx => hx.hbmForget
  have h2 : MemInv s2 := h1.frame
  exact h2.wr

theorem MemInv.secResult {p code : Nat} (h : MemInv s) : MemInv (secResult s p code) := h.frame

theorem MemInv.secStart {port p op : Nat} (h : MemInv s) : MemInv (secStart s port p op) := h.frame

theorem MemInv.secEnd {p : Nat} (h : MemInv s) : MemInv (secEnd s p) := h.frame

theorem MemInv.secAbandon {p code : Nat} (h : MemInv s) : MemInv (secAbandon s p code) := .ite h.frame h

theorem MemInv.secCmd {port op : Nat} {note : Option Kind} {phase : CmdPhase} {body : State → Nat → Nat → State × Nat}
    (h : MemInv s) (hbody : ∀ u p a, MemInv u → MemInv (body u p a).1) : MemInv (secCmd s port op note phase body) := by
  unfold Machine.secCmd
  extract_lets act
  have hact (u p a) (hu : MemInv u) : MemInv (act u p a) := by
    have h1 : MemInv (body u p a).1 := hbody u p a hu
    unfold act
    dsimp only
    split
    exacts [.ite h1.secResult h1.secResult.raisePkg, h1.secResult]
  refine .ite ?_ ?_
  · extract_lets
    split
    exacts [.ite (hact _ _ _ h.secEnd) h, h]
  · split
    exacts [h.ideNote, .ite h (.ite h.secStart (hact _ _ _ h))]

theorem MemInv.secBlob {p a n : Nat} {ext : List Byte} {ecc : Ecc} (h : MemInv s) : MemInv (secBlob s p a n ext ecc).1 := by
  refine .ite_fst h ?_
  split
  case h_1 =>
    refine .ite_fst h ?_
    split
    exacts [.ite h.eccCorrected h, .ite_fst h.eccUncorrected h, h]
  case h_2 =>
    split
    exacts [.ite_fst h.noteRead h, h]
  exact h

theorem MemInv.withBlob {x : State × Except Nat (List Byte)} {act : State → List Byte → State × Nat} (h : MemInv x.1)
    (hact : ∀ u b, MemInv u → MemInv (act u b).1) : MemInv (withBlob x act).1 := by
  unfold Machine.withBlob
  split
  exacts [h, hact _ _ h]

theorem MemInv.recoveryLost (h : MemInv s) : MemInv (recoveryLost s) := .ite h.frame h

theorem MemInv.jobImport {sealIt : Bool} {ext : List Byte} {ecc : Ecc} {p a : Nat} (h : MemInv s) :
    MemInv (jobImport sealIt ext ecc s p a).1 := by
  unfold Machine.jobImport
  split
  case h_1 => exact h
  case h_2 =>
    refine h.secBlob.withBlob fun u b hu => ?_
    split
    case h_1 => exact hu
    case h_2 =>
      extract_lets u1
      have h1 : MemInv u1 := hu.frame
      exact MemInv.ite h1.csWant h1

theorem MemInv.memberLoad {ext : List Byte} {ecc : Ecc} {p a : Nat} (h : MemInv s) :
    MemInv (memberLoad ext ecc s p a).1 := by
  unfold Machine.memberLoad
  split
  case h_3 => exact h.secBlob.withBlob fun u b hu => .ite_fst hu.frame hu
  all_goals exact h

theorem MemInv.jobClear {p _a : Nat} (h : MemInv s) : MemInv (jobClear s p _a).1 := .ite_fst h.frame.unsealPart.closePart h

theorem MemInv.hbmKeyLoad {p _a : Nat} (h : MemInv s) : MemInv (hbmKeyLoad s p _a).1 := .ite_fst h.loadHbmKey h

theorem MemInv.dbgChallenge {p _a : Nat} (h : MemInv s) : MemInv (dbgChallenge s p _a).1 := h.frame

theorem MemInv.openDebug {p : Nat} (h : MemInv s) : MemInv (openDebug s p) := by
  unfold Machine.openDebug
  extract_lets s1 s2 s3
  have h1 : MemInv s1 := h.zeroJob.unsealNow.revokeHbm.closePart
  have h2 : MemInv s2 := h1.foldl fun _ _ hx => hx.dropIde
  exact h2.wrb.wrSat.raise

theorem MemInv.unlock {who : Nat} {may : Nat → Bool} {b : List Byte} (h : MemInv s) : MemInv (unlock s who may b).1 :=
  .ite_fst h (.ite_fst h (.ite_fst h (.ite_fst (h.frame.foldl fun _ _ h1 => h1.openDebug) h.frame)))

theorem MemInv.dbgUnlock {blob : List Byte} {ecc : Ecc} {p a : Nat} (h : MemInv s) :
    MemInv (dbgUnlock blob ecc s p a).1 := h.secBlob.withBlob fun _ _ hu => hu.unlock

theorem MemInv.svnCommit {port _p _a : Nat} (h : MemInv s) : MemInv (svnCommit port s _p _a).1 := .ite_fst h (.ite_fst h.frame.raisePkg h)

theorem MemInv.ownerEnrol {port : Nat} {blob : List Byte} {ecc : Ecc} {p a : Nat} (h : MemInv s) :
    MemInv (ownerEnrol port blob ecc s p a).1 := by
  unfold Machine.ownerEnrol
  refine .ite_fst h (.ite_fst h (h.secBlob.withBlob fun u b hu => .ite_fst hu (.ite_fst hu ?_)))
  exact hu.frame (u := Machine.wrb { u with ownerKey := some (b.take 97) } 4 R.SEC_STATUS_OWNER_ENROLLED true) |>.recordMeasure

theorem MemInv.spdmAnswer {who : Nat} {req : SpdmReq} {ok : Bool} (h : MemInv s) : MemInv (spdmAnswer s who req ok) := h.frame

theorem MemInv.ideProgram {port : Nat} {selective : Bool} {km : IdeKm} (h : MemInv s) : MemInv (ideProgram s port selective km) := by
  unfold Machine.ideProgram
  dsimp only
  split
  exacts [h.frame, h.frame, h.dropStream, h.frame]

theorem MemInv.execSpdmRequest {port : Option HPort} {req : SpdmReq} (h : MemInv s) : OutInv (execSpdmRequest port req s) := by
  refine .next (.ite h ?_)
  split
  exacts [.ite h.frame h.frame, .ite h.frame h.frame, h.frame, h.frame, h.frame, .ite h.ideProgram.spdmAnswer h.frame, h.frame, h.frame,
    h.frame, h.frame]

end Sys2Proof.Machine
end

section
/-!
SUPPORT. The canonical form of the memories under state streaming, mirrors, restores and exports.
-/

open Sys2Proof Sys2Proof.Machine Sys2Proof.Claims

namespace Sys2Proof.Machine

set_option Elab.async false

variable {s : State}

theorem MemInv.rsResult {p code : Nat} (h : MemInv s) : MemInv (rsResult s p code) := h.frame

theorem MemInv.toPartners {p : Nat} {typ : Byte} {step : Nat} {payload : List Byte} {unit : Nat} (h : MemInv s) :
    MemInv (toPartners s p typ step payload unit) := h.foldl fun _ _ h1 => h1.emit

theorem MemInv.raiseRefuse {p src : Nat} {r : Refuse} (h : MemInv s) : MemInv (raiseRefuse s p src r) := by
  unfold Machine.raiseRefuse
  split
  exacts [h.raise, h]

theorem MemInv.setJstate {p v : Nat} (h : MemInv s) : MemInv (setJstate s p v) := h.frame

theorem MemInv.setDrive {p : Nat} {d : DriveImage} (h : MemInv s) : MemInv (setDrive s p d) := h.frame

theorem MemInv.refreshRing {p : Nat} (h : MemInv s) : MemInv (refreshRing s p) := h.frame

theorem MemInv.stage {p : Nat} {l : List JRec} (h : MemInv s) : MemInv (stage s p l) := .ite h h.frame.devForget

theorem MemInv.journalFail {p : Nat} (h : MemInv s) : MemInv (journalFail s p) := .ite h.frame h.frame.raise

theorem MemInv.formatDrive {p : Nat} {d : DriveImage} {l : List JRec} (h : MemInv s) : MemInv (formatDrive s p d l) := h.frame

theorem MemInv.journalFormat {p : Nat} (h : MemInv s) : MemInv (journalFormat s p) := by
  refine .ite h (.ite h.journalFail.raise (.ite h.journalFail (.ite h.raise ?_)))
  split
  exacts [.ite h.raise h, .ite h.journalFail ((h.foldl fun _ _ h1 => h1.frame).formatDrive)]

theorem MemInv.journalEnable {p : Nat} {en acquired : Bool} (h : MemInv s) : MemInv (journalEnable s p en acquired) := by
  refine .ite h.frame (.ite h.frame ?_)
  split
  exacts [.ite (.ite h.frame h.frame.raise) h.frame, h.frame]

theorem MemInv.journalCompact {p : Nat} (h : MemInv s) : MemInv (journalCompact s p) := .ite h.frame h

theorem MemInv.execJournalSealDone {p : Part} (h : MemInv s) : OutInv (execJournalSealDone p s) := by
  refine .next ?_
  split
  exacts [.ite h.frame (.ite (.ite h.frame.toPartners.refreshRing.journalCompact h.frame.toPartners.refreshRing) h), h]

theorem MemInv.clearDirty {k : Nat} {atoms : List Nat} (h : MemInv s) : MemInv (clearDirty s k atoms) := by
  unfold Machine.clearDirty
  dsimp only
  split
  exacts [h, h.foldl fun _ _ h1 => h1.hbmWrite]

theorem MemInv.lagEpoch {p : Nat} (h : MemInv s) : MemInv (lagEpoch s p) := h.frame.raise

theorem MemInv.captureEngine {p k : Nat} (h : MemInv s) : MemInv (captureEngine s p k).1 := by
  unfold Machine.captureEngine
  extract_lets atoms tables s1
  have h1 : MemInv s1 := h.stage
  exact .ite_fst (.clearDirty h1.frame) h.raise

theorem MemInv.captureAll {p : Nat} (h : MemInv s) : MemInv (captureAll s p).1 := by
  unfold Machine.captureAll
  refine .ite_fst h ?_
  split
  next u lag he =>
    have hu : MemInv u := .of_fst he (h.foldl_fst fun _ _ hx => hx.captureEngine)
    exact .ite_fst hu.wrSat.setJstate (.ite hu.setJstate hu)

theorem MemInv.epochFinish {p e c : Nat} (h : MemInv s) : MemInv (epochFinish s p e c) := h.frame.foldl fun _ _ h1 => h1.frame

theorem MemInv.epochRegions {p c : Nat} {lag : Bool} {rs : List (Nat × List Byte)} (h : MemInv s) :
    MemInv (epochRegions s p c lag rs).1 := by
  refine .ite_fst (h.foldl fun _ _ h1 => ?_) (.ite_fst ((h.foldl fun _ _ h1 => ?_).stage) ((h.foldl fun _ _ h1 => ?_).lagEpoch))
  · split
    exacts [.ite h1.emit h1, h1]
  · split
    exacts [.ite h1.emit h1, h1]
  · split
    exacts [.ite h1.emit h1, h1]

theorem MemInv.epochBegin {p e : Nat} (h : MemInv s) : MemInv (epochBegin s p e) := by
  unfold Machine.epochBegin
  refine .ite h (.ite h.raise (.ite h.raise ?_))
  extract_lets s1
  have h1 : MemInv s1 := h.wrAdd
  split
  next s2 lag he =>
  have h2 : MemInv s2 := .of_fst he h1.captureAll
  split
  case h_1 => exact h2.epochRegions.raise
  case h_2 rs _ =>
    split
    next s3 lag' he' =>
    have h3 : MemInv s3 := .of_fst he' h2.epochRegions
    extract_lets s4 n s5
    have h4 : MemInv s4 := .ite h3 h3.stage
    have h5 : MemInv s5 := h4.toPartners
    clear_value s5
    exact .ite h5.epochFinish h5.frame

theorem MemInv.eventEcho {p : Nat} {e : FiredEv} (h : MemInv s) : MemInv (eventEcho s p e) := .ite h.toPartners h

theorem MemInv.setPlan {p : Nat} {r : Option InputRec} (h : MemInv s) : MemInv (setPlan s p r) := by
  unfold Machine.setPlan
  split <;> exact h.frame

theorem MemInv.stageInputs {p : Nat} {r : InputRec} (h : MemInv s) : MemInv (stageInputs s p r) := .ite h.raise (.ite h.stage h.lagEpoch)

theorem MemInv.closeInputs {p n : Nat} {skip : Bool} (h : MemInv s) : MemInv (closeInputs s p n skip) := by
  unfold Machine.closeInputs
  extract_lets l s1 r s2 s3
  have h1 : MemInv s1 := h.frame
  clear_value s1
  have h2 : MemInv s2 := h1.frame
  have h3 : MemInv s3 := .ite h2.stageInputs h2
  exact .ite h1 (.ite h1.raise h3.toPartners)

theorem MemInv.noteInput {p : Nat} {x : InputEntry} (h : MemInv s) : MemInv (noteInput s p x).1 := by
  unfold Machine.noteInput
  dsimp only
  split
  exacts [.ite_fst h h.frame, h.frame]

theorem MemInv.setWstate {p w v : Nat} (h : MemInv s) : MemInv (setWstate s p w v) := h.frame

theorem MemInv.setWlog {p w : Nat} {l : List CopyMsg} (h : MemInv s) : MemInv (setWlog s p w l) := h.frame

theorem MemInv.releaseHeld {p : Nat} {sel : Held → Bool} (h : MemInv s) : MemInv (releaseHeld s p sel) := by
  unfold Machine.releaseHeld
  extract_lets s1
  have h1 : MemInv s1 := h.foldl fun _ _ hx => hx.releaseVer
  exact h1.frame

theorem MemInv.dropSlot {p w : Nat} (h : MemInv s) : MemInv (dropSlot s p w) := by
  unfold Machine.dropSlot
  extract_lets mine s1 s2
  have h1 : MemInv s1 := h.releaseHeld
  have h2 : MemInv s2 := h1.frame
  exact h2.setWlog

theorem MemInv.lapseSlot {p w : Nat} {k : Kind} (h : MemInv s) : MemInv (lapseSlot s p w k) := h.dropSlot.setWstate.raise.emit

theorem MemInv.logWrite {p w at_ : Nat} {bs : List Byte} (h : MemInv s) : MemInv (logWrite s p w at_ bs) := by
  unfold Machine.logWrite
  dsimp only
  split
  exacts [h.hbmWrite.hbmWrite, h]

theorem MemInv.appendCopy {p w : Nat} {m : CopyMsg} (h : MemInv s) : MemInv (appendCopy s p w m) := by
  unfold Machine.appendCopy
  extract_lets l1 l2 size at' s1 s2
  have h1 : MemInv s1 := h.setWlog.logWrite
  have h2 : MemInv s2 := h1.frame
  exact .ite h.lapseSlot (.ite h2.wr h2)

theorem MemInv.slotEpoch {p w : Nat} {m : CopyMsg} (h : MemInv s) : MemInv (slotEpoch s p w m) := h.frame

theorem MemInv.ackCopy {p : Nat} {m : CopyMsg} (h : MemInv s) : MemInv (ackCopy s p m) := by
  unfold Machine.ackCopy
  dsimp only
  split
  exacts [.ite h.emit h.emit, .ite h.emit (.ite h.emit (.ite h.emit (.ite h h.emit)))]

theorem MemInv.mirrorContrib {p w : Nat} {c : Contribution} (h : MemInv s) : OptInv (mirrorContrib s p w c) := by
  unfold Machine.mirrorContrib
  extract_lets k t s1 s2
  refine .ite trivial ?_
  split
  case h_1 => exact trivial
  case h_2 =>
    refine .ite ?_ (.ite ?_ trivial)
    · split
      case h_1 he => exact MemInv.of_fst he h.applyRow
      case h_2 => exact trivial
    · have h1 : MemInv s1 := h.holdVer
      have h2 : MemInv s2 := h1.frame
      split
      exacts [h2.hbmForget, h2]

/-- A step that may fail, taken on a state if there is one. -/
theorem OptInv.bind {o : Option State} {f : State → Option State} (h : OptInv o) (hf : ∀ s, MemInv s → OptInv (f s)) :
    OptInv (o.bind f) := by
  cases o with
  | none => exact trivial
  | some s => exact hf s h

theorem OptInv.map {o : Option State} {f : State → State} (h : OptInv o) (hf : ∀ s, MemInv s → MemInv (f s)) : OptInv (o.map f) := by
  cases o with
  | none => exact trivial
  | some s => exact hf s h

theorem ExcInv.toOption {ε : Type} {x : Except ε State} (h : ExcInv x) : OptInv x.toOption := by
  cases x with
  | error e => exact trivial
  | ok s => exact h

theorem MemInv.setClip {p n : Nat} {clip : Option Half} (h : MemInv s) : MemInv (setClip s p n clip) := by
  unfold Machine.setClip
  split <;> exact h.frame

theorem MemInv.mirrorStep {p w n : Nat} {skip : Bool} {clip : Option Half} (h : MemInv s) :
    OptInv (mirrorStep s p w n skip clip) := by
  unfold Machine.mirrorStep
  extract_lets go
  have hgo (k u) (hu : MemInv u) : OptInv (go u k) := by
    refine .ite hu.dropHeld.finishStep ?_
    split
    case h_1 he => exact (MemInv.of_fst he hu.applyGroups).finishStep
    case h_2 => exact trivial
  exact .map (.foldl h.setClip fun _ k hx => hx.bind (hgo k)) fun _ hu => hu.wr

theorem MemInv.optCoeff {p : Nat} {e : FiredEv} (h : MemInv s) : MemInv (optCoeff s p e) := .ite h.frame h

theorem MemInv.mirrorMigCopy {p : Nat} {m : CopyMsg} (h : MemInv s) : OptInv (mirrorMigCopy s p m) := by
  refine .ite trivial (.ite ?_ ?_)
  · split
    case h_2 =>
      split
      exacts [trivial, h, h.markMoved]
    exact trivial
  · split
    case h_2 =>
      split
      case h_1 he => exact MemInv.of_ok_some he h.createRow
      exact trivial
    exact trivial

theorem MemInv.keepBatch {p w k id : Nat} {r : MigRow} (h : MemInv s) : MemInv (keepBatch s p w k id r) := .ite h.frame h.frame

theorem MemInv.mirrorOld {p w row t v : Nat} {old : Option (Nat × Nat × Nat × Nat)} {retired : Bool} (h : MemInv s) :
    OptInv (mirrorOld s p w row t v old retired) := by
  unfold Machine.mirrorOld
  split
  case h_1 => exact h
  case h_2 =>
    refine .ite h (.ite ?_ ?_)
    · split
      exacts [h.markSlot.toOption, trivial]
    · split
      exacts [trivial, h, .ite h h.clearFound.toOption]

theorem MemInv.mirrorRedirect {p w : Nat} {bs : List Byte} (h : MemInv s) : OptInv (mirrorRedirect s p w bs) := by
  unfold Machine.mirrorRedirect
  dsimp only
  split
  exacts [h.putRedirect.keepBatch, h.mirrorOld, h.mirrorOld, MemInv.ite h.dropRedirect.keepBatch h.dropRedirect]

theorem MemInv.writeRegion {p addr : Nat} {bs : List Byte} (h : MemInv s) : MemInv (writeRegion s p addr bs).1 := by
  unfold Machine.writeRegion
  split
  case h_2 =>
    split
    case h_1 he => exact MemInv.of_fst he h.devWrite
    case h_2 he => exact .raiseRefuse (MemInv.of_fst he h.devWrite)
  exact h.raiseRefuse

theorem MemInv.mirrorCopy {p w : Nat} {m : CopyMsg} (h : MemInv s) : OptInv (mirrorCopy s p w m) := by
  unfold Machine.mirrorCopy
  split
  case h_6 =>
    dsimp only
    split
    exacts [h.mirrorStep, h.optCoeff, h.versionSwap, h.frame, h]
  exacts [h.mirrorContrib, h.mirrorContrib, h.releaseHeld, h.mirrorMigCopy, h.mirrorRedirect, h.writeRegion, h.slotEpoch, h.setWlog, h]

theorem MemInv.slotCopy {p w : Nat} {m : CopyMsg} (h : MemInv s) : MemInv (slotCopy s p w m) := by
  unfold Machine.slotCopy
  dsimp only
  split
  case h_3 =>
    refine .ite h.frame ?_
    split
    case h_1 he => exact .ackCopy (MemInv.of_some he h.mirrorCopy)
    exact h.lapseSlot.ackCopy
  exacts [.ite h.frame (.ackCopy (.ite h.appendCopy.slotEpoch h.appendCopy)), .ite h.frame (.ackCopy (.ite h.appendCopy.slotEpoch
    h.appendCopy)), h.ackCopy]

theorem MemInv.execCopyReceive {p : Part} {m : CopyMsg} (h : MemInv s) : OutInv (execCopyReceive p m s) := by
  refine h.holdFrame (fun _ h1 => .ite h1 ?_)
  split
  exacts [.ite h1.raise h1.slotCopy, h1.raise]

theorem MemInv.watchWrite {p w v : Nat} (h : MemInv s) : MemInv (watchWrite s p w v) :=
  .ite (.ite h.frame h.frame.dropSlot.setWstate) (.ite h.frame (.ite h.frame h.raise))

theorem MemInv.execLapseNoticeReceive {p : Part} {src : Node} (h : MemInv s) : OutInv (execLapseNoticeReceive p src s) :=
  h.holdFrame (fun _ h1 => .ite h1 (.raise (.wrb (.ite h1 h1.frame))))

theorem MemInv.restoreBytes {k o : Nat} {bs : List Byte} (h : MemInv s) : MemInv (restoreBytes s k o bs) := by
  refine h.foldl fun u x hu => ?_
  dsimp only
  split
  case h_1 he => exact hu.of_blockPut he
  case h_2 => exact hu.hbmWrite

theorem MemInv.applyImage {p : Nat} {slot : Option Nat} {r : JRec} (h : MemInv s) : MemInv (applyImage s p slot r).1 := by
  unfold Machine.applyImage
  split
  case h_1 => exact h.restoreBytes
  case h_2 =>
    extract_lets k s1 bs
    have h1 : MemInv s1 := h.setRedirects
    split <;> exact h1.frame
  case h_3 => exact h.writeRegion
  case h_4 => exact h

theorem MemInv.applyImages {p : Nat} {slot : Option Nat} {l : List JRec} (h : MemInv s) :
    MemInv (applyImages s p slot l).1 := by
  induction l generalizing s with
  | nil => exact h
  | cons r l ih =>
    unfold Machine.applyImages
    split
    case h_1 he => exact ih (.of_fst he h.applyImage)
    case h_2 he => exact .of_fst he h.applyImage

theorem MemInv.restoreFailed {p : Nat} (h : MemInv s) : MemInv (restoreFailed s p) := h.frame.raise

theorem MemInv.whenKeyed {p : Nat} {body : State → State} (h : MemInv s) (hk : ∀ u, MemInv u → MemInv (body u)) :
    MemInv (whenKeyed s p body) := .ite (hk _ h) h.frame.raise

theorem MemInv.replayStep {p w : Nat} {l : List CopyMsg} {m : Nat} (h : MemInv s) : OptInv (replayStep s p w l m) := by
  unfold Machine.replayStep
  exact .foldl h.setClip fun _ _ hx => hx.bind fun _ hu => hu.mirrorCopy

theorem MemInv.writeRegions {p : Nat} {l : List CopyMsg} (h : MemInv s) : MemInv (writeRegions s p l).1 :=
  h.foldl_fst fun _ _ h1 => .ite_fst h1.writeRegion h1

theorem MemInv.replayWindow {p w d n : Nat} {l : List CopyMsg} (h : MemInv s) : MemInv (replayWindow s p w d n l).1 := by
  unfold Machine.replayWindow
  refine .ite_fst h ?_
  split
  case h_1 => exact h
  case h_2 he => exact (MemInv.of_some he (.foldl h.wr fun _ _ hx => hx.bind fun _ hu => hu.replayStep)).writeRegions

theorem MemInv.seedSlot {p w : Nat} {image : Option DriveImage} (h : MemInv s) : MemInv (seedSlot s p w image) := by
  refine .ite h.frame ?_
  split
  case h_1 =>
    refine h.whenKeyed (fun _ h1 => ?_)
    split
    case h_1 he => exact .frame (MemInv.of_fst he h1.applyImages)
    case h_2 he => exact .restoreFailed (MemInv.of_fst he h1.applyImages)
  exact h.restoreFailed

theorem MemInv.replayRest {p w n : Nat} {l : List CopyMsg} (h : MemInv s) : OptInv (replayRest s p w n l) :=
  .foldl h fun _ _ hx => hx.bind fun _ hu => hu.mirrorCopy

theorem MemInv.execSeedingDone {p : Part} {w : Fin 4} (h : MemInv s) : OutInv (execSeedingDone p w s) := by
  unfold Machine.execSeedingDone
  refine .next (.ite h ?_)
  extract_lets l d n s1
  have h1 : MemInv s1 := h.frame
  split
  case h_1 he =>
    split
    case h_1 hr => exact (MemInv.of_some hr (MemInv.of_fst he h1.replayWindow).replayRest).setWlog.setWstate
    case h_2 => exact h1.setWstate.restoreFailed
  case h_2 he => exact (MemInv.of_fst he h1.replayWindow).setWstate.restoreFailed

theorem MemInv.rsCommand {port : Nat} {body : State → Nat → State} (h : MemInv s) (hk : ∀ u a, MemInv u → MemInv (body u a)) :
    MemInv (rsCommand s port body) := by
  unfold Machine.rsCommand
  split
  exacts [h.ideNote, .ite h (.ite (hk _ _ h) h.frame)]

theorem MemInv.rewindTo {p n : Nat} (h : MemInv s) : MemInv (rewindTo s p n) := by
  unfold Machine.rewindTo
  extract_lets later mine s1 s2 s3
  have h1 : MemInv s1 := h.releaseHeld
  clear_value s1
  have h2 : MemInv s2 := h1.frame
  have h3 : MemInv s3 := h2.foldl fun _ _ hx => .ite hx hx.setWlog
  exact h3.settleVers.setPlan

theorem MemInv.rewindCmd {p : Nat} (h : MemInv s) : MemInv (rewindCmd s p) := h.rewindTo.rsResult

theorem MemInv.reloadCmd {p : Nat} (h : MemInv s) : MemInv (reloadCmd s p) := by
  unfold Machine.reloadCmd
  dsimp only
  split
  case h_1 =>
    refine .ite h.restoreFailed ?_
    split
    case h_1 =>
      refine h.whenKeyed (fun _ h1 => ?_)
      split
      case h_1 he => exact .rsResult (.rewindTo (MemInv.of_fst he h1.applyImages))
      case h_2 he => exact .restoreFailed (MemInv.of_fst he h1.applyImages)
    exact h.restoreFailed
  exact h.restoreFailed

theorem MemInv.certRejected {p : Nat} (h : MemInv s) : MemInv (certRejected s p) := h.raise

theorem MemInv.windowFail {p w : Nat} {r : Refuse} (h : MemInv s) : MemInv (windowFail s p w r).1 := by
  unfold Machine.windowFail
  split
  exacts [.ite_fst h h.countDmaErr.raise, h]

theorem MemInv.certRead {p : Nat} {ext : List Byte} {ecc : Ecc} (h : MemInv s) : MemInv (certRead s p ext ecc).1 := by
  refine .ite_fst h ?_
  split
  case h_1 =>
    refine .ite_fst h ?_
    split
    exacts [.ite h.eccCorrected h, .ite_fst h.eccUncorrected h, h]
  case h_2 =>
    split
    exacts [h.windowFail, .ite_fst h.noteRead h.windowFail]
  exact h

theorem MemInv.execVerify {port : HPort} {cert : List Byte} {ecc : Ecc} (h : MemInv s) : OutInv (execVerify port cert s ecc) := by
  refine .next ?_
  split
  case h_2 =>
    refine .ite h ?_
    split
    case h_1 he => exact .frame (MemInv.of_fst he h.certRead)
    case h_2 he => exact .ite (.frame (MemInv.of_fst he h.certRead)) (.certRejected (.frame (MemInv.of_fst he h.certRead)))
  exact h.ideNote

theorem MemInv.announce {p : Nat} {b : List Byte} (h : MemInv s) : MemInv (announce s p b) :=
  h.foldl fun _ _ h1 => h1.foldl fun _ _ h2 => .ite h2.post h2

theorem MemInv.assumeCmd {p : Nat} (h : MemInv s) : MemInv (assumeCmd s p) := by
  unfold Machine.assumeCmd
  dsimp only
  split
  exacts [h.frame, .rsResult (.wr (.announce ((h.frame.foldl fun _ _ h1 => .ite h1.dropSlot.wr.setWstate h1).closePart)))]

theorem MemInv.assumeSlot {p w : Nat} (h : MemInv s) : MemInv (assumeSlot s p w) :=
  .ite (h.frame.foldl fun _ _ h1 => h1.setRedirects.setRedirects) ((h.frame.foldl fun _ _ h1 => h1.setRedirects.setRedirects).setWstate)

theorem MemInv.restoreMirror {p w : Nat} {b : List Byte} {done : State → State} (h : MemInv s) (hk : ∀ u, MemInv u → MemInv (done u)) :
    MemInv (restoreMirror s p w b done) := by
  refine .ite h.restoreFailed (.ite h.frame (.ite (hk _ h.assumeSlot) (.ite h.restoreFailed ?_)))
  split
  case h_1 he => exact hk _ (.assumeSlot (MemInv.of_some he h.mirrorStep))
  exact h.restoreFailed

theorem MemInv.restoreWindow {p w n : Nat} {image : Option DriveImage} {log : List CopyMsg} {done : State → State}
    (h : MemInv s) (hdone : ∀ u, MemInv u → MemInv (done u)) : MemInv (restoreWindow s p w n image log done) := by
  unfold Machine.restoreWindow
  split
  case h_1 => exact h.restoreFailed
  case h_2 =>
    refine h.whenKeyed fun u hu => ?_
    split
    case h_1 he => exact (MemInv.of_fst he hu.applyImages).restoreFailed
    case h_2 he =>
      have h1 := MemInv.of_fst he hu.applyImages
      split
      case h_1 hr => exact hdone _ (MemInv.of_fst hr h1.replayWindow).setWlog.assumeSlot
      case h_2 hr => exact (MemInv.of_fst hr h1.replayWindow).restoreFailed

theorem MemInv.restoreDrive {p n : Nat} {d : DriveImage} {done : State → State} (h : MemInv s) (hk : ∀ u, MemInv u → MemInv (done u)) :
    MemInv (restoreDrive s p n d done) := by
  unfold Machine.restoreDrive
  split
  case h_2 =>
    refine h.whenKeyed (fun _ h1 => ?_)
    split
    case h_1 he => exact hk _ (MemInv.of_fst he h1.applyImages)
    case h_2 he => exact .restoreFailed (MemInv.of_fst he h1.applyImages)
  exact .ite h.frame h.restoreFailed

theorem MemInv.restoreGo {p w : Nat} {b : List Byte} {image : Option DriveImage} {shares : List CopyMsg} (h : MemInv s) :
    MemInv (restoreGo s p w b image shares) := by
  unfold Machine.restoreGo
  extract_lets n l log done
  have hdone (x u) (hu : MemInv u) : MemInv (done x u) := hu.setPlan.rsResult
  clear_value done
  split
  case h_1 => exact h.restoreMirror (hdone _)
  case h_2 => exact .ite h.restoreFailed (.ite h.rsResult (h.restoreWindow (hdone _)))
  case h_3 => exact .ite h.rsResult (h.restoreWindow (hdone _))
  case h_4 =>
    split
    exacts [h.restoreDrive (hdone _), h.restoreFailed]

theorem MemInv.sendShares {p dead : Nat} (h : MemInv s) : MemInv (sendShares s p dead) := by
  unfold Machine.sendShares
  split
  exacts [.ite (h.foldl fun _ _ h1 => h1.emit) h, h]

theorem MemInv.execTakeoverReceive {p : Part} {f : FPort} {i : Fin 32} {cert : List Byte} (h : MemInv s) :
    OutInv (execTakeoverReceive p f i cert s) :=
  h.holdFrame (fun _ h1 => .ite h1 (.ite (.sendShares ((h1.frame.foldl fun _ _ h2 => h2.foldl fun _ _ h3 => .ite h3.closeSess h3).wr))
    h1.certRejected))

theorem MemInv.exportFailed {p : Nat} (h : MemInv s) : MemInv (exportFailed s p) := h.raise

theorem MemInv.exportGo {p : Nat} (h : MemInv s) : MemInv (exportGo s p) := by
  unfold Machine.exportGo
  dsimp only
  split
  case h_1 =>
    split
    exacts [h.exportFailed, .ite h.frame.devWrite.wr h.exportFailed]
  exact h.exportFailed

theorem MemInv.execImportExport {port : HPort} {chunks : List (List Byte)} {image : DriveImage} {nonces : List Nat} (h : MemInv s) :
    OutInv (execImportExport port chunks image s nonces) := by
  refine .next ?_
  split
  case h_2 =>
    split
    exacts [.ite h.noteRead.setDrive.refreshRing h.exportFailed, h.exportFailed]
  exact h.ideNote

end Sys2Proof.Machine
end

section
/-!
SUPPORT. The canonical form of the memories under the fault collector, the counters and the operating levels.
-/

open Sys2Proof Sys2Proof.Machine Sys2Proof.Claims

namespace Sys2Proof.Machine

set_option Elab.async false

variable {s : State}

theorem MemInv.openScope {cls id : Nat} (h : MemInv s) : MemInv (openScope s cls id) := .ite h h.frame

theorem MemInv.fcRefresh (h : MemInv s) : MemInv (fcRefresh s) := h.frame.foldl fun _ _ h1 => h1.frame

theorem MemInv.noteLost {ps : List Nat} (h : MemInv s) : MemInv (noteLost s ps) := h.foldl fun _ _ h1 => h1.frame

theorem MemInv.displace {classes : List Nat} (h : MemInv s) : OptFst (displace s classes) := by
  unfold Machine.displace
  split
  exacts [h.frame.noteLost, trivial]

/-- A record is given a place with a state that is canonical. -/
theorem MemInv.place {s' : State} {cls i : Nat} (h : MemInv s) (he : place s cls = some (s', i)) : MemInv s' := by
  unfold Machine.place at he
  split at he
  case h_1 => cases he; exact h
  case h_2 =>
    split at he
    case h_1 => cases he
    case h_2 => exact .of_some_fst he h.displace
    case h_3 =>
      obtain ⟨_, _, rfl, _⟩ : ∃ j, _ ∧ s = s' ∧ j = i := by simpa using he
      exact h
    case h_4 =>
      split at he
      case h_1 => cases he; exact h
      case h_2 => exact .of_some_fst he h.displace

theorem MemInv.placeAlways {s' : State} {i : Nat} (h : MemInv s) (he : placeAlways s = some (s', i)) : MemInv s' := by
  unfold Machine.placeAlways at he
  split at he
  case h_1 => cases he; exact h
  case h_2 =>
    split at he
    case h_1 hd => cases he; exact .of_some_fst hd h.displace
    case h_2 =>
      obtain ⟨_, _, rfl, _⟩ : ∃ j, _ ∧ s = s' ∧ j = i := by simpa using he
      exact h

theorem MemInv.freeRecs (h : MemInv s) : MemInv (freeRecs s) := h.frame

theorem MemInv.mirrorSome {p n : Nat} (h : MemInv s) : MemInv (mirrorSome s p n) := by
  induction n generalizing s with
  | zero => exact h
  | succ n ih =>
    unfold Machine.mirrorSome
    split
    case h_1 => exact h
    case h_2 => exact .ite (.ite h h.frame.sendFault) (ih h.frame)

theorem MemInv.mirrorPart {p : Nat} (h : MemInv s) : MemInv (mirrorPart s p) :=
  .ite (.ite (.ite h.mirrorSome.raiseIrq h.mirrorSome) h.mirrorSome) h

theorem MemInv.mirrorAll (h : MemInv s) : MemInv (mirrorAll s) := .fcRefresh (.ite h.frame ((h.foldl fun _ _ h1 => h1.mirrorPart).freeRecs))

theorem MemInv.storeRec {r : FaultRec} {ps : List Nat} {placed : Option (State × Nat)} (h : MemInv s)
    (hplaced : ∀ u i, placed = some (u, i) → MemInv u) : MemInv (storeRec s r ps placed) := by
  unfold Machine.storeRec
  split
  case h_1 => exact h.noteLost.foldl fun _ _ hx => .ite hx.wrSat hx.wrSat
  case h_2 =>
    have hu := hplaced _ _ rfl
    extract_lets lost told keep s1
    have h1 : MemInv s1 := hu.frame
    refine h1.foldl fun v x hv => ?_
    dsimp only
    split
    case h_1 he => exact (hv.placeAlways he).frame
    case h_2 => exact hv

theorem MemInv.keepError {r : FaultRec} {p : Nat} (h : MemInv s) : MemInv (keepError s r p) := .ite h.frame h

theorem MemInv.takeFault {f : PendFault} (h : MemInv s) : MemInv (takeFault s f) := by
  unfold Machine.takeFault
  extract_lets m p seq s1
  have h1 : MemInv s1 := h.frame
  generalize (if m.part.isNone then (m.cls.toNat, false) else classify s m.cls.toNat m.source.toNat p) = c
  split
  next cls0 sec =>
  extract_lets cls r ps s2 s3 s4 s5 s6 s7 s8
  have h2 : MemInv s2 := h1.foldl fun _ _ hx => hx.wr
  have h3 : MemInv s3 := .ite h2.openScope (.ite h2.openScope h2)
  clear_value s3
  have h4 : MemInv s4 := .ite h3.frame h3
  clear_value s4
  have h5 : MemInv s5 := h4.storeRec fun _ _ he => h4.place he
  have h6 : MemInv s6 := .ite h3.wrSat.noteLost (.ite h5 h5.keepError)
  have h7 : MemInv s7 := .ite (.ite h6.faultHold h6.enterSafe) h6
  have h8 : MemInv s8 := h7.mirrorAll
  clear_value s8
  exact .ite h8.frame h8

theorem MemInv.stopSource {source kind : Nat} (h : MemInv s) : MemInv (stopSource s source kind) :=
  .ite (.ite (.ite h.frame h) (.ite (.ite h.frame h) h)) (.ite (.ite (.ite h.frame h) (.ite (.ite h.closeSess (.ite
    h.closePort.setPortState h)) (.ite h.qStall h))) h)

theorem MemInv.stopUnit {p source kind : Nat} (h : MemInv s) : MemInv (stopUnit s p source kind) := .ite (.ite h.frame h) h.stopSource

theorem MemInv.execFaultMessage {m : FaultMsg} (h : MemInv s) : OutInv (execFaultMessage m s) := by
  refine .next ?_
  split
  case h_2 =>
    refine .ite h (.takeFault ?_)
    split
    exacts [h.stopUnit, h.faultHold, h.enterSafe, h]
  exact h.frame.takeFault

theorem MemInv.clearScopes (h : MemInv s) : MemInv (clearScopes s) := h.frame

theorem MemInv.ackRecs {p : Nat} {sel : FaultRec → Bool} (h : MemInv s) : MemInv (ackRecs s p sel) := h.frame.fcRefresh

theorem MemInv.ringCfgWrite {p val : Nat} (h : MemInv s) : MemInv (ringCfgWrite s p val) := by
  unfold Machine.ringCfgWrite
  extract_lets was s1 s2 s3
  have h1 : MemInv s1 := .ite h.wrb h
  have h2 : MemInv s2 := h1.wr.wr.wr
  have h3 : MemInv s3 := h2.wrb.wr.wr
  clear_value s3
  exact .ite h2.wrb (.ite h2 (.ite h2.wrb.raise (.mirrorAll h3.frame)))

theorem MemInv.injectWrite {p val : Nat} (h : MemInv s) : MemInv (injectWrite s p val) := by
  refine .ite h (.ite h.frame ?_)
  split
  exacts [.ite (.raise (.ite h.frame.stopUnit h.frame)) h.frame, .ite h.frame.raisePkg h.frame, h.frame]

theorem MemInv.execPairFault {group : Fin 5} {idx : Byte} (h : MemInv s) : OutInv (execPairFault group idx s) := by
  unfold Machine.execPairFault
  refine .next ?_
  split
  case h_4 =>
    have h1 : MemInv (Machine.mirrorAll (Machine.enterSafe s 0)) := h.enterSafe.mirrorAll
    exact .ite h h1.frame
  exacts [h.raisePkg, h.raisePkg, .raisePkg (.ite h h.wrSat), h]

theorem MemInv.dropInc {c : CtrRef} (h : MemInv s) : MemInv (dropInc s c) := .ite h.frame h.frame.raise

theorem MemInv.wakeQueues {p : Nat} (h : MemInv s) : MemInv (wakeQueues s p) := .ite h.releaseWaits h

theorem MemInv.settleIncs {p : Nat} (h : MemInv s) : MemInv (settleIncs s p) :=
  (h.frame.foldl fun _ _ h1 => .ite h1.setCtr h1.dropInc).wakeQueues

theorem MemInv.counterRefused {p unit : Nat} (h : MemInv s) : MemInv (counterRefused s p unit) := h.raise

theorem MemInv.hostSig {p v : Nat} (h : MemInv s) : MemInv (hostSig s p v) := by
  refine .ite h.counterRefused ?_
  split
  exacts [h.frame, h.counterRefused]

theorem MemInv.writeCounters {p off size v : Nat} (h : MemInv s) : MemInv (writeCounters s p off size v) := by
  refine (h.foldl fun _ _ h1 => ?_).wakeQueues
  split
  exacts [h1.setCtr, h1]

theorem MemInv.counterWrite {p off size v : Nat} (h : MemInv s) : MemInv (counterWrite s p off size v) := by
  unfold Machine.counterWrite
  split
  exacts [.ite h.writeCounters h.counterRefused, h]

theorem MemInv.execSyncTimeout {t : Tile} {dma : Bool} {also : List (Tile × Bool)} (h : MemInv s) :
    OutInv (execSyncTimeout t dma s also) := by
  unfold Machine.execSyncTimeout
  extract_lets p others w s1
  refine .next ?_
  split
  case h_2 => exact h
  case h_1 =>
    have h1 : MemInv s1 := h.wrSat
    exact .ite (.raise (.ite h1 h1.wr.wr.wr.wr.wrb.wrb)) h

theorem MemInv.refreshLevels (h : MemInv s) : MemInv (refreshLevels s) := (h.foldl fun _ _ h1 => h1.frame).foldl fun _ _ h1 => h1.frame

theorem MemInv.applyProfile {p k : Nat} (h : MemInv s) : MemInv (applyProfile s p k) := .refreshLevels ((h.foldl fun _ _ h1 => h1.frame).wr)

theorem MemInv.levelStep {d : Nat} (h : MemInv s) : MemInv (levelStep s d) := .ite h.frame (.ite h.frame h.frame)

theorem MemInv.setPkgCap {w : Nat} (h : MemInv s) : MemInv (setPkgCap s w) := h.frame.foldl fun _ _ h1 => h1.frame

theorem MemInv.capOverStep {p : Nat} {draw : Nat → Nat} (h : MemInv s) : MemInv (capOverStep s p draw) := by
  unfold Machine.capOverStep
  dsimp only
  split
  exacts [h.frame, .ite h.frame.raisePkg h.frame]

theorem MemInv.capUnderStep {p power cap : Nat} (h : MemInv s) : MemInv (capUnderStep s p power cap) := by
  refine .ite ?_ h.frame
  split
  exacts [.ite h.frame h.frame, h.frame]

theorem MemInv.execCapEvaluate {p : Part} {power : Nat} {diePower : List Nat} (h : MemInv s) :
    OutInv (execCapEvaluate p power diePower s) := by
  unfold Machine.execCapEvaluate
  extract_lets uw s1 all s2 cap s3
  have h1 : MemInv s1 := h.wr
  have h2 : MemInv s2 := h1.foldl fun _ _ hx => hx.wr
  clear_value s2
  have h3 : MemInv s3 := .ite (.capOverStep h2.frame) h2.capUnderStep
  exact .next (.ite h h3.refreshLevels)

theorem MemInv.avsRead {link sel : Nat} {r : RailRead} (h : MemInv s) : MemInv (avsRead s link sel r) :=
  .ite (.ite h.frame h.frame) (.ite (.raisePkg (.ite h.frame h.frame)) h.frame)

theorem MemInv.thermReg {l : List Int} {i : Nat} (h : MemInv s) : MemInv (thermReg s l i) := .ite h.frame h.frame

theorem MemInv.throttleStep {l : List Int} {d : Nat} (h : MemInv s) : MemInv (throttleStep l s d) :=
  .ite (.ite h.frame.raisePkg h.frame) (.ite h (.ite (.ite (.ite h.frame h.frame) h.frame) h.frame))

theorem MemInv.overMax {l : List Int} {k : Nat} (h : MemInv s) : MemInv (overMax l s k) := .ite (.ite h h.frame.raisePkg) h.frame

theorem MemInv.execThermalEvaluate {temps : List Int} {retried : List Nat} (h : MemInv s) : OutInv (execThermalEvaluate temps s retried) :=
  .next (.ite h (.refreshLevels (.foldl (.foldl ((h.foldl fun _ _ h1 => h1.frame).foldl fun _ _ h1 => h1.thermReg) fun _ _ h1 =>
    h1.throttleStep) fun _ _ h1 => h1.overMax)))

end Sys2Proof.Machine
end

section
/-!
SUPPORT. The canonical form of the memories under Step Time and the end of a freeze.
-/

open Sys2Proof Sys2Proof.Machine Sys2Proof.Claims

namespace Sys2Proof.Machine

set_option Elab.async false

variable {s : State}

theorem MemInv.takeReport {p : Nat} {m : Report} (h : MemInv s) : MemInv (takeReport s p m) :=
  .ite h (.ite h (.ite h.raise (.ite h.raise (.ite h.raise (.ite h.frame h.frame.raise)))))

theorem MemInv.execReadinessReportReceive {p : Part} {m : Report} (h : MemInv s) : OutInv (execReadinessReportReceive p m s) :=
  h.holdFrame (fun _ h1 => h1.takeReport)

theorem MemInv.tickDies {p : Nat} (h : MemInv s) : MemInv (tickDies s p) := .ite (h.foldl fun _ _ h1 => h1.frame) h

theorem MemInv.eventAct {p : Nat} {e : FiredEv} (h : MemInv s) : MemInv (eventAct s p e) := by
  unfold Machine.eventAct
  split
  exacts [h.commitDecide.closeInputs, h.optCoeff, h.versionSwap, .ite (.ite h.frame h.hotFetch) h, h.migrationRetire, h.epochBegin,
    h.applyProfile, .ite h.raiseIrq h, h.assertSource, h.tickDies, h]

theorem MemInv.eventFire {p : Nat} {e : FiredEv} (h : MemInv s) : MemInv (eventFire s p e) := .eventAct (.eventEcho (.ite h h.frame))

theorem MemInv.setFiring {p : Nat} {l : List FiredEv} (h : MemInv s) : MemInv (setFiring s p l) := h.frame

theorem MemInv.fireList {p : Nat} {l : List FiredEv} (h : MemInv s) : MemInv (fireList s p l) := by
  induction l generalizing s with
  | nil => exact h.setFiring
  | cons e l ih =>
    unfold Machine.fireList
    exact .ite h.setFiring (.ite h.setFiring (ih h.setFiring.eventFire))

theorem MemInv.runFiring {p : Nat} (h : MemInv s) : MemInv (runFiring s p) := h.fireList

theorem MemInv.fireFront {p : Nat} {e : FiredEv} (h : MemInv s) : MemInv (fireFront s p e) := h.frame.eventFire.runFiring

theorem MemInv.execEpochClose {p : Part} {ecc : Ecc} (h : MemInv s) : OutInv (execEpochClose p s ecc) := by
  refine .next ?_
  split
  exacts [.ite h (h.eccReads (fun _ h1 => .ite h1.eventFire h1.eventFire.setFiring.runFiring)), h]

theorem MemInv.execEpochCloseAckReceive {p : Part} (h : MemInv s) : OutInv (execEpochCloseAckReceive p s) := by
  refine h.holdFrame (fun _ h1 => ?_)
  split
  exacts [.ite h1.epochFinish.setFiring.runFiring h1.frame, h1]

theorem MemInv.takeValue {p v : Nat} {skip : Bool} (h : MemInv s) : MemInv (takeValue s p v skip) :=
  .runFiring (.setFiring (.ite (.sdCollect (.drainVersions (.ite h.frame h.frame))) (.drainVersions (.ite h.frame h.frame))))

theorem MemInv.sendBeacons {p : Nat} {m : Beacon} (h : MemInv s) : MemInv (sendBeacons s p m) := h.foldl fun _ _ h1 => h1.emit

theorem MemInv.masterAdvance {p : Nat} (h : MemInv s) : MemInv (masterAdvance s p) := .ite h.raise h.sendBeacons.takeValue

theorem MemInv.stepEcc {p : Nat} {ecc : Ecc} {f : State → State} (h : MemInv s) (hk : ∀ u, MemInv u → MemInv (f u)) :
    MemInv (stepEcc s p ecc f) := by
  unfold Machine.stepEcc
  dsimp only
  split
  exacts [.ite (hk _ h.eccCorrected) (hk _ h), .ite (.eccUncorrected (.sdIdle (hk _ h))) (hk _ h), h.underEcc (fun _ h1 => hk _ h1)]

theorem MemInv.takeBeacon {p : Nat} {m : Beacon} (h : MemInv s) : MemInv (takeBeacon s p m) :=
  .ite h.raise (.ite h (.ite h.raise (.ite h.raise (.ite h.raise (.ite h.raise h.sendBeacons.takeValue)))))

theorem MemInv.execBeaconReceive {p : Part} {m : Beacon} {ecc : Ecc} (h : MemInv s) : OutInv (execBeaconReceive p m s ecc) :=
  h.holdFrame (fun _ h1 => h1.stepEcc (fun _ h2 => h2.takeBeacon))

theorem MemInv.reportAnew {p : Nat} (h : MemInv s) : MemInv (reportAnew s p) := h.frame

theorem MemInv.stConfigWrite {p off size v : Nat} (h : MemInv s) : MemInv (stConfigWrite s p off size v) :=
  .ite h.fieldsWrite (.ite (.ite (.ite h.fieldsWrite h.fieldsWrite.reportAnew) (.ite h.fieldsWrite h.frame)) (.ite h.fieldsWrite (.ite
    h.fieldsWrite.wrb.wrb h.fieldsWrite.reportAnew)))

theorem MemInv.stNowWrite {p off size v : Nat} (h : MemInv s) : MemInv (stNowWrite s p off size v) := by
  unfold Machine.stNowWrite
  extract_lets s1 d s2 s3 now
  have h1 : MemInv s1 := h.fieldsWrite
  clear_value s1
  have h2 : MemInv s2 := h1.frame
  have h3 : MemInv s3 := h2.wr.setDieDecided.drainVersions
  exact .ite h (h3.foldl fun _ _ hx => .ite hx.wr.raise hx)

theorem MemInv.armEvent {p i : Nat} (h : MemInv s) : MemInv (armEvent s p i) := .ite (.ite h.frame h.frame) h.frame.raise

theorem MemInv.eventWrite {p off size v : Nat} (h : MemInv s) : MemInv (eventWrite s p off size v) :=
  .ite h (.ite (.ite h.fieldsWrite.wr h.fieldsWrite) (.ite h.fieldsWrite.armEvent h.fieldsWrite))

theorem MemInv.heldAct {p : Nat} {c : Instr} (h : MemInv s) : MemInv (heldAct s p c) := by
  unfold Machine.heldAct
  extract_lets out
  have hout : OutInv out := by
    unfold out
    split
    exacts [h.execLookupRequestReceive, h.execForwardedRequestReceive, h.execLookupReplyReceive, h.execForwardedPartialReceive,
    h.execHotrowFetchReadReceive, h.execHotrowFetchReplyReceive, h.execContributionReceive, h.execContributionAckReceive,
    h.execWithdrawalReceive, h.execForwardedContributionReceive, h.execForwardedAckReceive, h.execMigrationCopyReceive,
    h.execReadinessReportReceive, h.execBeaconReceive, h.execSdPartialReceive, h.execSdResultReceive, h.execCollSegmentReceive,
    h.execTakeoverReceive, h.execCopyReceive, h.execLapseNoticeReceive, h.execEpochCloseAckReceive, .next h.handUp,
    .next h.flushDone, .next h]
  clear_value out
  cases out with
  | next t => exact hout
  | fault f => exact h
  | refused r => exact h

theorem MemInv.deliverHeld {p : Nat} (h : MemInv s) : MemInv (deliverHeld s p) := h.frame.foldl fun _ _ h1 => h1.heldAct

theorem MemInv.drainQueues {p : Nat} (h : MemInv s) : MemInv (drainQueues s p) := h.foldl fun _ _ h1 => h1.drainRecs

theorem MemInv.thaw {p : Nat} (h : MemInv s) : MemInv (thaw s p) :=
  .drainQueues (.deliverHeld (.settleIncs (.runFiring (.foldl (.ite h.frame.applyHold h.frame) fun _ _ h1 => h1.recheckPc))))

theorem MemInv.releaseSource {p b : Nat} (h : MemInv s) : MemInv (releaseSource s p b) := .ite h (.ite h.frame.thaw h.frame)

theorem MemInv.releaseAll {b : Nat} (h : MemInv s) : MemInv (releaseAll s b) := h.foldl fun _ _ h1 => h1.releaseSource

theorem MemInv.pkgThaw (h : MemInv s) : MemInv (pkgThaw s) := h.frame.releaseAll

theorem MemInv.freezeResume {p : Nat} (h : MemInv s) : MemInv (freezeResume s p) := .ite h h.releaseSource

end Sys2Proof.Machine
end

section
/-!
SUPPORT. The canonical form of the memories under BAR0 reads, debug access and the TAP.
-/

open Sys2Proof Sys2Proof.Machine Sys2Proof.Claims

namespace Sys2Proof.Machine

set_option Elab.async false

variable {s : State}

theorem MemInv.setWord {key : Nat} {v : Word} (h : MemInv s) : MemInv (setWord s key v) := h.sramWrite

theorem MemInv.memAccess {addr : Reg} {i : Nat} {key : Nat → Nat} {write : Bool} {val : Word} (h : MemInv s) :
    MemInv (memAccess s addr i key write val).1 := .wrAdd (.ite h.setWord h)

theorem MemInv.returnWord {write : Bool} {x : State × Word} (h : MemInv x.1) : MemInv (returnWord write x) := .ite h h.frame

theorem MemInv.halfAccess {addr : Reg} {i : Nat} {key : Nat → Nat} {write : Bool} {val : Word} {half : Option Bool}
    (h : MemInv s) : MemInv (halfAccess s addr i key write val half).1 := by
  unfold Machine.halfAccess
  split
  case h_1 => exact h.memAccess
  case h_2 =>
    extract_lets old low high x
    have hx : MemInv x.1 := h.memAccess
    clear_value x
    exact hx

theorem MemInv.engineDebug {port t : Nat} {write isOpen : Bool} {busy : Kind} {sub : Nat} {half : Option Bool}
    {acc : State → State × Word} (h : MemInv s) (hacc : ∀ u, MemInv u → MemInv (acc u).1) :
    MemInv (engineDebug s port t write isOpen busy sub half acc) := by
  unfold Machine.engineDebug
  exact .ite h.ideNote.returnWord (.ite h.returnWord (.ite (hacc _ h).returnWord h.raise.returnWord))

theorem MemInv.tileData {t : Nat} {tap write : Bool} {val : Word} (h : MemInv s) : MemInv (tileData s t tap write val).1 := by
  unfold Machine.tileData
  dsimp only
  split
  exacts [h.frame, .ite_fst h.frame (.ite_fst h.memAccess (.ite_fst h.raise (.ite_fst h.raise h)))]

theorem MemInv.tileWindow {t : Nat} {tap write : Bool} {o : Nat} {val : Word} (h : MemInv s) : MemInv (tileWindow s t tap write o val).1 :=
  .ite_fst h (.ite_fst (.ite_fst h (.ite h.setG h)) (.ite_fst (.ite_fst h (.ite h.frame h)) (.ite_fst h (.ite_fst (.ite h.frame h)
    (.ite_fst h.tileData h)))))

theorem MemInv.clusterPort {c : Nat} {tap write : Bool} {o : Nat} {val : Word} (h : MemInv s) :
    MemInv (clusterPort s c tap write o val).1 := .ite_fst (.ite h.frame h) (.ite_fst (.ite_fst h.memAccess h) h)

theorem MemInv.dumpStart {p : Nat} {hostOk : Bool} (h : MemInv s) : MemInv (dumpStart s p hostOk) := .ite h.frame (.ite h.frame h.frame)

theorem MemInv.syncAccess {p off : Nat} {write : Bool} {v : Nat} (h : MemInv s) : MemInv (syncAccess s p off write v) :=
  .ite h (.ite h.hostSig h.fieldsWrite)

theorem MemInv.bar4Word {p : Nat} {tap write : Bool} {off : Nat} {val : Word} (h : MemInv s) : MemInv (bar4Word s p tap write off val).1 :=
  .ite_fst (.ite (.ite h.pkgFreeze (.ite h.pkgThaw h)) h) (.ite_fst (.ite (.dumpStart (.ite h.fieldsWrite h)) (.ite h.fieldsWrite h))
    (.ite_fst h.syncAccess (.ite_fst (.ite h.writeCounters h) (.ite_fst h (.ite_fst h (.ite_fst (.ite_fst h.tileWindow h) (.ite_fst
    (.ite_fst h.clusterPort h) h)))))))

theorem MemInv.bar4Access {p : Nat} {tap write : Bool} {off : Nat} {val : Word} (h : MemInv s) :
    MemInv (bar4Access s p tap write off val).1 :=
  .ite_fst h.bar4Word (.ite_fst h (.ite_fst (.ite h.writeCounters h) (.ite_fst h h.bar4Word)))

theorem MemInv.bar4Port {port : Nat} {k : Nat → State} (h : MemInv s) (hk : ∀ u, MemInv (k u)) : MemInv (bar4Port s port k) :=
  .ite (hk _) h.bar4Note

theorem MemInv.execDbgWindowAccess {port : HPort} {write : Bool} {off : Nat} {val : Word} (h : MemInv s) :
    OutInv (execDbgWindowAccess port write off val s) := .next (.ite h.bar4Access.returnWord h.bar4Note.returnWord)

theorem MemInv.tapSelect {ir : Nat} {drive : Bool} {out : Nat} (h : MemInv s) : MemInv (tapSelect s ir drive out) := h.frame

theorem MemInv.tapAccess {write : Bool} {val : Word} (h : MemInv s) : MemInv (tapAccess s write val) := by
  unfold Machine.tapAccess
  extract_lets a x s0 s1
  have hx : MemInv x.1 := .ite_fst h.bar4Access h
  have h0 : MemInv s0 := hx.tapSelect
  clear_value s0
  have h1 : MemInv s1 := h0.frame
  clear_value s1
  exact .ite h1 h1.frame

theorem MemInv.execDbgAuth {token : List Byte} (h : MemInv s) : OutInv (execDbgAuth token s) := by
  unfold Machine.execDbgAuth
  split
  next s1 code he =>
  have h1 : MemInv s1 := .of_fst he h.unlock
  extract_lets s0 s2
  have h0 : MemInv s0 := h1.tapSelect
  have h2 : MemInv s2 := h0.frame
  exact .next (.ite h2 h2.raisePkg)

end Sys2Proof.Machine
end

section
/-!
SUPPORT. The canonical form of the memories under partition reset, port events and traffic generators.
-/

open Sys2Proof Sys2Proof.Machine Sys2Proof.Claims

namespace Sys2Proof.Machine

set_option Elab.async false

variable {s : State}

theorem MemInv.resetRegs {p : Nat} (h : MemInv s) : MemInv (resetRegs s p) := h.frame

theorem MemInv.scrubMem {p : Nat} {resident : Bool} (h : MemInv s) : MemInv (scrubMem s p resident) :=
  ⟨wf_filter _ _ h.1, h.2⟩

theorem MemInv.resetUnits {p : Nat} (h : MemInv s) : MemInv (resetUnits s p) := h.frame

theorem MemInv.dropFreeze {p : Nat} (h : MemInv s) : MemInv (dropFreeze s p) := h.frame

theorem MemInv.resetPower {p : Nat} (h : MemInv s) : MemInv (resetPower s p) :=
  .refreshLevels ((h.frame.foldl fun _ _ h1 => h1.frame).foldl fun _ _ h1 => .ite h1.frame h1.frame)

theorem MemInv.partReset {p cause : Nat} (h : MemInv s) : MemInv (partReset s p cause) := by
  unfold Machine.partReset
  extract_lets s1 s2 s3 s4 running s5 s6 s7
  have h1 : MemInv s1 := h.dropFreeze
  have h2 : MemInv s2 := h1.foldl fun _ _ hx => .ite hx hx.resetHostQueue
  have h3 : MemInv s3 := h2.closePart.zeroJob
  clear_value s3
  have h4 : MemInv s4 := .fcRefresh (.clearScopes (.freeRecs h3.frame))
  have h5 : MemInv s5 := h4.scrubMem.resetRegs.resetUnits.resetPower
  have h6 : MemInv s6 := .ite h5.secResult h5
  exact h6.wr.wr.wrb

theorem MemInv.enterReady {p : Nat} (h : MemInv s) : MemInv (enterReady s p) := h.frame.sdResume.retryLocks

theorem MemInv.resumePart {p : Nat} (h : MemInv s) : MemInv (resumePart s p) := .ite h (.ite h.enterReady h.frame.raise)

theorem MemInv.dropLink {port : Nat} (h : MemInv s) : MemInv (dropLink s port) := h.frame

theorem MemInv.changeMode {m : PMode} (h : MemInv s) : MemInv (changeMode s m) := by
  unfold Machine.changeMode
  extract_lets old s1 s2 s3
  have h1 : MemInv s1 := h.foldl fun _ _ hx => hx.partReset
  clear_value s1
  have h2 : MemInv s2 := h1.frame
  have h3 : MemInv s3 := h2.foldl fun _ _ hx => hx.partReset.wr
  exact h3.foldl fun _ _ hx => hx.dropIde.dropLink

theorem MemInv.voteWrite {p m : Nat} {vote : Bool} (h : MemInv s) : MemInv (voteWrite s p m vote) :=
  .ite h (.ite (.csWant (.wrb (.ite h h.frame))) (.wrb (.ite h h.frame)))

theorem MemInv.resetContexts {port : Nat} (h : MemInv s) : MemInv (resetContexts s port) := by
  unfold Machine.resetContexts
  extract_lets s1 s2 p s3 s4 s5
  have h1 : MemInv s1 := h.dropIde
  clear_value s1
  have h2 : MemInv s2 := h1.frame
  have h4 : MemInv s4 := h2.lostFlushes.foldl fun _ _ hx => .ite hx.resetHostQueue hx
  have h5 : MemInv s5 := h4.foldl fun _ _ hx => .ite hx.wrb hx
  exact .ite h2 (.ite h5.wrb h5)

theorem MemInv.ctrlLoss {port p : Nat} (h : MemInv s) : MemInv (ctrlLoss s port p) := by
  unfold Machine.ctrlLoss
  extract_lets s1 was s2 s3 s4
  have h1 : MemInv s1 := h.raise
  have h2 : MemInv s2 := h1.dropFreeze
  clear_value s2
  have h3 : MemInv s3 := .ite (.applyHold h2.frame) h2.enterHold
  have h4 : MemInv s4 := .ite h3.settleIncs.deliverHeld.drainQueues h3
  exact .ite h1 h4.scrubMem.wrb.revokeHbm

theorem MemInv.portLost {port : Nat} (h : MemInv s) : MemInv (portLost s port) := by
  unfold Machine.portLost
  extract_lets s1 s2 s3
  have h2 : MemInv s2 := h.resetContexts.wrSat.foldl fun _ _ hx => .ite hx.secAbandon hx
  have h3 : MemInv s3 := .ite h2.recoveryLost h2
  split
  exacts [h3.ctrlLoss, h3.raise, h3]

theorem MemInv.execFlr {port : HPort} (h : MemInv s) : OutInv (execFlr port s) := by
  unfold Machine.execFlr
  extract_lets p s1 s2
  have h1 : MemInv s1 := h.resetContexts.wrb
  clear_value s1
  have h2 : MemInv s2 := h1.frame
  exact .next (.ite h (.ite h2.partReset h2))

theorem MemInv.windowOwner {p w port v : Nat} (h : MemInv s) : MemInv (windowOwner s p w port v) := .ite h.frame h

theorem MemInv.windowWrite {p port off size v : Nat} (h : MemInv s) : MemInv (windowWrite s p port off size v) :=
  .ite h (.ite (.ite h.frame h) (.ite (.ite h.windowOwner h) (.ite (.wrb (.fieldsWrite (.ite h.windowOwner h))) (.fieldsWrite (.ite
    h.windowOwner h)))))

theorem MemInv.dropStorage {k : Nat} (h : MemInv s) : MemInv (dropStorage s k) := h.frame

theorem MemInv.lpWrite {k : Nat} {en : Bool} (h : MemInv s) : MemInv (lpWrite s k en) := .ite h.frame h.frame

theorem MemInv.execStorageLinkDown {k : LPort} (h : MemInv s) : OutInv (execStorageLinkDown k s) := by
  unfold Machine.execStorageLinkDown
  exact .next (.ite h (.raise (.ite h.dropStorage.wrSat.setJstate h.dropStorage.wrSat)))

theorem MemInv.tgForget {k : Nat} {gs : List Nat} (h : MemInv s) : MemInv (tgForget s k gs) :=
  .ite h ⟨h.1, wfHbm_filter _ _ h.2⟩

theorem MemInv.tgSettle {k mask : Nat} (h : MemInv s) : MemInv (tgSettle s k mask) := h.frame

theorem MemInv.tgStart {p k : Nat} (h : MemInv s) : MemInv (tgStart s p k) := by
  unfold Machine.tgStart
  extract_lets gs s1 s2 s3
  have h3 : MemInv s3 := h.tgForget.wrb.foldl fun _ _ hx => hx.wr
  clear_value s3
  exact .ite h (.ite h.raise (.tgSettle h3.frame))

theorem MemInv.tgHalt {p k : Nat} (h : MemInv s) : MemInv (tgHalt s p k) := .ite h.frame h

theorem MemInv.serveStackReq {p : Nat} {x : StackReq} (h : MemInv s) : MemInv (serveStackReq s p x) := by
  unfold Machine.serveStackReq
  split
  exacts [h.takeContrib, h.takeForward, h.takeMigCopy, h.serveAccess, h.takeMigAck, h.takeMoved, h.frame.migrateCmd, h.collArm]

theorem MemInv.serveStack {k : Nat} (h : MemInv s) : MemInv (serveStack s k) :=
  .serveWaiting (.ite (.snapFinish (.wrb ((h.foldl fun _ _ h1 => .ite h1.frame.serveStackReq h1).retryLocks))) ((h.foldl fun _ _ h1 => .ite
    h1.frame.serveStackReq h1).retryLocks))

theorem MemInv.execTgDone {k : Stack} {pc : Fin 64} {r : TgResult} (h : MemInv s) : OutInv (execTgDone k pc r s) :=
  .next (.ite h (.ite (.tgSettle (.ite h.frame h.frame.raise)) (.serveStack (.tgSettle (.ite h.frame h.frame.raise)))))

end Sys2Proof.Machine
end

section
/-!
SUPPORT. The canonical form of the memories under start-up, recovery and the configuration store.
-/

open Sys2Proof Sys2Proof.Machine Sys2Proof.Claims

namespace Sys2Proof.Machine

set_option Elab.async false

variable {s : State}

theorem MemInv.wantLife (h : MemInv s) : MemInv (wantLife s) := h.frame

theorem MemInv.mountLife (h : MemInv s) : MemInv (mountLife s) := by
  unfold Machine.mountLife
  exact h.wr.wr.wr.wr.wrSat.wrSat.wantLife

theorem MemInv.startCompact (h : MemInv s) : MemInv (startCompact s) := by
  have h1 : MemInv (Machine.setBank s (1 - curBank s) []) := h.setBank
  exact .ite h (.wrb h1.frame)

theorem MemInv.endCompact {n : Nat} {erased : Bool} (h : MemInv s) : MemInv (endCompact s n erased) := by
  unfold Machine.endCompact
  extract_lets l b s1 s2
  have h1 : MemInv s1 := h.setBank
  clear_value s1
  have h2 : MemInv s2 := h1.frame
  exact .refreshFill (.wrb (.ite h2.setBank h2))

theorem MemInv.formatStore (h : MemInv s) : MemInv (formatStore s) := h.frame.raisePkg

theorem MemInv.mountBank (h : MemInv s) : MemInv (mountBank s) := by
  unfold Machine.mountBank
  split
  case h_1 => exact h.formatStore
  case h_2 b _ _ =>
    dsimp only
    have h1 : MemInv (Machine.setBank s (1 - b) []) := h.setBank
    exact .ite (.endCompact (.wr h1.frame)) (.wr h1.frame)

theorem MemInv.unreadable {ok : Bool} (h : MemInv s) : MemInv (unreadable s ok) := .ite h h.frame

theorem MemInv.mountStore {ok : Bool} (h : MemInv s) : MemInv (mountStore s ok) := h.unreadable.mountBank.refreshFill.mountLife

theorem MemInv.loadCap {ok : Bool} (h : MemInv s) : MemInv (loadCap s ok) := by
  unfold Machine.loadCap
  exact h.wr

theorem MemInv.bootStage {n : Nat} (h : MemInv s) : MemInv (bootStage s n) := h.frame

theorem MemInv.readFuses {f : Fuses} (h : MemInv s) : MemInv (readFuses s f) := .ite h h.frame

theorem MemInv.applyRetire {src : Nat} (h : MemInv s) : MemInv (applyRetire s src) := .ite h.frame h.frame

theorem MemInv.retireUnits {b : BootFacts} (h : MemInv s) : MemInv (retireUnits s b) :=
  (h.foldl fun _ _ h1 => h1.applyRetire).foldl fun _ _ h1 => .ite h1.applyRetire.csWant.raisePkg h1

theorem MemInv.formParts (h : MemInv s) : MemInv (formParts s) := h.frame.foldl fun _ _ h1 => .ite h1.frame.resetPower h1.frame

theorem MemInv.unsealJob {p : Nat} (h : MemInv s) : MemInv (unsealJob s p) := by
  unfold Machine.unsealJob
  split
  case h_2 =>
    split
    exacts [h.frame, h.unsealPart.raisePkg]
  exact h

theorem MemInv.bootReady {ms : Nat} (h : MemInv s) : MemInv (bootReady s ms) :=
  .ite ((h.frame.foldl fun _ _ h1 => h1.frame.enterReady).assertAll) (h.frame.foldl fun _ _ h1 => h1.frame.enterReady)

theorem MemInv.bootFail {b : BootFacts} {src : Nat} {k : Kind} (h : MemInv s) : MemInv (bootFail s b src k) := h.raisePkg.wr

theorem MemInv.raiseEn {g : Nat} (h : MemInv s) : MemInv (raiseEn s g) := h.frame

theorem MemInv.readVdd (h : MemInv s) : MemInv (readVdd s) := h.foldl fun _ _ h1 => h1.frame

theorem MemInv.bootForm {b : BootFacts} (h : MemInv s) : MemInv (bootForm s b) := by
  unfold Machine.bootForm
  extract_lets s1 s2 s3 s4 s5
  have h2 : MemInv s2 := h.bootStage.formParts.recordMeasure.bootStage
  clear_value s2
  have h3 : MemInv s3 := h2.frame
  have h4 : MemInv s4 := h3.foldl fun _ _ hx => hx.raise
  have h5 : MemInv s5 := h4.bootStage.foldl fun _ _ hx => hx.wr.unsealJob
  exact h5.bootReady

/-- A stack that is not trained yet holds nothing that is known. -/
theorem MemInv.noHbm (h : MemInv s) : MemInv { s with hbm := [], hbmGen := s.hbmGen + 1 } := ⟨h.1, rfl⟩

theorem MemInv.bootRest {b : BootFacts} {bad : Nat} (h : MemInv s) : MemInv (bootRest s b bad) := by
  unfold Machine.bootRest
  extract_lets s1 s2 s3 s4
  have h1 : MemInv s1 := h.bootStage.raiseEn
  have h2 : MemInv s2 := h1.readVdd.retireUnits
  have h3 : MemInv s3 := h2.noHbm.bootStage.raiseEn
  have h4 : MemInv s4 := h3.raiseEn
  exact .ite h1.bootFail (.ite h2.bootFail (.ite h3.bootFail (.ite h4.bootFail (.ite h4.bootFail h4.bootForm))))

theorem MemInv.imageRuns {svn : Nat} {cosigned recovered : Bool} {head : List Byte} (h : MemInv s) :
    MemInv (imageRuns s svn cosigned recovered head) := h.frame

theorem MemInv.waitRecovery {b : BootFacts} {code : Nat} (h : MemInv s) : MemInv (waitRecovery s b code) := h.frame.raisePkg

theorem MemInv.powerOn {b : BootFacts} {bad : Nat} (h : MemInv s) : MemInv (powerOn s b bad) :=
  .ite h.frame (.ite h.frame.readFuses.bootStage.loadCap.raiseEn.bootFail (.ite h.frame.readFuses.bootStage.loadCap.raiseEn.bootFail (.ite
    h.frame.readFuses.bootStage.loadCap.raiseEn.bootStage.mountStore.imageRuns.bootRest
    h.frame.readFuses.bootStage.loadCap.raiseEn.bootStage.mountStore.waitRecovery)))

theorem MemInv.recResult {code : Nat} (h : MemInv s) : MemInv (recResult s code) := h.frame

theorem MemInv.recoveryGo {image : List Byte} {b : BootFacts} {bad : Nat} (h : MemInv s) :
    MemInv (recoveryGo s image b bad) := by
  unfold Machine.recoveryGo
  extract_lets s1 code s2 s3
  have h1 : MemInv s1 := .ite h.hostRead h
  have h2 : MemInv s2 := h1.recResult.wrb
  clear_value s2
  have h3 : MemInv s3 := .ite h2.frame h2
  exact .ite h1.recResult (.ite h1.recResult.raisePkg h3.imageRuns.bootRest)

theorem MemInv.execPowerRemoved {torn blown : Nat} : OutInv (execPowerRemoved s torn blown) := by
  unfold Machine.execPowerRemoved
  exact .next (.wrb (.wr (MemInv.frame (s := State.reset) ⟨rfl, rfl⟩)))

theorem MemInv.csRefuse {p code : Nat} (h : MemInv s) : MemInv (csRefuse s p code) := h.frame.raisePkg

theorem MemInv.csCmd {port : Nat} {body : Nat → Except Nat (Option CsRec)} (h : MemInv s) : MemInv (csCmd s port body) := by
  unfold Machine.csCmd
  split
  case h_2 =>
    refine .ite h (.ite h.csRefuse (.ite h.csRefuse ?_))
    split
    exacts [h.csRefuse, h.frame.startCompact, h.frame]
  exact h.ideNote

theorem MemInv.csResult {code : Nat} (h : MemInv s) : MemInv (csResult s code) := h.frame

theorem MemInv.csCommit {r : CsRec} {w : CsWhy} (h : MemInv s) : MemInv (csCommit s r w) := by
  unfold Machine.csCommit
  dsimp only
  split
  exacts [.ite (.setPkgCap (.csResult (.ite h.csAppend.startCompact h.csAppend))) (.csResult (.ite h.csAppend.startCompact h.csAppend)),
    .changeMode (.ite h.csAppend.startCompact h.csAppend), .ite h.csAppend.startCompact h.csAppend]

theorem MemInv.csFail {w : CsWhy} (h : MemInv s) : MemInv (csFail s w) := by
  unfold Machine.csFail
  dsimp only
  split
  exacts [h.raisePkg.startCompact.csResult, h.raisePkg.startCompact.wrSat, h.raisePkg.startCompact]

end Sys2Proof.Machine
end

section
/-!
SUPPORT. The canonical form of the memories under the host queue engines.
-/

open Sys2Proof Sys2Proof.Machine Sys2Proof.Claims

namespace Sys2Proof.Machine

set_option Elab.async false

variable {s : State}

theorem MemInv.irqHeld {p q : Nat} (h : MemInv s) : MemInv (irqHeld s p q) := .ite h.qIrq h

theorem MemInv.queueEnable {p q : Nat} (h : MemInv s) : MemInv (queueEnable s p q) :=
  .ite h.frame.qRaise (.irqHeld (.setHqState (.wrb (.setHq (.wr ((h.foldl fun _ _ h1 => h1.frame).wr))))))

theorem MemInv.queueWrite {p port off size v : Nat} (h : MemInv s) : MemInv (queueWrite s p port off size v) := by
  unfold Machine.queueWrite
  extract_lets q low owner ctl rst was s1 s2 o s3
  have h1 : MemInv s1 := .ite h.fieldsWrite h
  have h2 : MemInv s2 := .ite h1 h1.irqHeld
  have h3 : MemInv s3 := .ite h2.wr h2
  exact .ite h (.ite h2 (.ite (.ite h3.queueEnable h3) (.ite h3 h3.resetHostQueue)))

theorem MemInv.queueAccess {a : Access} {sel : Bool} (h : MemInv s) : MemInv (queueAccess s a sel) :=
  h.accessPort (fun _ => .ite h.queueWrite h)

theorem MemInv.doorbell {f : Reg} {port q size v : Nat} {body : State → Nat → State} (h : MemInv s) (hk : ∀ u a, MemInv u → MemInv
    (body u a)) : MemInv (doorbell s f port q size v body) :=
  .ite h (.ite h.ideNote (.ite h.barInvalid (.ite (.ite h.raise h) (.ite h (.ite h.frame (.ite h.frame.qRaise (hk _ _ h.frame)))))))

theorem MemInv.descAccept {p q : Nat} {bs : List Byte} (h : MemInv s) : MemInv (descAccept s p q bs) := .ite h.frame h.frame

theorem MemInv.fetchAll {p q : Nat} {l : List (List Byte)} (h : MemInv s) : MemInv (fetchAll s p q l) := by
  induction l generalizing s with
  | nil => exact h
  | cons x l ih =>
    unfold Machine.fetchAll
    exact .ite (ih h.descAccept) h.setHq

theorem MemInv.startDesc {p q : Nat} {d : QDesc} (h : MemInv s) : MemInv (startDesc s p q d) := h.frame

theorem MemInv.descRow {p q opc : Nat} {body : State → QDesc → State × Option QDesc} (h : MemInv s) (hk : ∀ u a, MemInv u → MemInv
    (body u a).1) : MemInv (descRow s p q opc body) := by
  unfold Machine.descRow
  split
  case h_2 =>
    refine .ite h ?_
    split
    case h_2 =>
      split
      case h_1 he => exact .frame (MemInv.of_fst he (hk _ _ h))
      case h_2 he => exact MemInv.of_fst he (hk _ _ h)
    exact h.frame
  exact h

theorem MemInv.descEcc {p q opc : Nat} {ecc : Ecc} {body : State → QDesc → State × Option QDesc} {stop : State → QDesc → State}
    (h : MemInv s) (hbody : ∀ u d, MemInv u → MemInv (body u d).1) (hstop : ∀ u d, MemInv u → MemInv (stop u d)) :
    MemInv (descEcc s p q opc ecc body stop) := by
  unfold Machine.descEcc
  split
  case h_1 => exact h.descRow hbody
  case h_2 => exact h.underEcc fun _ hu => hu.descRow hbody
  case h_3 => exact h.underEcc fun _ hu => hu.descRow hbody
  case h_4 => exact .descRow (.ite h.eccCorrected h) hbody
  case h_5 =>
    split
    exacts [(hstop _ _ h).startDesc.eccUncorrected, h.descRow hbody]

theorem MemInv.deliverPieces {p : Nat} {x : Space} {unit : Nat} {bs : List Byte} {n : Nat} {l : List (Nat × Nat)}
    (h : MemInv s) : MemInv (deliverPieces s p x unit bs n l).1 := by
  induction l generalizing s n with
  | nil => exact h
  | cons d l ih =>
    unfold Machine.deliverPieces
    split
    case h_1 => exact h
    case h_2 he => exact ih (.of_ok he h.writePiece)

theorem MemInv.inputDeliver {p q : Nat} {d : QDesc} {data : List Byte} (h : MemInv s) : MemInv (inputDeliver s p q d data).1 := by
  unfold Machine.inputDeliver
  dsimp only
  split
  exacts [h, h.noteRead.deliverPieces]

theorem MemInv.startInput {p q : Nat} {data : List Byte} {d : QDesc} (h : MemInv s) : MemInv (startInput p q data s d).1 :=
  .ite_fst h (.ite_fst h.noteRead h.inputDeliver)

theorem MemInv.inputEcc {p q : Nat} {data : List Byte} {ecc : Ecc} (h : MemInv s) : MemInv (inputEcc p q data ecc s) := by
  unfold Machine.inputEcc
  dsimp only
  split
  exacts [h.descRow (fun _ _ h1 => h1.startInput), .ite (h.eccCorrected.descRow (fun _ _ h1 => h1.startInput)) (h.underEcc (fun _ h1 =>
    h1.descRow (fun _ _ h2 => h2.startInput))), .ite (h.descRow (fun _ _ h1 => h1.eccUncorrected)) (h.underEcc (fun _ h1 => h1.descRow (fun
    _ _ h2 => h2.startInput)))]

theorem MemInv.execInput {p : Part} {q : Fin 256} {data : List Byte} {ecc : Ecc} (h : MemInv s) : OutInv (execInput p q data s ecc) :=
  h.inputEcc

theorem MemInv.startOutput {p q : Nat} {d : QDesc} (h : MemInv s) : MemInv (startOutput p q s d).1 := .ite_fst h h.deliverPieces

theorem MemInv.stopOutput {p q : Nat} {d : QDesc} (h : MemInv s) : MemInv (stopOutput p q s d) := h.frame.deliverPieces

theorem MemInv.startHostTload {p q : Nat} {ext : List Byte} {d : QDesc} (h : MemInv s) :
    MemInv (startHostTload p q ext s d).1 := by
  unfold Machine.startHostTload
  extract_lets u dmem off len
  have hl : LoadInv _ := h.tileLoad (p := p) (u := u) (source := srcQueue p q) (dmem := dmem) (src := d.src) (off64 := off)
    (len64 := len) (ext := ext)
  split
  case h_1 => exact h.dropWaiter
  case h_2 he => rwa [he] at hl
  case h_3 he => rwa [he] at hl

theorem MemInv.stopHostTload {d : QDesc} (h : MemInv s) : MemInv (stopHostTload s d) := h.frame.havoc

theorem MemInv.execHostTload {p : Part} {q : Fin 256} {ext : List Byte} {ecc : Ecc} (h : MemInv s) : OutInv (execHostTload p q ext s ecc) :=
  h.descEcc (fun _ _ h1 => h1.startHostTload) (fun _ _ h1 => h1.stopHostTload)

theorem MemInv.startHostTstart {p : Nat} {d : QDesc} (h : MemInv s) : MemInv (startHostTstart p s d).1 :=
  .ite_fst h (.ite_fst h (.ite_fst h h.startTile))

theorem MemInv.inputComplete {p q : Nat} {d : QDesc} (h : MemInv s) : MemInv (inputComplete s p q d).1 := by
  unfold Machine.inputComplete
  dsimp only
  split
  case h_2 =>
    split
    exacts [.ite_fst h (.ite h.inputDeliver.noteInput h.inputDeliver), .ite_fst h (.ite_fst h.noteInput h)]
  exact h

theorem MemInv.descFault {p q : Nat} {d : QDesc} (h : MemInv s) : MemInv (descFault s p q d) := by
  unfold Machine.descFault
  split
  exacts [h.countDmaErr.qRaise, h]

theorem MemInv.completeDesc {p q : Nat} {d : QDesc} (h : MemInv s) : MemInv (completeDesc s p q d) := by
  unfold Machine.completeDesc
  split
  next s1 d he =>
  have h1 : MemInv s1 := .of_fst he (.ite_fst h.inputComplete h)
  extract_lets s2 s3
  have h2 : MemInv s2 := by unfold s2; split; exacts [h1.endLoad, h1]
  have h3 : MemInv s3 := .ite (by split; exacts [h2.issueInc, h2]) h2
  exact .ite h3.issueFlush.descFault h3.dropDesc.qRecord.descFault

theorem MemInv.tileTimeout {t : Tile} (h : MemInv s) : OutInv (tileTimeout t s) := by
  unfold Machine.tileTimeout
  split
  exacts [.ite h.execCopy (.ite h.execTload h.execStreamChunkLanded), h.execStreamChunkLanded]

theorem MemInv.execCompletionTimeout {issuer : Part × Fin 256 ⊕ Tile} (h : MemInv s) : OutInv (execCompletionTimeout issuer s) := by
  unfold Machine.execCompletionTimeout
  split
  case h_1 =>
    split
    exacts [.ite h.execInput (.ite h.execHostTload h), h]
  exact h.tileTimeout

end Sys2Proof.Machine
end

section
/-!
SUPPORT. The canonical form of the memories under writes of registers.
-/

open Sys2Proof Sys2Proof.Machine Sys2Proof.Claims

namespace Sys2Proof.Machine

set_option Elab.async false

variable {s : State}

theorem MemInv.eachWritten {a : Access} {base stride count n : Nat} {k : State → Nat → Nat → State} (h : MemInv s)
    (hk : ∀ u a b, MemInv u → MemInv (k u a b)) : MemInv (eachWritten s a base stride count n k) := by
  refine h.foldl fun _ _ h1 => .ite ?_ h1
  split
  exacts [hk _ _ _ h1, h1]

theorem MemInv.onWritten {a : Access} {b n : Nat} {k : State → Nat → State} (h : MemInv s) (hk : ∀ u a, MemInv u → MemInv (k u a)) :
    MemInv (onWritten s a b n k) := by
  unfold Machine.onWritten
  split
  exacts [hk _ _ h, h]

theorem MemInv.partCtrlWrite {p v : Nat} (h : MemInv s) : MemInv (partCtrlWrite s p v) :=
  .ite (.partReset (.ite h.frame h)) (.ite (.resumePart (.ite h.frame h)) (.ite h.frame h))

theorem MemInv.identityWrite {p : Nat} {a : Access} (h : MemInv s) : MemInv (identityWrite s p a) :=
  (h.onWritten (fun _ _ h1 => h1.partCtrlWrite)).onWritten (fun _ _ h1 => h1.voteWrite)

theorem MemInv.stepWrite {p : Nat} {a : Access} (h : MemInv s) : MemInv (stepWrite s p a) :=
  .ite h.stNowWrite (.ite h.stConfigWrite (.ite h (.ite h.eventWrite (.ite (.freezeResume (.ite h.fieldsWrite.wr h.fieldsWrite)) (.ite
    h.fieldsWrite.wr h.fieldsWrite)))))

theorem MemInv.syncWrite {p : Nat} {a : Access} (h : MemInv s) : MemInv (syncWrite s p a) :=
  .ite h.counterWrite (.ite h.hostSig h.fieldsWrite)

theorem MemInv.collectorWrite {p : Nat} {a : Access} (h : MemInv s) : MemInv (collectorWrite s p a) :=
  .onWritten (.onWritten ((h.fieldsWrite.onWritten (fun _ _ h1 => h1.ringCfgWrite)).onWritten (fun _ _ h1 => h1.frame.mirrorAll.fcRefresh))
    (fun _ _ h1 => h1.ackRecs)) (fun _ _ h1 => h1.injectWrite)

theorem MemInv.fabricWrite {p : Nat} {a : Access} (h : MemInv s) : MemInv (fabricWrite s p a) :=
  .ite (.ite h h.collWrite) (.ite h.fieldsWrite (.ite (h.eachWritten (fun _ _ _ h1 => .ite h1.peerWrite h1)) (h.fieldsWrite.fabAfter.foldl
    fun _ _ h1 => .ite h1.portRetrain h1)))

theorem MemInv.memoryWrite {p : Nat} {a : Access} (h : MemInv s) : MemInv (memoryWrite s p a) :=
  h.fieldsWrite.foldl fun _ _ h1 => .ite (.tgStart (.ite h1.tgHalt h1)) (.ite h1.tgHalt h1)

theorem MemInv.dataWrite {a : Access} {t b : Nat} {addr : Reg} {key : Nat → Nat} {isOpen : Bool} {busy : Kind} {sub : Nat}
    (h : MemInv s) : MemInv (dataWrite s a t b addr key isOpen busy sub) := .ite (h.engineDebug (fun _ h1 => h1.memAccess)) h

theorem MemInv.tileWrite {port p : Nat} {a : Access} (h : MemInv s) : MemInv (tileWrite s port p a) :=
  .ite h (.dataWrite (.dataWrite ((h.fieldsWrite.onWritten (fun _ _ h1 => h1.writeTileCtrl)).onWritten (fun _ _ h1 => h1.resetQueues))))

theorem MemInv.tableWrite {port p : Nat} {a : Access} (h : MemInv s) : MemInv (tableWrite s port p a) := by
  unfold Machine.tableWrite
  extract_lets t s1
  have h1 : MemInv s1 := h.fieldsWrite
  exact .ite h (.ite h1 h.raise)

theorem MemInv.hotWrite {port p : Nat} {a : Access} (h : MemInv s) : MemInv (hotWrite s port p a) :=
  .ite h.fieldsWrite.wrb.raise h.fieldsWrite

theorem MemInv.coeffWrite {port p : Nat} {a : Access} (h : MemInv s) : MemInv (coeffWrite s port p a) := by
  unfold Machine.coeffWrite
  exact .ite h.raise h.fieldsWrite

theorem MemInv.tableCoeffWrite {port p : Nat} {a : Access} (h : MemInv s) : MemInv (tableCoeffWrite s port p a) :=
  h.eachWritten (fun _ _ _ h1 => .ite h1.raise h1.frame)

theorem MemInv.tdWrite {port v : Nat} (h : MemInv s) : MemInv (tdWrite s port v) := by
  refine h.tdCommand (fun _ => ?_)
  split
  exacts [h.installVer, h.sealVer, h.abortVer, h.freeVer, h.activateVer, h]

theorem MemInv.sumacBlockWrite {port p : Nat} {a : Access} (h : MemInv s) : MemInv (sumacBlockWrite s port p a) :=
  .onWritten (.onWritten (.onWritten (.ite h.fieldsWrite.wrb h.fieldsWrite) (fun _ _ h1 => h1.tdWrite)) (fun _ _ h1 => .ite h1 (.ite
    h1.migrateCmd h1.frame))) (fun _ _ h1 => h1.loadCtrl)

theorem MemInv.sumacWrite {port p : Nat} {a : Access} (h : MemInv s) : MemInv (sumacWrite s port p a) := by
  unfold Machine.sumacWrite
  exact .ite h.sumacBlockWrite (.ite h.tableWrite (.ite h.hotWrite (.ite h (.ite h.coeffWrite (.ite h.tableCoeffWrite h)))))

theorem MemInv.csWrite {port op : Nat} (h : MemInv s) : MemInv (csWrite s port op) := h.csCmd

theorem MemInv.powerWrite {port p : Nat} {a : Access} (h : MemInv s) : MemInv (powerWrite s port p a) :=
  .onWritten ((h.fieldsWrite.onWritten (fun _ _ h1 => h1.frame)).onWritten (fun _ _ h1 => .ite h1.applyProfile h1)) (fun _ _ h1 =>
    h1.csWrite)

theorem MemInv.recoveryWrite {port : Nat} {a : Access} (h : MemInv s) : MemInv (recoveryWrite s port a) := .ite h h.fieldsWrite

theorem MemInv.secWrite {port : HPort} {v : Nat} (h : MemInv s) : MemInv (secWrite s port v) := by
  unfold Machine.secWrite
  split
  exacts [h.secCmd (fun _ _ _ h1 => h1.hbmKeyLoad), h.secCmd (fun _ _ _ h1 => h1.jobClear), h.secCmd (fun _ _ _ h1 => h1.dbgChallenge),
    h.secCmd (fun _ _ _ h1 => h1.svnCommit), h, h, h, h, h.secCmd (fun _ _ _ h1 => h1)]

theorem MemInv.securityWrite {port : HPort} {p : Nat} {a : Access} (h : MemInv s) : MemInv (securityWrite s port p a) :=
  .ite h.recoveryWrite (h.fieldsWrite.onWritten (fun _ _ h1 => h1.secWrite))

theorem MemInv.rsWrite {port p v : Nat} (h : MemInv s) : MemInv (rsWrite s port p v) := by
  unfold Machine.rsWrite
  split
  exacts [h.frame.raise, h.rsCommand (fun _ _ h1 => h1.rewindCmd), h.rsCommand (fun _ _ h1 => h1.reloadCmd), h.rsCommand (fun _ _ h1 =>
    h1.assumeCmd), h, h, h, .ite h h.frame]

theorem MemInv.journalWrite {p v : Nat} (h : MemInv s) : MemInv (journalWrite s p v) :=
  .ite (.journalCompact (.journalEnable (.ite h.journalFormat h))) (.journalEnable (.ite h.journalFormat h))

theorem MemInv.resilienceWrite {port p : Nat} {a : Access} (h : MemInv s) : MemInv (resilienceWrite s port p a) := by
  unfold Machine.resilienceWrite
  refine .ite (h.foldl fun _ _ hx => .ite (hx.onWritten fun _ _ hu => hu.lpWrite) hx) ?_
  extract_lets was s1 s2 s3 s4 s5
  have h1 : MemInv s1 := h.fieldsWrite
  have h2 : MemInv s2 := .ite h1.wrb h1
  have h3 : MemInv s3 := h2.onWritten fun _ _ hu => hu.rsWrite
  have h4 : MemInv s4 := h3.foldl fun _ _ hx => hx.onWritten fun _ _ hu => hu.watchWrite
  have h5 : MemInv s5 := .ite h4.exportGo h4
  exact h5.onWritten fun _ _ hu => hu.journalWrite

theorem MemInv.blockWrite {p : Nat} {a : Access} (h : MemInv s) : MemInv (blockWrite s p a) := by
  unfold Machine.blockWrite
  split
  exacts [h.identityWrite, h.stepWrite, h.syncWrite, h.collectorWrite, h.fabricWrite, h.memoryWrite, h.tileWrite, h.sumacWrite,
    h.powerWrite, h.securityWrite, h.resilienceWrite, h]

theorem MemInv.roleWrite {p : Nat} {a : Access} (h : MemInv s) : MemInv (roleWrite s p a) :=
  .ite h.windowWrite (.ite h.queueWrite (.ite h.blockWrite h))

theorem MemInv.msixPut {port i v : Nat} (h : MemInv s) : MemInv (msixPut s port i v) := .ite h.frame.raiseIrq h.frame

theorem MemInv.bar2Write {a : Access} {off : Nat} (h : MemInv s) : MemInv (bar2Write s a off) :=
  .ite (.ite h h.barInvalid) (.ite (h.foldl fun _ _ h1 => h1.msixPut) h)

theorem MemInv.execRegisterWrite {a : Access} (h : MemInv s) : OutInv (execRegisterWrite a s) :=
  .next (.ite h (.ite h.barInvalid (.ite (.ite h.recoveryWrite h) (h.accessPort (fun _ => .ite h.bar2Write h.roleWrite)))))

end Sys2Proof.Machine
end

section
/-!
SUPPORT. Every step keeps the canonical form of the memories (spec/03, R79, R288).
-/

open Sys2Proof Sys2Proof.Machine Sys2Proof.Claims

namespace Sys2Proof.Machine

set_option Elab.async false

variable {s : State}

/-- Each command keeps the canonical form: the rule of the operation that it performs. -/
theorem MemInv.exec (h : MemInv s) (c : Instr) : OutInv (exec c s) :=
  match c with
  | .alu .. | .addi .. | .andi .. | .ori .. | .xori .. | .shi .. | .lui .. | .fpu .. | .insi .. => h.coreResult
  | .ldd .. | .ldw .. | .ldws .. | .ldb .. => h.coreLoad
  | .std .. | .stw .. | .stb .. => h.coreStore
  | .beq .. | .bne .. | .blt .. | .bge .. | .bltu .. | .bgeu .. => h.coreBranch
  | .jal .. | .jalr .. => h.coreExec (fun _ h1 => h1.jumpTo (fun _ h2 => h2.setG))
  | .push .. => h.coreExec (fun _ h1 => h1.pushQueue.advance)
  | .qstat .. => h.coreResult
  | .sig .. => h.execSig
  | .wait .. => h.execWait
  | .waitRelease .. => .next (by split; exacts [by split; exacts [.ite h.frame.advance h, h], h])
  | .vsum .. => h.coreResult
  | .rdsr .. => h.execRdsr
  | .wrsr .. => h.coreExec (fun _ h1 => h1.resetQueues.advance)
  | .fence .. => h.coreExec (fun _ h1 => .ite h1.advance h1.frame)
  | .fenceRelease .. => .next (by split; exacts [.ite h.frame.advance h, h])
  | .halt .. => h.coreExec (fun _ h1 => h1.frame)
  | .tileStart .. | .tileStop .. => .next (.ite h.writeTileCtrl h.ideNote)
  | .qreset .. => .next (.ite h.resetQueues h.ideNote)
  | .commandComplete .. => .next (by split; exacts [.ite h.completeCmd h, h])
  | .mma .. => h.mxRow (fun _ _ h1 => h1.startMma)
  | .mdrain .. => h.mxRow (fun _ _ h1 => h1.startDrain)
  | .mtload .. => h.mxRow (fun _ _ h1 => h1.startMtload)
  | .mbind .. => h.mxRow (fun _ _ h1 => h1.startMbind)
  | .mslot .. => h.mxRow (fun _ _ h1 => h1.startMslot)
  | .vadd .. | .vsub .. | .vmul .. | .vfma .. | .vmin .. | .vmax .. | .vcmp .. | .vsel .. | .vcvt .. | .vred .. =>
    h.vecRow0 (fun _ _ h1 => h1.startVec)
  | .idxgen .. => h.vecRow0 (fun _ _ h1 => h1.startIdxgen)
  | .smaxF .. | .smaxB .. | .normF .. | .normB .. => h.rowRow
  | .copy .. => h.execCopy
  | .stream .. => h.eccRow (fun _ _ h1 => h1.startStream)
  | .streamChunkStart .. => .next (by split; exacts [.ite (.ite (.ite h.frame h) h.noteRead.setRunning) h, h])
  | .streamChunkLanded .. => h.execStreamChunkLanded
  | .dcopy .. => h.eccRow (fun _ _ h1 => h1.startDcopy)
  | .lookup .. => h.eccRow (fun _ _ h1 => h1.startLookup)
  | .merge .. => h.mergeArrive.eccRow (fun _ _ h1 => h1.startMerge)
  | .tload .. => h.execTload
  | .tstart .. => h.engineRow (fun _ _ h1 => h1.startTstart)
  | .lookupRequestReceive .. => h.execLookupRequestReceive
  | .forwardedRequestReceive .. => h.execForwardedRequestReceive
  | .lookupReplyReceive .. => h.execLookupReplyReceive
  | .lookupComplete .. | .lookupTimeout .. => .next (.ite (by split; exacts [.ite h h.finishLook, h]) h)
  | .install .. => h.tdCommand (fun _ => h.installVer)
  | .seal .. => h.tdCommand (fun _ => h.sealVer)
  | .abort .. => h.tdCommand (fun _ => h.abortVer)
  | .free .. => h.tdCommand (fun _ => h.freeVer)
  | .activate .. => h.tdCommand (fun _ => h.activateVer)
  | .versionRetire .. => .next (.ite h.frame.freeVersion h)
  | .clovePassDone .. => .next (by split; exacts [h, .ite h h.clovePassEcc])
  | .contributionReceive .. => h.execContributionReceive
  | .contributionAckReceive .. => h.execContributionAckReceive
  | .withdrawalReceive .. => h.execWithdrawalReceive
  | .mergeComplete .. => .next (by split; exacts [.ite (.ite h.frame (.ite h h.finishMerge)) h, h])
  | .mergeTimeout .. => .next (by split; exacts [.ite h.finishMerge h, h])
  | .forwardedContributionReceive .. => h.execForwardedContributionReceive
  | .applyStepFinished .. => h.execApplyStepFinished
  | .migrate .. => .next (by split; exacts [h.migrateCmd, h.ideNote])
  | .migrationCopyStart .. => .next (by split; exacts [.ite h (h.underEcc (fun _ h1 => h1.copyBatch)), h])
  | .migrationCopyReceive .. => h.execMigrationCopyReceive
  | .migrationCopyAck .. => .next (.ite h.takeMigAck h)
  | .loadSnapshot .. => .next (by split; exacts [h.ideNote, h.loadCtrl])
  | .stEnableWrite .. => h.accessCtl (fun _ => .ite h.stConfigWrite h)
  | .stNowWrite .. => h.accessCtl (fun _ => .ite h.stNowWrite h)
  | .readinessReportSend .. => .next (.ite h.frame.emit h)
  | .readinessReportReceive .. => h.execReadinessReportReceive
  | .stMasterAdvance .. => .next (.ite (h.stepEcc (fun _ h1 => h1.masterAdvance)) h)
  | .beaconReceive .. => h.execBeaconReceive
  | .beaconTimeout .. => .next (.ite h.raise h)
  | .eventArm .. | .eventDisarm .. => h.accessCtl (fun _ => h.eventWrite)
  | .hotrowFetchReadReceive .. => h.execHotrowFetchReadReceive
  | .hotrowFetchDone .. => h.execHotrowFetchDone
  | .hotrowSwap .. | .migrationRetire .. => .next (by split; exacts [.ite h.fireFront h, h])
  | .epochClose .. => h.execEpochClose
  | .normPassDone .. => .next (by split; exacts [.ite h.frame h, h])
  | .sdLocalPartial .. => .next (.ite h.frame h)
  | .sdSubtreeSend .. => .next (.ite (by split; exacts [h, .ite h.sdResult h.frame.emit]) h)
  | .sdPartialReceive .. => h.execSdPartialReceive
  | .sdResultReceive .. => h.execSdResultReceive
  | .normTimeout .. => .next (.ite h.frame.raise h)
  | .voteSet .. => .next (by split; exacts [h.frame, h.ideNote])
  | .weightWriteRelease .. => h.execWeightWriteRelease
  | .incrementApply .. => .next (.ite h (.ite h.frame.setCtr.releaseWaits (h.frame.foldl fun _ _ h1 => h1.dropInc)))
  | .remoteIncrementReceive .. => .next (.ite h (.ite h.raise h.frame))
  | .syncHostSig .. => .next (by split; exacts [h.hostSig, h.ideNote])
  | .counterWrite .. => .next (.ite (.ite h (.ite h.bar4Note h.writeCounters)) (h.accessCtl (fun _ => h.counterWrite)))
  | .syncTimeout .. => h.execSyncTimeout
  | .tgStart .. => .next (by split; exacts [h.tgStart, h.ideNote])
  | .tgStop .. => .next (by split; exacts [h.tgHalt, h.ideNote])
  | .tgDone .. => h.execTgDone
  | .portEnable .. | .portDisable .. => h.portWrite (fun _ h1 => h1.frame.portRun)
  | .retrain .. => h.portWrite (fun _ h1 => h1.portRetrain)
  | .linkTrained .. => .next (.ite h (.ite h.frame.helloAll (.ite h.frame.helloAll.raise h.frame)))
  | .linkTrainTimeout .. => .next (.ite h (.ite h.frame.raise h.frame))
  | .linkDown .. => .next (.ite h h.closePort.wrSat.setPortState.wr.raise)
  | .helloReceive .. => .next (.ite h (.ite h.conflictSess (.ite h.refuseSess (.ite h.frame.sendKa1 h.frame))))
  | .helloRepeat .. => .next (.ite h.sendLink h)
  | .ka1 .. => h.kaStep (fun _ h1 => h1.takeKa1)
  | .ka2 .. => h.kaStep (fun _ h1 => .ite h1.peerVerifies.takeKa2 h1.peerVerifies.refuseSess)
  | .ka3 .. => h.kaStep (fun _ h1 => .ite h1.peerVerifies.setSess.sendLink.openSession h1.peerVerifies.refuseSess)
  | .ka4 .. => h.kaStep (fun _ h1 => h1.openSession)
  | .handshakeTimeout .. => .next (.ite h.refuseSess h)
  | .peerEntryWrite .. => h.portWrite (fun _ h1 => h1.peerWrite)
  | .frameReceive .. => h.execFrameReceive
  | .nakReceive .. => .next (.ite h.replay h)
  | .ackReceive .. => .next (.ite h.ackFrames h)
  | .replayTimeout .. => .next (.ite h.replay h)
  | .transitFrame .. => .next (.ite h (.ite h.frame.raise h.sendHop.drainWait))
  | .nodeUnreachable .. => .next (.ite h.frame.raise h)
  | .faultBeaconSend .. => .next (.ite (h.foldl fun _ _ h1 => .ite h1.sendLink h1) h)
  | .faultBeaconReceive .. => .next (.ite h.closeSess.raise h)
  | .collArm .. | .collDisarm .. => h.collAccess
  | .collTrigger .. => .next (.ite (by split; exacts [.ite h.collStartEcc h, h]) h)
  | .collSegmentReceive .. => h.execCollSegmentReceive
  | .collDone .. => .next (.ite (.ite h.frame (.setCollState (.setCollRun (.wrAdd (by split; exacts [h.frame, h]))))) h)
  | .collTimeout .. => .next (.ite h.frame.raise h)
  | .takeoverReceive .. => h.execTakeoverReceive
  | .rsHold .. => .next (by split; exacts [h.frame.raise, h.ideNote])
  | .rewind .. => h.rsCommand (fun _ _ h1 => h1.rewindCmd)
  | .reload .. => h.rsCommand (fun _ _ h1 => h1.reloadCmd)
  | .verify .. => h.execVerify
  | .assume .. => h.rsCommand (fun _ _ h1 => h1.assumeCmd)
  | .restore .. => h.rsCommand (fun _ _ h1 => by split; exacts [h1.frame, h1.frame.restoreGo])
  | .seed .. => h.rsCommand (fun _ _ h1 => h1.seedSlot)
  | .watchModeWrite .. => .next (by split; exacts [h.watchWrite, h.ideNote])
  | .copyReceive .. => h.execCopyReceive
  | .seedingDone .. => h.execSeedingDone
  | .lapseNoticeReceive .. => h.execLapseNoticeReceive
  | .journalFormat .. => .next (by split; exacts [h.journalFormat, h.ideNote])
  | .journalEnable .. => .next (by split; exacts [h.journalEnable, h.ideNote])
  | .journalCompact .. => .next (by split; exacts [by split; exacts [.ite h.journalCompact h, h.ideNote], .ite h.journalCompact h])
  | .compactionDone .. => .next (by split; exacts [by split; exacts [.ite h.frame h, h], h])
  | .journalSealDone .. => h.execJournalSealDone
  | .journalIo .. => .next (.ite h h.journalFail)
  | .exportStart .. => .next (by split; exacts [h.exportGo, h.ideNote])
  | .importExport .. => h.execImportExport
  | .linkLoss .. | .d3hotEntry .. => .next (.ite h (.ite h.frame h.frame.portLost))
  | .flr .. => h.execFlr
  | .bmeClear .. | .mseClear .. => h.frame
  | .scrubDone .. => .next (.ite h h.frame)
  | .windowWrite .. => h.accessPort (fun _ => .ite h.windowWrite h)
  | .preset .. => .next (by split; exacts [.ite h.partReset h, h.ideNote])
  | .partitionResetDone .. => .next (.ite h h.frame.enterReady.wrb.raise)
  | .resume .. => .next (by split; exacts [h.resumePart, h.ideNote])
  | .modeVote .. => .next (by split; exacts [h.voteWrite, h.ideNote])
  | .flushReadDone .. => .next (.ite h (h.holdFrame (fun _ h1 => h1.flushDone)))
  | .lpEnable .. => .next (by split; exacts [.ite h.lpWrite h, h.ideNote])
  | .storageLinkDown .. => h.execStorageLinkDown
  | .nvmeCompletion .. => .next (.ite h (.ite h.journalFail h))
  | .queueEnable .. | .queueDisable .. | .queueOwnerWrite .. => h.queueAccess
  | .sqDb .. => h.doorbell (fun _ _ h1 => .ite h1.frame h1.frame)
  | .cqDb .. => h.doorbell (fun _ _ h1 => h1.frame.drainRecs)
  | .descriptorFetchReturn .. => .next (.ite h.frame.fetchAll h)
  | .descriptorReread .. => .next (.ite h (.ite h.frame.descAccept (.ite h.frame h.frame.qRecord.qRaise)))
  | .nop .. => h.descRow (fun _ _ h1 => h1)
  | .input .. => h.execInput
  | .output .. => h.descEcc (fun _ _ h1 => h1.startOutput) (fun _ _ h1 => h1.stopOutput)
  | .queueWait .. => .next (by split; exacts [.ite h.frame h, h.descRow (fun _ _ h1 => h1)])
  | .queueWaitTimeout .. => .next (by split; exacts [.ite h.frame h, h])
  | .hostTload .. => h.execHostTload
  | .hostTstart .. => h.descRow (fun _ _ h1 => h1.startHostTstart)
  | .descriptorComplete .. => .next (by split; exacts [.ite h.completeDesc h, h])
  | .irqHoldoffExpiry .. => .next (.ite h.qIrq h)
  | .hbmKeyLoad .. => h.secCmd (fun _ _ _ h1 => h1.hbmKeyLoad)
  | .jobImport .. => h.secCmd (fun _ _ _ h1 => h1.jobImport)
  | .memberLoad .. => h.secCmd (fun _ _ _ h1 => h1.memberLoad)
  | .jobClear .. => h.secCmd (fun _ _ _ h1 => h1.jobClear)
  | .dbgChallenge .. => h.secCmd (fun _ _ _ h1 => h1.dbgChallenge)
  | .dbgUnlock .. => h.secCmd (fun _ _ _ h1 => h1.dbgUnlock)
  | .svnCommit .. => h.secCmd (fun _ _ _ h1 => h1.svnCommit)
  | .ownerEnrol .. => h.secCmd (fun _ _ _ h1 => h1.ownerEnrol)
  | .recoveryGo .. => .next (.ite h (.ite h.frame h.recoveryGo))
  | .spdmRequest .. => h.execSpdmRequest
  | .ideCheckFail .. => .next (.ite h (.ite h.dropStream h.dropStream.raise))
  | .vordaustFault => h.raisePkg
  | .faultMessage .. => h.execFaultMessage
  | .settleExpiry .. => h.frame.fcRefresh
  | .fcAck .. => .next (by split; exacts [h.ackRecs, h.ideNote])
  | .faultRingEnable .. => .next (by split; exacts [h.ringCfgWrite, h.ideNote])
  | .faultRingHeadWrite .. => .next (by split; exacts [h.frame.mirrorAll, h.ideNote])
  | .injGo .. => .next (by split; exacts [h.injectWrite, h.ideNote])
  | .pairFault g i => h.execPairFault (group := g) (idx := i)
  | .signalPairBroken .. => .next (.ite h.frzPairAssert h.frame.raisePkg)
  | .forwardedPartialReceive .. => h.execForwardedPartialReceive
  | .forwardedAckReceive .. => h.execForwardedAckReceive
  | .hotrowFetchReplyReceive .. => h.execHotrowFetchReplyReceive
  | .epochCloseAckReceive .. => h.execEpochCloseAckReceive
  | .d2dLinkFailed .. => h.frame.raisePkg
  | .powerOn .. => .next (.ite h.powerOn h)
  | .railTimeout .. => .next (.ite h.powerOn (.ite h.recoveryGo h))
  | .powerRemoved .. => MemInv.execPowerRemoved
  | .capEvaluate .. => h.execCapEvaluate
  | .thermalEvaluate .. => h.execThermalEvaluate
  | .levelMoveDone .. => .next (.ite h h.levelStep)
  | .currentLimit .. => .next (.ite h (.ite h.frame.refreshLevels (.ite h.frame.refreshLevels h)))
  | .avsPoll .. => .next (.ite h ((h.foldl_fst fun _ _ h1 => h1.avsRead).refreshLevels))
  | .pwrApply .. => .next (by split; exacts [h.applyProfile, h.ideNote])
  | .pwrCapWrite .. => .next (by split; exacts [h.frame, h.ideNote])
  | .setNode .. | .setSubsys .. | .setIdeReq .. | .setPkgCap .. | .csCompact .. => h.csCmd
  | .csCompactionDone .. => .next (.ite h (.ite h.endCompact h.raisePkg))
  | .csRecordCommit .. => .next (by split; exacts [h, .ite h.frame.csCommit h.frame.csFail])
  | .frzPairAssert .. => h.frzPairAssert
  | .frzPairRelease => h.frame.releaseAll
  | .frzPkgFreeze .. => h.bar4Port (fun _ => h.pkgFreeze)
  | .frzPkgThaw .. => h.bar4Port (fun _ => h.pkgThaw)
  | .quiescent .. | .freezeForced .. => .next (.ite h.frame h)
  | .stFreezeResume .. => .next (by split; exacts [h.freezeResume, h.ideNote])
  | .dumpStart .. => h.bar4Port (fun _ => h.dumpStart)
  | .dbgWindowAccess .. => h.execDbgWindowAccess
  | .accDbgAccess .. | .sideDbgAccess .. => h.engineDebug (fun _ h1 => h1.halfAccess)
  | .extest .. => .next (.ite h.frame h.frame)
  | .idcode | .samplePreload .. | .clamp | .bypass .. => h.frame
  | .dbgAccessRead | .dbgAccessWrite .. => h.tapAccess
  | .dbgAccessAddress .. => h.frame
  | .dbgAuth .. => h.execDbgAuth
  | .dbgChal => h.frame
  | .registerWrite .. => h.execRegisterWrite
  | .barAccessInvalid .. => h.execBarAccessInvalid
  | .hostLinkUp .. => .next (.ite h (.ite h.frame ((h.frame.foldl fun _ _ h1 => .ite h1.drainRecs h1).mirrorAll)))
  | .storageLinkUp .. => .next (.ite h h.frame)
  | .completionTimeout .. => h.execCompletionTimeout
  | .lifeRecordUpdate => .next (.ite h (.ite h.frame h.frame))

/-- Settles O59: the command at the front of the queue is taken off it, which leaves the memories, and acts by its rule. -/
theorem memoryFormKept : Obligations.memory_form_kept := fun s u h hstep => by
  have hout : OutInv (step s) := by
    unfold step
    split
    case h_1 => exact .next h
    case h_2 c rest _ => exact MemInv.exec (s := { s with pending := rest }) h.frame c
  rw [hstep] at hout
  exact hout

end Sys2Proof.Machine
end

section
/-!
SUPPORT. What the entry of HOLD leaves of a collective slot (R49, R190, R333, R409, R439): one that is not RUNNING keeps its state and its error.
-/

open Sys2Proof Sys2Proof.Machine Sys2Proof.Claims

namespace Sys2Proof.Machine

set_option Elab.async false

/-- Slot k of partition p, unless it was RUNNING in s, has in u the state and the error bit that it had. -/
structure SlotKept (p k : Nat) (s u : State) : Prop where
  kept : collState s p k ≠ 2 → collState u p k = collState s p k ∧ rd u p R.COLL_SLOT_ERR k = rd s p R.COLL_SLOT_ERR k

namespace SlotKept

variable {p k : Nat}

theorem refl (s : State) : SlotKept p k s s := ⟨fun _ => ⟨rfl, rfl⟩⟩

theorem trans {s u v : State} (h : SlotKept p k s u) (h' : SlotKept p k u v) : SlotKept p k s v := ⟨fun hs =>
  have ⟨hc, he⟩ := h.kept hs
  have ⟨hc', he'⟩ := h'.kept (hc ▸ hs)
  ⟨hc'.trans hc, he'.trans he⟩⟩

theorem of_regs {s u : State} (h : u.regs = s.regs := by rfl) : SlotKept p k s u :=
  ⟨fun _ => ⟨rd_of_regs h .., rd_of_regs h ..⟩⟩

theorem opt {c : Prop} [Decidable c] {s u v : State} (h : SlotKept p k s u) (h' : SlotKept p k u v) : SlotKept p k s (if c then v else u) := by
  split
  · exact h.trans h'
  · exact h

theorem ite {c : Prop} [Decidable c] {s u v : State} (h : SlotKept p k s u) (h' : SlotKept p k s v) : SlotKept p k s (if c then u else v) := by
  split
  · exact h
  · exact h'

/-- Past an update of other fields of u; `pending`, which no unit writes, names u. -/
theorem update {s u v : State} (h : SlotKept p k s u) (_ : v.pending = u.pending := by dsimp only) (hr : v.regs = u.regs := by rfl) :
    SlotKept p k s v := h.trans (.of_regs hr)

theorem foldl {α : Type} {f : State → α → State} {l : List α} (h : ∀ s, ∀ x ∈ l, SlotKept p k s (f s x)) (s : State) :
    SlotKept p k s (l.foldl f s) := by
  induction l generalizing s with
  | nil => exact refl s
  | cons x l ih => exact (h s x List.mem_cons_self).trans (ih (fun s y hy => h s y (List.mem_cons_of_mem _ hy)) _)

/-- A write of a register field that stands elsewhere. -/
theorem wr (s : State) {q : Nat} {f : Reg} {i j : Nat} (hc : fieldKey f q i j ≠ fieldKey R.COLL_SLOT_CSTATE p k 0)
    (he : fieldKey f q i j ≠ fieldKey R.COLL_SLOT_ERR p k 0) (v : Nat) : SlotKept p k s (wr s q f v i j) :=
  ⟨fun _ => ⟨rd_wr_ne _ _ hc, rd_wr_ne _ _ he⟩⟩

section
variable (hp : p < 4) (hk : k < 64)
include hp hk

/-- A package-wide field. -/
theorem wr_pkg (s : State) {q : Nat} {f : Reg} (hf : f.pkg = true) (v i j : Nat) : SlotKept p k s (Machine.wr s q f v i j) := by
  have hlow : fieldKey R.COLL_SLOT_CSTATE p k 0 < fieldKey f q i j ∧ fieldKey R.COLL_SLOT_ERR p k 0 < fieldKey f q i j := by
    simp only [fieldKey, hf, R.COLL_SLOT_CSTATE, R.COLL_SLOT_ERR, Bool.false_eq_true, if_false, if_true]; omega
  exact .wr s hlow.1.ne' hlow.2.ne' v

/-- A field of the partition that stands before the slots or, with all its elements, behind them. -/
theorem wr_own (s : State) {f : Reg} {i j : Nat} (v : Nat)
    (h : 8 * (f.base + i * f.stride + j * f.stride2) + f.lsb < 8 * 0x504000 ∨ 0x505000 ≤ f.base) :
    SlotKept p k s (Machine.wr s p f v i j) := by
  cases hf : f.pkg with
  | true => exact wr_pkg hp hk s hf v i j
  | false =>
    refine .wr s ?_ ?_ v <;> simp only [fieldKey, hf, R.COLL_SLOT_CSTATE, R.COLL_SLOT_ERR, Bool.false_eq_true, if_false] <;> omega

/-- A field of a host queue. -/
theorem wr_queue (s : State) {f : Reg} {q : Nat} (hq : q < 256) (v : Nat) (hb : f.base < 0x120000 := by decide)
    (hs : f.stride = 0x40 := by rfl) (hl : f.lsb < 64 := by decide) : SlotKept p k s (Machine.wr s p f v q) :=
  wr_own hp hk s v (.inl (by rw [hs]; omega))

end

/-! ### Memories and tiles -/

theorem setTile (s : State) (t : Nat) (x : TileState) : SlotKept p k s (setTile s t x) := .of_regs
theorem tickFree (s : State) : SlotKept p k s (tickFree s) := .of_regs
theorem sramWrite (s : State) (a : Nat) (bs : List Byte) : SlotKept p k s (sramWrite s a bs) := .of_regs
theorem sramForget (s : State) (a n : Nat) : SlotKept p k s (sramForget s a n) := .of_regs
theorem hbmForget (s : State) (a n : Nat) : SlotKept p k s (hbmForget s a n) := .of_regs

theorem havoc (s : State) (l : List (Bool × Nat × Nat)) : SlotKept p k s (havoc s l) :=
  .foldl (fun s _ _ => .ite (hbmForget s ..) (sramForget s ..)) _

theorem devForget (s : State) (x : Space) (n : Nat) : SlotKept p k s (devForget s x n) := by
  cases x with
  | hbm r m o => exact hbmForget ..
  | inter r d o => exact .foldl (fun s _ _ => hbmForget s ..) _
  | clm c o => exact sramForget ..
  | sp t o => exact sramForget ..
  | win w o => exact .refl s
  | remote r nd m o => exact .refl s

theorem mmaTile (s : State) (t : Nat) (m : MmaCmd) (cs : List Nat) (n : Nat) : SlotKept p k s (mmaTile s t m cs n) :=
  SlotKept.trans (.opt (.refl s) (sramWrite ..)) (.foldl (fun _ _ _ => .foldl (fun s _ _ => sramWrite s ..) _) _)

theorem abandonMma (s : State) (t : Nat) (r : RunCmd) : SlotKept p k s (abandonMma s t r) :=
  .opt (.refl s) ((sramWrite ..).trans ((mmaTile ..).trans (tickFree _)))

theorem putOld (s : State) (h : Bool) (key : Nat) (b : Option Byte) : SlotKept p k s (putOld s h key b) := by
  cases b with
  | none => exact .of_regs
  | some b => cases h <;> exact .of_regs

theorem abandonDrain (s : State) (r : RunCmd) : SlotKept p k s (abandonDrain s r) :=
  SlotKept.trans (.foldl (fun u _ _ => .opt (.refl u) (putOld ..)) _) (tickFree _)

theorem raiseIrq (s : State) (port vec : Nat) : SlotKept p k s (raiseIrq s port vec) := .ite .of_regs .of_regs

theorem countRec (s : State) (q : Nat) : SlotKept p k s (countRec s p q) :=
  .ite (SlotKept.trans .of_regs (raiseIrq ..)) .of_regs

section
variable (hp : p < 4) (hk : k < 64)
include hp hk

/-! ### A tile's commands (R190, R222) -/

theorem abandonBind (s : State) (t : Nat) (c : Cmd) : SlotKept p k s (abandonBind s t c) := by
  refine SlotKept.trans ?_ (wr_pkg hp hk _ rfl ..)
  cases cbit c 8 16 <;> exact wr_pkg hp hk s rfl ..

theorem abandonMatrix (s : State) (t : Nat) (r : RunCmd) : SlotKept p k s (abandonMatrix s t r) := by
  unfold Machine.abandonMatrix
  split
  · exact abandonMma ..
  · exact abandonDrain ..
  · exact .opt (.refl s) (abandonBind hp hk ..)
  · exact havoc ..

theorem dropLoad (s : State) (u : Nat) : SlotKept p k s (dropLoad s u) := (wr_pkg hp hk s rfl ..).trans (setTile ..)

/-- The load that a command or descriptor was making ends. -/
theorem dropLoading {s u : State} (h : SlotKept p k s u) (o : Option Nat) :
    SlotKept p k s (match o with | some t => Machine.dropLoad u t | none => u) := by
  cases o with
  | none => exact h
  | some t => exact h.trans (dropLoad hp hk ..)

theorem abandonCmd (s : State) (t q before after : Nat) (r : RunCmd) : SlotKept p k s (abandonCmd s t q before after r) :=
  dropLoading hp hk (.ite (tickFree s) (.ite ((tickFree s).trans (abandonMatrix hp hk ..)) ((tickFree s).trans (havoc ..)))) r.loading

theorem abandonCmds (t q : Nat) (l : List RunCmd) (s : State) (before : Nat) : SlotKept p k s (abandonCmds s t q before l) := by
  induction l generalizing s before with
  | nil => exact .refl s
  | cons r l ih => exact (abandonCmd hp hk ..).trans (ih ..)

theorem holdEngQueue (s : State) (t q : Nat) : SlotKept p k s (holdEngQueue s t q) := by
  have h : SlotKept p k s (if q = 3 then dropMerge s t else s) := .opt (.refl s) .of_regs
  exact h.trans ((setTile ..).trans ((wr_pkg hp hk _ rfl ..).trans (abandonCmds hp hk ..)))

theorem holdTile (s : State) (t : Nat) : SlotKept p k s (holdTile s t) := by
  have h : SlotKept p k s (if rd s 4 R.TILE_STATUS_STATE t = 1 then
      Machine.wr (Machine.wr s 4 R.TILE_STATUS_HALT_CODE 0xFF t) 4 R.TILE_STATUS_STATE 0 t else s) :=
    .opt (.refl s) ((wr_pkg hp hk _ rfl ..).trans (wr_pkg hp hk _ rfl ..))
  exact h.trans ((setTile ..).trans (.foldl (fun s q _ => holdEngQueue hp hk s t q) _))

/-! ### Look-ups, collectives, the step-decision unit (R121, R303, R333) -/

theorem releaseVer (s : State) (t n : Nat) (o : Option Nat) : SlotKept p k s (releaseVer s p t n o) := by
  cases o with
  | none => exact .refl s
  | some j => exact wr_own hp hk s _ (.inr (by decide))

theorem dropLooks (s : State) : SlotKept p k s (dropLooks s p) := by
  have hlook : ∀ s (x : LookRun), SlotKept p k s (Machine.releaseVer s p (bytesAt (leNat (x.desc.take 64)) 0 2 % 1024) 1 x.slot) :=
    fun s x => releaseVer hp hk ..
  have hown : ∀ s (x : OwnRun), SlotKept p k s (Machine.releaseVer s p x.req.table.toNat 1 x.slot) := fun s x => releaseVer hp hk ..
  have hfetch : ∀ s (x : HotFetch), SlotKept p k s (wrb s p R.HOTROW_SET_FETCH_BUSY false x.set) := fun s x =>
    wr_own hp hk s _ (.inr (by decide))
  unfold Machine.dropLooks
  refine update (SlotKept.trans ?_ (.foldl (fun s x _ => hfetch s x) _))
  refine update (SlotKept.trans ?_ (.foldl (fun s x _ => ?_) _))
  · refine update (SlotKept.trans ?_ (.foldl (fun s x _ => hown s x) _))
    exact update (.foldl (fun s x _ => hlook s x) _)
  · split <;> exact releaseVer hp hk ..

omit hp hk in
/-- Another slot's state is written elsewhere; the slot's own only where it was RUNNING. -/
theorem holdColl (s : State) (i : Nat) : SlotKept p k s (holdColl s p i) := by
  have h : ∀ o : Option CollRun, SlotKept p k s (match o with
      | some x => { s with colls := mapSet s.colls (64 * p + i) { x with failed := false, input := [], got := [], parts := [], early := [] } }
      | none => s) := fun o => by cases o <;> exact .of_regs
  refine ⟨fun hs => SlotKept.kept ?_ hs⟩
  have hne : rd s p R.COLL_SLOT_CSTATE i = 2 → i ≠ k := fun hi hik => hs (hik ▸ hi)
  unfold Machine.holdColl
  split
  · next hi =>
    have := hne hi
    refine (h _).trans (SlotKept.trans (.wr _ ?_ ?_ _) (devForget ..)) <;>
      simp only [fieldKey, R.COLL_SLOT_CSTATE, R.COLL_SLOT_ERR] <;> omega
  · exact h _

theorem holdSd (s : State) : SlotKept p k s (holdSd s p) :=
  .ite .of_regs (SlotKept.trans .of_regs (wr_own hp hk _ _ (.inl (by decide))))

/-! ### Host queues (R409) -/

section
variable {q : Nat} (hq : q < 256)
include hq

theorem setDescs (s : State) (l : List QDesc) : SlotKept p k s (setDescs s p q l) :=
  SlotKept.trans .of_regs (wr_queue hp hk _ hq _)

theorem writeRec (s : State) (r : QRec) : SlotKept p k s (writeRec s p q r) := by
  unfold Machine.writeRec
  refine .opt (SlotKept.trans (.opt (SlotKept.trans ?_ (wr_queue hp hk _ hq _)) (wr_queue hp hk _ hq _)) (wr_queue hp hk _ hq _)) (countRec ..)
  exact .of_regs

theorem drainRecs (s : State) : SlotKept p k s (drainRecs s p q) :=
  .ite (SlotKept.trans .of_regs (.foldl (fun s r _ => writeRec hp hk hq s r) _)) (.refl s)

theorem qRecord (s : State) (r : QRec) : SlotKept p k s (qRecord s p q r) :=
  .ite (SlotKept.trans .of_regs (drainRecs hp hk hq _)) (.refl s)

theorem abandonDesc (s : State) (status : Option Nat) (d : QDesc) : SlotKept p k s (abandonDesc s p q status d) := by
  have h : SlotKept p k s (Machine.tickFree (if d.flushing then s else Machine.havoc s d.undef)) :=
    SlotKept.trans (.ite (.refl s) (havoc ..)) (tickFree _)
  cases status with
  | none => exact dropLoading hp hk h d.loading
  | some st => exact (dropLoading hp hk h d.loading).trans (qRecord hp hk hq ..)

theorem abandonQueue (s : State) (status : Option Nat) (keep : Bool) : SlotKept p k s (abandonQueue s p q status keep) :=
  (setDescs hp hk hq ..).trans <| SlotKept.trans .of_regs <| .foldl (fun s d _ => abandonDesc hp hk hq s status d) _

end

theorem holdQueues (s : State) : SlotKept p k s (holdQueues s p) :=
  .foldl (fun s q hq =>
    have hq := List.mem_range.1 hq
    .ite ((abandonQueue hp hk hq s ..).trans (wr_queue hp hk _ hq _)) (.refl s)) _

/-! ### The partition -/

theorem applyHold (s : State) : SlotKept p k s (applyHold s p) := by
  unfold Machine.applyHold
  refine SlotKept.trans ?_ (holdQueues hp hk _)
  refine SlotKept.trans ?_ (.foldl (fun s i _ => holdColl s i) _)
  refine SlotKept.trans ?_ (holdSd hp hk _)
  refine SlotKept.trans ?_ (wr_own hp hk _ _ (.inl (by decide)))
  refine update (update (SlotKept.trans ?_ (dropLooks hp hk _)))
  exact .foldl (fun s t _ => holdTile hp hk s t) _

theorem enterHold (s : State) : SlotKept p k s (enterHold s p) := by
  have hstate : SlotKept p k s (Machine.wr s p R.PART_CFG_PART_STATE 1) := wr_own hp hk s _ (.inl (by decide))
  exact .ite (.refl s) (.ite hstate.update (SlotKept.trans hstate.update (applyHold hp hk _)))

/-- A fault of class F2. -/
theorem raise (s : State) (src : Nat) {f : Kind} (hf : f.cls = 2) (addr detail : Nat) : SlotKept p k s (raise s src f p addr detail) := by
  simp only [Machine.raise, hf, if_true, faultHold]
  exact SlotKept.trans (.ite .of_regs .of_regs) (enterHold hp hk _)

end

end SlotKept

end Sys2Proof.Machine
end

section
/-!
SUPPORT. A write of the word of a collective slot (R11, R329, R504): the fields it reaches, and the command that it carries.
-/

open Sys2Proof Sys2Proof.Machine Sys2Proof.Claims

namespace Sys2Proof.Machine

set_option Elab.async false

/-! ### The fields that an access reaches -/

/-- The elements of fields of which bits lie in the access, in the order in which they are written: field, indices, first byte. -/
def accessHits (off size : Nat) : List (Reg × Nat × Nat × Nat) :=
  (R.all.filter (nearAccess off size)).flatMap (fun f => (fieldHits f off size).map (f, ·))

theorem fieldsWrite_eq_hits (s : State) (p off size v : Nat) (locked auth : Bool) (allow : Reg → Nat → Nat → Bool) :
    fieldsWrite s p off size v locked auth allow = (accessHits off size).foldl (fun s (f, i, j, b) =>
      if allow f i j then fieldWrite s p f i j b off size v locked auth else s) s := by
  rw [fieldsWrite_eq_near, accessHits, List.foldl_flatMap]
  congr 1
  funext s f
  rw [fieldPass, List.foldl_map]

/-- The fields of the word behind KIND. -/
def slotWordTail : List Reg :=
  [R.COLL_SLOT_IFMT, R.COLL_SLOT_OFMT, R.COLL_SLOT_DECODE, R.COLL_SLOT_ERR, R.COLL_SLOT_CSTATE, R.COLL_SLOT_ARM, R.COLL_SLOT_DISARM]

theorem accessHits_slotWord {k : Nat} (hk : k < 64) :
    accessHits (0x504000 + 64 * k) 4 = (R.COLL_SLOT_KIND :: slotWordTail).map (fun f => (f, k, 0, 0x504000 + 64 * k)) := by
  revert k
  decide +kernel

/-! ### Register fields alone -/

theorem OnlyRegs.refl (s : State) (ks : List Nat) : OnlyRegs s s ks := ⟨rfl, .refl s ks⟩

theorem OnlyRegs.trans {s u v : State} {ks : List Nat} (h : OnlyRegs s u ks) (h' : OnlyRegs u v ks) : OnlyRegs s v ks := by
  obtain ⟨hf, hr⟩ := h
  obtain ⟨hf', hr'⟩ := h'
  exact ⟨by rw [hf] at hf'; exact hf', hr.trans hr'⟩

theorem OnlyRegs.mono {s u : State} {ks ls : List Nat} (h : OnlyRegs s u ks) (hs : ∀ k ∈ ks, k ∈ ls) : OnlyRegs s u ls := ⟨h.1, h.2.mono hs⟩

theorem OnlyRegs.foldl {α : Type} {g : State → α → State} {ks : List Nat} {l : List α} (h : ∀ s, ∀ x ∈ l, OnlyRegs s (g s x) ks)
    (s : State) : OnlyRegs s (l.foldl g s) ks := by
  induction l generalizing s with
  | nil => exact .refl s ks
  | cons x l ih => exact (h s x List.mem_cons_self).trans (ih (fun s y hy => h s y (List.mem_cons_of_mem _ hy)) _)

/-- A write of a field of the partition leaves everything else. -/
theorem onlyRegs_fieldWrite (s : State) (p : Nat) {f : Reg} (hf : f.pkg = false) (i j b off size v : Nat) (locked auth : Bool) :
    OnlyRegs s (fieldWrite s p f i j b off size v locked auth) [fieldKey f p i j] := by
  have hs : OnlyRegs s s [fieldKey f p i j] := ⟨rfl, .refl s _⟩
  have hw (x : Nat) : OnlyRegs s (wr s p f x i j) [fieldKey f p i j] := onlyRegs_wr ..
  simp only [fieldWrite, hf, Bool.false_eq_true, if_false]
  split
  · exact hw _
  · exact hw _
  · split
    · exact hs
    · exact hw _
  · split
    · exact hw _
    · exact hs
  · exact hs

/-- A write of a field that can only be read, or that is a command. -/
theorem fieldWrite_of_ro_or_wo (s : State) (p : Nat) {f : Reg} (hf : f.acc = .ro ∨ f.acc = .wo) (i j b off size v : Nat) (locked auth : Bool) :
    fieldWrite s p f i j b off size v locked auth = s := by
  rcases hf with hf | hf <;> simp [fieldWrite, hf]

/-! ### The word -/

/-- The fields of the word behind KIND that a write can change. -/
def slotWordRest : List Reg := [R.COLL_SLOT_IFMT, R.COLL_SLOT_OFMT, R.COLL_SLOT_DECODE, R.COLL_SLOT_ERR]

/-- The fields behind KIND are written, each by its access code. -/
def restWritten (s : State) (p k b v : Nat) : State := slotWordTail.foldl (fun s f => fieldWrite s p f k 0 b b 4 v false false) s

/-- Of them only those of `slotWordRest` change. -/
theorem restWritten_onlyRegs (s : State) (p k b v : Nat) : OnlyRegs s (restWritten s p k b v) (slotWordRest.map (fieldKey · p k 0)) := by
  have hfield : ∀ f ∈ slotWordTail, f.pkg = false ∧ (f ∈ slotWordRest ∨ f.acc = .ro ∨ f.acc = .wo) := by decide
  refine .foldl (fun s f hf => ?_) s
  obtain ⟨hpkg, hplain | hnone⟩ := hfield f hf
  · exact (onlyRegs_fieldWrite s p hpkg ..).mono fun key h => List.mem_singleton.1 h ▸ List.mem_map_of_mem hplain
  · simp only [fieldWrite_of_ro_or_wo s p hnone]
    exact .refl s _

section
variable {a : Access} {k : Nat} (hk : k < 64) (ho : a.off = 0x504000 + 64 * k) (hz : a.size = 4)
include hk ho hz

/-- The word of a slot that is neither ARMED nor RUNNING: KIND, then the fields behind it. -/
theorem collWord_eq (s : State) (p : Nat) : collWord s p a
    = restWritten (wr s p R.COLL_SLOT_KIND (overlay 4 (8 * a.off) a.off 4 a.val.toNat (rd s p R.COLL_SLOT_KIND k)).1 k) p k a.off a.val.toNat := by
  have hallow : ∀ f ∈ R.COLL_SLOT_KIND :: slotWordTail, decide (0x504000 ≤ f.base ∧ f.base < 0x504040) = true := by decide
  have hkind : fieldWrite s p R.COLL_SLOT_KIND k 0 a.off a.off 4 a.val.toNat false false
      = wr s p R.COLL_SLOT_KIND (overlay 4 (8 * a.off) a.off 4 a.val.toNat (rd s p R.COLL_SLOT_KIND k)).1 k := fieldWrite_rw s p rfl rfl ..
  rw [← hkind, restWritten, ← List.foldl_cons (f := fun s f => fieldWrite s p f k 0 a.off a.off 4 a.val.toNat false false), collWord,
    fieldsWrite_eq_hits, hz, ho, accessHits_slotWord hk, List.foldl_map]
  exact List.foldl_ext _ _ _ fun u f hf => if_pos (hallow f hf)

/-- Of the word only the plain fields change. -/
theorem collWord_onlyRegs (s : State) (p : Nat) : OnlyRegs s (collWord s p a) ((R.COLL_SLOT_KIND :: slotWordRest).map (fieldKey · p k 0)) := by
  rw [collWord_eq hk ho hz, List.map_cons]
  exact ((onlyRegs_wr ..).mono fun _ h => List.mem_singleton.1 h ▸ List.mem_cons_self).trans
    ((restWritten_onlyRegs ..).mono fun _ => List.mem_cons_of_mem _)

theorem collWord_kind (s : State) (p : Nat) : rd (collWord s p a) p R.COLL_SLOT_KIND k = bitsOf a.val.toNat 0 4 := by
  have hkept : fieldKey R.COLL_SLOT_KIND p k 0 ∉ slotWordRest.map (fieldKey · p k 0) := by
    simp only [slotWordRest, List.map_cons, List.map_nil, List.mem_cons, List.not_mem_nil, or_false, fieldKey, R.COLL_SLOT_KIND,
      R.COLL_SLOT_IFMT, R.COLL_SLOT_OFMT, R.COLL_SLOT_DECODE, R.COLL_SLOT_ERR]
    omega
  rw [collWord_eq hk ho hz, (restWritten_onlyRegs ..).2.rd p _ k 0 hkept, rd_wr_same]
  refine (overlay_whole _ _ (by decide) (Nat.le_refl _) (by omega)).trans ?_
  rw [Nat.sub_self]
  rfl

/-- A field of the partition before the word, or from its CSTATE on. -/
theorem rd_collWord (s : State) (p : Nat) {f : Reg} (hf : f.pkg = false) {i j : Nat}
    (h : 8 * (f.base + i * f.stride + j * f.stride2) + f.lsb < 8 * (0x504000 + 64 * k)
      ∨ 8 * (0x504000 + 64 * k) + 16 ≤ 8 * (f.base + i * f.stride + j * f.stride2) + f.lsb) :
    rd (collWord s p a) p f i j = rd s p f i j := by
  have hplace : ∀ g ∈ R.COLL_SLOT_KIND :: slotWordRest, g.pkg = false ∧ g.base = 0x504000 ∧ g.stride = 64 ∧ g.lsb < 16 := by decide
  refine (collWord_onlyRegs hk ho hz s p).2.rd p f i j fun hmem => ?_
  obtain ⟨g, hg, hkey⟩ := List.mem_map.1 hmem
  obtain ⟨hpkg, hbase, hstride, hlsb⟩ := hplace g hg
  simp only [fieldKey, hf, hpkg, hbase, hstride, Bool.false_eq_true, if_false] at hkey
  omega

end

/-- The word of a slot that is ARMED or RUNNING: none of its fields is written. -/
theorem slotWord_live {k : Nat} (hk : k < 64) (s : State) (p v : Nat) (live : Bool) (hl : live = true) :
    fieldsWrite s p (0x504000 + 64 * k) 4 v false false (fun f _ _ =>
      decide (0x504000 ≤ f.base ∧ f.base < 0x504040) && (!live || f.base == R.COLL_SLOT_TRIG_TGT.base)) = s := by
  subst hl
  rw [fieldsWrite_eq_hits, accessHits_slotWord hk]
  rfl

end Sys2Proof.Machine
end

section
/-!
SUPPORT. ARM, DISARM and a timeout of a collective slot (R86, R288, R291, R328, R329, R333).
-/

open Sys2Proof Sys2Proof.Machine Sys2Proof.Claims

namespace Sys2Proof.Machine

set_option Elab.async false

/-! ### The commands -/

/-- The partition of a port is one of four. -/
theorem portPart_lt (s : State) (h : HPort) : portPart s h < 4 := by
  unfold portPart
  split
  · decide
  · split <;> omega
  · exact h.isLt

theorem accessCtl_of_ctrlWrite {s : State} {a : Access} {p : Nat} (h : CtrlWrite s a p) (f : Nat → State) : accessCtl s a f = f p := by
  obtain ⟨hc, hz⟩ := h
  obtain ⟨hp, hrole, rfl⟩ := ctrlAccess_some hc
  simp [accessCtl, accessPort, hp.live, hp.enabled, hp.booted, hp.secure, hp.idle, hz, hrole]

section
variable {a : Access} {p k : Nat} {s : State} (hc : CtrlWrite s a p) (hk : k < 64) (ho : a.off = 0x504000 + 64 * k) (hz : a.size = 4)
include hc hk ho hz

/-- A command bit of the word of slot k. -/
theorem collAccess_slot {bit : Nat} (hb : bitAt a.val.toNat bit = true) (ecc : Ecc) : collAccess s a bit ecc
    = collWrite s p a.off 4 a.val.toNat (bitAt a.val.toNat 18) (bitAt a.val.toNat 19) ecc := by
  rw [collAccess, accessCtl_of_ctrlWrite hc, if_pos ⟨by omega, by omega, by omega, hb⟩, hz]

/-- ARM of an IDLE slot follows the write of its word. -/
theorem exec_collArm (hs : collState s p k = 0) (ha : bitAt a.val.toNat 18 = true) (hd : bitAt a.val.toNat 19 = false) :
    exec (.collArm a) s = .next (collArm (collWord s p a) p k .none) := by
  have hi : (a.off - 0x504000) / 64 = k := by omega
  have hword : collWrite s p a.off 4 a.val.toNat true false .none = collArm (collWord s p a) p k .none := by
    simp [collWrite, collWord, hi, hs, hz]
  change Host.Outcome.next (collAccess s a 18 .none) = _
  rw [collAccess_slot hc hk ho hz ha, ha, hd, hword]

/-- DISARM of an ARMED slot: its word is not written. -/
theorem exec_collDisarm (hs : collState s p k = 1) (hd : bitAt a.val.toNat 19 = true) (ha : bitAt a.val.toNat 18 = false) :
    exec (.collDisarm a) s = .next (setCollState { s with colls := mapErase s.colls (collKey p k) } p k 0) := by
  have hi : (a.off - 0x504000) / 64 = k := by omega
  have hword : collWrite s p a.off 4 a.val.toNat false true .none = collDisarm s p k := by
    simp only [collWrite, hi]
    rw [ho, slotWord_live hk s p _ _ (by simp [hs])]
    rfl
  change Host.Outcome.next (collAccess s a 19 .none) = _
  rw [collAccess_slot hc hk ho hz hd, ha, hd, hword, collDisarm, if_pos hs]

end

/-! ### What ARM reads -/

section
variable {a : Access} {k : Nat} (hk : k < 64) (ho : a.off = 0x504000 + 64 * k) (hz : a.size = 4)
include hk ho hz

theorem collWord_frame (s : State) (p : Nat) : ∃ r, collWord s p a = { s with regs := r } := ⟨_, (collWord_onlyRegs hk ho hz s p).1⟩

theorem collState_collWord (s : State) (p : Nat) : collState (collWord s p a) p k = collState s p k :=
  rd_collWord hk ho hz s p rfl (by simp only [R.COLL_SLOT_CSTATE]; omega)

theorem rankCnt_collWord (s : State) (p : Nat) : rd (collWord s p a) p R.COLL_SLOT_RANK_CNT k = rd s p R.COLL_SLOT_RANK_CNT k :=
  rd_collWord hk ho hz s p rfl (by simp only [R.COLL_SLOT_RANK_CNT]; omega)

theorem ownNode_collWord (s : State) (p : Nat) : ownNode (collWord s p a) p = ownNode s p :=
  rd_collWord hk ho hz s p rfl (by simp only [R.FAB_NODE_NODE_ID]; omega)

end

/-! ### A slot that is armed -/

/-- The slot is ARMED over the list bs, with its rank and the neighbours of the ring (R328). -/
def armed (s : State) (p k : Nat) (bs : List Byte) : State :=
  let d := collOf s p k
  let l := groupNodes bs d.n
  let r := l.idxOf (ownNode s p)
  let dig := crc32c (bs ++ Config.fieldBytes [d.gid, d.kind, d.ifmt, d.ofmt, d.rowLen, d.e])
  let s := setCollRun s p k { digest := BitVec.ofNat 32 dig, next := l.getD ((r + 1) % d.n) 0, prev := l.getD ((r + d.n - 1) % d.n) 0 }
  setCollState (wr s p R.COLL_SLOT_MY_RANK r k) p k 1

section
variable {s : State} {p k : Nat}

theorem collArm_waits (hs : collState s p k = 0) (hw : armWaits s p k = true) : collArm s p k .none
    = if s.stackReqs.contains (p, .arm k) then s else { s with stackReqs := s.stackReqs ++ [(p, .arm k)] } := by
  simp [collArm, hs, hw]

theorem collArm_now (hs : collState s p k = 0) (hw : armWaits s p k = false) : collArm s p k .none = armNow s p k := by
  simp [collArm, hs, hw, eccReads]

theorem armNow_some {bs : List Byte} (h : armList s p k = some bs) : armNow s p k = armed s p k bs := by
  simp only [armNow, h]
  rfl

theorem collState_armed (bs : List Byte) : collState (armed s p k bs) p k = 1 := rd_wr_same ..

theorem kind_armed (bs : List Byte) : rd (armed s p k bs) p R.COLL_SLOT_KIND k = rd s p R.COLL_SLOT_KIND k := by
  refine (rd_wr_ne _ _ ?_).trans ((rd_wr_ne _ _ ?_).trans (rd_of_regs rfl ..)) <;>
    simp only [fieldKey, R.COLL_SLOT_KIND, R.COLL_SLOT_CSTATE, R.COLL_SLOT_MY_RANK] <;> omega

theorem myRank_armed (bs : List Byte) : rd (armed s p k bs) p R.COLL_SLOT_MY_RANK k
    = (groupNodes bs (rd s p R.COLL_SLOT_RANK_CNT k)).idxOf (ownNode s p) % 2 ^ 13 := by
  refine (rd_wr_ne _ _ ?_).trans (rd_wr_same ..)
  simp only [fieldKey, R.COLL_SLOT_CSTATE, R.COLL_SLOT_MY_RANK]
  omega

theorem collRun_setCollRun (x : CollRun) : collRun (setCollRun s p k x) p k = x := mapGet_mapSet_same ..

/-- The run of an armed slot: the neighbours in the ring, nothing taken. -/
theorem collRun_armed (bs : List Byte) : ∃ dig, collRun (armed s p k bs) p k =
    { digest := dig
      next := (groupNodes bs (rd s p R.COLL_SLOT_RANK_CNT k)).getD
        (((groupNodes bs (rd s p R.COLL_SLOT_RANK_CNT k)).idxOf (ownNode s p) + 1) % rd s p R.COLL_SLOT_RANK_CNT k) 0
      prev := (groupNodes bs (rd s p R.COLL_SLOT_RANK_CNT k)).getD
        (((groupNodes bs (rd s p R.COLL_SLOT_RANK_CNT k)).idxOf (ownNode s p) + rd s p R.COLL_SLOT_RANK_CNT k - 1)
          % rd s p R.COLL_SLOT_RANK_CNT k) 0 } :=
  ⟨_, collRun_setCollRun _⟩

end

/-! ### A slot that is refused -/

/-- The error of a slot that cannot be armed, and its note; COLL_CFG is of class F0 (R328). -/
def armRefused (s : State) (p k : Nat) : State := raise (wrb s p R.COLL_SLOT_ERR true k) (srcColl k) K.COLL_CFG p

section
variable {s : State} {p k : Nat}

theorem armNow_none (h : armList s p k = none) : armNow s p k
    = match armFault s p k with | some f => raise (armRefused s p k) (srcColl k) f p | none => armRefused s p k := by
  simp only [armNow, h]
  rfl

/-- A fault of the read of the list is of class F2. -/
theorem armFault_cls {f : Kind} (h : armFault s p k = some f) : f.cls = 2 := by
  simp only [armFault] at h
  split at h
  · simp only [Option.ite_none_right_eq_some, Option.some.injEq] at h
    rw [← h.2]; rfl
  · simp only [Option.ite_none_right_eq_some, Option.some.injEq] at h
    rw [← h.2]; rfl

theorem collState_armRefused : collState (armRefused s p k) p k = collState s p k := by
  refine (rd_wr_ne _ _ ?_ : collState (wrb s p R.COLL_SLOT_ERR true k) p k = _)
  simp only [fieldKey, R.COLL_SLOT_ERR, R.COLL_SLOT_CSTATE]
  omega

theorem err_armRefused : rd (armRefused s p k) p R.COLL_SLOT_ERR k = 1 := rd_wr_same s p R.COLL_SLOT_ERR 1 k 0

theorem noted_armRefused : Noted (armRefused s p k) (srcColl k) K.COLL_CFG p := ⟨0, 0, _, List.mem_append_right _ (List.mem_singleton.2 rfl)⟩

/-- A further fault of class F2 of the same slot: HOLD leaves the slot, and both are noted. -/
theorem armRefused_fault (hp : p < 4) (hk : k < 64) (hsafe : s.safe = false) (hs : collState s p k = 0) {f : Kind} (hf : f.cls = 2) :
    collState (raise (armRefused s p k) (srcColl k) f p) p k = 0 ∧ rd (raise (armRefused s p k) (srcColl k) f p) p R.COLL_SLOT_ERR k = 1
      ∧ Noted (raise (armRefused s p k) (srcColl k) f p) (srcColl k) K.COLL_CFG p
      ∧ Noted (raise (armRefused s p k) (srcColl k) f p) (srcColl k) f p := by
  have hidle : collState (armRefused s p k) p k = 0 := collState_armRefused.trans hs
  obtain ⟨hstate, herr⟩ := (SlotKept.raise hp hk (armRefused s p k) (srcColl k) hf 0 0).kept (by omega)
  obtain ⟨-, hq⟩ := raise_f2_hold hp (s := armRefused s p k) hsafe (srcColl k) hf 0 0
  obtain ⟨addr, detail, st, hcfg⟩ := noted_armRefused (s := s) (p := p) (k := k)
  exact ⟨hstate.trans hidle, herr.trans err_armRefused, ⟨addr, detail, st, hq ▸ List.mem_append_left _ hcfg⟩,
    ⟨0, 0, _, hq ▸ List.mem_append_right _ (List.mem_singleton.2 rfl)⟩⟩

end

/-! ### The outcomes (R328, R329, R333) -/

section
variable {a : Access} {p : Nat} {k : Fin 64} {s : State} (hc : CtrlWrite s a p) (ho : a.off = 0x504000 + 64 * k.val) (hz : a.size = 4)
  (hs : collState s p k = 0) (ha : bitAt a.val.toNat 18 = true) (hd : bitAt a.val.toNat 19 = false)
include hc ho hz hs ha hd

/-- While a traffic generator drives a stack of the list, ARM is kept as a request (R291). -/
theorem arm_waits (hw : armWaits (collWord s p a) p k = true) :
    ∃ u, exec (.collArm a) s = .next u ∧ u = { s with regs := u.regs, stackReqs := u.stackReqs } ∧ (p, StackReq.arm k) ∈ u.stackReqs
      ∧ collState u p k = 0 := by
  have hidle := (collState_collWord k.isLt ho hz s p).trans hs
  obtain ⟨r, hr⟩ := collWord_frame k.isLt ho hz s p
  refine ⟨_, exec_collArm hc k.isLt ho hz hs ha hd, ?_⟩
  rw [collArm_waits hidle hw]
  rw [hr] at hidle ⊢
  split
  · next hin => exact ⟨rfl, List.contains_iff_mem.1 hin, hidle⟩
  · exact ⟨rfl, List.mem_append_right _ (List.mem_singleton.2 rfl), hidle⟩

/-- A good configuration and list (R328). -/
theorem arm_good (hw : armWaits (collWord s p a) p k = false) {bs : List Byte} (hl : armList (collWord s p a) p k = some bs) :
    exec (.collArm a) s = .next (armed (collWord s p a) p k bs) ∧ armed (collWord s p a) p k bs
      = { s with regs := (armed (collWord s p a) p k bs).regs, colls := (armed (collWord s p a) p k bs).colls } := by
  have hidle := (collState_collWord k.isLt ho hz s p).trans hs
  obtain ⟨r, hr⟩ := collWord_frame k.isLt ho hz s p
  rw [exec_collArm hc k.isLt ho hz hs ha hd, collArm_now hidle hw, armNow_some hl]
  refine ⟨rfl, ?_⟩
  rw [hr]
  rfl

/-- A bad configuration or list (R86, R288, R328). -/
theorem arm_bad (hw : armWaits (collWord s p a) p k = false) (hl : armList (collWord s p a) p k = none) :
    ∃ u, exec (.collArm a) s = .next u ∧ collState u p k = 0 ∧ rd u p R.COLL_SLOT_ERR k = 1 ∧ Noted u (srcColl k) K.COLL_CFG p
      ∧ (armFault (collWord s p a) p k = none → u = { s with regs := u.regs, faultQ := u.faultQ })
      ∧ (∀ f, armFault (collWord s p a) p k = some f → Noted u (srcColl k) f p) := by
  have hidle := (collState_collWord k.isLt ho hz s p).trans hs
  obtain ⟨r, hr⟩ := collWord_frame k.isLt ho hz s p
  obtain ⟨hreach, -, hpart⟩ := ctrlAccess_some hc.1
  have hp : p < 4 := hpart ▸ portPart_lt s a.port
  have hsafe : (collWord s p a).safe = false := by rw [hr]; exact hreach.live
  refine ⟨_, (exec_collArm hc k.isLt ho hz hs ha hd).trans (by rw [collArm_now hidle hw, armNow_none hl]), ?_⟩
  split
  · next f hf =>
    obtain ⟨hstate, herr, hcfg, hfault⟩ := armRefused_fault hp k.isLt hsafe hidle (armFault_cls hf)
    refine ⟨hstate, herr, hcfg, fun hn => ?_, fun g hg => ?_⟩
    · rw [hf] at hn; cases hn
    · rw [hf, Option.some.injEq] at hg; exact hg ▸ hfault
  · next hf =>
    refine ⟨collState_armRefused.trans hidle, err_armRefused, noted_armRefused, fun _ => ?_, fun g hg => ?_⟩
    · rw [hr]; rfl
    · rw [hf] at hg; cases hg

end

/-- DISARM (R329). -/
theorem disarm_armed {a : Access} {p : Nat} {k : Fin 64} {s : State} (hc : CtrlWrite s a p) (ho : a.off = 0x504000 + 64 * k.val) (hz : a.size = 4)
    (hs : collState s p k = 1) (hd : bitAt a.val.toNat 19 = true) (ha : bitAt a.val.toNat 18 = false) :
    ∃ u, exec (.collDisarm a) s = .next u ∧ u = { s with regs := u.regs, colls := mapErase s.colls (collKey p k) } ∧ collState u p k = 0
      ∧ RegsKept s u [fieldKey R.COLL_SLOT_CSTATE p k 0] :=
  ⟨_, exec_collDisarm hc k.isLt ho hz hs hd ha, rfl, rd_wr_same ..,
    regsKept_wr { s with colls := mapErase s.colls (collKey p k) } p R.COLL_SLOT_CSTATE 0 k 0⟩

/-- A RUNNING slot that does not end (R333). -/
theorem coll_timeout {p : Part} {k : Fin 64} {s : State} (hr : running s p = true) (hs : collState s p k = 2) :
    ∃ u, exec (.collTimeout p k) s = .next u ∧ collState u p k = 3 ∧ isHold u p = true ∧ Noted u (srcColl k) K.COLL_TIMEOUT p := by
  have hsafe : (setCollState s p k 3).safe = false := (safe_of_running hr : s.safe = false)
  have herror : collState (setCollState s p k 3) p k = 3 := rd_wr_same ..
  obtain ⟨hhold, hq⟩ := raise_f2_hold p.isLt hsafe (srcColl k) (k := K.COLL_TIMEOUT) rfl 0 0
  obtain ⟨hstate, -⟩ := (SlotKept.raise p.isLt k.isLt (setCollState s p k 3) (srcColl k) (f := K.COLL_TIMEOUT) rfl 0 0).kept (by omega)
  exact ⟨_, by simp [exec, execCollTimeout, hr, hs], hstate.trans herror, hhold,
    ⟨0, 0, _, hq ▸ List.mem_append_right _ (List.mem_singleton.2 rfl)⟩⟩

/-- Settles O39: the word that carries ARM is written first and leaves what ARM reads of the slot; HOLD leaves a slot that is not RUNNING. -/
theorem collectiveSetup : Obligations.collective_setup := by
  refine ⟨fun a p k s hc ho hz => ⟨fun hs ha hd => ⟨arm_waits hc ho hz hs ha hd, fun hw bs hl => ?_, arm_bad hc ho hz hs ha hd⟩,
    disarm_armed hc ho hz⟩, fun p k s => coll_timeout⟩
  obtain ⟨hexec, hframe⟩ := arm_good hc ho hz hs ha hd hw hl
  obtain ⟨dig, hrun⟩ := collRun_armed (s := collWord s p a) (p := p) (k := k) bs
  rw [rankCnt_collWord k.isLt ho hz, ownNode_collWord k.isLt ho hz] at hrun
  refine ⟨_, hexec, hframe, collState_armed bs, (kind_armed bs).trans (collWord_kind k.isLt ho hz s p), ?_, ?_⟩
  · rw [myRank_armed, rankCnt_collWord k.isLt ho hz, ownNode_collWord k.isLt ho hz]
  · rw [hrun]
    exact ⟨rfl, rfl, rfl, rfl⟩

end Sys2Proof.Machine
end

section
/-!
SUPPORT. Register fields written in turn: what each then holds, and that nothing else changes.
-/

open Sys2Proof

namespace Sys2Proof.Machine

/-- A field of a partition, its indices, and a value for it. -/
structure FieldVal where
  f : Reg
  v : Nat
  i : Nat := 0
  j : Nat := 0

/-- The bit address of the field. -/
def FieldVal.key (p : Nat) (x : FieldVal) : Nat := fieldKey x.f p x.i x.j

/-- The fields of the list written in order. -/
def wrAll (s : State) (p : Nat) (l : List FieldVal) : State := l.foldl (fun s x => wr s p x.f x.v x.i x.j) s

theorem wrAll_onlyRegs (s : State) (p : Nat) (l : List FieldVal) : OnlyRegs s (wrAll s p l) (l.map (FieldVal.key p)) :=
  .foldl (fun s x hx => (onlyRegs_wr s p x.f x.v x.i x.j).mono fun _ h => List.mem_singleton.1 h ▸ List.mem_map_of_mem hx) s

theorem rd_wrAll_of_mem {p : Nat} {l : List FieldVal} (hl : (l.map (FieldVal.key p)).Nodup) {x : FieldVal} (hx : x ∈ l) (s : State) :
    rd (wrAll s p l) p x.f x.i x.j = x.v % 2 ^ x.f.width := by
  induction l generalizing s with
  | nil => cases hx
  | cons y l ih =>
    rw [List.map_cons, List.nodup_cons] at hl
    rcases List.mem_cons.1 hx with rfl | hx
    · exact ((wrAll_onlyRegs _ p l).2.rd p x.f x.i x.j hl.1).trans (rd_wr_same ..)
    · exact ih hl.2 hx _

/-- Of fields at different places, the n-th of the list holds the value written to it. -/
theorem rd_wrAll {p : Nat} {l : List FieldVal} (hl : (l.map (FieldVal.key p)).Nodup) (s : State) (n : Nat)
    (hn : n < l.length := by simp) : rd (wrAll s p l) p l[n].f l[n].i l[n].j = l[n].v % 2 ^ l[n].f.width :=
  rd_wrAll_of_mem hl (List.getElem_mem hn) s

end Sys2Proof.Machine
end

section
/-!
SUPPORT. The version commands (R122, R125 to R127): which of them is refused with which result, and the fields that a good one writes.
-/

open Sys2Proof Sys2Proof.Machine Sys2Proof.Claims

namespace Sys2Proof.Machine

/-! ### Slots -/

/-- The slot that holds a version is one of four. -/
theorem verSlot_lt {s : State} {p t v j : Nat} (h : verSlot s p t v = some j) : j < 4 := List.mem_range.1 (List.mem_of_find?_eq_some h)

/-- No slot is FREE. -/
theorem freeSlot_none {s : State} {p t : Nat} (h : ∀ i, i < 4 → slotState s p t i ≠ 0) :
    (List.range 4).find? (fun j => slotState s p t j == 0) = none :=
  List.find?_eq_none.2 fun i hi => by simpa using h i (List.mem_range.1 hi)

/-- The lowest FREE slot. -/
theorem freeSlot_some {s : State} {p t j : Nat} (hj : j < 4) (h : slotState s p t j = 0) (hlow : ∀ i, i < j → slotState s p t i ≠ 0) :
    (List.range 4).find? (fun j => slotState s p t j == 0) = some j := by
  rw [List.find?_range_eq_some]
  exact ⟨by simpa using h, List.mem_range.2 hj, fun i hi => by simpa using hlow i hi⟩

theorem currentSlot_eq_none {s : State} {p t : Nat} : currentSlot s p t = none ↔ ∀ i, i < 4 → slotState s p t i ≠ 3 := by
  simp [currentSlot, List.find?_eq_none]

/-! ### The frame of a command (R126) -/

section
variable {s : State} {port : HPort} {table : BitVec 10} {ver : BitVec 16} {p : Nat}

/-- Every version command is its body under the checks of the command register. -/
theorem exec_tdCommands {c : Instr} (h : c ∈ tdCommands port table ver) : ∃ body, exec c s = .next (tdCommand s port table.toNat body) := by
  simp only [tdCommands, List.mem_cons, List.not_mem_nil, or_false] at h
  rcases h with rfl | rfl | rfl | rfl | rfl <;> exact ⟨_, rfl⟩

theorem tdCommand_busy (hc : ctrlAccess s port = some p) (hb : rdb s p R.TD_STATUS_CMD_BUSY = true) (t : Nat) (body : Nat → State × Nat) :
    tdCommand s port t body = s := by
  simp [tdCommand, hc, hb]

theorem tdCommand_undefined (hc : ctrlAccess s port = some p) (hb : rdb s p R.TD_STATUS_CMD_BUSY = false) {t : Nat}
    (ht : tableDefined s p t = false) (body : Nat → State × Nat) : tdCommand s port t body = tdResult s p St.BAD_DESC := by
  simp [tdCommand, hc, hb, ht]

theorem tdCommand_runs (hc : ctrlAccess s port = some p) (hb : rdb s p R.TD_STATUS_CMD_BUSY = false) {t : Nat}
    (ht : tableDefined s p t = true) (body : Nat → State × Nat) : tdCommand s port t body = tdResult (body p).1 p (body p).2 := by
  simp [tdCommand, hc, hb, ht]

/-- A command that leaves its result code alone. -/
theorem reports_of {c : Instr} {r : Nat} (h : exec c s = .next (tdResult s p r)) (hr : r < 256) : Reports c s p r :=
  ⟨_, h, onlyRegs_wr .., (rd_wr_same ..).trans (Nat.mod_eq_of_lt hr)⟩

end

/-! ### The five commands -/

section
variable {s : State} {port : HPort} {table : BitVec 10} {ver : BitVec 16} {p : Nat} (hc : ctrlAccess s port = some p)
  (hb : rdb s p R.TD_STATUS_CMD_BUSY = false) (ht : tableDefined s p table.toNat = true)
include hc hb ht

theorem install_reports_full (h : ∀ i, i < 4 → slotState s p table.toNat i ≠ 0) : Reports (.install port table ver) s p St.VERSION_SLOTS_FULL := by
  refine reports_of (congrArg Host.Outcome.next ((tdCommand_runs hc hb ht _).trans ?_)) (by decide)
  simp only [installVer, freeSlot_none h]

theorem install_reports_order {j i : Nat} (hj : j < 4) (h : slotState s p table.toNat j = 0) (hlow : ∀ i, i < j → slotState s p table.toNat i ≠ 0)
    (hi : i < 4) (hs : slotState s p table.toNat i ≠ 0) (hn : newerVer ver.toNat (rd s p R.TABLE_DESC_SLOT_VER table.toNat i) = false) :
    Reports (.install port table ver) s p St.VERSION_ORDER := by
  have hany : (List.range 4).any (fun i => slotState s p table.toNat i != 0 && !newerVer ver.toNat (rd s p R.TABLE_DESC_SLOT_VER table.toNat i)) = true :=
    List.any_eq_true.2 ⟨i, List.mem_range.2 hi, by simp [hs, hn]⟩
  refine reports_of (congrArg Host.Outcome.next ((tdCommand_runs hc hb ht _).trans ?_)) (by decide)
  simp only [installVer, freeSlot_some hj h hlow, hany, if_true]

theorem install_takes {j : Nat} (hj : j < 4) (h : slotState s p table.toNat j = 0) (hlow : ∀ i, i < j → slotState s p table.toNat i ≠ 0)
    (hnew : ∀ i, i < 4 → slotState s p table.toNat i ≠ 0 → newerVer ver.toNat (rd s p R.TABLE_DESC_SLOT_VER table.toNat i) = true) :
    exec (.install port table ver) s = .next (wrAll s p [⟨R.TABLE_DESC_SLOT_VER, ver.toNat, table.toNat, j⟩,
      ⟨R.TABLE_DESC_SLOT_STATE, 1, table.toNat, j⟩, ⟨R.TD_STATUS_CMD_RESULT, 0, 0, 0⟩]) := by
  have hany : (List.range 4).any (fun i => slotState s p table.toNat i != 0 && !newerVer ver.toNat (rd s p R.TABLE_DESC_SLOT_VER table.toNat i)) = false :=
    List.any_eq_false.2 fun i hi => by
      by_cases hs : slotState s p table.toNat i = 0
      · simp [hs]
      · simp [hnew i (List.mem_range.1 hi) hs]
  refine congrArg Host.Outcome.next ((tdCommand_runs hc hb ht _).trans ?_)
  simp only [installVer, freeSlot_some hj h hlow, hany, Bool.false_eq_true, if_false]
  rfl

theorem seal_reports_step (h : stepDiff (rd s p R.TD_ARG_CMD_STEP) (rd s p R.ST_NOW_STEP) ≤ 0) : Reports (.seal port table ver) s p St.BAD_DESC := by
  refine reports_of (congrArg Host.Outcome.next ((tdCommand_runs hc hb ht _).trans ?_)) (by decide)
  simp only [sealVer, h, if_true]

theorem seal_reports_state (h : 0 < stepDiff (rd s p R.TD_ARG_CMD_STEP) (rd s p R.ST_NOW_STEP))
    (hs : ∀ j, verSlot s p table.toNat ver.toNat = some j → slotState s p table.toNat j ≠ 1) : Reports (.seal port table ver) s p St.WRONG_STATE := by
  refine reports_of (congrArg Host.Outcome.next ((tdCommand_runs hc hb ht _).trans ?_)) (by decide)
  cases hv : verSlot s p table.toNat ver.toNat with
  | none => simp only [sealVer, Int.not_le.2 h, hv, if_false]
  | some j => simp only [sealVer, Int.not_le.2 h, hv, hs j hv, if_false]

theorem seal_pends {j : Nat} (h : 0 < stepDiff (rd s p R.TD_ARG_CMD_STEP) (rd s p R.ST_NOW_STEP))
    (hv : verSlot s p table.toNat ver.toNat = some j) (hs : slotState s p table.toNat j = 1) :
    exec (.seal port table ver) s = .next (wrAll s p [⟨R.TABLE_DESC_SLOT_STATE, 2, table.toNat, j⟩,
      ⟨R.TABLE_DESC_SLOT_STEP, rd s p R.TD_ARG_CMD_STEP, table.toNat, j⟩, ⟨R.TABLE_DESC_NEXT_VALID, 1, table.toNat, 0⟩,
      ⟨R.TABLE_DESC_NEXT_VER, ver.toNat, table.toNat, 0⟩, ⟨R.TABLE_DESC_NEXT_STEP, rd s p R.TD_ARG_CMD_STEP, table.toNat, 0⟩,
      ⟨R.TD_STATUS_CMD_RESULT, 0, 0, 0⟩]) := by
  refine congrArg Host.Outcome.next ((tdCommand_runs hc hb ht _).trans ?_)
  simp only [sealVer, Int.not_le.2 h, hv, hs, if_false, if_true]
  rfl

theorem abort_reports_state (hs : ∀ j, verSlot s p table.toNat ver.toNat = some j → slotState s p table.toNat j ≠ 1 ∧ slotState s p table.toNat j ≠ 2) :
    Reports (.abort port table ver) s p St.WRONG_STATE := by
  refine reports_of (congrArg Host.Outcome.next ((tdCommand_runs hc hb ht _).trans ?_)) (by decide)
  cases hv : verSlot s p table.toNat ver.toNat with
  | none => simp only [abortVer, hv]
  | some j => simp only [abortVer, hv, hs j hv, or_self, if_false]

theorem abort_frees {j : Nat} (hv : verSlot s p table.toNat ver.toNat = some j)
    (hs : slotState s p table.toNat j = 1 ∨ slotState s p table.toNat j = 2) :
    exec (.abort port table ver) s = .next (wrAll s p ([⟨R.TABLE_DESC_SLOT_STATE, 0, table.toNat, j⟩, ⟨R.TABLE_DESC_SLOT_STEP, 0, table.toNat, j⟩]
      ++ (if rd s p R.TABLE_DESC_NEXT_VER table.toNat = ver.toNat then [⟨R.TABLE_DESC_NEXT_VALID, 0, table.toNat, 0⟩] else [])
      ++ [⟨R.TD_STATUS_CMD_RESULT, 0, 0, 0⟩])) := by
  have hnext : rd (setSlotStep (setSlotState s p table.toNat j 0) p table.toNat j 0) p R.TABLE_DESC_NEXT_VER table.toNat
      = rd s p R.TABLE_DESC_NEXT_VER table.toNat := by
    refine (rd_wr_ne _ _ ?_).trans (rd_wr_ne _ _ ?_) <;>
      simp only [fieldKey, R.TABLE_DESC_NEXT_VER, R.TABLE_DESC_SLOT_STATE, R.TABLE_DESC_SLOT_STEP] <;> omega
  refine congrArg Host.Outcome.next ((tdCommand_runs hc hb ht _).trans ?_)
  simp only [abortVer, hv, hs, if_true, clearNext, hnext]
  split <;> rfl

theorem free_reports_state (hs : ∀ j, verSlot s p table.toNat ver.toNat = some j → slotState s p table.toNat j ≠ 6) :
    Reports (.free port table ver) s p St.WRONG_STATE := by
  refine reports_of (congrArg Host.Outcome.next ((tdCommand_runs hc hb ht _).trans ?_)) (by decide)
  cases hv : verSlot s p table.toNat ver.toNat with
  | none => simp only [freeVer, hv]
  | some j => simp only [freeVer, hv, hs j hv, if_false]

theorem free_clears {j : Nat} (hv : verSlot s p table.toNat ver.toNat = some j) (hs : slotState s p table.toNat j = 6) :
    exec (.free port table ver) s = .next (wrAll s p [⟨R.TABLE_DESC_SLOT_STATE, 0, table.toNat, j⟩, ⟨R.TABLE_DESC_SLOT_STEP, 0, table.toNat, j⟩,
      ⟨R.TABLE_DESC_SLOT_VER, 0, table.toNat, j⟩, ⟨R.TABLE_DESC_INFLIGHT, 0, table.toNat, j⟩, ⟨R.TD_STATUS_CMD_RESULT, 0, 0, 0⟩]) := by
  refine congrArg Host.Outcome.next ((tdCommand_runs hc hb ht _).trans ?_)
  simp only [freeVer, hv, hs, if_true]
  rfl

theorem activate_reports_state (hs : ∀ j, verSlot s p table.toNat ver.toNat = some j →
      ¬ (slotState s p table.toNat j = 2 ∧ isHold s p = true ∧ currentSlot s p table.toNat = none)) :
    Reports (.activate port table ver) s p St.WRONG_STATE := by
  refine reports_of (congrArg Host.Outcome.next ((tdCommand_runs hc hb ht _).trans ?_)) (by decide)
  cases hv : verSlot s p table.toNat ver.toNat with
  | none => simp only [activateVer, hv]
  | some j => simp only [activateVer, hv, hs j hv, if_false]

theorem activate_makes_current {j : Nat} (hv : verSlot s p table.toNat ver.toNat = some j) (hs : slotState s p table.toNat j = 2)
    (hh : isHold s p = true) (hn : currentSlot s p table.toNat = none) :
    exec (.activate port table ver) s = .next (wrAll s p [⟨R.TABLE_DESC_SLOT_STATE, 3, table.toNat, j⟩,
      ⟨R.TABLE_DESC_SLOT_STEP, 0, table.toNat, j⟩, ⟨R.TABLE_DESC_CUR_VER, ver.toNat, table.toNat, 0⟩, ⟨R.TABLE_DESC_CUR_VALID, 1, table.toNat, 0⟩,
      ⟨R.TABLE_DESC_NEXT_VALID, 0, table.toNat, 0⟩, ⟨R.TD_STATUS_CMD_RESULT, 0, 0, 0⟩]) := by
  refine congrArg Host.Outcome.next ((tdCommand_runs hc hb ht _).trans ?_)
  simp only [activateVer, hv, hs, hh, hn, and_self, if_true]
  rfl

end

/-! ### What a good command leaves (R122) -/

section
variable {s : State} {port : HPort} {table : BitVec 10} {ver : BitVec 16} {p j : Nat} (hc : ctrlAccess s port = some p)
  (hb : rdb s p R.TD_STATUS_CMD_BUSY = false) (ht : tableDefined s p table.toNat = true)
include hc hb ht

theorem install_result (hj : j < 4) (h : slotState s p table.toNat j = 0) (hlow : ∀ i, i < j → slotState s p table.toNat i ≠ 0)
    (hnew : ∀ i, i < 4 → slotState s p table.toNat i ≠ 0 → newerVer ver.toNat (rd s p R.TABLE_DESC_SLOT_VER table.toNat i) = true) :
    ∃ u, exec (.install port table ver) s = .next u
      ∧ OnlyRegs s u [fieldKey R.TABLE_DESC_SLOT_VER p table.toNat j, fieldKey R.TABLE_DESC_SLOT_STATE p table.toNat j, fieldKey R.TD_STATUS_CMD_RESULT p 0 0]
      ∧ rd u p R.TABLE_DESC_SLOT_VER table.toNat j = ver.toNat ∧ slotState u p table.toNat j = 1 ∧ rd u p R.TD_STATUS_CMD_RESULT = 0 := by
  have hd : ([⟨R.TABLE_DESC_SLOT_VER, ver.toNat, table.toNat, j⟩, ⟨R.TABLE_DESC_SLOT_STATE, 1, table.toNat, j⟩,
      ⟨R.TD_STATUS_CMD_RESULT, 0, 0, 0⟩].map (FieldVal.key p)).Nodup := by
    simp [FieldVal.key, fieldKey, R.TABLE_DESC_SLOT_VER, R.TABLE_DESC_SLOT_STATE, R.TD_STATUS_CMD_RESULT]
    omega
  exact ⟨_, install_takes hc hb ht hj h hlow hnew, wrAll_onlyRegs .., (rd_wrAll hd s 0).trans (Nat.mod_eq_of_lt ver.isLt),
    rd_wrAll hd s 1, rd_wrAll hd s 2⟩

theorem seal_result (h : 0 < stepDiff (rd s p R.TD_ARG_CMD_STEP) (rd s p R.ST_NOW_STEP))
    (hv : verSlot s p table.toNat ver.toNat = some j) (hs : slotState s p table.toNat j = 1) :
    ∃ u, exec (.seal port table ver) s = .next u
      ∧ OnlyRegs s u [fieldKey R.TABLE_DESC_SLOT_STATE p table.toNat j, fieldKey R.TABLE_DESC_SLOT_STEP p table.toNat j,
          fieldKey R.TABLE_DESC_NEXT_VALID p table.toNat 0, fieldKey R.TABLE_DESC_NEXT_VER p table.toNat 0,
          fieldKey R.TABLE_DESC_NEXT_STEP p table.toNat 0, fieldKey R.TD_STATUS_CMD_RESULT p 0 0]
      ∧ slotState u p table.toNat j = 2 ∧ rd u p R.TABLE_DESC_SLOT_STEP table.toNat j = rd s p R.TD_ARG_CMD_STEP % 2 ^ 48
      ∧ rd u p R.TABLE_DESC_NEXT_VALID table.toNat = 1 ∧ rd u p R.TABLE_DESC_NEXT_VER table.toNat = ver.toNat
      ∧ rd u p R.TABLE_DESC_NEXT_STEP table.toNat = rd s p R.TD_ARG_CMD_STEP % 2 ^ 48 ∧ rd u p R.TD_STATUS_CMD_RESULT = 0 := by
  have hj := verSlot_lt hv
  have hd : ([⟨R.TABLE_DESC_SLOT_STATE, 2, table.toNat, j⟩, ⟨R.TABLE_DESC_SLOT_STEP, rd s p R.TD_ARG_CMD_STEP, table.toNat, j⟩,
      ⟨R.TABLE_DESC_NEXT_VALID, 1, table.toNat, 0⟩, ⟨R.TABLE_DESC_NEXT_VER, ver.toNat, table.toNat, 0⟩,
      ⟨R.TABLE_DESC_NEXT_STEP, rd s p R.TD_ARG_CMD_STEP, table.toNat, 0⟩, ⟨R.TD_STATUS_CMD_RESULT, 0, 0, 0⟩].map (FieldVal.key p)).Nodup := by
    simp [FieldVal.key, fieldKey, R.TABLE_DESC_SLOT_STATE, R.TABLE_DESC_SLOT_STEP, R.TABLE_DESC_NEXT_VALID, R.TABLE_DESC_NEXT_VER,
      R.TABLE_DESC_NEXT_STEP, R.TD_STATUS_CMD_RESULT]
    omega
  exact ⟨_, seal_pends hc hb ht h hv hs, wrAll_onlyRegs .., rd_wrAll hd s 0, rd_wrAll hd s 1,
    rd_wrAll hd s 2,
    (rd_wrAll hd s 3).trans (Nat.mod_eq_of_lt ver.isLt),
    rd_wrAll hd s 4, rd_wrAll hd s 5⟩

theorem abort_result (hv : verSlot s p table.toNat ver.toNat = some j)
    (hs : slotState s p table.toNat j = 1 ∨ slotState s p table.toNat j = 2) :
    ∃ u, exec (.abort port table ver) s = .next u
      ∧ OnlyRegs s u [fieldKey R.TABLE_DESC_SLOT_STATE p table.toNat j, fieldKey R.TABLE_DESC_SLOT_STEP p table.toNat j,
          fieldKey R.TABLE_DESC_NEXT_VALID p table.toNat 0, fieldKey R.TD_STATUS_CMD_RESULT p 0 0]
      ∧ slotState u p table.toNat j = 0 ∧ rd u p R.TABLE_DESC_SLOT_STEP table.toNat j = 0
      ∧ rd u p R.TABLE_DESC_NEXT_VALID table.toNat = (if rd s p R.TABLE_DESC_NEXT_VER table.toNat = ver.toNat then 0
          else rd s p R.TABLE_DESC_NEXT_VALID table.toNat)
      ∧ rd u p R.TD_STATUS_CMD_RESULT = 0 := by
  have hj := verSlot_lt hv
  have hd : ([⟨R.TABLE_DESC_SLOT_STATE, 0, table.toNat, j⟩, ⟨R.TABLE_DESC_SLOT_STEP, 0, table.toNat, j⟩,
      ⟨R.TABLE_DESC_NEXT_VALID, 0, table.toNat, 0⟩, ⟨R.TD_STATUS_CMD_RESULT, 0, 0, 0⟩].map (FieldVal.key p)).Nodup := by
    simp [FieldVal.key, fieldKey, R.TABLE_DESC_SLOT_STATE, R.TABLE_DESC_SLOT_STEP, R.TABLE_DESC_NEXT_VALID, R.TD_STATUS_CMD_RESULT]
    omega
  refine ⟨_, abort_frees hc hb ht hv hs, ?_⟩
  by_cases hn : rd s p R.TABLE_DESC_NEXT_VER table.toNat = ver.toNat
  · rw [if_pos hn, if_pos hn]
    exact ⟨wrAll_onlyRegs .., rd_wrAll hd s 0, rd_wrAll hd s 1, rd_wrAll hd s 2, rd_wrAll hd s 3⟩
  · rw [if_neg hn, if_neg hn]
    have hd3 : ([⟨R.TABLE_DESC_SLOT_STATE, 0, table.toNat, j⟩, ⟨R.TABLE_DESC_SLOT_STEP, 0, table.toNat, j⟩,
        ⟨R.TD_STATUS_CMD_RESULT, 0, 0, 0⟩].map (FieldVal.key p)).Nodup := hd.sublist (.cons_cons _ (.cons_cons _ (.cons _ (.refl _))))
    have hkept := wrAll_onlyRegs s p
      [⟨R.TABLE_DESC_SLOT_STATE, 0, table.toNat, j⟩, ⟨R.TABLE_DESC_SLOT_STEP, 0, table.toNat, j⟩, ⟨R.TD_STATUS_CMD_RESULT, 0, 0, 0⟩]
    refine ⟨hkept.mono fun k hk => ?_, rd_wrAll hd3 s 0, rd_wrAll hd3 s 1, hkept.2.rd p R.TABLE_DESC_NEXT_VALID table.toNat 0 ?_,
      rd_wrAll hd3 s 2⟩
    · simp only [List.map_cons, List.map_nil, List.mem_cons, List.not_mem_nil, or_false] at hk ⊢
      tauto
    · exact (List.nodup_cons.1 ((List.nodup_middle (l₁ := [_, _])).1 hd)).1

theorem free_result (hv : verSlot s p table.toNat ver.toNat = some j) (hs : slotState s p table.toNat j = 6) :
    ∃ u, exec (.free port table ver) s = .next u
      ∧ OnlyRegs s u [fieldKey R.TABLE_DESC_SLOT_STATE p table.toNat j, fieldKey R.TABLE_DESC_SLOT_STEP p table.toNat j,
          fieldKey R.TABLE_DESC_SLOT_VER p table.toNat j, fieldKey R.TABLE_DESC_INFLIGHT p table.toNat j, fieldKey R.TD_STATUS_CMD_RESULT p 0 0]
      ∧ slotState u p table.toNat j = 0 ∧ rd u p R.TABLE_DESC_SLOT_STEP table.toNat j = 0 ∧ rd u p R.TABLE_DESC_SLOT_VER table.toNat j = 0
      ∧ rd u p R.TABLE_DESC_INFLIGHT table.toNat j = 0 ∧ rd u p R.TD_STATUS_CMD_RESULT = 0 := by
  have hj := verSlot_lt hv
  have hd : ([⟨R.TABLE_DESC_SLOT_STATE, 0, table.toNat, j⟩, ⟨R.TABLE_DESC_SLOT_STEP, 0, table.toNat, j⟩, ⟨R.TABLE_DESC_SLOT_VER, 0, table.toNat, j⟩,
      ⟨R.TABLE_DESC_INFLIGHT, 0, table.toNat, j⟩, ⟨R.TD_STATUS_CMD_RESULT, 0, 0, 0⟩].map (FieldVal.key p)).Nodup := by
    simp [FieldVal.key, fieldKey, R.TABLE_DESC_SLOT_STATE, R.TABLE_DESC_SLOT_STEP, R.TABLE_DESC_SLOT_VER, R.TABLE_DESC_INFLIGHT,
      R.TD_STATUS_CMD_RESULT]
    omega
  exact ⟨_, free_clears hc hb ht hv hs, wrAll_onlyRegs .., rd_wrAll hd s 0, rd_wrAll hd s 1, rd_wrAll hd s 2, rd_wrAll hd s 3, rd_wrAll hd s 4⟩

theorem activate_result (hv : verSlot s p table.toNat ver.toNat = some j) (hs : slotState s p table.toNat j = 2)
    (hh : isHold s p = true) (hn : ∀ i, i < 4 → slotState s p table.toNat i ≠ 3) :
    ∃ u, exec (.activate port table ver) s = .next u
      ∧ OnlyRegs s u [fieldKey R.TABLE_DESC_SLOT_STATE p table.toNat j, fieldKey R.TABLE_DESC_SLOT_STEP p table.toNat j,
          fieldKey R.TABLE_DESC_CUR_VER p table.toNat 0, fieldKey R.TABLE_DESC_CUR_VALID p table.toNat 0,
          fieldKey R.TABLE_DESC_NEXT_VALID p table.toNat 0, fieldKey R.TD_STATUS_CMD_RESULT p 0 0]
      ∧ slotState u p table.toNat j = 3 ∧ rd u p R.TABLE_DESC_CUR_VER table.toNat = ver.toNat
      ∧ rd u p R.TABLE_DESC_CUR_VALID table.toNat = 1 ∧ rd u p R.TABLE_DESC_NEXT_VALID table.toNat = 0 ∧ rd u p R.TD_STATUS_CMD_RESULT = 0 := by
  have hj := verSlot_lt hv
  have hd : ([⟨R.TABLE_DESC_SLOT_STATE, 3, table.toNat, j⟩, ⟨R.TABLE_DESC_SLOT_STEP, 0, table.toNat, j⟩,
      ⟨R.TABLE_DESC_CUR_VER, ver.toNat, table.toNat, 0⟩, ⟨R.TABLE_DESC_CUR_VALID, 1, table.toNat, 0⟩, ⟨R.TABLE_DESC_NEXT_VALID, 0, table.toNat, 0⟩,
      ⟨R.TD_STATUS_CMD_RESULT, 0, 0, 0⟩].map (FieldVal.key p)).Nodup := by
    simp [FieldVal.key, fieldKey, R.TABLE_DESC_SLOT_STATE, R.TABLE_DESC_SLOT_STEP, R.TABLE_DESC_CUR_VER, R.TABLE_DESC_CUR_VALID,
      R.TABLE_DESC_NEXT_VALID, R.TD_STATUS_CMD_RESULT]
    omega
  exact ⟨_, activate_makes_current hc hb ht hv hs hh (currentSlot_eq_none.2 hn), wrAll_onlyRegs .., rd_wrAll hd s 0,
    (rd_wrAll hd s 2).trans (Nat.mod_eq_of_lt ver.isLt), rd_wrAll hd s 3, rd_wrAll hd s 4, rd_wrAll hd s 5⟩

end

end Sys2Proof.Machine
end

section
/-!
SUPPORT. What units touch when they send, read afar and count (R158, R316, R322): messages and frames on their way, notes of faults, load
counters, and registers that belong to no partition.
-/

open Sys2Proof

namespace Sys2Proof.Machine

/-- From s to u messages have left and reads have been counted; every register of a partition and every memory is as before. -/
structure Sends (s u : State) : Prop where
  frame : u = { s with regs := u.regs, outbox := u.outbox, sess := u.sess, wire := u.wire, fabWait := u.fabWait, faultQ := u.faultQ,
                       hostReads := u.hostReads, shardCnt := u.shardCnt }
  part  : ∀ d k, k < 4 * 2 ^ 40 → mapGet d u.regs k = mapGet d s.regs k

/-- The place of a field of a partition's own. -/
theorem partKey_lt {p : Nat} (hp : p < 4) {f : Reg} (hf : f.pkg = false) {i j : Nat}
    (hb : 8 * (f.base + i * f.stride + j * f.stride2) + f.lsb < 2 ^ 40) : fieldKey f p i j < 4 * 2 ^ 40 := by
  simp only [fieldKey, hf, Bool.false_eq_true, if_false]
  omega

namespace Sends

theorem refl (s : State) : Sends s s := ⟨rfl, fun _ _ _ => rfl⟩

theorem trans {s u v : State} (h : Sends s u) (h' : Sends u v) : Sends s v := by
  refine ⟨?_, fun d k hk => (h'.part d k hk).trans (h.part d k hk)⟩
  have := h'.frame
  rw [h.frame] at this
  exact this

/-- A change beside the registers. -/
theorem of_frame {s u : State} (h : u = { s with outbox := u.outbox, sess := u.sess, wire := u.wire, fabWait := u.fabWait, faultQ := u.faultQ,
                                                 hostReads := u.hostReads, shardCnt := u.shardCnt }) : Sends s u := by
  have hr : u.regs = s.regs := by rw [h]
  exact ⟨by rw [hr]; exact h, fun _ _ _ => by rw [hr]⟩

theorem foldl {α : Type} {k : State → α → State} (h : ∀ s x, Sends s (k s x)) (l : List α) (s : State) : Sends s (l.foldl k s) := by
  induction l generalizing s with
  | nil => exact refl s
  | cons x l ih => exact (h s x).trans (ih _)

theorem of_routed {s u : State} (h : Routed s u) : Sends s u := by
  obtain ⟨hframe, hregs⟩ := h
  refine ⟨by rw [hframe], fun d k hk => hregs d k (fun f he => ?_) (fun f i he => ?_)⟩ <;>
    · simp only [fieldKey, R.FP_STATUS_SESS_UP, R.FP_PEER_OPEN, if_true] at he
      omega

theorem rd {s u : State} (h : Sends s u) {p : Nat} (hp : p < 4) {f : Reg} (hf : f.pkg = false) {i j : Nat}
    (hb : 8 * (f.base + i * f.stride + j * f.stride2) + f.lsb < 2 ^ 40) : Machine.rd u p f i j = Machine.rd s p f i j :=
  h.part _ _ (partKey_lt hp hf hb)

theorem ownNode {s u : State} (h : Sends s u) {p : Nat} (hp : p < 4) : ownNode u p = ownNode s p := h.rd hp rfl (by decide)

theorem hasRoute {s u : State} (h : Sends s u) {p n : Nat} (hp : p < 4) (hn : n < 4096) : hasRoute u p n = hasRoute s p n := by
  have : Machine.rd u p R.ROUTE_VALID n = Machine.rd s p R.ROUTE_VALID n := h.rd hp rfl (by simp only [R.ROUTE_VALID]; omega)
  simp only [Machine.hasRoute, rdb, this]

theorem kept {s u : State} (h : Sends s u) : u.mode = s.mode ∧ u.safe = s.safe ∧ u.sram = s.sram ∧ u.hbm = s.hbm ∧ u.tiles = s.tiles := by
  rw [h.frame]
  exact ⟨rfl, rfl, rfl, rfl, rfl⟩

end Sends

theorem sends_sendFault (s : State) (m : FaultMsg) : Sends s (sendFault s m) := .of_frame rfl

theorem sends_post (s : State) (p : Nat) (b : Body) (unit msgId : Nat) : Sends s (post s p b unit msgId) :=
  (Sends.of_frame rfl : Sends s { s with outbox := s.outbox ++ [⟨p, b⟩] }).trans (.of_routed (routed_post ..))

/-- A message that has no route leaves a note of class F1 only (R322). -/
theorem sends_emit (s : State) (p : Nat) (b : Body) (unit msgId : Nat) : Sends s (emit s p b unit msgId) := by
  unfold emit
  split
  · split
    · exact sends_sendFault ..
    · exact sends_post ..
  · exact sends_post ..

theorem sends_noteRead (s : State) (p : Nat) (x : Space) (n unit msg : Nat) : Sends s (noteRead s p x n unit msg) := by
  unfold noteRead
  split
  · exact sends_post ..
  · split
    · exact .refl s
    · exact .of_frame rfl
  · exact .refl s

/-- The counters of row reads belong to the stacks (R158). -/
theorem sends_countRead (s : State) (k lshard : Nat) (h : Word) : Sends s (countRead s k lshard h) := by
  refine (Sends.of_frame rfl : Sends s { s with shardCnt := (countRead s k lshard h).shardCnt }).trans ⟨rfl, fun d x hx => ?_⟩
  refine regsKept_wr _ 4 R.BUCKET_READS _ k (h.toNat / 2 ^ 52) d x ?_
  simp only [List.mem_singleton, fieldKey, R.BUCKET_READS, if_true]
  omega

end Sys2Proof.Machine
end

section
/-!
SUPPORT. Retirement of a version (R122, R165): the engines of the partition free its Redirect entries and tell their partners.
-/

open Sys2Proof Sys2Proof.Machine Sys2Proof.Claims

namespace Sys2Proof.Machine

theorem redirects_setRedirects_same (s : State) (k : Nat) (l : List RedirectEnt) : mapGet [] (setRedirects s none k l).redirects k = l := by
  change mapGet [] (if l.isEmpty then mapErase s.redirects k else mapSet s.redirects k l) k = l
  split
  · next h => rw [mapGet_mapErase_same, List.isEmpty_iff.1 h]
  · exact mapGet_mapSet_same ..

theorem redirects_setRedirects_ne (s : State) {k k' : Nat} (h : k ≠ k') (l : List RedirectEnt) :
    mapGet [] (setRedirects s none k l).redirects k' = mapGet [] s.redirects k' := by
  change mapGet [] (if l.isEmpty then mapErase s.redirects k else mapSet s.redirects k l) k' = _
  split
  · exact mapGet_mapErase_ne _ _ h
  · exact mapGet_mapSet_ne _ _ _ h

theorem sends_redirectEcho (s : State) (p k row table ver kind : Nat) (home : Nat × Nat × Nat) :
    Sends s (redirectEcho s p k row table ver kind home) := by
  unfold redirectEcho
  split
  · split
    · exact sends_emit ..
    · exact .refl s
  · exact .refl s

/-- Engine k holds no Redirect entry of version v of table t. -/
def NoRedirect (t v k : Nat) (s : State) : Prop := ∀ e ∈ mapGet [] s.redirects k, ¬ (e.table = t ∧ e.ver = v)

/-- Engine k tells its partner which entries of the version it frees. -/
def freeEchoes (p t v : Nat) (s : State) (k : Nat) : State :=
  ((mapGet [] s.redirects k).filter (fun e => e.table == t && e.ver == v)).foldl
    (fun s e => redirectEcho s p k e.row t v 3 (e.node, e.stack, e.lshard)) s

/-- Engine k frees the Redirect entries of a version. -/
def freeEntries (p t v : Nat) (s : State) (k : Nat) : State :=
  if ((mapGet [] s.redirects k).filter (fun e => e.table == t && e.ver == v)).isEmpty then freeEchoes p t v s k
  else setRedirects (freeEchoes p t v s k) none k
    ((mapGet [] (freeEchoes p t v s k).redirects k).filter (fun e => !(e.table == t && e.ver == v)))

/-- Engine k frees its Redirect entries and its batches of a version: one step of `freeVersion`. -/
def freeEngine (p t v : Nat) (s : State) (k : Nat) : State :=
  let u := freeEntries p t v s k
  { u with batches := u.batches.filter (fun b => !(b.stack == k && b.rows.any (fun r => r.table == t && r.ver == v))) }

theorem freeVersion_eq (s : State) (p t v : Nat) : freeVersion s p t v = (stacksOf s p).foldl (freeEngine p t v) s := rfl

theorem sends_freeEchoes (p t v : Nat) (s : State) (k : Nat) : Sends s (freeEchoes p t v s k) :=
  .foldl (fun s (e : RedirectEnt) => sends_redirectEcho s p k e.row t v 3 (e.node, e.stack, e.lshard)) _ s

theorem redirects_freeEchoes (p t v : Nat) (s : State) (k : Nat) : (freeEchoes p t v s k).redirects = s.redirects := by
  rw [(sends_freeEchoes p t v s k).frame]

theorem noRedirect_freeEngine (p t v : Nat) (s : State) (k : Nat) : NoRedirect t v k (freeEngine p t v s k) := by
  change NoRedirect t v k (freeEntries p t v s k)
  intro e he ⟨ht, hv⟩
  unfold freeEntries at he
  split at he
  · next h =>
    rw [redirects_freeEchoes] at he
    exact List.filter_eq_nil_iff.1 (List.isEmpty_iff.1 h) e he (by simp [ht, hv])
  · rw [redirects_setRedirects_same] at he
    simpa [ht, hv] using (List.mem_filter.1 he).2

theorem freeEngine_noRedirect {p t v k' : Nat} {s : State} (h : NoRedirect t v k' s) (k : Nat) : NoRedirect t v k' (freeEngine p t v s k) := by
  by_cases hk : k = k'
  · subst hk
    exact noRedirect_freeEngine p t v s k
  · change NoRedirect t v k' (freeEntries p t v s k)
    unfold NoRedirect freeEntries
    split
    · rw [redirects_freeEchoes]; exact h
    · rw [redirects_setRedirects_ne _ hk, redirects_freeEchoes]; exact h

/-- After the retirement no engine of the partition holds an entry of the version. -/
theorem noRedirect_freeVersion (s : State) (p t v k : Nat) (hk : k ∈ stacksOf s p) : NoRedirect t v k (freeVersion s p t v) := by
  rw [freeVersion_eq]
  generalize stacksOf s p = l at hk
  have hkeep : ∀ (l : List Nat) (s : State), NoRedirect t v k s → NoRedirect t v k (l.foldl (freeEngine p t v) s) := fun l => by
    induction l with
    | nil => exact fun _ h => h
    | cons x l ih => exact fun s h => ih _ (freeEngine_noRedirect h x)
  induction l generalizing s with
  | nil => cases hk
  | cons x l ih =>
    rcases List.mem_cons.1 hk with rfl | hk
    · exact hkeep l _ (noRedirect_freeEngine p t v s k)
    · exact ih _ hk

/-- What the retirement leaves alone. -/
structure RetireKept (s u : State) : Prop where
  mem  : u.sram = s.sram ∧ u.hbm = s.hbm ∧ u.tiles = s.tiles
  part : ∀ d k, k < 4 * 2 ^ 40 → mapGet d u.regs k = mapGet d s.regs k

theorem retireKept_freeEngine (p t v : Nat) (s : State) (k : Nat) : RetireKept s (freeEngine p t v s k) := by
  suffices RetireKept s (freeEntries p t v s k) from ⟨this.mem, this.part⟩
  have h := sends_freeEchoes p t v s k
  obtain ⟨-, -, hmem⟩ := h.kept
  unfold freeEntries
  split
  · exact ⟨hmem, h.part⟩
  · refine ⟨hmem, fun d x hx => (regsKept_wr _ 4 R.REDIRECT_USE_ACTIVE_CNT _ k 0 d x ?_).trans (h.part d x hx)⟩
    simp only [List.mem_singleton, fieldKey, R.REDIRECT_USE_ACTIVE_CNT, if_true]
    omega

theorem retireKept_freeVersion (s : State) (p t v : Nat) : RetireKept s (freeVersion s p t v) := by
  rw [freeVersion_eq]
  generalize stacksOf s p = l
  induction l generalizing s with
  | nil => exact ⟨⟨rfl, rfl, rfl⟩, fun _ _ _ => rfl⟩
  | cons x l ih =>
    obtain ⟨⟨hsram, hhbm, htiles⟩, hpart⟩ := retireKept_freeEngine p t v s x
    obtain ⟨⟨hsram', hhbm', htiles'⟩, hpart'⟩ := ih _
    exact ⟨⟨hsram'.trans hsram, hhbm'.trans hhbm, htiles'.trans htiles⟩, fun d k hk => (hpart' d k hk).trans (hpart d k hk)⟩

theorem versionRetire_result {q : Part} {table : BitVec 10} {slot : Fin 4} {s : State} (hc : clocked s q = true) (hq : q.val < partCount s.mode)
    (hs : slotState s q table.toNat slot = 5) (hi : rd s q R.TABLE_DESC_INFLIGHT table.toNat slot = 0)
    (hstep : 0 < stepDiff (rd s q R.ST_NOW_STEP) (rd s q R.TABLE_DESC_SLOT_STEP table.toNat slot)) :
    ∃ u, exec (.versionRetire q table slot) s = .next u ∧ slotState u q table.toNat slot = 6
      ∧ (∀ k, k < 24 → partOfStack s k = q.val → ∀ e ∈ mapGet [] u.redirects k,
          ¬ (e.table = table.toNat ∧ e.ver = rd s q R.TABLE_DESC_SLOT_VER table.toNat slot))
      ∧ u.sram = s.sram ∧ u.hbm = s.hbm ∧ u.tiles = s.tiles := by
  have hexec : exec (.versionRetire q table slot) s = .next (freeVersion (setSlotState s q table.toNat slot 6) q table.toNat
      (rd s q R.TABLE_DESC_SLOT_VER table.toNat slot)) := by
    change Host.Outcome.next _ = _
    simp only [hc, hq, hs, hi, hstep, decide_true, BEq.rfl, Bool.and_self, if_true]
  obtain ⟨hmem, hpart⟩ := retireKept_freeVersion (setSlotState s q table.toNat slot 6) q table.toNat (rd s q R.TABLE_DESC_SLOT_VER table.toNat slot)
  refine ⟨_, hexec, (hpart _ _ (partKey_lt q.isLt rfl ?_)).trans (rd_wr_same ..), fun k hk hp => ?_, hmem⟩
  · simp only [R.TABLE_DESC_SLOT_STATE]
    omega
  · exact noRedirect_freeVersion _ _ _ _ k (List.mem_filter.2 ⟨List.mem_range.2 hk, decide_eq_true hp⟩)

/-- Settles O25: a good command writes fields at different places, a refused one its result alone; every engine's Redirect table is clear of
a retired version, and stays so. -/
theorem versionCommands : Obligations.version_commands := by
  refine ⟨fun port table ver p s hc => ⟨fun hb c hm => ?_, fun hb ht c hm => ?_, fun hb ht => ⟨fun j hj h hlow =>
    ⟨install_result hc hb ht hj h hlow, fun i hi hs hn => install_reports_order hc hb ht hj h hlow hi hs hn⟩,
    install_reports_full hc hb ht, seal_reports_step hc hb ht, fun hv => ?_, fun j hv => ?_⟩⟩,
    fun q table slot s hc hq hs hi hstep => versionRetire_result hc hq hs hi hstep⟩
  · obtain ⟨body, hbody⟩ := exec_tdCommands hm
    rw [hbody, tdCommand_busy hc hb]
  · obtain ⟨body, hbody⟩ := exec_tdCommands hm
    exact reports_of (hbody.trans (congrArg _ (tdCommand_undefined hc hb ht body))) (by decide)
  · have hnone : ∀ {P : Nat → Prop} j, verSlot s p table.toNat ver.toNat = some j → P j := fun j hj => by rw [hv] at hj; cases hj
    exact ⟨fun h => seal_reports_state hc hb ht h hnone, abort_reports_state hc hb ht hnone, free_reports_state hc hb ht hnone,
      activate_reports_state hc hb ht hnone⟩
  · have hsome : ∀ {P : Nat → Prop}, P j → ∀ i, verSlot s p table.toNat ver.toNat = some i → P i := fun h i hi => by
      rw [hv, Option.some.injEq] at hi
      exact hi ▸ h
    refine ⟨fun h => seal_result hc hb ht h hv, fun h hs => seal_reports_state hc hb ht h (hsome hs), abort_result hc hb ht hv,
      fun h1 h2 => abort_reports_state hc hb ht (hsome ⟨h1, h2⟩), free_result hc hb ht hv, fun h => free_reports_state hc hb ht (hsome h),
      activate_result hc hb ht hv, fun h => activate_reports_state hc hb ht (hsome fun ⟨h2, hh, hn⟩ => ?_)⟩
    rcases h with h | h | ⟨i, hi, h3⟩
    · exact h h2
    · rw [h] at hh; cases hh
    · exact currentSlot_eq_none.1 hn i hi h3

end Sys2Proof.Machine
end

section
/-!
SUPPORT. Maps used as sets, and the counts of a version that requests take and release (R121).
-/

open Sys2Proof

namespace Sys2Proof.Machine

/-! ### Distinct keys in ascending order -/

theorem mem_keys_mapSet {β : Type} (m : NatMap β) (i x : Nat) (v : β) : x ∈ (mapSet m i v).map (·.1) ↔ x = i ∨ x ∈ m.map (·.1) := by
  induction m with
  | nil => simp [mapSet]
  | cons y m ih =>
    obtain ⟨k, w⟩ := y
    simp only [mapSet]
    split
    · simp
    · split
      · next h => simp [h]
      · simp only [List.map_cons, List.mem_cons, ih]
        tauto

/-- The keys of the elements of a list, each once. -/
def keySet {α : Type} (f : α → Option Nat) (l : List α) : NatMap Unit :=
  l.foldl (fun m x => match f x with | some k => mapSet m k () | none => m) []

theorem mem_keySet {α : Type} (f : α → Option Nat) (l : List α) (k : Nat) : k ∈ (keySet f l).map (·.1) ↔ ∃ x ∈ l, f x = some k := by
  have h (l : List α) (m : NatMap Unit) : k ∈ (l.foldl (fun m x => match f x with | some k => mapSet m k () | none => m) m).map (·.1)
      ↔ (∃ x ∈ l, f x = some k) ∨ k ∈ m.map (·.1) := by
    induction l generalizing m with
    | nil => simp
    | cons x l ih =>
      rw [List.foldl_cons, ih]
      cases hx : f x with
      | none => simp [hx]
      | some i =>
        simp only [mem_keys_mapSet, List.mem_cons, exists_eq_or_imp, hx, Option.some.injEq]
        rw [eq_comm (a := k), or_assoc, or_left_comm]
  simpa [keySet] using h l []

/-! ### The count of a version's slot -/

theorem holdVer_onlyRegs (s : State) (p t n j : Nat) : OnlyRegs s (holdVer s p t n (some j)) [fieldKey R.TABLE_DESC_INFLIGHT p t j] :=
  onlyRegs_wr ..

theorem releaseVer_frame (s : State) (p t n : Nat) (o : Option Nat) : releaseVer s p t n o = { s with regs := (releaseVer s p t n o).regs } := by
  cases o <;> rfl

/-- A field outside the descriptors of the tables. -/
theorem rd_holdVer {s : State} {p t n j : Nat} (hp : p < 4) (ht : t < 1024) (hj : j < 4) (q : Nat) (f : Reg) {i i' : Nat}
    (hf : f.pkg = true ∨ (f.pkg = false ∧ 8 * (f.base + i * f.stride + i' * f.stride2) + f.lsb < 8 * 0xa10000)) :
    rd (holdVer s p t n (some j)) q f i i' = rd s q f i i' := by
  refine (holdVer_onlyRegs s p t n j).2.rd q f i i' ?_
  rcases hf with hf | ⟨hf, hb⟩ <;>
    simp only [List.mem_singleton, fieldKey, hf, R.TABLE_DESC_INFLIGHT, Bool.false_eq_true, if_false, if_true] <;> omega

/-- A field of a table's descriptor other than the slots' counts. -/
theorem rd_holdVer_desc {s : State} {p t n j : Nat} (f : Reg) (hf : f.pkg = false ∧ f.stride = 0x80) {i : Nat} (hj : j < 4)
    (hb : 8 * f.base + f.lsb < 8 * 0xa10020) (hb' : 8 * 0xa10000 ≤ 8 * f.base + f.lsb) :
    rd (holdVer s p t n (some j)) p f i = rd s p f i := by
  refine (holdVer_onlyRegs s p t n j).2.rd p f i 0 ?_
  simp only [List.mem_singleton, fieldKey, hf.1, hf.2, R.TABLE_DESC_INFLIGHT, Bool.false_eq_true, if_false]
  omega

end Sys2Proof.Machine
end

section
/-!
SUPPORT. What a request finds once its version is held, and what a message that can leave puts into the outbox.
-/

open Sys2Proof Sys2Proof.Machine Sys2Proof.Claims

namespace Sys2Proof.Machine

/-! ### Messages -/

theorem outbox_emit {s : State} {p n : Nat} (h : CanReach s p n) {b : Body} (hb : bodyNode b = some n) (unit msgId : Nat) :
    (emit s p b unit msgId).outbox = s.outbox ++ [⟨p, b⟩] := by
  rw [(routed_emit h hb unit msgId).frame]

theorem Sends.canReach {s u : State} (h : Sends s u) {p n : Nat} (hp : p < 4) (hn : n < 4096) (hr : CanReach s p n) : CanReach u p n := by
  simpa only [CanReach, h.ownNode hp, h.hasRoute hp hn] using hr

theorem Sends.runs {s u : State} (h : Sends s u) : u.looks = s.looks ∧ u.ownRuns = s.ownRuns ∧ u.msgSeq = s.msgSeq := by
  rw [h.frame]
  exact ⟨rfl, rfl, rfl⟩

/-- From s to u message b of partition p has left; no run of an owner, no memory and no tile has changed. -/
structure Answered (s u : State) (p : Nat) (b : Body) : Prop where
  outbox : u.outbox = s.outbox ++ [⟨p, b⟩]
  runs   : u.ownRuns = s.ownRuns
  mem    : u.sram = s.sram ∧ u.hbm = s.hbm ∧ u.tiles = s.tiles

/-- After reads have been counted the answer leaves and a version is released. -/
theorem answered_emit {s u : State} (h : Sends s u) (ho : u.outbox = s.outbox) {p n : Nat} (hp : p < 4) (hn : n < 4096) (hr : CanReach s p n)
    {b : Body} (hb : bodyNode b = some n) (unit msgId t c : Nat) (slot : Option Nat) :
    Answered s (releaseVer (emit u p b unit msgId) p t c slot) p b := by
  have hall := h.trans (sends_emit u p b unit msgId)
  obtain ⟨-, hruns, -⟩ := hall.runs
  obtain ⟨-, -, hmem⟩ := hall.kept
  rw [releaseVer_frame]
  exact ⟨(outbox_emit (h.canReach hp hn hr) hb ..).trans (by rw [ho]), hruns, hmem⟩

/-! ### A version that is held -/

theorem tblWidth_holdVer (s : State) (p t n : Nat) {j : Nat} (hj : j < 4) (i : Nat) : tblWidth (holdVer s p t n (some j)) p i = tblWidth s p i :=
  congrArg _ (rd_holdVer_desc R.TABLE_DESC_WIDTH_32 ⟨rfl, rfl⟩ hj (by decide) (by decide))

section
variable {s : State} {p t n j : Nat} (hp : p < 4) (ht : t < 1024) (hj : j < 4)
include hp ht hj

theorem ownNode_holdVer : ownNode (holdVer s p t n (some j)) p = ownNode s p :=
  rd_holdVer hp ht hj p R.FAB_NODE_NODE_ID (.inr ⟨rfl, by decide⟩)

theorem canReach_holdVer {x : Nat} (hx : x < 4096) (hr : CanReach s p x) : CanReach (holdVer s p t n (some j)) p x := by
  have : rd (holdVer s p t n (some j)) p R.ROUTE_VALID x = rd s p R.ROUTE_VALID x :=
    rd_holdVer hp ht hj p _ (.inr ⟨rfl, by simp only [R.ROUTE_VALID]; omega⟩)
  simpa only [CanReach, ownNode_holdVer hp ht hj, hasRoute, rdb, this] using hr

/-- The checks of R97 and R100 read no count. -/
theorem rowShardFor_holdVer (k l table ver row idx digest : Nat) :
    rowShardFor (holdVer s p t n (some j)) p k l table ver row idx digest = rowShardFor s p k l table ver row idx digest := by
  have hdesc {f : Reg} (hf : f.pkg = false ∧ f.stride = 0x80) (hb : 8 * f.base + f.lsb < 8 * 0xa10020) (hb' : 8 * 0xa10000 ≤ 8 * f.base + f.lsb) :
      rd (holdVer s p t n (some j)) p f table = rd s p f table := rd_holdVer_desc f hf hj hb hb'
  have hwidth := hdesc (f := R.TABLE_DESC_WIDTH_32) ⟨rfl, rfl⟩ (by decide) (by decide)
  have hfmt := hdesc (f := R.TABLE_DESC_FMT) ⟨rfl, rfl⟩ (by decide) (by decide)
  have hopt := hdesc (f := R.TABLE_DESC_OPT) ⟨rfl, rfl⟩ (by decide) (by decide)
  have hcnt := hdesc (f := R.TABLE_DESC_SHARD_CNT) ⟨rfl, rfl⟩ (by decide) (by decide)
  have hseed := hdesc (f := R.TABLE_DESC_HASH_SEED) ⟨rfl, rfl⟩ (by decide) (by decide)
  have hkey : rd (holdVer s p t n (some j)) p R.HBM_KEY_STATE_STATE = rd s p R.HBM_KEY_STATE_STATE :=
    rd_holdVer hp ht hj p _ (.inr ⟨rfl, by decide⟩)
  have hbase : rd (holdVer s p t n (some j)) 4 R.SHARD_DIR_BASE_SD_BASE k = rd s 4 R.SHARD_DIR_BASE_SD_BASE k :=
    rd_holdVer hp ht hj 4 _ (.inl rfl)
  have hhbm : (holdVer s p t n (some j)).hbm = s.hbm := rfl
  have hpoison : (holdVer s p t n (some j)).poison = s.poison := rfl
  have hgood (o : Nat) : blockGood (holdVer s p t n (some j)) k o = blockGood s k o := by
    simp only [blockGood, unpoisoned, hbmKnown, hhbm, hpoison]
  have hread (a m : Nat) : hbmRead (holdVer s p t n (some j)) a m = hbmRead s a m := rfl
  have hdigest : tblDigest (holdVer s p t n (some j)) p table = tblDigest s p table := by
    simp only [tblDigest, tblFmt, hwidth, hfmt, hopt, hcnt, hseed]
  have hshard : rowShard (holdVer s p t n (some j)) p table row = rowShard s p table row := by
    simp only [rowShard, rowHash, tblSeed, hcnt, hseed]
  unfold rowShardFor shardFor tableDefined keyLoaded tblFmt tblWidth
  simp only [hwidth, hfmt, hkey, hbase, hdigest, hshard, hgood, hread]

theorem homeChecks_holdVer (m : LookupReq) : homeChecks (holdVer s p t n (some j)) p m = homeChecks s p m := by
  simp only [homeChecks, rowShardFor_holdVer hp ht hj]

end

end Sys2Proof.Machine
end

section
/-!
SUPPORT. The owner of looked-up rows (R100 to R103, R108, R110, R123): a request waits, is answered, or goes on to the engines its rows moved to.
-/

open Sys2Proof Sys2Proof.Machine Sys2Proof.Claims

namespace Sys2Proof.Machine

/-- A version that serves is held by one of the four slots. -/
theorem ownerVer_lt {s : State} {p t v j : Nat} (h : ownerVer s p t v = .ok j) : j < 4 := by
  unfold ownerVer at h
  split at h
  · next i hi =>
    split at h
    · cases h
    · cases h; exact verSlot_lt hi
  · cases h

/-! ### Rows that moved -/

/-- The engine to which an entry goes on, as one number. -/
def fwdHome : RowHit → Option Nat
  | .forward _ r => some (32 * r.node + r.stack)
  | _ => none

theorem fwdTargets_eq (hits : List RowHit) : fwdTargets hits = (keySet fwdHome hits).map (fun x => (x.1 / 32, x.1 % 32)) := by
  unfold fwdTargets keySet
  congr 2
  funext m h
  cases h <;> rfl

theorem fwdTargets_isEmpty (hits : List RowHit) : (fwdTargets hits).isEmpty = true ↔ ∀ h ∈ hits, ∀ x r, h ≠ .forward x r := by
  rw [fwdTargets_eq, List.isEmpty_iff, List.map_eq_nil_iff, ← List.map_eq_nil_iff (f := (·.1)), List.eq_nil_iff_forall_not_mem]
  simp only [mem_keySet, not_exists, not_and]
  refine ⟨fun h x hx y r he => h (32 * r.node + r.stack) x hx (he ▸ rfl), fun h k x hx he => ?_⟩
  cases x with
  | forward y r => exact h _ hx y r rfl
  | value => cases he
  | absent => cases he

/-! ### Serving a request -/

theorem sends_countHits (s : State) (p k table : Nat) (hits : List RowHit) : Sends s (countHits s p k table hits) :=
  .foldl (fun s _ => sends_countRead s k _ _) _ s

/-- The reply of the home: what its own rows give, with the counts of the absent and of the moved ones (R108, R110, R111). -/
def homeReply (s : State) (p : Nat) (m : LookupReq) (hits : List RowHit) : LookupResp :=
  { msgId := m.msgId, node := BitVec.ofNat 12 (ownNode s p), stack := m.stack, status := 0
    data := poolData m.pool.toNat m.wtFp32 (tblWidth s p m.table.toNat) m.entries hits
    absent := absentCount hits
    redirect := (hits.filter (fun h => match h with | .forward .. => true | _ => false)).length }

theorem serveLook_eq (s : State) (p : Nat) (m : LookupReq) (slot : Option Nat) (hits : List RowHit) : serveLook s p m slot hits =
    (let u := countHits s p m.stack.toNat m.table.toNat hits
     if (fwdTargets hits).isEmpty then releaseVer (emit u p (.lookupResp m.src.toNat (homeReply u p m hits))) p m.table.toNat 1 slot
     else
       let v := (fwdTargets hits).foldl (fun s h => emit s p (.fwdReq h.1 (fwdReqFor s p m hits h))) u
       { v with ownRuns := v.ownRuns ++ [⟨p, slot, m, fwdTargets hits, [homeReply u p m hits]⟩] }) := rfl

theorem countHits_outbox (s : State) (p k table : Nat) (hits : List RowHit) : (countHits s p k table hits).outbox = s.outbox := by
  unfold countHits
  generalize hits.filterMap hitValue = l
  induction l generalizing s with
  | nil => rfl
  | cons v l ih => exact ih _

theorem homeReply_countHits {s : State} {p : Nat} (hp : p < 4) (m : LookupReq) (hits : List RowHit) (k table : Nat) (l : List RowHit) :
    homeReply (countHits s p k table l) p m hits = homeReply s p m hits := by
  have hcount := sends_countHits s p k table l
  have hw : rd (countHits s p k table l) p R.TABLE_DESC_WIDTH_32 m.table.toNat = rd s p R.TABLE_DESC_WIDTH_32 m.table.toNat :=
    hcount.rd hp rfl (by simp only [R.TABLE_DESC_WIDTH_32]; omega)
  simp only [homeReply, hcount.ownNode hp, tblWidth, hw]

section
variable {s : State} {p : Nat} {m : LookupReq} {slot : Option Nat} {hits : List RowHit} (hp : p < 4)
include hp

/-- No row has moved: the reply leaves at once, and the version is released. -/
theorem serveLook_answers (hr : CanReach s p m.src.toNat) (h : ∀ x ∈ hits, ∀ y r, x ≠ .forward y r) :
    Answered s (serveLook s p m slot hits) p (.lookupResp m.src.toNat (homeReply s p m hits)) := by
  rw [serveLook_eq]
  dsimp only
  rw [if_pos ((fwdTargets_isEmpty hits).2 h), homeReply_countHits hp]
  exact answered_emit (sends_countHits ..) (countHits_outbox ..) hp m.src.isLt hr rfl ..

/-- Rows have moved: a run waits for their engines. -/
theorem serveLook_forwards (h : ∃ x ∈ hits, ∃ y r, x = .forward y r) :
    (serveLook s p m slot hits).ownRuns = s.ownRuns ++ [⟨p, slot, m, fwdTargets hits, [homeReply s p m hits]⟩]
      ∧ (serveLook s p m slot hits).sram = s.sram ∧ (serveLook s p m slot hits).hbm = s.hbm := by
  have hmoved : ¬ (fwdTargets hits).isEmpty = true := fun he => by
    obtain ⟨x, hx, y, r, hxr⟩ := h
    exact (fwdTargets_isEmpty hits).1 he x hx y r hxr
  have hsent := (sends_countHits s p m.stack.toNat m.table.toNat hits).trans
    (Sends.foldl (k := fun u x => emit u p (.fwdReq x.1 (fwdReqFor u p m hits x))) (fun _ _ => sends_emit ..) (fwdTargets hits) _)
  obtain ⟨-, -, hsram, hhbm, -⟩ := hsent.kept
  obtain ⟨-, hruns, -⟩ := hsent.runs
  rw [serveLook_eq]
  dsimp only
  rw [if_neg hmoved, homeReply_countHits hp]
  exact ⟨congrArg (· ++ _) hruns, hsram, hhbm⟩

end

/-! ### A request arrives -/

section
variable {s : State} {p : Part} (hr : running s p = true) (hs : suEnabled s p = true)
include hr hs

theorem exec_lookupRequestReceive {m : LookupReq} (ho : ownStack s p m.stack.toNat = true) :
    exec (.lookupRequestReceive p m .none) s = .next (ownerTake s p m .none) := by
  refine congrArg Host.Outcome.next ((holdFrame_of_running hr ..).trans ?_)
  simp only [hr, hs, ho, eccOfStack, Bool.not_true, Bool.false_eq_true, if_false]

/-- A request that must wait for its stack or for a row is kept, its version held. -/
theorem lookupRequest_waits {m : LookupReq} {j : Nat} (ho : ownStack s p m.stack.toNat = true) (hv : ownerVer s p m.table.toNat m.ver.toNat = .ok j)
    (hw : engineWaits s m.stack.toNat = true ∨ (homeChecks s p m = none ∧
      ∃ x ∈ m.entries, rowWaits s m.stack.toNat m.table.toNat x.row.toNat m.step.toNat = true)) :
    exec (.lookupRequestReceive p m .none) s = .next { holdVer s p m.table.toNat 1 (some j) with
      waitReqs := s.waitReqs ++ [(p.val, .look m (some j))] } := by
  rw [exec_lookupRequestReceive hr hs ho, ownerTake]
  by_cases he : engineWaits s m.stack.toNat = true
  · simp only [he, hv, if_true]
    rfl
  · obtain ⟨hc, hrow⟩ := hw.resolve_left he
    simp only [he, hv, hc, List.any_eq_true.2 hrow, Bool.false_eq_true, if_false, if_true]
    rfl

/-- One that need not wait is served with its version held. -/
theorem lookupRequest_serves {m : LookupReq} {j : Nat} {hits : List RowHit} (ho : ownStack s p m.stack.toNat = true)
    (hv : ownerVer s p m.table.toNat m.ver.toNat = .ok j) (he : engineWaits s m.stack.toNat = false)
    (hrow : ∀ x ∈ m.entries, rowWaits s m.stack.toNat m.table.toNat x.row.toNat m.step.toNat = false)
    (hh : homeEntries (holdVer s p m.table.toNat 1 (some j)) p m = .ok hits) :
    exec (.lookupRequestReceive p m .none) s = .next (serveLook (holdVer s p m.table.toNat 1 (some j)) p m (some j) hits) := by
  have hany : m.entries.any (fun x => rowWaits s m.stack.toNat m.table.toNat x.row.toNat m.step.toNat) = false :=
    List.any_eq_false.2 fun x hx => by simp [hrow x hx]
  have hc : homeChecks s p m = none := by
    rw [← homeChecks_holdVer p.isLt m.table.isLt (ownerVer_lt hv) (n := 1)]
    unfold homeEntries at hh
    split at hh
    · cases hh
    · assumption
  rw [exec_lookupRequestReceive hr hs ho, ownerTake]
  simp only [he, hv, hc, hany, Bool.false_eq_true, if_false, ownerServe, hh]

/-! ### A forwarded request arrives -/

theorem forwardedRequest_waits {m : FwdReq} {j : Nat} (ho : ownStack s p m.stack.toNat = true) (hv : ownerVer s p m.table.toNat m.ver.toNat = .ok j)
    (he : engineWaits s m.stack.toNat = true) :
    exec (.forwardedRequestReceive p m .none) s = .next { holdVer s p m.table.toNat 1 (some j) with
      waitReqs := s.waitReqs ++ [(p.val, .fwd m (some j))] } := by
  have hwait : engineWaits (holdVer s p m.table.toNat 1 (some j)) m.stack.toNat = true :=
    (congrArg (· == 1) (rd_holdVer p.isLt m.table.isLt (ownerVer_lt hv) 4 R.TG_CTRL_RUNNING (.inl rfl))).trans he
  refine congrArg Host.Outcome.next ((holdFrame_of_running hr ..).trans ?_)
  simp only [hr, hs, ho, hv, hwait, Bool.not_true, Bool.false_eq_true, if_false, if_true]
  rfl

/-- One that need not wait is served with its version held. -/
theorem forwardedRequest_serves {m : FwdReq} {j : Nat} (ho : ownStack s p m.stack.toNat = true) (hv : ownerVer s p m.table.toNat m.ver.toNat = .ok j)
    (he : engineWaits s m.stack.toNat = false) :
    exec (.forwardedRequestReceive p m .none) s = .next (fwdServe (holdVer s p m.table.toNat 1 (some j)) p m (some j) .none) := by
  have hwait : engineWaits (holdVer s p m.table.toNat 1 (some j)) m.stack.toNat = false :=
    (congrArg (· == 1) (rd_holdVer p.isLt m.table.isLt (ownerVer_lt hv) 4 R.TG_CTRL_RUNNING (.inl rfl))).trans he
  refine congrArg Host.Outcome.next ((holdFrame_of_running hr ..).trans ?_)
  simp only [hr, hs, ho, hv, hwait, Bool.not_true, Bool.false_eq_true, if_false, eccOfStack]

end

/-- The partial of a serving engine (R102, R108). -/
def partialOf (s : State) (p : Nat) (m : FwdReq) (hits : List RowHit) : LookupResp :=
  { msgId := m.msgId, node := BitVec.ofNat 12 (ownNode s p), stack := m.stack, status := 0
    data := poolData m.pool.toNat m.wtFp32 (tblWidth s p m.table.toNat) m.entries hits, absent := 0, redirect := 0 }

theorem fwdServe_answers {s : State} {p : Nat} (hp : p < 4) {m : FwdReq} {slot : Option Nat} {hits : List RowHit}
    (hh : m.entries.mapM (fwdEntry s p m.stack.toNat m.table.toNat m.ver.toNat) = .ok hits) (hr : CanReach s p m.home.toNat) :
    Answered s (fwdServe s p m slot .none) p (.partialResp m.home.toNat (partialOf s p m hits)) := by
  have hserve : fwdServe s p m slot .none = releaseVer (emit (countHits s p m.stack.toNat m.table.toNat hits) p
      (.partialResp m.home.toNat (partialOf s p m hits))) p m.table.toNat 1 slot := by
    simp only [fwdServe, hh]
    rfl
  rw [hserve]
  exact answered_emit (sends_countHits ..) (countHits_outbox ..) hp m.home.isLt hr (by rfl) ..

/-! ### A partial arrives -/

/-- The reply of a run whose last partial is m: the merged partials, or the worst of their statuses (R108, R112). -/
def mergedReply (run : OwnRun) (m : LookupResp) : LookupResp :=
  let got := run.got ++ [m]
  let bad := worstStatus (got.map (fun r => r.status.toNat))
  let base := got.headD (failResp m.msgId 0 0 0)
  if bad = St.OK then mergePartials run.req.pool.toNat base (got.drop 1) else { base with status := BitVec.ofNat 8 bad, data := [] }

section
variable {s : State} {p : Part} (hr : running s p = true) {m : LookupResp} {run : OwnRun}
  (hf : s.ownRuns.find? (fun x => x.part == p.val && x.req.msgId == m.msgId && x.waiting.contains (m.node.toNat, m.stack.toNat)) = some run)
include hr hf

theorem forwardedPartial_kept (hw : run.waiting.filter (fun h => h != (m.node.toNat, m.stack.toNat)) ≠ []) :
    exec (.forwardedPartialReceive p m) s = .next { s with ownRuns := s.ownRuns.filter (fun x => x != run) ++
      [{ run with waiting := run.waiting.filter (fun h => h != (m.node.toNat, m.stack.toNat)), got := run.got ++ [m] }] } := by
  have hmore : (run.waiting.filter (fun h => h != (m.node.toNat, m.stack.toNat))).isEmpty = false := by simpa [List.isEmpty_iff] using hw
  refine congrArg Host.Outcome.next ((holdFrame_of_running hr ..).trans ?_)
  simp only [hr, hf, hmore, if_true, Bool.false_eq_true, if_false]

/-- The last partial of a run: its reply leaves, and the version is released. -/
theorem forwardedPartial_last (hw : run.waiting.filter (fun h => h != (m.node.toNat, m.stack.toNat)) = []) :
    exec (.forwardedPartialReceive p m) s = .next (releaseVer (emit { s with ownRuns := s.ownRuns.filter (fun x => x != run) } p
      (.lookupResp run.req.src.toNat (mergedReply run m))) p run.req.table.toNat 1 run.slot) := by
  refine congrArg Host.Outcome.next ((holdFrame_of_running hr ..).trans ?_)
  simp only [hr, hf, hw, if_true, List.isEmpty_nil]
  rfl

end

/-- Settles O23: what a request reads does not depend on the count of its version; the answer is the one message that leaves after the reads
have been counted. -/
theorem ownerResults : Obligations.owner_results := by
  refine fun p s hr hs => ⟨fun m j ho hv => ⟨fun hw => ?_, fun hits he hrow hh hc => ⟨fun hnone => ?_, fun hsome => ?_⟩⟩,
    fun m j ho hv => ⟨fun he => ?_, fun hits he hh hc => ?_⟩, fun m run hf => ⟨forwardedPartial_kept hr hf, fun hw hc => ?_⟩⟩
  · exact ⟨_, lookupRequest_waits hr hs ho hv hw, rfl, rfl, (holdVer_onlyRegs ..).2⟩
  · obtain ⟨houtbox, hruns, hsram, hhbm, htiles⟩ := serveLook_answers (slot := some j) (m := m) p.isLt
      (canReach_holdVer p.isLt m.table.isLt (ownerVer_lt hv) m.src.isLt hc) hnone
    have hredirect : (hits.filter (fun h => match h with | .forward .. => true | _ => false)).length = 0 := by
      rw [List.length_eq_zero_iff, List.filter_eq_nil_iff]
      intro h hh
      cases h with
      | forward y r => exact absurd rfl (hnone _ hh y r)
      | value => simp
      | absent => simp
    refine ⟨_, _, lookupRequest_serves hr hs ho hv he hrow hh, houtbox, rfl, rfl, rfl, ?_, rfl, hredirect, ?_, hruns, hsram, hhbm, htiles⟩
    · simp only [homeReply, ownNode_holdVer p.isLt m.table.isLt (ownerVer_lt hv), BitVec.toNat_ofNat]
    · simp only [homeReply, tblWidth_holdVer _ _ _ _ (ownerVer_lt hv)]
  · obtain ⟨hruns, hsram, hhbm⟩ := serveLook_forwards (s := holdVer s p m.table.toNat 1 (some j)) (slot := some j) (m := m) p.isLt hsome
    exact ⟨_, _, lookupRequest_serves hr hs ho hv he hrow hh, hruns, rfl, rfl, rfl, rfl, rfl, hsram, hhbm⟩
  · exact ⟨_, forwardedRequest_waits hr hs ho hv he, rfl, rfl, (holdVer_onlyRegs ..).2⟩
  · obtain ⟨houtbox, -, hsram, hhbm, -⟩ := fwdServe_answers (slot := some j) p.isLt hh
      (canReach_holdVer p.isLt m.table.isLt (ownerVer_lt hv) m.home.isLt hc)
    refine ⟨_, _, forwardedRequest_serves hr hs ho hv he, houtbox, rfl, rfl, ?_, hsram, hhbm⟩
    simp only [partialOf, tblWidth_holdVer _ _ _ _ (ownerVer_lt hv)]
  · obtain ⟨houtbox, hruns, hsram, hhbm, -⟩ := answered_emit (.refl { s with ownRuns := s.ownRuns.filter (fun x => x != run) }) rfl p.isLt
      run.req.src.isLt hc (b := .lookupResp run.req.src.toNat (mergedReply run m)) rfl _ _ run.req.table.toNat 1 run.slot
    exact ⟨_, _, forwardedPartial_last hr hf hw, hruns, houtbox, hsram, hhbm⟩

end Sys2Proof.Machine
end

section
/-!
SUPPORT. Hot-row fetches (R117 to R119): the read at the owner, the reply at the requester, and the end of a die's fetch.
-/

open Sys2Proof Sys2Proof.Machine Sys2Proof.Claims

namespace Sys2Proof.Machine

/-! ### The read at the owner -/

section
variable {s : State} {p : Part} {m : HotRead} {j : Nat} (hr : running s p = true) (hs : suEnabled s p = true)
  (ho : ownStack s p m.home.stack.toNat = true) (hv : ownerVer s p m.table.toNat m.ver.toNat = .ok j)
include hr hs ho hv

/-- A read that must wait for its stack or for its row is kept, its version held. -/
theorem hotRead_waits (hw : engineWaits s m.home.stack.toNat = true ∨ rowWaits s m.home.stack.toNat m.table.toNat m.row.toNat m.fetchStep.toNat = true) :
    exec (.hotrowFetchReadReceive p m .none) s = .next { holdVer s p m.table.toNat 1 (some j) with
      waitReqs := s.waitReqs ++ [(p.val, .hot m (some j))] } := by
  have hwait : (engineWaits s m.home.stack.toNat || rowWaits s m.home.stack.toNat m.table.toNat m.row.toNat m.fetchStep.toNat) = true := by
    rw [Bool.or_eq_true]
    exact hw
  refine congrArg Host.Outcome.next ((holdFrame_of_running hr ..).trans ?_)
  simp only [hr, hs, ho, hv, hwait, Bool.not_true, Bool.false_eq_true, if_false, if_true]
  rfl

theorem hotRead_serves (he : engineWaits s m.home.stack.toNat = false)
    (hrow : rowWaits s m.home.stack.toNat m.table.toNat m.row.toNat m.fetchStep.toNat = false) :
    exec (.hotrowFetchReadReceive p m .none) s = .next (hotServeRead s p m .none) := by
  refine congrArg Host.Outcome.next ((holdFrame_of_running hr ..).trans ?_)
  simp only [hr, hs, ho, hv, he, hrow, Bool.or_self, Bool.not_true, Bool.false_eq_true, if_false, eccOfStack]

end

/-- The shard in which a fetch read looks for its row: the serving engine takes the one that the Redirect entry names (R101). -/
def hotShard (s : State) (p : Nat) (m : HotRead) : Except EngErr Shard :=
  if m.fwd = true then shardFor s p m.home.stack.toNat m.home.lshard.toNat m.table.toNat m.ver.toNat m.shard.toNat
  else rowShardFor s p m.home.stack.toNat m.home.lshard.toNat m.table.toNat m.ver.toNat m.row.toNat m.shard.toNat m.digest.toNat

/-- A read that a Redirect entry sends on. -/
def hotMoved (m : HotRead) (r : RedirectEnt) : HotRead :=
  { m with fwd := true, home := ⟨BitVec.ofNat 12 r.node, BitVec.ofNat 5 r.stack, BitVec.ofNat 15 r.lshard⟩ }

section
variable {s : State} {p : Nat} {m : HotRead} {d : Shard} (hp : p < 4) (hd : hotShard s p m = .ok d)
include hp hd

theorem hotServeRead_moved {r : RedirectEnt} (hf : m.fwd = false)
    (hm : redirectOf s none m.home.stack.toNat m.row.toNat m.table.toNat m.ver.toNat = some r) (hc : CanReach s p (r.node % 2 ^ 12)) :
    Answered s (hotServeRead s p m .none) p (.hotRead (hotMoved m r)) := by
  have hserve : hotServeRead s p m .none = emit s p (.hotRead (hotMoved m r)) (srcStack m.home.stack.toNat 0) := by
    unfold hotServeRead
    simp only [hotShard, hf, Bool.false_eq_true, if_false] at hd
    simp only [hd, hf, hm, Bool.false_eq_true, if_false]
    rfl
  rw [hserve]
  exact answered_emit (b := .hotRead (hotMoved m r)) (.refl s) rfl hp (Nat.mod_lt _ (by decide)) hc
    (congrArg some (BitVec.toNat_ofNat ..)) _ _ 0 0 none

variable (hm : m.fwd = false → redirectOf s none m.home.stack.toNat m.row.toNat m.table.toNat m.ver.toNat = none)
  (hc : CanReach s p m.src.toNat)
include hm hc

theorem hotServeRead_absent (hf : m.fwd = false)
    (hrec : readRec s m.home.stack.toNat d (rowHash s p m.table.toNat m.row.toNat) m.row.toNat = .ok none) :
    Answered s (hotServeRead s p m .none) p (.hotReply m.src.toNat ⟨m.die, m.set, m.slot, 0, none, []⟩) := by
  have hserve : hotServeRead s p m .none = emit s p (.hotReply m.src.toNat ⟨m.die, m.set, m.slot, 0, none, []⟩) (srcStack m.home.stack.toNat 0) := by
    unfold hotServeRead
    simp only [hotShard, hf, Bool.false_eq_true, if_false] at hd
    simp only [hd, hm hf, hf, hrec, Bool.false_eq_true, if_false]
  rw [hserve]
  exact answered_emit (b := .hotReply ..) (.refl s) rfl hp m.src.isLt hc rfl _ _ 0 0 none

/-- A row last written before the fetch step. -/
theorem hotServeRead_record {f : Found} {bs : List Byte} {book : List (BitVec 16)}
    (hrec : readRec s m.home.stack.toNat d (rowHash s p m.table.toNat m.row.toNat) m.row.toNat = .ok (some (f, bs)))
    (hbook : shardBook s m.home.stack.toNat d = .ok book) (htag : signedOf 32 (recTag bs + 2 ^ 32 - m.fetchStep.toNat % 2 ^ 32) < 0) :
    Answered s (hotServeRead s p m .none) p (.hotReply m.src.toNat ⟨m.die, m.set, m.slot, 0, some bs, book⟩) := by
  have hstay : (if m.fwd = true then none else redirectOf s none m.home.stack.toNat m.row.toNat m.table.toNat m.ver.toNat) = none := by
    split
    · rfl
    · next h => exact hm (Bool.eq_false_iff.2 h)
  have hserve : hotServeRead s p m .none = emit (countRead s m.home.stack.toNat d.lshard (rowHash s p m.table.toNat m.row.toNat)) p
      (.hotReply m.src.toNat ⟨m.die, m.set, m.slot, 0, some bs, book⟩) (srcStack m.home.stack.toNat 0) := by
    unfold hotServeRead
    unfold hotShard at hd
    simp only [hd, hstay, hrec, hbook, Int.not_le.2 htag, if_false]
  rw [hserve]
  exact answered_emit (b := .hotReply ..) (sends_countRead ..) rfl hp m.src.isLt hc rfl _ _ 0 0 none

end

/-! ### The reply at the requester -/

section
variable {s : State} {p : Part} (hr : running s p = true) {m : HotReply} {f : HotFetch}
  (hf : s.fetches.find? (fun x => x.part == p.val && x.die == m.die.val && x.set == m.set.val && x.waiting.contains m.slot) = some f)
include hr hf

theorem hotReply_failed (hm : m.status ≠ 0) : exec (.hotrowFetchReplyReceive p m) s = .next { s with fetches := s.fetches.map (fun x =>
    if x = f then { x with waiting := x.waiting.filter (· != m.slot), failed := true } else x) } := by
  have hbad : (m.status != 0) = true := by simpa using hm
  refine congrArg Host.Outcome.next ((holdFrame_of_running hr ..).trans ?_)
  simp only [hr, hf, hbad, if_true, Bool.or_true, Nat.add_zero]

/-- A record goes to its slot of the inactive buffer, with its codebook unless the table is trainable (R116, R118). -/
theorem hotReply_stored {bs : List Byte} (hm : m.status = 0) (hb : m.record = some bs) :
    exec (.hotrowFetchReplyReceive p m) s = .next { s with
      freeCtr := s.freeCtr + 1
      hotBooks := if tblFmt s p (rd s p R.HOTROW_SET_HR_TABLE f.set) = 1 then mapErase s.hotBooks (hotSlotKey f.die (hotBuf s p f.set false)
          (hotSlots s p f.set) (recSize (tblFmt s p (rd s p R.HOTROW_SET_HR_TABLE f.set)) (tblWidth s p (rd s p R.HOTROW_SET_HR_TABLE f.set))) m.slot)
        else mapSet s.hotBooks (hotSlotKey f.die (hotBuf s p f.set false) (hotSlots s p f.set)
          (recSize (tblFmt s p (rd s p R.HOTROW_SET_HR_TABLE f.set)) (tblWidth s p (rd s p R.HOTROW_SET_HR_TABLE f.set))) m.slot) m.book
      sram := sramCells s.sram (hotSlotKey f.die (hotBuf s p f.set false) (hotSlots s p f.set)
        (recSize (tblFmt s p (rd s p R.HOTROW_SET_HR_TABLE f.set)) (tblWidth s p (rd s p R.HOTROW_SET_HR_TABLE f.set))) m.slot)
        (bs.take (recSize (tblFmt s p (rd s p R.HOTROW_SET_HR_TABLE f.set)) (tblWidth s p (rd s p R.HOTROW_SET_HR_TABLE f.set))))
      fetches := s.fetches.map (fun x => if x = f then { x with waiting := x.waiting.filter (· != m.slot), copied := x.copied + 1 } else x) } := by
  have hgood : (m.status != 0) = false := by simpa using hm
  refine congrArg Host.Outcome.next ((holdFrame_of_running hr ..).trans ?_)
  simp only [hr, hf, hb, hgood, if_true, Bool.false_eq_true, if_false, Bool.or_false, Option.getD_some]
  rfl

end

/-! ### The end of a die's fetch -/

/-- Die d's fetch f leaves the list; FETCHED takes its count when the die is the first of the partition (R118). -/
def fetchCounted (s : State) (p d set : Nat) (f : HotFetch) : State :=
  let s := { s with fetches := s.fetches.filter (fun x => x != f) }
  if (diesOf s p).head? = some d then wr s p R.HOTROW_SET_FETCHED f.copied set else s

/-- FETCH_CTR is signalled for a fetch that did not fail (R119). -/
def fetchSignalled (s : State) (p d set : Nat) (f : HotFetch) : State :=
  if f.failed then s else signalDie s d (rd s p R.HOTROW_SET_FETCH_CTR set) srcTransport

/-- FETCH_BUSY falls with the last die of the set (R118). -/
def fetchIdle (s : State) (p set : Nat) : State :=
  if s.fetches.any (fun x => x.part == p && x.set == set) then s else wr s p R.HOTROW_SET_FETCH_BUSY 0 set

section
variable {s : State} {p : Nat} {d : Die} {set : Fin 32} {f : HotFetch}

theorem fetchCounted_kept : fetchCounted s p d set f = { s with regs := (fetchCounted s p d set f).regs, fetches := s.fetches.filter (fun x => x != f) }
    ∧ RegsKept s (fetchCounted s p d set f) [fieldKey R.HOTROW_SET_FETCHED p set 0] := by
  unfold fetchCounted
  dsimp only
  split
  · exact ⟨rfl, fun a k hk => regsKept_wr { s with fetches := _ } p R.HOTROW_SET_FETCHED f.copied set 0 a k hk⟩
  · exact ⟨rfl, .refl s _⟩

theorem fetchSignalled_incs : fetchSignalled s p d set f = { s with incs := s.incs ++
    if f.failed then [] else [⟨.die d (Fin.ofNat 4096 (rd s p R.HOTROW_SET_FETCH_CTR set)), srcTransport, 1⟩] } := by
  unfold fetchSignalled
  cases f.failed
  · simp [signalDie, issueInc]
  · simp

theorem fetchIdle_kept : OnlyRegs s (fetchIdle s p set) [fieldKey R.HOTROW_SET_FETCH_BUSY p set 0] := by
  unfold fetchIdle
  split
  · exact .refl s _
  · exact onlyRegs_wr ..

theorem fetchIdle_clears (h : ∀ x ∈ s.fetches, x.part ≠ p ∨ x.set ≠ set.val) : rd (fetchIdle s p set) p R.HOTROW_SET_FETCH_BUSY set = 0 := by
  have hany : s.fetches.any (fun x => x.part == p && x.set == set.val) = false := List.any_eq_false.2 fun x hx => by
    rcases h x hx with h | h <;> simp [h]
  simp only [fetchIdle, hany, Bool.false_eq_true, if_false]
  exact rd_wr_same ..

end

theorem hotFetchDone_result {p : Part} {s : State} (hr : running s p = true) {d : Die} {set : Fin 32} {f : HotFetch}
    (hf : s.fetches.find? (fun x => x.part == p.val && x.die == d.val && x.set == set.val && x.waiting.isEmpty) = some f) :
    ∃ u, exec (.hotrowFetchDone p d set) s = .next u ∧ u.fetches = s.fetches.filter (fun x => x != f)
      ∧ u = { s with regs := u.regs, fetches := u.fetches, incs := u.incs }
      ∧ RegsKept s u [fieldKey R.HOTROW_SET_FETCHED p set 0, fieldKey R.HOTROW_SET_FETCH_BUSY p set 0]
      ∧ (f.failed = true → u.incs = s.incs)
      ∧ (f.failed = false → u.incs = s.incs ++ [⟨.die d (Fin.ofNat 4096 (rd s p R.HOTROW_SET_FETCH_CTR set)), srcTransport, 1⟩])
      ∧ ((∀ x ∈ s.fetches, x ≠ f → x.part ≠ p.val ∨ x.set ≠ set.val) → rd u p R.HOTROW_SET_FETCH_BUSY set = 0) := by
  have hexec : exec (.hotrowFetchDone p d set) s = .next (fetchIdle (fetchSignalled (fetchCounted s p d set f) p d set f) p set) := by
    change Host.Outcome.next _ = _
    simp only [hr, hf, if_true]
    rfl
  obtain ⟨hcount, hregs⟩ := fetchCounted_kept (s := s) (p := p) (d := d) (set := set) (f := f)
  have hctr : rd (fetchCounted s p d set f) p R.HOTROW_SET_FETCH_CTR set = rd s p R.HOTROW_SET_FETCH_CTR set := by
    refine hregs.rd p _ set 0 ?_
    simp only [List.mem_singleton, fieldKey, R.HOTROW_SET_FETCH_CTR, R.HOTROW_SET_FETCHED]
    omega
  have hsignal := fetchSignalled_incs (s := fetchCounted s p d set f) (p := p) (d := d) (set := set) (f := f)
  rw [hctr] at hsignal
  obtain ⟨hidle, hbusy⟩ := fetchIdle_kept (s := fetchSignalled (fetchCounted s p d set f) p d set f) (p := p) (set := set)
  have hincs : (fetchIdle (fetchSignalled (fetchCounted s p d set f) p d set f) p set).incs = s.incs ++
      if f.failed then [] else [⟨.die d (Fin.ofNat 4096 (rd s p R.HOTROW_SET_FETCH_CTR set)), srcTransport, 1⟩] := by
    rw [hidle, hsignal, hcount]
  have hleft : (fetchSignalled (fetchCounted s p d set f) p d set f).fetches = s.fetches.filter (fun x => x != f) := by
    rw [hsignal, hcount]
  refine ⟨_, hexec, ?_, ?_, fun a k hk => ?_, fun h => ?_, fun h => ?_, fun h => fetchIdle_clears fun x hx => ?_⟩
  · rw [hidle]; exact hleft
  · rw [hidle, hsignal, hcount]
  · simp only [List.mem_cons, List.not_mem_nil, or_false, not_or] at hk
    refine (hbusy a k (by simpa using hk.2)).trans (.trans ?_ (hregs a k (by simpa using hk.1)))
    rw [hsignal]
  · rw [hincs, h]; simp
  · rw [hincs, h]; simp
  · rw [hleft, List.mem_filter] at hx
    exact h x hx.1 (by simpa using hx.2)

/-- Settles O24: each branch of the read at the owner sends one message; the requester's buffer takes what the reply holds. -/
theorem hotRowResults : Obligations.hot_row_results := by
  refine fun p s hr => ⟨fun m j hs ho hv => ⟨fun hw => ?_, fun d he hrow hd hc => ⟨fun r hf hm hc' => ?_, fun hm => ⟨fun hf hrec => ?_,
    fun f bs book hrec hbook htag => ?_⟩⟩⟩, fun m f bs hf => ⟨hotReply_failed hr hf, hotReply_stored hr hf⟩, fun d set f => hotFetchDone_result hr⟩
  · exact ⟨_, hotRead_waits hr hs ho hv hw, rfl, rfl, (holdVer_onlyRegs ..).2⟩
  · obtain ⟨houtbox, -, hsram, hhbm, -⟩ := hotServeRead_moved p.isLt hd hf hm hc'
    exact ⟨_, hotRead_serves hr hs ho hv he hrow, houtbox, hsram, hhbm⟩
  · obtain ⟨houtbox, -, hsram, hhbm, -⟩ := hotServeRead_absent p.isLt hd hm hc hf hrec
    exact ⟨_, hotRead_serves hr hs ho hv he hrow, houtbox, hsram, hhbm⟩
  · obtain ⟨houtbox, -, hsram, hhbm, -⟩ := hotServeRead_record p.isLt hd hm hc hrec hbook htag
    exact ⟨_, hotRead_serves hr hs ho hv he hrow, houtbox, hsram, hhbm⟩

end Sys2Proof.Machine
end

section
/-!
SUPPORT. The start of a command (R175, R180, R183): the front entry of a queue leaves it and runs.
-/

open Sys2Proof Sys2Proof.Machine Sys2Proof.Claims

namespace Sys2Proof.Machine

theorem partOfTile_lt (s : State) (t : Tile) : partOfTile s t < 4 := by
  have := t.isLt
  unfold partOfTile partOfDie
  split <;> omega

theorem isHold_of_rd {s u : State} {p : Nat} (hsafe : u.safe = s.safe) (hrd : rd u p R.PART_CFG_PART_STATE = rd s p R.PART_CFG_PART_STATE) :
    isHold u p = isHold s p := by
  simp only [isHold, partState, hsafe, hrd]

theorem headEntry_eq_some {s : State} {t q : Nat} {e : QEntry} (h : headEntry s t q = some e) :
    running s (partOfTile s t) = true ∧ (queue s t q).waiting.head? = some e := by
  unfold headEntry at h
  split at h
  · next hc =>
    simp only [Bool.and_eq_true] at hc
    exact ⟨hc.1.1.2, h⟩
  · exact nomatch h

/-- The row of an operation starts its command as its body says, unless the body's work has put the partition into HOLD. -/
theorem engineRow_starts {s s' : State} {t q opc : Nat} {e : QEntry} {r : RunCmd} {defined : Nat → Bool}
    {body : State → QEntry → Option (State × RunCmd)} (h : MayStart s t q opc e) (hd : defined opc = true) (hb : body s e = some (s', r))
    (hh : isHold s' (partOfTile s t) = false) : engineRow s t q opc defined body = startCmd s' t q r := by
  obtain ⟨hhead, hopc, hheader⟩ := h
  simp only [engineRow, hhead, hopc, hd, hheader, hb, hh, Bool.not_true, Bool.false_eq_true, if_false, ne_eq, not_true_eq_false]

theorem queuesOnly_setQueue {s s' : State} {t q : Nat} {x : EngQueue} (ht : s'.tiles = s.tiles) : QueuesOnly s (setQueue s' t q x) t := by
  have hs (t' : Nat) : tile s' t' = tile s t' := congrArg (mapGet default · t') ht
  refine ⟨fun t' h => (tile_setTile_ne s' _ (Ne.symm h)).trans (hs t'), ?_⟩
  simp only [setQueue, tile_setTile_same, hs]

theorem queue_setQueue_same (s : State) (t q : Nat) (x : EngQueue) : queue (setQueue s t q x) t q = x := by
  simp only [queue, setQueue, tile_setTile_same, mapGet_mapSet_same]

theorem queue_setQueue_ne (s : State) (t : Nat) {q q' : Nat} (h : q' ≠ q) (x : EngQueue) : queue (setQueue s t q x) t q' = queue s t q' := by
  simp only [queue, setQueue, tile_setTile_same, mapGet_mapSet_ne _ _ _ (Ne.symm h)]

/-- A front entry whose work has left the tiles alone runs. -/
theorem startCmd_started {s s' : State} {t q : Nat} {e : QEntry} {r : RunCmd} (hhead : headEntry s t q = some e) (ht : s'.tiles = s.tiles)
    (hr : r.cmd = e.cmd) : Started s (startCmd s' t q r) t q e r := by
  have hq (q' : Nat) : queue s' t q' = queue s t q' := by simp only [queue, tile, ht]
  refine ⟨(headEntry_eq_some hhead).2, ?_, fun q' h => ?_, hr⟩
  · rw [← hq q]; exact queue_setQueue_same ..
  · rw [← hq q']; exact queue_setQueue_ne _ _ h _

end Sys2Proof.Machine
end

section
/-!
SUPPORT. The issue of a look-up (R104 to R107, R121): its arrays are read and checked, its requests leave, its version is held.
-/

open Sys2Proof Sys2Proof.Machine Sys2Proof.Claims

namespace Sys2Proof.Machine

/-! ### Checks -/

theorem worstRefuse_eq_none {l : List (Option Refuse)} : worstRefuse l = none ↔ ∀ x ∈ l, x = none := by
  have hnone : worstRefuse l = none ↔ l.filterMap id = [] := by
    have horElse (x : Option Refuse) (f : Unit → Option Refuse) : x.orElse f = none ↔ x = none ∧ f () = none := by cases x <;> simp [Option.orElse]
    simp only [worstRefuse, horElse, List.head?_eq_none_iff]
    exact ⟨fun h => h.2.2, fun h => by simp only [h, List.find?_nil, and_self]⟩
  rw [hnone, List.filterMap_eq_nil_iff]
  rfl

/-- A good descriptor's arrays are read. -/
theorem lookUnread_of_lookStatic {s : State} {p : Nat} {d : LookDesc} (h : lookStatic s p d = none) : lookUnread s p d = false := by
  have hchecks := worstRefuse_eq_none.1 h
  simp only [List.mem_cons, List.not_mem_nil, or_false, forall_eq_or_imp, forall_eq] at hchecks
  obtain ⟨-, -, hbag, hidx, -⟩ := hchecks
  simp [lookUnread, h, hbag, hidx]

theorem resolveVer_lt {s : State} {p table ver j : Nat} {cur : Bool} (h : resolveVer s p table cur ver = .ok j) : j < 4 := by
  unfold resolveVer at h
  split at h
  · exact nomatch h
  · dsimp only at h
    split at h
    · next hv =>
      split at h
      · injection h with h
        exact h ▸ verSlot_lt hv
      · split at h <;> exact nomatch h
    · split at h <;> exact nomatch h

/-! ### What messages that leave do not change -/

namespace Sends

theorem memory {s u : State} (h : Sends s u) : u.sram = s.sram ∧ u.hbm = s.hbm ∧ u.hbmGen = s.hbmGen ∧ u.poison = s.poison := by
  rw [h.frame]
  exact ⟨rfl, rfl, rfl, rfl⟩

theorem readPiece {s u : State} (h : Sends s u) (x : Space) (d n : Nat) (ext : List Byte) : readPiece u x d n ext = readPiece s x d n ext := by
  obtain ⟨hsram, hhbm, hgen, hpoison⟩ := h.memory
  have hclean (key n : Nat) : unpoisoned u key n = unpoisoned s key n := by simp only [unpoisoned, hpoison]
  have hgood (k b : Nat) : blockGood u k b = blockGood s k b := by simp only [blockGood, hclean, hbmKnown, hhbm]
  have hblock (raw : Bool) (k o n : Nat) : readBlock u raw k o n = readBlock s raw k o n := by
    simp only [readBlock, hclean, hgood, hbmRead, hbmGet, hhbm, hgen]
  have hchip (a n : Nat) : sramRead u a n = sramRead s a n := by simp only [sramRead, sramGet, hsram]
  simp only [Machine.readPiece, hblock, hchip]

theorem readArray {s u : State} (h : Sends s u) {p : Nat} (hp : p < 4) (a n : Nat) (ext : List Byte) :
    readArray u p a n ext = readArray s p a n ext := by
  have hspace : devSpace u p a = devSpace s p a := by simp only [devSpace, localSpace, h.ownNode hp]
  have hpieces (x : Space) (l : List (Nat × Nat)) : readPieces u x ext l = readPieces s x ext l := by
    induction l with
    | nil => rfl
    | cons y l ih => simp only [readPieces, h.readPiece, ih]
  simp only [Machine.readArray, devRead, hspace, hpieces]

theorem otherNodes {s u : State} (h : Sends s u) {p : Nat} (hp : p < 4) : otherNodes u p = otherNodes s p := by
  obtain ⟨hmode, -⟩ := h.kept
  have hnode {q : Nat} (hq : q < 4) : Machine.rd u q R.FAB_NODE_NODE_ID = Machine.rd s q R.FAB_NODE_NODE_ID := h.rd hq rfl (by decide)
  have hall : partsAll u = partsAll s := by simp only [partsAll, hmode]
  have hids : ((partsAll s).filter (· != p)).map (fun q => Machine.rd u q R.FAB_NODE_NODE_ID)
      = ((partsAll s).filter (· != p)).map (fun q => Machine.rd s q R.FAB_NODE_NODE_ID) := List.map_congr_left fun q hq => by
    have hlt : q < partCount s.mode := List.mem_range.1 (List.mem_of_mem_filter hq)
    refine hnode (Nat.lt_of_lt_of_le hlt ?_)
    cases s.mode <;> decide
  simp only [Machine.otherNodes, hall, hids, hnode hp]

/-- The checks of an entry (R105). -/
theorem lookRowRefuse {s u : State} (h : Sends s u) {p : Nat} (hp : p < 4) {d : LookDesc} (hd : d.table < 1024) (bs : List Byte) {r : LookRow}
    (hr : r.node < 4096) : lookRowRefuse u p d bs r = lookRowRefuse s p d bs r := by
  obtain ⟨hmode, -⟩ := h.kept
  have hcnt : Machine.rd u p R.TABLE_DESC_SHARD_CNT d.table = Machine.rd s p R.TABLE_DESC_SHARD_CNT d.table :=
    h.rd hp rfl (by simp only [R.TABLE_DESC_SHARD_CNT]; omega)
  simp only [Machine.lookRowRefuse, hcnt, h.ownNode hp, h.otherNodes hp, h.hasRoute hp hr, ownStack, partOfStack, partOfDie, hmode]

end Sends

theorem lookDesc_table_lt (bs : List Byte) : (lookDescOf bs).table < 1024 := Nat.mod_lt _ (by decide)

theorem lookRow_node_lt (offs : List Nat) (bs : List Byte) (k : Nat) : (lookRow offs bs k).node < 4096 := Nat.mod_lt _ (by decide)

theorem lookRow_stack_lt (offs : List Nat) (bs : List Byte) (k : Nat) : (lookRow offs bs k).stack < 32 := Nat.mod_lt _ (by decide)

/-! ### Homes -/

theorem homesOf_eq (rows : List LookRow) :
    homesOf rows = (keySet (fun r : LookRow => some (32 * r.node + r.stack)) rows).map (fun x => (x.1 / 32, x.1 % 32)) := rfl

theorem mem_homesOf {rows : List LookRow} (hr : ∀ x ∈ rows, x.stack < 32) (h : Nat × Nat) : h ∈ homesOf rows ↔ ∃ x ∈ rows, h = (x.node, x.stack) := by
  have hkey {x : LookRow} (hx : x ∈ rows) : ((32 * x.node + x.stack) / 32, (32 * x.node + x.stack) % 32) = (x.node, x.stack) := by
    have := hr x hx
    rw [Prod.mk.injEq]
    omega
  have hmap : homesOf rows = ((keySet (fun r : LookRow => some (32 * r.node + r.stack)) rows).map (·.1)).map (fun k => (k / 32, k % 32)) := by
    rw [homesOf_eq, List.map_map]
    rfl
  rw [hmap, List.mem_map]
  simp only [mem_keySet, Option.some.injEq]
  constructor
  · rintro ⟨k, ⟨x, hx, rfl⟩, rfl⟩
    exact ⟨x, hx, hkey hx⟩
  · rintro ⟨x, hx, rfl⟩
    exact ⟨_, ⟨x, hx, rfl⟩, hkey hx⟩

/-- A copy changes neither the home of an entry nor its place. -/
theorem hotServe_home (s : State) (p die : Nat) (d : LookDesc) (ver : Nat) (r : LookRow) :
    (hotServe s p die d ver r).1.node = r.node ∧ (hotServe s p die d ver r).1.stack = r.stack := by
  unfold hotServe
  split
  · exact ⟨rfl, rfl⟩
  · split <;> exact ⟨rfl, rfl⟩

theorem hotServe_set_lt {s : State} {p die : Nat} {d : LookDesc} {ver : Nat} {r : LookRow} {x : Nat × Bool}
    (h : (hotServe s p die d ver r).2 = some x) : x.1 < 32 := by
  have hset {set key : Nat} {bs : List Byte} (hf : hotFind s p die d.table ver r.row = some (set, key, bs)) : set < 32 := by
    obtain ⟨n, hn, hsome⟩ := List.exists_of_findSome?_eq_some hf
    have hlt : n < 32 := List.mem_range.1 hn
    split at hsome
    · obtain ⟨i, -, hi⟩ := Option.map_eq_some_iff.1 hsome
      have : n = set := congrArg Prod.fst hi
      omega
    · exact nomatch hsome
  unfold hotServe at h
  split at h
  · exact nomatch h
  · next hf =>
    split at h <;>
      · injection h with h
        exact h ▸ hset hf

/-! ### The issue -/

/-- The entries of a look-up as the hot-row sets leave them, each with its set and whether the copy there is corrupt (R117). -/
def lookServed (s : State) (t : Nat) (d : LookDesc) (rows : List LookRow) : List (LookRow × Option (Nat × Bool)) :=
  rows.map (hotServe s (partOfTile s t) (dieOfTile t) d (namedVer s (partOfTile s t) d.table d.useCur d.ver))

/-- The homes of the entries without a copy. -/
def lookHomes (s : State) (t : Nat) (d : LookDesc) (rows : List LookRow) : List (Nat × Nat) :=
  homesOf (((lookServed s t d rows).map (·.1)).filter (fun r => r.hot.isNone))

/-- One request leaves for each home (R107). -/
def lookAsked (s : State) (t : Nat) (d : LookDesc) (rows : List LookRow) : State :=
  (lookHomes s t d rows).foldl (fun u h => emit u (partOfTile s t) (.lookupReq h.1 (reqFor u (partOfTile s t) t d s.msgSeq.toNat
    (namedVer s (partOfTile s t) d.table d.useCur d.ver) (rd u (partOfTile s t) R.ST_NOW_STEP) ((lookServed s t d rows).map (·.1)) h))) s

/-- HITS of each set whose copies were good (R117). -/
def hitsCounted (s : State) (p : Nat) (hits : List (Nat × Bool)) : State :=
  (hits.filter (fun x => !x.2)).foldl (fun s x => wrAdd s p R.HOTROW_SET_HITS 1 x.1) s

/-- The requests have left, the version is held and the hits are counted. -/
def lookCounted (s : State) (t : Nat) (d : LookDesc) (j : Nat) (rows : List LookRow) : State :=
  hitsCounted (holdVer (tickFree (lookAsked s t d rows)) (partOfTile s t) d.table 1 (some j)) (partOfTile s t) ((lookServed s t d rows).filterMap (·.2))

/-- The look-up that waits for its replies. -/
def lookRun (s : State) (t : Nat) (desc : List Byte) (d : LookDesc) (j : Nat) (rows : List LookRow) : LookRun :=
  { tile := t, msgId := s.msgSeq.toNat, desc := desc, slot := some j, ver := namedVer s (partOfTile s t) d.table d.useCur d.ver
    width := tblWidth s (partOfTile s t) d.table, bags := d.bags, rows := (lookServed s t d rows).map (·.1), waiting := lookHomes s t d rows
    replies := [], fault := none
    status := if ((lookServed s t d rows).filterMap (·.2)).any (·.2) then St.CHECKSUM_MISMATCH else St.OK }

theorem lookIssue_eq (s : State) (t : Nat) (e : QEntry) (desc : List Byte) (d : LookDesc) (j : Nat) (rows : List LookRow) :
    lookIssue s t e desc d j rows =
      ({ lookCounted s t d j rows with looks := (lookCounted s t d j rows).looks ++ [lookRun s t desc d j rows]
                                       msgSeq := (lookCounted s t d j rows).msgSeq + 1 },
        lookCmd e s.msgSeq.toNat (outSpans s (partOfTile s t) d (tblWidth s (partOfTile s t) d.table))) := rfl

theorem sends_lookAsked (s : State) (t : Nat) (d : LookDesc) (rows : List LookRow) : Sends s (lookAsked s t d rows) :=
  .foldl (fun _ _ => sends_emit ..) _ _

theorem hitsCounted_onlyRegs (s : State) (p : Nat) {hits : List (Nat × Bool)} (h : ∀ x ∈ hits, x.1 < 32) :
    OnlyRegs s (hitsCounted s p hits) ((List.range 32).map (fieldKey R.HOTROW_SET_HITS p · 0)) :=
  .foldl (fun u x hx => (onlyRegs_wr ..).mono fun k hk => by
    rw [List.mem_singleton] at hk
    exact hk ▸ List.mem_map.2 ⟨x.1, List.mem_range.2 (h x (List.mem_of_mem_filter hx)), rfl⟩) _

section
variable {s : State} {t : Tile} {d : LookDesc} {j : Nat} (rows : List LookRow)

theorem lookServed_set_lt : ∀ x ∈ (lookServed s t d rows).filterMap (·.2), x.1 < 32 := fun x hx => by
  obtain ⟨y, hy, hyx⟩ := List.mem_filterMap.1 hx
  obtain ⟨r, -, rfl⟩ := List.mem_map.1 hy
  exact hotServe_set_lt hyx

/-- Beside the registers only messages and the source of free values have changed. -/
theorem lookCounted_kept (s : State) (t : Tile) (d : LookDesc) (j : Nat) :
    (lookCounted s t d j rows).looks = s.looks ∧ (lookCounted s t d j rows).msgSeq = s.msgSeq ∧ (lookCounted s t d j rows).tiles = s.tiles
      ∧ (lookCounted s t d j rows).sram = s.sram ∧ (lookCounted s t d j rows).hbm = s.hbm ∧ (lookCounted s t d j rows).safe = s.safe := by
  have hsends := sends_lookAsked s t d rows
  obtain ⟨hlooks, -, hseq⟩ := hsends.runs
  obtain ⟨-, hsafe, hsram, hhbm, htiles⟩ := hsends.kept
  obtain ⟨hframe, -⟩ := hitsCounted_onlyRegs (holdVer (tickFree (lookAsked s t d rows)) (partOfTile s t) d.table 1 (some j)) (partOfTile s t)
    (lookServed_set_lt rows)
  unfold lookCounted
  rw [hframe]
  exact ⟨hlooks, hseq, htiles, hsram, hhbm, hsafe⟩

/-- HITS is no field of a table's descriptor. -/
theorem rd_lookCounted_inflight (hd : d.table < 1024) (hj : j < 4) : rd (lookCounted s t d j rows) (partOfTile s t) R.TABLE_DESC_INFLIGHT d.table j
    = min (rd s (partOfTile s t) R.TABLE_DESC_INFLIGHT d.table j + 1) (2 ^ 32 - 1) := by
  have hp := partOfTile_lt s t
  obtain ⟨-, hhits⟩ := hitsCounted_onlyRegs (holdVer (tickFree (lookAsked s t d rows)) (partOfTile s t) d.table 1 (some j)) (partOfTile s t)
    (lookServed_set_lt rows)
  have hother : fieldKey R.TABLE_DESC_INFLIGHT (partOfTile s t) d.table j ∉ (List.range 32).map (fieldKey R.HOTROW_SET_HITS (partOfTile s t) · 0) := by
    simp only [List.mem_map, List.mem_range, fieldKey, R.TABLE_DESC_INFLIGHT, R.HOTROW_SET_HITS, Bool.false_eq_true, if_false, not_exists, not_and]
    omega
  have hsent : rd (lookAsked s t d rows) (partOfTile s t) R.TABLE_DESC_INFLIGHT d.table j = rd s (partOfTile s t) R.TABLE_DESC_INFLIGHT d.table j :=
    (sends_lookAsked s t d rows).rd hp rfl (by simp only [R.TABLE_DESC_INFLIGHT]; omega)
  calc rd (lookCounted s t d j rows) (partOfTile s t) R.TABLE_DESC_INFLIGHT d.table j
    _ = rd (holdVer (tickFree (lookAsked s t d rows)) (partOfTile s t) d.table 1 (some j)) (partOfTile s t) R.TABLE_DESC_INFLIGHT d.table j :=
        hhits.rd _ _ _ _ hother
    _ = min (rd (lookAsked s t d rows) (partOfTile s t) R.TABLE_DESC_INFLIGHT d.table j + 1) (2 ^ 32 - 1) % 2 ^ 32 := rd_wr_same ..
    _ = _ := by rw [hsent]; omega

theorem isHold_lookCounted (hd : d.table < 1024) (hj : j < 4) : isHold (lookCounted s t d j rows) (partOfTile s t) = isHold s (partOfTile s t) := by
  have hp := partOfTile_lt s t
  obtain ⟨-, -, -, -, -, hsafe⟩ := lookCounted_kept rows s t d j
  obtain ⟨-, hhits⟩ := hitsCounted_onlyRegs (holdVer (tickFree (lookAsked s t d rows)) (partOfTile s t) d.table 1 (some j)) (partOfTile s t)
    (lookServed_set_lt rows)
  refine isHold_of_rd hsafe ((hhits.rd _ _ _ _ ?_).trans ((rd_holdVer hp hd hj _ _ (.inr ⟨rfl, by decide⟩)).trans
    ((sends_lookAsked s t d rows).rd hp rfl (by decide))))
  simp only [List.mem_map, List.mem_range, fieldKey, R.PART_CFG_PART_STATE, R.HOTROW_SET_HITS, Bool.false_eq_true, if_false, not_exists, not_and]
  omega

/-- The homes that a look-up waits for (R107). -/
theorem mem_lookHomes (hrows : ∀ x ∈ rows, x.stack < 32) (h : Nat × Nat) : h ∈ lookHomes s t d rows ↔
    ∃ x ∈ (lookServed s t d rows).map (·.1), x.hot = none ∧ h = (x.node, x.stack) := by
  have hstack : ∀ x ∈ ((lookServed s t d rows).map (·.1)).filter (fun r => r.hot.isNone), x.stack < 32 := fun x hx => by
    obtain ⟨y, hy, rfl⟩ := List.mem_map.1 (List.mem_of_mem_filter hx)
    obtain ⟨r, hr, rfl⟩ := List.mem_map.1 hy
    rw [(hotServe_home ..).2]
    exact hrows r hr
  simp only [lookHomes, mem_homesOf hstack, List.mem_filter, Option.isNone_iff_eq_none, and_assoc]

end

/-- The reads of a look-up's arrays leave. -/
def lookReads (s : State) (t : Nat) (d : LookDesc) : State :=
  noteRead (noteRead s (partOfTile s t) (devSpace s (partOfTile s t) d.bagAddr) (4 * (d.bags + 1)) (srcTile t 4)) (partOfTile s t)
    (devSpace s (partOfTile s t) d.idxAddr) (16 * d.idx) (srcTile t 4)

theorem sends_lookReads (s : State) (t : Nat) (d : LookDesc) : Sends s (lookReads s t d) := (sends_noteRead ..).trans (sends_noteRead ..)

/-- A look-up whose descriptor, arrays, entries and version are good. -/
structure LookGood (s : State) (t : Tile) (e : QEntry) (ext : List Byte) (d : LookDesc) (a j : Nat) (bb ib : List Byte) : Prop where
  operand : spOperand e.cmd 64 64 = some a
  tail    : cbs e.cmd 16 16 = 0
  desc    : d = lookDescOf (sramRead s (spKey t a) 64)
  static  : lookStatic s (partOfTile s t) d = none
  bagFree : devTgBusy s (devSpace s (partOfTile s t) d.bagAddr) (4 * (d.bags + 1)) = false
  idxFree : devTgBusy s (devSpace s (partOfTile s t) d.idxAddr) (16 * d.idx) = false
  bags    : readArray s (partOfTile s t) d.bagAddr (4 * (d.bags + 1)) ext = .ok bb
  entries : readArray s (partOfTile s t) d.idxAddr (16 * d.idx)
    (if isExtern (devSpace s (partOfTile s t) d.bagAddr) then ext.drop (4 * (d.bags + 1)) else ext) = .ok ib
  offsets : offsetsOk (offsetsOf bb (d.bags + 1)) d.idx = true
  rows    : ∀ k, k < d.idx → lookRowRefuse s (partOfTile s t) d ib (lookRow (offsetsOf bb (d.bags + 1)) ib k) = none
  version : resolveVer s (partOfTile s t) d.table d.useCur d.ver = .ok j

section
variable {s : State} {t : Tile} {e : QEntry} {ext : List Byte} {d : LookDesc} {a j : Nat} {bb ib : List Byte}
  (h : LookGood s t e ext d a j bb ib)
include h

theorem LookGood.table_lt : d.table < 1024 := h.desc ▸ lookDesc_table_lt _

theorem startLookup_issues : startLookup t ext s e = some (lookIssue (lookReads s t d) t e (sramRead s (spKey t a) 64) d j
    ((List.range d.idx).map (lookRow (offsetsOf bb (d.bags + 1)) ib))) := by
  have hp := partOfTile_lt s t
  have hsends := sends_lookReads s t d
  have hrows : worstRefuse (none :: checkIf (!offsetsOk (offsetsOf bb (d.bags + 1)) d.idx) badDesc ::
      ((List.range d.idx).map (lookRow (offsetsOf bb (d.bags + 1)) ib)).map (lookRowRefuse (lookReads s t d) (partOfTile s t) d ib) ++ [none]) = none := by
    rw [worstRefuse_eq_none]
    simp only [h.offsets, checkIf, List.mem_append, List.mem_cons, List.mem_map, List.mem_range, List.not_mem_nil, or_false]
    rintro x ((rfl | rfl | ⟨_, ⟨k, hk, rfl⟩, rfl⟩) | rfl)
    · rfl
    · rfl
    · rw [hsends.lookRowRefuse hp h.table_lt ib (lookRow_node_lt ..)]
      exact h.rows k hk
    · rfl
  have hbags := (hsends.readArray hp d.bagAddr (4 * (d.bags + 1)) ext).trans h.bags
  have hentries := (hsends.readArray hp d.idxAddr (16 * d.idx) _).trans h.entries
  unfold startLookup
  simp only [h.operand, h.tail, ne_eq, not_true_eq_false, if_false, ← h.desc, h.static, lookUnread_of_lookStatic h.static, h.bagFree, h.idxFree,
    Bool.or_self, Bool.false_eq_true, h.version]
  unfold lookReads at hbags hentries hrows
  simp only [hbags, hentries, hrows]
  rfl

theorem lookup_issued (hm : MayStart s t 3 4 e) :
    ∃ u r run, exec (.lookup t ext .none) s = .next u ∧ Started s u t 3 e r ∧ r.finished = false ∧ QueuesOnly s u t
      ∧ u.looks = s.looks ++ [run] ∧ run.tile = t.val ∧ run.msgId = s.msgSeq.toNat ∧ u.msgSeq = s.msgSeq + 1 ∧ run.slot = some j
      ∧ run.rows.length = d.idx ∧ run.replies = []
      ∧ (∀ h, h ∈ run.waiting ↔ ∃ x ∈ run.rows, x.hot = none ∧ h = (x.node, x.stack))
      ∧ rd u (partOfTile s t) R.TABLE_DESC_INFLIGHT d.table j = min (rd s (partOfTile s t) R.TABLE_DESC_INFLIGHT d.table j + 1) (2 ^ 32 - 1)
      ∧ u.sram = s.sram ∧ u.hbm = s.hbm := by
  obtain ⟨rows, hrows⟩ : ∃ rows, rows = (List.range d.idx).map (lookRow (offsetsOf bb (d.bags + 1)) ib) := ⟨_, rfl⟩
  have hj := resolveVer_lt h.version
  have hp := partOfTile_lt s t
  have hsends := sends_lookReads s t d
  obtain ⟨hlooks, -, hseq⟩ := hsends.runs
  obtain ⟨hmode, hsafe, hsram, hhbm, htiles⟩ := hsends.kept
  have hpart : partOfTile (lookReads s t d) t = partOfTile s t := by simp only [partOfTile, partOfDie, hmode]
  obtain ⟨hlooks', hseq', htiles', hsram', hhbm', -⟩ := lookCounted_kept rows (lookReads s t d) t d j
  have hhold : isHold (lookCounted (lookReads s t d) t d j rows) (partOfTile s t) = false := by
    have := isHold_lookCounted rows (s := lookReads s t d) (t := t) h.table_lt hj
    rw [hpart] at this
    exact this.trans ((isHold_of_rd hsafe (hsends.rd hp rfl (by decide))).trans (isHold_of_running (headEntry_eq_some hm.1).1))
  have hstart := startLookup_issues h
  rw [← hrows, lookIssue_eq] at hstart
  have hexec : exec (.lookup t ext .none) s = .next (startCmd _ t 3 _) := congrArg Host.Outcome.next (engineRow_starts hm rfl hstart hhold)
  refine ⟨_, _, _, hexec, startCmd_started hm.1 (htiles'.trans htiles) rfl, rfl, queuesOnly_setQueue (htiles'.trans htiles),
    congrArg (· ++ _) (hlooks'.trans hlooks), rfl, congrArg BitVec.toNat hseq, congrArg (· + 1) (hseq'.trans hseq), rfl, ?_, rfl,
    fun x => mem_lookHomes rows (fun y hy => ?_) x, ?_, hsram'.trans hsram, hhbm'.trans hhbm⟩
  · simp only [lookRun, lookServed, hrows, List.length_map, List.length_range]
  · rw [hrows] at hy
    obtain ⟨k, -, rfl⟩ := List.mem_map.1 hy
    exact lookRow_stack_lt ..
  · have := rd_lookCounted_inflight rows (s := lookReads s t d) (t := t) h.table_lt hj
    rw [hpart, hsends.rd hp rfl (by have := h.table_lt; simp only [R.TABLE_DESC_INFLIGHT]; omega)] at this
    exact this

end

end Sys2Proof.Machine
end

section
/-!
SUPPORT. Writes to a scratchpad: what is read back, and that they touch on-chip memory only.
-/

open Sys2Proof Sys2Proof.Machine Sys2Proof.Claims

namespace Sys2Proof.Machine

theorem sramRead_succ (s : State) (a n : Nat) : sramRead s a (n + 1) = sramGet s a :: sramRead s (a + 1) n := by
  simp only [sramRead, List.range_succ_eq_map, List.map_cons, List.map_map, Function.comp_def, Nat.add_zero, Nat.succ_eq_add_one, Nat.add_assoc,
    Nat.add_comm 1]

theorem sramRead_sramWrite_same {s : State} (h : Memory.wf s.sram = true) (a : Nat) (bs : List Byte) :
    sramRead (sramWrite s a bs) a bs.length = bs := by
  induction bs generalizing s a with
  | nil => rfl
  | cons b bs ih =>
    have hcons : sramWrite s a (b :: bs) = sramWrite (sramSet s a b) (a + 1) bs := rfl
    rw [List.length_cons, sramRead_succ, hcons, sramGet_sramWrite_out _ _ _ _ (.inl (Nat.lt_succ_self a)), sramGet_sramSet_same s a b h,
      ih (wf_sramSet s a b h)]

/-- From s to u only bytes of the on-chip memories have changed, and free values have been drawn. -/
structure OnChip (s u : State) : Prop where
  frame : u = { s with sram := u.sram, freeCtr := u.freeCtr }
  wf    : Memory.wf s.sram = true → Memory.wf u.sram = true

namespace OnChip

theorem refl (s : State) : OnChip s s := ⟨rfl, id⟩

theorem trans {s u v : State} (h : OnChip s u) (h' : OnChip u v) : OnChip s v := by
  refine ⟨?_, h'.wf ∘ h.wf⟩
  have := h'.frame
  rw [h.frame] at this
  exact this

theorem sramWrite (s : State) (a : Nat) (bs : List Byte) : OnChip s (sramWrite s a bs) := ⟨rfl, wf_sramWrite s a bs⟩

theorem sramForget (s : State) (a n : Nat) : OnChip s (sramForget s a n) := ⟨rfl, wf_sramForget s a n⟩

/-- Where an address lies, and whether it may be used, is a matter of registers and ports. -/
theorem devSpace {s u : State} (h : OnChip s u) (p a : Nat) : devSpace u p a = devSpace s p a := by
  rw [h.frame]
  rfl

theorem checkDev {s u : State} (h : OnChip s u) (p a n : Nat) (write : Bool) : checkDev u p a n write = checkDev s p a n write := by
  rw [h.frame]
  rfl

theorem partOfTile {s u : State} (h : OnChip s u) (t : Nat) : partOfTile u t = partOfTile s t := by
  rw [h.frame]
  rfl

theorem rd {s u : State} (h : OnChip s u) (p : Nat) (f : Reg) (i j : Nat) : rd u p f i j = rd s p f i j := by
  rw [h.frame]
  rfl

theorem kept {s u : State} (h : OnChip s u) : u.looks = s.looks ∧ u.incs = s.incs ∧ u.hbm = s.hbm := by
  rw [h.frame]
  exact ⟨rfl, rfl, rfl⟩

end OnChip

/-- Row b of an output lies in a scratchpad. -/
def InSp (s : State) (p a : Nat) : Prop := ∃ y q, devSpace s p a = .sp y q

/-- A write to a scratchpad has no refusal. -/
theorem devWrite_inSp (s : State) (p y q unit msg : Nat) (bs : List Byte) : ∃ u, devWrite s p (.sp y q) bs unit msg = (u, none) ∧ OnChip s u := by
  unfold devWrite
  generalize pieces _ _ = l
  induction l generalizing s with
  | nil => exact ⟨s, rfl, .refl s⟩
  | cons x l ih =>
    obtain ⟨u, hu, hchip⟩ := ih (sramWrite s (spKey y (q + x.1)) ((bs.drop x.1).take x.2))
    exact ⟨u, hu, (OnChip.sramWrite ..).trans hchip⟩

/-- Joined rows begin where rows begin. -/
theorem mem_joinRows {s : State} {p : Nat} {l : List (Nat × List Byte)} {x : Nat × List Byte} (h : x ∈ joinRows s p l) : ∃ y ∈ l, y.1 = x.1 := by
  induction l generalizing x with
  | nil => exact nomatch h
  | cons y l ih =>
    have htail {z : Nat × List Byte} (hz : z ∈ joinRows s p l) : ∃ w ∈ y :: l, w.1 = z.1 := by
      obtain ⟨w, hw, he⟩ := ih hz
      exact ⟨w, List.mem_cons_of_mem _ hw, he⟩
    unfold joinRows at h
    split at h
    · exact ⟨y, List.mem_cons_self, by rw [List.mem_singleton.1 h]⟩
    · next hrest =>
      split at h <;> rcases List.mem_cons.1 h with rfl | h
      · exact ⟨y, List.mem_cons_self, rfl⟩
      · exact htail (hrest ▸ List.mem_cons_of_mem _ h)
      · exact ⟨y, List.mem_cons_self, rfl⟩
      · exact htail (hrest ▸ h)

theorem writeRuns_inSp {s : State} {p : Nat} {runs : List (Nat × List Byte)} (h : ∀ x ∈ runs, InSp s p x.1) (unit msg : Nat) :
    ∃ u, writeRuns s p runs unit msg = (u, none) ∧ OnChip s u := by
  induction runs generalizing s with
  | nil => exact ⟨s, rfl, .refl s⟩
  | cons x runs ih =>
    obtain ⟨a, bs⟩ := x
    obtain ⟨y, q, hx⟩ := h _ List.mem_cons_self
    obtain ⟨v, hv, hchip⟩ := devWrite_inSp s p y q unit msg bs
    obtain ⟨u, hu, hrest⟩ := ih (s := v) fun z hz => by
      obtain ⟨y', q', hz⟩ := h z (List.mem_cons_of_mem _ hz)
      exact ⟨y', q', (hchip.devSpace ..).trans hz⟩
    refine ⟨u, ?_, hchip.trans hrest⟩
    simp only [writeRuns, hx, hv, hu]

theorem runFrames_inSp {s : State} {p : Nat} {runs : List (Nat × List Byte)} (h : ∀ x ∈ runs, InSp s p x.1) : runFrames s p runs = 0 :=
  List.sum_eq_zero fun n hn => by
    obtain ⟨x, hx, rfl⟩ := List.mem_map.1 hn
    obtain ⟨y, q, hq⟩ := h x hx
    rw [hq]
    rfl

theorem devForget_inSp {s : State} {p a : Nat} (h : InSp s p a) (n : Nat) : OnChip s (devForget s (devSpace s p a) n) := by
  obtain ⟨y, q, hq⟩ := h
  rw [hq]
  exact .sramForget ..

theorem devTgBusy_inSp {s : State} {p a : Nat} (h : InSp s p a) (n : Nat) : devTgBusy s (devSpace s p a) n = false := by
  obtain ⟨y, q, hq⟩ := h
  rw [hq]
  rfl

theorem spaceKeyed_inSp {s : State} {p a : Nat} (h : InSp s p a) : spaceKeyed s p a = none := by
  obtain ⟨y, q, hq⟩ := h
  unfold spaceKeyed
  rw [hq]

/-- Rows of which each lies in a scratchpad. -/
theorem rowRuns_inSp {s : State} {p addr stride : Nat} {rows : List (List Byte)} (h : ∀ b, b < rows.length → InSp s p (addr + stride * b)) :
    ∀ x ∈ rowRuns s p addr stride rows, InSp s p x.1 := fun x hx => by
  obtain ⟨y, hy, he⟩ := mem_joinRows hx
  obtain ⟨⟨bs, i⟩, hz, rfl⟩ := List.mem_map.1 hy
  rw [← he]
  exact h i (by have := List.mem_zipIdx hz; omega)

/-- An address in a scratchpad that is a multiple of 16 stands at such an offset. -/
theorem devSpace_sp_aligned {s : State} {p a x o : Nat} (h : devSpace s p a = .sp x o) (ha : a % 16 = 0) : o % 16 = 0 := by
  have hlocal {y : Space} (hy : localSpace s p y = .sp x o) : y = .sp x o := by
    unfold localSpace at hy
    split at hy
    · split at hy <;> exact nomatch hy
    · exact hy
  have hspace := hlocal h
  cases hparse : parseDev a with
  | none =>
    rw [hparse] at hspace
    injection hspace with _ ho
    omega
  | some y =>
    rw [hparse] at hspace
    rw [show y = .sp x o from hspace] at hparse
    unfold parseDev at hparse
    split at hparse
    case h_3 =>
      split at hparse
      · injection hparse with hparse
        injection hparse with _ ho
        simp only [bitsOf] at ho
        omega
      · exact nomatch hparse
    case h_7 => exact nomatch hparse
    all_goals
      split at hparse
      · injection hparse with hparse
        exact nomatch hparse
      · exact nomatch hparse

/-- 16 bytes at a multiple of 16 are one piece. -/
theorem devWrite_sp16 {s : State} {p x o unit msg : Nat} {bs : List Byte} (hb : bs.length = 16) (ho : o % 16 = 0) :
    devWrite s p (.sp x o) bs unit msg = (sramWrite s (spKey x o) bs, none) := by
  have hpieces : pieces o 16 = [(0, 16)] := by
    have hfirst : min 16 (4096 - o % 4096) = 16 := by omega
    simp only [pieces, hfirst]
    rfl
  have hall : (bs.drop 0).take 16 = bs := by rw [List.drop_zero, ← hb, List.take_length]
  change writePieces s p (.sp x o) unit msg bs (pieces o bs.length) = _
  rw [hb, hpieces]
  simp only [writePieces, writePiece, Space.plus, hall, Nat.add_zero]

end Sys2Proof.Machine
end

section
/-!
SUPPORT. The end of a look-up (R109 to R112, R121): its output, its status word, its signal.
-/

open Sys2Proof Sys2Proof.Machine Sys2Proof.Claims

namespace Sys2Proof.Machine

/-- Replies without an error leave the status that the look-up has (R112). -/
theorem worstStatus_zeros {st : Nat} (hst : st = St.OK ∨ st = St.TIMEOUT) {l : List Nat} (hl : ∀ x ∈ l, x = 0) : worstStatus (st :: l) = st := by
  have hfold : l.foldl (fun a b => if replyRank a < replyRank b then b else a) st = st := by
    rw [List.eq_replicate_of_mem hl]
    induction l.length with
    | zero => rfl
    | succ n ih => exact ih
  have hfirst : (if replyRank St.OK < replyRank st then st else St.OK) = st := by rcases hst with rfl | rfl <;> decide
  rw [worstStatus, List.foldl_cons, hfirst, hfold]

/-- The requests of a run are over, with status st. -/
def lookDone (run : LookRun) (st : Nat) (f : Option CmdFault) : LookRun := { run with status := st, fault := f, waiting := [], phase := 1, acks := 0 }

/-- The status that a look-up's replies leave it with (R112). -/
def lookSt (run : LookRun) (late : Bool) : Nat :=
  if run.slot.isNone || run.fault.isSome then run.status
  else worstStatus ((if late then St.TIMEOUT else run.status) :: run.replies.map (fun r => r.status.toNat))

theorem lookSt_good {run : LookRun} {late : Bool} (hf : run.fault = none) (hslot : run.slot.isSome = true) (hs : run.status = St.OK) (hr : ∀ m ∈ run.replies, m.status = 0) :
    lookSt run late = if late then St.TIMEOUT else St.OK := by
  have hzeros : ∀ x ∈ run.replies.map (fun r => r.status.toNat), x = 0 := fun x hx => by
    obtain ⟨m, hm, rfl⟩ := List.mem_map.1 hx
    rw [hr m hm]
    rfl
  have hst : (if late then St.TIMEOUT else run.status) = if late then St.TIMEOUT else St.OK := by rw [hs]
  rw [lookSt, hf, hst, Option.isNone_eq_false_iff.2 hslot]
  exact worstStatus_zeros (by cases late <;> simp) hzeros

theorem lookOutput_length {run : LookRun} {d : LookDesc} (hi : run.rows.length = d.idx) (hb : run.bags = d.bags) : (lookOutput run d).length = d.outRows := by
  unfold lookOutput LookDesc.outRows
  split
  · rw [List.length_map, hi]
  · rw [List.length_map, List.length_range, hb]

section
variable {s : State} {run : LookRun} {d : LookDesc} (hd : d = lookDescOf run.desc)
  (hout : ∀ b, b < d.outRows → InSp s (partOfTile s run.tile) (d.outAddr + d.stride * b))
include hd hout

/-- The output goes to on-chip memory, and nothing that must be acknowledged is on its way. -/
theorem lookOut_inSp (hi : run.rows.length = d.idx) (hb : run.bags = d.bags) (late : Bool) :
    ∃ u f, lookOut s run late = (u, lookDone run (lookSt run late) f) ∧ OnChip s u := by
  subst hd
  have hruns := rowRuns_inSp (rows := lookOutput run (lookDescOf run.desc)) fun b h => hout b (lookOutput_length hi hb ▸ h)
  obtain ⟨w, hw, hchip⟩ := writeRuns_inSp hruns (srcTile run.tile 4) run.msgId
  have hkey : (if (lookDescOf run.desc).outRows = 0 then none else spaceKeyed s (partOfTile s run.tile) (lookDescOf run.desc).outAddr) = none := by
    split
    · rfl
    · next h => exact spaceKeyed_inSp (hout 0 (Nat.pos_of_ne_zero h))
  have hforget (n : Nat) : OnChip s ((List.range (lookDescOf run.desc).outRows).foldl (fun u b => devForget u (devSpace u (partOfTile s run.tile)
      ((lookDescOf run.desc).outAddr + (lookDescOf run.desc).stride * b)) n) s) := by
    refine List.foldlRecOn (motive := OnChip s) _ _ (.refl s) fun u hu b hb => hu.trans (devForget_inSp ?_ n)
    obtain ⟨y, q, hq⟩ := hout b (List.mem_range.1 hb)
    exact ⟨y, q, (hu.devSpace ..).trans hq⟩
  unfold lookOut
  cases hslot : run.slot.isNone with
  | true =>
    have hst : lookSt run late = run.status := by simp [lookSt, hslot]
    exact ⟨s, run.fault, by rw [hst]; rfl, .refl s⟩
  | false =>
    have hst : lookSt run late = if run.fault.isSome then run.status
        else worstStatus ((if late then St.TIMEOUT else run.status) :: run.replies.map (fun r => r.status.toNat)) := by
      simp only [lookSt, hslot, Bool.false_or]
    simp only [Bool.false_eq_true, if_false, hkey, ← hst, writeRows, hw, runFrames_inSp hruns]
    split
    · exact ⟨w, _, rfl, hchip⟩
    · split
      · exact ⟨s, _, rfl, .refl s⟩
      · exact ⟨_, _, rfl, hforget _⟩

end

theorem lookWord_length (run : LookRun) (st : Nat) : (lookWord run st).length = 16 := by
  simp only [lookWord, leBytes, List.length_append, List.length_cons, List.length_nil]

/-- A status word in a scratchpad is visible at once. -/
theorem lookStatus_inSp {s : State} {run : LookRun} {st x o : Nat} {f : Option CmdFault} (ha : (lookDescOf run.desc).status % 16 = 0)
    (hc : checkDev s (partOfTile s run.tile) (lookDescOf run.desc).status 16 true = none)
    (hx : devSpace s (partOfTile s run.tile) (lookDescOf run.desc).status = .sp x o) :
    lookStatus s (lookDone run st f) = (sramWrite s (spKey x o) (lookWord run st), { lookDone run st f with phase := 2 }) := by
  have hwrite : devWrite s (partOfTile s run.tile) (.sp x o) (lookWord run st) (srcTile run.tile 4) run.msgId = _ :=
    devWrite_sp16 (lookWord_length run st) (devSpace_sp_aligned hx ha)
  have hword : lookWord (lookDone run st f) (lookDone run st f).status = lookWord run st := rfl
  simp only [lookStatus, hword]
  simp only [lookDone, hc, ha, hx, hwrite, remoteFrames, Option.isSome_none, bne_self_eq_false, Bool.or_self, Bool.false_eq_true, if_false]

theorem setFinished_frame (s : State) (t q : Nat) (keep : List Byte) (opc status : Nat) (fault : Option CmdFault) (port : Option Nat) :
    setFinished s t q keep opc status fault port = { s with tiles := (setFinished s t q keep opc status fault port).tiles } := rfl

/-- DONE_CTR is signalled, the version released, the run ended (R111, R121). -/
theorem lookEnd_result (s : State) (run : LookRun) :
    lookEnd s run = { s with
        looks := s.looks.filter (fun x => x.msgId != run.msgId), regs := (lookEnd s run).regs, tiles := (lookEnd s run).tiles
        incs := s.incs ++ [⟨.die (Fin.ofNat 4 (dieOfTile run.tile)) (Fin.ofNat 4096 (lookDescOf run.desc).done), srcTile run.tile 4, 1⟩] }
      ∧ ∀ j, run.slot = some j → rd (lookEnd s run) (partOfTile s run.tile) R.TABLE_DESC_INFLIGHT (lookDescOf run.desc).table j
        = (rd s (partOfTile s run.tile) R.TABLE_DESC_INFLIGHT (lookDescOf run.desc).table j - 1) % 2 ^ 32 := by
  constructor
  · unfold lookEnd
    dsimp only
    rw [setFinished_frame, releaseVer_frame]
    rfl
  · intro j hj
    unfold lookEnd
    rw [hj]
    exact rd_wr_same ..

section
variable {s : State} {run : LookRun} {d : LookDesc} (hd : d = lookDescOf run.desc)
  (hout : ∀ b, b < d.outRows → InSp s (partOfTile s run.tile) (d.outAddr + d.stride * b))
include hd hout

theorem lookWaits_inSp (hst : InSp s (partOfTile s run.tile) d.status) : lookWaits s run = false := by
  subst hd
  simp only [lookWaits, devTgBusy_inSp hst, Bool.false_or, List.any_eq_false, List.mem_range]
  exact fun b hb => by rw [devTgBusy_inSp (hout b hb)]; decide

/-- A look-up whose output and status word lie in scratchpads ends in one step. -/
theorem finishLook_inSp (hph : run.phase = 0) (hi : run.rows.length = d.idx) (hb : run.bags = d.bags) (ha : d.status % 16 = 0)
    (hc : checkDev s (partOfTile s run.tile) d.status 16 true = none) {x o : Nat} (hx : devSpace s (partOfTile s run.tile) d.status = .sp x o)
    (late : Bool) :
    ∃ u f, OnChip s u ∧ (Memory.wf s.sram = true → sramRead u (spKey x o) 16 = lookWord run (lookSt run late))
      ∧ finishLook s run late = lookEnd u { lookDone run (lookSt run late) f with phase := 2 } := by
  obtain ⟨u, f, hlook, hchip⟩ := lookOut_inSp hd hout hi hb late
  subst hd
  have hword := lookStatus_inSp (s := u) (st := lookSt run late) (f := f) ha
    (by rw [hchip.partOfTile, hchip.checkDev]; exact hc) (by rw [hchip.partOfTile, hchip.devSpace]; exact hx)
  refine ⟨_, f, hchip.trans (.sramWrite u (spKey x o) (lookWord run (lookSt run late))), fun hwf => ?_, ?_⟩
  · rw [← lookWord_length run (lookSt run late)]
    exact sramRead_sramWrite_same (hchip.wf hwf) ..
  · have hacks : (lookDone run (lookSt run late) f).acks = 0 ∧ (lookDone run (lookSt run late) f).phase = 1 := ⟨rfl, rfl⟩
    simp only [finishLook, hph, if_true, hlook, hacks.1, hacks.2, hword, ne_eq, not_true_eq_false, if_false]

end

/-- The row that ends a look-up: LOOKUP_COMPLETE, or LOOKUP_TIMEOUT when it is late. -/
theorem exec_lookupEnd {s : State} {t : Tile} {late : Bool} {run : LookRun} (hr : running s (partOfTile s t) = true)
    (hf : s.looks.find? (fun x => x.tile == t.val && (if late then !x.waiting.isEmpty else x.waiting.isEmpty && x.acks == 0)) = some run)
    (hw : lookWaits s run = false) : exec (if late then .lookupTimeout t else .lookupComplete t) s = .next (finishLook s run late) := by
  cases late with
  | true =>
    simp only [if_true] at hf ⊢
    change Host.Outcome.next _ = _
    simp only [hr, hf, hw, if_true, Bool.false_eq_true, if_false]
  | false =>
    simp only [Bool.false_eq_true, if_false, ← Bool.and_assoc] at hf ⊢
    change Host.Outcome.next _ = _
    simp only [hr, hf, hw, if_true, Bool.false_eq_true, if_false]

theorem lookup_ended {s : State} {t : Tile} {late : Bool} {run : LookRun} (hwf : Memory.wf s.sram = true) (hr : running s (partOfTile s t) = true)
    (hf : s.looks.find? (fun x => x.tile == t.val && (if late then !x.waiting.isEmpty else x.waiting.isEmpty && x.acks == 0)) = some run)
    (hph : run.phase = 0) (hi : run.rows.length = (lookDescOf run.desc).idx) (hb : run.bags = (lookDescOf run.desc).bags)
    (ha : (lookDescOf run.desc).status % 16 = 0) (hc : checkDev s (partOfTile s t) (lookDescOf run.desc).status 16 true = none) {x o : Nat}
    (hx : devSpace s (partOfTile s t) (lookDescOf run.desc).status = .sp x o)
    (hout : ∀ b, b < (lookDescOf run.desc).outRows → InSp s (partOfTile s t) ((lookDescOf run.desc).outAddr + (lookDescOf run.desc).stride * b)) :
    ∃ u st, exec (if late then .lookupTimeout t else .lookupComplete t) s = .next u
      ∧ u.looks = s.looks.filter (fun x => x.msgId != run.msgId)
      ∧ u.incs = s.incs ++ [⟨.die (Fin.ofNat 4 (t.val / 64)) (Fin.ofNat 4096 (lookDescOf run.desc).done), srcTile t 4, 1⟩]
      ∧ sramRead u (spKey x o) 16 = lookWord run st ∧ u.hbm = s.hbm
      ∧ (run.fault = none → run.slot.isSome = true → run.status = St.OK → (∀ m ∈ run.replies, m.status = 0) → st = if late then St.TIMEOUT else St.OK)
      ∧ (∀ j, run.slot = some j → rd u (partOfTile s t) R.TABLE_DESC_INFLIGHT (lookDescOf run.desc).table j
          = (rd s (partOfTile s t) R.TABLE_DESC_INFLIGHT (lookDescOf run.desc).table j - 1) % 2 ^ 32) := by
  have htile : run.tile = t.val := by
    have := List.find?_some hf
    simp only [Bool.and_eq_true, beq_iff_eq] at this
    exact this.1
  rw [← htile] at hc hx hout ⊢
  obtain ⟨w, f, hchip, hword, hfinish⟩ := finishLook_inSp rfl hout hph hi hb ha hc hx late
  have hexec := exec_lookupEnd hr hf (lookWaits_inSp rfl hout ⟨x, o, hx⟩)
  obtain ⟨hframe, hslot⟩ := lookEnd_result w { lookDone run (lookSt run late) f with phase := 2 }
  rw [hfinish] at hexec
  obtain ⟨hlooks, hincs, hhbm⟩ := hchip.kept
  refine ⟨_, lookSt run late, hexec, ?_, ?_, ?_, ?_, fun hfault hsome hok hreplies => lookSt_good hfault hsome hok hreplies, fun j hj => ?_⟩
  · rw [hframe]; exact congrArg _ hlooks
  · rw [hframe]; exact congrArg (· ++ _) hincs
  · rw [hframe]; exact hword hwf
  · rw [hframe]; exact hhbm
  · rw [← hchip.partOfTile, ← hchip.rd]
    exact hslot j hj

/-- A reply from a home that the look-up waits for is taken (R109). -/
theorem lookupReply_taken {p : Part} {m : LookupResp} {run : LookRun} {s : State} (hr : running s p = true)
    (hf : s.looks.find? (fun x => x.msgId == m.msgId.toNat && partOfTile s x.tile == p.val && x.waiting.contains (m.node.toNat, m.stack.toNat)) = some run) :
    exec (.lookupReplyReceive p m) s = .next { s with looks := s.looks.map (fun x => if x.msgId = run.msgId then
      { run with waiting := run.waiting.filter (fun h => h != (m.node.toNat, m.stack.toNat)), replies := run.replies ++ [m] } else x) } := by
  refine congrArg Host.Outcome.next ((holdFrame_of_running hr ..).trans ?_)
  simp only [hr, hf, if_true]
  rfl

/-- Settles O22: the requests leave before the version is held; the output, the status word and the end follow in one step when they stay on chip. -/
theorem lookupResults : Obligations.lookup_results :=
  fun _ => ⟨fun _ _ _ _ _ _ _ _ hm ho htail hd hs hbx hix hb hi hoff hrows hv => lookup_issued ⟨ho, htail, hd, hs, hbx, hix, hb, hi, hoff, hrows, hv⟩ hm,
    fun _ _ _ => lookupReply_taken, fun _ _ _ _ _ hwf hr hf hph hi hb ha hc hx hout => lookup_ended hwf hr hf hph hi hb ha hc hx hout⟩

end Sys2Proof.Machine
end

section
/-!
SUPPORT. Contributions at the engines (R138 to R148): stored and acknowledged, withdrawn, forwarded, released.
-/

open Sys2Proof Sys2Proof.Machine Sys2Proof.Claims

namespace Sys2Proof.Machine

/-! ### What waits -/

theorem serveWaiting_of_none {s : State} {p : Nat} (h : ∀ x ∈ s.waitReqs, x.1 ≠ p) : serveWaiting s p = s := by
  have hnone : s.waitReqs.filter (fun x => x.1 == p && !reqWaits s x.2) = [] :=
    List.filter_eq_nil_iff.2 fun x hx => by simp [h x hx]
  rw [serveWaiting, hnone, List.foldl_nil]

theorem mem_stacksOf {s : State} {p k : Nat} : k ∈ stacksOf s p ↔ k < 24 ∧ partOfStack s k = p := by
  simp only [stacksOf, List.mem_filter, List.mem_range, decide_eq_true_eq]

/-- Steps that each change registers only. -/
theorem foldl_regs {α : Type} {f : State → α → State} (h : ∀ s x, f s x = { s with regs := (f s x).regs }) (l : List α) (s : State) :
    l.foldl f s = { s with regs := (l.foldl f s).regs } := by
  induction l generalizing s with
  | nil => rfl
  | cons x l ih => rw [List.foldl_cons, ih, h]

/-! ### An arriving contribution (R141, R142) -/

section
variable {s : State} {p : Part} (hr : running s p = true) (hs : suEnabled s p = true)
include hr hs

theorem exec_contributionReceive {m : Contribution} (hf : m.fwd = false) (ho : ownStack s p m.stack.toNat = true) :
    exec (.contributionReceive p m) s = .next (if engineWaits s m.stack.toNat then
      { s with stackReqs := s.stackReqs ++ [(p.val, .contrib m)] } else takeContrib s p m) := by
  refine congrArg Host.Outcome.next ((holdFrame_of_running hr ..).trans ?_)
  simp only [hr, hs, hf, ho, Bool.not_true, Bool.or_self, Bool.false_eq_true, if_false]
  rfl

theorem exec_forwardedContributionReceive {m : Contribution} (hf : m.fwd = true) (ho : ownStack s p m.stack.toNat = true) :
    exec (.forwardedContributionReceive p m .none) s = .next (if engineWaits s m.stack.toNat then
      { s with stackReqs := s.stackReqs ++ [(p.val, .fwd m)] } else takeForward s p m) := by
  refine congrArg Host.Outcome.next ((holdFrame_of_running hr ..).trans ?_)
  simp only [hr, hs, hf, ho, Bool.not_true, Bool.or_self, Bool.false_eq_true, if_false]
  rfl

end

/-- A stored contribution touches its version's count, the list of those held and its buffer in HBM. -/
theorem storeContrib_frame (s : State) (p k : Nat) (m : Contribution) :
    storeContrib s p k m = { s with
      regs := (holdVer s p m.table.toNat 1 (verSlot s p m.table.toNat m.ver.toNat)).regs
      held := s.held ++ [⟨none, k, m⟩], hbm := (storeContrib s p k m).hbm, hbmGen := (storeContrib s p k m).hbmGen } := by
  unfold storeContrib
  cases verSlot s p m.table.toNat m.ver.toNat <;> dsimp only <;> split <;> rfl

theorem canReach_storeContrib {s : State} {p k n : Nat} {m : Contribution} (hp : p < 4) (hn : n < 4096) (hr : CanReach s p n) :
    CanReach (storeContrib s p k m) p n := by
  have hheld : CanReach (holdVer s p m.table.toNat 1 (verSlot s p m.table.toNat m.ver.toNat)) p n := by
    cases hv : verSlot s p m.table.toNat m.ver.toNat with
    | none => exact hr
    | some j => exact canReach_holdVer hp m.table.isLt (verSlot_lt hv) hn hr
  rw [storeContrib_frame]
  exact hheld

theorem rd_storeContrib_inflight {s : State} {p k j : Nat} {m : Contribution} (hv : verSlot s p m.table.toNat m.ver.toNat = some j) :
    rd (storeContrib s p k m) p R.TABLE_DESC_INFLIGHT m.table.toNat j
      = min (rd s p R.TABLE_DESC_INFLIGHT m.table.toNat j + 1) (2 ^ 32 - 1) := by
  rw [storeContrib_frame, hv]
  refine (rd_wr_same ..).trans (Nat.mod_eq_of_lt ?_)
  simp only [R.TABLE_DESC_INFLIGHT]
  omega

theorem takeContrib_stores {s : State} {p : Part} {m : Contribution} {d : Shard}
    (hd : rowShardFor s p m.stack.toNat m.lshard.toNat m.table.toNat m.ver.toNat m.row.toNat m.shard.toNat m.digest.toNat = .ok d)
    (hf : contribFault s p m.stack.toNat m = none) (hr : CanReach s p m.srcNode.toNat) :
    (takeContrib s p m).held = s.held ++ [⟨none, m.stack.toNat, m⟩]
      ∧ (takeContrib s p m).outbox = s.outbox ++ [⟨p, .contribAck m.srcNode.toNat (contribAckOf m (ownNode s p) false)⟩]
      ∧ (takeContrib s p m).sram = s.sram ∧ (takeContrib s p m).tiles = s.tiles
      ∧ ∀ j, verSlot s p m.table.toNat m.ver.toNat = some j → rd (takeContrib s p m) p R.TABLE_DESC_INFLIGHT m.table.toNat j
          = min (rd s p R.TABLE_DESC_INFLIGHT m.table.toNat j + 1) (2 ^ 32 - 1) := by
  obtain ⟨w, hw⟩ : ∃ w, w = storeContrib s p m.stack.toNat m := ⟨_, rfl⟩
  have htake : takeContrib s p m = emit w p (.contribAck m.srcNode.toNat (contribAckOf m (ownNode s p) false)) (srcStack m.stack.toNat 0) := by
    simp only [takeContrib, hd, hf, hw]
  have hsends := sends_emit w p (.contribAck m.srcNode.toNat (contribAckOf m (ownNode s p) false)) (srcStack m.stack.toNat 0) 0
  have hframe := storeContrib_frame s p m.stack.toNat m
  rw [← hw] at hframe
  rw [htake]
  refine ⟨?_, ?_, ?_, ?_, fun j hj => ?_⟩
  · exact (congrArg State.held hsends.frame).trans (by rw [hframe])
  · rw [outbox_emit (hw ▸ canReach_storeContrib p.isLt m.srcNode.isLt hr) rfl, hframe]
  · exact (congrArg State.sram hsends.frame).trans (by rw [hframe])
  · exact (congrArg State.tiles hsends.frame).trans (by rw [hframe])
  · have hplace : 8 * (R.TABLE_DESC_INFLIGHT.base + m.table.toNat * R.TABLE_DESC_INFLIGHT.stride + j * R.TABLE_DESC_INFLIGHT.stride2)
        + R.TABLE_DESC_INFLIGHT.lsb < 2 ^ 40 := by
      have := verSlot_lt hj
      simp only [R.TABLE_DESC_INFLIGHT]
      omega
    exact (hsends.rd p.isLt rfl hplace).trans (hw ▸ rd_storeContrib_inflight hj)

/-! ### Withdrawal (R138) -/

/-- A stored contribution of step n of engine k that `which` names. -/
def heldHere (k n : Nat) (which : Contribution → Bool) (x : Held) : Bool :=
  x.slot == none && x.stack == k && x.c.step.toNat == n && which x.c

theorem dropHeld_eq (s : State) (p k n : Nat) (which : Contribution → Bool) :
    dropHeld s p none k n which = { s with
      regs := (dropHeld s p none k n which).regs, held := s.held.filter (fun x => !heldHere k n which x) } := by
  unfold dropHeld
  dsimp only
  rw [foldl_regs fun s (x : Held) => releaseVer_frame s p x.c.table.toNat 1 (verSlot s p x.c.table.toNat x.c.ver.toNat)]
  rfl

/-- The engines of a list forget what `which` names, and nothing else. -/
theorem foldl_dropHeld (p n : Nat) (which : Contribution → Bool) (l : List Nat) (s : State) :
    ∃ u, l.foldl (fun s k => dropHeld s p none k n which) s = u ∧ u = { s with regs := u.regs, held := u.held }
      ∧ ∀ x, x ∈ u.held ↔ x ∈ s.held ∧ ∀ k ∈ l, heldHere k n which x = false := by
  induction l generalizing s with
  | nil => exact ⟨s, rfl, rfl, by simp⟩
  | cons k l ih =>
    obtain ⟨u, hu, hframe, hmem⟩ := ih (dropHeld s p none k n which)
    have hdrop := dropHeld_eq s p k n which
    refine ⟨u, hu, ?_, fun x => ?_⟩
    · rw [hdrop] at hframe
      exact hframe
    · rw [hmem, hdrop, List.mem_filter, List.forall_mem_cons, and_assoc, Bool.not_eq_true']

/-- The contributions that a withdrawal names (R138). -/
def withdrawn (m : Withdrawal) (c : Contribution) : Bool := c.srcNode == m.srcNode && c.srcCluster == m.srcCluster && c.seq == m.seq

theorem heldHere_withdrawn {s : State} {p : Nat} {m : Withdrawal} {x : Held} :
    (∀ k ∈ stacksOf s p, heldHere k m.step.toNat (withdrawn m) x = false)
      ↔ ¬ (x.slot = none ∧ x.stack < 24 ∧ partOfStack s x.stack = p ∧ x.c.step = m.step
          ∧ x.c.srcNode = m.srcNode ∧ x.c.srcCluster = m.srcCluster ∧ x.c.seq = m.seq) := by
  have hnames (k : Nat) : heldHere k m.step.toNat (withdrawn m) x = true
      ↔ x.slot = none ∧ x.stack = k ∧ x.c.step = m.step ∧ x.c.srcNode = m.srcNode ∧ x.c.srcCluster = m.srcCluster ∧ x.c.seq = m.seq := by
    simp only [heldHere, withdrawn, Bool.and_eq_true, beq_iff_eq, BitVec.toNat_inj, and_assoc]
  constructor
  · rintro h ⟨hslot, hk, hp, hnamed⟩
    have := h x.stack (mem_stacksOf.2 ⟨hk, hp⟩)
    rw [(hnames _).2 ⟨hslot, rfl, hnamed⟩] at this
    exact nomatch this
  · intro h k hk
    obtain ⟨hlt, hp⟩ := mem_stacksOf.1 hk
    rw [← Bool.not_eq_true, hnames]
    rintro ⟨hslot, rfl, hnamed⟩
    exact h ⟨hslot, hlt, hp, hnamed⟩

theorem withdrawal_result {p : Part} {s : State} (hr : running s p = true) (m : Withdrawal) :
    ∃ u, exec (.withdrawalReceive p m) s = .next u ∧ u = { s with regs := u.regs, held := u.held }
      ∧ ∀ x, x ∈ u.held ↔ x ∈ s.held ∧ ¬ (x.slot = none ∧ x.stack < 24 ∧ partOfStack s x.stack = p.val ∧ x.c.step = m.step
          ∧ x.c.srcNode = m.srcNode ∧ x.c.srcCluster = m.srcCluster ∧ x.c.seq = m.seq) := by
  obtain ⟨u, hu, hframe, hmem⟩ := foldl_dropHeld p m.step.toNat (withdrawn m) (stacksOf s p) s
  have hexec : exec (.withdrawalReceive p m) s = .next u := by
    refine congrArg Host.Outcome.next ((holdFrame_of_running hr ..).trans ?_)
    simp only [hr, Bool.not_true, Bool.false_eq_true, if_false]
    exact hu
  exact ⟨u, hexec, hframe, fun x => by rw [hmem, heldHere_withdrawn]⟩

/-! ### Forwarded contributions (R145, R340) -/

theorem takeForward_applies {s v : State} {p : Part} {m : Contribution}
    (ha : applyRow s p m.stack.toNat
      (rowShardFor s p m.stack.toNat m.lshard.toNat m.table.toNat m.ver.toNat m.row.toNat m.shard.toNat m.digest.toNat)
      m.table.toNat m.row.toNat m.ver.toNat m.step.toNat (coeffAt s p m.table.toNat m.step.toNat) (clipFor s p m.step.toNat)
      m.grad m.count.toNat = (v, none)) (hr : CanReach v p m.srcNode.toNat) :
    Routed { v with outbox := v.outbox ++ [⟨p, .fwdAck m.srcNode.toNat m.stack.toNat m.row.toNat m.table.toNat m.step.toNat false⟩] }
      (takeForward s p m) := by
  have htake : takeForward s p m = emit v p (.fwdAck m.srcNode.toNat m.stack.toNat m.row.toNat m.table.toNat m.step.toNat false)
      (srcStack m.stack.toNat 0) := by
    simp only [takeForward, ha]
  rw [htake]
  exact routed_emit hr rfl ..

/-- Versions whose rows are all written are released: counts of the tables, and the list of what holds them (R148). -/
theorem settleVers_frame (s : State) (p : Nat) :
    settleVers s p = { s with regs := (settleVers s p).regs, verHolds := (settleVers s p).verHolds } := by
  unfold settleVers
  dsimp only
  rw [foldl_regs fun s (x : VerHold) => releaseVer_frame s p x.table x.count (verSlot s p x.table x.ver)]

theorem forwardedAck_result {p : Part} {s : State} (hr : running s p = true) (k : BitVec 5) (row : BitVec 40) (table : BitVec 10)
    (step : StepIx) (partner : Bool) (hw : ∀ x ∈ s.waitReqs, x.1 ≠ p.val) :
    ∃ u, exec (.forwardedAckReceive p k row table step partner) s = .next u
      ∧ u = { s with regs := u.regs, fwdOuts := u.fwdOuts, verHolds := u.verHolds }
      ∧ u.fwdOuts = ((s.fwdOuts.map (fun x => if ownStack s p x.stack = true ∧ x.serve = k.toNat ∧ x.row = row.toNat ∧ x.table = table.toNat
            ∧ x.step = step.toNat then (if partner then { x with partner := false } else { x with own := false }) else x)).filter
          (fun x => x.own || x.partner)) := by
  obtain ⟨outs, houts⟩ : ∃ outs, outs = (s.fwdOuts.map (fun x => if ownStack s p x.stack = true ∧ x.serve = k.toNat ∧ x.row = row.toNat
      ∧ x.table = table.toNat ∧ x.step = step.toNat then (if partner then { x with partner := false } else { x with own := false }) else x)).filter
        (fun x => x.own || x.partner) := ⟨_, rfl⟩
  have hframe := settleVers_frame { s with fwdOuts := outs } p
  have hidle : serveWaiting (settleVers { s with fwdOuts := outs } p) p = settleVers { s with fwdOuts := outs } p :=
    serveWaiting_of_none (by rw [hframe]; exact hw)
  have hexec : exec (.forwardedAckReceive p k row table step partner) s = .next (settleVers { s with fwdOuts := outs } p) := by
    refine congrArg Host.Outcome.next ((holdFrame_of_running hr ..).trans ?_)
    simp only [hr, Bool.not_true, Bool.false_eq_true, if_false, Bool.and_eq_true, beq_iff_eq, and_assoc, ← houts, hidle]
  refine ⟨_, hexec, ?_, ?_⟩
  · rw [hframe]
  · rw [hframe]; exact houts

/-- Settles O27: what an engine does with a contribution, and the acknowledgement that then leaves as its one message; withdrawals and
acknowledgements touch the lists that they name. -/
theorem contributionResults : Obligations.contribution_results := by
  refine fun p s hr => ⟨fun m hs ho hw => ⟨fun hf => ?_, fun hf => ?_⟩, fun m d hs hf ho hw hd hfault hc => ?_, withdrawal_result hr,
    fun m v hs hf ho hw ha hc => ?_, fun k row table step partner => forwardedAck_result hr k row table step partner⟩
  · rw [exec_contributionReceive hr hs hf ho, if_pos hw]
  · rw [exec_forwardedContributionReceive hr hs hf ho, if_pos hw]
  · refine ⟨_, (exec_contributionReceive hr hs hf ho).trans ?_, takeContrib_stores hd hfault hc⟩
    rw [hw]
    rfl
  · have hframe := (takeForward_applies ha hc).frame
    refine ⟨takeForward s p m, (exec_forwardedContributionReceive hr hs hf ho).trans ?_, ?_, ?_, ?_, ?_⟩
    · rw [hw]
      rfl
    all_goals rw [hframe]

end Sys2Proof.Machine
end

section
/-!
SUPPORT. The start of a MERGE (R128, R131, R132, R138): its place at the Clove unit, the checks, the sequence number.
-/

open Sys2Proof Sys2Proof.Machine Sys2Proof.Claims

namespace Sys2Proof.Machine

/-- A front entry whose body must wait stays where it is. -/
theorem engineRow_waits {s : State} {t q opc : Nat} {e : QEntry} {defined : Nat → Bool} {body : State → QEntry → Option (State × RunCmd)}
    (h : MayStart s t q opc e) (hd : defined opc = true) (hb : body s e = none) : engineRow s t q opc defined body = s := by
  obtain ⟨hhead, hopc, hheader⟩ := h
  simp only [engineRow, hhead, hopc, hd, hheader, hb, Bool.not_true, Bool.false_eq_true, if_false, ne_eq, not_true_eq_false]

theorem worstMerge_eq_none {l : List (Option Refuse)} : worstMerge l = none ↔ ∀ x ∈ l, x = none := by
  have horElse (x : Option Refuse) (f : Unit → Option Refuse) : x.orElse f = none ↔ x = none ∧ f () = none := by cases x <;> simp [Option.orElse]
  have hnone : worstMerge l = none ↔ l.filterMap id = [] := by
    simp only [worstMerge, horElse, List.head?_eq_none_iff]
    exact ⟨fun h => h.2.2.2, fun h => by simp only [h, List.find?_nil, and_self]⟩
  rw [hnone, List.filterMap_eq_nil_iff]
  rfl

/-! ### The line of a Clove unit (R128) -/

/-- The line of unit c with tile t in it. -/
def lined (l : List Nat) (t : Nat) : List Nat := if l.contains t then l else l ++ [t]

/-- A front MERGE that finds its unit busy stands in the line; no other line changes. -/
theorem mergeArrive_held {s : State} {t : Tile} {e : QEntry} {a : Nat} (h : MayStart s t 3 5 e) (ho : spOperand e.cmd 64 64 = some a)
    (htail : cbs e.cmd 16 16 = 0) (hh : mergeHeld s t (clusterOfTile t) = true) :
    ∃ l, mergeArrive s t = { s with cloveWait := l }
      ∧ mapGet [] l (clusterOfTile t) = lined (mapGet [] s.cloveWait (clusterOfTile t)) t := by
  obtain ⟨hhead, hopc, hheader⟩ := h
  have harrive : mergeArrive s t = if (mapGet [] s.cloveWait (clusterOfTile t)).contains t.val then s else
      { s with cloveWait := mapSet s.cloveWait (clusterOfTile t) (mapGet [] s.cloveWait (clusterOfTile t) ++ [t.val]) } := by
    simp only [mergeArrive, hhead, hopc, hheader, ho, htail, hh, Option.isNone_none, Option.isSome_some, true_and, Bool.not_eq_true']
    cases (mapGet [] s.cloveWait (clusterOfTile t)).contains t.val <;> rfl
  rw [harrive]
  unfold lined
  split
  · exact ⟨_, rfl, rfl⟩
  · exact ⟨_, rfl, mapGet_mapSet_same ..⟩

theorem mergeArrive_free {s : State} {t : Tile} (hh : mergeHeld s t (clusterOfTile t) = false) : mergeArrive s t = s := by
  simp only [mergeArrive, hh, Bool.false_eq_true, false_and, and_false, if_false]
  split <;> rfl

theorem mergeHeld_iff {s : State} {t c : Nat} : mergeHeld s t c = true ↔
    (mapFind s.clove c).isSome = true ∨ ∃ h, (mapGet [] s.cloveWait c).head? = some h ∧ h ≠ t := by
  unfold mergeHeld
  cases mapGet [] s.cloveWait c <;> simp

/-- Who waits behind another goes on waiting when the line grows at its end. -/
theorem mergeHeld_lined {s : State} {t c : Nat} {l : NatMap (List Nat)} (hh : mergeHeld s t c = true)
    (hl : mapGet [] l c = lined (mapGet [] s.cloveWait c) t) : mergeHeld { s with cloveWait := l } t c = true := by
  rw [mergeHeld_iff] at hh ⊢
  refine hh.imp_right fun ⟨x, hx, hne⟩ => ⟨x, ?_, hne⟩
  rw [hl, lined]
  split
  · exact hx
  · rw [List.head?_append, hx]
    rfl

theorem merge_waits {s : State} {t : Tile} {e : QEntry} {ext : List Byte} {a : Nat} (h : MayStart s t 3 5 e)
    (ho : spOperand e.cmd 64 64 = some a) (htail : cbs e.cmd 16 16 = 0) (hh : mergeHeld s t (clusterOfTile t) = true) :
    ∃ u, exec (.merge t ext .none) s = .next u ∧ u = { s with cloveWait := u.cloveWait }
      ∧ mapGet [] u.cloveWait (clusterOfTile t) = lined (mapGet [] s.cloveWait (clusterOfTile t)) t := by
  obtain ⟨l, harrive, hl⟩ := mergeArrive_held h ho htail hh
  have hheld := mergeHeld_lined hh hl
  have hnone : startMerge t ext { s with cloveWait := l } e = none := by
    obtain ⟨-, -, hheader⟩ := h
    have hgood : headerRefuse { s with cloveWait := l } (partOfTile { s with cloveWait := l } t) e.cmd = none := hheader
    simp only [startMerge, ho, htail, hheld, hgood, ne_eq, not_true_eq_false, if_false, Option.isNone_none, Bool.and_self, if_true]
  have hrow : engineRow { s with cloveWait := l } t 3 5 dmaDefined (startMerge t ext) = { s with cloveWait := l } :=
    engineRow_waits h rfl hnone
  refine ⟨{ s with cloveWait := l }, congrArg Host.Outcome.next ?_, rfl, hl⟩
  rw [harrive]
  exact hrow

/-! ### The start -/

/-- A MERGE whose descriptor, keys and addresses are good, in the state v in which its keys have been read. -/
structure MergeGood (s v : State) (t : Tile) (e : QEntry) (ext bs : List Byte) (a : Nat) (d : MergeDesc) : Prop where
  operand : spOperand e.cmd 64 64 = some a
  tail    : cbs e.cmd 16 16 = 0
  desc    : d = mergeDescOf (sramRead s (spKey t a) 64)
  first   : mergeHeld s t (clusterOfTile t) = false
  read    : v = keyRead s t d
  static  : mergeStatic (dropMerge s t) (partOfTile s t) (clusterOfTile t) d = none
  addrs   : ∀ r ∈ mergeAddrs v (partOfTile s t) d, r = none
  version : verCurrent s (partOfTile s t) d.table (namedVer s (partOfTile s t) d.table d.useCur d.ver) = true
  current : d.useCur = true → rdb s (partOfTile s t) R.TABLE_DESC_CUR_VALID d.table = true
  keyFree : devTgBusy s (devSpace s (partOfTile s t) d.keyAddr) (32 * d.cnt) = false
  bytes   : readArray v (partOfTile s t) d.keyAddr (32 * d.cnt) ext = .ok bs
  keys    : ∀ i, i < d.cnt → mergeKeyRefuse v (partOfTile s t) d bs i (mergeKeyOf bs i) = none
  agree   : d.multi = false → ∀ x ∈ keyRows ((List.range d.cnt).map (mergeKeyOf bs)), keysBad x.2 = false
  output  : d.send = false → checkSpan v (partOfTile s t) d.outAddr
    (mergedSize (tblWidth v (partOfTile s t) d.table) * (keyRows ((List.range d.cnt).map (mergeKeyOf bs))).length) true = none

section
variable {s v : State} {t : Tile} {e : QEntry} {ext bs : List Byte} {a : Nat} {d : MergeDesc} (h : MergeGood s v t e ext bs a d)
include h

theorem startMerge_goes : startMerge t ext s e = some (mergeGo v t e (sramRead s (spKey t a) 64) d ((List.range d.cnt).map (mergeKeyOf bs))) := by
  have hver : checkIf (!verCurrent (dropMerge s t) (partOfTile s t) d.table (namedVer (dropMerge s t) (partOfTile s t) d.table d.useCur d.ver)
      || (d.useCur && !rdb (dropMerge s t) (partOfTile s t) R.TABLE_DESC_CUR_VALID d.table)) wrongState = none := by
    have hversion : verCurrent (dropMerge s t) (partOfTile s t) d.table (namedVer (dropMerge s t) (partOfTile s t) d.table d.useCur d.ver) = true :=
      h.version
    have hcurrent : (d.useCur && !rdb (dropMerge s t) (partOfTile s t) R.TABLE_DESC_CUR_VALID d.table) = false := by
      cases hc : d.useCur with
      | false => rfl
      | true => exact (congrArg not (h.current hc))
    rw [hversion, hcurrent]
    rfl
  have hagree : checkIf (!d.multi && (keyRows ((List.range d.cnt).map (mergeKeyOf bs))).any (fun r => keysBad r.2)) badDesc = none := by
    cases hm : d.multi with
    | true => rfl
    | false =>
      rw [List.any_eq_false.2 fun x hx => by simp [h.agree hm x hx]]
      rfl
  have hout : (if d.send = true then none else checkSpan v (partOfTile s t) d.outAddr (mergedSize (tblWidth v (partOfTile s t) d.table)
      * (keyRows ((List.range d.cnt).map (mergeKeyOf bs))).length) true) = none := by
    cases hs : d.send with
    | true => rfl
    | false => exact h.output hs
  have hall : worstMerge (checkIf (!d.multi && (keyRows ((List.range d.cnt).map (mergeKeyOf bs))).any (fun r => keysBad r.2)) badDesc
      :: (if d.send = true then none else checkSpan v (partOfTile s t) d.outAddr (mergedSize (tblWidth v (partOfTile s t) d.table)
          * (keyRows ((List.range d.cnt).map (mergeKeyOf bs))).length) true)
      :: ((List.range d.cnt).map (mergeKeyOf bs)).zipIdx.map (fun (k, i) => mergeKeyRefuse v (partOfTile s t) d bs i k)
      ++ mergeAddrs v (partOfTile s t) d
      ++ [checkIf (!verCurrent (dropMerge s t) (partOfTile s t) d.table (namedVer (dropMerge s t) (partOfTile s t) d.table d.useCur d.ver)
        || (d.useCur && !rdb (dropMerge s t) (partOfTile s t) R.TABLE_DESC_CUR_VALID d.table)) wrongState]) = none := by
    rw [worstMerge_eq_none, hver, hagree, hout]
    simp only [List.mem_append, List.mem_cons, List.mem_map, List.not_mem_nil, or_false]
    rintro x (((rfl | rfl | ⟨⟨k, i⟩, hk, rfl⟩) | hx) | rfl)
    · rfl
    · rfl
    · obtain ⟨-, hi, hk⟩ := List.mem_zipIdx hk
      simp only [List.length_map, List.length_range, Nat.zero_add] at hi
      simp only [hk, Nat.sub_zero, List.getElem_map, List.getElem_range]
      exact h.keys i hi
    · exact h.addrs x hx
    · rfl
  have hdesc : d = mergeDescOf (sramRead (dropMerge s t) (spKey t a) 64) := h.desc
  have hbusy : devTgBusy (dropMerge s t) (devSpace (dropMerge s t) (partOfTile s t) d.keyAddr) (32 * d.cnt) = false := h.keyFree
  have hread : noteRead (dropMerge s t) (partOfTile s t) (devSpace (dropMerge s t) (partOfTile s t) d.keyAddr) (32 * d.cnt)
      (srcCluster (clusterOfTile t) 0x40) = v := h.read.symm
  unfold startMerge
  simp only [h.operand, h.tail, h.first, Bool.false_and, Bool.false_eq_true, ne_eq, not_true_eq_false, if_false, ← hdesc, h.static, hbusy, hread,
    h.bytes, hall]
  rfl

theorem sends_keyRead : Sends (dropMerge s t) v := by
  rw [h.read]
  exact sends_noteRead ..

theorem isHold_keyRead (hm : MayStart s t 3 5 e) : isHold v (partOfTile s t) = false := by
  obtain ⟨-, hsafe, -⟩ := (sends_keyRead h).kept
  exact (isHold_of_rd hsafe ((sends_keyRead h).rd (partOfTile_lt s t) rfl (by decide))).trans (isHold_of_running (headEntry_eq_some hm.1).1)

end

theorem partOfTile_eq_partOfCluster (s : State) (t : Nat) : partOfTile s t = partOfCluster s (clusterOfTile t) := by
  simp only [partOfTile, partOfCluster, clusterOfTile, Nat.div_div_eq_div_mul, Nat.reduceMul]

/-- A merge that sends takes the next sequence number of the step (R138). -/
theorem seqGiven_mergeGo (s : State) (t : Nat) (e : QEntry) (desc : List Byte) {d : MergeDesc} (keys : List MergeKey) (hd : d.send = true) :
    seqGiven (mergeGo s t e desc d keys).1 (clusterOfTile t) = seqGiven s (clusterOfTile t) + 1 := by
  have hseq : mapGet (0, 0) (mergeGo s t e desc d keys).1.cloveSeq (clusterOfTile t)
      = (rd s (partOfTile s t) R.ST_NOW_STEP, seqGiven s (clusterOfTile t) + 1) := by
    simp only [mergeGo, hd, if_true, mapGet_mapSet_same]
  have hstep : rd (mergeGo s t e desc d keys).1 (partOfCluster (mergeGo s t e desc d keys).1 (clusterOfTile t)) R.ST_NOW_STEP
      = rd s (partOfTile s t) R.ST_NOW_STEP := by
    rw [partOfTile_eq_partOfCluster]
    rfl
  rw [seqGiven, hseq, hstep]
  exact if_pos rfl

theorem cloveSeq_mergeGo (s : State) (t : Nat) (e : QEntry) (desc : List Byte) {d : MergeDesc} (keys : List MergeKey) (hd : d.send = false) :
    (mergeGo s t e desc d keys).1.cloveSeq = s.cloveSeq := by
  simp only [mergeGo, hd, Bool.false_eq_true, if_false]

theorem merge_started {s v : State} {t : Tile} {e : QEntry} {ext bs : List Byte} {a : Nat} {d : MergeDesc} (hm : MayStart s t 3 5 e)
    (h : MergeGood s v t e ext bs a d) :
    ∃ u r run, exec (.merge t ext .none) s = .next u ∧ Started s u t 3 e r ∧ r.finished = false ∧ QueuesOnly s u t
      ∧ u = { v with tiles := u.tiles, clove := mapSet v.clove (clusterOfTile t) run, cloveSeq := u.cloveSeq, msgSeq := v.msgSeq + 1 }
      ∧ run.tile = t.val ∧ run.keys = (List.range d.cnt).map (mergeKeyOf bs) ∧ run.seq = seqGiven v (clusterOfTile t)
      ∧ run.done = 0 ∧ run.sent = false ∧ run.waiting = [] ∧ run.status = St.OK
      ∧ (d.send = true → seqGiven u (clusterOfTile t) = seqGiven v (clusterOfTile t) + 1) ∧ (d.send = false → u.cloveSeq = v.cloveSeq) := by
  obtain ⟨-, -, -, -, htiles⟩ := (sends_keyRead h).kept
  obtain ⟨keys, hkeys⟩ : ∃ keys, keys = (List.range d.cnt).map (mergeKeyOf bs) := ⟨_, rfl⟩
  have hready := isHold_keyRead h hm
  have hhold : isHold (mergeGo v t e (sramRead s (spKey t a) 64) d keys).1 (partOfTile s t) = false := hready
  have hgoes := startMerge_goes h
  rw [← hkeys] at hgoes ⊢
  have hexec : exec (.merge t ext .none) s = .next (startCmd (mergeGo v t e (sramRead s (spKey t a) 64) d keys).1 t 3
      (mergeGo v t e (sramRead s (spKey t a) 64) d keys).2) := by
    refine congrArg Host.Outcome.next ?_
    rw [mergeArrive_free h.first]
    exact engineRow_starts hm rfl hgoes hhold
  exact ⟨_, _, _, hexec, startCmd_started hm.1 htiles rfl, rfl, queuesOnly_setQueue htiles, rfl, rfl, rfl, rfl, rfl, rfl, rfl, rfl,

    seqGiven_mergeGo v t e (sramRead s (spKey t a) 64) keys, cloveSeq_mergeGo v t e (sramRead s (spKey t a) 64) keys⟩

end Sys2Proof.Machine
end

section
/-!
SUPPORT. The passes of a merge (R133, R134, R136, R138, R140): a pass before the last writes its runs; the final one sends or writes its rows.
-/

open Sys2Proof Sys2Proof.Machine Sys2Proof.Claims

namespace Sys2Proof.Machine

/-! ### Writes leave the Clove units alone -/

theorem clove_blockPut {s s' : State} {k off : Nat} {bs : List Byte} (h : blockPut s k off bs = some s') : s'.clove = s.clove := by
  unfold blockPut at h
  dsimp only at h
  split at h
  · injection h with h
    rw [← h]
    rfl
  · exact nomatch h

theorem clove_writeBlock {s s' : State} {raw : Bool} {k o : Nat} {bs : List Byte}
    (h : (if raw then .ok (hbmWrite s (hbmKey k o) bs) else match blockPut s k o bs with | some s => .ok s | none => .error checksumBad :
      Except Refuse State) = .ok s') : s'.clove = s.clove := by
  split at h
  · injection h with h
    rw [← h]
    rfl
  · split at h
    · next hput =>
      injection h with h
      exact h ▸ clove_blockPut hput
    · exact nomatch h

theorem clove_writePiece {s s' : State} {p unit msg n : Nat} {x : Space} {bs : List Byte} (h : writePiece s p x unit msg n bs = .ok s') :
    s'.clove = s.clove := by
  unfold writePiece at h
  split at h
  · exact clove_writeBlock h
  · exact clove_writeBlock h
  all_goals
    injection h with h
    rw [← h]
  · rfl
  · rfl
  · split <;> rfl
  · rw [(sends_post ..).frame]

theorem clove_writePieces (p : Nat) (x : Space) (unit msg : Nat) (bs : List Byte) (l : List (Nat × Nat)) (s : State) :
    (writePieces s p x unit msg bs l).1.clove = s.clove := by
  induction l generalizing s with
  | nil => rfl
  | cons y l ih =>
    unfold writePieces
    split
    · rfl
    · next h => exact (ih _).trans (clove_writePiece h)

theorem clove_writeRuns (p unit msg : Nat) (runs : List (Nat × List Byte)) (s : State) : (writeRuns s p runs unit msg).1.clove = s.clove := by
  induction runs generalizing s with
  | nil => rfl
  | cons y runs ih =>
    unfold writeRuns
    have hwrite : (devWrite s p (devSpace s p y.1) y.2 unit msg).1.clove = s.clove := clove_writePieces ..
    split
    · next h => rw [h] at hwrite; exact hwrite
    · next h => rw [h] at hwrite; exact (ih _).trans hwrite

/-! ### A pass -/

theorem exec_clovePassDone {s : State} {c : Cluster} {ext : List Byte} {run : CloveRun} (hrun : mapFind s.clove c = some run)
    (hr : running s (partOfCluster s c) = true) (hsent : run.sent = false) (hacks : run.acks = 0)
    (hfree : ∀ x ∈ passReads s (partOfCluster s c) run ++ passWrites s (partOfCluster s c) run,
      devTgBusy s (devSpace s (partOfCluster s c) x.1) x.2 = false) :
    exec (.clovePassDone c ext .none) s = .next (clovePass s (partOfCluster s c) c run ext) := by
  have hany : (passReads s (partOfCluster s c) run ++ passWrites s (partOfCluster s c) run).any
      (fun x => devTgBusy s (devSpace s (partOfCluster s c) x.1) x.2) = false := List.any_eq_false.2 fun x hx => by simp [hfree x hx]
  refine congrArg Host.Outcome.next ?_
  simp only [hrun, hr, hsent, hacks, hany, Bool.not_true, bne_self_eq_false, Bool.or_self, Bool.false_eq_true, if_false]
  rfl

/-- The reads of a pass leave; the cluster's partition stays what it was. -/
theorem foldl_noteRead_eq_passRead (s : State) (c : Cluster) (run : CloveRun) :
    (passReads s (partOfCluster s c) run).foldl (fun u x => noteRead u (partOfCluster s c) (devSpace u (partOfCluster s c) x.1) x.2
      (srcCluster c 0x40)) s = passRead s c run := by
  have hfold (l : List (Nat × Nat)) (u : State) (hu : u.mode = s.mode) :
      l.foldl (fun u x => noteRead u (partOfCluster s c) (devSpace u (partOfCluster s c) x.1) x.2 (srcCluster c 0x40)) u
        = l.foldl (fun u x => noteRead u (partOfCluster u c) (devSpace u (partOfCluster u c) x.1) x.2 (srcCluster c 0x40)) u := by
    induction l generalizing u with
    | nil => rw [List.foldl_nil, List.foldl_nil]
    | cons x l ih =>
      have hpart : partOfCluster u c = partOfCluster s c := by simp only [partOfCluster, partOfDie, hu]
      obtain ⟨hmode, -⟩ := (sends_noteRead u (partOfCluster s c) (devSpace u (partOfCluster s c) x.1) x.2 (srcCluster c 0x40) 0).kept
      rw [List.foldl_cons, List.foldl_cons, hpart, ih _ (hmode.trans hu)]
  exact hfold _ s rfl

section
variable {s v : State} {c : Cluster} {run : CloveRun} {ext rest : List Byte} (hv : v = passRead s c run)
  (hrest : readRuns v (partOfCluster s c) run ext = .ok rest)
include hv hrest

/-- A pass before the last counts itself (R134). -/
theorem clovePass_counts {w : State} {x : Space} (hmore : run.done + 1 < run.passes)
    (hx : x = devSpace v (partOfCluster s c) (runHalf (mergeDescOf run.desc) run.done))
    (hw : devWrite (tickFree v) (partOfCluster s c) x (freshBytes v (16 * (mergeDescOf run.desc).cnt)) (srcCluster c 0x40) run.msgId
      = (w, none)) :
    clovePass s (partOfCluster s c) c run ext = { w with clove := mapSet w.clove c { run with
      done := run.done + 1, acks := remoteFrames v (partOfCluster s c) x (16 * (mergeDescOf run.desc).cnt) } } := by
  subst hv hx
  unfold clovePass
  simp only [foldl_noteRead_eq_passRead, hrest, hmore, if_true, hw]

theorem clovePass_final (hlast : run.passes ≤ run.done + 1) :
    clovePass s (partOfCluster s c) c run ext = mergeFinal v (partOfCluster s c) c run rest := by
  subst hv
  unfold clovePass
  simp only [foldl_noteRead_eq_passRead, hrest, Nat.not_lt.2 hlast, if_false]

end

/-! ### The final pass -/

theorem sends_sendContrib (p c : Nat) (d : MergeDesc) (run : CloveRun) (x : State × List (Nat × Nat × Bool)) (m : Merged) :
    Sends x.1 (sendContrib p c d run x m).1 ∧ (∀ w ∈ x.2, w ∈ (sendContrib p c d run x m).2)
      ∧ (m.row, m.key.node, false) ∈ (sendContrib p c d run x m).2 := by
  obtain ⟨s, wait⟩ := x
  unfold sendContrib
  dsimp only
  split <;> dsimp only
  · exact ⟨(sends_emit ..).trans (sends_emit ..), fun w hw => List.mem_append_left _ hw, by simp⟩
  · exact ⟨sends_emit .., fun w hw => List.mem_append_left _ hw, by simp⟩

/-- The rows leave one by one, and each home must acknowledge its row (R140). -/
theorem sends_sendContribs (p c : Nat) (d : MergeDesc) (run : CloveRun) (ms : List Merged) (x : State × List (Nat × Nat × Bool)) :
    Sends x.1 (ms.foldl (sendContrib p c d run) x).1 ∧ (∀ w ∈ x.2, w ∈ (ms.foldl (sendContrib p c d run) x).2)
      ∧ ∀ m ∈ ms, (m.row, m.key.node, false) ∈ (ms.foldl (sendContrib p c d run) x).2 := by
  induction ms generalizing x with
  | nil => exact ⟨.refl _, fun _ h => h, fun _ h => nomatch h⟩
  | cons m ms ih =>
    obtain ⟨hsends, hkeep, hnew⟩ := sends_sendContrib p c d run x m
    obtain ⟨hsends', hkeep', hall⟩ := ih (sendContrib p c d run x m)
    exact ⟨hsends.trans hsends', fun w hw => hkeep' w (hkeep w hw), List.forall_mem_cons.2 ⟨hkeep' _ hnew, hall⟩⟩

theorem sends_withdraw (s : State) (p c : Nat) (run : CloveRun) (wait : List (Nat × Nat × Bool)) : Sends s (withdraw s p c run wait) :=
  Sends.trans (.foldl (fun _ _ => sends_emit ..) _ _) (.foldl (fun _ _ => sends_emit ..) _ _)

theorem Sends.clove {s u : State} (h : Sends s u) : u.clove = s.clove := by rw [h.frame]

/-- Rows up to the first whose keys disagree are all rows exactly when the keys of each agree. -/
theorem takeWhile_short_iff (rows : List (Nat × List MergeKey)) :
    (rows.takeWhile (fun r => !keysBad r.2)).length < rows.length ↔ ∃ x ∈ rows, keysBad x.2 = true := by
  have hprefix := List.takeWhile_prefix (l := rows) (fun r => !keysBad r.2)
  rw [hprefix.length_le.lt_iff_ne, ne_eq, ← not_iff_not, not_not]
  constructor
  · intro h
    have := List.takeWhile_eq_self_iff.1 (hprefix.eq_of_length h)
    push Not
    exact fun x hx => by simpa using this x hx
  · intro h
    rw [List.takeWhile_eq_self_iff.2 fun x hx => ?_]
    push Not at h
    simpa using h x hx

/-- The run at the end of the final pass, with its counts. -/
def countedRun (run : CloveRun) (ms : List Merged) : CloveRun := { run with unique := ms.length, maxCount := maxOf (ms.map (·.count)) }

/-- The final pass is over: the unit's run is r in u, and no other unit has changed. -/
structure PassOver (v u : State) (c : Nat) (run r : CloveRun) (ms : List Merged) : Prop where
  clove  : u.clove = mapSet v.clove c r
  sent   : r.sent = true
  done   : r.done = run.passes
  unique : r.unique = ms.length

theorem passOver_runOver {v u : State} (h : u.clove = v.clove) (c : Nat) (run : CloveRun) (ms : List Merged) {r : CloveRun}
    (hp : r.passes = run.passes) (hu : r.unique = ms.length) : PassOver v (runOver u c r) c run { r with done := r.passes, sent := true } ms :=
  ⟨congrArg (fun l => mapSet l c _) h, rfl, hp, hu⟩

section
variable {v : State} {p c : Nat} {run : CloveRun} {d : MergeDesc} {ext : List Byte} {ms : List Merged} (hd : d = mergeDescOf run.desc)
  (hms : mergeRows v p d (tblWidth v p d.table) ext ((keyRows run.keys).takeWhile (fun r => !keysBad r.2)) 0 = .ok ms)
include hd hms

/-- Rows with homes that a message can reach are sent; keys of a row that disagree end the run and withdraw what it sent (R131, R138, R140). -/
theorem mergeFinal_sends (hsend : d.send = true) (hall : ∀ m ∈ ms, sendable v p d.table m.key.node m.row = true) :
    ∃ u r, mergeFinal v p c run ext = u ∧ PassOver v u c run r ms ∧ u.sram = v.sram ∧ u.hbm = v.hbm
      ∧ ((∀ x ∈ keyRows run.keys, keysBad x.2 = false) → r.status = run.status ∧ ∀ m ∈ ms, (m.row, m.key.node, false) ∈ r.waiting)
      ∧ ((∃ x ∈ keyRows run.keys, keysBad x.2 = true) → r.status = St.BAD_DESC ∧ r.waiting = run.waiting) := by
  subst hd
  have hany : ms.any (fun m => !sendable v p (mergeDescOf run.desc).table m.key.node m.row) = false :=
    List.any_eq_false.2 fun m hm => by simp [hall m hm]
  obtain ⟨hsent, -, hwait⟩ := sends_sendContribs p c (mergeDescOf run.desc) (countedRun run ms) ms (v, [])
  obtain ⟨⟨u, wait⟩, hu⟩ : ∃ x, x = ms.foldl (sendContrib p c (mergeDescOf run.desc) (countedRun run ms)) (v, []) := ⟨_, rfl⟩
  rw [← hu] at hsent hwait
  have hfinal : mergeFinal v p c run ext =
      if decide (((keyRows run.keys).takeWhile (fun r => !keysBad r.2)).length < (keyRows run.keys).length) then
        runOver (withdraw u p c (countedRun run ms) wait) c ((countedRun run ms).fail badDesc)
      else runOver u c { countedRun run ms with waiting := wait } := by
    unfold countedRun at hu ⊢
    simp only [mergeFinal, hms, hsend, if_true, hany, Bool.false_eq_true, if_false, ← hu]
  rw [hfinal]
  by_cases hbad : ∃ x ∈ keyRows run.keys, keysBad x.2 = true
  · have hstop := hsent.trans (sends_withdraw u p c (countedRun run ms) wait)
    obtain ⟨-, -, hsram, hhbm, -⟩ := hstop.kept
    rw [if_pos (decide_eq_true ((takeWhile_short_iff _).2 hbad))]
    refine ⟨_, _, rfl, passOver_runOver hstop.clove c run ms rfl rfl, hsram, hhbm, fun hgood => ?_, fun _ => ⟨rfl, rfl⟩⟩
    obtain ⟨x, hx, hxb⟩ := hbad
    exact absurd hxb (by simp [hgood x hx])
  · obtain ⟨-, -, hsram, hhbm, -⟩ := hsent.kept
    rw [if_neg fun h => hbad ((takeWhile_short_iff _).1 (of_decide_eq_true h))]
    exact ⟨_, _, rfl, passOver_runOver hsent.clove c run ms rfl rfl, hsram, hhbm, fun _ => ⟨rfl, hwait⟩, fun h => absurd h hbad⟩

/-- A home without a route ends the run before anything is sent. -/
theorem mergeFinal_unroutable (hsend : d.send = true) (hno : ¬ ∀ m ∈ ms, sendable v p d.table m.key.node m.row = true) :
    ∃ u r, mergeFinal v p c run ext = u ∧ PassOver v u c run r ms := by
  subst hd
  have hany : ms.any (fun m => !sendable v p (mergeDescOf run.desc).table m.key.node m.row) = true := by
    rw [List.any_eq_true]
    push Not at hno
    simpa using hno
  have hfinal : mergeFinal v p c run ext = runOver v c ((countedRun run ms).fail noRoute) := by
    unfold countedRun
    simp only [mergeFinal, hms, hsend, if_true, hany]
  exact ⟨_, _, hfinal, passOver_runOver rfl c run ms rfl rfl⟩

/-- Without SEND the rows are written (R136). -/
theorem mergeFinal_writes (hsend : d.send = false) :
    ∃ u r, mergeFinal v p c run ext = u ∧ PassOver v u c run r ms
      ∧ ((∀ x ∈ keyRows run.keys, keysBad x.2 = false) →
        (writeRows v p d.outAddr (mergedSize (tblWidth v p d.table)) (ms.map (mergedRecord d (tblWidth v p d.table))) (srcCluster c 0x40)
          run.msgId).2 = none → r.status = run.status ∧ r.waiting = run.waiting) := by
  subst hd
  obtain ⟨⟨u, o⟩, hu⟩ : ∃ x, x = writeRows v p (mergeDescOf run.desc).outAddr (mergedSize (tblWidth v p (mergeDescOf run.desc).table))
    (ms.map (mergedRecord (mergeDescOf run.desc) (tblWidth v p (mergeDescOf run.desc).table))) (srcCluster c 0x40) run.msgId := ⟨_, rfl⟩
  have hclove : u.clove = v.clove := by
    have := clove_writeRuns p (srcCluster c 0x40) run.msgId (rowRuns v p (mergeDescOf run.desc).outAddr
      (mergedSize (tblWidth v p (mergeDescOf run.desc).table)) (ms.map (mergedRecord (mergeDescOf run.desc)
        (tblWidth v p (mergeDescOf run.desc).table)))) v
    rw [← writeRows, ← hu] at this
    exact this
  rw [← hu]
  cases o with
  | some e =>
    have hfinal : mergeFinal v p c run ext = runOver u c ((countedRun run ms).fail e) := by
      unfold countedRun
      simp only [mergeFinal, hms, hsend, Bool.false_eq_true, if_false, ← hu]
    exact ⟨_, _, hfinal, passOver_runOver hclove c run ms rfl rfl, fun _ h => nomatch h⟩
  | none =>
    obtain ⟨acks, hacks⟩ : ∃ n, n = runFrames v p (rowRuns v p (mergeDescOf run.desc).outAddr
      (mergedSize (tblWidth v p (mergeDescOf run.desc).table)) (ms.map (mergedRecord (mergeDescOf run.desc)
        (tblWidth v p (mergeDescOf run.desc).table)))) := ⟨_, rfl⟩
    have hfinal : mergeFinal v p c run ext = runOver u c
        (if decide (((keyRows run.keys).takeWhile (fun r => !keysBad r.2)).length < (keyRows run.keys).length) then
          { countedRun run ms with acks := acks }.fail badDesc else { countedRun run ms with acks := acks }) := by
      unfold countedRun
      simp only [mergeFinal, hms, hsend, Bool.false_eq_true, if_false, ← hu, ← hacks]
    by_cases hbad : ∃ x ∈ keyRows run.keys, keysBad x.2 = true
    · rw [if_pos (decide_eq_true ((takeWhile_short_iff _).2 hbad))] at hfinal
      refine ⟨_, _, hfinal, passOver_runOver hclove c run ms rfl rfl, fun hgood => ?_⟩
      obtain ⟨x, hx, hxb⟩ := hbad
      exact absurd hxb (by simp [hgood x hx])
    · rw [if_neg fun h => hbad ((takeWhile_short_iff _).1 (of_decide_eq_true h))] at hfinal
      exact ⟨_, _, hfinal, passOver_runOver hclove c run ms rfl rfl, fun _ _ => ⟨rfl, rfl⟩⟩

end

end Sys2Proof.Machine
end

section
/-!
SUPPORT. The end of a merge (R137): acknowledgements, the status word in a scratchpad, DONE_CTR, the free unit.
-/

open Sys2Proof Sys2Proof.Machine Sys2Proof.Claims

namespace Sys2Proof.Machine

/-! ### Bytes of a scratchpad -/

theorem sramCells_append (m : List Host.Cell) (a : Nat) (xs ys : List Byte) :
    sramCells m a (xs ++ ys) = sramCells (sramCells m a xs) (a + xs.length) ys := by
  induction xs generalizing m a with
  | nil => rfl
  | cons x xs ih =>
    rw [List.cons_append, sramCells, ih, List.length_cons, sramCells, Nat.add_right_comm, Nat.add_assoc]

/-- 16 bytes at any place of a scratchpad: one piece, or two where they cross a 4 KiB boundary. -/
theorem devWrite_sp16_any (s : State) (p x o unit msg : Nat) {bs : List Byte} (hb : bs.length = 16) :
    devWrite s p (.sp x o) bs unit msg = (sramWrite s (spKey x o) bs, none) := by
  change writePieces s p (.sp x o) unit msg bs (pieces o bs.length) = _
  rw [hb]
  by_cases ho : o % 4096 ≤ 4080
  · have hpieces : pieces o 16 = [(0, 16)] := by
      have hfirst : min 16 (4096 - o % 4096) = 16 := by omega
      simp only [pieces, hfirst]
      rfl
    have hall : (bs.drop 0).take 16 = bs := by rw [List.drop_zero, ← hb, List.take_length]
    simp only [hpieces, writePieces, writePiece, Space.plus, hall, Nat.add_zero]
  · obtain ⟨n, hn⟩ : ∃ n, n = 4096 - o % 4096 := ⟨_, rfl⟩
    have hpieces : pieces o 16 = [(0, n), (n, 16 - n)] := by
      have hfirst : min 16 (4096 - o % 4096) = n := by omega
      have hone : (16 - n + 4095) / 4096 = 1 := by omega
      have hrest : min 4096 (16 - n) = 16 - n := by omega
      simp only [pieces, hfirst, hone, List.range_one, List.map_cons, List.map_nil, Nat.mul_zero, Nat.add_zero, Nat.sub_zero, hrest]
      rfl
    have hfront : (bs.take n).length = n := by rw [List.length_take, hb]; omega
    have hback : (bs.drop n).take (16 - n) = bs.drop n := by rw [← hb, ← List.length_drop, List.take_length]
    have hkey : spKey x (o + n) = spKey x o + n := (Nat.add_assoc ..).symm
    have hjoin : sramCells (sramCells s.sram (spKey x o) (bs.take n)) (spKey x o + n) (bs.drop n) = sramCells s.sram (spKey x o) bs := by
      conv_rhs => rw [← List.take_append_drop n bs, sramCells_append, hfront]
    simp only [hpieces, writePieces, writePiece, Space.plus, List.drop_zero, hback, Nat.add_zero, hkey, sramWrite, hjoin]

/-- An address in a scratchpad is one for every partition. -/
theorem devSpace_sp_part {s : State} {p a x o : Nat} (h : devSpace s p a = .sp x o) (q : Nat) : devSpace s q a = .sp x o := by
  unfold devSpace at h ⊢
  have hlocal {y : Space} (hy : localSpace s p y = .sp x o) : localSpace s q y = .sp x o := by
    cases y with
    | remote r nd k o =>
      simp only [localSpace] at hy
      split at hy <;> exact nomatch hy
    | sp => exact hy
    | _ => exact nomatch hy
  exact hlocal h

/-! ### The acknowledgements -/

theorem contributionAck_taken {s : State} {p : Part} {m : ContribAck} {run : CloveRun} (hr : running s p = true)
    (hc : partOfCluster s m.cluster = p.val) (hrun : mapFind s.clove m.cluster = some run) (hseq : run.seq % 65536 = m.seq.toNat) :
    exec (.contributionAckReceive p m) s = .next { s with
      clove := mapSet s.clove m.cluster { run with waiting := run.waiting.filter (fun x => x != (m.row.toNat, m.node.toNat, m.partner)) } } := by
  refine congrArg Host.Outcome.next ((holdFrame_of_running hr ..).trans ?_)
  simp only [hr, hc, hrun, hseq, Bool.not_true, bne_self_eq_false, Bool.or_self, Bool.false_eq_true, if_false, if_true]

/-! ### The end -/

theorem mergeWord_length (run : CloveRun) (st : Nat) : (mergeWord run st).length = 16 := by
  simp only [mergeWord, leBytes, List.length_append, List.length_cons, List.length_nil]

/-- Clove signals DONE_CTR and takes its next command; the MERGE is finished in its queue (R137). -/
theorem mergeEnd_frame (s : State) (c : Nat) (run : CloveRun) :
    mergeEnd s c run = { s with
      tiles := (mergeEnd s c run).tiles, clove := mapErase s.clove c
      incs := s.incs ++ [⟨.die (Fin.ofNat 4 (run.tile / 64)) (Fin.ofNat 4096 (mergeDescOf run.desc).done), srcCluster c 0x40, 1⟩] } := rfl

/-- A merge whose status word lies in a scratchpad ends in one step. -/
theorem finishMerge_inSp {s : State} {c x o : Nat} {run : CloveRun} (hx : devSpace s (partOfTile s run.tile) (mergeDescOf run.desc).status = .sp x o)
    (st : Nat) (f : Option CmdFault) :
    ∃ r, finishMerge s c run st f = mergeEnd (sramWrite s (spKey x o) (mergeWord run st)) c r ∧ r.tile = run.tile ∧ r.desc = run.desc := by
  refine ⟨{ run with status := st, fault := f, waiting := [], worded := true, acks := 0 }, ?_, rfl, rfl⟩
  simp only [finishMerge, hx, devWrite_sp16_any s _ x o _ _ (mergeWord_length run st), remoteFrames, if_true]

/-- The row that ends a merge: MERGE_COMPLETE, or MERGE_TIMEOUT when acknowledgements are missing. -/
theorem exec_mergeEnd {s : State} {c : Cluster} {late : Bool} {run : CloveRun} {x o : Nat} (hrun : mapFind s.clove c = some run)
    (hr : running s (partOfCluster s c) = true) (hsent : run.sent = true) (hwait : run.waiting.isEmpty = !late) (hacks : run.acks = 0)
    (hworded : run.worded = false) (hx : devSpace s (partOfTile s run.tile) (mergeDescOf run.desc).status = .sp x o) :
    ∃ f, exec (if late then .mergeTimeout c else .mergeComplete c) s
      = .next (finishMerge s c run (if late then St.TIMEOUT else run.status) f) := by
  have hbusy : mergeWaits s (partOfCluster s c) run = false := by
    rw [mergeWaits, devSpace_sp_part hx]
    rfl
  cases late with
  | false =>
    refine ⟨run.fault, congrArg Host.Outcome.next ?_⟩
    simp only [hrun, hr, hsent, hwait, hacks, hworded, hbusy, Bool.not_false, BEq.rfl, Bool.and_self, if_true, Bool.false_eq_true, if_false]
  | true =>
    refine ⟨(withFault St.TIMEOUT K.LOOKUP_TIMEOUT).fault, congrArg Host.Outcome.next ?_⟩
    simp only [hrun, hr, hsent, hwait, hbusy, Bool.not_true, Bool.not_false, Bool.and_self, if_true]

theorem merge_ended {s : State} {c : Cluster} {late : Bool} {run : CloveRun} {x o : Nat} (hwf : Memory.wf s.sram = true)
    (hrun : mapFind s.clove c = some run) (hr : running s (partOfCluster s c) = true) (hsent : run.sent = true)
    (hwait : run.waiting.isEmpty = !late) (hacks : run.acks = 0) (hworded : run.worded = false)
    (hx : devSpace s (partOfTile s run.tile) (mergeDescOf run.desc).status = .sp x o) :
    ∃ u, exec (if late then .mergeTimeout c else .mergeComplete c) s = .next u ∧ u.clove = mapErase s.clove c
      ∧ u.incs = s.incs ++ [⟨.die (Fin.ofNat 4 (run.tile / 64)) (Fin.ofNat 4096 (mergeDescOf run.desc).done), srcCluster c 0x40, 1⟩]
      ∧ sramRead u (spKey x o) 16 = mergeWord run (if late then St.TIMEOUT else run.status) ∧ SramKept s u (spKey x o) 16
      ∧ u = { s with tiles := u.tiles, sram := u.sram, clove := u.clove, incs := u.incs } := by
  obtain ⟨f, hexec⟩ := exec_mergeEnd hrun hr hsent hwait hacks hworded hx
  obtain ⟨r, hfinish, htile, hdesc⟩ := finishMerge_inSp (c := c) hx (if late then St.TIMEOUT else run.status) f
  have hlen := mergeWord_length run (if late then St.TIMEOUT else run.status)
  rw [hfinish] at hexec
  refine ⟨_, hexec, rfl, ?_, ?_, fun b hb => ?_, rfl⟩
  · rw [← htile, ← hdesc]
    rfl
  · have hsame := sramRead_sramWrite_same hwf (spKey x o) (mergeWord run (if late then St.TIMEOUT else run.status))
    rw [hlen] at hsame
    exact hsame
  · exact sramGet_sramWrite_out s _ _ b (by rw [hlen]; exact hb)

/-- Settles O26: a MERGE that starts, in the state in which its keys are read; the passes, the last of which sends or writes its rows; the end
in one step, for a status word in a scratchpad. -/
theorem mergeResults : Obligations.merge_results := by
  refine fun s => ⟨fun t e ext bs a d hm ho htail hd => ⟨merge_waits hm ho htail, fun v hfirst hv hstatic haddrs hver hcur hbusy hbytes hkeys hagree hout =>
    merge_started hm ⟨ho, htail, hd, hfirst, hv, hstatic, haddrs, hver, hcur, hbusy, hbytes, hkeys, hagree, hout⟩⟩,
    fun c ext run hrun hr hsent hacks hfree => ⟨fun v w rest x hv hmore hrest hx hw => ?_, fun v rest ms hlast hv hrest hms => ?_⟩,
    fun p m run hr hc hrun hseq => contributionAck_taken hr hc hrun hseq,
    fun c late run x o hwf hrun hr hsent hwait hacks hworded hx => merge_ended hwf hrun hr hsent hwait hacks hworded hx⟩
  · rw [exec_clovePassDone hrun hr hsent hacks hfree, clovePass_counts hv hrest hmore hx hw]
  · have hexec := exec_clovePassDone (ext := ext) hrun hr hsent hacks hfree
    rw [clovePass_final hv hrest hlast] at hexec
    rw [hexec]
    cases hsend : (mergeDescOf run.desc).send with
    | false =>
      obtain ⟨u, r, hu, ⟨hclove, hover, hdone, hunique⟩, hgood⟩ := mergeFinal_writes (c := c) rfl hms hsend
      exact ⟨u, r, congrArg Host.Outcome.next hu, hclove, hover, hdone, hunique, nofun, fun _ => hgood⟩
    | true =>
      by_cases hall : ∀ m ∈ ms, sendable v (partOfCluster s c) (mergeDescOf run.desc).table m.key.node m.row = true
      · obtain ⟨u, r, hu, ⟨hclove, hover, hdone, hunique⟩, hsram, hhbm, hgood, hbad⟩ := mergeFinal_sends (c := c) rfl hms hsend hall
        exact ⟨u, r, congrArg Host.Outcome.next hu, hclove, hover, hdone, hunique, fun _ _ => ⟨hsram, hhbm, hgood, hbad⟩, nofun⟩
      · obtain ⟨u, r, hu, ⟨hclove, hover, hdone, hunique⟩⟩ := mergeFinal_unroutable (c := c) rfl hms hsend hall
        exact ⟨u, r, congrArg Host.Outcome.next hu, hclove, hover, hdone, hunique, fun _ h => absurd h hall, nofun⟩

end Sys2Proof.Machine
end

section
/-!
SUPPORT. What the entry of HOLD may touch (R49, R121, R190, R303, R333, R409, R439): the work that the units of the partition give up.
-/

open Sys2Proof Sys2Proof.Machine Sys2Proof.Claims

namespace Sys2Proof.Machine

/-- From s to u units of partition p have given up work and faults have been noted. Redirect tables, batches, load counters, increments and
the registers from the interior of the partition's map (0x600000) up to its table descriptors are as before; no new request waits. -/
structure HoldFrame (p : Nat) (s u : State) : Prop where
  frame : u = { s with
    regs := u.regs, tiles := u.tiles, sram := u.sram, hbm := u.hbm, hbmGen := u.hbmGen, freeCtr := u.freeCtr
    looks := u.looks, ownRuns := u.ownRuns, waitReqs := u.waitReqs, stackReqs := u.stackReqs, fetches := u.fetches
    clove := u.clove, cloveWait := u.cloveWait, reports := u.reports, reported := u.reported, firing := u.firing, epochWait := u.epochWait
    sdRecs := u.sdRecs, sdParts := u.sdParts, sdSkip := u.sdSkip, sdSent := u.sdSent, norms := u.norms, colls := u.colls
    hqueues := u.hqueues, hostOut := u.hostOut, irqs := u.irqs, msixPend := u.msixPend
    incDropped := u.incDropped, secondF2 := u.secondF2, holdLater := u.holdLater, heldForF2 := u.heldForF2, faultQ := u.faultQ }
  waits : ∀ x ∈ u.waitReqs, x ∈ s.waitReqs
  regs  : ∀ d k, p * 2 ^ 40 + 8 * 0x600000 ≤ k → k < p * 2 ^ 40 + 8 * 0xa10000 → mapGet d u.regs k = mapGet d s.regs k

namespace HoldFrame

variable {p : Nat}

theorem refl (s : State) : HoldFrame p s s := ⟨rfl, fun _ h => h, fun _ _ _ _ => rfl⟩

theorem trans {s u v : State} (h : HoldFrame p s u) (h' : HoldFrame p u v) : HoldFrame p s v := by
  refine ⟨?_, fun x hx => h.waits x (h'.waits x hx), fun d k hlo hhi => (h'.regs d k hlo hhi).trans (h.regs d k hlo hhi)⟩
  have := h'.frame
  rw [h.frame] at this
  exact this

/-- A change of what units hold, beside registers and waiting requests. -/
theorem of_frame {s u : State} (h : u = { s with
      tiles := u.tiles, sram := u.sram, hbm := u.hbm, hbmGen := u.hbmGen, freeCtr := u.freeCtr
      looks := u.looks, ownRuns := u.ownRuns, stackReqs := u.stackReqs, fetches := u.fetches
      clove := u.clove, cloveWait := u.cloveWait, reports := u.reports, reported := u.reported, firing := u.firing, epochWait := u.epochWait
      sdRecs := u.sdRecs, sdParts := u.sdParts, sdSkip := u.sdSkip, sdSent := u.sdSent, norms := u.norms, colls := u.colls
      hqueues := u.hqueues, hostOut := u.hostOut, irqs := u.irqs, msixPend := u.msixPend
      incDropped := u.incDropped, secondF2 := u.secondF2, holdLater := u.holdLater, heldForF2 := u.heldForF2, faultQ := u.faultQ } := by rfl) :
    HoldFrame p s u := by
  have hregs : u.regs = s.regs := by rw [h]
  have hwaits : u.waitReqs = s.waitReqs := by rw [h]
  exact ⟨by rw [hregs, hwaits]; exact h, fun x hx => hwaits ▸ hx, fun d k _ _ => by rw [hregs]⟩

theorem opt {c : Prop} [Decidable c] {s u v : State} (h : HoldFrame p s u) (h' : HoldFrame p u v) : HoldFrame p s (if c then v else u) := by
  split
  · exact h.trans h'
  · exact h

theorem ite {c : Prop} [Decidable c] {s u v : State} (h : HoldFrame p s u) (h' : HoldFrame p s v) : HoldFrame p s (if c then u else v) := by
  split
  · exact h
  · exact h'

theorem foldl {α : Type} {f : State → α → State} {l : List α} (h : ∀ s, ∀ x ∈ l, HoldFrame p s (f s x)) (s : State) :
    HoldFrame p s (l.foldl f s) := by
  induction l generalizing s with
  | nil => exact refl s
  | cons x l ih => exact (h s x List.mem_cons_self).trans (ih (fun s y hy => h s y (List.mem_cons_of_mem _ hy)) _)

/-- A write of a register before or behind those that stay. -/
theorem wr (s : State) {q : Nat} {f : Reg} {i j : Nat} (v : Nat)
    (h : fieldKey f q i j < p * 2 ^ 40 + 8 * 0x600000 ∨ p * 2 ^ 40 + 8 * 0xa10000 ≤ fieldKey f q i j) : HoldFrame p s (wr s q f v i j) :=
  ⟨rfl, fun _ h => h, fun d k hlo hhi => regsKept_wr _ _ _ _ _ _ d k (by rw [List.mem_singleton]; omega)⟩

section
variable (hp : p < 4)
include hp

/-- A package-wide register stands behind every partition's. -/
theorem wr_pkg (s : State) {q : Nat} {f : Reg} (hf : f.pkg = true) (v i j : Nat) : HoldFrame p s (Machine.wr s q f v i j) :=
  .wr s v (.inr (by simp only [fieldKey, hf, if_true]; omega))

theorem wr_own (s : State) {f : Reg} {i j : Nat} (v : Nat)
    (h : 8 * (f.base + i * f.stride + j * f.stride2) + f.lsb < 8 * 0x600000 ∨ 0xa10000 ≤ f.base) : HoldFrame p s (Machine.wr s p f v i j) := by
  cases hf : f.pkg with
  | true => exact wr_pkg hp s hf v i j
  | false => exact .wr s v (by simp only [fieldKey, hf, Bool.false_eq_true, if_false]; omega)

/-- A field of a host queue. -/
theorem wr_queue (s : State) {f : Reg} {q : Nat} (hq : q < 256) (v : Nat) (hb : f.base < 0x120000 := by decide)
    (hs : f.stride = 0x40 := by rfl) (hl : f.lsb < 64 := by decide) : HoldFrame p s (Machine.wr s p f v q) :=
  wr_own hp s v (.inl (by rw [hs]; omega))

end

/-! ### Memories and tiles -/

theorem sramWrite (s : State) (a : Nat) (bs : List Byte) : HoldFrame p s (sramWrite s a bs) := .of_frame

theorem havoc (s : State) (l : List (Bool × Nat × Nat)) : HoldFrame p s (havoc s l) := .foldl (fun _ _ _ => .ite .of_frame .of_frame) _

theorem devForget (s : State) (x : Space) (n : Nat) : HoldFrame p s (devForget s x n) := by
  cases x with
  | inter r d o => exact .foldl (fun _ _ _ => .of_frame) _
  | hbm => exact .of_frame
  | clm => exact .of_frame
  | sp => exact .of_frame
  | win => exact .refl s
  | remote => exact .refl s

theorem mmaTile (s : State) (t : Nat) (m : MmaCmd) (cs : List Nat) (n : Nat) : HoldFrame p s (mmaTile s t m cs n) :=
  HoldFrame.trans (.opt (.refl s) .of_frame) (.foldl (fun _ _ _ => .foldl (fun _ _ _ => .of_frame) _) _)

theorem abandonMma (s : State) (t : Nat) (r : RunCmd) : HoldFrame p s (abandonMma s t r) :=
  .opt (.refl s) ((sramWrite ..).trans ((mmaTile ..).trans .of_frame))

theorem putOld (s : State) (h : Bool) (key : Nat) (b : Option Byte) : HoldFrame p s (putOld s h key b) := by
  cases b with
  | none => exact .of_frame
  | some b => cases h <;> exact .of_frame

theorem abandonDrain (s : State) (r : RunCmd) : HoldFrame p s (abandonDrain s r) :=
  HoldFrame.trans (.foldl (fun u _ _ => .opt (.refl u) (putOld ..)) _) .of_frame

section
variable (hp : p < 4)
include hp

/-! ### A tile's commands (R190, R222) -/

theorem abandonBind (s : State) (t : Nat) (c : Cmd) : HoldFrame p s (abandonBind s t c) := by
  refine HoldFrame.trans ?_ (wr_pkg hp _ rfl ..)
  cases cbit c 8 16 <;> exact wr_pkg hp s rfl ..

theorem abandonMatrix (s : State) (t : Nat) (r : RunCmd) : HoldFrame p s (abandonMatrix s t r) := by
  unfold Machine.abandonMatrix
  split
  · exact abandonMma ..
  · exact abandonDrain ..
  · exact .opt (.refl s) (abandonBind hp ..)
  · exact havoc ..

/-- The load that a command or descriptor was making ends. -/
theorem dropLoading {s u : State} (h : HoldFrame p s u) (o : Option Nat) :
    HoldFrame p s (match o with | some t => Machine.dropLoad u t | none => u) := by
  cases o with
  | none => exact h
  | some t => exact h.trans ((wr_pkg hp u rfl ..).trans .of_frame)

theorem abandonCmd (s : State) (t q before after : Nat) (r : RunCmd) : HoldFrame p s (abandonCmd s t q before after r) :=
  dropLoading hp (.ite .of_frame (.ite (HoldFrame.trans .of_frame (abandonMatrix hp ..)) (HoldFrame.trans .of_frame (havoc ..)))) r.loading

theorem abandonCmds (t q : Nat) (l : List RunCmd) (s : State) (before : Nat) : HoldFrame p s (abandonCmds s t q before l) := by
  induction l generalizing s before with
  | nil => exact .refl s
  | cons r l ih => exact (abandonCmd hp ..).trans (ih ..)

theorem holdEngQueue (s : State) (t q : Nat) : HoldFrame p s (holdEngQueue s t q) := by
  have h : HoldFrame p s (if q = 3 then dropMerge s t else s) := .opt (.refl s) .of_frame
  exact h.trans (HoldFrame.trans .of_frame ((wr_pkg hp _ rfl ..).trans (abandonCmds hp ..)))

theorem holdTile (s : State) (t : Nat) : HoldFrame p s (holdTile s t) := by
  have h : HoldFrame p s (if rd s 4 R.TILE_STATUS_STATE t = 1 then
      Machine.wr (Machine.wr s 4 R.TILE_STATUS_HALT_CODE 0xFF t) 4 R.TILE_STATUS_STATE 0 t else s) :=
    .opt (.refl s) ((wr_pkg hp _ rfl ..).trans (wr_pkg hp _ rfl ..))
  exact h.trans (HoldFrame.trans .of_frame (.foldl (fun s q _ => holdEngQueue hp s t q) _))

/-! ### Look-ups, collectives, the step-decision unit (R121, R303, R333) -/

theorem releaseVer (s : State) (t n : Nat) (o : Option Nat) : HoldFrame p s (releaseVer s p t n o) := by
  cases o with
  | none => exact .refl s
  | some j => exact wr_own hp s _ (.inr (by decide))

theorem dropLooks (s : State) : HoldFrame p s (dropLooks s p) := by
  have hlook (s : State) (x : LookRun) : HoldFrame p s (Machine.releaseVer s p (bytesAt (leNat (x.desc.take 64)) 0 2 % 1024) 1 x.slot) :=
    releaseVer hp ..
  have hown (s : State) (x : OwnRun) : HoldFrame p s (Machine.releaseVer s p x.req.table.toNat 1 x.slot) := releaseVer hp ..
  have hfetch (s : State) (x : HotFetch) : HoldFrame p s (wrb s p R.HOTROW_SET_FETCH_BUSY false x.set) := wr_own hp s _ (.inr (by decide))
  have hlists (u : State) : HoldFrame p u { u with
      waitReqs := u.waitReqs.filter (·.1 != p), stackReqs := u.stackReqs.filter (fun x => x.1 != p || x.2.isCommand) } :=
    ⟨rfl, fun x hx => List.mem_of_mem_filter hx, fun _ _ _ _ => rfl⟩
  unfold Machine.dropLooks
  refine HoldFrame.trans (HoldFrame.trans ?_ (.foldl (fun s x _ => hfetch s x) _)) .of_frame
  refine HoldFrame.trans (HoldFrame.trans ?_ (.foldl (fun s x _ => ?_) _)) (hlists _)
  · refine HoldFrame.trans (HoldFrame.trans ?_ (.foldl (fun s x _ => hown s x) _)) .of_frame
    exact HoldFrame.trans (.foldl (fun s x _ => hlook s x) _) .of_frame
  · split <;> exact releaseVer hp ..

theorem holdColl (s : State) {i : Nat} (hi : i < 64) : HoldFrame p s (holdColl s p i) := by
  have h (o : Option CollRun) : HoldFrame p s (match o with
      | some x => { s with colls := mapSet s.colls (64 * p + i) { x with failed := false, input := [], got := [], parts := [], early := [] } }
      | none => s) := by cases o <;> exact .of_frame
  exact .opt (h _) ((wr_own hp _ _ (.inl (by simp only [R.COLL_SLOT_CSTATE]; omega))).trans (devForget ..))

theorem holdSd (s : State) : HoldFrame p s (holdSd s p) :=
  .ite .of_frame (HoldFrame.trans .of_frame (wr_own hp _ _ (.inl (by decide))))

/-! ### Host queues (R409) -/

section
variable {q : Nat} (hq : q < 256)
include hq

theorem setDescs (s : State) (l : List QDesc) : HoldFrame p s (setDescs s p q l) :=
  HoldFrame.trans (u := setHq s p q { Machine.hq s p q with descs := l }) .of_frame (wr_queue hp _ hq _)

theorem writeRec (s : State) (r : QRec) : HoldFrame p s (writeRec s p q r) := by
  have hirq (s : State) : HoldFrame p s (qIrq s p q) :=
    HoldFrame.trans (u := setHq s p q { Machine.hq s p q with counted := 0 }) .of_frame (.ite .of_frame .of_frame)
  have hcount (s : State) : HoldFrame p s (countRec s p q) := .ite (HoldFrame.trans .of_frame (hirq _)) .of_frame
  unfold Machine.writeRec
  refine .opt (HoldFrame.trans (.opt (HoldFrame.trans ?_ (wr_queue hp _ hq _)) (wr_queue hp _ hq _)) (wr_queue hp _ hq _)) (hcount _)
  exact .of_frame

theorem qRecord (s : State) (r : QRec) : HoldFrame p s (qRecord s p q r) := by
  have hdrain (s : State) : HoldFrame p s (drainRecs s p q) :=
    .ite (HoldFrame.trans .of_frame (.foldl (fun s r _ => writeRec hp hq s r) _)) (.refl s)
  exact .ite (HoldFrame.trans .of_frame (hdrain _)) (.refl s)

theorem abandonDesc (s : State) (status : Option Nat) (d : QDesc) : HoldFrame p s (abandonDesc s p q status d) := by
  have h : HoldFrame p s (tickFree (if d.flushing then s else Machine.havoc s d.undef)) := HoldFrame.trans (.ite (.refl s) (havoc ..)) .of_frame
  cases status with
  | none => exact dropLoading hp h d.loading
  | some st => exact (dropLoading hp h d.loading).trans (qRecord hp hq ..)

theorem abandonQueue (s : State) (status : Option Nat) (keep : Bool) : HoldFrame p s (abandonQueue s p q status keep) :=
  (setDescs hp hq ..).trans (HoldFrame.trans .of_frame (.foldl (fun s d _ => abandonDesc hp hq s status d) _))

end

theorem holdQueues (s : State) : HoldFrame p s (holdQueues s p) :=
  .foldl (fun s q hq =>
    have hq := List.mem_range.1 hq
    .ite ((abandonQueue hp hq s ..).trans (wr_queue hp _ hq _)) (.refl s)) _

/-! ### The partition -/

theorem applyHold (s : State) : HoldFrame p s (applyHold s p) := by
  have hline (u : State) : HoldFrame p u { u with
      clove := u.clove.filter (fun x => partOfCluster u x.1 != p), cloveWait := u.cloveWait.filter (fun x => partOfCluster u x.1 != p) } := .of_frame
  have hstep (u : State) : HoldFrame p u { u with
      reports := mapErase u.reports p, reported := mapErase u.reported p, firing := mapErase u.firing p, epochWait := mapErase u.epochWait p } :=
    .of_frame
  unfold Machine.applyHold
  refine HoldFrame.trans ?_ (holdQueues hp _)
  refine HoldFrame.trans ?_ (.foldl (fun s i hi => holdColl hp s (List.mem_range.1 hi)) _)
  refine HoldFrame.trans ?_ (holdSd hp _)
  refine HoldFrame.trans (HoldFrame.trans ?_ (hstep _)) (wr_own hp _ _ (.inl (by decide)))
  refine HoldFrame.trans (HoldFrame.trans ?_ (dropLooks hp _)) (hline _)
  exact .foldl (fun s t _ => holdTile hp s t) _

theorem enterHold (s : State) : HoldFrame p s (enterHold s p) := by
  have hstate : HoldFrame p s (Machine.wr s p R.PART_CFG_PART_STATE 1) := wr_own hp s _ (.inl (by decide))
  unfold Machine.enterHold
  refine .ite (.refl s) ?_
  generalize Machine.wr s p R.PART_CFG_PART_STATE 1 = u at hstate
  have hlists : HoldFrame p s { u with incDropped := u.incDropped.filter (· != p), secondF2 := mapErase u.secondF2 p } := hstate.trans .of_frame
  exact .ite (hlists.trans .of_frame) (hlists.trans (applyHold hp _))

/-- A fault of a class below F3. -/
theorem raise (s : State) (src : Nat) {k : Kind} (hk : k.cls ≠ 3) (addr detail : Nat) : HoldFrame p s (raise s src k p addr detail) := by
  have hsent : HoldFrame p s (sendFault s (mkFault src k p addr detail)) := .of_frame
  simp only [Machine.raise, hk, if_false]
  generalize sendFault s (mkFault src k p addr detail) = u at hsent
  have hheld : HoldFrame p u (if u.heldForF2.contains p then u else { u with heldForF2 := p :: u.heldForF2 }) := .ite (.refl u) .of_frame
  exact hsent.opt (hheld.trans (enterHold hp _))

/-- An engine's fault is of class F2. -/
theorem engFault (s : State) (k : Nat) (update : Bool) (e : EngErr) : HoldFrame p s (engFault s p k update e) :=
  raise hp s _ (by cases e <;> cases update <;> decide) 0 0

end

end HoldFrame

end Sys2Proof.Machine
end

section
/-!
SUPPORT. The end of a step at an engine, and batches that are accepted and copied (R149, R160 to R162).
-/

open Sys2Proof Sys2Proof.Machine Sys2Proof.Claims

namespace Sys2Proof.Machine

theorem partOfStack_lt (s : State) (k : Stack) : partOfStack s k < 4 := by
  have := k.isLt
  unfold partOfStack partOfDie
  split <;> omega

/-! ### The end of a step (R149) -/

/-- The oldest step in hand of engine k is over; `rest` is left. -/
def stepEnded (s : State) (k : Nat) (rest : List (Nat × Bool)) : State :=
  { s with applying := mapSet s.applying k rest, stepped := k :: s.stepped.filter (· != k) }

theorem stepWhole_of_none {s : State} {k n : Nat} (hf : ∀ x ∈ s.fwdOuts, ¬ (x.stack = k ∧ x.step = n))
    (hl : ∀ x ∈ s.rowLocks, ¬ (x.stack = k ∧ x.step = n)) : stepWhole s k n = true := by
  simp only [stepWhole, Bool.and_eq_true, Bool.not_eq_true', List.any_eq_false, beq_iff_eq]
  exact ⟨hf, hl⟩

/-- What an engine reports: two registers of its own and one increment (R149). -/
theorem finishStep_result (s : State) {p : Nat} (hp : p < 4) (k n : Nat) (skip : Bool) :
    finishStep s p k n skip = { s with
        regs := (finishStep s p k n skip).regs
        incs := s.incs ++ [⟨.die (Fin.ofNat 4 (k / 6)) (Fin.ofNat 4096 (rd s p R.UPD_CFG_APPLY_CTR)), srcStack k 0, 1⟩] }
      ∧ rd (finishStep s p k n skip) 4 R.UPD_STATE_LAST_STEP k = n % 2 ^ 48
      ∧ rd (finishStep s p k n skip) 4 R.UPD_STATE_LAST_STATUS k = (if skip then St.STEP_SKIPPED else St.OK)
      ∧ RegsKept s (finishStep s p k n skip) [fieldKey R.UPD_STATE_LAST_STEP 4 k 0, fieldKey R.UPD_STATE_LAST_STATUS 4 k 0] := by
  have hregs : RegsKept s (finishStep s p k n skip) [fieldKey R.UPD_STATE_LAST_STEP 4 k 0, fieldKey R.UPD_STATE_LAST_STATUS 4 k 0] :=
    ((regsKept_wr s 4 R.UPD_STATE_LAST_STEP n k 0).mono (by simp)).trans
      ((regsKept_wr _ 4 R.UPD_STATE_LAST_STATUS (if skip then St.STEP_SKIPPED else St.OK) k 0).mono (by simp))
  have hctr : rd (wr (wr s 4 R.UPD_STATE_LAST_STEP n k) 4 R.UPD_STATE_LAST_STATUS (if skip then St.STEP_SKIPPED else St.OK) k) p R.UPD_CFG_APPLY_CTR
      = rd s p R.UPD_CFG_APPLY_CTR := by
    refine hregs.rd p _ 0 0 ?_
    simp only [List.mem_cons, List.not_mem_nil, or_false, fieldKey, R.UPD_CFG_APPLY_CTR, R.UPD_STATE_LAST_STEP, R.UPD_STATE_LAST_STATUS,
      Bool.false_eq_true, if_false, if_true]
    omega
  refine ⟨?_, ?_, ?_, hregs⟩
  · rw [← hctr]
    rfl
  · refine (rd_wr_ne _ _ ?_).trans (rd_wr_same ..)
    simp only [fieldKey, R.UPD_STATE_LAST_STEP, R.UPD_STATE_LAST_STATUS]
    omega
  · refine (rd_wr_same ..).trans ?_
    cases skip <;> rfl

theorem applyStepFinished_result {s v : State} {k : Stack} {n : Nat} {skip : Bool} {rest : List (Nat × Bool)}
    (hv : v = retryLocks s (partOfStack s k)) (happly : mapGet [] v.applying k = (n, skip) :: rest) (hc : clocked v (partOfStack s k) = true)
    (hf : ∀ x ∈ v.fwdOuts, ¬ (x.stack = k.val ∧ x.step = n)) (hl : ∀ x ∈ v.rowLocks, ¬ (x.stack = k.val ∧ x.step = n)) :
    ∃ u, exec (.applyStepFinished k) s = .next u ∧ mapGet [] u.applying k = rest ∧ k.val ∈ u.stepped
      ∧ rd u 4 R.UPD_STATE_LAST_STEP k = n % 2 ^ 48 ∧ rd u 4 R.UPD_STATE_LAST_STATUS k = (if skip then St.STEP_SKIPPED else St.OK)
      ∧ u.incs = v.incs ++ [⟨.die (Fin.ofNat 4 (k.val / 6)) (Fin.ofNat 4096 (rd v (partOfStack s k) R.UPD_CFG_APPLY_CTR)), srcStack k 0, 1⟩]
      ∧ u = { v with regs := u.regs, applying := u.applying, stepped := u.stepped, incs := u.incs, batches := u.batches }
      ∧ RegsKept v u [fieldKey R.UPD_STATE_LAST_STEP 4 k 0, fieldKey R.UPD_STATE_LAST_STATUS 4 k 0] := by
  obtain ⟨w, hw⟩ : ∃ w, w = finishStep (stepEnded v k rest) (partOfStack s k) k n skip := ⟨_, rfl⟩
  obtain ⟨hframe, hstep, hstatus, hregs⟩ := finishStep_result (stepEnded v k rest) (partOfStack_lt s k) k n skip
  rw [← hw] at hframe hstep hstatus hregs
  have hexec : exec (.applyStepFinished k) s = .next { w with batches := w.batches.map (fun b =>
      if b.stack = k.val ∧ (n + 1) % 2 ^ 48 = b.step then { b with ready := true } else b) } := by
    refine congrArg Host.Outcome.next ?_
    simp only [← hv, happly, hc, stepWhole_of_none hf hl, Bool.and_self, if_true, hw]
    rfl
  refine ⟨_, hexec, ?_, ?_, hstep, hstatus, ?_, ?_, hregs⟩
  · rw [hframe]
    exact mapGet_mapSet_same ..
  · rw [hframe]
    exact List.mem_cons_self
  · rw [hframe]
    rfl
  · rw [hframe]
    rfl

/-! ### A batch is accepted (R160, R161, R163) -/

/-- A list of `cnt` rows for engine k, read as `bs` from address a, that MIGRATE of partition p accepts. -/
structure BatchGood (s : State) (p k cnt a step : Nat) (bs : List Byte) : Prop where
  idle      : rdb s p R.MIG_STATUS_MIG_BUSY = false
  here      : migListWaits s p = false
  stack     : k = rd s p R.MIG_ARG_STACK
  count     : cnt = rd s p R.MIG_ARG_ENTRY_CNT
  addr      : a = rd s p R.MIG_ADDR_MIG_LIST
  target    : step = rd s p R.MIG_STEP_STEP
  own       : ownStack s p k = true
  pos       : 0 < cnt
  max       : cnt ≤ 4096
  later     : 0 < stepDiff step (rd s p R.ST_NOW_STEP)
  align     : a % 16 = 0
  checked   : checkDev s p a (16 * cnt) false = none
  inPackage : isExtern (devSpace s p a) = false
  slots     : (s.batches.filter (fun b => b.stack == k)).length < 16
  read      : readArray s p a (16 * cnt) [] = .ok bs
  reserved  : ∀ i, i < cnt → migRowRsvd bs i = false
  rows      : ∀ i, i < cnt → verCurrent s p (migRowOf bs i).table (migRowOf bs i).ver = true ∧ (migRowOf bs i).stack ≤ 23
  room      : (mapGet [] s.redirects k).length + migReserved s p k
    + (((List.range cnt).map (migRowOf bs)).filter (migNeeds s p k)).length ≤ 32768

theorem migrate_accepts {s : State} {port : HPort} {p k cnt a step : Nat} {bs : List Byte} (hctrl : ctrlAccess s port = some p)
    (h : BatchGood s p k cnt a step bs) :
    ∃ u b, exec (.migrate port) s = .next u ∧ u.batches = s.batches ++ [b] ∧ b.stack = k ∧ b.id = rd s p R.MIG_ARG_BATCH_ID ∧ b.step = step
      ∧ b.rows = (List.range cnt).map (migRowOf bs) ∧ b.installed = false ∧ rd u p R.MIG_STATUS_MIG_RESULT = 0
      ∧ u = { s with regs := u.regs, batches := u.batches } ∧ RegsKept s u [fieldKey R.MIG_STATUS_MIG_RESULT p 0 0] := by
  obtain ⟨hbusy, hwait, hk, hcnt, ha, hstep, hown, hpos, hmax, hlater, halign, hcheck, hext, hslots, hread, hrsvd, hrows, hroom⟩ := h
  have haddr : migAddrBad s p a cnt = false := by
    simp only [migAddrBad, halign, hext, hcheck, bne_self_eq_false, Bool.or_self]
  have hzero : (cnt == 0) = false := by simpa using Nat.ne_of_gt hpos
  have hbad : ((List.range cnt).any (migRowRsvd bs)
      || ((List.range cnt).map (migRowOf bs)).any (fun r => !verCurrent s p r.table r.ver || decide (23 < r.stack))) = false := by
    rw [Bool.or_eq_false_iff, List.any_eq_false, List.any_eq_false]
    refine ⟨fun i hi => by simp [hrsvd i (List.mem_range.1 hi)], fun r hr => ?_⟩
    obtain ⟨i, hi, rfl⟩ := List.mem_map.1 hr
    obtain ⟨hver, hstack⟩ := hrows i (List.mem_range.1 hi)
    simp [hver, hstack]
  have hexec : ∃ b : MigBatch, exec (.migrate port) s = .next (migResult { s with batches := s.batches ++ [b] } p St.OK)
      ∧ b.stack = k ∧ b.id = rd s p R.MIG_ARG_BATCH_ID ∧ b.step = step ∧ b.rows = (List.range cnt).map (migRowOf bs) ∧ b.installed = false := by
    refine ⟨⟨k, rd s p R.MIG_ARG_BATCH_ID, step, (List.range cnt).map (migRowOf bs),
      s.stepped.contains k && (rd s 4 R.UPD_STATE_LAST_STEP k + 1) % 2 ^ 48 == step, false⟩, congrArg Host.Outcome.next ?_, rfl, rfl, rfl, rfl, rfl⟩
    simp only [hctrl, migrateCmd, hbusy, hwait, Bool.false_eq_true, if_false]
    simp only [eccReads, migrateGo, ← hk, ← hcnt, ← ha, ← hstep, hown, hzero, Nat.not_lt.2 hmax, Int.not_le.2 hlater, haddr,
      Nat.not_le.2 hslots, hcheck, hread, hbad, Nat.not_lt.2 hroom, decide_false, Bool.not_true, Bool.or_self, Bool.false_eq_true, if_false,
      Option.isSome_none]
  obtain ⟨b, hexec, hb⟩ := hexec
  obtain ⟨hstack, hid, hbstep, hbrows, hinst⟩ := hb
  exact ⟨_, b, hexec, rfl, hstack, hid, hbstep, hbrows, hinst, rd_wr_same .., rfl,
    fun d x hx => regsKept_wr { s with batches := s.batches ++ [b] } p R.MIG_STATUS_MIG_RESULT St.OK 0 0 d x hx⟩

/-! ### A batch is copied (R162) -/

theorem retryLocks_of_none {s : State} {p : Nat} (h : ∀ x ∈ s.rowLocks, x.part ≠ p) : retryLocks s p = s := by
  have hnone : s.rowLocks.filter (fun x => x.part == p) = [] := List.filter_eq_nil_iff.2 fun x hx => by simp [h x hx]
  rw [retryLocks, hnone, List.foldl_nil]

/-- No row and no request of the partition waits: the batch alone changes. -/
theorem settleBatch_of_none {s : State} {p : Nat} (hl : ∀ x ∈ s.rowLocks, x.part ≠ p) (hw : ∀ x ∈ s.waitReqs, x.1 ≠ p) (b b' : MigBatch) :
    settleBatch s p b b' = setBatch s b { b' with installed := b'.rows.all (fun r => decide (2 ≤ r.phase)) } := by
  unfold settleBatch
  rw [retryLocks_of_none (s := setBatch s b _) hl, serveWaiting_of_none (s := setBatch s b _) hw]

theorem migrationCopyStart_copies {s v : State} {k : Stack} {batch : Byte} {ext : List (List Byte)} {b : MigBatch} {rows : List MigRow}
    (hb : s.batches.find? (fun b => b.stack == k.val && b.id == batch.toNat && b.ready && !b.installed) = some b)
    (hr : running s (partOfStack s k) = true) (hwait : batchWaits s (partOfStack s k) k b = false)
    (hcopy : migCopyRows s (partOfStack s k) k b.id b.rows ext = (v, rows, none))
    (hl : ∀ x ∈ v.rowLocks, x.part ≠ partOfStack s k) (hw : ∀ x ∈ v.waitReqs, x.1 ≠ partOfStack s k) :
    ∃ u, exec (.migrationCopyStart k batch ext .none) s = .next u ∧ u = { v with batches := u.batches }
      ∧ u.batches = v.batches.map (fun x => if x = b then { b with rows := rows, installed := rows.all (fun r => decide (2 ≤ r.phase)) } else x) := by
  have hexec : exec (.migrationCopyStart k batch ext .none) s
      = .next (setBatch v b { b with rows := rows, installed := rows.all (fun r => decide (2 ≤ r.phase)) }) := by
    have hbatch : copyBatch s (partOfStack s k) k b ext
        = setBatch v b { b with rows := rows, installed := rows.all (fun r => decide (2 ≤ r.phase)) } := by
      simp only [copyBatch, hcopy, settleBatch_of_none hl hw]
    refine congrArg Host.Outcome.next ?_
    simp only [hb, hr, hwait, Bool.not_true, Bool.or_self, Bool.false_eq_true, if_false]
    exact hbatch
  exact ⟨_, hexec, rfl, rfl⟩

end Sys2Proof.Machine
end

section
/-!
SUPPORT. Migration copies at the new home, and their acknowledgements at the hash home (R156, R162).
-/

open Sys2Proof Sys2Proof.Machine Sys2Proof.Claims

namespace Sys2Proof.Machine

/-! ### A row is created (R156) -/

theorem markDirty_frame (s : State) (k off n : Nat) : markDirty s k off n = { s with hbm := (markDirty s k off n).hbm } := by
  unfold markDirty
  split
  · rfl
  · refine List.foldlRecOn (motive := fun u : State => u = { s with hbm := u.hbm }) _ _ rfl fun u hu i _ => ?_
    dsimp only
    split
    · rw [hu]
      rfl
    · exact hu

theorem engWrite_frame (s : State) (k off : Nat) (bs : List Byte) : engWrite s k off bs = { s with hbm := (engWrite s k off bs).hbm } := by
  unfold engWrite
  rw [markDirty_frame]
  rfl

theorem blockPut_frame {s s' : State} {k off : Nat} {bs : List Byte} (h : blockPut s k off bs = some s') : s' = { s with hbm := s'.hbm } := by
  unfold blockPut at h
  dsimp only at h
  split at h
  · injection h with h
    rw [← h]
    rfl
  · exact nomatch h

theorem dirInsert_frame {k : Nat} {d : Shard} {b row slot : Nat} (fuel : Nat) {s s' : State} {i : Nat}
    (h : dirInsert s k d b row slot fuel i = .ok (some s')) : s' = { s with hbm := s'.hbm } := by
  induction fuel generalizing s i with
  | zero => exact nomatch h
  | succ fuel ih =>
    unfold dirInsert at h
    split at h
    · exact nomatch h
    · dsimp only at h
      split at h
      · injection h with h
        injection h with h
        rw [← h]
        exact engWrite_frame ..
      · split at h
        · exact ih h
        · have := ih h
          rw [engWrite_frame] at this
          exact this

/-- A row that is created touches HBM alone. -/
theorem createRow_frame {s v : State} {k row : Nat} {d : Shard} {h : Word} {bs : List Byte} (hc : createRow s k d h row bs = .ok (some v)) :
    v = { s with hbm := v.hbm } := by
  unfold createRow at hc
  split at hc
  · exact nomatch hc
  · split at hc
    · exact nomatch hc
    · dsimp only at hc
      split at hc
      · exact nomatch hc
      · split at hc
        · exact nomatch hc
        · exact nomatch hc
        · next s' hins =>
          split at hc
          · exact nomatch hc
          · next s'' hput =>
            injection hc with hc
            injection hc with hc
            have hline := dirInsert_frame 8 hins
            have hblock := blockPut_frame hput
            rw [engWrite_frame] at hline
            rw [hline] at hblock
            rw [← hc, markDirty_frame, hblock]

/-! ### A copy arrives (R162) -/

section
variable {s : State} {p : Part} {m : MigCopy}

theorem exec_migrationCopyReceive (hr : running s p = true) (hs : suEnabled s p = true) (ho : ownStack s p m.home.stack.toNat = true) :
    exec (.migrationCopyReceive p m) s = .next (if engineWaits s m.home.stack.toNat then
      { s with stackReqs := s.stackReqs ++ [(p.val, .mig m)] } else takeMigCopy s p m) := by
  refine congrArg Host.Outcome.next ((holdFrame_of_running hr ..).trans ?_)
  simp only [hr, hs, ho, Bool.not_true, Bool.false_eq_true, if_false]
  rfl

/-- The answer to a migration copy. -/
def migAnswer (m : MigCopy) (stored : Bool) : Body := .migAck m.src.toNat m.srcStack.toNat m.row.toNat m.table.toNat m.ver.toNat stored

variable {d : Shard} (hd : rowShardFor s p m.home.stack.toNat m.home.lshard.toNat m.table.toNat m.ver.toNat m.row.toNat m.shard.toNat
  m.digest.toNat = .ok d)
include hd

theorem takeMigCopy_stores {v : State} (hc : createRow s m.home.stack.toNat d (rowHash s p m.table.toNat m.row.toNat) m.row.toNat
    (m.record.take (recSize d.fmt d.w)) = .ok (some v)) (hr : CanReach v p m.src.toNat) :
    (takeMigCopy s p m).hbm = v.hbm ∧ (takeMigCopy s p m).sram = v.sram ∧ (takeMigCopy s p m).outbox = s.outbox ++ [⟨p, migAnswer m true⟩] := by
  have htake : takeMigCopy s p m = emit v p (migAnswer m true) (srcStack m.home.stack.toNat 0) := by
    simp only [takeMigCopy, hd, hc]
    rfl
  have hframe := createRow_frame hc
  rw [htake, (routed_emit (b := migAnswer m true) hr rfl ..).frame]
  exact ⟨rfl, rfl, by rw [hframe]⟩

theorem takeMigCopy_full (hc : createRow s m.home.stack.toNat d (rowHash s p m.table.toNat m.row.toNat) m.row.toNat
    (m.record.take (recSize d.fmt d.w)) = .ok none) (hr : CanReach s p m.src.toNat) :
    (takeMigCopy s p m).hbm = s.hbm ∧ (takeMigCopy s p m).sram = s.sram ∧ (takeMigCopy s p m).outbox = s.outbox ++ [⟨p, migAnswer m false⟩] := by
  have htake : takeMigCopy s p m = emit s p (migAnswer m false) (srcStack m.home.stack.toNat 0) := by
    simp only [takeMigCopy, hd, hc]
    rfl
  rw [htake, (routed_emit (b := migAnswer m false) hr rfl ..).frame]
  exact ⟨rfl, rfl, rfl⟩

end

/-! ### The old copy is marked -/

/-- What an engine's work on an old copy leaves: the Redirect tables, the batches, the rows that wait; no new request waits. -/
structure MoveKept (s u : State) : Prop where
  redirects : u.redirects = s.redirects
  batches   : u.batches = s.batches
  locks     : u.rowLocks = s.rowLocks
  waits     : ∀ x ∈ u.waitReqs, x ∈ s.waitReqs

namespace MoveKept

theorem refl (s : State) : MoveKept s s := ⟨rfl, rfl, rfl, fun _ h => h⟩

theorem trans {s u v : State} (h : MoveKept s u) (h' : MoveKept u v) : MoveKept s v :=
  ⟨h'.redirects.trans h.redirects, h'.batches.trans h.batches, h'.locks.trans h.locks, fun x hx => h.waits x (h'.waits x hx)⟩

theorem of_sends {s u : State} (h : Sends s u) : MoveKept s u := by
  rw [h.frame]
  exact ⟨rfl, rfl, rfl, fun _ h => h⟩

theorem of_hold {p : Nat} {s u : State} (h : HoldFrame p s u) : MoveKept s u :=
  ⟨by rw [h.frame], by rw [h.frame], by rw [h.frame], h.waits⟩

theorem of_hbm {s u : State} (h : u = { s with hbm := u.hbm }) : MoveKept s u := by
  rw [h]
  exact ⟨rfl, rfl, rfl, fun _ h => h⟩

end MoveKept

theorem moveKept_redirectEcho (s : State) (p k row table ver kind : Nat) (home : Nat × Nat × Nat) (batch : Nat)
    (old : Option (Nat × Nat × Nat × Nat)) : MoveKept s (redirectEcho s p k row table ver kind home batch old) := by
  unfold redirectEcho
  split
  · split
    · exact .of_sends (sends_emit ..)
    · exact .refl s
  · exact .refl s

theorem moveKept_markSlot {s s' : State} {k slot row : Nat} {d : Shard} (h : markSlot s k d slot row = .ok s') : MoveKept s s' := by
  unfold markSlot at h
  dsimp only at h
  split at h
  · exact nomatch h
  · injection h with h
    rw [← h]
    exact .of_hbm (engWrite_frame ..)

theorem moveKept_moveOld (s : State) {p : Nat} (hp : p < 4) (k : Nat) (r : MigRow) : MoveKept s (moveOld s p k r) := by
  unfold moveOld
  split
  · split
    · exact .of_sends (sends_emit ..)
    · split
      · next d _ =>
        unfold engDone
        split
        · next h => exact moveKept_markSlot h
        · exact .of_hold (HoldFrame.engFault hp ..)
      · exact .of_hold (HoldFrame.engFault hp ..)
  · exact .refl s

/-! ### The last acknowledgement (R162) -/

/-- The Redirect entry of a moved row. -/
def movedEntry (r : MigRow) : RedirectEnt := ⟨r.row, r.table, r.ver, r.node, r.stack, r.lshard⟩

theorem moveKept_migActivate (s : State) {p : Nat} (hp : p < 4) (k : Nat) (b : MigBatch) (r : MigRow) :
    MoveKept (putRedirect s none k (movedEntry r)) (migActivate s p k b r) :=
  (moveKept_redirectEcho ..).trans ((moveKept_moveOld _ hp ..).trans (moveKept_redirectEcho ..))

/-- The entry of the row is ACTIVE. -/
theorem movedEntry_mem_migActivate (s : State) {p : Nat} (hp : p < 4) (k : Nat) (b : MigBatch) (r : MigRow) :
    movedEntry r ∈ mapGet [] (migActivate s p k b r).redirects k := by
  rw [(moveKept_migActivate s hp k b r).redirects, putRedirect, redirects_setRedirects_same]
  exact List.mem_append_right _ (List.mem_singleton_self _)

/-- Rows that all are r are activated: its entry is there, and of the rest of the engine's work only Redirect tables have changed. -/
theorem foldl_migActivate {p : Nat} (hp : p < 4) (k : Nat) (b : MigBatch) (r : MigRow) (n : Nat) (s : State) :
    movedEntry r ∈ mapGet [] ((List.replicate (n + 1) r).foldl (fun s r => migActivate s p k b r) s).redirects k
      ∧ ((List.replicate (n + 1) r).foldl (fun s r => migActivate s p k b r) s).batches = s.batches
      ∧ ((List.replicate (n + 1) r).foldl (fun s r => migActivate s p k b r) s).rowLocks = s.rowLocks
      ∧ ∀ x ∈ ((List.replicate (n + 1) r).foldl (fun s r => migActivate s p k b r) s).waitReqs, x ∈ s.waitReqs := by
  obtain ⟨-, hbatches, hlocks, hwaits⟩ := moveKept_migActivate s hp k b r
  induction n generalizing s with
  | zero => exact ⟨movedEntry_mem_migActivate s hp k b r, hbatches, hlocks, hwaits⟩
  | succ n ih =>
    obtain ⟨-, hbatches', hlocks', hwaits'⟩ := moveKept_migActivate (migActivate s p k b r) hp k b r
    obtain ⟨hentry, hb, hl, hw⟩ := ih (migActivate s p k b r) hbatches' hlocks' hwaits'
    exact ⟨hentry, hb.trans hbatches, hl.trans hlocks, fun x hx => hwaits x (hw x hx)⟩

theorem mem_setBatch {s : State} {b : MigBatch} (h : b ∈ s.batches) (b' : MigBatch) : b' ∈ (setBatch s b b').batches :=
  List.mem_map.2 ⟨b, h, if_pos rfl⟩

/-- A row in flight that an acknowledgement names. -/
def migNamed (row table ver : Nat) (r : MigRow) : Bool := r.row == row && r.table == table && r.ver == ver && r.phase == 1

section
variable {s : State} {k : Stack} {row : BitVec 40} {table : BitVec 10} {ver : BitVec 16} {b : MigBatch} {r : MigRow}
  (hb : s.batches.find? (fun b => b.stack == k.val && b.rows.any
    (fun r => r.row == row.toNat && r.table == table.toNat && r.ver == ver.toNat && r.phase == 1)) = some b)
  (hr : running s (partOfStack s k) = true) (hwait : ackWaits s (partOfStack s k) k b = false)
include hb hr hwait

theorem exec_migrationCopyAck (stored : Bool) : exec (.migrationCopyAck k row table ver stored) s = .next
    (if stored then migAcked s (partOfStack s k) k b (migNamed row.toNat table.toNat ver.toNat)
      else migTargetFull s (partOfStack s k) k b (migNamed row.toNat table.toNat ver.toNat)) := by
  refine congrArg Host.Outcome.next ?_
  have hack : ackBatch s k row.toNat table.toNat ver.toNat = some b := hb
  simp only [hr, if_true, takeMigAck, hack, hwait, Bool.false_eq_true, if_false]
  rfl

end

section
variable {s : State} {k : Stack} {row : BitVec 40} {table : BitVec 10} {ver : BitVec 16} {b : MigBatch} {r : MigRow}
  (hrow : r.row = row.toNat) (htable : r.table = table.toNat) (hver : r.ver = ver.toNat) (hphase : r.phase = 1)
  (hone : ∀ r' ∈ b.rows, r'.row = row.toNat → r'.table = table.toNat → r'.ver = ver.toNat → r'.phase = 1 → r' = r)
include hrow htable hver hphase hone

/-- The acknowledgement names r alone. -/
theorem migNamed_iff {x : MigRow} (hx : x ∈ b.rows) : migNamed row.toNat table.toNat ver.toNat x = true ↔ x = r := by
  simp only [migNamed, Bool.and_eq_true, beq_iff_eq, and_assoc]
  refine ⟨fun ⟨h1, h2, h3, h4⟩ => hone x hx h1 h2 h3 h4, ?_⟩
  rintro rfl
  exact ⟨hrow, htable, hver, hphase⟩

theorem map_migNamed (f : MigRow → MigRow) :
    b.rows.map (fun x => if migNamed row.toNat table.toNat ver.toNat x then f x else x) = b.rows.map (fun x => if x = r then f r else x) := by
  refine List.map_congr_left fun x hx => ?_
  by_cases hxr : x = r
  · rw [if_pos ((migNamed_iff hrow htable hver hphase hone hx).2 hxr), if_pos hxr, hxr]
  · rw [if_neg (fun h => hxr ((migNamed_iff hrow htable hver hphase hone hx).1 h)), if_neg hxr]

/-- The rows that the last acknowledgement moves: r, as often as the list holds it. -/
theorem filter_migNamed_last (hr : r ∈ b.rows) (hacks : r.acks ≤ 1) :
    ∃ n, b.rows.filter (fun x => migNamed row.toNat table.toNat ver.toNat x && decide (x.acks ≤ 1)) = List.replicate (n + 1) r := by
  obtain ⟨l, hl⟩ : ∃ l, l = b.rows.filter (fun x => migNamed row.toNat table.toNat ver.toNat x && decide (x.acks ≤ 1)) := ⟨_, rfl⟩
  have hmem : r ∈ l := by
    rw [hl, List.mem_filter, (migNamed_iff hrow htable hver hphase hone hr).2 rfl]
    exact ⟨hr, decide_eq_true hacks⟩
  have hall : ∀ x ∈ l, x = r := fun x hx => by
    rw [hl, List.mem_filter, Bool.and_eq_true] at hx
    exact (migNamed_iff hrow htable hver hphase hone hx.1).1 hx.2.1
  have hlen : l.length - 1 + 1 = l.length := Nat.sub_add_cancel (List.length_pos_of_mem hmem)
  exact ⟨l.length - 1, by rw [hlen, ← hl]; exact List.eq_replicate_of_mem hall⟩

theorem filter_migNamed_more (hacks : 1 < r.acks) :
    b.rows.filter (fun x => migNamed row.toNat table.toNat ver.toNat x && decide (x.acks ≤ 1)) = [] := by
  refine List.filter_eq_nil_iff.2 fun x hx h => ?_
  rw [Bool.and_eq_true, migNamed_iff hrow htable hver hphase hone hx, decide_eq_true_eq] at h
  obtain ⟨rfl, hle⟩ := h
  omega

section
variable (hb : s.batches.find? (fun b => b.stack == k.val && b.rows.any
    (fun r => r.row == row.toNat && r.table == table.toNat && r.ver == ver.toNat && r.phase == 1)) = some b)
  (hrun : running s (partOfStack s k) = true) (hwait : ackWaits s (partOfStack s k) k b = false)
  (hl : ∀ x ∈ s.rowLocks, x.part ≠ partOfStack s k) (hw : ∀ x ∈ s.waitReqs, x.1 ≠ partOfStack s k)
include hb hrun hwait hl hw

/-- The last acknowledgement moves the row (R162). -/
theorem migrationCopyAck_last (hr : r ∈ b.rows) (hacks : r.acks ≤ 1) : ∃ u, exec (.migrationCopyAck k row table ver true) s = .next u
    ∧ movedEntry r ∈ mapGet [] u.redirects k
    ∧ ∃ b' ∈ u.batches, b'.rows = b.rows.map (fun x => if x = r then { r with phase := 2, acks := 0 } else x) := by
  obtain ⟨n, hmoved⟩ := filter_migNamed_last hrow htable hver hphase hone hr hacks
  obtain ⟨hentry, hbatches, hlocks, hwaits⟩ := foldl_migActivate (partOfStack_lt s k) k b r n s
  rw [← hmoved] at hentry hbatches hlocks hwaits
  refine ⟨_, exec_migrationCopyAck hb hrun hwait true, ?_⟩
  rw [if_pos rfl, migAcked, settleBatch_of_none (hlocks ▸ hl) (fun x hx => hw x (hwaits x hx))]
  refine ⟨hentry, _, mem_setBatch (hbatches ▸ List.mem_of_find?_eq_some hb) _, ?_⟩
  dsimp only
  rw [map_migNamed hrow htable hver hphase hone, if_pos hacks]

/-- An acknowledgement before the last is counted. -/
theorem migrationCopyAck_counted (hacks : 1 < r.acks) : ∃ u, exec (.migrationCopyAck k row table ver true) s = .next u
    ∧ u.redirects = s.redirects ∧ ∃ b' ∈ u.batches, b'.rows = b.rows.map (fun x => if x = r then { r with acks := r.acks - 1 } else x) := by
  refine ⟨_, exec_migrationCopyAck hb hrun hwait true, ?_⟩
  rw [if_pos rfl, migAcked, filter_migNamed_more hrow htable hver hphase hone hacks, List.foldl_nil, settleBatch_of_none hl hw]
  refine ⟨rfl, _, mem_setBatch (List.mem_of_find?_eq_some hb) _, ?_⟩
  dsimp only
  rw [map_migNamed hrow htable hver hphase hone, if_neg (Nat.not_le.2 hacks)]

/-- A copy that was not stored leaves the row where it is and is noted (R162). -/
theorem migrationCopyAck_full : ∃ u, exec (.migrationCopyAck k row table ver false) s = .next u ∧ u.redirects = s.redirects
    ∧ (∃ b' ∈ u.batches, b'.rows = b.rows.map (fun x => if x = r then { r with phase := 3 } else x))
    ∧ ∃ st, u.faultQ = s.faultQ ++ [⟨mkFault (srcStack k 0) K.MIG_TARGET_FULL (partOfStack s k) 0 0, st⟩] := by
  refine ⟨_, exec_migrationCopyAck hb hrun hwait false, ?_⟩
  rw [if_neg Bool.false_ne_true, migTargetFull, settleBatch_of_none hl hw]
  refine ⟨rfl, ⟨_, mem_setBatch (List.mem_of_find?_eq_some hb) _, ?_⟩, _, rfl⟩
  exact map_migNamed hrow htable hver hphase hone _

end

end

end Sys2Proof.Machine
end

section
/-!
SUPPORT. The load snapshot (R159).
-/

open Sys2Proof Sys2Proof.Machine Sys2Proof.Claims

namespace Sys2Proof.Machine

/-! ### Keys that are dropped -/

theorem mapGet_mapDropRange_outside {β : Type} (d : β) (m : NatMap β) {lo hi i : Nat} (h : i < lo ∨ hi ≤ i) :
    mapGet d (mapDropRange m lo hi) i = mapGet d m i := by
  induction m with
  | nil => rfl
  | cons kv m ih =>
    by_cases hk : kv.1 < lo ∨ hi ≤ kv.1
    · rw [mapDropRange, List.filter_cons_of_pos (by simpa using hk), mapGet, mapGet]
      exact congrArg (fun x => if kv.1 = i then kv.2 else x) ih
    · rw [mapDropRange, List.filter_cons_of_neg (by simpa using hk), mapGet, if_neg (by omega)]
      exact ih

theorem mapGet_mapDropRange_inside {β : Type} (d : β) (m : NatMap β) {lo hi i : Nat} (hlo : lo ≤ i) (hhi : i < hi) :
    mapGet d (mapDropRange m lo hi) i = d := by
  induction m with
  | nil => rfl
  | cons kv m ih =>
    by_cases hk : kv.1 < lo ∨ hi ≤ kv.1
    · rw [mapDropRange, List.filter_cons_of_pos (by simpa using hk), mapGet, if_neg (by omega)]
      exact ih
    · rw [mapDropRange, List.filter_cons_of_neg (by simpa using hk)]
      exact ih

/-! ### One engine -/

theorem HoldFrame.of_hbm {p : Nat} {s u : State} (h : u = { s with hbm := u.hbm }) : HoldFrame p s u := by
  rw [h]
  exact .of_frame

/-- The copy writes HBM, or gives way to a fault of the engine. -/
theorem holdFrame_snapEngine (s : State) {p : Nat} (hp : p < 4) (k : Nat) : HoldFrame p s (snapEngine s p k) := by
  unfold snapEngine
  split
  · exact .refl s
  · refine .ite (.engFault hp ..) (.ite (.engFault hp ..) (.foldl (fun s b _ => ?_) s))
    split
    · next hput => exact (HoldFrame.of_hbm (blockPut_frame hput)).trans (.of_hbm (markDirty_frame ..))
    · exact .refl s

/-- What the engines' part of a snapshot keeps: the assignment of the dies, the increments, SNAP_CTR and counts that are zero. -/
structure SnapKept (p : Nat) (s u : State) : Prop where
  mode  : u.mode = s.mode
  incs  : u.incs = s.incs
  ctr   : rd u p R.LOAD_CTRL_SNAP_CTR = rd s p R.LOAD_CTRL_SNAP_CTR
  zeros : ∀ i, mapGet (0, 0, 0) s.shardCnt i = (0, 0, 0) → mapGet (0, 0, 0) u.shardCnt i = (0, 0, 0)

namespace SnapKept

theorem refl (p : Nat) (s : State) : SnapKept p s s := ⟨rfl, rfl, rfl, fun _ h => h⟩

theorem trans {p : Nat} {s u v : State} (h : SnapKept p s u) (h' : SnapKept p u v) : SnapKept p s v :=
  ⟨h'.mode.trans h.mode, h'.incs.trans h.incs, h'.ctr.trans h.ctr, fun i hi => h'.zeros i (h.zeros i hi)⟩

theorem of_hold {p : Nat} {s u : State} (h : HoldFrame p s u) : SnapKept p s u :=
  ⟨by rw [h.frame], by rw [h.frame],
    h.regs _ _ (by simp only [fieldKey, R.LOAD_CTRL_SNAP_CTR, Bool.false_eq_true, if_false]; omega)
      (by simp only [fieldKey, R.LOAD_CTRL_SNAP_CTR, Bool.false_eq_true, if_false]; omega),
    fun i hi => by rw [h.frame]; exact hi⟩

end SnapKept

section
variable {p : Nat} (hp : p < 4)
include hp

theorem snapKept_snapClear (s : State) (k : Nat) : SnapKept p s (snapClear s k) := by
  refine ⟨rfl, rfl, mapGet_mapDropRange_outside _ _ (.inl ?_), fun i hi => ?_⟩
  · simp only [fieldKey, R.LOAD_CTRL_SNAP_CTR, R.BUCKET_READS, Bool.false_eq_true, if_false, if_true]
    omega
  · by_cases h : i < 32768 * k ∨ 32768 * (k + 1) ≤ i
    · exact (mapGet_mapDropRange_outside _ _ h).trans hi
    · exact mapGet_mapDropRange_inside _ _ (by omega) (by omega)

/-- The engines' part of a snapshot: each copies its counts, then clears them. -/
def snapStep (p : Nat) (s : State) (k : Nat) : State := snapClear (snapEngine s p k) k

theorem snapKept_snapStep (s : State) (k : Nat) : SnapKept p s (snapStep p s k) :=
  (SnapKept.of_hold (holdFrame_snapEngine s hp k)).trans (snapKept_snapClear hp _ k)

omit hp in
theorem shardCnt_snapStep (s : State) {k l : Nat} (hl : l < 32768) :
    mapGet (0, 0, 0) (snapStep p s k).shardCnt (32768 * k + l) = (0, 0, 0) :=
  mapGet_mapDropRange_inside _ _ (by omega) (by omega)

theorem snapKept_foldl (l : List Nat) (s : State) : SnapKept p s (l.foldl (snapStep p) s) := by
  induction l generalizing s with
  | nil => exact .refl p s
  | cons k l ih => exact (snapKept_snapStep hp s k).trans (ih _)

/-- The counts of every engine in the list are cleared. -/
theorem shardCnt_foldl_snapStep {k l : Nat} (hl : l < 32768) (ks : List Nat) (hk : k ∈ ks) (s : State) :
    mapGet (0, 0, 0) (ks.foldl (snapStep p) s).shardCnt (32768 * k + l) = (0, 0, 0) := by
  induction ks generalizing s with
  | nil => exact nomatch hk
  | cons j ks ih =>
    rcases List.mem_cons.1 hk with rfl | hk
    · exact (snapKept_foldl hp ks _).zeros _ (shardCnt_snapStep s hl)
    · exact ih hk _

/-! ### The partition -/

/-- The snapshot's end: the engines' part, then one signal to each die. -/
theorem snapFinish_eq (s : State) : snapFinish s p = { (stacksOf s p).foldl (snapStep p) s with
    incs := s.incs ++ (diesOf s p).map (fun d => ⟨.die (Fin.ofNat 4 d) (Fin.ofNat 4096 (rd s p R.LOAD_CTRL_SNAP_CTR)), srcTransport, 1⟩) } := by
  obtain ⟨hmode, hincs, hctr, -⟩ := snapKept_foldl hp (stacksOf s p) s
  have hdies : diesOf ((stacksOf s p).foldl (snapStep p) s) p = diesOf s p := by
    unfold diesOf partOfDie
    rw [hmode]
  refine (foldl_signalDie ..).trans ?_
  rw [← hincs, ← hctr, ← hdies]
  rfl

/-- Whether an engine waits does not hang on a register of the partition. -/
theorem engineWaits_wr (s : State) {f : Reg} (hf : f.pkg = false) (hlt : 8 * f.base + f.lsb < 2 ^ 40) (v k : Nat) :
    engineWaits (wr s p f v) k = engineWaits s k := by
  refine congrArg (· == 1) (rd_wr_ne s v ?_)
  simp only [fieldKey, hf, R.TG_CTRL_RUNNING, Bool.false_eq_true, if_false, if_true]
  omega

section
variable {s : State} {port : HPort} {val : Half} (hctrl : ctrlAccess s port = some p) (hsnap : val.getLsbD 0 = true)
  (hbusy : rdb s p R.LOAD_CTRL_SNAP_BUSY = false)
include hctrl hsnap hbusy

theorem exec_loadSnapshot : exec (.loadSnapshot port val) s = .next
    (if (stacksOf s p).any (engineWaits s) then wrb (wr s p R.LOAD_CTRL_SNAP_CTR (bitsOf val.toNat 4 12)) p R.LOAD_CTRL_SNAP_BUSY true
      else snapFinish (wr s p R.LOAD_CTRL_SNAP_CTR (bitsOf val.toNat 4 12)) p) := by
  have hbit : bitAt val.toNat 0 = true := by
    rw [BitVec.getLsbD, Nat.testBit_zero] at hsnap
    simpa [bitAt] using hsnap
  have hidle : rdb (wr s p R.LOAD_CTRL_SNAP_CTR (bitsOf val.toNat 4 12)) p R.LOAD_CTRL_SNAP_BUSY = false :=
    (congrArg (· == 1) (rd_wr_single s p _ rfl rfl (by decide))).trans hbusy
  have hwaits : engineWaits (wr s p R.LOAD_CTRL_SNAP_CTR (bitsOf val.toNat 4 12)) = engineWaits s :=
    funext fun k => engineWaits_wr hp s rfl (by decide) _ k
  refine congrArg Host.Outcome.next ?_
  simp only [hctrl, loadCtrl, hbit, hidle, Bool.not_false, Bool.and_self, if_true, hwaits]
  rfl

theorem loadSnapshot_waits (hwait : ∃ k ∈ stacksOf s p, engineWaits s k = true) : ∃ u, exec (.loadSnapshot port val) s = .next u
    ∧ OnlyRegs s u [fieldKey R.LOAD_CTRL_SNAP_CTR p 0 0, fieldKey R.LOAD_CTRL_SNAP_BUSY p 0 0] ∧ rd u p R.LOAD_CTRL_SNAP_BUSY = 1 := by
  refine ⟨_, exec_loadSnapshot hp hctrl hsnap hbusy, ?_⟩
  rw [if_pos (List.any_eq_true.2 hwait)]
  exact ⟨((onlyRegs_wr ..).mono (by simp)).trans ((onlyRegs_wr ..).mono (by simp)), rd_wr_same ..⟩

theorem loadSnapshot_clears (hgo : ∀ k ∈ stacksOf s p, engineWaits s k = false) : ∃ u, exec (.loadSnapshot port val) s = .next u
    ∧ (∀ k l, k < 24 → partOfStack s k = p → l < 32768 → mapGet (0, 0, 0) u.shardCnt (32768 * k + l) = (0, 0, 0))
    ∧ u.incs = s.incs ++ (diesOf s p).map (fun d => ⟨.die (Fin.ofNat 4 d) (Fin.ofNat 4096 (val.toNat / 16 % 4096)), srcTransport, 1⟩) := by
  have hnone : (stacksOf s p).any (engineWaits s) = false := List.any_eq_false.2 fun k hk => by rw [hgo k hk]; exact Bool.false_ne_true
  have hctr : rd (wr s p R.LOAD_CTRL_SNAP_CTR (bitsOf val.toNat 4 12)) p R.LOAD_CTRL_SNAP_CTR = val.toNat / 16 % 4096 :=
    (rd_wr_same ..).trans (Nat.mod_mod _ _)
  refine ⟨_, exec_loadSnapshot hp hctrl hsnap hbusy, ?_⟩
  rw [hnone, if_neg Bool.false_ne_true, snapFinish_eq hp, hctr]
  exact ⟨fun k l hk hpart hl => shardCnt_foldl_snapStep hp hl _ (mem_stacksOf.2 ⟨hk, hpart⟩) _, rfl⟩

end

end

/-! ### The obligation -/

/-- Settles O28: the end of a step, a batch accepted, copied, stored and acknowledged, and the load snapshot, each from its own lemma. -/
theorem engineStepResults : Obligations.engine_step_results := by
  unfold Obligations.engine_step_results
  intro s
  refine ⟨?step, ?accept, ?copy, ?kept, ?arrive, ?ack, ?snapshot⟩
  case step =>
    intro k v n skip rest hv happly hc hf hl
    exact applyStepFinished_result hv happly hc hf hl
  case accept =>
    intro port p k cnt a step bs hctrl hbusy hwait hk hcnt ha hstep hown hpos hmax hlater halign hcheck hext hslots hread hrsvd hrows hroom
    exact migrate_accepts hctrl ⟨hbusy, hwait, hk, hcnt, ha, hstep, hown, hpos, hmax, hlater, halign, hcheck, hext, hslots, hread, hrsvd,
      hrows, hroom⟩
  case copy =>
    intro k batch ext b v rows hb hr hwait hcopy hl hw
    exact migrationCopyStart_copies hb hr hwait hcopy hl hw
  case kept =>
    intro p m hr hs ho hwait
    rw [exec_migrationCopyReceive hr hs ho, if_pos hwait]
  case arrive =>
    intro p m d hr hs ho hgo hd
    have hexec : exec (.migrationCopyReceive p m) s = .next (takeMigCopy s p m) := by
      rw [exec_migrationCopyReceive hr hs ho, hgo, if_neg Bool.false_ne_true]
    refine ⟨fun v hc hreach => ⟨_, hexec, ?_⟩, fun hc hreach => ⟨_, hexec, takeMigCopy_full hd hc hreach⟩⟩
    obtain ⟨hhbm, hsram, hout⟩ := takeMigCopy_stores hd hc hreach
    refine ⟨hhbm, hsram, ?_⟩
    rw [hout, createRow_frame hc]
    rfl
  case ack =>
    intro k row table ver b r hb hr hwait hl hw hmem hrow htable hver hphase hone
    refine ⟨fun hacks => ?_, fun hacks => ?_, ?_⟩
    · obtain ⟨u, hexec, hentry, hrows⟩ := migrationCopyAck_last hrow htable hver hphase hone hb hr hwait hl hw hmem hacks
      exact ⟨u, hexec, ⟨_, hentry, rfl⟩, hrows⟩
    · exact migrationCopyAck_counted hrow htable hver hphase hone hb hr hwait hl hw hacks
    · exact migrationCopyAck_full hrow htable hver hphase hone hb hr hwait hl hw
  case snapshot =>
    intro port p val hctrl hp hsnap hbusy
    exact ⟨loadSnapshot_waits hp hctrl hsnap hbusy, fun hgo _ => loadSnapshot_clears hp hctrl hsnap hbusy fun k hk => (hgo k hk).1⟩

end Sys2Proof.Machine
end

section
/-!
SUPPORT. One instruction of a control core (R165 to R171): what a legal and an illegal form do, and what its shared ends (a result, moving on, a
jump, a stop) leave behind.
-/

open Sys2Proof Sys2Proof.Machine Sys2Proof.Claims

namespace Sys2Proof.Machine

variable {s s' : State} {t : Nat} {c : Instr}

/-- A legal instruction at PC runs its body. -/
theorem coreExec_legal {w : Nat} {legal : Bool} {body : State → State} (hc : coreAt s t w = true) (hl : legal = true) :
    coreExec s t w legal body = body s := by
  simp only [coreExec, hc, hl, if_true]

/-- An illegal form at PC stops the core (R170). -/
theorem coreExec_illegal {w : Nat} {legal : Bool} {body : State → State} (hc : coreAt s t w = true) (hl : legal = false) :
    coreExec s t w legal body = coreFault s t K.ILLEGAL_INSTR := by
  simp only [coreExec, hc, hl, if_true, Bool.false_eq_true, if_false]

/-- A command that answers the state of a fault of class F1 stops its core. -/
theorem stops_of_coreFault {k : Kind} (hx : exec c s = .next (coreFault s t k)) (hk : k.cls = 1 := by rfl) (hcode : k.code < 4096 := by decide) :
    Stops c s t k :=
  ⟨_, hx, coreFault_stopped s t k hk hcode⟩

theorem stops_illegal {w : Nat} {legal : Bool} {body : State → State} (hx : exec c s = .next (coreExec s t w legal body))
    (hc : coreAt s t w = true) (hl : legal = false) : Stops c s t K.ILLEGAL_INSTR :=
  stops_of_coreFault (hx.trans (congrArg _ (coreExec_illegal hc hl)))

theorem writes_of_coreResult {w : Nat} {legal : Bool} {rd : BitVec 5} {v : Word} (hx : exec c s = .next (coreResult s t w legal rd v))
    (hc : coreAt s t w = true) (hl : legal = true) (hf : FlowsOn s t) : Writes c s t rd v (pcOf s t + 1) := by
  subst hl
  exact ⟨_, hx, coreResult_wrote s t w rd v hc hf⟩

/-! ### Moving on and jumping (R168) -/

theorem coreMoved_wr {pc : Nat} (h : pc < 16384) : CoreMoved s (wr s 4 R.TILE_STATUS_PC pc t) t pc :=
  ⟨onlyRegs_wr .., (rd_wr_same ..).trans (Nat.mod_eq_of_lt h)⟩

theorem advance_moved (h : FlowsOn s t) : CoreMoved s (advance s t) t (pcOf s t + 1) := by
  rw [advance_flowsOn s t h]
  exact coreMoved_wr (by have := h.1; omega)

/-- Where the instructions and PC of a tile are as in s, execution flows on as in s. -/
theorem FlowsOn.of_kept (h : FlowsOn s t) (hpc : pcOf s' t = pcOf s t)
    (hw : fetchWord s' t (pcOf s t + 1) = fetchWord s t (pcOf s t + 1)) : FlowsOn s' t := by
  obtain ⟨hlt, hop⟩ := h
  exact ⟨hpc ▸ hlt, by rw [hpc, hw]; exact hop⟩

/-- A change that leaves the instructions and PC of the tile alone, and then moving on. -/
theorem advance_kept (h : FlowsOn s t) (hpc : pcOf s' t = pcOf s t) (hw : fetchWord s' t (pcOf s t + 1) = fetchWord s t (pcOf s t + 1)) :
    advance s' t = wr s' 4 R.TILE_STATUS_PC (pcOf s t + 1) t := by
  rw [advance_flowsOn s' t (h.of_kept hpc hw), hpc]

/-- A register result, and then moving on. -/
theorem advance_setG_wrote (h : FlowsOn s t) (r : BitVec 5) (v : Word) : CoreWrote s (advance (setG s t r v) t) t r v (pcOf s t + 1) := by
  rw [advance_kept h (pcOf_setG ..) (fetchWord_setG ..)]
  exact coreWrote_setG _ _ _ _ _ (by have := h.1; omega)

theorem enterPc_defined {pc : Nat} (h : opcodeDefined (fetchWord s t pc / 2 ^ 26) = true) : enterPc s t pc = wr s 4 R.TILE_STATUS_PC pc t :=
  if_pos h

theorem jumpTo_inRange {x : Int} (h0 : 0 ≤ x) (h1 : x ≤ 16383) (link : State → State) : jumpTo s t x link = enterPc (link s) t x.toNat :=
  if_pos ⟨h0, h1⟩

theorem jumpTo_outOfRange {x : Int} (h : x < 0 ∨ 16383 < x) (link : State → State) : jumpTo s t x link = coreFault s t K.PC_RANGE :=
  if_neg (by omega)

theorem jumpTo_moved {x : Int} (h : MayEnter s t x) : CoreMoved s (jumpTo s t x id) t x.toNat := by
  obtain ⟨h0, h1, hop⟩ := h
  rw [jumpTo_inRange h0 h1, id_eq, enterPc_defined hop]
  exact coreMoved_wr (by omega)

/-- A jump that links PC + 1. -/
theorem jumpTo_linked {x : Int} (r : BitVec 5) (h : MayEnter s t x) :
    CoreWrote s (jumpTo s t x fun s => setG s t r (BitVec.ofNat 64 (pcOf s t + 1))) t r (BitVec.ofNat 64 (pcOf s t + 1)) x.toNat := by
  have hsame : jumpTo s t x (fun s => setG s t r (BitVec.ofNat 64 (pcOf s t + 1)))
      = jumpTo s t x fun u => setG u t r (BitVec.ofNat 64 (pcOf s t + 1)) := rfl
  rw [hsame]
  exact jumpTo_wrote s t r _ x h

theorem branches_of_coreBranch {op : Nat} {rs1 rs2 : BitVec 5} {off : BitVec 16} {cond : Word → Word → Bool} {taken : Prop}
    (hx : exec c s = .next (coreBranch s t op rs1 rs2 off cond)) (hc : coreAt s t (encI op rs1 rs2 off) = true)
    (ht : cond (getG s t rs1) (getG s t rs2) = true ↔ taken) : Branches c s t off taken := by
  rw [coreBranch, coreExec_legal hc rfl] at hx
  refine ⟨fun h hin => ?_, fun h hout => ?_, fun h hf => ?_⟩
  · rw [if_pos (ht.2 h)] at hx
    exact ⟨_, hx, jumpTo_moved hin⟩
  · rw [if_pos (ht.2 h), jumpTo_outOfRange hout] at hx
    exact stops_of_coreFault hx
  · rw [if_neg (mt ht.1 h)] at hx
    exact ⟨_, hx, advance_moved hf⟩

/-! ### Data memory (R168) -/

theorem length_sramRead (s : State) (a n : Nat) : (sramRead s a n).length = n := by simp [sramRead]

theorem leNat_lt (bs : List Byte) : leNat bs < 256 ^ bs.length := by
  induction bs with
  | nil => decide
  | cons b bs ih =>
    simp only [leNat, List.length_cons, pow_succ]
    have := b.isLt
    omega

theorem length_leBytes (n x : Nat) : (leBytes n x).length = n := by
  induction n generalizing x with
  | zero => rfl
  | succ n ih => simp [leBytes, ih]

theorem getElem?_leBytes {n i : Nat} (x : Nat) (h : i < n) : (leBytes n x)[i]? = some (BitVec.ofNat 8 (x / 256 ^ i)) := by
  induction n generalizing x i with
  | zero => omega
  | succ n ih =>
    cases i with
    | zero => simp [leBytes]
    | succ i =>
      rw [leBytes, List.getElem?_cons_succ, ih _ (by omega), pow_succ', Nat.div_div_eq_div_mul]

/-- The address of an access, in the arithmetic of the claims. -/
theorem dmemAddr_eq (s : State) (t : Nat) (rs1 : BitVec 5) (imm : BitVec 16) (n : Nat) :
    dmemAddr s t rs1 imm n = if coreAddr s t rs1 imm < 65536 ∧ coreAddr s t rs1 imm % n = 0 then some (coreAddr s t rs1 imm) else none := by
  simp only [dmemAddr, coreAddr, add_sext16_toNat]

theorem dmemAddr_good {rs1 : BitVec 5} {imm : BitVec 16} {n : Nat} (hlt : coreAddr s t rs1 imm < 65536) (hal : coreAddr s t rs1 imm % n = 0) :
    dmemAddr s t rs1 imm n = some (coreAddr s t rs1 imm) := by
  rw [dmemAddr_eq, if_pos ⟨hlt, hal⟩]

theorem dmemAddr_bad {rs1 : BitVec 5} {imm : BitVec 16} {n : Nat} (h : 65536 ≤ coreAddr s t rs1 imm ∨ coreAddr s t rs1 imm % n ≠ 0) :
    dmemAddr s t rs1 imm n = none := by
  rw [dmemAddr_eq, if_neg (by omega)]

theorem loads_of_coreLoad {w n : Nat} {rd rs1 : BitVec 5} {imm : BitVec 16} {f : Nat → Word} {g : Nat → Int}
    (hx : exec c s = .next (coreLoad s t w n rd rs1 imm f)) (hc : coreAt s t w = true)
    (hfg : ∀ x, x < 256 ^ n → f x = BitVec.ofInt 64 (g x)) : Loads c s t rd rs1 imm n g := by
  rw [coreLoad, coreExec_legal hc rfl] at hx
  refine ⟨fun hlt hal hf => ⟨_, hx, ?_⟩, fun hbad => ?_⟩
  · rw [dmemAddr_good hlt hal]
    simp only [dmemRead]
    rw [hfg _ (by simpa only [length_sramRead] using leNat_lt (sramRead s (dmemKey t (coreAddr s t rs1 imm)) n))]
    exact advance_setG_wrote hf rd _
  · rw [dmemAddr_bad hbad] at hx
    exact stops_of_coreFault hx

end Sys2Proof.Machine
end

section
/-!
SUPPORT. The operations of a control core in the arithmetic of naturals and integers (R166, R169 to R172).
-/

open Sys2Proof Sys2Proof.Machine Sys2Proof.Claims

namespace Sys2Proof.Machine

theorem toNat_ofBool64 (b : Bool) : (ofBool64 b).toNat = if b then 1 else 0 := by cases b <;> rfl

theorem slt_iff (a b : Word) : a.slt b = true ↔ a.toInt < b.toInt := by simp [BitVec.slt]
theorem ult_iff (a b : Word) : a.ult b = true ↔ a.toNat < b.toNat := by simp [BitVec.ult]

theorem toInt_sra (a : Word) (n : Nat) : (a.sshiftRight n).toInt = a.toInt / 2 ^ n := by
  rw [BitVec.toInt_sshiftRight, Int.shiftRight_eq_div_pow]
  norm_cast

/-- ALU computes what R171 and R172 say. -/
theorem aluValue_aluOp : ∀ (f : Nat) (a b : Word), aluValue f a b (aluOp f a b)
  | 0x0, a, b => BitVec.toNat_add a b
  | 0x1, a, b => by
    have := b.isLt
    exact (BitVec.toNat_sub a b).trans (by congr 1; omega)
  | 0x2, a, b => fun i => BitVec.getLsbD_and
  | 0x3, a, b => fun i => BitVec.getLsbD_or
  | 0x4, a, b => fun i => BitVec.getLsbD_xor.trans (congrFun₂ Bool.bne_eq_xor ..).symm
  | 0x5, a, b => by
    show (a <<< (b.toNat % 64)).toNat = _
    rw [BitVec.toNat_shiftLeft, Nat.shiftLeft_eq]
  | 0x6, a, b => by
    show (a >>> (b.toNat % 64)).toNat = _
    rw [BitVec.toNat_ushiftRight, Nat.shiftRight_eq_div_pow]
  | 0x7, a, b => toInt_sra a _
  | 0x8, a, b => BitVec.toNat_mul a b
  | 0x9, a, b => by
    have hlt : a.toNat * b.toNat / 2 ^ 64 < 2 ^ 64 :=
      Nat.div_lt_of_lt_mul (Nat.mul_lt_mul'' a.isLt b.isLt)
    exact (BitVec.toNat_ofNat ..).trans (Nat.mod_eq_of_lt hlt)
  | 0xA, a, b => by
    show (if b = 0 then 0xFFFFFFFFFFFFFFFF#64 else a / b).toNat = if b.toNat = 0 then 2 ^ 64 - 1 else a.toNat / b.toNat
    by_cases hb : b = 0
    · subst hb; rfl
    · rw [if_neg hb, if_neg (mt (fun h => BitVec.eq_of_toNat_eq (h.trans BitVec.toNat_zero.symm)) hb), BitVec.toNat_udiv]
  | 0xB, a, b => by
    show (if b = 0 then a else a % b).toNat = if b.toNat = 0 then a.toNat else a.toNat % b.toNat
    by_cases hb : b = 0
    · subst hb; rfl
    · rw [if_neg hb, if_neg (mt (fun h => BitVec.eq_of_toNat_eq (h.trans BitVec.toNat_zero.symm)) hb), BitVec.toNat_umod]
  | 0xC, a, b => by
    show (ofBool64 (a.slt b)).toNat = _
    simp only [toNat_ofBool64, slt_iff]
  | 0xD, a, b => by
    show (ofBool64 (a.ult b)).toNat = _
    simp only [toNat_ofBool64, ult_iff]
  | 0xE, a, b => by
    show (if a.slt b then a else b).toInt = min a.toInt b.toInt
    simp only [slt_iff]
    split <;> omega
  | n + 0xF, a, b => by
    show (if a.slt b then b else a).toInt = max a.toInt b.toInt
    simp only [slt_iff]
    split <;> omega

/-- SHI shifts left, right or arithmetically right by imm[5:0] (R170). -/
theorem shiOp_left (a : Word) {imm : BitVec 16} (h : imm.toNat < 64) : (shiOp a imm).toNat = a.toNat * 2 ^ imm.toNat % 2 ^ 64 := by
  have hsel : bitsOf imm.toNat 6 2 = 0 := by simp only [bitsOf]; omega
  simp only [shiOp, hsel, Nat.mod_eq_of_lt h, BitVec.toNat_shiftLeft, Nat.shiftLeft_eq]

theorem shiOp_right (a : Word) {imm : BitVec 16} (h1 : 64 ≤ imm.toNat) (h2 : imm.toNat < 128) :
    (shiOp a imm).toNat = a.toNat / 2 ^ (imm.toNat - 64) := by
  have hsel : bitsOf imm.toNat 6 2 = 1 := by simp only [bitsOf]; omega
  have hamount : imm.toNat % 64 = imm.toNat - 64 := by omega
  simp only [shiOp, hsel, hamount, BitVec.toNat_ushiftRight, Nat.shiftRight_eq_div_pow]

theorem shiOp_arith (a : Word) {imm : BitVec 16} (h1 : 128 ≤ imm.toNat) (h2 : imm.toNat < 192) :
    (shiOp a imm).toInt = a.toInt / 2 ^ (imm.toNat - 128) := by
  have hsel : bitsOf imm.toNat 6 2 = 2 := by simp only [bitsOf]; omega
  have hamount : imm.toNat % 64 = imm.toNat - 128 := by omega
  simp only [shiOp, hsel, hamount, toInt_sra]

theorem sext16_eq (imm : BitVec 16) : sext16 imm = BitVec.ofInt 64 imm.toInt := by
  apply BitVec.eq_of_toInt_eq
  rw [sext16, BitVec.toInt_signExtend_of_le (by decide), BitVec.toInt_ofInt, Int.bmod_eq_of_le] <;>
    · have := BitVec.toInt_lt (x := imm)
      have := BitVec.le_toInt imm
      omega

theorem zext16_eq (imm : BitVec 16) : zext16 imm = BitVec.ofNat 64 imm.toNat :=
  BitVec.eq_of_toNat_eq (by rw [zext16, BitVec.toNat_setWidth, BitVec.toNat_ofNat])

theorem add_sext16 (a : Word) (imm : BitVec 16) : a + sext16 imm = BitVec.ofInt 64 (a.toInt + imm.toInt) := by
  rw [sext16_eq, BitVec.ofInt_add, BitVec.ofInt_toInt]

theorem sext16_shift16 (imm : BitVec 16) : sext16 imm <<< 16 = BitVec.ofInt 64 (imm.toInt * 65536) := by
  rw [sext16_eq, BitVec.ofInt_mul, BitVec.shiftLeft_eq_mul_twoPow]
  rfl

/-- INSI moves a register up by 16 bits and puts 16 bits in below. -/
theorem insert16 (a : Word) (imm : BitVec 16) : a <<< 16 ||| zext16 imm = BitVec.ofNat 64 (a.toNat * 65536 + imm.toNat) := by
  apply BitVec.eq_of_toNat_eq
  have himm := imm.isLt
  have hzext : (zext16 imm).toNat = imm.toNat := BitVec.toNat_setWidth_of_le (by decide)
  have hhigh : (a <<< 16).toNat = 2 ^ 16 * (a.toNat % 2 ^ 48) := by
    rw [BitVec.toNat_shiftLeft, Nat.shiftLeft_eq]; omega
  rw [BitVec.toNat_or, hzext, hhigh, ← Nat.two_pow_add_eq_or_of_lt himm, BitVec.toNat_ofNat]
  omega

/-- A NaN by the bits of its pattern. -/
theorem fIsNan_iff (a : Half) : fIsNan a = true ↔ nanBits a := by
  rw [fIsNan, FFmt.isNan, decide_eq_true_iff]
  show 255 * 2 ^ 23 < a.toNat % 2 ^ 31 ↔ a.toNat / 2 ^ 23 % 256 = 255 ∧ a.toNat % 2 ^ 23 ≠ 0
  omega

/-- The absolute value of a number is its pattern without the sign. -/
theorem toNat_fAbs {a : Half} (h : ¬ nanBits a) : (fAbs a).toNat = a.toNat % 2 ^ 31 := by
  rw [fAbs, if_neg (mt (fIsNan_iff a).1 h), BitVec.toNat_and]
  exact Nat.and_two_pow_sub_one_eq_mod a.toNat 31

/-- The negative of a number is its pattern with the other sign. -/
theorem toNat_fNeg {a : Half} (h : ¬ nanBits a) : (fNeg a).toNat = (a.toNat + 2 ^ 31) % 2 ^ 32 := by
  rw [fNeg, if_neg (mt (fIsNan_iff a).1 h), BitVec.toNat_xor]
  show a.toNat ^^^ 2 ^ 31 = _
  have hlow : (a.toNat ^^^ 2 ^ 31) % 2 ^ 31 = a.toNat % 2 ^ 31 := by rw [Nat.xor_mod_two_pow, Nat.mod_self, Nat.xor_zero]
  have hhigh : (a.toNat ^^^ 2 ^ 31) / 2 ^ 31 = a.toNat / 2 ^ 31 ^^^ 1 := by rw [Nat.xor_div_two_pow, Nat.div_self (by decide)]
  have := a.isLt
  have hsign : a.toNat / 2 ^ 31 = 0 ∨ a.toNat / 2 ^ 31 = 1 := by omega
  rcases hsign with hs | hs <;> rw [hs] at hhigh
  · have : (0 ^^^ 1 : Nat) = 1 := rfl
    omega
  · have : (1 ^^^ 1 : Nat) = 0 := rfl
    omega

theorem fAbs_nan {a : Half} (h : nanBits a) : fAbs a = canonNan32 := if_pos ((fIsNan_iff a).2 h)
theorem fNeg_nan {a : Half} (h : nanBits a) : fNeg a = canonNan32 := if_pos ((fIsNan_iff a).2 h)

theorem toNat_word_of_half (a : Half) : (a.setWidth 64).toNat = a.toNat := by
  have := a.isLt
  rw [BitVec.toNat_setWidth]
  omega

/-- FPU computes what R171 and R172 say. -/
theorem fpuValue_fpuOp : ∀ (f : Nat) (a b : Half), fpuValue f a b (fpuOp f a b)
  | 0x0, _, _ | 0x1, _, _ | 0x2, _, _ | 0x3, _, _ | 0x4, _, _ | 0x5, _, _ | 0x6, _, _ | 0xA, _, _ => toNat_word_of_half _
  | 0x7, _, _ | 0x8, _, _ | 0x9, _, _ => toNat_ofBool64 _
  | 0xB, _, _ => BitVec.toInt_signExtend_of_le (by decide)
  | 0xC, a, _ => ⟨fun h => (toNat_word_of_half _).trans (congrArg BitVec.toNat (fAbs_nan h)), fun h => (toNat_word_of_half _).trans (toNat_fAbs h)⟩
  | _ + 0xD, a, _ => ⟨fun h => (toNat_word_of_half _).trans (congrArg BitVec.toNat (fNeg_nan h)), fun h => (toNat_word_of_half _).trans (toNat_fNeg h)⟩

end Sys2Proof.Machine
end

section
/-!
SUPPORT. What the instructions of a control core that read and compute do (R165 to R174), and the forms that stop it.
-/

open Sys2Proof Sys2Proof.Machine Sys2Proof.Claims

namespace Sys2Proof.Machine

/-- Settles O1: ALU is a register result, and its value is the one of the table. -/
theorem aluResults : Obligations.alu_results := by
  unfold Obligations.alu_results
  intro t rd rs1 rs2 funct s hc hfunct hf
  exact ⟨_, aluValue_aluOp .., writes_of_coreResult rfl hc (decide_eq_true hfunct) hf⟩

/-- Settles O2: each immediate form is a register result, its value in integer arithmetic. -/
theorem immediateResults : Obligations.immediate_results := by
  unfold Obligations.immediate_results
  intro t rd rs1 imm s hf
  refine ⟨fun hc => ?addi, fun hc => ?andi, fun hc => ?ori, fun hc => ?xori, fun hc himm => ?shi, fun hc hrs1 => ?lui, fun hc => ?insi⟩
  case addi =>
    rw [← add_sext16]
    exact writes_of_coreResult rfl hc rfl hf
  case andi =>
    rw [← zext16_eq]
    exact writes_of_coreResult rfl hc rfl hf
  case ori =>
    rw [← zext16_eq]
    exact writes_of_coreResult rfl hc rfl hf
  case xori =>
    rw [← zext16_eq]
    exact writes_of_coreResult rfl hc rfl hf
  case shi =>
    exact ⟨_, shiOp_left _, shiOp_right _, fun h => shiOp_arith _ h himm, writes_of_coreResult rfl hc (decide_eq_true himm) hf⟩
  case lui =>
    rw [← sext16_shift16]
    exact writes_of_coreResult rfl hc (beq_iff_eq.2 hrs1) hf
  case insi =>
    rw [← insert16]
    exact writes_of_coreResult rfl hc rfl hf

/-- The legal forms of FPU (R171). -/
theorem fpuLegal_iff (rs2 : BitVec 5) (funct : BitVec 11) :
    (decide (funct.toNat ≤ 0xD) && (funct != 4 || rs2 == 0)) = true ↔ funct.toNat ≤ 0xD ∧ (funct.toNat = 4 → rs2 = 0) := by
  have h4 : funct = 4 ↔ funct.toNat = 4 := ⟨fun h => h ▸ rfl, fun h => BitVec.eq_of_toNat_eq h⟩
  simp only [Bool.and_eq_true, Bool.or_eq_true, decide_eq_true_eq, bne_iff_ne, beq_iff_eq, ne_eq, h4, or_iff_not_imp_left, not_not]

/-- Settles O3: FPU is a register result, and its value is the one of the table. -/
theorem fpuResults : Obligations.fpu_results := by
  unfold Obligations.fpu_results
  intro t rd rs1 rs2 funct s hc hfunct hsqrt hf
  exact ⟨_, fpuValue_fpuOp .., writes_of_coreResult rfl hc ((fpuLegal_iff ..).2 ⟨hfunct, hsqrt⟩) hf⟩

/-- Settles O5: the four loads are one load with its size and its extension. -/
theorem loadResults : Obligations.load_results := by
  have hzero (x : Nat) : BitVec.ofNat 64 x = BitVec.ofInt 64 x := (BitVec.ofInt_natCast ..).symm
  unfold Obligations.load_results
  intro t rd rs1 imm s
  refine ⟨fun hc => ?ldd, fun hc => ?ldw, fun hc => ?ldws, fun hc => ?ldb⟩
  case ldd => exact loads_of_coreLoad rfl hc fun x _ => hzero x
  case ldw => exact loads_of_coreLoad rfl hc fun x _ => hzero x
  case ldb => exact loads_of_coreLoad rfl hc fun x _ => hzero x
  case ldws =>
    refine loads_of_coreLoad rfl hc fun x hx => ?_
    rw [BitVec.signExtend, BitVec.toInt_eq_toNat_cond, BitVec.toNat_ofNat, Nat.mod_eq_of_lt (show x < 2 ^ 32 from hx)]
    congr 1
    split <;> split <;> omega

/-- Settles O7: the six branches are one branch with its comparison. -/
theorem branchResults : Obligations.branch_results := by
  unfold Obligations.branch_results
  intro t rs1 rs2 off s
  refine ⟨fun hc => ?beq, fun hc => ?bne, fun hc => ?blt, fun hc => ?bge, fun hc => ?bltu, fun hc => ?bgeu⟩
  case beq => exact branches_of_coreBranch rfl hc beq_iff_eq
  case bne => exact branches_of_coreBranch rfl hc bne_iff_ne
  case blt => exact branches_of_coreBranch rfl hc (slt_iff ..)
  case bge => exact branches_of_coreBranch rfl hc (by rw [Bool.not_eq_true', ← Bool.not_eq_true, slt_iff, not_lt])
  case bltu => exact branches_of_coreBranch rfl hc (ult_iff ..)
  case bgeu => exact branches_of_coreBranch rfl hc (by rw [Bool.not_eq_true', ← Bool.not_eq_true, ult_iff, not_lt])

theorem exec_jal {t : Tile} {off : BitVec 26} {s : State} (hc : coreAt s t (encJ 0x1E off) = true) :
    exec (.jal t off) s = .next (jumpTo s t (pcOf s t + off.toInt) fun s => setG s t 31 (BitVec.ofNat 64 (pcOf s t + 1))) :=
  congrArg Host.Outcome.next (coreExec_legal hc rfl)

theorem exec_jalr {t : Tile} {rd rs1 : BitVec 5} {imm : BitVec 16} {s : State} (hc : coreAt s t (encI 0x1F rd rs1 imm) = true) :
    exec (.jalr t rd rs1 imm) s = .next (jumpTo s t (coreAddr s t rs1 imm) fun s => setG s t rd (BitVec.ofNat 64 (pcOf s t + 1))) := by
  rw [coreAddr, add_sext16_toNat]
  exact congrArg Host.Outcome.next (coreExec_legal hc rfl)

/-- Settles O8: JAL and JALR jump with their link, and out of range they stop. -/
theorem jumpResults : Obligations.jump_results := by
  unfold Obligations.jump_results
  intro t s
  refine ⟨fun off hc => ⟨fun hin => ?jal, fun hout => ?jalOut⟩, fun rd rs1 imm hc => ⟨fun hin => ?jalr, fun hout => ?jalrOut⟩⟩
  case jal => exact ⟨_, exec_jal hc, jumpTo_linked 31 hin⟩
  case jalOut => exact stops_of_coreFault ((exec_jal hc).trans (congrArg _ (jumpTo_outOfRange hout _)))
  case jalr => exact ⟨_, exec_jalr hc, jumpTo_linked rd hin⟩
  case jalrOut => exact stops_of_coreFault ((exec_jalr hc).trans (congrArg _ (jumpTo_outOfRange (.inr (by omega)) _)))

end Sys2Proof.Machine
end

section
/-!
SUPPORT. Stores, reads of status and the forms that stop a control core (R167, R168, R170, R174, R181).
-/

open Sys2Proof Sys2Proof.Machine Sys2Proof.Claims

namespace Sys2Proof.Machine

/-! ### Bytes in memory -/

theorem getElem?_sramRead (s : State) (a : Nat) {n i : Nat} (h : i < n) : (sramRead s a n)[i]? = some (sramGet s (a + i)) := by
  simp [sramRead, h]

theorem sramGet_sramWrite_in {s : State} (hwf : Memory.wf s.sram = true) (a : Nat) {bs : List Byte} {i : Nat} {b : Byte} (h : bs[i]? = some b) :
    sramGet (sramWrite s a bs) (a + i) = b := by
  have hi : i < bs.length := (List.getElem?_eq_some_iff.1 h).1
  have hread := getElem?_sramRead (sramWrite s a bs) a hi
  rw [sramRead_sramWrite_same hwf, h] at hread
  exact (Option.some.inj hread).symm

theorem sramKept_sramWrite (s : State) (a : Nat) (bs : List Byte) : SramKept s (sramWrite s a bs) a bs.length :=
  fun _ h => sramGet_sramWrite_out s bs a _ h

/-- Bytes outside a written span are read as before. -/
theorem sramRead_of_kept {s u : State} {a n b m : Nat} (h : SramKept s u a n) (hout : b + m ≤ a ∨ a + n ≤ b) : sramRead u b m = sramRead s b m :=
  List.map_congr_left fun i hi => h _ (by have := List.mem_range.1 hi; omega)

theorem ofNat_byte_eq_extractLsb' {w : Nat} (x : BitVec w) (i : Nat) : BitVec.ofNat 8 (x.toNat / 256 ^ i) = x.extractLsb' (8 * i) 8 := by
  rw [BitVec.extractLsb', Nat.shiftRight_eq_div_pow, pow_mul]
  rfl

/-- Data memory lies behind instruction memory. -/
theorem fetchWord_dmemWrite (s : State) (t u : Tile) (a : Nat) (bs : List Byte) {pc : Nat} (hpc : pc < 16384) :
    fetchWord (sramWrite s (dmemKey u a) bs) t pc = fetchWord s t pc := by
  have := t.isLt
  rw [fetchWord, sramRead_of_kept (sramKept_sramWrite s _ bs) (.inl (by simp only [imemKey, dmemKey]; omega)), fetchWord]

theorem stores_of_coreStore {t : Tile} {c : Instr} {s : State} {w n : Nat} {rs2 rs1 : BitVec 5} {imm : BitVec 16} (hwf : Memory.wf s.sram = true)
    (hx : exec c s = .next (coreStore s t w n rs2 rs1 imm)) (hc : coreAt s t w = true) : Stores c s t rs2 rs1 imm n := by
  rw [coreStore, coreExec_legal hc rfl] at hx
  refine ⟨fun hlt hal hf => ?_, fun hbad => ?_⟩
  · rw [dmemAddr_good hlt hal] at hx
    have hpc := hf.1
    have hadv := advance_kept (s' := sramWrite s (dmemKey t (coreAddr s t rs1 imm)) (leBytes n (getG s t rs2).toNat)) hf rfl
      (fetchWord_dmemWrite s t t _ _ (by omega))
    refine ⟨_, hx.trans (congrArg _ hadv), rfl, fun d k hk => regsKept_wr (sramWrite ..) _ _ _ _ _ d k hk,
      (rd_wr_same ..).trans (Nat.mod_eq_of_lt (show _ < 2 ^ 14 by omega)), ?_, ?_⟩
    · have hkept := sramKept_sramWrite s (dmemKey t (coreAddr s t rs1 imm)) (leBytes n (getG s t rs2).toNat)
      rwa [length_leBytes] at hkept
    · intro i hi
      exact (sramGet_sramWrite_in hwf _ (getElem?_leBytes _ hi)).trans (ofNat_byte_eq_extractLsb' ..)
  · rw [dmemAddr_bad hbad] at hx
    exact stops_of_coreFault hx

/-- Settles O6: the three stores are one store with its size. -/
theorem storeResults : Obligations.store_results := by
  unfold Obligations.store_results
  intro t rs2 rs1 imm s hwf
  exact ⟨stores_of_coreStore hwf rfl, stores_of_coreStore hwf rfl, stores_of_coreStore hwf rfl⟩

/-! ### Reads of status (R170, R174, R181) -/

theorem engqStatus_eq (s : State) (t q : Nat) : engqStatus s t q
    = (queue s t q).waiting.length + queueDepth s t q * 2 ^ 8 + rd s 4 R.ENGQ_STATUS_QSTATE t q * 2 ^ 16
      + (if enginePresent s t (if q = 4 then 0 else q) then 2 ^ 18 else 0) + (if (queue s t q).running = [] then 0 else 2 ^ 19)
      + rd s 4 R.ENGQ_STATUS_LAST_STATUS t q * 2 ^ 24 + rd s 4 R.ENGQ_STATUS_DONE t q * 2 ^ 32 := by
  have hpresent (b : Bool) : b.toNat * 2 ^ 18 = if b then 2 ^ 18 else 0 := by cases b <;> simp
  have hbusy (l : List RunCmd) : (!l.isEmpty).toNat * 2 ^ 19 = if l = [] then 0 else 2 ^ 19 := by cases l <;> simp
  simp only [engqStatus, engineOfQueue, hpresent, hbusy, qState]

theorem summaryField_eq (s : State) (t k : Nat) {f : Nat} (hf : f < 4) : summaryField s t k f
    = rd s 4 (if f = 0 then R.VX_SUM_SUM else if f = 1 then R.VX_MAX_MAX else if f = 2 then R.VX_MIN_MIN else R.VX_NONFIN_NONFIN) t k := by
  interval_cases f <;> rfl

/-- RDSR by the register that it names. -/
theorem exec_rdsr_tile {t : Tile} {rd rs1 : BitVec 5} {imm : BitVec 16} (s : State) (h : imm.toNat % 4096 = 0) : exec (.rdsr t rd rs1 imm) s
    = .next (coreResult s t (encI 0x25 rd rs1 imm) true rd (BitVec.ofNat 64 (srTile s t))) := by
  simp only [exec, execRdsr, h]

theorem exec_rdsr_stNow {t : Tile} {rd rs1 : BitVec 5} {imm : BitVec 16} (s : State) (h : imm.toNat % 4096 = 2) : exec (.rdsr t rd rs1 imm) s
    = .next (coreResult s t (encI 0x25 rd rs1 imm) true rd (BitVec.ofNat 64 (stNow s (partOfTile s t)))) := by
  simp only [exec, execRdsr, h]

/-- The state of SR_CYCLE after a read that gives n. -/
def cycleRead (s : State) (t n : Nat) : State := tickFree (setTile s t { tile s t with cycle := n })

theorem exec_rdsr_cycle {t : Tile} {rd rs1 : BitVec 5} {imm : BitVec 16} {s : State} (hc : coreAt s t (encI 0x25 rd rs1 imm) = true)
    (h : imm.toNat % 4096 = 1) : exec (.rdsr t rd rs1 imm) s = .next (advance
      (setG (cycleRead s t ((tile s t).cycle + freshNat s)) t rd (BitVec.ofNat 64 ((tile s t).cycle + freshNat s))) t) := by
  simp only [exec, execRdsr, h]
  exact congrArg Host.Outcome.next (coreExec_legal hc rfl)

theorem exec_rdsr_reserved {t : Tile} {rd rs1 : BitVec 5} {imm : BitVec 16} (s : State) (h : 2 < imm.toNat % 4096) : exec (.rdsr t rd rs1 imm) s
    = .next (coreExec s t (encI 0x25 rd rs1 imm) false id) := by
  obtain ⟨n, hn⟩ : ∃ n, imm.toNat % 4096 = n + 3 := ⟨_, (Nat.sub_add_cancel h).symm⟩
  simp only [exec, execRdsr, hn]

/-- Settles O4: QSTAT, VSUM and the plain control-state registers are register results; SR_CYCLE is one after its free step. -/
theorem statusReads : Obligations.status_reads := by
  unfold Obligations.status_reads
  intro t rd rs2 s hf
  refine ⟨fun hc himm => ?qstat, fun rs1 k f hk hfld himm hc => ?vsum, fun rs1 hc => ⟨fun h => ?tile, fun h => ?stNow, fun h n hn => ?cycle⟩⟩
  case qstat =>
    rw [← engqStatus_eq]
    exact writes_of_coreResult rfl hc (by simp [himm]) hf
  case vsum =>
    have hslot : bitsOf rs2.toNat 0 3 = k := by simp only [bitsOf]; omega
    have hfield : bitsOf rs2.toNat 4 2 = f := by simp only [bitsOf]; omega
    have hbit : bitAt rs2.toNat 3 = false := by simp only [bitAt, beq_eq_false_iff_ne]; omega
    rw [← summaryField_eq s t k hfld, ← hslot, ← hfield]
    exact writes_of_coreResult rfl hc (by rw [hbit, Bool.not_false, Bool.and_true, decide_eq_true_iff]; omega) hf
  case tile => exact writes_of_coreResult (exec_rdsr_tile s h) hc rfl hf
  case stNow => exact writes_of_coreResult (exec_rdsr_stNow s h) hc rfl hf
  case cycle =>
    subst hn
    exact ⟨_, exec_rdsr_cycle hc h, advance_setG_wrote (s := cycleRead s t _) hf rd _⟩

/-! ### Forms that stop the core (R170) -/

theorem bitAt_eq_testBit (x i : Nat) : bitAt x i = x.testBit i := by
  rw [Nat.testBit_eq_decide_div_mod_eq, bitAt, beq_eq_decide]

theorem bitAt_toNat {w : Nat} (x : BitVec w) (i : Nat) : bitAt x.toNat i = x.getLsbD i := bitAt_eq_testBit ..

theorem and_beq_eq_false {α β : Type} [DecidableEq α] [DecidableEq β] {a a' : α} {b b' : β} (h : a ≠ a' ∨ b ≠ b') :
    (a == a' && b == b') = false := by
  rcases h with h | h <;> simp [h]

/-- An addition in front of a reserved opcode writes its result and stops on arrival. -/
theorem addi_before_reserved {t : Tile} {rd rs1 : BitVec 5} {imm : BitVec 16} {s : State} (hc : coreAt s t (encI 0x02 rd rs1 imm) = true)
    (hpc : pcOf s t < 16383) (hop : opcodeDefined (fetchWord s t (pcOf s t + 1) / 2 ^ 26) = false) :
    exec (.addi t rd rs1 imm) s = .next (coreFault (wr (setG s t rd (getG s t rs1 + sext16 imm)) 4 R.TILE_STATUS_PC (pcOf s t + 1) t) t
      K.ILLEGAL_INSTR) := by
  refine congrArg Host.Outcome.next ((coreExec_legal hc rfl).trans ?_)
  rw [advance, pcOf_setG, if_neg (by omega), enterPc]
  refine if_neg (Bool.eq_false_iff.1 ?_)
  exact (congrArg (fun w => opcodeDefined (w / 2 ^ 26)) (fetchWord_setG s t rd _ t _)).trans hop

/-- Settles O12: every reserved form is an illegal form of its instruction; a reserved successor stops the core on arrival. -/
theorem illegalFormsStop : Obligations.illegal_forms_stop := by
  unfold Obligations.illegal_forms_stop
  intro t rd rs1 rs2 funct imm q k rsvd s
  refine ⟨fun hc h => ?alu, fun hc h => ?fpu, fun hc h => ?shi, fun hc h => ?lui, fun hc h => ?push, fun hc h => ?qstat, fun hc h => ?sig,
    fun hc h => ?wait, fun hc h => ?vsum, fun hc h => ?rdsr, fun hc h => ?wrsr, fun hc hpc hop => ?successor⟩
  case alu => exact stops_illegal rfl hc (decide_eq_false (by omega))
  case fpu =>
    refine stops_illegal rfl hc (Bool.eq_false_iff.2 (mt (fpuLegal_iff rs2 funct).1 fun ⟨hfunct, hsqrt⟩ => ?_))
    rcases h with h | ⟨h4, hrs2⟩
    · omega
    · exact hrs2 (hsqrt h4)
  case shi => exact stops_illegal rfl hc (decide_eq_false (by omega))
  case lui => exact stops_illegal rfl hc (beq_eq_false_iff_ne.2 h)
  case push =>
    refine stops_illegal rfl hc ?_
    rcases h with h | h | h
    · rw [decide_eq_false (Nat.not_le.2 h), Bool.false_and, Bool.false_and]
    · rw [bne_eq_false_iff_eq.2 h, Bool.and_false, Bool.false_and]
    · rw [beq_eq_false_iff_ne.2 h, Bool.and_false]
  case qstat =>
    refine stops_illegal rfl hc ?_
    rcases h with h | h
    · rw [beq_eq_false_iff_ne.2 h, Bool.false_and]
    · rw [decide_eq_false (Nat.not_le.2 h), Bool.and_false]
  case sig => exact stops_illegal rfl hc (and_beq_eq_false h)
  case wait => exact stops_illegal rfl hc (and_beq_eq_false h)
  case vsum =>
    refine stops_illegal rfl hc ?_
    rcases h with h | h
    · rw [decide_eq_false (Nat.not_lt.2 h), Bool.false_and]
    · rw [bitAt_toNat, h, Bool.not_true, Bool.and_false]
  case rdsr => exact stops_illegal (exec_rdsr_reserved s h) hc rfl
  case wrsr => exact stops_illegal rfl hc (and_beq_eq_false h)
  case successor =>
    refine ⟨_, _, addi_before_reserved hc hpc hop, ?_, coreFault_stopped _ _ _ rfl (by decide)⟩
    rw [← add_sext16]
    exact coreWrote_setG _ _ _ _ _ (by omega)

end Sys2Proof.Machine
end

section
/-!
SUPPORT. Commands that their engine refuses at the start with BAD_DESC (R180).
-/

open Sys2Proof Sys2Proof.Machine Sys2Proof.Claims

namespace Sys2Proof.Machine

/-- The row of operation `opc` refuses the entry: its OPC is not defined, or its header is bad. -/
def RowRefuses (s : State) (p opc : Nat) (defined : Nat → Bool) (e : QEntry) : Prop :=
  (defined (opcOf e.cmd) = false ∧ opcOf e.cmd ≠ opc) ∨ (opcOf e.cmd = opc ∧ headerRefuse s p e.cmd = some badDesc)

section
variable {s : State} {t q opc : Nat} {defined : Nat → Bool} {body : State → QEntry → Option (State × RunCmd)} {e : QEntry}

theorem engineRow_refuses (hhead : headEntry s t q = some e) (h : RowRefuses s (partOfTile s t) opc defined e) :
    engineRow s t q opc defined body = startCmd s t q (refuseCmd e badDesc) := by
  simp only [engineRow, hhead]
  rcases h with ⟨hundef, -⟩ | ⟨hopc, hheader⟩
  · rw [hundef, Bool.not_false, if_pos rfl]
  · rw [hheader]
    simp only [hopc, ne_eq, not_true_eq_false, if_false, ite_self]

theorem eccMeets_refused {touch : State → Cmd → List (Nat × Nat)} (hhead : headEntry s t q = some e)
    (h : RowRefuses s (partOfTile s t) opc defined e) (m : EccMem) : eccMeets s t q opc touch body m = none := by
  simp only [eccMeets, hhead]
  refine if_neg fun ⟨hopc, hnone⟩ => ?_
  rcases h with ⟨-, hne⟩ | ⟨-, hheader⟩
  · exact hne hopc
  · rw [hheader] at hnone
    exact nomatch hnone

/-- A refused command reads nothing, so that no ECC event meets it. -/
theorem eccRow_refuses {touch : State → Cmd → List (Nat × Nat)} (hhead : headEntry s t q = some e)
    (h : RowRefuses s (partOfTile s t) opc defined e) (ecc : Ecc) :
    eccRow s t q opc defined ecc body touch = startCmd s t q (refuseCmd e badDesc) := by
  have hrow := engineRow_refuses (body := body) hhead h
  cases ecc with
  | none => exact hrow
  | corrected m => simpa only [eccRow, eccMeets_refused hhead h, Option.isSome_none, Bool.false_eq_true, if_false] using hrow
  | uncorrected m => simpa only [eccRow, eccMeets_refused hhead h] using hrow

end

/-- A reserved header bit, or SIG_EN with SIG_INC 0. -/
theorem headerRefuse_badDesc (s : State) (p : Nat) {c : Cmd} (h : cb c 1 / 2 ≠ 0 ∨ (cb c 1 % 2 = 1 ∧ cbs c 2 2 = 0)) :
    headerRefuse s p c = some badDesc := by
  have hflags : cbits c 1 1 7 = cb c 1 / 2 := by simp only [cbits, cb, byteAt, bitsOf]; omega
  unfold headerRefuse
  split
  · rfl
  · next hzero =>
    obtain ⟨hodd, hinc⟩ := h.resolve_left (hflags ▸ hzero)
    have hsig : sigEn c = true := by
      simp only [sigEn, cbit, bitAt, beq_iff_eq]
      simp only [cb, byteAt, bitsOf] at hodd
      omega
    rw [if_pos hsig, if_pos hinc]

/-- A TLOAD that the row refuses joins no line. -/
theorem tloadArrive_refused {s : State} {t : Nat} {ext : List Byte} {defined : Nat → Bool} {e : QEntry} (hhead : headEntry s t 3 = some e)
    (h : RowRefuses s (partOfTile s t) 6 defined e) : tloadArrive s t ext = s := by
  simp only [tloadArrive, hhead]
  refine if_neg fun ⟨hopc, hnone, _⟩ => ?_
  rcases h with ⟨-, hne⟩ | ⟨-, hheader⟩
  · exact hne hopc
  · rw [hheader] at hnone
    exact nomatch hnone

/-- The commands of the vector, row and DMA queues: the command, its queue, its operation and the last operation of its engine. -/
def engineCommands (t : Tile) (ext : List Byte) (ecc : Ecc) : List (Instr × Nat × Nat × Nat) :=
  [(.vadd t ecc, 1, 1, 11), (.vsub t ecc, 1, 2, 11), (.vmul t ecc, 1, 3, 11), (.vfma t ecc, 1, 4, 11), (.vmin t ecc, 1, 5, 11),
    (.vmax t ecc, 1, 6, 11), (.vcmp t ecc, 1, 7, 11), (.vsel t ecc, 1, 8, 11), (.vcvt t ecc, 1, 9, 11), (.vred t ecc, 1, 10, 11),
    (.idxgen t ecc, 1, 11, 11), (.smaxF t ecc, 2, 1, 4), (.smaxB t ecc, 2, 2, 4), (.normF t ecc, 2, 3, 4), (.normB t ecc, 2, 4, 4),
    (.copy t ext ecc, 3, 1, 7), (.stream t ecc, 3, 2, 7), (.dcopy t ecc, 3, 3, 7), (.tload t ext ecc, 3, 6, 7), (.tstart t, 3, 7, 7)]

/-- Each of them is a row of its queue, in the state in which a TLOAD has joined its line. -/
theorem exec_engineCommands {t : Tile} {ext : List Byte} {ecc : Ecc} {c : Instr} {q opc top : Nat} (h : (c, q, opc, top) ∈ engineCommands t ext ecc)
    (s : State) : 1 ≤ opc ∧ opc ≤ top ∧ ∃ s1 ecc body touch, (s1 = s ∨ (q = 3 ∧ opc = 6 ∧ s1 = tloadArrive s t ext))
      ∧ exec c s = .next (eccRow s1 t q opc (fun o => decide (1 ≤ o ∧ o ≤ top)) ecc body touch) := by
  simp only [engineCommands, List.mem_cons, List.not_mem_nil, or_false, Prod.mk.injEq] at h
  iterate 18
    rcases h with ⟨rfl, rfl, rfl, rfl⟩ | h
    · exact ⟨by decide, by decide, s, ecc, _, _, .inl rfl, rfl⟩
  rcases h with ⟨rfl, rfl, rfl, rfl⟩ | ⟨rfl, rfl, rfl, rfl⟩
  · exact ⟨by decide, by decide, _, ecc, _, _, .inr ⟨rfl, rfl, rfl⟩, rfl⟩
  · exact ⟨by decide, by decide, s, .none, _, fun _ _ => [], .inl rfl, rfl⟩

/-- Settles O15: each of the commands is a row of its queue, and a row refuses such an entry whatever its body. -/
theorem refusedCommands : Obligations.refused_commands := by
  unfold Obligations.refused_commands
  intro t s e c q opc top ext ecc hmem hhead hbad
  obtain ⟨hpos, hle, s1, ecc', body, touch, hs1, hexec⟩ := exec_engineCommands hmem s
  have href : RowRefuses s (partOfTile s t) opc (fun o => decide (1 ≤ o ∧ o ≤ top)) e := by
    rcases hbad with h0 | htop | ⟨hopc, hheader⟩
    · exact .inl ⟨decide_eq_false (by omega), by omega⟩
    · exact .inl ⟨decide_eq_false (by omega), by omega⟩
    · exact .inr ⟨hopc, headerRefuse_badDesc s _ hheader⟩
  have hsame : s1 = s := by
    rcases hs1 with h | ⟨rfl, rfl, h⟩
    · exact h
    · exact h.trans (tloadArrive_refused hhead href)
  subst hsame
  exact ⟨_, _, hexec.trans (congrArg _ (eccRow_refuses hhead href ecc')), startCmd_started hhead rfl rfl, rfl, rfl, rfl,
    queuesOnly_setQueue rfl, rfl⟩

end Sys2Proof.Machine
end

section
/-!
SUPPORT. The control of a tile's queues: PUSH, QRESET, and what a reset gives up (R128, R175, R182, R185, R188, R191).
-/

open Sys2Proof Sys2Proof.Machine Sys2Proof.Claims

namespace Sys2Proof.Machine

/-! ### Faults and tiles -/

/-- A fault of class F0 or F1 is a message and nothing else (R439, R442). -/
theorem raise_eq_sendFault (s : State) (src : Nat) {k : Kind} (hk : k.cls < 2) (p addr detail : Nat) :
    raise s src k p addr detail = sendFault s (mkFault src k p addr detail) := by
  simp only [raise, show k.cls ≠ 2 by omega, show k.cls ≠ 3 by omega, if_false]

theorem onlyRegs_wr_of_mem {ks : List Nat} (s : State) (p : Nat) (f : Reg) (v i j : Nat) (h : fieldKey f p i j ∈ ks) :
    OnlyRegs s (wr s p f v i j) ks :=
  (onlyRegs_wr s p f v i j).mono fun _ hk => List.mem_singleton.1 hk ▸ h

theorem mapGet_map {β : Type} {f : β → β} (d : β) (hd : f d = d) (m : NatMap β) (i : Nat) :
    mapGet d (m.map fun x => (x.1, f x.2)) i = f (mapGet d m i) := by
  induction m with
  | nil => exact hd.symm
  | cons x m ih =>
    simp only [List.map_cons, mapGet]
    split
    · rfl
    · exact ih

theorem tile_dropWaiter (s : State) (src t : Nat) :
    tile (dropWaiter s src) t = { tile s t with loadWaits := (tile s t).loadWaits.filter (fun x => x != src) } :=
  mapGet_map (f := fun x : TileState => { x with loadWaits := x.loadWaits.filter (fun y => y != src) }) default rfl s.tiles t

theorem line_dropMerge (s : State) (t c : Nat) :
    mapGet [] (dropMerge s t).cloveWait c = (mapGet [] s.cloveWait c).filter (fun x => x != t) :=
  mapGet_map (f := fun l : List Nat => l.filter (fun x => x != t)) [] rfl s.cloveWait c

theorem tile_setQueue_same (s : State) (t q : Nat) (x : EngQueue) :
    tile (setQueue s t q x) t = { tile s t with queues := mapSet (tile s t).queues q x } := tile_setTile_same ..

/-! ### PUSH (R175, R182, R188) -/

section
variable {s : State} {t q : Nat} {c : Cmd}

theorem pushQueue_absent (h : enginePresent s t (engineOfQueue q) = false) :
    pushQueue s t q c = wr s 4 R.ENGQ_STATUS_LAST_STATUS St.UNIT_ABSENT t q := by
  rw [pushQueue, h, Bool.not_false, if_pos rfl]

theorem pushQueue_stopped (h : enginePresent s t (engineOfQueue q) = true) (hq : qState s t q ≠ 0) : pushQueue s t q c = s := by
  rw [pushQueue, h, Bool.not_true, if_neg Bool.false_ne_true, if_pos hq]

theorem pushQueue_room (h : enginePresent s t (engineOfQueue q) = true) (hq : qState s t q = 0)
    (hroom : (queue s t q).waiting.length < queueDepth s t q) : pushQueue s t q c
    = setQueue s t q { queue s t q with waiting := (queue s t q).waiting ++ [⟨c, rd s (partOfTile s t) R.ST_NOW_STEP⟩] } := by
  rw [pushQueue, h, Bool.not_true, if_neg Bool.false_ne_true, if_neg (not_not.2 hq)]
  exact if_pos hroom

theorem pushQueue_full (h : enginePresent s t (engineOfQueue q) = true) (hq : qState s t q = 0)
    (hfull : queueDepth s t q ≤ (queue s t q).waiting.length) : pushQueue s t q c
    = sendFault (wr s 4 R.ENGQ_STATUS_QSTATE 1 t q) (mkFault (srcTile t (q + 1)) K.QUEUE_OVERRUN (partOfTile s t) 0 0) := by
  rw [pushQueue, h, Bool.not_true, if_neg Bool.false_ne_true, if_neg (not_not.2 hq)]
  exact (if_neg (by omega)).trans (raise_eq_sendFault _ _ (by decide) ..)

end

/-- Byte 8 j + b of the pushed command is byte b of g(4k + j). -/
theorem pushCmd_byte (s : State) (t k : Nat) {j b : Nat} (hj : j < 4) (hb : b < 8) :
    (pushCmd s t k).extractLsb' (8 * (8 * j + b)) 8 = (getG s t (BitVec.ofNat 5 (4 * k + j))).extractLsb' (8 * b) 8 := by
  apply BitVec.eq_of_getLsbD_eq
  intro i hi
  simp only [BitVec.getLsbD_extractLsb', pushCmd, BitVec.getLsbD_append]
  obtain rfl | rfl | rfl | rfl : j = 0 ∨ j = 1 ∨ j = 2 ∨ j = 3 := by omega
  · rw [if_pos (by omega), Nat.mul_zero, Nat.zero_add, Nat.add_zero]
  · rw [if_neg (by omega), if_pos (by omega), show 8 * (8 * 1 + b) + i - 64 = 8 * b + i by omega]
  · rw [if_neg (by omega), if_neg (by omega), if_pos (by omega), show 8 * (8 * 2 + b) + i - 64 - 64 = 8 * b + i by omega]
  · rw [if_neg (by omega), if_neg (by omega), if_neg (by omega), show 8 * (8 * 3 + b) + i - 64 - 64 - 64 = 8 * b + i by omega]

/-! ### QRESET (R185) -/

section
variable (s : State) (t q : Nat)

/-- The state in which the waiting entries of a queue are gone, and for the DMA queue the places in the lines of loads and merges. -/
def queueEmptied : State :=
  let u := setQueue s t q { queue s t q with waiting := [] }
  if q = 3 then dropMerge (dropWaiter u (srcTile t 4)) t else u

theorem resetQueue_absent (h : enginePresent s t (engineOfQueue q) = false) : resetQueue s t q = s := by
  rw [resetQueue, h, if_neg Bool.false_ne_true]

theorem resetQueue_present (h : enginePresent s t (engineOfQueue q) = true) :
    resetQueue s t q = wr (queueEmptied s t q) 4 R.ENGQ_STATUS_QSTATE (if (queue s t q).running = [] then 0 else 2) t q := by
  simp only [resetQueue, h, if_true, List.isEmpty_iff]
  rfl

theorem resetQueue_frame : resetQueue s t q
    = { s with regs := (resetQueue s t q).regs, tiles := (resetQueue s t q).tiles, cloveWait := (resetQueue s t q).cloveWait } := by
  unfold resetQueue
  split
  · dsimp only
    split <;> rfl
  · rfl

theorem queueEmptied_regs : (queueEmptied s t q).regs = s.regs := by
  unfold queueEmptied
  split <;> rfl

theorem tile_queueEmptied (t' : Nat) : tile (queueEmptied s t q) t'
    = { tile (setQueue s t q { queue s t q with waiting := [] }) t' with
        loadWaits := if q = 3 then (tile s t').loadWaits.filter (fun x => x != srcTile t 4) else (tile s t').loadWaits } := by
  have hwaits : (tile (setQueue s t q { queue s t q with waiting := [] }) t').loadWaits = (tile s t').loadWaits := by
    by_cases h : t = t'
    · rw [← h, tile_setQueue_same]
    · rw [setQueue, tile_setTile_ne _ _ h]
  unfold queueEmptied
  split
  · rw [← hwaits]
    exact tile_dropWaiter ..
  · rw [← hwaits]

theorem queue_queueEmptied (q' : Nat) : queue (queueEmptied s t q) t q'
    = if q' = q then { queue s t q with waiting := [] } else queue s t q' := by
  have hqueues : queue (queueEmptied s t q) t q' = queue (setQueue s t q { queue s t q with waiting := [] }) t q' := by
    rw [queue, tile_queueEmptied]
    rfl
  rw [hqueues]
  split
  · next h => rw [h, queue_setQueue_same]
  · next h => exact queue_setQueue_ne s t h _

theorem line_queueEmptied (c : Nat) : mapGet [] (queueEmptied s t q).cloveWait c
    = if q = 3 then (mapGet [] s.cloveWait c).filter (fun x => x != t) else mapGet [] s.cloveWait c := by
  unfold queueEmptied
  split
  · exact line_dropMerge ..
  · rfl

theorem cloveWait_queueEmptied (h : q ≠ 3) : (queueEmptied s t q).cloveWait = s.cloveWait := by
  rw [queueEmptied, if_neg h]
  rfl

end

/-- The resets of the queues below n give up the tile's places in the lines of loads and merges: the DMA queue is among them. -/
abbrev GivesUp (s : State) (t mask n : Nat) : Prop := 3 < n ∧ mask.testBit 3 = true ∧ enginePresent s t 3 = true

/-- Queue q is reset under the mask. -/
abbrev IsReset (s : State) (t mask q : Nat) : Prop := mask.testBit q = true ∧ enginePresent s t (engineOfQueue q) = true

/-- From s to u the queues of the mask that are below n have been reset. -/
structure ResetBelow (s u : State) (t mask n : Nat) : Prop where
  frame : u = { s with regs := u.regs, tiles := u.tiles, cloveWait := u.cloveWait }
  regs  : RegsKept s u (qstateKeys t)
  reset : ∀ q, q < n → IsReset s t mask q →
    queue u t q = { queue s t q with waiting := [] } ∧ rd u 4 R.ENGQ_STATUS_QSTATE t q = if (queue s t q).running = [] then 0 else 2
  other : ∀ q, q < 5 → ¬ (q < n ∧ IsReset s t mask q) →
    queue u t q = queue s t q ∧ rd u 4 R.ENGQ_STATUS_QSTATE t q = rd s 4 R.ENGQ_STATUS_QSTATE t q
  tiles : ∀ t', ∃ q l, tile u t' = { tile s t' with queues := q, loadWaits := l } ∧ (t' ≠ t → q = (tile s t').queues)
    ∧ l = if GivesUp s t mask n then (tile s t').loadWaits.filter (fun x => x != srcTile t 4) else (tile s t').loadWaits
  kept  : ¬ GivesUp s t mask n → u.cloveWait = s.cloveWait
  lines : ∀ c, mapGet [] u.cloveWait c = if GivesUp s t mask n then (mapGet [] s.cloveWait c).filter (fun x => x != t) else mapGet [] s.cloveWait c

theorem fieldKey_qstate_ne {t q q' : Nat} (h : q ≠ q') : fieldKey R.ENGQ_STATUS_QSTATE 4 t q ≠ fieldKey R.ENGQ_STATUS_QSTATE 4 t q' := by
  simp only [fieldKey, R.ENGQ_STATUS_QSTATE]
  omega

theorem mem_qstateKeys {t q : Nat} (h : q < 5) : fieldKey R.ENGQ_STATUS_QSTATE 4 t q ∈ qstateKeys t :=
  List.mem_map.2 ⟨q, List.mem_range.2 h, rfl⟩

theorem not_givesUp_zero (s : State) (t mask : Nat) : ¬ GivesUp s t mask 0 := fun h => absurd h.1 (by decide)

theorem resetBelow_zero (s : State) (t mask : Nat) : ResetBelow s s t mask 0 where
  frame := rfl
  regs := .refl s _
  reset := fun _ h => absurd h (Nat.not_lt_zero _)
  other := fun _ _ _ => ⟨rfl, rfl⟩
  tiles := fun _ => ⟨_, _, rfl, fun _ => rfl, (if_neg (not_givesUp_zero s t mask)).symm⟩
  kept := fun _ => rfl
  lines := fun _ => (if_neg (not_givesUp_zero s t mask)).symm

section
variable {s u : State} {t mask n : Nat} (h : ResetBelow s u t mask n)
include h

theorem ResetBelow.present (e : Nat) : enginePresent u t e = enginePresent s t e := by
  rw [h.frame]
  rfl

/-- A queue that is not in the mask, or whose engine is absent, stays as it is. -/
theorem ResetBelow.skip (hno : ¬ IsReset s t mask n) : ResetBelow s u t mask (n + 1) := by
  have hgives : GivesUp s t mask (n + 1) ↔ GivesUp s t mask n := by
    refine ⟨fun ⟨hlt, hdma⟩ => ⟨?_, hdma⟩, fun ⟨hlt, hdma⟩ => ⟨by omega, hdma⟩⟩
    have : n ≠ 3 := fun h3 => hno (h3 ▸ hdma)
    omega
  refine ⟨h.frame, h.regs, fun q hq hr => h.reset q ?_ hr, fun q hq hr => h.other q hq fun ⟨hlt, hr'⟩ => hr ⟨by omega, hr'⟩, ?_, ?_, ?_⟩
  · have : q ≠ n := fun hqn => hno (hqn ▸ hr)
    omega
  · simpa only [hgives] using h.tiles
  · simpa only [hgives] using h.kept
  · simpa only [hgives] using h.lines

/-- The next queue of the mask is reset. -/
theorem ResetBelow.step (hn : n < 5) (hr : IsReset s t mask n) : ResetBelow s (resetQueue u t n) t mask (n + 1) := by
  obtain ⟨hqueue, hqstate⟩ := h.other n hn fun hlt => absurd hlt.1 (Nat.lt_irrefl n)
  have hframe := resetQueue_frame u t n
  have heq := resetQueue_present u t n ((h.present _).trans hr.2)
  generalize resetQueue u t n = v at hframe heq
  rw [hqueue] at heq
  have hvqueue (q : Nat) : queue v t q = queue (queueEmptied u t n) t q := by rw [heq]; rfl
  have hvtile (t' : Nat) : tile v t' = tile (queueEmptied u t n) t' := by rw [heq]; rfl
  have hvlines : v.cloveWait = (queueEmptied u t n).cloveWait := by rw [heq]; rfl
  have hread (q : Nat) (hne : q ≠ n) : rd v 4 R.ENGQ_STATUS_QSTATE t q = rd u 4 R.ENGQ_STATUS_QSTATE t q := by
    rw [heq]
    exact (rd_wr_ne _ _ (fieldKey_qstate_ne hne.symm)).trans (rd_of_regs (queueEmptied_regs ..) ..)
  have hgives : GivesUp s t mask (n + 1) ↔ n = 3 ∨ GivesUp s t mask n := by
    refine ⟨fun ⟨hlt, hdma⟩ => ?_, ?_⟩
    · rcases Nat.lt_or_ge 3 n with h3 | h3
      · exact .inr ⟨h3, hdma⟩
      · exact .inl (by omega)
    · rintro (rfl | ⟨hlt, hdma⟩)
      · exact ⟨by decide, hr⟩
      · exact ⟨by omega, hdma⟩
  have hnot (h3 : n = 3) : ¬ GivesUp s t mask n := fun hg => absurd hg.1 (by omega)
  refine ⟨?_, ?_, fun q hq hrq => ?_, fun q hq hno => ?_, fun t' => ?_, fun hno => ?_, fun c => ?_⟩
  · rw [h.frame] at hframe
    exact hframe
  · intro d k hk
    rw [heq, regsKept_wr _ _ _ _ _ _ d k (fun hmem => hk (List.mem_singleton.1 hmem ▸ mem_qstateKeys hn)), queueEmptied_regs, h.regs d k hk]
  · rw [hvqueue, queue_queueEmptied]
    by_cases hqn : q = n
    · subst hqn
      rw [if_pos rfl, hqueue, heq, rd_wr_same]
      refine ⟨rfl, ?_⟩
      split <;> rfl
    · rw [if_neg hqn, hread q hqn]
      exact h.reset q (by omega) hrq
  · have hqn : q ≠ n := fun hqn => hno ⟨by omega, hqn ▸ hr⟩
    rw [hvqueue, queue_queueEmptied, if_neg hqn, hread q hqn]
    exact h.other q hq fun ⟨hlt, hr'⟩ => hno ⟨by omega, hr'⟩
  · obtain ⟨q, l, htile, hq, hl⟩ := h.tiles t'
    obtain ⟨q', hq', hset⟩ : ∃ q', (t' ≠ t → q' = (tile s t').queues)
        ∧ tile (setQueue u t n { queue u t n with waiting := [] }) t' = { tile s t' with queues := q', loadWaits := l } := by
      by_cases ht : t' = t
      · subst ht
        refine ⟨mapSet (tile u t').queues n { queue u t' n with waiting := [] }, fun hne => absurd rfl hne, ?_⟩
        simp only [tile_setQueue_same, htile]
      · exact ⟨q, hq, (tile_setTile_ne u _ (Ne.symm ht)).trans htile⟩
    refine ⟨q', _, ?_, hq', rfl⟩
    rw [hvtile, tile_queueEmptied, hset, htile]
    by_cases h3 : n = 3
    · rw [if_pos h3, if_pos (hgives.2 (.inl h3)), hl, if_neg (hnot h3)]
    · have hsame : GivesUp s t mask (n + 1) ↔ GivesUp s t mask n := by rw [hgives, or_iff_right h3]
      rw [if_neg h3, hl]
      simp only [hsame]
  · have h3 : n ≠ 3 := fun h3 => hno (hgives.2 (.inl h3))
    rw [hvlines, cloveWait_queueEmptied u t n h3]
    exact h.kept fun hg => hno (hgives.2 (.inr hg))
  · rw [hvlines, line_queueEmptied, h.lines c]
    by_cases h3 : n = 3
    · rw [if_pos h3, if_pos (hgives.2 (.inl h3)), if_neg (hnot h3)]
    · have hsame : GivesUp s t mask (n + 1) ↔ GivesUp s t mask n := by rw [hgives, or_iff_right h3]
      rw [if_neg h3]
      simp only [hsame]

end

/-- QRESET takes the queues of its mask in turn. -/
theorem resetBelow_resetQueues (s : State) (t : Nat) {m mask : Nat} (hm : ∀ q, q < 5 → bitAt m q = mask.testBit q) :
    ResetBelow s (resetQueues s t m) t mask 5 := by
  have hprefix : ∀ n, n ≤ 5 →
      ResetBelow s ((List.range n).foldl (fun s q => if bitAt m q then resetQueue s t q else s) s) t mask n := by
    intro n
    induction n with
    | zero => exact fun _ => resetBelow_zero s t mask
    | succ n ih =>
      intro hn
      have h := ih (by omega)
      rw [List.range_succ, List.foldl_append, List.foldl_cons, List.foldl_nil, hm n (by omega)]
      cases hbit : mask.testBit n with
      | false => exact h.skip fun hr => absurd (hbit.symm.trans hr.1) Bool.false_ne_true
      | true =>
        cases hp : enginePresent s t (engineOfQueue n) with
        | false =>
          rw [if_pos rfl, resetQueue_absent _ t n ((h.present _).trans hp)]
          exact h.skip fun hr => absurd (hp.symm.trans hr.2) Bool.false_ne_true
        | true =>
          rw [if_pos rfl]
          exact h.step (by omega) ⟨hbit, hp⟩
  exact hprefix 5 (Nat.le_refl 5)

/-- In the words of the claims. -/
theorem ResetBelow.queuesReset {s u : State} {t mask : Nat} (h : ResetBelow s u t mask 5) : QueuesReset s u t mask := fun q hq => by
  refine ⟨fun hbit hp => h.reset q hq ⟨hbit, hp⟩, fun hno => h.other q hq fun ⟨_, hbit, hp⟩ => ?_⟩
  rcases hno with hno | hno
  · exact absurd (hno.symm.trans hbit) Bool.false_ne_true
  · exact absurd (hno.symm.trans hp) Bool.false_ne_true

theorem ResetBelow.resetFrame {s u : State} {t mask : Nat} (h : ResetBelow s u t mask 5) : ResetFrame s u t mask := by
  have h5 : GivesUp s t mask 5 ↔ mask.testBit 3 = true ∧ enginePresent s t 3 = true := and_iff_right (by decide)
  refine ⟨?_, ?_, ?_⟩
  · simpa only [h5] using h.tiles
  · simpa only [h5] using h.kept
  · simpa only [h5] using h.lines

end Sys2Proof.Machine
end

section
/-! The queue instructions of a control core settled: PUSH, SIG, WRSR, HALT, WAIT and FENCE. -/

open Sys2Proof Sys2Proof.Machine Sys2Proof.Claims

namespace Sys2Proof.Machine

variable {s s' : State} {t : Nat}

/-- A change that leaves the instructions and PC of the tile alone, and then moving on: only PC differs. -/
theorem advance_kept_moved (h : FlowsOn s t) (hpc : pcOf s' t = pcOf s t)
    (hw : fetchWord s' t (pcOf s t + 1) = fetchWord s t (pcOf s t + 1)) : CoreMoved s' (advance s' t) t (pcOf s t + 1) := by
  rw [advance_kept h hpc hw]
  exact coreMoved_wr (by have := h.1; omega)

theorem OnlyRegs.tile {u : State} {ks : List Nat} (h : OnlyRegs s u ks) (t : Nat) : tile u t = Machine.tile s t := by rw [h.1]; rfl

theorem OnlyRegs.queue {u : State} {ks : List Nat} (h : OnlyRegs s u ks) (t q : Nat) : queue u t q = Machine.queue s t q := by rw [h.1]; rfl

/-- A change of the tiles, and then of registers only. -/
theorem OnlyRegs.frame_tiles {u : State} {ks : List Nat} (h : OnlyRegs s' u ks) (hs : s' = { s with tiles := s'.tiles }) :
    u = { s with regs := u.regs, tiles := u.tiles } := by
  rw [h.1, hs]

theorem fieldKey_qstate_ne_pc (t q : Nat) : fieldKey R.ENGQ_STATUS_QSTATE 4 t q ≠ fieldKey R.TILE_STATUS_PC 4 t 0 := by
  simp only [fieldKey, R.ENGQ_STATUS_QSTATE, R.TILE_STATUS_PC]
  omega

theorem fieldKey_lastStatus_ne_pc (t q : Nat) : fieldKey R.ENGQ_STATUS_LAST_STATUS 4 t q ≠ fieldKey R.TILE_STATUS_PC 4 t 0 := by
  simp only [fieldKey, R.ENGQ_STATUS_LAST_STATUS, R.TILE_STATUS_PC]
  omega

theorem pc_not_mem_qstateKeys (t : Nat) : fieldKey R.TILE_STATUS_PC 4 t 0 ∉ qstateKeys t := fun h => by
  obtain ⟨q, -, hq⟩ := List.mem_map.1 h
  exact fieldKey_qstate_ne_pc t q hq

/-! ### PUSH (R175) -/

theorem exec_push {t : Tile} {q k : BitVec 3} (hc : coreAt s t (encE 0x20 q k 0) = true) (hq : q.toNat ≤ 4) (hk : k ≠ 0) :
    exec (.push t q k 0) s = .next (advance (pushQueue s t q.toNat (pushCmd s t k.toNat)) t) :=
  congrArg Host.Outcome.next (coreExec_legal hc (by
    rw [decide_eq_true hq, bne_iff_ne.2 hk]
    rfl))

/-- Settles O9: one case of the table of pushes each, and then the core moves on. -/
theorem pushResults : Obligations.push_results := by
  unfold Obligations.push_results
  intro t q k s hc hq hk hf
  have hx := exec_push hc hq hk
  refine ⟨fun hp hstate hroom => ?_, fun hp hstate hfull => ?_, fun hp => ?_, fun hp hstate => ?_⟩
  · rw [pushQueue_room hp hstate hroom] at hx
    generalize hentry : ({ queue s t q.toNat with waiting := _ } : EngQueue) = x at hx
    obtain ⟨hmoved, hpc⟩ := advance_kept_moved (s' := setQueue s t q.toNat x) hf rfl rfl
    obtain ⟨hothers, htileq⟩ := queuesOnly_setQueue (s := s) (t := t) (q := q.toNat) (x := x) rfl
    refine ⟨_, _, hx, fun j b hj hb => pushCmd_byte s t k.toNat hj hb, ?_⟩
    rw [hentry]
    generalize advance _ (t : Nat) = u at hmoved hpc ⊢
    exact ⟨(hmoved.queue ..).trans (queue_setQueue_same ..), fun q' hne => (hmoved.queue ..).trans (queue_setQueue_ne s t hne x),
      ⟨fun t' hne => (hmoved.tile t').trans (hothers t' hne), by rw [hmoved.tile]; exact htileq⟩,
      hmoved.frame_tiles rfl, hmoved.2, hpc⟩
  · rw [pushQueue_full hp hstate hfull] at hx
    generalize hv : wr s 4 R.ENGQ_STATUS_QSTATE 1 t q.toNat = v at hx
    have hvregs : OnlyRegs s v [fieldKey R.ENGQ_STATUS_QSTATE 4 t q.toNat] := hv ▸ onlyRegs_wr ..
    have hvpc : pcOf v t = pcOf s t := hvregs.2.rd _ _ _ _ (by simp [(fieldKey_qstate_ne_pc t q.toNat).symm])
    have hvword : fetchWord v t (pcOf s t + 1) = fetchWord s t (pcOf s t + 1) := hv ▸ rfl
    have hvqueue : rd v 4 R.ENGQ_STATUS_QSTATE t q.toNat = 1 := hv ▸ rd_wr_same ..
    obtain ⟨hmoved, hpc⟩ := advance_kept_moved (s' := sendFault v (mkFault (srcTile t (q.toNat + 1)) K.QUEUE_OVERRUN (partOfTile s t) 0 0))
      hf hvpc hvword
    refine ⟨_, (partsAll v).map (stNow v), hx, ?_, (hvregs.2.mono (by simp)).trans (hmoved.2.mono (by simp)), hpc, ?_⟩
    · rw [hmoved.1, sendFault, hvregs.1]
    · rw [hmoved.2.rd 4 R.ENGQ_STATUS_QSTATE t q.toNat (by simp [fieldKey_qstate_ne_pc])]
      exact hvqueue
  · rw [pushQueue_absent hp] at hx
    generalize hv : wr s 4 R.ENGQ_STATUS_LAST_STATUS St.UNIT_ABSENT t q.toNat = v at hx
    have hvregs : OnlyRegs s v [fieldKey R.ENGQ_STATUS_LAST_STATUS 4 t q.toNat] := hv ▸ onlyRegs_wr ..
    have hvpc : pcOf v t = pcOf s t := hvregs.2.rd _ _ _ _ (by simp [(fieldKey_lastStatus_ne_pc t q.toNat).symm])
    obtain ⟨hregs, hpc⟩ := advance_kept_moved (s' := v) hf hvpc (hv ▸ rfl)
    refine ⟨_, hx, (hvregs.mono (by simp)).trans (hregs.mono (by simp)), hpc, ?_⟩
    rw [hregs.2.rd 4 R.ENGQ_STATUS_LAST_STATUS t q.toNat (by simp [fieldKey_lastStatus_ne_pc]), ← hv, rd_wr_same]
    rfl
  · rw [pushQueue_stopped hp hstate] at hx
    exact ⟨_, hx, advance_moved hf⟩

/-! ### SIG, WRSR and HALT (R170, R174, R189, R256) -/

theorem resolveReg_eq {v : Word} (h : v.toNat < 2 ^ 32) : resolveReg s t v = resolveName s (partOfTile s t) (v.setWidth 32) := if_pos h

theorem exec_sig {t : Tile} {rs1 rs2 : BitVec 5} {c : CtrRef} (hc : coreAt s t (encR 0x22 0 rs1 rs2 0) = true)
    (hres : resolveReg s t (getG s t rs1) = .ctr c) (h0 : 0 < (getG s t rs2).toNat % 2 ^ 32) (h1 : (getG s t rs2).toNat % 2 ^ 32 < 2 ^ 31) :
    exec (.sig t 0 rs1 rs2 0) s = .next (advance (issueInc s c (srcTile t 0) ((getG s t rs2).toNat % 2 ^ 32)) t) := by
  refine congrArg Host.Outcome.next ((coreExec_legal hc rfl).trans ?_)
  simp only [hres]
  exact if_neg (by omega)

theorem exec_wrsr {t : Tile} {rs1 : BitVec 5} {imm : BitVec 16} (hc : coreAt s t (encI 0x26 0 rs1 imm) = true) (himm : imm.toNat % 4096 = 3) :
    exec (.wrsr t 0 rs1 imm) s = .next (advance (resetQueues s t ((getG s t rs1).toNat % 32)) t) :=
  congrArg Host.Outcome.next (coreExec_legal hc (by rw [himm]; rfl))

theorem haltKeys_ne (t : Nat) : fieldKey R.TILE_STATUS_STATE 4 t 0 ≠ fieldKey R.TILE_STATUS_PC 4 t 0
    ∧ fieldKey R.TILE_STATUS_STATE 4 t 0 ≠ fieldKey R.TILE_STATUS_HALT_CODE 4 t 0
    ∧ fieldKey R.TILE_STATUS_PC 4 t 0 ≠ fieldKey R.TILE_STATUS_HALT_CODE 4 t 0 := by
  simp only [fieldKey, R.TILE_STATUS_STATE, R.TILE_STATUS_HALT_CODE, R.TILE_STATUS_PC]
  omega

theorem exec_halt {t : Tile} {rd rs1 : BitVec 5} {imm : BitVec 16} (hc : coreAt s t (encI 0x28 rd rs1 imm) = true) :
    exec (.halt t rd rs1 imm) s = .next (wr (wr (wr s 4 R.TILE_STATUS_HALT_CODE (imm.toNat % 256) t) 4 R.TILE_STATUS_PC ((pcOf s t + 1) % 16384) t)
      4 R.TILE_STATUS_STATE 0 t) :=
  congrArg Host.Outcome.next ((coreExec_legal hc rfl).trans (by
    simp only [pcOf]
    rw [rd_wr_ne _ _ (haltKeys_ne t).2.2.symm]))

theorem bitAt_mod_32 (x : Nat) {q : Nat} (hq : q < 5) : bitAt (x % 32) q = x.testBit q := by
  rw [bitAt_eq_testBit, show 32 = 2 ^ 5 by rfl, Nat.testBit_mod_two_pow, decide_eq_true hq, Bool.true_and]

/-- Moving on after a reset of queues. -/
theorem CoreMoved.queuesReset {u : State} {pc mask : Nat} (hm : CoreMoved s' u t pc) (h : QueuesReset s s' t mask) : QueuesReset s u t mask := by
  intro q hq
  rw [hm.1.queue, hm.1.2.rd _ _ _ _ (by simp [fieldKey_qstate_ne_pc])]
  exact h q hq

theorem CoreMoved.resetFrame {u : State} {pc mask : Nat} (hm : CoreMoved s' u t pc) (h : ResetFrame s s' t mask) : ResetFrame s u t mask := by
  have hlines : u.cloveWait = s'.cloveWait := by rw [hm.1.1]
  rw [ResetFrame, hlines]
  simp only [hm.1.tile]
  exact h

/-- HALT writes HALT_CODE, then PC, then STATE. -/
theorem halt_onlyRegs (s : State) (t code pc : Nat) :
    OnlyRegs s (wr (wr (wr s 4 R.TILE_STATUS_HALT_CODE code t) 4 R.TILE_STATUS_PC pc t) 4 R.TILE_STATUS_STATE 0 t)
      [fieldKey R.TILE_STATUS_PC 4 t 0, fieldKey R.TILE_STATUS_STATE 4 t 0, fieldKey R.TILE_STATUS_HALT_CODE 4 t 0] :=
  ((onlyRegs_wr_of_mem s _ _ _ _ _ (by simp)).trans (onlyRegs_wr_of_mem _ _ _ _ _ _ (by simp))).trans (onlyRegs_wr_of_mem _ _ _ _ _ _ (by simp))

/-- Settles O10: SIG queues its increment, WRSR resets the queues of its mask in turn, HALT writes three fields of TILE_STATUS. -/
theorem sigWrsrHaltResults : Obligations.sig_wrsr_halt_results := by
  unfold Obligations.sig_wrsr_halt_results
  intro t s
  refine ⟨fun rs1 rs2 c hc hf hlt hres h0 h1 => ?_, fun rs1 imm hc himm hf => ?_, fun rd rs1 imm hc => ?_⟩
  · have hx := exec_sig hc ((resolveReg_eq hlt).trans hres) h0 h1
    rw [issueInc, show BitVec.ofNat 32 ((getG s t rs2).toNat % 2 ^ 32) = (getG s t rs2).setWidth 32 by bv_omega] at hx
    obtain ⟨⟨hframe, hregs⟩, hpc⟩ :=
      advance_kept_moved (s' := { s with incs := s.incs ++ [⟨c, srcTile t 0, (getG s t rs2).setWidth 32⟩] }) hf rfl rfl
    refine ⟨_, hx, ?_⟩
    generalize advance _ (t : Nat) = u at hframe hregs hpc ⊢
    exact ⟨hframe, hregs, hpc⟩
  · have hreset := resetBelow_resetQueues s t (m := (getG s t rs1).toNat % 32) fun q hq => bitAt_mod_32 _ hq
    have hx := exec_wrsr hc himm
    generalize resetQueues s t _ = v at hreset hx
    have hvword : fetchWord v t (pcOf s t + 1) = fetchWord s t (pcOf s t + 1) := by rw [hreset.frame]; rfl
    have hmoved := advance_kept_moved (s' := v) hf (hreset.regs.rd _ _ _ _ (pc_not_mem_qstateKeys t)) hvword
    refine ⟨_, hx, hmoved.queuesReset hreset.queuesReset, hmoved.resetFrame hreset.resetFrame, ?_, ?_, hmoved.2⟩
    · rw [hmoved.1.1, hreset.frame]
    · exact (hreset.regs.mono fun _ hk => List.mem_cons_of_mem _ hk).trans (hmoved.1.2.mono (by simp))
  · obtain ⟨hpc, hcode, hcode'⟩ := haltKeys_ne t
    refine ⟨_, exec_halt hc, halt_onlyRegs .., ?_, rd_wr_same .., ?_⟩
    · rw [pcOf, rd_wr_ne _ _ hpc, rd_wr_same]
      exact Nat.mod_mod ..
    · rw [rd_wr_ne _ _ hcode, rd_wr_ne _ _ hcode', rd_wr_same]
      exact Nat.mod_mod ..

/-! ### WAIT and FENCE (R186, R260) -/

theorem waitMet_iff {c : CtrRef} (target : Half) (h : ctrVal s c < 2 ^ 32) : waitMet s c target = true ↔ hasReached (ctrVal s c) target.toNat := by
  have htarget := target.isLt
  rw [waitMet, reached, Bool.not_eq_true', BitVec.msb_eq_decide, decide_eq_false_iff_not, BitVec.toNat_sub, BitVec.toNat_ofNat]
  unfold hasReached
  omega

theorem hasReached_mod (x y : Nat) : hasReached x (y % 2 ^ 32) ↔ hasReached x y := by
  unfold hasReached
  rw [Nat.mod_mod]

theorem fenceMet_iff {m : Nat} {bit : Nat → Bool} (hm : ∀ q, q < 5 → bitAt m q = bit q) :
    fenceMet s t m = true ↔ ∀ q, q < 5 → bit q = true → settled s t q := by
  simp only [fenceMet, List.all_eq_true, List.mem_range]
  refine forall₂_congr fun q hq => ?_
  rw [hm q hq]
  cases bit q with
  | false => simp
  | true =>
    simp only [Bool.not_true, Bool.false_or, Bool.or_eq_true, Bool.and_eq_true, Bool.not_eq_true', beq_iff_eq, List.isEmpty_iff, true_imp_iff,
      qState, engineOfQueue, settled]
    tauto

theorem exec_wait {t : Tile} {rs1 rs2 : BitVec 5} {c : CtrRef} (hc : coreAt s t (encR 0x23 0 rs1 rs2 0) = true)
    (hres : resolveReg s t (getG s t rs1) = .ctr c) : exec (.wait t 0 rs1 rs2 0) s
    = .next (if waitMet s c ((getG s t rs2).setWidth 32) then advance s t
        else setTile s t { tile s t with stall := some (.wait ((getG s t rs1).setWidth 32) ((getG s t rs2).setWidth 32)) }) := by
  refine congrArg Host.Outcome.next ((coreExec_legal hc rfl).trans ?_)
  simp only [hres]

theorem exec_fence {t : Tile} {rd rs1 : BitVec 5} {imm : BitVec 16} (hc : coreAt s t (encI 0x27 rd rs1 imm) = true) : exec (.fence t rd rs1 imm) s
    = .next (if fenceMet s t (imm.toNat % 32) then advance s t else setTile s t { tile s t with stall := some (.fence (imm.setWidth 5)) }) :=
  congrArg Host.Outcome.next (coreExec_legal hc rfl)

/-- A core whose stall ends moves on. -/
theorem goesOn_advance (h : FlowsOn s t) : GoesOn s (advance (setTile s t { tile s t with stall := none }) t) t := by
  obtain ⟨hmoved, hpc⟩ := advance_kept_moved (s' := setTile s t { tile s t with stall := none }) h rfl rfl
  refine ⟨hmoved.frame_tiles rfl, hmoved.2, hpc, fun t' hne => ?_, ?_⟩
  · rw [hmoved.tile, tile_setTile_ne _ _ hne.symm]
  · rw [hmoved.tile, tile_setTile_same]

/-- Settles O11: the tests of the model are those of the claims, and a core moves on or stalls by them. -/
theorem waitFenceResults : Obligations.wait_fence_results := by
  unfold Obligations.wait_fence_results
  intro t s
  refine ⟨fun rs1 rs2 c hc hlt hres hval => ?_, fun rd rs1 imm hc => ?_, fun name target c hstall hres hval hmet hrun hstate hf => ?_,
    fun mask hstall hmet hrun hstate hf => ?_⟩
  · have hx := exec_wait hc ((resolveReg_eq hlt).trans hres)
    have hmet := waitMet_iff (s := s) ((getG s t rs2).setWidth 32) hval
    rw [BitVec.toNat_setWidth, hasReached_mod] at hmet
    refine ⟨fun hr hf => ⟨_, ?_, advance_moved hf⟩, fun hr => ?_⟩
    · rw [hx, if_pos (hmet.2 hr)]
    · rw [hx, if_neg (mt hmet.1 hr)]
  · have hx := exec_fence hc
    have hmet := fenceMet_iff (s := s) (t := t) (m := imm.toNat % 32) fun q hq => bitAt_mod_32 imm.toNat hq
    refine ⟨fun hr hf => ⟨_, ?_, advance_moved hf⟩, fun hr => ?_⟩
    · rw [hx, if_pos (hmet.2 hr)]
    · rw [hx, if_neg (mt hmet.1 hr)]
  · refine ⟨_, congrArg Host.Outcome.next ?_, goesOn_advance hf⟩
    simp only [hstall, hres, hrun, hstate, (waitMet_iff target hval).2 hmet]
    rfl
  · refine ⟨_, congrArg Host.Outcome.next ?_, goesOn_advance hf⟩
    simp only [hstall, hrun, hstate, (fenceMet_iff fun q _ => bitAt_toNat mask q).2 hmet]
    rfl

end Sys2Proof.Machine
end

section
/-! Starting, stopping and resetting a tile by its registers settled (R185, R189, R192). -/

open Sys2Proof Sys2Proof.Machine Sys2Proof.Claims

namespace Sys2Proof.Machine

variable {s : State} {t : Nat}

/-- TILE_CTRL with START alone asks for a start at START_PC, with STOP alone it writes START_PC and asks for a stop. -/
theorem exec_tileStart {port : HPort} {t : Tile} {val : Half} (h : tileAccess s port t = true) (h0 : val.getLsbD 0 = true)
    (h1 : val.getLsbD 1 = false) : exec (.tileStart port t val) s = .next (requestStart s t (val.toNat / 2 ^ 16 % 2 ^ 14)) :=
  congrArg Host.Outcome.next (by
    rw [h, bitAt_toNat, h0, Bool.true_and, if_pos rfl, writeTileCtrl, bitAt_toNat, bitAt_toNat, h0, h1]
    rfl)

theorem exec_tileStop {port : HPort} {t : Tile} {val : Half} (h : tileAccess s port t = true) (h0 : val.getLsbD 0 = false)
    (h1 : val.getLsbD 1 = true) :
    exec (.tileStop port t val) s = .next (requestStop (wr s 4 R.TILE_CTRL_START_PC (val.toNat / 2 ^ 16 % 2 ^ 14) t) t) :=
  congrArg Host.Outcome.next (by
    rw [h, bitAt_toNat, h1, Bool.true_and, if_pos rfl, writeTileCtrl, bitAt_toNat, bitAt_toNat, h0, h1]
    rfl)

theorem exec_qreset {port : HPort} {t : Tile} (mask : BitVec 5) (h : tileAccess s port t = true) :
    exec (.qreset port t mask) s = .next (resetQueues s t mask.toNat) :=
  congrArg Host.Outcome.next (if_pos h)

/-! ### The states of a tile (R189) -/

theorem requestStart_discarded (pc : Nat) (h : tileState s t = 1 ∨ isReady s (partOfTile s t) = false) : requestStart s t pc = s := by
  refine if_pos ?_
  rcases h with h | h
  · exact .inl (by omega)
  · exact .inr (by rw [h]; rfl)

theorem requestStart_held (pc : Nat) (h : tileState s t = 0) (hr : isReady s (partOfTile s t) = true)
    (hl : rd s 4 R.TILE_STATUS_LOADING t = 1) : requestStart s t pc = setTile s t { tile s t with heldStart := some pc } := by
  rw [requestStart, if_neg (by simp [h, hr]), if_pos (by simp [rdb, hl])]

theorem requestStart_starts (pc : Nat) (h : tileState s t = 0) (hr : isReady s (partOfTile s t) = true)
    (hl : rd s 4 R.TILE_STATUS_LOADING t = 0) : requestStart s t pc = startTile s t pc := by
  rw [requestStart, if_neg (by simp [h, hr]), if_neg (by simp [rdb, hl])]

/-- The fields a START writes. -/
abbrev startKeys (t : Nat) : List Nat :=
  [fieldKey R.TILE_CTRL_START_PC 4 t 0, fieldKey R.TILE_STATUS_FAULT_KIND 4 t 0, fieldKey R.TILE_STATUS_STATE 4 t 0,
    fieldKey R.TILE_STATUS_PC 4 t 0]

/-- A tile that R189's START row has started at pc. -/
structure TileStarted (s u : State) (t pc : Nat) : Prop where
  frame  : u = { s with regs := u.regs, tiles := u.tiles }
  others : TilesKept s u t
  tile   : tile u t = { Machine.tile s t with cycle := 0, stall := none }
  regs   : RegsKept s u (startKeys t)
  start  : rd u 4 R.TILE_CTRL_START_PC t = pc
  pcNow  : pcOf u t = pc
  kind   : rd u 4 R.TILE_STATUS_FAULT_KIND t = 0
  state  : rd u 4 R.TILE_STATUS_STATE t = 1

/-- The four fields of a START are distinct. -/
theorem startKeys_ne (t : Nat) :
    (fieldKey R.TILE_STATUS_PC 4 t 0 ≠ fieldKey R.TILE_STATUS_STATE 4 t 0
      ∧ fieldKey R.TILE_STATUS_PC 4 t 0 ≠ fieldKey R.TILE_STATUS_FAULT_KIND 4 t 0
      ∧ fieldKey R.TILE_STATUS_PC 4 t 0 ≠ fieldKey R.TILE_CTRL_START_PC 4 t 0)
    ∧ (fieldKey R.TILE_STATUS_STATE 4 t 0 ≠ fieldKey R.TILE_STATUS_FAULT_KIND 4 t 0
      ∧ fieldKey R.TILE_STATUS_STATE 4 t 0 ≠ fieldKey R.TILE_CTRL_START_PC 4 t 0)
    ∧ fieldKey R.TILE_STATUS_FAULT_KIND 4 t 0 ≠ fieldKey R.TILE_CTRL_START_PC 4 t 0 := by
  simp only [fieldKey, R.TILE_CTRL_START_PC, R.TILE_STATUS_FAULT_KIND, R.TILE_STATUS_STATE, R.TILE_STATUS_PC]
  omega

/-- The writes of a START, in the order of the model. -/
theorem startTile_eq {pc : Nat} (hop : opcodeDefined (fetchWord s t pc / 2 ^ 26) = true) :
    startTile s t pc = wr (wr (setTile (wr (wr s 4 R.TILE_CTRL_START_PC pc t) 4 R.TILE_STATUS_FAULT_KIND 0 t) t
      { tile s t with cycle := 0, stall := none }) 4 R.TILE_STATUS_STATE 1 t) 4 R.TILE_STATUS_PC pc t :=
  enterPc_defined hop

theorem startTile_started {pc : Nat} (hpc : pc < 2 ^ 14) (hop : opcodeDefined (fetchWord s t pc / 2 ^ 26) = true) :
    TileStarted s (startTile s t pc) t pc := by
  obtain ⟨⟨hpcstate, hpckind, hpcstart⟩, ⟨hstatekind, hstatestart⟩, hkindstart⟩ := startKeys_ne t
  have hmod : pc % 2 ^ 14 = pc := Nat.mod_eq_of_lt hpc
  rw [startTile_eq hop]
  generalize hv : wr (wr s 4 R.TILE_CTRL_START_PC pc t) 4 R.TILE_STATUS_FAULT_KIND 0 t = v
  have hkind : rd v 4 R.TILE_STATUS_FAULT_KIND t = 0 := hv ▸ rd_wr_same ..
  have hstart : rd v 4 R.TILE_CTRL_START_PC t = pc := by rw [← hv, rd_wr_ne _ _ hkindstart, rd_wr_same]; exact hmod
  have hregs : OnlyRegs s v (startKeys t) :=
    hv ▸ (onlyRegs_wr_of_mem s 4 R.TILE_CTRL_START_PC pc t 0 (by simp)).trans (onlyRegs_wr_of_mem _ 4 R.TILE_STATUS_FAULT_KIND 0 t 0 (by simp))
  have htile (t' : Nat) : tile v t' = tile s t' := hregs.tile t'
  generalize hw : setTile v t { tile s t with cycle := 0, stall := none } = w
  have hwregs : w.regs = v.regs := hw ▸ rfl
  refine ⟨?_, fun t' hne => ?_, ?_, ?_, ?_, ?_, ?_, ?_⟩
  · rw [← hw, hregs.1]
    rfl
  · rw [tile_wr, tile_wr, ← hw, tile_setTile_ne _ _ hne.symm, htile]
  · rw [tile_wr, tile_wr, ← hw, tile_setTile_same]
  · have hkept : RegsKept v w (startKeys t) := fun d k _ => by rw [hwregs]
    exact (hregs.2.trans hkept).trans ((onlyRegs_wr_of_mem w _ _ _ _ _ (by simp)).trans (onlyRegs_wr_of_mem _ _ _ _ _ _ (by simp))).2
  · rw [rd_wr_ne _ _ hpcstart, rd_wr_ne _ _ hstatestart, rd_of_regs hwregs, hstart]
  · rw [pcOf, rd_wr_same]
    exact hmod
  · rw [rd_wr_ne _ _ hpckind, rd_wr_ne _ _ hstatekind, rd_of_regs hwregs, hkind]
  · rw [rd_wr_ne _ _ hpcstate, rd_wr_same]
    rfl

/-- The fields a STOP writes. -/
abbrev stopKeys (t : Nat) : List Nat :=
  [fieldKey R.TILE_CTRL_START_PC 4 t 0, fieldKey R.TILE_STATUS_HALT_CODE 4 t 0, fieldKey R.TILE_STATUS_STATE 4 t 0]

/-- A STOP of a running tile, behind the write of START_PC (R189). -/
theorem requestStop_running {u : State} (h : tileState u t = 1) : requestStop u t
    = wr (wr (setTile u t { tile u t with stall := none }) 4 R.TILE_STATUS_HALT_CODE 0xFE t) 4 R.TILE_STATUS_STATE 0 t := if_pos h

/-- A tile that a STOP has halted, behind the write of START_PC. -/
theorem stop_halts (pc : Nat) (h : tileState s t = 1) : requestStop (wr s 4 R.TILE_CTRL_START_PC pc t) t
    = wr (wr (setTile (wr s 4 R.TILE_CTRL_START_PC pc t) t { tile s t with stall := none }) 4 R.TILE_STATUS_HALT_CODE 0xFE t)
      4 R.TILE_STATUS_STATE 0 t := by
  obtain ⟨-, ⟨-, hstatestart⟩, -⟩ := startKeys_ne t
  refine requestStop_running ?_
  rw [tileState, rd_wr_ne _ _ hstatestart.symm]
  exact h

/-- Settles O13: a write of TILE_CTRL is a request, which the state of the tile discards, holds or carries out. -/
theorem tileControlResults : Obligations.tile_control_results := by
  unfold Obligations.tile_control_results
  intro port t s ha
  refine ⟨fun val h0 h1 => ?_, fun val h0 h1 hstate => ?_, fun mask => ?_⟩
  · have hx := exec_tileStart ha h0 h1
    have hpc : val.toNat / 2 ^ 16 % 2 ^ 14 < 2 ^ 14 := Nat.mod_lt _ (by decide)
    generalize val.toNat / 2 ^ 16 % 2 ^ 14 = pc at hx hpc
    refine ⟨fun hstate hready hload hop => ?_, fun hstate hready hload => ?_, fun hno => ?_⟩
    · rw [requestStart_starts pc hstate hready hload] at hx
      obtain ⟨hframe, hothers, htile, hregs, hstart, hpcNow, hkind, hrunning⟩ := startTile_started hpc hop
      exact ⟨_, hx, hframe, hothers, htile, hregs, hstart, hpcNow, hkind, hrunning⟩
    · rw [hx, requestStart_held pc hstate hready hload]
    · rw [hx, requestStart_discarded pc hno]
  · have hx := exec_tileStop ha h0 h1
    rw [stop_halts _ hstate] at hx
    generalize hv : wr s 4 R.TILE_CTRL_START_PC _ t = v at hx
    have hregs : OnlyRegs s v (stopKeys t) :=
      hv ▸ onlyRegs_wr_of_mem s _ _ _ _ _ (by simp)
    generalize hw : setTile v t { tile s t with stall := none } = w at hx
    have hkept : RegsKept v w (stopKeys t) :=
      hw ▸ fun _ _ _ => rfl
    refine ⟨_, hx, ?_, fun t' hne => ?_, ?_, ?_, ?_, rd_wr_same ..⟩
    · rw [← hw, hregs.1]
      rfl
    · rw [tile_wr, tile_wr, ← hw, tile_setTile_ne _ _ hne.symm, hregs.tile]
    · rw [tile_wr, tile_wr, ← hw, tile_setTile_same]
    · exact (hregs.2.trans hkept).trans ((onlyRegs_wr_of_mem w _ _ _ _ _ (by simp)).trans (onlyRegs_wr_of_mem _ _ _ _ _ _ (by simp))).2
    · rw [rd_wr_ne _ _ (haltKeys_ne t).2.1, rd_wr_same]
      rfl
  · have hreset := resetBelow_resetQueues s t (m := mask.toNat) (mask := mask.toNat) fun q _ => bitAt_eq_testBit ..
    exact ⟨_, exec_qreset mask ha, hreset.queuesReset, hreset.resetFrame, hreset.frame, hreset.regs⟩

end Sys2Proof.Machine
end

section
/-!
The completion of a command settled: the claim fails in a state no run reaches, one whose running command blames a host port that the package
does not have. The field HP_STATUS.DMA_ERRS of that port lies at the bit address of a queue's DONE.
-/

open Sys2Proof Sys2Proof.Machine Sys2Proof.Claims

namespace Sys2Proof.Machine

theorem exec_commandComplete {s : State} {t : Tile} {q : Fin 5} {r : RunCmd} {rest : List RunCmd} (hrun : (queue s t q).running = r :: rest)
    (hfin : r.finished = true) (hacks : r.acks = 0) (hclk : clocked s (partOfTile s t) = true) :
    exec (.commandComplete t q) s = .next (completeCmd s t q r rest) :=
  congrArg Host.Outcome.next (by
    simp only [hrun, hfin, hacks, hclk]
    rfl)

/-- A port number beyond the four of the package whose DMA_ERRS would stand where DONE of queue 0 of tile 0 stands. -/
def farPort : Nat := 0x70001

/-- A finished command that a failed host access through that port has refused. -/
def farPortRun : RunCmd := { cmd := 0, status := St.DESC_NOT_READY, fault := some ⟨K.HOST_DMA_ERROR.code, 1, 0⟩, errPort := some farPort }

/-- The package after reset, but that it is the oldest command of queue 0 of tile 0. -/
def farPortState : State := setQueue State.reset 0 0 { running := [farPortRun] }

/-- DONE counts the command, and then the failed access as well. -/
theorem done_farPortState : rd (completeCmd farPortState 0 0 farPortRun []) 4 R.ENGQ_STATUS_DONE 0 0 = 2 := by decide +kernel

theorem done_farPortState_before : rd farPortState 4 R.ENGQ_STATUS_DONE 0 0 = 0 := by decide +kernel

/-- Refutes O14: with the port of a failed host access not among the package's four, its count in DMA_ERRS falls on DONE, which then counts
the completion twice. No run reaches such a state: a command blames a port that a window names. -/
theorem not_completionResults : ¬ Obligations.completion_results := by
  unfold Obligations.completion_results
  intro h
  have hclk : clocked farPortState (partOfTile farPortState 0) = true := by decide +kernel
  obtain ⟨hcounts, -⟩ := h 0 0 farPortState farPortRun [] rfl rfl hclk rfl
  obtain ⟨u, hx, -, -, hdone, -⟩ := hcounts fun f hf => by
    obtain rfl : _ = f := Option.some.inj hf
    decide
  rw [exec_commandComplete rfl rfl rfl hclk] at hx
  obtain rfl := Host.Outcome.next.inj hx
  have htwo : 2 = (0 + 1) % 2 ^ 32 := done_farPortState.symm.trans (hdone.trans (congrArg (fun x => (x + 1) % 2 ^ 32) done_farPortState_before))
  exact absurd htwo (by decide)

end Sys2Proof.Machine
end

section
/-!
SUPPORT. Copies of the DMA engine (R179): what its reads and writes keep, and on-chip bytes read and written through a device address.
-/

open Sys2Proof Sys2Proof.Machine Sys2Proof.Claims

namespace Sys2Proof.Machine

/-! ### Reads and writes leave the partitions' states alone -/

/-- Neither SAFE nor the state of a partition has changed. -/
structure PartsKept (s u : State) : Prop where
  safe  : u.safe = s.safe
  state : ∀ p, p < 4 → rd u p R.PART_CFG_PART_STATE = rd s p R.PART_CFG_PART_STATE

theorem pkgKey_ge {f : Reg} (hf : f.pkg = true) (p i j : Nat) : 4 * 2 ^ 40 ≤ fieldKey f p i j := by
  simp only [fieldKey, hf, if_true]
  omega

namespace PartsKept

theorem refl (s : State) : PartsKept s s := ⟨rfl, fun _ _ => rfl⟩

theorem trans {s u v : State} (h : PartsKept s u) (h' : PartsKept u v) : PartsKept s v :=
  ⟨h'.safe.trans h.safe, fun p hp => (h'.state p hp).trans (h.state p hp)⟩

theorem of_sends {s u : State} (h : Sends s u) : PartsKept s u := ⟨h.kept.2.1, fun _ hp => h.rd hp rfl (by decide)⟩

/-- A change of registers of the package. -/
theorem of_regsKept {s u : State} {ks : List Nat} (hs : u.safe = s.safe) (h : RegsKept s u ks) (hks : ∀ k ∈ ks, 4 * 2 ^ 40 ≤ k) :
    PartsKept s u :=
  ⟨hs, fun _ hp => h.rd _ _ _ _ fun hk => absurd (partKey_lt (f := R.PART_CFG_PART_STATE) hp rfl (by decide)) (Nat.not_lt.2 (hks _ hk))⟩

theorem isHold {s u : State} (h : PartsKept s u) {p : Nat} (hp : p < 4) : isHold u p = Machine.isHold s p := isHold_of_rd h.safe (h.state p hp)

end PartsKept

theorem partsKept_blockPut {s s' : State} {k off : Nat} {bs : List Byte} (h : blockPut s k off bs = some s') : PartsKept s s' := by
  rw [blockPut_frame h]
  exact ⟨rfl, fun _ _ => rfl⟩

theorem partsKept_writeBlock {s s' : State} {raw : Bool} {k o : Nat} {bs : List Byte}
    (h : (if raw then .ok (hbmWrite s (hbmKey k o) bs) else match blockPut s k o bs with | some s => .ok s | none => .error checksumBad :
      Except Refuse State) = .ok s') : PartsKept s s' := by
  split at h
  · injection h with h
    exact h ▸ ⟨rfl, fun _ _ => rfl⟩
  · split at h
    · next hput =>
      injection h with h
      exact h ▸ partsKept_blockPut hput
    · exact nomatch h

theorem partsKept_writePiece {s s' : State} {p unit msg n : Nat} {x : Space} {bs : List Byte} (h : writePiece s p x unit msg n bs = .ok s') :
    PartsKept s s' := by
  unfold writePiece at h
  split at h
  · exact partsKept_writeBlock h
  · exact partsKept_writeBlock h
  all_goals
    injection h with h
    subst h
  · exact ⟨rfl, fun _ _ => rfl⟩
  · exact ⟨rfl, fun _ _ => rfl⟩
  · split
    · exact ⟨rfl, fun _ _ => rfl⟩
    · exact .refl s
  · exact .of_sends (sends_post ..)

theorem partsKept_writePieces (p : Nat) (x : Space) (unit msg : Nat) (bs : List Byte) (l : List (Nat × Nat)) (s : State) :
    PartsKept s (writePieces s p x unit msg bs l).1 := by
  induction l generalizing s with
  | nil => exact .refl s
  | cons y l ih =>
    unfold writePieces
    split
    · exact .refl s
    · next h => exact (partsKept_writePiece h).trans (ih _)

/-- A copy has no effect on a partition's state, whatever its spaces. -/
theorem partsKept_devCopy {s v : State} {p : Nat} {src dst : Space} {n : Nat} {ext : List Byte} {unit msg : Nat} {f : Option Refuse}
    (h : devCopy s p src dst n ext unit msg = (v, f)) : PartsKept s v := by
  have hread : PartsKept s (tickFree (noteRead s p src n unit msg)) := (PartsKept.of_sends (sends_noteRead ..)).trans ⟨rfl, fun _ _ => rfl⟩
  have hwrite (bs : List Byte) := hread.trans (partsKept_writePieces p dst unit msg bs (pieces dst.off bs.length) _)
  obtain rfl : (devCopy s p src dst n ext unit msg).1 = v := congrArg Prod.fst h
  unfold devCopy
  dsimp only
  split <;> exact hwrite _

/-! ### Pieces of a range -/

/-- The pieces cover n bytes from distance d in order. -/
def Covers : Nat → Nat → List (Nat × Nat) → Prop
  | _, n, [] => n = 0
  | d, n, x :: l => x.1 = d ∧ x.2 ≤ n ∧ Covers (d + x.2) (n - x.2) l

theorem covers_blocks {k : Nat} (d n : Nat) (h : (n + 4095) / 4096 = k) :
    Covers d n ((List.range k).map fun i => (d + 4096 * i, min 4096 (n - 4096 * i))) := by
  induction k generalizing d n with
  | zero =>
    show n = 0
    omega
  | succ k ih =>
    rw [List.range_succ_eq_map, List.map_cons, List.map_map]
    refine ⟨rfl, Nat.min_le_right .., ?_⟩
    dsimp only
    rcases Nat.lt_or_ge n 4096 with hn | hn
    · obtain rfl : k = 0 := by omega
      show n - min 4096 n = 0
      omega
    · rw [Nat.mul_zero, Nat.sub_zero, Nat.min_eq_left hn]
      have hshift : (fun i => (d + 4096 + 4096 * i, min 4096 (n - 4096 - 4096 * i)))
          = (fun i => (d + 4096 * i, min 4096 (n - 4096 * i))) ∘ Nat.succ := by
        funext i
        exact Prod.ext (show d + 4096 + 4096 * i = d + 4096 * (i + 1) by omega)
          (congrArg (min 4096) (show n - 4096 - 4096 * i = n - 4096 * (i + 1) by omega))
      exact hshift ▸ ih (d + 4096) (n - 4096) (by omega)

theorem covers_pieces (o n : Nat) : Covers 0 n (pieces o n) := by
  unfold pieces
  dsimp only
  split
  · next h => exact h
  · refine ⟨rfl, Nat.min_le_left .., ?_⟩
    rw [Nat.zero_add]
    exact covers_blocks _ _ rfl

/-! ### On-chip spaces -/

/-- The key of the first byte of an on-chip space. -/
def chipKey : Space → Option Nat
  | .clm c o => some (clmKey c o)
  | .sp t o => some (spKey t o)
  | _ => none

theorem chipKey_of_devSpans {x : Space} {k n m : Nat} (h : devSpans x n = [(false, k, m)]) : chipKey x = some k := by
  cases x with
  | clm c o | sp t o =>
    simp only [devSpans, List.cons.injEq, Prod.mk.injEq, true_and] at h
    exact congrArg some h.1.1
  | inter r die o =>
    have hmem : (false, k, m) ∈ devSpans (.inter r die o) n := h ▸ List.mem_singleton_self _
    obtain ⟨y, -, hy⟩ := List.mem_map.1 hmem
    exact absurd (congrArg Prod.fst hy) Bool.true_eq_false.mp
  | hbm r k o | win w o | remote r nd k o => simp [devSpans] at h

/-- An on-chip space is a cluster memory or a scratchpad. -/
theorem chipKey_eq_some {x : Space} {k : Nat} (h : chipKey x = some k) :
    (∃ c o, x = .clm c o ∧ clmKey c o = k) ∨ ∃ t o, x = .sp t o ∧ spKey t o = k := by
  cases x with
  | clm c o => exact .inl ⟨c, o, rfl, Option.some.inj h⟩
  | sp t o => exact .inr ⟨t, o, rfl, Option.some.inj h⟩
  | _ => exact nomatch h

theorem sramRead_append (s : State) (a m n : Nat) : sramRead s a (m + n) = sramRead s a m ++ sramRead s (a + m) n := by
  simp only [sramRead, List.range_add, List.map_append, List.map_map, Function.comp_def, Nat.add_assoc]

theorem sramWrite_append (s : State) (a : Nat) (bs cs : List Byte) : sramWrite s a (bs ++ cs) = sramWrite (sramWrite s a bs) (a + bs.length) cs := by
  induction bs generalizing s a with
  | nil => rfl
  | cons b bs ih =>
    have hcons := ih (sramSet s a b) (a + 1)
    rw [Nat.add_right_comm, Nat.add_assoc] at hcons
    exact hcons

section
variable {s : State} {x : Space} {k : Nat} (hx : chipKey x = some k)
include hx

theorem readPiece_chip (d n : Nat) (ext : List Byte) : readPiece s x d n ext = .ok (sramRead s (k + d) n) := by
  obtain ⟨c, o, rfl, rfl⟩ | ⟨t, o, rfl, rfl⟩ := chipKey_eq_some hx
  all_goals exact congrArg (fun a => Except.ok (sramRead s a n)) (Nat.add_assoc ..).symm

theorem writePiece_chip (s : State) (p unit msg d : Nat) (bs : List Byte) : writePiece s p x unit msg d bs = .ok (sramWrite s (k + d) bs) := by
  obtain ⟨c, o, rfl, rfl⟩ | ⟨t, o, rfl, rfl⟩ := chipKey_eq_some hx
  all_goals exact congrArg (fun a => Except.ok (sramWrite s a bs)) (Nat.add_assoc ..).symm

theorem readPieces_chip {d n : Nat} {l : List (Nat × Nat)} (hl : Covers d n l) (ext : List Byte) :
    readPieces s x ext l = (sramRead s (k + d) n, none) := by
  induction l generalizing d n with
  | nil =>
    obtain rfl : n = 0 := hl
    rfl
  | cons y l ih =>
    obtain ⟨rfl, hle, hrest⟩ := hl
    simp only [readPieces, readPiece_chip hx, ih hrest]
    rw [← Nat.add_assoc, ← sramRead_append, Nat.add_sub_cancel' hle]

theorem writePieces_chip (s : State) (p unit msg : Nat) {bs : List Byte} {d : Nat} {l : List (Nat × Nat)} (hl : Covers d (bs.length - d) l) :
    writePieces s p x unit msg bs l = (sramWrite s (k + d) (bs.drop d), none) := by
  induction l generalizing s d with
  | nil =>
    rw [List.drop_eq_nil_of_le (Nat.sub_eq_zero_iff_le.1 hl)]
    rfl
  | cons y l ih =>
    obtain ⟨rfl, hle, hrest⟩ := hl
    rw [Nat.sub_sub] at hrest
    simp only [writePieces, writePiece_chip hx, ih _ hrest]
    have hlen : ((bs.drop y.1).take y.2).length = y.2 := by rw [List.length_take, List.length_drop, Nat.min_eq_left hle]
    have hwrite := sramWrite_append s (k + y.1) ((bs.drop y.1).take y.2) (bs.drop (y.1 + y.2))
    rw [hlen, ← List.drop_drop, List.take_append_drop] at hwrite
    rw [← List.drop_drop, hwrite, Nat.add_assoc]

theorem devRead_chip (n : Nat) (ext : List Byte) : devRead s x n ext = (sramRead s k n, none) := readPieces_chip hx (covers_pieces ..) ext

theorem devWrite_chip (s : State) (p unit msg : Nat) (bs : List Byte) : devWrite s p x bs unit msg = (sramWrite s k bs, none) :=
  writePieces_chip hx s p unit msg (covers_pieces ..)

theorem noteRead_chip (p n unit msg : Nat) : noteRead s p x n unit msg = s := by
  obtain ⟨c, o, rfl, -⟩ | ⟨t, o, rfl, -⟩ := chipKey_eq_some hx <;> rfl

theorem devTgBusy_chip (n : Nat) : devTgBusy s x n = false := by
  obtain ⟨c, o, rfl, -⟩ | ⟨t, o, rfl, -⟩ := chipKey_eq_some hx <;> rfl

theorem devSpans_chip (n : Nat) : devSpans x n = [(false, k, n)] := by
  obtain ⟨c, o, rfl, rfl⟩ | ⟨t, o, rfl, rfl⟩ := chipKey_eq_some hx <;> rfl

/-- Spans that do not meet are copied as they are. -/
theorem overlapFree_chip {y : Space} {j : Nat} (hy : chipKey y = some j) {bs : List Byte} (hout : k + bs.length ≤ j ∨ j + bs.length ≤ k) :
    overlapFree s x y bs = bs := by
  have hmeet : devMeet (devSpans y bs.length) (devSpans x bs.length) = [] := by
    rw [devSpans_chip hx, devSpans_chip hy]
    have : spanMeet (j, bs.length) (k, bs.length) = none := if_neg (by dsimp only; omega)
    simp [devMeet, this]
  simp only [overlapFree, hmeet]

theorem devCopy_chip {y : Space} {j n : Nat} (hy : chipKey y = some j) (hout : k + n ≤ j ∨ j + n ≤ k) (p unit msg : Nat) (ext : List Byte) :
    devCopy s p x y n ext unit msg = (sramWrite (tickFree s) j (sramRead s k n), none) := by
  have hfree : overlapFree s x y (sramRead s k n) = sramRead s k n := overlapFree_chip hx hy (by rwa [length_sramRead])
  simp only [devCopy, devRead_chip hx, noteRead_chip hx, hfree, devWrite_chip hy]

end

end Sys2Proof.Machine
end

section
/-! The DMA commands COPY, DCOPY, TLOAD and TSTART settled (R179, R188, R189, R191). -/

open Sys2Proof Sys2Proof.Machine Sys2Proof.Claims

namespace Sys2Proof.Machine

/-! ### Shared ends of the bodies -/

theorem endCmd_facts (e : QEntry) (f : Option Refuse) :
    (endCmd e f).cmd = e.cmd ∧ (endCmd e f).finished = true ∧ (endCmd e f).status = (match f with | none => St.OK | some x => x.status) := by
  cases f <;> exact ⟨rfl, rfl, rfl⟩

/-- The queues of the tile are as in s, and its front entry starts. -/
theorem startCmd_started_of_queue {s s' : State} {t q : Nat} {e : QEntry} {r : RunCmd} (hhead : headEntry s t q = some e)
    (hq : ∀ q, queue s' t q = queue s t q) (hr : r.cmd = e.cmd) : Started s (startCmd s' t q r) t q e r :=
  ⟨(headEntry_eq_some hhead).2, by rw [← hq q]; exact queue_setQueue_same .., fun q' h => (queue_setQueue_ne _ _ h _).trans (hq q'), hr⟩

/-- Bytes that a body has written stand where it wrote them when the command has started. -/
theorem startCmd_sramWrite {s s' : State} (hwf : Memory.wf s.sram = true) (hs : s'.sram = s.sram) (a : Nat) (bs : List Byte) (t q : Nat)
    (r : RunCmd) :
    SramKept s (startCmd (sramWrite s' a bs) t q r) a bs.length ∧ sramRead (startCmd (sramWrite s' a bs) t q r) a bs.length = bs := by
  refine ⟨fun b hb => (sramGet_sramWrite_out s' bs a b hb).trans ?_, sramRead_sramWrite_same (hs ▸ hwf) a bs⟩
  simp only [sramGet, hs]

theorem isHold_of_mayStart {s u : State} {t : Tile} {q opc : Nat} {e : QEntry} (h : MayStart s t q opc e) (hk : PartsKept s u) :
    isHold u (partOfTile s t) = false :=
  (hk.isHold (partOfTile_lt s t)).trans (isHold_of_running (headEntry_eq_some h.1).1)

/-! ### COPY -/

/-- A DMA command that moves n on-chip bytes from key a to key k, and may use a free value and a message number. -/
theorem moves_chip {s s' : State} {t : Tile} {opc : Nat} {e : QEntry} {r : RunCmd} {body : State → QEntry → Option (State × RunCmd)}
    {a k n : Nat} (hwf : Memory.wf s.sram = true) (hm : MayStart s t 3 opc e) (hdef : dmaDefined opc = true)
    (hs : s' = { s with freeCtr := s'.freeCtr, msgSeq := s'.msgSeq }) (hbody : body s e = some (sramWrite s' k (sramRead s a n), r))
    (hcmd : r.cmd = e.cmd) :
    ∃ u, engineRow s t 3 opc dmaDefined body = u ∧ Started s u t 3 e r ∧ QueuesOnly s u t
      ∧ u = { s with tiles := u.tiles, sram := u.sram, freeCtr := s'.freeCtr, msgSeq := s'.msgSeq }
      ∧ SramKept s u k n ∧ sramRead u k n = sramRead s a n := by
  have hsram : s'.sram = s.sram := by rw [hs]
  have htiles : s'.tiles = s.tiles := by rw [hs]
  have hparts : PartsKept s (sramWrite s' k (sramRead s a n)) := by
    rw [hs]
    exact ⟨rfl, fun _ _ => rfl⟩
  obtain ⟨hkept, hread⟩ := startCmd_sramWrite hwf hsram k (sramRead s a n) t 3 r
  rw [length_sramRead] at hkept hread
  refine ⟨_, engineRow_starts hm hdef hbody (isHold_of_mayStart hm hparts), startCmd_started hm.1 htiles hcmd, queuesOnly_setQueue htiles, ?_,
    hkept, hread⟩
  generalize sramRead s a n = bs
  rw [hs]
  rfl

section
variable {s v : State} {t : Tile} {e : QEntry} {f : Option Refuse} {ext : List Byte}

/-- A COPY of good addresses does its reads and writes at once. -/
theorem startCopy_good (hn : cbs e.cmd 24 4 ≠ 0) (hrsv : cbs e.cmd 28 4 = 0)
    (hsrc : checkDev s (partOfTile s t) (cbs e.cmd 8 8) (cbs e.cmd 24 4) false = none)
    (hdst : checkDev s (partOfTile s t) (cbs e.cmd 16 8) (cbs e.cmd 24 4) true = none)
    (hsrcTg : devTgBusy s (devSpace s (partOfTile s t) (cbs e.cmd 8 8)) (cbs e.cmd 24 4) = false)
    (hdstTg : devTgBusy s (devSpace s (partOfTile s t) (cbs e.cmd 16 8)) (cbs e.cmd 24 4) = false)
    (hcopy : devCopy { s with msgSeq := s.msgSeq + 1 } (partOfTile s t) (devSpace s (partOfTile s t) (cbs e.cmd 8 8))
      (devSpace s (partOfTile s t) (cbs e.cmd 16 8)) (cbs e.cmd 24 4) ext (srcTile t 4) s.msgSeq.toNat = (v, f)) :
    ∃ r, startCopy t ext s e = some (v, r) ∧ r.cmd = e.cmd ∧ r.finished = true ∧ r.status = (endCmd e f).status
      ∧ r.fault = (endCmd e f).fault := by
  obtain ⟨hcmd, hfin, -⟩ := endCmd_facts e f
  have hchecks : pickRefuse [none, none] = none := rfl
  have hbody : ∃ b u m a, startCopy t ext s e = some (v, { endCmd e f with errPort := b, undef := u, ackId := m, acks := a }) := by
    simp only [startCopy, hn, hrsv, hsrc, hdst, hchecks, hsrcTg, hdstTg, hcopy, ne_eq, not_true_eq_false, or_self, if_false, Bool.or_self,
      Bool.false_eq_true]
    exact ⟨_, _, _, _, rfl⟩
  obtain ⟨b, u, m, a, hbody⟩ := hbody
  exact ⟨_, hbody, hcmd, hfin, rfl, rfl⟩

end

theorem exec_copy (t : Tile) (ext : List Byte) (s : State) :
    exec (.copy t ext .none) s = .next (engineRow s t 3 1 dmaDefined (startCopy t ext)) := rfl

/-! ### DCOPY -/

theorem exec_dcopy (t : Tile) (s : State) : exec (.dcopy t .none) s = .next (engineRow s t 3 3 dmaDefined (startDcopy t)) := rfl

theorem startDcopy_good {s : State} {t a dm n : Nat} {e : QEntry} (ha : a = cbs e.cmd 8 8) (hdm : dm = cbs e.cmd 16 2) (hn : n = 8 * cbs e.cmd 18 2)
    (hpos : n ≠ 0) (hsp : a + n ≤ 2 ^ 22) (hal : a % 8 = 0) (hfit : dm + n ≤ 65536) (hdal : dm % 8 = 0) (hflags : cbits e.cmd 20 1 7 = 0)
    (htail : cbs e.cmd 21 11 = 0) : startDcopy t s e
    = if cbit e.cmd 20 0 then some (sramWrite s (dmemKey t dm) (sramRead s (spKey t a) n), { okCmd e with undef := [(false, dmemKey t dm, n)] })
      else some (sramWrite s (spKey t a) (sramRead s (dmemKey t dm) n), { okCmd e with undef := [(false, spKey t a, n)] }) := by
  subst ha hdm hn
  have hoperand : spOperand e.cmd (8 * cbs e.cmd 18 2) 8 = some (cbs e.cmd 8 8) := if_pos ⟨hsp, hal⟩
  simp only [startDcopy, hoperand]
  exact if_neg (by omega)

/-! ### TLOAD -/

/-- The tile lies in the partition and is present (R179, R188). -/
theorem targetRefuse_none {s : State} {p u : Nat} (hpart : partOfTile s u = p) (hpresent : tilePresent s u = true) : targetRefuse s p u = none := by
  simp [targetRefuse, checkIf, firstRefuse, hpart, hpresent]

theorem chipKey_devSpace {s : State} {p a k : Nat} (h : chipKey (devSpace s p a) = some k) (u : State) : devSpace u p a = devSpace s p a := by
  unfold devSpace at *
  cases hx : (parseDev a).getD (.sp 0 0) with
  | remote raw nd j o =>
    rw [hx, localSpace] at h
    split at h <;> exact nomatch h
  | _ => rfl

/-- No other load of the tile stands before this source. -/
abbrev FirstInLine (s : State) (u source : Nat) : Prop := (tile s u).loadWaits = [] ∨ (tile s u).loadWaits.head? = some source

section
variable {s : State} {p u source : Nat} {dmem : Bool} {src off64 len64 : Nat} {ext : List Byte} (hpart : partOfTile s u = p)
  (hpresent : tilePresent s u = true) (hsrc : checkDev s p src (64 * len64) false = none)
include hpart hpresent hsrc

/-- A load joins the line behind one under way. -/
theorem tileLoad_joins (hload : rd s 4 R.TILE_STATUS_LOADING u = 1) (hnew : source ∉ (tile s u).loadWaits) :
    tileLoad s p u source dmem src off64 len64 ext = .wait (setTile s u { tile s u with loadWaits := (tile s u).loadWaits ++ [source] }) := by
  have hchecks : pickRefuse [none, none] = none := rfl
  have hline : (tile s u).loadWaits.contains source = false := by simpa using hnew
  simp only [tileLoad, targetRefuse_none hpart hpresent, hsrc, hchecks, rdb, hload, hline, beq_self_eq_true, Bool.true_or, if_true,
    Bool.false_eq_true, if_false]

theorem tileLoad_waits (hload : rd s 4 R.TILE_STATUS_LOADING u = 1) :
    ∃ s', tileLoad s p u source dmem src off64 len64 ext = .wait s' := by
  have hchecks : pickRefuse [none, none] = none := rfl
  simp only [tileLoad, targetRefuse_none hpart hpresent, hsrc, hchecks, rdb, hload, beq_self_eq_true, Bool.true_or, if_true]
  exact ⟨_, rfl⟩

/-- The first load in the line begins, when the tile does not run. -/
theorem tileLoad_first (hload : rd s 4 R.TILE_STATUS_LOADING u = 0) (hfirst : FirstInLine s u source) {k : Nat}
    (hk : chipKey (devSpace s p src) = some k) : tileLoad s p u source dmem src off64 len64 ext
    = if tileState s u = 1 then .refuse imemBusy
      else .done (sramWrite (wr (dropWaiter s source) 4 R.TILE_STATUS_LOADING 1 u) (tileMemKey u dmem (64 * off64))
        (sramRead s k (64 * len64))) none := by
  have hchecks : pickRefuse [none, none] = none := rfl
  have hidle : rdb s 4 R.TILE_STATUS_LOADING u = false := by simp only [rdb, hload]; rfl
  have hline : (tile s u).loadWaits = [] ∨ ∃ l, (tile s u).loadWaits = source :: l := hfirst.imp_right List.head?_eq_some_iff.1
  rcases hline with hline | ⟨l, hline⟩
  all_goals
    simp only [tileLoad, targetRefuse_none hpart hpresent, hsrc, hchecks, hidle, hline, bne_self_eq_false, Bool.or_self, Bool.false_eq_true, if_false,
      devTgBusy_chip hk, devRead_chip hk, chipKey_devSpace hk, noteRead_chip hk]

end

/-- The load that the front TLOAD asks for. -/
def frontLoad (s : State) (t : Nat) (ext : List Byte) (c : Cmd) : LoadRes :=
  tileLoad s (partOfTile s t) (cb c 8) (srcTile t 4) (cbit c 9 0) (cbs c 16 8) (cbs c 24 2) (cbs c 26 2) ext

section
variable {s s' : State} {t : Nat} {e : QEntry} {ext : List Byte}

theorem tloadArrive_joins (hm : MayStart s t 3 6 e) (hgood : loadBad e.cmd = false) (h : frontLoad s t ext e.cmd = .wait s') :
    tloadArrive s t ext = s' := by
  obtain ⟨hhead, hopc, hheader⟩ := hm
  rw [frontLoad] at h
  simp only [tloadArrive, hhead, hopc, hheader, hgood, h, Option.isNone_none, Bool.not_false, and_self, if_true]

/-- A load that need not wait joins no line. -/
theorem tloadArrive_served (hm : MayStart s t 3 6 e) (h : ∀ s', frontLoad s t ext e.cmd ≠ .wait s') : tloadArrive s t ext = s := by
  simp only [frontLoad] at h
  simp only [tloadArrive, hm.1]
  exact ite_self s

theorem startTload_waits (hgood : loadBad e.cmd = false) (h : frontLoad s t ext e.cmd = .wait s') : startTload t ext s e = none := by
  rw [frontLoad] at h
  simp only [startTload, hgood, h, Bool.false_eq_true, if_false]

theorem startTload_refuses {x : Refuse} (hgood : loadBad e.cmd = false) (h : frontLoad s t ext e.cmd = .refuse x) :
    ∃ r, startTload t ext s e = some (dropWaiter s (srcTile t 4), r) ∧ r.cmd = e.cmd ∧ r.status = x.status := by
  rw [frontLoad] at h
  refine ⟨{ refuseCmd e x with errPort := blamePort s (partOfTile s t) [cbs e.cmd 16 8] [] }, ?_, rfl, rfl⟩
  simp only [startTload, hgood, h, Bool.false_eq_true, if_false]

theorem startTload_loads (hgood : loadBad e.cmd = false) (h : frontLoad s t ext e.cmd = .done s' none) :
    ∃ r, startTload t ext s e = some (s', r) ∧ r.cmd = e.cmd ∧ DoneOk r ∧ r.loading = some (cb e.cmd 8) := by
  rw [frontLoad] at h
  have hbody : ∃ b u, startTload t ext s e = some (s', { okCmd e with errPort := b, loading := some (cb e.cmd 8), undef := u }) := by
    simp only [startTload, hgood, h, Bool.false_eq_true, if_false]
    exact ⟨_, _, rfl⟩
  obtain ⟨b, u, hbody⟩ := hbody
  exact ⟨_, hbody, rfl, ⟨rfl, rfl, rfl⟩, rfl⟩

end

theorem exec_tload (t : Tile) (ext : List Byte) (s : State) :
    exec (.tload t ext .none) s = .next (engineRow (tloadArrive s t ext) t 3 6 dmaDefined (startTload t ext)) := rfl

/-- The line at a tile has no bearing on what may start. -/
theorem queue_setTile_loadWaits (s : State) (v : Nat) (l : List Nat) (t q : Nat) :
    queue (setTile s v { tile s v with loadWaits := l }) t q = queue s t q := by
  by_cases h : v = t
  · subst h
    rw [queue, tile_setTile_same]
    rfl
  · rw [queue, tile_setTile_ne _ _ h, queue]

theorem mayStart_setTile_loadWaits {s : State} {t q opc : Nat} {e : QEntry} (h : MayStart s t q opc e) (v : Nat) (l : List Nat) :
    MayStart (setTile s v { tile s v with loadWaits := l }) t q opc e := by
  obtain ⟨hhead, hopc, hheader⟩ := h
  refine ⟨?_, hopc, hheader⟩
  unfold headEntry at *
  rw [queue_setTile_loadWaits]
  exact hhead

section
variable {s : State} {t : Nat}

theorem queue_dropWaiter (s : State) (src t q : Nat) : queue (dropWaiter s src) t q = queue s t q := by
  rw [queue, tile_dropWaiter, queue]

/-- A command that starts changes the queues of its tile. -/
theorem tile_startCmd (s : State) (t q : Nat) (r : RunCmd) (t' : Nat) :
    ∃ qs, (t' ≠ t → qs = (tile s t').queues) ∧ tile (startCmd s t q r) t' = { tile s t' with queues := qs } := by
  by_cases ht : t = t'
  · subst ht
    exact ⟨_, fun h => absurd rfl h, tile_setQueue_same ..⟩
  · exact ⟨_, fun _ => rfl, tile_setTile_ne s _ ht⟩

/-- A command that starts when its tile has left the lines of loads. -/
theorem leftLines_startCmd {s' : State} {r : RunCmd} (htiles : s'.tiles = (dropWaiter s (srcTile t 4)).tiles) :
    LeftLines s (startCmd s' t 3 r) t := by
  intro t'
  have htile : tile s' t' = { tile s t' with loadWaits := (tile s t').loadWaits.filter (fun x => x != srcTile t 4) } :=
    (congrArg (mapGet default · t') htiles).trans (tile_dropWaiter s (srcTile t 4) t')
  obtain ⟨qs, hqs, hstart⟩ := tile_startCmd s' t 3 r t'
  rw [htile] at hqs hstart
  exact ⟨qs, hstart, hqs⟩

end

/-! ### TSTART -/

theorem exec_tstart (t : Tile) (s : State) : exec (.tstart t) s = .next (engineRow s t 3 7 dmaDefined (startTstart t)) := rfl

section
variable {s : State} {t : Nat} {v : Tile} {e : QEntry} (h8 : cb e.cmd 8 = v.val) (h9 : cb e.cmd 9 = 0) (hpc : cbs e.cmd 10 2 ≤ 16383)
  (htail : cbs e.cmd 12 20 = 0) (hpart : partOfTile s v = partOfTile s t) (hpresent : tilePresent s v = true)
include h8 h9 hpc htail hpart hpresent

theorem startTstart_busy (hstate : tileState s v = 1) : startTstart t s e = some (s, refuseCmd e tileBusy) := by
  have hform : ¬ (cb e.cmd 9 ≠ 0 ∨ 16383 < cbs e.cmd 10 2 ∨ cbs e.cmd 12 20 ≠ 0) := by omega
  simp only [startTstart, if_neg hform, h8, targetRefuse_none hpart hpresent, hstate, if_true]

theorem startTstart_starts (hstate : tileState s v = 0) (hload : rd s 4 R.TILE_STATUS_LOADING v = 0) :
    startTstart t s e = some (startTile s v (cbs e.cmd 10 2), okCmd e) := by
  have hform : ¬ (cb e.cmd 9 ≠ 0 ∨ 16383 < cbs e.cmd 10 2 ∨ cbs e.cmd 12 20 ≠ 0) := by omega
  have hidle : rdb s 4 R.TILE_STATUS_LOADING v = false := by simp only [rdb, hload]; rfl
  simp only [startTstart, if_neg hform, h8, targetRefuse_none hpart hpresent, hstate, hidle, zero_ne_one, Bool.false_eq_true, if_false]

end

theorem tileState_of_rd {s : State} {v x : Nat} (hpresent : tilePresent s v = true) (h : rd s 4 R.TILE_STATUS_STATE v = x) : tileState s v = x := by
  rw [tileState, if_pos hpresent, h]

theorem TileStarted.partsKept {s u : State} {t pc : Nat} (h : TileStarted s u t pc) : PartsKept s u := by
  refine .of_regsKept (by rw [h.frame]) h.regs fun k hk => ?_
  simp only [startKeys, List.mem_cons, List.not_mem_nil, or_false] at hk
  rcases hk with rfl | rfl | rfl | rfl
  all_goals exact pkgKey_ge rfl ..

theorem TileStarted.queue {s u : State} {t pc : Nat} (h : TileStarted s u t pc) (t' q : Nat) : queue u t' q = Machine.queue s t' q := by
  by_cases ht : t' = t
  · subst ht
    rw [Machine.queue, h.tile, Machine.queue]
  · rw [Machine.queue, h.others t' ht, Machine.queue]

/-! ### The outcomes of a TLOAD -/

section
variable {s : State} {t : Tile} {e : QEntry} {v : Tile} {ka : Nat} (hm : MayStart s t 3 6 e) (hgood : loadBad e.cmd = false)
  (h8 : cb e.cmd 8 = v.val) (hpart : partOfTile s v = partOfTile s t) (hpresent : tilePresent s v = true)
  (hsrc : checkDev s (partOfTile s t) (cbs e.cmd 16 8) (64 * cbs e.cmd 26 2) false = none)
include hm hgood h8 hpart hpresent hsrc

theorem exec_tload_loads (hwf : Memory.wf s.sram = true) (hk : chipKey (devSpace s (partOfTile s t) (cbs e.cmd 16 8)) = some ka)
    (hstate : rd s 4 R.TILE_STATUS_STATE v = 0) (hload : rd s 4 R.TILE_STATUS_LOADING v = 0) (hfirst : FirstInLine s v (srcTile t 4)) :
    ∃ u r, exec (.tload t [] .none) s = .next u ∧ Started s u t 3 e r ∧ DoneOk r ∧ r.loading = some v.val ∧ LeftLines s u t
      ∧ u = { s with regs := u.regs, tiles := u.tiles, sram := u.sram } ∧ RegsKept s u [fieldKey R.TILE_STATUS_LOADING 4 v 0]
      ∧ rd u 4 R.TILE_STATUS_LOADING v = 1
      ∧ SramKept s u (tileMemKey v (cbit e.cmd 9 0) (64 * cbs e.cmd 24 2)) (64 * cbs e.cmd 26 2)
      ∧ sramRead u (tileMemKey v (cbit e.cmd 9 0) (64 * cbs e.cmd 24 2)) (64 * cbs e.cmd 26 2) = sramRead s ka (64 * cbs e.cmd 26 2) := by
  have hfront : frontLoad s t [] e.cmd = .done (sramWrite (wr (dropWaiter s (srcTile t 4)) 4 R.TILE_STATUS_LOADING 1 v)
      (tileMemKey v (cbit e.cmd 9 0) (64 * cbs e.cmd 24 2)) (sramRead s ka (64 * cbs e.cmd 26 2))) none := by
    rw [frontLoad, h8, tileLoad_first hpart hpresent hsrc hload hfirst hk, tileState_of_rd hpresent hstate]
    rfl
  have hrow := exec_tload t [] s
  rw [tloadArrive_served hm fun s' hwait => nomatch hfront.symm.trans hwait] at hrow
  obtain ⟨r, hbody, hcmd, hok, hloading⟩ := startTload_loads hgood hfront
  have hregs : RegsKept s (wr (dropWaiter s (srcTile t 4)) 4 R.TILE_STATUS_LOADING 1 v) [fieldKey R.TILE_STATUS_LOADING 4 v 0] :=
    regsKept_wr (dropWaiter s (srcTile t 4)) _ _ _ _ _
  have hset : rd (wr (dropWaiter s (srcTile t 4)) 4 R.TILE_STATUS_LOADING 1 v) 4 R.TILE_STATUS_LOADING v = 1 := rd_wr_same ..
  have hparts : PartsKept s (wr (dropWaiter s (srcTile t 4)) 4 R.TILE_STATUS_LOADING 1 v) := by
    refine .of_regsKept rfl hregs fun k hk => ?_
    rw [List.mem_singleton.1 hk]
    exact pkgKey_ge rfl ..
  obtain ⟨hkept, hread⟩ := startCmd_sramWrite (s' := wr (dropWaiter s (srcTile t 4)) 4 R.TILE_STATUS_LOADING 1 v) hwf rfl
    (tileMemKey v (cbit e.cmd 9 0) (64 * cbs e.cmd 24 2)) (sramRead s ka (64 * cbs e.cmd 26 2)) t 3 r
  rw [length_sramRead] at hkept hread
  exact ⟨_, r, hrow.trans (congrArg _ (engineRow_starts hm rfl hbody (isHold_of_mayStart hm ⟨hparts.safe, hparts.state⟩))),
    startCmd_started_of_queue hm.1 (fun q => queue_dropWaiter ..) hcmd, hok, hloading.trans (congrArg some h8), leftLines_startCmd rfl, rfl,
    hregs, hset, hkept, hread⟩

theorem exec_tload_joins (hload : rd s 4 R.TILE_STATUS_LOADING v = 1) (hnew : srcTile t 4 ∉ (tile s v).loadWaits) :
    exec (.tload t [] .none) s = .next (setTile s v { tile s v with loadWaits := (tile s v).loadWaits ++ [srcTile t 4] }) := by
  have hfront : frontLoad s t [] e.cmd = .wait (setTile s v { tile s v with loadWaits := (tile s v).loadWaits ++ [srcTile t 4] }) := by
    rw [frontLoad, h8]
    exact tileLoad_joins hpart hpresent hsrc hload hnew
  have hrow := exec_tload t [] s
  rw [tloadArrive_joins hm hgood hfront] at hrow
  have hjoined := mayStart_setTile_loadWaits hm v ((tile s v).loadWaits ++ [srcTile t 4])
  generalize hs' : setTile s v { tile s v with loadWaits := (tile s v).loadWaits ++ [srcTile t 4] } = s' at hrow hjoined
  obtain ⟨u, hwaits⟩ : ∃ u, frontLoad s' t [] e.cmd = .wait u := by
    rw [frontLoad, h8, ← hs']
    exact tileLoad_waits hpart hpresent hsrc hload
  rw [hrow, engineRow_waits hjoined rfl (startTload_waits hgood hwaits)]

theorem exec_tload_running (hk : chipKey (devSpace s (partOfTile s t) (cbs e.cmd 16 8)) = some ka)
    (hstate : rd s 4 R.TILE_STATUS_STATE v = 1) (hload : rd s 4 R.TILE_STATUS_LOADING v = 0) (hfirst : FirstInLine s v (srcTile t 4)) :
    ∃ u r, exec (.tload t [] .none) s = .next u ∧ Started s u t 3 e r ∧ r.status = St.IMEM_BUSY ∧ LeftLines s u t
      ∧ u = { s with tiles := u.tiles } := by
  have hfront : frontLoad s t [] e.cmd = .refuse imemBusy := by
    rw [frontLoad, h8, tileLoad_first hpart hpresent hsrc hload hfirst hk, tileState_of_rd hpresent hstate]
    rfl
  have hrow := exec_tload t [] s
  rw [tloadArrive_served hm fun s' hwait => nomatch hfront.symm.trans hwait] at hrow
  obtain ⟨r, hbody, hcmd, hstatus⟩ := startTload_refuses hgood hfront
  exact ⟨_, r, hrow.trans (congrArg _ (engineRow_starts hm rfl hbody (isHold_of_mayStart hm ⟨rfl, fun _ _ => rfl⟩))),
    startCmd_started_of_queue hm.1 (fun q => queue_dropWaiter ..) hcmd, hstatus, leftLines_startCmd rfl, rfl⟩

end

/-- Settles O20: each command's body does its work at once, and its row then starts it. -/
theorem dmaResults : Obligations.dma_results := by
  unfold Obligations.dma_results
  intro t s e hwf
  refine ⟨?copy, ?copyChip, ?dcopy, ?tload, ?tstart⟩
  case copy =>
    intro ext v f hm hn hrsv hsrc hdst hsrcTg hdstTg hcopy
    have hseq : PartsKept s { s with msgSeq := s.msgSeq + 1 } := ⟨rfl, fun _ _ => rfl⟩
    have hkept := hseq.trans (partsKept_devCopy hcopy)
    obtain ⟨r, hbody, hcmd, hfin, hstatus, -⟩ := startCopy_good hn hrsv hsrc hdst hsrcTg hdstTg hcopy
    exact ⟨r, (exec_copy ..).trans (congrArg _ (engineRow_starts hm rfl hbody (isHold_of_mayStart hm hkept))), hcmd, hfin,
      hstatus.trans (endCmd_facts e f).2.2⟩
  case copyChip =>
    intro ka kb hm hn hrsv hsrc hdst hsrcSpan hdstSpan hout
    have hx := chipKey_of_devSpans hsrcSpan
    have hy := chipKey_of_devSpans hdstSpan
    have hread : sramRead { s with msgSeq := s.msgSeq + 1 } ka (cbs e.cmd 24 4) = sramRead s ka (cbs e.cmd 24 4) := rfl
    have hcopy := devCopy_chip (s := { s with msgSeq := s.msgSeq + 1 }) hx hy hout (partOfTile s t) (srcTile t 4) s.msgSeq.toNat []
    rw [hread] at hcopy
    obtain ⟨r, hbody, hcmd, hfin, hstatus, hfault⟩ := startCopy_good hn hrsv hsrc hdst (devTgBusy_chip hx _) (devTgBusy_chip hy _) hcopy
    obtain ⟨u, hx, hstarted, hqueues, hframe, hkept, hread⟩ :=
      moves_chip (s' := tickFree { s with msgSeq := s.msgSeq + 1 }) hwf hm rfl rfl hbody hcmd
    refine ⟨u, r, (exec_copy ..).trans (congrArg _ hx), hstarted, ⟨hfin, hstatus, hfault⟩, hqueues, ?_, hkept, hread⟩
    rw [hframe]
    rfl
  case dcopy =>
    intro hm a dm n ha hdm hn hpos hsp hal hfit hdal hflags htail
    have hbody := startDcopy_good (s := s) (t := t) ha hdm hn hpos hsp hal hfit hdal hflags htail
    cases hdir : cbit e.cmd 20 0 with
    | true =>
      rw [hdir, if_pos rfl] at hbody
      obtain ⟨u, hx, hstarted, hqueues, hframe, hkept, hread⟩ := moves_chip (s' := s) hwf hm rfl rfl hbody rfl
      exact ⟨u, _, (exec_dcopy t s).trans (congrArg _ hx), hstarted, ⟨rfl, rfl, rfl⟩, hqueues, hframe,
        fun _ => ⟨hkept, hread⟩, fun h => nomatch h⟩
    | false =>
      rw [hdir, if_neg Bool.false_ne_true] at hbody
      obtain ⟨u, hx, hstarted, hqueues, hframe, hkept, hread⟩ := moves_chip (s' := s) hwf hm rfl rfl hbody rfl
      exact ⟨u, _, (exec_dcopy t s).trans (congrArg _ hx), hstarted, ⟨rfl, rfl, rfl⟩, hqueues, hframe,
        fun h => absurd h Bool.false_ne_true, fun _ => ⟨hkept, hread⟩⟩
  case tload =>
    intro v ka hm hgood h8 hpart hpresent hsrc hspan
    have hk := chipKey_of_devSpans hspan
    exact ⟨exec_tload_loads hm hgood h8 hpart hpresent hsrc hwf hk, exec_tload_joins hm hgood h8 hpart hpresent hsrc,
      exec_tload_running hm hgood h8 hpart hpresent hsrc hk⟩
  case tstart =>
    intro v hm h8 h9 hpc htail hpart hpresent
    refine ⟨fun hstate hload hop => ?_, fun hstate => ?_⟩
    · have hbody := startTstart_starts h8 h9 hpc htail hpart hpresent (tileState_of_rd hpresent hstate) hload
      have hstarted := startTile_started (s := s) (t := v) (Nat.lt_of_le_of_lt hpc (by decide)) hop
      generalize startTile s v (cbs e.cmd 10 2) = s' at hbody hstarted
      refine ⟨_, _, (exec_tstart t s).trans (congrArg _ (engineRow_starts hm rfl hbody (isHold_of_mayStart hm hstarted.partsKept))),
        startCmd_started_of_queue hm.1 (hstarted.queue t) rfl, ⟨rfl, rfl, rfl⟩, ?_, fun t' => ?_, hstarted.regs, hstarted.start, hstarted.pcNow,
        hstarted.state⟩
      · rw [hstarted.frame]
        rfl
      · obtain ⟨qs, hqs, hstart⟩ := tile_startCmd s' t 3 (okCmd e) t'
        by_cases ht : t' = v
        · subst ht
          rw [hstarted.tile] at hqs hstart
          exact ⟨qs, hqs, by rw [hstart, if_pos rfl]⟩
        · rw [hstarted.others t' ht] at hqs hstart
          exact ⟨qs, hqs, by rw [hstart, if_neg ht]⟩
    · have hbody := startTstart_busy h8 h9 hpc htail hpart hpresent (tileState_of_rd hpresent hstate)
      exact ⟨_, _, (exec_tstart t s).trans (congrArg _ (engineRow_starts hm rfl hbody (isHold_of_mayStart hm (.refl s)))),
        startCmd_started hm.1 rfl rfl, rfl, rfl, queuesOnly_setQueue rfl, rfl⟩

end Sys2Proof.Machine
end

section
/-! SUPPORT. The rows of the matrix engine (R194, R209): a command that may start starts as its body says. -/

open Sys2Proof Sys2Proof.Machine Sys2Proof.Claims

namespace Sys2Proof.Machine

/-- From s', what a body leaves, to u the front command of queue q of tile t has started as r, and the choice of R209 has been counted. -/
structure MxStarts (s' u : State) (t q : Nat) (r : RunCmd) : Prop where
  frame : u = { startCmd s' t q r with regs := u.regs }
  regs  : RegsKept s' u [fieldKey R.MX_STATUS_DEF_POS 4 t 0]

section
variable {s s' : State} {t : Tile} {deferred : Bool} {opc : Nat} {e : QEntry} {r : RunCmd}

theorem mxHeadReady_of_mayStart (hm : MxMayStart s t deferred opc e)
    (hwait : opc = 2 → drainWaits s t deferred (drainOf e.cmd) = false) : mxHeadReady s t (if deferred then 4 else 0) = true := by
  obtain ⟨⟨hhead, hopc, -⟩, hstart, -⟩ := hm
  have hq : ((if deferred then 4 else 0) == 4) = deferred := by cases deferred <;> rfl
  simp only [mxHeadReady, hhead, hstart, hopc, hq, Bool.true_and, Bool.not_eq_true', Bool.and_eq_false_imp, beq_iff_eq]
  exact hwait

/-- R209 has nothing against the queue of a command that may start. -/
theorem mxChoice_of_mayStart (hm : MxMayStart s t deferred opc e) :
    (mxHeadReady s t 0 && mxHeadReady s t 4 && mxPickDeferred s t != deferred) = false := by
  obtain ⟨-, -, hpick⟩ := hm
  cases h0 : mxHeadReady s t 0
  · rfl
  · cases h4 : mxHeadReady s t 4
    · rfl
    · simp [hpick h0 h4]

theorem mxRow_starts {body : State → QEntry → Option (State × RunCmd)} {touch : State → Cmd → List (Nat × Nat)}
    (hm : MxMayStart s t deferred opc e) (hopc : 1 ≤ opc ∧ opc ≤ 5) (hwait : opc = 2 → drainWaits s t deferred (drainOf e.cmd) = false)
    (hbody : body s e = some (s', r)) (hparts : PartsKept s s') :
    ∃ u, mxRow s t opc deferred .none body touch = u ∧ MxStarts s' u t (if deferred then 4 else 0) r := by
  refine ⟨_, rfl, ?_⟩
  have hrow := engineRow_starts hm.1 (defined := fun o => decide (1 ≤ o ∧ o ≤ 5)) (decide_eq_true hopc) hbody (isHold_of_mayStart hm.1 hparts)
  have hcond : (!mxHeadReady s t (if deferred then 4 else 0)
      || (mxHeadReady s t 0 && mxHeadReady s t 4 && mxPickDeferred s t != deferred)) = false := by
    rw [mxHeadReady_of_mayStart hm hwait, mxChoice_of_mayStart hm]
    rfl
  simp only [mxRow, hcond, Bool.false_eq_true, if_false, eccRow, hrow]
  generalize (if deferred then 4 else 0) = q
  split
  · exact ⟨rfl, fun d k hk => regsKept_wr (startCmd s' t q r) _ _ _ _ _ d k hk⟩
  · exact ⟨rfl, fun _ _ _ => rfl⟩

end

namespace MxStarts

variable {s s' u : State} {t : Tile} {q : Nat} {e : QEntry} {r : RunCmd} (h : MxStarts s' u t q r)
include h

theorem sram : u.sram = s'.sram := by rw [h.frame]; rfl
theorem hbm : u.hbm = s'.hbm := by rw [h.frame]; rfl

/-- Everything but registers and tiles is what the body left. -/
theorem kept : u = { s' with regs := u.regs, tiles := u.tiles } := by
  have hframe := h.frame
  have htiles : u.tiles = (startCmd s' t q r).tiles := by rw [hframe]
  rw [htiles]
  exact hframe

theorem tiles : u.tiles = (startCmd s' t q r).tiles := by rw [h.frame]

theorem tile (t' : Nat) : tile u t' = Machine.tile (startCmd s' t q r) t' := congrArg (mapGet default · t') h.tiles

theorem queue (t' q' : Nat) : queue u t' q' = Machine.queue (startCmd s' t q r) t' q' := by
  rw [Machine.queue, h.tile, Machine.queue]

/-- The body has left the queues as they were. -/
theorem started (hhead : headEntry s t q = some e) (hq : ∀ q', Machine.queue s' t q' = Machine.queue s t q') (hr : r.cmd = e.cmd) :
    Started s u t q e r := by
  have hstart := startCmd_started_of_queue hhead hq hr
  exact ⟨hstart.front, (h.queue ..).trans hstart.queue, fun q' hne => (h.queue ..).trans (hstart.others q' hne), hr⟩

theorem queuesOnly (htiles : s'.tiles = s.tiles) : QueuesOnly s u t := by
  obtain ⟨hothers, hown⟩ := queuesOnly_setQueue (s := s) (t := t) (q := q)
    (x := { waiting := (Machine.queue s' t q).waiting.tail, running := (Machine.queue s' t q).running ++ [r] }) htiles
  refine ⟨fun t' hne => (h.tile t').trans (hothers t' hne), ?_⟩
  rw [h.tile t]
  exact hown

end MxStarts

end Sys2Proof.Machine
end

section
/-! SUPPORT. Accumulator slots (R203 to R207): what a record written to one slot leaves, and a span of registers that a change stays inside. -/

open Sys2Proof Sys2Proof.Machine Sys2Proof.Claims

namespace Sys2Proof.Machine

/-! ### Changes inside a span of registers -/

section
variable {s u v : State} {lo hi : Nat} {ks : List Nat}

theorem regsKeptBut_refl (s : State) (lo hi : Nat) (ks : List Nat) : RegsKeptBut s s lo hi ks := fun _ _ _ _ => rfl

theorem regsKeptBut_trans (h : RegsKeptBut s u lo hi ks) (h' : RegsKeptBut u v lo hi ks) : RegsKeptBut s v lo hi ks :=
  fun d k hout hk => (h' d k hout hk).trans (h d k hout hk)

theorem regsKeptBut_of_eq (h : u.regs = s.regs) : RegsKeptBut s u lo hi ks := fun _ _ _ _ => by rw [h]

theorem regsKeptBut_of_regsKept (h : RegsKept s u ks) : RegsKeptBut s u lo hi ks := fun d k _ hk => h d k hk

theorem regsKeptBut_mono {ls : List Nat} (h : RegsKeptBut s u lo hi ks) (hs : ∀ k ∈ ks, k ∈ ls) : RegsKeptBut s u lo hi ls :=
  fun d k hout hk => h d k hout fun hin => hk (hs k hin)

theorem regsKeptBut_wr (s : State) (p : Nat) (f : Reg) (v i j : Nat) (hlo : lo ≤ fieldKey f p i j) (hhi : fieldKey f p i j < hi) :
    RegsKeptBut s (wr s p f v i j) lo hi ks :=
  fun d k hout _ => regsKept_wr s p f v i j d k fun hk => by
    have := List.mem_singleton.1 hk
    omega

/-- Listed fields that lie inside the span need no list. -/
theorem regsKeptBut_absorb (h : RegsKept s u ks) (hin : ∀ k ∈ ks, lo ≤ k ∧ k < hi) (ls : List Nat) : RegsKeptBut s u lo hi ls :=
  fun d k hout _ => h d k fun hk => by
    have := hin k hk
    omega

theorem regsKeptBut_foldl {α : Type} {f : State → α → State} {l : List α} (h : ∀ x ∈ l, ∀ s, RegsKeptBut s (f s x) lo hi ks) (s : State) :
    RegsKeptBut s (l.foldl f s) lo hi ks := by
  induction l generalizing s with
  | nil => exact regsKeptBut_refl s lo hi ks
  | cons x l ih =>
    exact regsKeptBut_trans (h x List.mem_cons_self s) (ih (fun y hy => h y (List.mem_cons_of_mem _ hy)) _)

/-- A change of registers of the package, in a span and beside it, has no effect on the state of a partition. -/
theorem partsKept_of_regsKeptBut (hs : u.safe = s.safe) (h : RegsKeptBut s u lo hi ks) (hlo : 4 * 2 ^ 40 ≤ lo)
    (hks : ∀ k ∈ ks, 4 * 2 ^ 40 ≤ k) : PartsKept s u :=
  ⟨hs, fun p hp => by
    have hkey : fieldKey R.PART_CFG_PART_STATE p 0 0 < 4 * 2 ^ 40 := partKey_lt hp rfl (by decide)
    exact h _ _ (.inl (by omega)) fun hk => by have := hks _ hk; omega⟩

end

/-! ### Records of slots -/

/-- The span of the fields of a tile's 32 slots. -/
def slotLo (t : Nat) : Nat := fieldKey R.MX_SLOT_INFO_STATE 4 t 0
def slotHi (t : Nat) : Nat := fieldKey R.MX_SLOT_INFO_STATE 4 t 32

/-- A record that the fields of MX_SLOT_INFO can hold. -/
def SlotRec.Fits (r : SlotRec) : Prop := r.state < 4 ∧ r.shape < 4 ∧ r.offset < 1024

theorem fits_free : SlotRec.Fits ⟨0, false, 0, 0⟩ := ⟨by decide, by decide, by decide⟩

theorem slotFields_in (t : Nat) {k : Nat} (hk : k < 32) :
    (slotLo t ≤ fieldKey R.MX_SLOT_INFO_STATE 4 t k ∧ fieldKey R.MX_SLOT_INFO_STATE 4 t k < slotHi t)
      ∧ (slotLo t ≤ fieldKey R.MX_SLOT_INFO_FP16 4 t k ∧ fieldKey R.MX_SLOT_INFO_FP16 4 t k < slotHi t)
      ∧ (slotLo t ≤ fieldKey R.MX_SLOT_INFO_SHAPE 4 t k ∧ fieldKey R.MX_SLOT_INFO_SHAPE 4 t k < slotHi t)
      ∧ (slotLo t ≤ fieldKey R.MX_SLOT_INFO_OFFSET_SUM 4 t k ∧ fieldKey R.MX_SLOT_INFO_OFFSET_SUM 4 t k < slotHi t) := by
  simp only [slotLo, slotHi, fieldKey, R.MX_SLOT_INFO_STATE, R.MX_SLOT_INFO_FP16, R.MX_SLOT_INFO_SHAPE, R.MX_SLOT_INFO_OFFSET_SUM, if_true]
  omega

theorem le_slotLo (t : Nat) : 4 * 2 ^ 40 ≤ slotLo t := pkgKey_ge rfl ..

section
variable (s : State) (t k : Nat)

theorem regsKeptBut_setSlot {k : Nat} (hk : k < 32) (r : SlotRec) (ks : List Nat) : RegsKeptBut s (setSlot s t k r) (slotLo t) (slotHi t) ks := by
  obtain ⟨⟨h1, h1'⟩, ⟨h2, h2'⟩, ⟨h3, h3'⟩, ⟨h4, h4'⟩⟩ := slotFields_in t hk
  exact regsKeptBut_trans (regsKeptBut_trans (regsKeptBut_trans (regsKeptBut_wr _ _ _ _ _ _ h1 h1') (regsKeptBut_wr _ _ _ _ _ _ h2 h2'))
    (regsKeptBut_wr _ _ _ _ _ _ h3 h3')) (regsKeptBut_wr _ _ _ _ _ _ h4 h4')

theorem setSlot_frame (r : SlotRec) : setSlot s t k r = { s with regs := (setSlot s t k r).regs } := rfl

theorem slotRec_of_regs {s u : State} (h : u.regs = s.regs) (t k : Nat) : slotRec u t k = slotRec s t k := by
  simp only [slotRec, rdb, rd, h]

theorem rdb_wr_same (p : Nat) {f : Reg} (hf : f.width = 1) (b : Bool) (i j : Nat) : rdb (wr s p f b.toNat i j) p f i j = b := by
  rw [rdb, rd_wr_same, hf]
  cases b <;> rfl

theorem slotRec_setSlot_same {r : SlotRec} (hr : r.Fits) : slotRec (setSlot s t k r) t k = r := by
  obtain ⟨hstate, hshape, hoffset⟩ := hr
  have hs : rd (setSlot s t k r) 4 R.MX_SLOT_INFO_STATE t k = r.state := by
    rw [setSlot, rd_wr_ne, rd_wr_ne, wrb, rd_wr_ne, rd_wr_same]
    · exact Nat.mod_eq_of_lt hstate
    all_goals simp [fieldKey, R.MX_SLOT_INFO_STATE, R.MX_SLOT_INFO_FP16, R.MX_SLOT_INFO_SHAPE, R.MX_SLOT_INFO_OFFSET_SUM]
  have hf : rdb (setSlot s t k r) 4 R.MX_SLOT_INFO_FP16 t k = r.fp16 := by
    rw [rdb, setSlot, rd_wr_ne, rd_wr_ne, wrb, ← rdb, rdb_wr_same _ _ rfl]
    all_goals simp [fieldKey, R.MX_SLOT_INFO_FP16, R.MX_SLOT_INFO_SHAPE, R.MX_SLOT_INFO_OFFSET_SUM]
  have hh : rd (setSlot s t k r) 4 R.MX_SLOT_INFO_SHAPE t k = r.shape := by
    rw [setSlot, rd_wr_ne, rd_wr_same]
    · exact Nat.mod_eq_of_lt hshape
    · simp [fieldKey, R.MX_SLOT_INFO_SHAPE, R.MX_SLOT_INFO_OFFSET_SUM]
  have ho : rd (setSlot s t k r) 4 R.MX_SLOT_INFO_OFFSET_SUM t k = r.offset := by
    rw [setSlot, rd_wr_same]
    exact Nat.mod_eq_of_lt hoffset
  rw [slotRec, hs, hf, hh, ho]

/-- A field of one slot is at the place of no field of another. -/
theorem slotField_ne {f g : Reg} (hf : f ∈ [R.MX_SLOT_INFO_STATE, R.MX_SLOT_INFO_FP16, R.MX_SLOT_INFO_SHAPE, R.MX_SLOT_INFO_OFFSET_SUM])
    (hg : g ∈ [R.MX_SLOT_INFO_STATE, R.MX_SLOT_INFO_FP16, R.MX_SLOT_INFO_SHAPE, R.MX_SLOT_INFO_OFFSET_SUM]) {k k' : Nat} (h : k ≠ k') :
    fieldKey f 4 t k ≠ fieldKey g 4 t k' := by
  have hplace : ∀ f ∈ [R.MX_SLOT_INFO_STATE, R.MX_SLOT_INFO_FP16, R.MX_SLOT_INFO_SHAPE, R.MX_SLOT_INFO_OFFSET_SUM],
      f.pkg = true ∧ f.base = 0x800180 ∧ f.stride = 0x1000 ∧ f.stride2 = 4 ∧ f.lsb < 32 := by decide
  obtain ⟨hp, hb, hs, hs2, hl⟩ := hplace f hf
  obtain ⟨hp', hb', hs', hs2', hl'⟩ := hplace g hg
  simp only [fieldKey, hp, hb, hs, hs2, hp', hb', hs', hs2', if_true]
  omega

/-- A write of a field of one slot leaves the records of the others. -/
theorem slotRec_wr_ne {f : Reg} (hf : f ∈ [R.MX_SLOT_INFO_STATE, R.MX_SLOT_INFO_FP16, R.MX_SLOT_INFO_SHAPE, R.MX_SLOT_INFO_OFFSET_SUM])
    {k k' : Nat} (h : k ≠ k') (v : Nat) : slotRec (wr s 4 f v t k) t k' = slotRec s t k' := by
  simp only [slotRec, rdb]
  rw [rd_wr_ne s v (slotField_ne t hf (by decide) h), rd_wr_ne s v (slotField_ne t hf (by decide) h),
    rd_wr_ne s v (slotField_ne t hf (by decide) h), rd_wr_ne s v (slotField_ne t hf (by decide) h)]

theorem slotRec_setSlot_ne {k k' : Nat} (h : k ≠ k') (r : SlotRec) : slotRec (setSlot s t k r) t k' = slotRec s t k' := by
  rw [setSlot, slotRec_wr_ne _ _ (by decide) h, slotRec_wr_ne _ _ (by decide) h, wrb, slotRec_wr_ne _ _ (by decide) h,
    slotRec_wr_ne _ _ (by decide) h]

theorem slotRec_setSlot {r : SlotRec} (hr : r.Fits) (k' : Nat) : slotRec (setSlot s t k r) t k' = if k' = k then r else slotRec s t k' := by
  split
  · next h =>
    subst h
    exact slotRec_setSlot_same s t k' hr
  · next h => exact slotRec_setSlot_ne s t (Ne.symm h) r

/-- LIVE again (R218). -/
theorem slotRec_wr_live (k' : Nat) :
    slotRec (wr s 4 R.MX_SLOT_INFO_STATE 1 t k) t k' = if k' = k then { slotRec s t k' with state := 1 } else slotRec s t k' := by
  split
  · next h =>
    subst h
    simp only [slotRec, rdb, rd_wr_same]
    rw [rd_wr_ne, rd_wr_ne, rd_wr_ne]
    · rfl
    all_goals simp [fieldKey, R.MX_SLOT_INFO_STATE, R.MX_SLOT_INFO_FP16, R.MX_SLOT_INFO_SHAPE, R.MX_SLOT_INFO_OFFSET_SUM]
  · next h => exact slotRec_wr_ne s t (by decide) (Ne.symm h) 1

end

end Sys2Proof.Machine
end

section
/-! SUPPORT. Elements of one size written into a span of on-chip memory one after another: each is read back, and nothing else has changed. -/

open Sys2Proof Sys2Proof.Machine Sys2Proof.Claims

namespace Sys2Proof.Machine

/-- The elements of `l` are written in turn: element x, of which `val` gives the bytes, has place `idx x` in an array at key a, of elements of
z bytes. -/
def writeElems {α : Type} (a z : Nat) (idx : α → Nat) (val : α → List Byte) (l : List α) (s : State) : State :=
  l.foldl (fun s x => sramWrite s (a + z * idx x) (val x)) s

/-- Places that differ do not meet. -/
theorem places_apart (a z : Nat) {i j : Nat} (h : i ≠ j) : a + z * i + z ≤ a + z * j ∨ a + z * j + z ≤ a + z * i := by
  rcases Nat.lt_or_gt_of_ne h with h | h
  · exact .inl (by have := Nat.mul_le_mul_left z (Nat.succ_le_of_lt h); rw [Nat.mul_succ] at this; omega)
  · exact .inr (by have := Nat.mul_le_mul_left z (Nat.succ_le_of_lt h); rw [Nat.mul_succ] at this; omega)

section
variable {α : Type} {a z : Nat} {idx : α → Nat} {val : α → List Byte}

theorem writeElems_frame (l : List α) (s : State) : writeElems a z idx val l s = { s with sram := (writeElems a z idx val l s).sram } := by
  induction l generalizing s with
  | nil => rfl
  | cons x l ih => exact ih (sramWrite s (a + z * idx x) (val x))

variable (hlen : ∀ x, (val x).length = z)
include hlen

/-- A byte at the place of no element. -/
theorem sramGet_writeElems_out {l : List α} {b : Nat} (h : ∀ x ∈ l, b < a + z * idx x ∨ a + z * idx x + z ≤ b) (s : State) :
    sramGet (writeElems a z idx val l s) b = sramGet s b := by
  induction l generalizing s with
  | nil => rfl
  | cons x l ih =>
    have hx := h x List.mem_cons_self
    rw [← hlen x] at hx
    exact (ih (fun y hy => h y (List.mem_cons_of_mem _ hy)) _).trans (sramGet_sramWrite_out s _ _ _ (by rwa [hlen x] at hx ⊢))

theorem sramKept_writeElems {l : List α} {n : Nat} (h : ∀ x ∈ l, idx x < n) (s : State) :
    SramKept s (writeElems a z idx val l s) a (z * n) := fun b hb => by
  refine sramGet_writeElems_out hlen (fun x hx => ?_) s
  have hle := Nat.mul_le_mul_left z (Nat.succ_le_of_lt (h x hx))
  rw [Nat.mul_succ] at hle
  omega

/-- The place of an element that is not written. -/
theorem sramRead_writeElems_out {l : List α} {i : Nat} (h : ∀ x ∈ l, idx x ≠ i) (s : State) :
    sramRead (writeElems a z idx val l s) (a + z * i) z = sramRead s (a + z * i) z :=
  List.map_congr_left fun d hd => sramGet_writeElems_out hlen (fun x hx => by
    have := places_apart a z (h x hx)
    have := List.mem_range.1 hd
    omega) s

theorem sramRead_writeElems {l : List α} (hnd : l.Nodup) (hinj : ∀ x ∈ l, ∀ y ∈ l, idx x = idx y → x = y) {s : State}
    (hwf : Memory.wf s.sram = true) {x : α} (hx : x ∈ l) : sramRead (writeElems a z idx val l s) (a + z * idx x) z = val x := by
  induction l generalizing s with
  | nil => exact nomatch hx
  | cons y l ih =>
    obtain ⟨hy, hnd⟩ := List.nodup_cons.1 hnd
    rcases List.mem_cons.1 hx with rfl | hmem
    · refine (sramRead_writeElems_out hlen (fun w hw he => ?_) (sramWrite s (a + z * idx x) (val x))).trans ?_
      · exact hy (hinj w (List.mem_cons_of_mem _ hw) x List.mem_cons_self he ▸ hw)
      · have hread := sramRead_sramWrite_same hwf (a + z * idx x) (val x)
        rwa [hlen x] at hread
    · exact ih hnd (fun u hu w hw => hinj u (List.mem_cons_of_mem _ hu) w (List.mem_cons_of_mem _ hw)) (wf_sramWrite _ _ _ hwf) hmem

end

/-- A part of a span that has been set to one byte. -/
theorem sramRead_sramWrite_replicate {s : State} (hwf : Memory.wf s.sram = true) (a n : Nat) (b : Byte) {d m : Nat} (h : d + m ≤ n) :
    sramRead (sramWrite s a (List.replicate n b)) (a + d) m = List.replicate m b := by
  refine List.eq_replicate_iff.2 ⟨length_sramRead .., fun x hx => ?_⟩
  obtain ⟨i, hi, rfl⟩ := List.mem_map.1 hx
  have := List.mem_range.1 hi
  rw [Nat.add_assoc]
  exact sramGet_sramWrite_in hwf a (by rw [List.getElem?_replicate, if_pos (by omega)])

theorem leNat_replicate_zero (n : Nat) : leNat (List.replicate n 0) = 0 := by
  induction n with
  | zero => rfl
  | succ n ih => rw [List.replicate_succ, leNat, ih]; rfl

end Sys2Proof.Machine
end

section
/-! The MMA settled (R194 to R198, R203, R205). -/

open Sys2Proof Sys2Proof.Machine Sys2Proof.Claims

namespace Sys2Proof.Machine

theorem exec_mma (t : Tile) (deferred : Bool) (s : State) :
    exec (.mma t deferred .none) s = .next (mxRow s t 1 deferred .none (startMma t deferred)) := rfl

/-! ### The tile -/

/-- Every shape has 4096 elements (R193). -/
theorem shape_area (sh : Nat) : shapeM sh * shapeN sh = 4096 := by
  unfold shapeM shapeN
  split <;> rfl

/-- The place of element (i, j) in a tile whose rows have n elements. -/
def tilePlace (n : Nat) (x : Nat × Nat) : Nat := n * x.1 + x.2

theorem tilePlace_lt {sh i j : Nat} (hi : i < shapeM sh) (hj : j < shapeN sh) : tilePlace (shapeN sh) (i, j) < 4096 := by
  have hrow := Nat.mul_le_mul_left (shapeN sh) (Nat.succ_le_of_lt hi)
  rw [Nat.mul_succ, Nat.mul_comm (shapeN sh) (shapeM sh), shape_area] at hrow
  simp only [tilePlace]
  omega

theorem tilePlace_inj {n : Nat} {x y : Nat × Nat} (hx : x.2 < n) (hy : y.2 < n) (h : tilePlace n x = tilePlace n y) : x = y := by
  have hdiv (z : Nat × Nat) (hz : z.2 < n) : tilePlace n z / n = z.1 := by
    rw [tilePlace, Nat.mul_add_div (by omega), Nat.div_eq_of_lt hz, Nat.add_zero]
  have hmod (z : Nat × Nat) (hz : z.2 < n) : tilePlace n z % n = z.2 := by
    rw [tilePlace, Nat.mul_add_mod, Nat.mod_eq_of_lt hz]
  exact Prod.ext (by rw [← hdiv x hx, h, hdiv y hy]) (by rw [← hmod x hx, h, hmod y hy])

/-- Bytes of an element of the accumulator. -/
def accSize (isFp16 : Bool) : Nat := if isFp16 then 2 else 4

theorem accElemKey_eq (t acc : Nat) (isFp16 : Bool) (n i j : Nat) :
    accElemKey t acc isFp16 n i j = accKey t (8192 * acc) + accSize isFp16 * tilePlace n (i, j) := (Nat.add_assoc ..).symm

/-- The tile that the accumulation starts from (R196). -/
def mmaStart (s : State) (t : Nat) (m : MmaCmd) : State :=
  if m.init then sramWrite s (accKey t (8192 * m.acc)) (List.replicate (accSize m.accFp16 * 4096) 0) else s

/-- Bytes of element x after n k-slices, from the tile of s0. -/
def mmaBytes (s s0 : State) (t : Nat) (m : MmaCmd) (cs : List Nat) (n : Nat) (x : Nat × Nat) : List Byte :=
  leBytes (accSize m.accFp16) (mmaElem (tile s t) m cs n x.1 x.2
    (leNat (sramRead s0 (accElemKey t m.acc m.accFp16 (shapeN m.shape) x.1 x.2) (accSize m.accFp16))))

/-- The elements that an MMA writes. -/
def mmaCells (m : MmaCmd) : List (Nat × Nat) := List.range m.a.valid ×ˢ List.range m.b.valid

theorem mem_mmaCells {m : MmaCmd} {x : Nat × Nat} : x ∈ mmaCells m ↔ x.1 < m.a.valid ∧ x.2 < m.b.valid := by
  obtain ⟨i, j⟩ := x
  rw [mmaCells, List.mem_product, List.mem_range, List.mem_range]

theorem mmaTile_eq (s : State) (t : Nat) (m : MmaCmd) (cs : List Nat) (n : Nat) :
    mmaTile s t m cs n = writeElems (accKey t (8192 * m.acc)) (accSize m.accFp16) (tilePlace (shapeN m.shape))
      (mmaBytes s (mmaStart s t m) t m cs n) (mmaCells m) (mmaStart s t m) := by
  have hflat : mmaCells m = (List.range m.a.valid).flatMap fun i => (List.range m.b.valid).map (Prod.mk i) := rfl
  rw [hflat, writeElems, List.foldl_flatMap]
  simp only [List.foldl_map, mmaBytes, ← accElemKey_eq]
  rfl

section
variable {s : State} {t : Nat} {m : MmaCmd} {cs : List Nat} {n : Nat}

theorem mmaTile_frame : mmaTile s t m cs n = { s with sram := (mmaTile s t m cs n).sram } := by
  have hstart : mmaStart s t m = { s with sram := (mmaStart s t m).sram } := by
    unfold mmaStart
    split <;> rfl
  rw [mmaTile_eq, writeElems_frame]
  rw [hstart]

theorem length_mmaBytes (s s0 : State) (t : Nat) (m : MmaCmd) (cs : List Nat) (n : Nat) (x : Nat × Nat) :
    (mmaBytes s s0 t m cs n x).length = accSize m.accFp16 := length_leBytes ..

theorem sramKept_mmaStart : SramKept s (mmaStart s t m) (accKey t (8192 * m.acc)) (accSize m.accFp16 * 4096) := by
  unfold mmaStart
  split
  · have hkept := sramKept_sramWrite s (accKey t (8192 * m.acc)) (List.replicate (accSize m.accFp16 * 4096) 0)
    rwa [List.length_replicate] at hkept
  · exact fun _ _ => rfl

theorem wf_mmaStart (hwf : Memory.wf s.sram = true) : Memory.wf (mmaStart s t m).sram = true := by
  unfold mmaStart
  split
  · exact wf_sramWrite _ _ _ hwf
  · exact hwf

/-- INIT starts every element at 0 (R196). -/
theorem sramRead_mmaStart (hwf : Memory.wf s.sram = true) {i j : Nat} (hi : i < shapeM m.shape) (hj : j < shapeN m.shape) :
    sramRead (mmaStart s t m) (accElemKey t m.acc m.accFp16 (shapeN m.shape) i j) (accSize m.accFp16)
      = if m.init then List.replicate (accSize m.accFp16) 0
        else sramRead s (accElemKey t m.acc m.accFp16 (shapeN m.shape) i j) (accSize m.accFp16) := by
  unfold mmaStart
  split
  · have hplace := Nat.mul_le_mul_left (accSize m.accFp16) (Nat.succ_le_of_lt (tilePlace_lt hi hj))
    rw [Nat.mul_succ] at hplace
    rw [accElemKey_eq]
    exact sramRead_sramWrite_replicate hwf _ _ _ hplace
  · rfl

theorem sramKept_mmaTile (hrows : m.a.valid ≤ shapeM m.shape) (hcols : m.b.valid ≤ shapeN m.shape) :
    SramKept s (mmaTile s t m cs n) (accKey t (8192 * m.acc)) (accSize m.accFp16 * 4096) := fun b hb => by
  have hkept : SramKept (mmaStart s t m) (mmaTile s t m cs n) (accKey t (8192 * m.acc)) (accSize m.accFp16 * 4096) := by
    rw [mmaTile_eq]
    refine sramKept_writeElems (length_mmaBytes s _ t m cs n) (fun x hx => ?_) _
    obtain ⟨hi, hj⟩ := mem_mmaCells.1 hx
    exact tilePlace_lt (Nat.lt_of_lt_of_le hi hrows) (Nat.lt_of_lt_of_le hj hcols)
  exact (hkept b hb).trans (sramKept_mmaStart b hb)

theorem sramRead_mmaTile (hcols : m.b.valid ≤ shapeN m.shape) (hwf : Memory.wf s.sram = true) {i j : Nat} (hi : i < shapeM m.shape)
    (hj : j < shapeN m.shape) : sramRead (mmaTile s t m cs n) (accElemKey t m.acc m.accFp16 (shapeN m.shape) i j) (accSize m.accFp16)
      = if i < m.a.valid ∧ j < m.b.valid then
          leBytes (accSize m.accFp16) (mmaElem (tile s t) m cs n i j (if m.init then 0 else
            leNat (sramRead s (accElemKey t m.acc m.accFp16 (shapeN m.shape) i j) (accSize m.accFp16))))
        else if m.init then List.replicate (accSize m.accFp16) 0
        else sramRead s (accElemKey t m.acc m.accFp16 (shapeN m.shape) i j) (accSize m.accFp16) := by
  have hcol {x : Nat × Nat} (hx : x ∈ mmaCells m) : x.2 < shapeN m.shape := Nat.lt_of_lt_of_le (mem_mmaCells.1 hx).2 hcols
  have hinj : ∀ x ∈ mmaCells m, ∀ y ∈ mmaCells m, tilePlace (shapeN m.shape) x = tilePlace (shapeN m.shape) y → x = y :=
    fun x hx y hy => tilePlace_inj (hcol hx) (hcol hy)
  have hstart := sramRead_mmaStart (t := t) hwf hi hj
  rw [mmaTile_eq]
  split
  · next hin =>
    have hold : leNat (sramRead (mmaStart s t m) (accElemKey t m.acc m.accFp16 (shapeN m.shape) i j) (accSize m.accFp16))
        = if m.init then 0 else leNat (sramRead s (accElemKey t m.acc m.accFp16 (shapeN m.shape) i j) (accSize m.accFp16)) := by
      rw [hstart]
      split
      · exact leNat_replicate_zero _
      · rfl
    rw [← hold, accElemKey_eq]
    have hread := sramRead_writeElems (a := accKey t (8192 * m.acc)) (length_mmaBytes s (mmaStart s t m) t m cs n)
      (List.nodup_range.product List.nodup_range) hinj (wf_mmaStart (t := t) (m := m) hwf) (mem_mmaCells (x := (i, j)).2 hin)
    rw [mmaBytes, accElemKey_eq] at hread
    exact hread
  · next hout =>
    rw [← hstart, accElemKey_eq]
    exact sramRead_writeElems_out (length_mmaBytes s _ t m cs n)
      (fun x hx he => by
        obtain rfl : x = (i, j) := tilePlace_inj (hcol hx) hj he
        exact hout (mem_mmaCells.1 hx)) _

end

/-! ### The records (R205) -/

/-- The fields of an MMA, as far as its slots and its shape go. -/
structure MmaFits (m : MmaCmd) : Prop where
  slot  : m.acc < 32
  shape : m.shape < 4
  rows  : m.a.valid ≤ shapeM m.shape
  cols  : m.b.valid ≤ shapeN m.shape
  even  : m.accFp16 = false → m.acc % 2 = 0

theorem mmaFits_of_good {s : State} {t : Nat} {deferred : Bool} {c : Cmd} (h : mmaBad s t deferred (mmaOf c) = false) : MmaFits (mmaOf c) := by
  simp only [mmaBad, Bool.or_eq_false_iff, decide_eq_false_iff_not, Nat.not_lt, Bool.and_eq_false_imp, Bool.not_eq_true', beq_eq_false_iff_ne] at h
  obtain ⟨⟨⟨⟨⟨⟨⟨⟨⟨⟨⟨⟨⟨-, hrows⟩, -⟩, hcols⟩, -⟩, -⟩, -⟩, -⟩, -⟩, -⟩, -⟩, heven⟩, -⟩, -⟩ := h
  exact ⟨Nat.mod_lt _ (by decide), Nat.mod_lt _ (by decide), hrows, hcols, fun hf => by have := heven hf; omega⟩

section
variable {s : State} {t : Nat} {m : MmaCmd} (hm : MmaFits m)

/-- The slot beside an FP32 tile whose half an FP16 one replaces is freed first (log 8). -/
def mmaFreed (s : State) (t : Nat) (m : MmaCmd) : State :=
  if (slotRec s t m.acc).state ≠ 0 ∧ (slotRec s t m.acc).fp16 = false then freeSlot s t (m.acc + 1) else s

theorem mmaRecords_eq (s : State) (t : Nat) (m : MmaCmd) : mmaRecords s t m
    = if m.init then
        if m.accFp16 then setSlot (mmaFreed s t m) t m.acc (mmaRecord (mmaFreed s t m) t m)
        else setSlot (setSlot s t m.acc (mmaRecord s t m)) t (m.acc + 1) (mmaRecord s t m)
      else s := by
  simp only [mmaRecords, mmaFreed, Bool.not_eq_true']

theorem regsFrame_trans {s u v : State} (h : u = { s with regs := u.regs }) (h' : v = { u with regs := v.regs }) :
    v = { s with regs := v.regs } := by
  rw [h] at h'
  exact h'

theorem mmaFreed_frame : mmaFreed s t m = { s with regs := (mmaFreed s t m).regs } := by
  unfold mmaFreed
  split
  · exact setSlot_frame ..
  · rfl

theorem mmaRecords_frame : mmaRecords s t m = { s with regs := (mmaRecords s t m).regs } := by
  rw [mmaRecords_eq]
  split
  · split
    · exact regsFrame_trans mmaFreed_frame (setSlot_frame ..)
    · exact regsFrame_trans (setSlot_frame ..) (setSlot_frame ..)
  · rfl

theorem mmaRecords_keeps (h : m.init = false) : mmaRecords s t m = s := by
  rw [mmaRecords_eq, h]
  rfl

/-- Bindings lie behind the slots, and the offset sum is of the bindings alone (R205). -/
theorem mmaRecord_of_kept {u : State} (h : RegsKeptBut s u (slotLo t) (slotHi t) []) : mmaRecord u t m = mmaRecord s t m := by
  have hrd (i : Nat) : rd u 4 R.MX_CB_A_X t i = rd s 4 R.MX_CB_A_X t i ∧ rd u 4 R.MX_CB_B_X t i = rd s 4 R.MX_CB_B_X t i := by
    refine ⟨h _ _ (.inr ?_) List.not_mem_nil, h _ _ (.inr ?_) List.not_mem_nil⟩
    all_goals
      simp only [slotHi, fieldKey, R.MX_SLOT_INFO_STATE, R.MX_CB_A_X, R.MX_CB_B_X, if_true]
      omega
  simp only [mmaRecord, mmaOffset, cbX, if_true, one_ne_zero, if_false, (hrd _).1, (hrd _).2]

include hm

theorem fits_mmaRecord : (mmaRecord s t m).Fits := by
  refine ⟨?_, hm.shape, ?_⟩
  · show (if m.hold then 2 else 1) < 4
    split <;> decide
  · simp only [mmaRecord, toBits]
    omega

/-- An FP32 tile in use is named by its even slot, so that the slot beside it is one of the 32. -/
theorem slotBeside_lt (hodd : oddOfFp32 s t m.acc = false) (hused : (slotRec s t m.acc).state ≠ 0) (hfp : (slotRec s t m.acc).fp16 = false) :
    m.acc + 1 < 32 := by
  have := hm.slot
  simp only [oddOfFp32, hfp, Bool.not_false, Bool.and_true, Bool.and_eq_false_iff, beq_eq_false_iff_ne, bne_eq_false_iff_eq] at hodd
  omega

theorem regsKeptBut_mmaFreed (hodd : oddOfFp32 s t m.acc = false) : RegsKeptBut s (mmaFreed s t m) (slotLo t) (slotHi t) [] := by
  unfold mmaFreed
  split
  · next h => exact regsKeptBut_setSlot s t (slotBeside_lt hm hodd h.1 h.2) _ _
  · exact regsKeptBut_refl s _ _ _

theorem regsKeptBut_mmaRecords (hodd : oddOfFp32 s t m.acc = false) : RegsKeptBut s (mmaRecords s t m) (slotLo t) (slotHi t) [] := by
  have hslot := hm.slot
  rw [mmaRecords_eq]
  split
  · split
    · exact regsKeptBut_trans (regsKeptBut_mmaFreed hm hodd) (regsKeptBut_setSlot _ t hslot _ _)
    · next hfp =>
      have heven := hm.even (by simpa using hfp)
      exact regsKeptBut_trans (regsKeptBut_setSlot s t hslot _ _) (regsKeptBut_setSlot _ t (by omega) _ _)
  · exact regsKeptBut_refl s _ _ _

/-- What INIT records, slot by slot. -/
theorem slotRec_mmaRecords (hodd : oddOfFp32 s t m.acc = false) (hinit : m.init = true) (k : Nat) : slotRec (mmaRecords s t m) t k
    = if k = m.acc ∨ (k = m.acc + 1 ∧ m.accFp16 = false) then mmaRecord s t m
      else if k = m.acc + 1 ∧ (slotRec s t m.acc).state ≠ 0 ∧ (slotRec s t m.acc).fp16 = false then ⟨0, false, 0, 0⟩
      else slotRec s t k := by
  have hrec : (mmaRecord s t m).Fits := fits_mmaRecord hm
  rw [mmaRecords_eq, if_pos hinit]
  cases hfp : m.accFp16 with
  | true =>
    rw [if_pos rfl, mmaRecord_of_kept (regsKeptBut_mmaFreed hm hodd), slotRec_setSlot _ _ _ hrec]
    simp only [Bool.true_eq_false, and_false, or_false]
    congr 1
    rw [mmaFreed]
    split
    · next h => simp only [freeSlot, slotRec_setSlot _ _ _ fits_free, and_iff_left h]
    · next h => rw [if_neg fun hx => h hx.2]
  | false =>
    rw [if_neg Bool.false_ne_true, slotRec_setSlot _ _ _ hrec, slotRec_setSlot _ _ _ hrec]
    simp only [and_true]
    by_cases hk : k = m.acc + 1
    · simp only [hk, if_true, or_true]
    · simp only [hk, if_false, or_false, false_and]

end

/-! ### The command -/

theorem startMma_good {s : State} {t : Nat} {deferred : Bool} {e : QEntry} {m : MmaCmd} (hcmd : mmaOf e.cmd = m)
    (hbad : mmaBad s t deferred m = false) (hslot : mmaSlotBad s t deferred m = false) :
    ∃ r, startMma t deferred s e = some (mmaTile (mmaRecords s t m) t m (mmaCodes s t m) m.k, r) ∧ r.cmd = e.cmd ∧ DoneOk r := by
  refine ⟨{ okCmd e with keep := sramRead s (accKey t (8192 * m.acc)) ((if m.accFp16 then 1 else 2) * 8192), codes := mmaCodes s t m }, ?_,
    rfl, rfl, rfl, rfl⟩
  simp only [startMma, hcmd, hbad, hslot, Bool.false_eq_true, if_false]

theorem oddOfFp32_of_good {s : State} {t : Nat} {deferred : Bool} {m : MmaCmd} (h : mmaSlotBad s t deferred m = false) :
    oddOfFp32 s t m.acc = false := by
  simp only [mmaSlotBad, slotBad, Bool.or_eq_false_iff] at h
  exact h.1.1.1

/-- The state of R209 lies before the slots. -/
theorem slotRec_of_mxStarts {s' u : State} {t : Tile} {q : Nat} {r : RunCmd} (h : MxStarts s' u t q r) (k : Nat) :
    slotRec u t k = slotRec s' t k := by
  have hrd (f : Reg) (hf : f.pkg = true) (hb : f.base = 0x800180) (hs : f.stride = 0x1000) : rd u 4 f t k = rd s' 4 f t k :=
    h.regs.rd _ _ _ _ fun hk => by
      have hkey := List.mem_singleton.1 hk
      simp only [fieldKey, hf, hb, hs, R.MX_STATUS_DEF_POS, if_true] at hkey
      omega
  simp only [slotRec, rdb, hrd R.MX_SLOT_INFO_STATE rfl rfl rfl, hrd R.MX_SLOT_INFO_FP16 rfl rfl rfl, hrd R.MX_SLOT_INFO_SHAPE rfl rfl rfl,
    hrd R.MX_SLOT_INFO_OFFSET_SUM rfl rfl rfl]

/-- A change of slots, and then the start of the command that has made it. -/
theorem regsKeptBut_mxStarts {s s' u : State} {t : Tile} {q lo hi : Nat} {r : RunCmd} (h : MxStarts s' u t q r)
    (hs : RegsKeptBut s s' lo hi []) : RegsKeptBut s u lo hi [fieldKey R.MX_STATUS_DEF_POS 4 t 0] :=
  regsKeptBut_trans (regsKeptBut_mono hs fun _ hk => absurd hk List.not_mem_nil) (regsKeptBut_of_regsKept h.regs)

/-- Settles O16: the tile is written element by element, each at its own place, from what it was before or from 0. -/
theorem mmaResults : Obligations.mma_results := by
  unfold Obligations.mma_results
  intro t deferred s e hwf hm hbad hslot
  have hfits := mmaFits_of_good hbad
  have hodd := oddOfFp32_of_good hslot
  obtain ⟨r, hbody, hcmd, hok⟩ := startMma_good rfl hbad hslot
  generalize mmaOf e.cmd = m at *
  have hrecords : mmaRecords s t m = { s with regs := (mmaRecords s t m).regs } := mmaRecords_frame
  have hrecregs : RegsKeptBut s (mmaRecords s t m) (slotLo t) (slotHi t) [] := regsKeptBut_mmaRecords hfits hodd
  have hrecslots := slotRec_mmaRecords hfits hodd
  have hreckeep : m.init = false → mmaRecords s t m = s := mmaRecords_keeps
  generalize mmaRecords s t m = s1 at *
  have hsram : s1.sram = s.sram := by rw [hrecords]
  have htile : tile s1 t = tile s t := by rw [hrecords]; rfl
  have hget (a n : Nat) : sramRead s1 a n = sramRead s a n := by rw [hrecords]; rfl
  have hkept : SramKept s1 (mmaTile s1 t m (mmaCodes s t m) m.k) (accKey t (8192 * m.acc)) (accSize m.accFp16 * 4096) :=
    sramKept_mmaTile hfits.rows hfits.cols
  have hread {i j : Nat} (hi : i < shapeM m.shape) (hj : j < shapeN m.shape) :=
    sramRead_mmaTile (s := s1) (t := t) (m := m) (cs := mmaCodes s t m) (n := m.k) hfits.cols (hsram ▸ hwf) hi hj
  simp only [htile, hget] at hread
  have hframe : mmaTile s1 t m (mmaCodes s t m) m.k = { s1 with sram := (mmaTile s1 t m (mmaCodes s t m) m.k).sram } := mmaTile_frame
  generalize mmaTile s1 t m (mmaCodes s t m) m.k = s2 at *
  have hregs2 : s2.regs = s1.regs := by rw [hframe]
  have hall : s2 = { s with regs := s2.regs, sram := s2.sram } := by rw [hframe, hrecords]
  have hkeptRegs : RegsKeptBut s s2 (slotLo t) (slotHi t) [] := regsKeptBut_trans hrecregs (regsKeptBut_of_eq hregs2)
  have hparts : PartsKept s s2 :=
    partsKept_of_regsKeptBut (by rw [hall]) hkeptRegs (le_slotLo t) fun _ hk => absurd hk List.not_mem_nil
  have htiles : s2.tiles = s.tiles := by rw [hall]
  obtain ⟨u, hrow, hu⟩ := mxRow_starts hm (by decide) (fun h => absurd h (by decide)) hbody hparts (touch := fun _ _ => [])
  have hslots (k : Nat) : slotRec u t k = slotRec s1 t k := (slotRec_of_mxStarts hu k).trans (slotRec_of_regs hregs2 t k)
  refine ⟨u, r, (exec_mma ..).trans (congrArg _ hrow), hu.started hm.1.1 (fun q => by rw [queue, tile, htiles, queue, tile]) hcmd, hok,
    hu.queuesOnly htiles, ?_, regsKeptBut_mxStarts hu hkeptRegs, fun b hb => ?_, fun i j hi hj => ?_, fun hinit k _ => ?_, fun hinit k => ?_⟩
  · have hkeep := hu.kept
    rw [hall] at hkeep
    rw [hkeep]
  · have hb' := hkept b hb
    simp only [sramGet, hu.sram] at *
    rw [hb', hsram]
  · have hr := hread hi hj
    simp only [sramRead, sramGet, hu.sram] at *
    exact hr
  · exact (hslots k).trans (hrecslots hinit k)
  · rw [hslots k, hreckeep hinit]

end Sys2Proof.Machine
end

section
/-!
SUPPORT. The rows that an MDRAIN writes (R212, R213): they lie in memories of the partition, so that writing them changes those memories and
nothing else.
-/

open Sys2Proof Sys2Proof.Machine Sys2Proof.Claims

namespace Sys2Proof.Machine

/-! ### Writes to memories of the partition -/

/-- A memory of the package: no window and no other node. -/
def Space.inMemory : Space → Bool
  | .win .. | .remote .. => false
  | _ => true

/-- From s to u only bytes of memories have changed. -/
def MemOnly (s u : State) : Prop := u = { s with sram := u.sram, hbm := u.hbm }

namespace MemOnly

theorem refl (s : State) : MemOnly s s := rfl

theorem trans {s u v : State} (h : MemOnly s u) (h' : MemOnly u v) : MemOnly s v := by
  unfold MemOnly at *
  rw [h] at h'
  exact h'

section
variable {s u : State} (h : MemOnly s u)
include h

theorem regs : u.regs = s.regs := by rw [h]
theorem tiles : u.tiles = s.tiles := by rw [h]

theorem partsKept : PartsKept s u := ⟨by rw [h], fun _ _ => rd_of_regs h.regs ..⟩

/-- Where an address lies is a matter of registers. -/
theorem devSpace (p a : Nat) : devSpace u p a = devSpace s p a := by
  rw [h]
  rfl

end

end MemOnly

theorem inMemory_plus (x : Space) (n : Nat) : (x.plus n).inMemory = x.inMemory := by cases x <;> rfl

theorem memOnly_writeBlock {s s' : State} {raw : Bool} {k o : Nat} {bs : List Byte}
    (h : (if raw then .ok (hbmWrite s (hbmKey k o) bs) else match blockPut s k o bs with | some s => .ok s | none => .error checksumBad :
      Except Refuse State) = .ok s') : MemOnly s s' := by
  split at h
  · injection h with h
    exact h ▸ rfl
  · split at h
    · next hput =>
      injection h with h
      subst h
      have hframe := blockPut_frame hput
      unfold MemOnly
      rw [hframe]
    · exact nomatch h

theorem memOnly_writePiece {s s' : State} {p unit msg d : Nat} {x : Space} {bs : List Byte} (hx : x.inMemory = true)
    (h : writePiece s p x unit msg d bs = .ok s') : MemOnly s s' := by
  have hplus := (inMemory_plus x d).trans hx
  unfold writePiece at h
  split at h
  · exact memOnly_writeBlock h
  · exact memOnly_writeBlock h
  · injection h with h
    exact h ▸ rfl
  · injection h with h
    exact h ▸ rfl
  · next hwin =>
    rw [hwin] at hplus
    exact nomatch hplus
  · next hremote =>
    rw [hremote] at hplus
    exact nomatch hplus

theorem memOnly_writePieces {p unit msg : Nat} {x : Space} {bs : List Byte} (hx : x.inMemory = true) (l : List (Nat × Nat)) (s : State) :
    MemOnly s (writePieces s p x unit msg bs l).1 := by
  induction l generalizing s with
  | nil => exact .refl s
  | cons y l ih =>
    unfold writePieces
    split
    · exact .refl s
    · next h => exact (memOnly_writePiece hx h).trans (ih _)

theorem memOnly_devWrite (s : State) (p : Nat) {x : Space} (hx : x.inMemory = true) (bs : List Byte) (unit msg : Nat) :
    MemOnly s (devWrite s p x bs unit msg).1 := memOnly_writePieces hx _ s

theorem memOnly_writeRuns {p unit msg : Nat} {runs : List (Nat × List Byte)} {s : State}
    (h : ∀ x ∈ runs, (devSpace s p x.1).inMemory = true) : MemOnly s (writeRuns s p runs unit msg).1 := by
  induction runs generalizing s with
  | nil => exact .refl s
  | cons x runs ih =>
    have hwrite := memOnly_devWrite s p (h x List.mem_cons_self) x.2 unit msg
    simp only [writeRuns]
    split
    · next hres => rwa [hres] at hwrite
    · next hres =>
      rw [hres] at hwrite
      exact hwrite.trans (ih fun y hy => (congrArg _ (hwrite.devSpace ..)).trans (h y (List.mem_cons_of_mem _ hy)))

/-! ### The destination (R271) -/

/-- An address of a region that the drain writes names no window and no other node. -/
theorem inMemory_of_drainRegion (s : State) (p : Nat) {a : Nat} (h : drainRegion a = true) : (devSpace s p a).inMemory = true := by
  simp only [drainRegion, Bool.or_eq_true, beq_iff_eq] at h
  have hparse : ((parseDev a).getD (.sp 0 0)).inMemory = true := by
    unfold parseDev
    rcases h with ((h | h) | h) | h
    all_goals
      simp only [h]
      split <;> rfl
  unfold devSpace
  cases hx : (parseDev a).getD (.sp 0 0) with
  | win w o | remote raw nd k o =>
    rw [hx] at hparse
    exact nomatch hparse
  | _ => rfl

theorem parseDev_of_checkDev {s : State} {p a n : Nat} {write : Bool} (h : checkDev s p a n write = none) : (parseDev a).isSome = true := by
  cases hparse : parseDev a with
  | none =>
    simp only [checkDev, hparse, Option.map_none] at h
    exact nomatch h
  | some x => rfl

/-- The rows of a good destination lie in the region of the first. -/
theorem drainRegion_row {a d : Nat} (hregion : drainRegion a = true) (hparse : (parseDev a).isSome = true) (hd : d < 2 ^ 28) :
    drainRegion (a + d) = true := by
  simp only [drainRegion, Bool.or_eq_true, beq_iff_eq] at hregion ⊢
  have hfields (c : Prop) [Decidable c] (x : Space) (h : (if c then some x else none).isSome = true) : c := by
    by_contra hc
    rw [if_neg hc] at h
    exact nomatch h
  unfold parseDev at hparse
  rcases hregion with ((h | h) | h) | h
  all_goals
    simp only [h] at hparse
    have := hfields _ _ hparse
    simp only [bitsOf] at this
    omega

end Sys2Proof.Machine
end

section
/-! SUPPORT. MDRAIN and MTLOAD (R201, R202, R206, R211 to R213): what a good command leaves. -/

open Sys2Proof Sys2Proof.Machine Sys2Proof.Claims

namespace Sys2Proof.Machine

/-! ### MDRAIN -/

theorem exec_mdrain (t : Tile) (deferred : Bool) (s : State) : exec (.mdrain t deferred .none) s
    = .next (mxRow s t 2 deferred .none (startDrain t deferred) (fun _ c => drainSpans (drainOf c))) := rfl

theorem pickRefuse_none {l : List (Option Refuse)} (h : ∀ x ∈ l, x = none) : pickRefuse l = none := by
  have hbad : ¬ l.contains (some badDesc) = true := fun hc => nomatch h _ (List.contains_iff_mem.1 hc)
  rw [pickRefuse, if_neg hbad]
  induction l with
  | nil => rfl
  | cons x l ih =>
    obtain rfl := h x List.mem_cons_self
    exact ih (fun y hy => h y (List.mem_cons_of_mem _ hy)) fun hc => nomatch h _ (List.mem_cons_of_mem _ (List.contains_iff_mem.1 hc))

/-- Every row of a drain may be written: its address is good, and no traffic generator runs on its stacks. -/
def RowsGood (s : State) (p : Nat) (d : DrainCmd) : Prop :=
  ∀ i, i < d.m → checkDev s p (d.dst + i * d.stride) (outSize d.ofmt * d.n) true = none
    ∧ devTgBusy s (devSpace s p (d.dst + i * d.stride)) (outSize d.ofmt * d.n) = false

section
variable {s : State} {p t : Nat} {d : DrainCmd}

theorem mem_drainSpans {x : Nat × Nat} (h : x ∈ drainSpans d) : ∃ i, i < d.m ∧ x = (d.dst + i * d.stride, outSize d.ofmt * d.n) := by
  obtain ⟨i, hi, rfl⟩ := List.mem_map.1 h
  exact ⟨i, List.mem_range.1 hi, rfl⟩

theorem drainRefuse_none {deferred : Bool} (hbad : drainBad s t d = false) (hrows : RowsGood s (partOfTile s t) d)
    (hslot : drainSlotBad s t deferred d = false) : drainRefuse s t deferred d = none := by
  have hchecks : pickRefuse ((drainSpans d).map fun (a, n) => checkDev s (partOfTile s t) a n true) = none :=
    pickRefuse_none fun x hx => by
      obtain ⟨y, hy, rfl⟩ := List.mem_map.1 hx
      obtain ⟨i, hi, rfl⟩ := mem_drainSpans hy
      exact (hrows i hi).1
  simp only [drainRefuse, hbad, hchecks, hslot, Bool.false_eq_true, if_false, checkIf]

theorem drainWaits_false (deferred : Bool) (hrows : RowsGood s (partOfTile s t) d) : drainWaits s t deferred d = false := by
  have hidle : (drainSpans d).any (fun (a, n) => devTgBusy s (devSpace s (partOfTile s t) a) n) = false :=
    List.any_eq_false.2 fun x hx => by
      obtain ⟨i, hi, rfl⟩ := mem_drainSpans hx
      simp [(hrows i hi).2]
  rw [drainWaits, hidle, Bool.and_false]

variable (hregion : ∀ i, i < d.m → drainRegion (d.dst + i * d.stride) = true)
include hregion

theorem memOnly_drainAdd (s0 : State) (is : List Nat) (his : ∀ i ∈ is, i < d.m) (s : State) : MemOnly s (drainAdd s0 t p d is s).1 := by
  induction is generalizing s with
  | nil => exact .refl s
  | cons i is ih =>
    have hwrite (old : List Byte) := memOnly_devWrite s p (inMemory_of_drainRegion s p (hregion i (his i List.mem_cons_self)))
      (drainRow s0 t d old i) srcTransport 0
    unfold drainAdd
    dsimp only
    split
    · exact .refl s
    · next old _ =>
      split
      · exact .refl s
      · next hres =>
        have hrow := hwrite old
        rw [hres] at hrow
        exact hrow.trans (ih (fun j hj => his j (List.mem_cons_of_mem _ hj)) _)

/-- A drain whose rows lie in memories of the partition writes these memories alone. -/
theorem memOnly_drainRows (s0 s : State) : MemOnly s (drainRows s0 t p d (List.range d.m) s).1 := by
  unfold drainRows
  split
  · exact memOnly_drainAdd hregion s0 _ (fun i hi => List.mem_range.1 hi) s
  · refine memOnly_writeRuns fun x hx => ?_
    obtain ⟨y, hy, he⟩ := mem_joinRows hx
    obtain ⟨i, hi, rfl⟩ := List.mem_map.1 hy
    exact he ▸ inMemory_of_drainRegion s p (hregion i (List.mem_range.1 hi))

end

section
variable {s : State} {t : Tile} {deferred : Bool} {e : QEntry} {d : DrainCmd} (hm : MxMayStart s t deferred 2 e) (hd : drainOf e.cmd = d)
  (hbad : drainBad s t d = false) (hrows : RowsGood s (partOfTile s t) d)
  (hslot : slotBad s t d.acc (!(slotRec s t d.acc).fp16) deferred = false) (hused : (slotRec s t d.acc).state ≠ 0)

include hd hbad hrows in
/-- Every row of a good drain lies in a region that a drain writes. -/
theorem drainRegion_rows : ∀ i, i < d.m → drainRegion (d.dst + i * d.stride) = true := fun i hi => by
  have hfirst : drainRegion d.dst = true ∧ (parseDev d.dst).isSome = true := by
    have hrow := (hrows 0 (by omega)).1
    rw [Nat.zero_mul, Nat.add_zero] at hrow
    simp only [drainBad, Bool.or_eq_false_iff, Bool.not_eq_false'] at hbad
    exact ⟨hbad.2, parseDev_of_checkDev hrow⟩
  have hstride : d.stride < 2 ^ 20 := hd ▸ Nat.mod_lt _ (by decide)
  have hcount : d.m < 2 ^ 8 := hd ▸ Nat.mod_lt _ (by decide)
  have hprod : i * d.stride ≤ 2 ^ 8 * 2 ^ 20 := Nat.mul_le_mul (by omega) (by omega)
  have hdist : i * d.stride < 2 ^ 28 := by
    have := Nat.mul_le_mul (show i ≤ 2 ^ 8 - 1 by omega) (show d.stride ≤ 2 ^ 20 by omega)
    omega
  exact drainRegion_row hfirst.1 hfirst.2 hdist

include hm hd hbad hrows hslot hused

/-- A good drain starts and has written what its rows write; one that a failing block ends has written nothing (R213, log 31). -/
theorem mdrain_starts : ∃ u s' r, exec (.mdrain t deferred .none) s = .next u ∧ MxStarts s' u t (if deferred then 4 else 0) r ∧ MemOnly s s'
    ∧ r.cmd = e.cmd ∧ r.finished = true
    ∧ (∀ v, drainRows s t (partOfTile s t) d (List.range d.m) s = (v, none) → s' = v ∧ DoneOk r)
    ∧ (∀ v x, drainRows s t (partOfTile s t) d (List.range d.m) s = (v, some x) → r.status = x.status ∧ r.fault = x.fault) := by
  have hslotBad : drainSlotBad s t deferred d = false := by simp [drainSlotBad, hslot, hused]
  have hrefuse := drainRefuse_none hbad hrows hslotBad
  have hwaits := drainWaits_false (t := t) deferred hrows
  have hmem := memOnly_drainRows (t := t) (p := partOfTile s t) (drainRegion_rows hd hbad hrows) s s
  have hstart {s' : State} {r : RunCmd} (hbody : startDrain t deferred s e = some (s', r)) (h : MemOnly s s') :=
    mxRow_starts hm (by decide) (fun _ => hd ▸ hwaits) hbody h.partsKept (touch := fun _ c => drainSpans (drainOf c))
  generalize hres : drainRows s t (partOfTile s t) d (List.range d.m) s = res at hmem ⊢
  obtain ⟨v, f⟩ := res
  cases f with
  | none =>
    have hbody : ∃ r, startDrain t deferred s e = some (v, r) ∧ r.cmd = e.cmd ∧ DoneOk r := by
      simp only [startDrain, hd, hrefuse, hwaits, hres, Bool.false_eq_true, if_false]
      exact ⟨_, rfl, rfl, rfl, rfl, rfl⟩
    obtain ⟨r, hbody, hcmd, hok⟩ := hbody
    obtain ⟨u, hrow, hu⟩ := hstart hbody hmem
    refine ⟨u, v, r, (exec_mdrain ..).trans (congrArg _ hrow), hu, hmem, hcmd, hok.1, fun w hw => ?_, fun w x hw => nomatch hw⟩
    injection hw with hv
    exact ⟨hv, hok⟩
  | some x =>
    have hbody : startDrain t deferred s e = some (s, refuseCmd e x) := by
      simp only [startDrain, hd, hrefuse, hwaits, hres, Bool.false_eq_true, if_false]
    obtain ⟨u, hrow, hu⟩ := hstart hbody (.refl s)
    refine ⟨u, s, refuseCmd e x, (exec_mdrain ..).trans (congrArg _ hrow), hu, .refl s, rfl, rfl, fun w hw => (nomatch hw), fun w y hw => ?_⟩
    injection hw with _ hx
    obtain rfl := Option.some.inj hx
    exact ⟨rfl, rfl⟩

end

/-! ### One row to a scratchpad -/

/-- A row of elements of one size is its elements written in turn. -/
theorem sramWrite_flatMap {z : Nat} {f : Nat → List Byte} (hlen : ∀ j, (f j).length = z) (n : Nat) (s : State) (a : Nat) :
    sramWrite s a ((List.range n).flatMap f) = writeElems a z id f (List.range n) s := by
  induction n with
  | zero => rfl
  | succ n ih =>
    have hall : ((List.range n).flatMap f).length = z * n := by
      rw [List.length_flatMap, List.map_congr_left fun j _ => hlen j, List.map_const', List.length_range, List.sum_replicate, smul_eq_mul,
        Nat.mul_comm]
    rw [List.range_succ, List.flatMap_append, List.flatMap_singleton, sramWrite_append, ih, hall, writeElems, writeElems, List.foldl_append]
    rfl

theorem drainRow_first (s : State) (t : Nat) (d : DrainCmd) (i : Nat) :
    drainRow s t d [] i = (List.range d.n).flatMap fun j => leBytes (outSize d.ofmt) (drainElem s t d 0 i j) := by
  simp only [drainRow, List.drop_nil, List.take_nil, leNat]

/-- A drain of one row to a scratchpad writes that row. -/
theorem drainRows_one {s : State} {p t : Nat} {d : DrainCmd} {x o : Nat} (hm : d.m = 1) (hadd : d.addIn = false)
    (hdst : devSpace s p d.dst = .sp x o) :
    drainRows s t p d (List.range d.m) s = (sramWrite s (spKey x o) (drainRow s t d [] 0), none) := by
  have hrow : joinRows s p ((List.range d.m).map fun i => (d.dst + i * d.stride, drainRow s t d [] i)) = [(d.dst, drainRow s t d [] 0)] := by
    rw [hm]
    simp only [List.range_one, List.map_cons, List.map_nil, joinRows, Nat.zero_mul, Nat.add_zero]
  have hwrite := devWrite_chip (x := devSpace s p d.dst) (k := spKey x o) (by rw [hdst]; rfl) s p srcTransport 0 (drainRow s t d [] 0)
  rw [drainRows, if_neg (by rw [hadd]; exact Bool.false_ne_true), hrow]
  simp only [writeRuns, hwrite]

theorem drained_row {s : State} (hwf : Memory.wf s.sram = true) (t a : Nat) (d : DrainCmd) :
    SramKept s (sramWrite s a (drainRow s t d [] 0)) a (outSize d.ofmt * d.n)
      ∧ ∀ j, j < d.n → sramRead (sramWrite s a (drainRow s t d [] 0)) (a + outSize d.ofmt * j) (outSize d.ofmt)
          = leBytes (outSize d.ofmt) (drainElem s t d 0 0 j) := by
  have hlen (j : Nat) : (leBytes (outSize d.ofmt) (drainElem s t d 0 0 j)).length = outSize d.ofmt := length_leBytes ..
  rw [drainRow_first, sramWrite_flatMap hlen]
  exact ⟨sramKept_writeElems hlen (fun j hj => List.mem_range.1 hj) s,
    fun j hj => sramRead_writeElems (idx := id) hlen List.nodup_range (fun _ _ _ _ h => h) hwf (List.mem_range.2 hj)⟩

/-! ### MTLOAD -/

theorem exec_mtload (t : Tile) (deferred : Bool) (s : State) :
    exec (.mtload t deferred .none) s = .next (mxRow s t 3 deferred .none (startMtload t)) := rfl

theorem length_mtloadBytes (s : State) (t : Nat) (o : Operand) (sideB : Bool) (w k : Nat) :
    (mtloadBytes s t o sideB w k).length = k * o.width * w / 8 := by
  simp only [mtloadBytes, List.length_map, List.length_range]

theorem startMtload_good {s : State} {t : Nat} {e : QEntry} {m : MtloadCmd} (hcmd : mtloadOf e.cmd = m) (hbad : mtloadBad m = false) :
    ∃ r, startMtload t s e = some (sramWrite s (resKey t m.off) (mtloadBytes s t m.o m.sideB (elemBits m.fmt) m.k), r) ∧ r.cmd = e.cmd
      ∧ DoneOk r := by
  refine ⟨{ okCmd e with undef := [(false, resKey t m.off, mtloadLen m)] }, ?_, rfl, rfl, rfl, rfl⟩
  simp only [startMtload, hcmd, hbad, Bool.false_eq_true, if_false]

end Sys2Proof.Machine
end

section
/-! SUPPORT. MBIND and MSLOT (R68, R206, R215, R216, R218): what bindings, product tables and slots are when the command has started. -/

open Sys2Proof Sys2Proof.Machine Sys2Proof.Claims

namespace Sys2Proof.Machine

/-! ### The fields of a binding (R215) -/

/-- Binding i of a side holds these values: valid, format, offset, identity. -/
structure Bound (u : State) (t side i : Nat) (valid : Bool) (fmt x id : Nat) : Prop where
  valid : cbValid u t side i = valid
  fmt   : cbFmt u t side i = fmt
  off   : rd u 4 (if side = 0 then R.MX_CB_A_X else R.MX_CB_B_X) t i = x
  ident : rd u 4 (if side = 0 then R.MX_CB_A_CB_ID else R.MX_CB_B_CB_ID) t i = id

/-- The fields of a binding, written. -/
def bindRegs (s : State) (t side i : Nat) (valid : Bool) (fmt x id : Nat) : State :=
  wr (wr (wr (wrb s 4 (if side = 0 then R.MX_CB_A_VALID else R.MX_CB_B_VALID) valid t i)
    4 (if side = 0 then R.MX_CB_A_CB_FMT else R.MX_CB_B_CB_FMT) fmt t i)
    4 (if side = 0 then R.MX_CB_A_X else R.MX_CB_B_X) x t i)
    4 (if side = 0 then R.MX_CB_A_CB_ID else R.MX_CB_B_CB_ID) id t i

theorem setBinding_eq (s : State) (t side i : Nat) (valid : Bool) (fmt x id : Nat) (k : List (BitVec 12)) :
    setBinding s t side i valid fmt x id k
      = rebuildTable (setTile (bindRegs s t side i valid fmt x id) t { tile s t with k12 := mapSet (tile s t).k12 (4 * side + i) k }) t i := by
  unfold setBinding bindRegs
  by_cases h : side = 0
  all_goals
    simp only [h, if_true, if_false]
    rfl

section
variable {s : State} {t side i : Nat} {valid : Bool} {fmt x id : Nat}

theorem bindRegs_frame : bindRegs s t side i valid fmt x id = { s with regs := (bindRegs s t side i valid fmt x id).regs } := rfl

theorem bound_bindRegs (hfmt : fmt < 16) (hx : x < 512) (hid : id < 2 ^ 32) :
    Bound (bindRegs s t side i valid fmt x id) t side i valid fmt x id := by
  unfold bindRegs
  by_cases h : side = 0
  all_goals
    simp only [h, if_true, if_false]
    refine ⟨?_, ?_, ?_, ?_⟩
    · simp only [cbValid, if_true, if_false, h, rdb, wrb]
      rw [rd_wr_ne, rd_wr_ne, rd_wr_ne, ← rdb, rdb_wr_same _ _ rfl]
      all_goals simp [fieldKey, R.MX_CB_A_VALID, R.MX_CB_A_CB_FMT, R.MX_CB_A_X, R.MX_CB_A_CB_ID, R.MX_CB_B_VALID, R.MX_CB_B_CB_FMT,
        R.MX_CB_B_X, R.MX_CB_B_CB_ID]
    · simp only [cbFmt, if_true, if_false, h]
      rw [rd_wr_ne, rd_wr_ne, rd_wr_same]
      · exact Nat.mod_eq_of_lt hfmt
      all_goals simp [fieldKey, R.MX_CB_A_CB_FMT, R.MX_CB_A_X, R.MX_CB_A_CB_ID, R.MX_CB_B_CB_FMT, R.MX_CB_B_X, R.MX_CB_B_CB_ID]
    · simp only [if_true, if_false, h]
      rw [rd_wr_ne, rd_wr_same]
      · exact Nat.mod_eq_of_lt hx
      all_goals simp [fieldKey, R.MX_CB_A_X, R.MX_CB_A_CB_ID, R.MX_CB_B_X, R.MX_CB_B_CB_ID]
    · simp only [if_true, if_false, h]
      rw [rd_wr_same]
      exact Nat.mod_eq_of_lt hid

/-- The places of the fields of the bindings, in the window of their tile. -/
theorem cbField_place {f : Reg} (hf : f ∈ [R.MX_CB_A_VALID, R.MX_CB_A_CB_FMT, R.MX_CB_A_X, R.MX_CB_A_CB_ID, R.MX_CB_B_VALID, R.MX_CB_B_CB_FMT,
    R.MX_CB_B_X, R.MX_CB_B_CB_ID]) (t : Nat) {i : Nat} (hi : i < 4) :
    slotHi t ≤ fieldKey f 4 t i ∧ winLo t ≤ fieldKey f 4 t i ∧ fieldKey f 4 t i < winHi t := by
  have hplace : ∀ f ∈ [R.MX_CB_A_VALID, R.MX_CB_A_CB_FMT, R.MX_CB_A_X, R.MX_CB_A_CB_ID, R.MX_CB_B_VALID, R.MX_CB_B_CB_FMT,
      R.MX_CB_B_X, R.MX_CB_B_CB_ID], f.pkg = true ∧ (f.base = 0x800200 ∨ f.base = 0x800220) ∧ f.stride = 0x1000 ∧ f.stride2 = 8 ∧ f.lsb < 64 := by
    decide
  obtain ⟨hp, hb, hs, hs2, hl⟩ := hplace f hf
  simp only [slotHi, winLo, winHi, fieldKey, R.MX_SLOT_INFO_STATE, hp, hs, hs2, if_true]
  omega

theorem regsKeptBut_bindRegs (hi : i < 4) : RegsKeptBut s (bindRegs s t side i valid fmt x id) (winLo t) (winHi t) [] := by
  have hwr {f : Reg} (hf : f ∈ [R.MX_CB_A_VALID, R.MX_CB_A_CB_FMT, R.MX_CB_A_X, R.MX_CB_A_CB_ID, R.MX_CB_B_VALID, R.MX_CB_B_CB_FMT,
      R.MX_CB_B_X, R.MX_CB_B_CB_ID]) (s : State) (v : Nat) : RegsKeptBut s (wr s 4 f v t i) (winLo t) (winHi t) [] := by
    obtain ⟨-, hlo, hhi⟩ := cbField_place hf t hi
    exact regsKeptBut_wr _ _ _ _ _ _ hlo hhi
  unfold bindRegs
  refine regsKeptBut_trans (regsKeptBut_trans (regsKeptBut_trans (hwr ?_ _ _) (hwr ?_ _ _)) (hwr ?_ _ _)) (hwr ?_ _ _)
  all_goals split <;> decide

/-- The bindings lie behind the other registers of the engine. -/
theorem Bound.of_regsKept {u v : State} (h : Bound u t side i valid fmt x id) {ks : List Nat} (hk : RegsKept u v ks)
    (hks : ∀ k ∈ ks, k < slotHi t) (hi : i < 4) : Bound v t side i valid fmt x id := by
  have hrd {f : Reg} (hf : f ∈ [R.MX_CB_A_VALID, R.MX_CB_A_CB_FMT, R.MX_CB_A_X, R.MX_CB_A_CB_ID, R.MX_CB_B_VALID, R.MX_CB_B_CB_FMT,
      R.MX_CB_B_X, R.MX_CB_B_CB_ID]) : rd v 4 f t i = rd u 4 f t i :=
    hk.rd _ _ _ _ fun hin => by
      have := hks _ hin
      have := (cbField_place hf t hi).1
      omega
  obtain ⟨hv, hf, ho, hid⟩ := h
  refine ⟨Eq.trans ?_ hv, Eq.trans (hrd ?_) hf, Eq.trans (hrd ?_) ho, Eq.trans (hrd ?_) hid⟩
  · rw [cbValid, cbValid, rdb, rdb, hrd]
    split <;> decide
  all_goals split <;> decide

/-- The binding as it stands. -/
theorem bound_self (u : State) (t side i : Nat) : Bound u t side i (cbValid u t side i) (cbFmt u t side i)
    (rd u 4 (if side = 0 then R.MX_CB_A_X else R.MX_CB_B_X) t i) (rd u 4 (if side = 0 then R.MX_CB_A_CB_ID else R.MX_CB_B_CB_ID) t i) :=
  ⟨rfl, rfl, rfl, rfl⟩

end

/-! ### The product table (R72, R216) -/

/-- The bit of a table, cleared or set, is read back. -/
theorem bitAt_setBit (old : Nat) {i : Nat} (hi : i < 4) (v : Bool) :
    bitAt ((old - (if bitAt old i then 2 ^ i else 0) + if v then 2 ^ i else 0) % 2 ^ 4) i = v := by
  have hbit (x : Nat) : bitAt x i = decide (x / 2 ^ i % 2 = 1) := rfl
  simp only [hbit, decide_eq_true_eq]
  have hcases : i = 0 ∨ i = 1 ∨ i = 2 ∨ i = 3 := by omega
  cases v
  all_goals
    simp only [Bool.false_eq_true, if_true, if_false, decide_eq_true_eq, decide_eq_false_iff_not]
    rcases hcases with rfl | rfl | rfl | rfl
    all_goals
      split <;> omega

theorem ptValid_setPt (s : State) (t : Nat) {i : Nat} (hi : i < 4) (v : Bool) : ptValid (setPt s t i v) t i = v := by
  simp only [ptValid, setPt, rd_wr_same]
  exact bitAt_setBit _ hi v

/-- The product table of index i is valid when both bindings are valid CB4 (R216). -/
def ptOk (s : State) (t i : Nat) : Bool := cbValid s t 0 i && cbFmt s t 0 i == 4 && cbValid s t 1 i && cbFmt s t 1 i == 4

theorem ptOk_iff (s : State) (t i : Nat) : ptOk s t i = true ↔ ∀ side, side < 2 → cbValid s t side i = true ∧ cbFmt s t side i = 4 := by
  simp only [ptOk, Bool.and_eq_true, beq_iff_eq]
  constructor
  · rintro ⟨⟨⟨hv, hf⟩, hv'⟩, hf'⟩ side hside
    obtain rfl | rfl : side = 0 ∨ side = 1 := by omega
    · exact ⟨hv, hf⟩
    · exact ⟨hv', hf'⟩
  · intro h
    exact ⟨⟨h 0 (by decide), (h 1 (by decide)).1⟩, (h 1 (by decide)).2⟩

/-- What building a table anew leaves: its bit in the register, its products in the tile. -/
structure Rebuilt (s u : State) (t i : Nat) : Prop where
  frame  : u = { s with regs := u.regs, tiles := u.tiles }
  regs   : RegsKept s u [fieldKey R.MX_PT_VALID_PT 4 t 0]
  others : TilesKept s u t
  own    : tile u t = { tile s t with products := (tile u t).products }
  bit    : ptValid u t i = ptOk s t i

theorem rebuildTable_rebuilt (s : State) (t : Nat) {i : Nat} (hi : i < 4) : Rebuilt s (rebuildTable s t i) t i := by
  have hregs : RegsKept s (setPt s t i (ptOk s t i)) [fieldKey R.MX_PT_VALID_PT 4 t 0] := regsKept_wr _ _ _ _ _ _
  have hbit := ptValid_setPt s t hi (ptOk s t i)
  unfold rebuildTable
  dsimp only
  split
  · exact ⟨rfl, hregs, fun t' hne => tile_setTile_ne _ _ (Ne.symm hne), by rw [tile_setTile_same]; rfl, hbit⟩
  · exact ⟨rfl, hregs, fun _ _ => rfl, rfl, hbit⟩

/-! ### MBIND -/

theorem exec_mbind (t : Tile) (deferred : Bool) (s : State) :
    exec (.mbind t deferred .none) s = .next (mxRow s t 4 deferred .none (startMbind t)) := rfl

/-- What replacing a binding leaves (R215): its fields and entries, and the product table of its index. -/
structure Rebound (s u : State) (t side i : Nat) (valid : Bool) (fmt x id : Nat) (k : List (BitVec 12)) : Prop where
  frame   : u = { s with regs := u.regs, tiles := u.tiles }
  regs    : RegsKeptBut s u (winLo t) (winHi t) []
  others  : TilesKept s u t
  queues  : (tile u t).queues = (tile s t).queues
  entries : mapGet [] (tile u t).k12 (4 * side + i) = k
  bound   : Bound u t side i valid fmt x id
  table   : ptValid u t i = ptOk u t i

theorem ptKey_place (t : Nat) : fieldKey R.MX_PT_VALID_PT 4 t 0 < slotHi t ∧ winLo t ≤ fieldKey R.MX_PT_VALID_PT 4 t 0
    ∧ fieldKey R.MX_PT_VALID_PT 4 t 0 < winHi t := by
  simp only [slotHi, winLo, winHi, fieldKey, R.MX_SLOT_INFO_STATE, R.MX_PT_VALID_PT, if_true]
  omega

theorem defPosKey_place (t : Nat) : fieldKey R.MX_STATUS_DEF_POS 4 t 0 < slotHi t ∧ winLo t ≤ fieldKey R.MX_STATUS_DEF_POS 4 t 0
    ∧ fieldKey R.MX_STATUS_DEF_POS 4 t 0 < winHi t ∧ fieldKey R.MX_STATUS_DEF_POS 4 t 0 ≠ fieldKey R.MX_PT_VALID_PT 4 t 0 := by
  simp only [slotHi, winLo, winHi, fieldKey, R.MX_SLOT_INFO_STATE, R.MX_STATUS_DEF_POS, R.MX_PT_VALID_PT, if_true]
  omega

/-- Registers before the bindings have no say in whether a product table is valid. -/
theorem ptOk_of_regsKept {s u : State} {t i : Nat} (hi : i < 4) {ks : List Nat} (h : RegsKept s u ks) (hks : ∀ k ∈ ks, k < slotHi t) :
    ptOk u t i = ptOk s t i := by
  have hside (side : Nat) := (bound_self s t side i).of_regsKept h hks hi
  simp only [ptOk, (hside 0).valid, (hside 0).fmt, (hside 1).valid, (hside 1).fmt]

theorem setBinding_rebound (s : State) (t side : Nat) {i : Nat} (hi : i < 4) (valid : Bool) {fmt x id : Nat} (k : List (BitVec 12))
    (hfmt : fmt < 16) (hx : x < 512) (hid : id < 2 ^ 32) : Rebound s (setBinding s t side i valid fmt x id k) t side i valid fmt x id k := by
  rw [setBinding_eq]
  have hbind : RegsKeptBut s (bindRegs s t side i valid fmt x id) (winLo t) (winHi t) [] := regsKeptBut_bindRegs hi
  have hbound : Bound (bindRegs s t side i valid fmt x id) t side i valid fmt x id := bound_bindRegs hfmt hx hid
  obtain ⟨hframe, hregs, hothers, hown, hbit⟩ := rebuildTable_rebuilt
    (setTile (bindRegs s t side i valid fmt x id) t { tile s t with k12 := mapSet (tile s t).k12 (4 * side + i) k }) t hi
  generalize rebuildTable _ t i = u at *
  rw [tile_setTile_same] at hown
  have hplace : ∀ y ∈ [fieldKey R.MX_PT_VALID_PT 4 t 0], y < slotHi t := fun y hy => List.mem_singleton.1 hy ▸ (ptKey_place t).1
  refine ⟨?_, ?_, fun t' hne => (hothers t' hne).trans (tile_setTile_ne _ _ (Ne.symm hne)), by rw [hown], ?_, ?_,
    hbit.trans (ptOk_of_regsKept hi hregs hplace).symm⟩
  · rw [hframe, bindRegs_frame]
    rfl
  · exact regsKeptBut_trans (u := bindRegs s t side i valid fmt x id) hbind
      (regsKeptBut_absorb hregs (fun y hy => List.mem_singleton.1 hy ▸ (ptKey_place t).2) [])
  · rw [hown]
    exact mapGet_mapSet_same ..
  · exact Bound.of_regsKept hbound hregs hplace hi

/-- The entries, format and identity of a codebook that checks (R68). -/
theorem checkCodebook_ok {bytes : List Byte} {fmt id : Nat} {entries : List (BitVec 16)} (h : checkCodebook bytes = .ok (fmt, id, entries)) :
    fmt < 16 ∧ id < 2 ^ 32 := by
  unfold checkCodebook at h
  dsimp only at h
  split at h
  · exact nomatch h
  · split at h
    · exact nomatch h
    · next hgood =>
      simp only [Except.ok.injEq, Prod.mk.injEq] at h
      obtain ⟨rfl, rfl, -⟩ := h
      rw [Bool.not_eq_true, Bool.or_eq_false_iff] at hgood
      obtain ⟨hform, -⟩ := hgood
      simp only [Bool.not_eq_false', Bool.or_eq_true, Bool.and_eq_true, beq_iff_eq] at hform
      refine ⟨by omega, Nat.lt_of_lt_of_le (leNat_lt _) ?_⟩
      exact (Nat.pow_le_pow_right (by decide) (by rw [List.length_take]; exact Nat.min_le_left ..)).trans (by decide : 256 ^ 4 ≤ 2 ^ 32)

/-- Side, index and object of an MBIND (R215). -/
def mbindSide (c : Cmd) : Nat := cbits c 8 16 1
def mbindIndex (c : Cmd) : Nat := cbits c 8 17 2
def mbindObject (s : State) (t : Nat) (c : Cmd) : List Byte :=
  sramRead s (spKey t (64 * cbits c 8 0 16)) (16 + 2 * leNat (sramRead s (spKey t (64 * cbits c 8 0 16 + 2)) 2))

section
variable {s : State} {t : Nat} {e : QEntry} (hpad : cbits e.cmd 8 19 13 = 0) (htail : cbs e.cmd 12 20 = 0)
  (hfit : 64 * cbits e.cmd 8 0 16 + 16 + 2 * leNat (sramRead s (spKey t (64 * cbits e.cmd 8 0 16 + 2)) 2) ≤ 2 ^ 22)
include hpad htail hfit

theorem startMbind_eq : startMbind t s e = match checkCodebook (mbindObject s t e.cmd) with
    | .error r => some (setBinding s t (mbindSide e.cmd) (mbindIndex e.cmd) false 0 0 0 [], refuseCmd e r)
    | .ok (fmt, id, entries) => some (setBinding s t (mbindSide e.cmd) (mbindIndex e.cmd) true fmt (toBits 9 (k12Offset entries)) id
        (entries.map (k12Of (k12Offset entries))), okCmd e) := by
  simp only [startMbind, hpad, htail, ne_eq, not_true_eq_false, or_self, if_false, if_neg (Nat.not_lt.2 hfit)]
  rfl

end

/-! ### MSLOT (R206, R218) -/

theorem exec_mslot (t : Tile) (deferred : Bool) (s : State) :
    exec (.mslot t deferred) s = .next (mxRow s t 5 deferred .none (startMslot t deferred)) := rfl

/-- What OP makes of a slot's record: 1 frees it, 2 makes it LIVE. -/
def mslotRec (op : Nat) (r : SlotRec) : SlotRec := if op = 1 then ⟨0, false, 0, 0⟩ else { r with state := 1 }

/-- The slots that an MSLOT changes, one after another. -/
def mslotDone (s : State) (t first count op : Nat) : State :=
  (List.range count).foldl (fun s i => if op = 1 then freeSlot s t (first + i) else wr s 4 R.MX_SLOT_INFO_STATE 1 t (first + i)) s

theorem mslotDone_succ (s : State) (t first count op : Nat) : mslotDone s t first (count + 1) op
    = if op = 1 then freeSlot (mslotDone s t first count op) t (first + count)
      else wr (mslotDone s t first count op) 4 R.MX_SLOT_INFO_STATE 1 t (first + count) := by
  rw [mslotDone, List.range_succ, List.foldl_append]
  rfl

theorem slotRec_mslotDone (s : State) (t first count op k : Nat) : slotRec (mslotDone s t first count op) t k
    = if first ≤ k ∧ k < first + count then mslotRec op (slotRec s t k) else slotRec s t k := by
  induction count with
  | zero => rw [if_neg (by omega)]; rfl
  | succ count ih =>
    have hstep : slotRec (mslotDone s t first (count + 1) op) t k
        = if k = first + count then mslotRec op (slotRec (mslotDone s t first count op) t k)
          else slotRec (mslotDone s t first count op) t k := by
      rw [mslotDone_succ, mslotRec]
      split
      · exact slotRec_setSlot _ _ _ fits_free k
      · exact slotRec_wr_live _ _ _ k
    rw [hstep, ih]
    by_cases hk : k = first + count
    · rw [if_pos hk, if_neg (by omega), if_pos (by omega)]
    · rw [if_neg hk]
      exact if_congr (by omega) rfl rfl

theorem mslotDone_frame (s : State) (t first count op : Nat) :
    mslotDone s t first count op = { s with regs := (mslotDone s t first count op).regs } := by
  induction count with
  | zero => rfl
  | succ count ih =>
    refine regsFrame_trans ih ?_
    rw [mslotDone_succ]
    split
    · exact setSlot_frame ..
    · rfl

theorem regsKeptBut_mslotDone (s : State) (t first op : Nat) {count : Nat} (h : first + count ≤ 32) :
    RegsKeptBut s (mslotDone s t first count op) (slotLo t) (slotHi t) [] := by
  refine regsKeptBut_foldl (fun i hi s => ?_) s
  have hslot : first + i < 32 := by have := List.mem_range.1 hi; omega
  split
  · exact regsKeptBut_setSlot s t hslot _ _
  · obtain ⟨⟨hlo, hhi⟩, -⟩ := slotFields_in t hslot
    exact regsKeptBut_wr _ _ _ _ _ _ hlo hhi

theorem startMslot_good {s : State} {t : Nat} {deferred : Bool} {e : QEntry} (hfirst : cb e.cmd 8 ≤ 31) (hcount : 0 < cb e.cmd 9)
    (hlast : cb e.cmd 8 + cb e.cmd 9 ≤ 32) (hop : cb e.cmd 10 = 1 ∨ cb e.cmd 10 = 2) (htail : cbs e.cmd 11 21 = 0)
    (hslots : mslotBad s t deferred (cb e.cmd 8) (cb e.cmd 9) (cb e.cmd 10) = false) :
    startMslot t deferred s e = some (mslotDone s t (cb e.cmd 8) (cb e.cmd 9) (cb e.cmd 10), okCmd e) := by
  have hform : ¬ (31 < cb e.cmd 8 ∨ cb e.cmd 9 = 0 ∨ 32 < cb e.cmd 8 + cb e.cmd 9 ∨ cb e.cmd 10 = 0 ∨ 2 < cb e.cmd 10 ∨ cbs e.cmd 11 21 ≠ 0) := by
    omega
  simp only [startMslot, if_neg hform, hslots, Bool.false_eq_true, if_false, mslotDone]

end Sys2Proof.Machine
end

section
/-! The path, drain and slot commands of the matrix engine settled (R201, R202, R206, R212, R213, R215, R218). -/

open Sys2Proof Sys2Proof.Machine Sys2Proof.Claims

namespace Sys2Proof.Machine

section
variable {s : State} {t : Tile} {deferred : Bool} {e : QEntry}

/-- MTLOAD writes its slices into the resident region. -/
theorem mtload_results (hwf : Memory.wf s.sram = true) (hm : MxMayStart s t deferred 3 e) {m : MtloadCmd} (hcmd : mtloadOf e.cmd = m)
    (hbad : mtloadBad m = false) :
    ∃ u r, exec (.mtload t deferred .none) s = .next u ∧ Started s u t (if deferred then 4 else 0) e r ∧ DoneOk r ∧ QueuesOnly s u t
      ∧ u = { s with regs := u.regs, tiles := u.tiles, sram := u.sram } ∧ RegsKept s u [fieldKey R.MX_STATUS_DEF_POS 4 t 0]
      ∧ SramKept s u (resKey t m.off) (mtloadLen m)
      ∧ sramRead u (resKey t m.off) (mtloadLen m) = mtloadBytes s t m.o m.sideB (elemBits m.fmt) m.k := by
  obtain ⟨r, hbody, hr, hok⟩ := startMtload_good (s := s) (t := t) hcmd hbad
  have hlen : (mtloadBytes s t m.o m.sideB (elemBits m.fmt) m.k).length = mtloadLen m := length_mtloadBytes ..
  generalize mtloadBytes s t m.o m.sideB (elemBits m.fmt) m.k = bs at *
  obtain ⟨u, hrow, hu⟩ := mxRow_starts hm (by decide) (fun h => absurd h (by decide)) hbody ⟨rfl, fun _ _ => rfl⟩ (touch := fun _ _ => [])
  refine ⟨u, r, (exec_mtload ..).trans (congrArg _ hrow), hu.started hm.1.1 (fun _ => rfl) hr, hok, hu.queuesOnly rfl, ?_, hu.regs, ?_, ?_⟩
  · rw [hu.kept]
    rfl
  · rw [← hlen]
    exact fun b hb => (congrArg (fun m => (cellGet m b).getD 0) hu.sram).trans (sramKept_sramWrite s _ bs b hb)
  · rw [← hlen]
    refine Eq.trans ?_ (sramRead_sramWrite_same hwf (resKey t m.off) bs)
    simp only [sramRead, sramGet, hu.sram]

/-- An MBIND whose object lies in the scratchpad replaces its binding, and its status is what the object's check gives. -/
theorem mbind_starts (hm : MxMayStart s t deferred 4 e) (hpad : cbits e.cmd 8 19 13 = 0) (htail : cbs e.cmd 12 20 = 0)
    (hfit : 64 * cbits e.cmd 8 0 16 + 16 + 2 * leNat (sramRead s (spKey t (64 * cbits e.cmd 8 0 16 + 2)) 2) ≤ 2 ^ 22) :
    ∃ u s' r valid fmt x id k, exec (.mbind t deferred .none) s = .next u ∧ MxStarts s' u t (if deferred then 4 else 0) r ∧ r.cmd = e.cmd
      ∧ Rebound s s' t (mbindSide e.cmd) (mbindIndex e.cmd) valid fmt x id k
      ∧ (∀ f i l, checkCodebook (mbindObject s t e.cmd) = .ok (f, i, l) →
        DoneOk r ∧ valid = true ∧ fmt = f ∧ x = toBits 9 (k12Offset l) ∧ id = i ∧ k = l.map (k12Of (k12Offset l)))
      ∧ (∀ f, checkCodebook (mbindObject s t e.cmd) = .error f → r.status = f.status ∧ r.fault = f.fault ∧ valid = false) := by
  have hi : mbindIndex e.cmd < 4 := Nat.mod_lt _ (by decide)
  have hbody := startMbind_eq hpad htail hfit
  have hstart {s' : State} {r : RunCmd} {valid : Bool} {fmt x id : Nat} {k : List (BitVec 12)}
      (hb : startMbind t s e = some (s', r)) (h : Rebound s s' t (mbindSide e.cmd) (mbindIndex e.cmd) valid fmt x id k) :=
    mxRow_starts hm (by decide) (fun h => absurd h (by decide)) hb
      (partsKept_of_regsKeptBut (by rw [h.frame]) h.regs (by unfold winLo; omega) fun _ hk => absurd hk List.not_mem_nil)
      (touch := fun _ _ => [])
  generalize hcheck : checkCodebook (mbindObject s t e.cmd) = res at hbody ⊢
  rcases res with f | ⟨fmt, id, l⟩
  · have hrebound := setBinding_rebound s t (mbindSide e.cmd) hi false (fmt := 0) (x := 0) (id := 0) [] (by decide) (by decide) (by decide)
    obtain ⟨u, hrow, hu⟩ := hstart hbody hrebound
    refine ⟨u, _, _, _, _, _, _, _, (exec_mbind ..).trans (congrArg _ hrow), hu, rfl, hrebound, fun _ _ _ h => (nomatch h), fun g h => ?_⟩
    obtain rfl := Except.error.inj h
    exact ⟨rfl, rfl, rfl⟩
  · obtain ⟨hfmt, hid⟩ := checkCodebook_ok hcheck
    have hx : toBits 9 (k12Offset l) < 512 := by unfold toBits; omega
    have hrebound := setBinding_rebound s t (mbindSide e.cmd) hi true (l.map (k12Of (k12Offset l))) hfmt hx hid
    obtain ⟨u, hrow, hu⟩ := hstart hbody hrebound
    refine ⟨u, _, _, _, _, _, _, _, (exec_mbind ..).trans (congrArg _ hrow), hu, rfl, hrebound, fun _ _ _ h => ?_, fun _ h => (nomatch h)⟩
    obtain ⟨rfl, rfl, rfl⟩ : fmt = _ ∧ id = _ ∧ l = _ := by simpa only [Except.ok.injEq, Prod.mk.injEq] using h
    exact ⟨⟨rfl, rfl, rfl⟩, rfl, rfl, rfl, rfl, rfl⟩

end

/-- Settles O17: each command's body does its work at once, and the row then starts it and moves on the choice of R209 alone. -/
theorem matrixPathResults : Obligations.matrix_path_results := by
  unfold Obligations.matrix_path_results
  intro t deferred s e
  refine ⟨?drain, ?drainRow, fun hwf hm hbad => mtload_results hwf hm rfl hbad, ?bind, ?slot⟩
  case drain =>
    intro hm hbad hrows hslot hused
    obtain ⟨u, s', r, hx, hu, hmem, hcmd, hfin, hgood, hfails⟩ := mdrain_starts hm rfl hbad hrows hslot hused
    refine ⟨u, r, hx, hu.started hm.1.1 (fun q => by rw [queue, tile, hmem.tiles, queue, tile]) hcmd, hfin, hu.queuesOnly hmem.tiles, ?_, ?_,
      fun v hv => ?_, hfails⟩
    · rw [hu.kept, hmem]
    · exact fun d k hk => (hu.regs d k hk).trans (by rw [hmem.regs])
    · obtain ⟨rfl, hok⟩ := hgood v hv
      exact ⟨hok, hu.sram, hu.hbm⟩
  case drainRow =>
    intro x o hwf hm hbad hone hadd hdst hcheck hslot hused
    have hrows : RowsGood s (partOfTile s t) (drainOf e.cmd) := fun i hi => by
      obtain rfl : i = 0 := by omega
      rw [Nat.zero_mul, Nat.add_zero, hdst]
      exact ⟨hcheck, rfl⟩
    obtain ⟨u, s', r, hx, hu, -, hcmd, -, hgood, -⟩ := mdrain_starts hm rfl hbad hrows hslot hused
    obtain ⟨rfl, hok⟩ := hgood _ (drainRows_one hone hadd hdst)
    obtain ⟨hkept, hread⟩ := drained_row hwf t (spKey x o) (drainOf e.cmd)
    refine ⟨u, r, hx, hu.started hm.1.1 (fun _ => rfl) hcmd, hok, hu.queuesOnly rfl, ?_, hu.regs, fun b hb => ?_, fun j hj => ?_⟩
    · rw [hu.kept]
      rfl
    · exact (congrArg (fun m => (cellGet m b).getD 0) hu.sram).trans (hkept b hb)
    · refine Eq.trans ?_ (hread j hj)
      simp only [sramRead, sramGet, hu.sram]
  case bind =>
    intro hm hpad htail a cnt ha hcnt hfit
    subst ha hcnt
    obtain ⟨u, s', r, valid, fmt, x, id, k, hx, hu, hcmd, hrebound, hgood, hbad⟩ := mbind_starts hm hpad htail hfit
    have hi : mbindIndex e.cmd < 4 := Nat.mod_lt _ (by decide)
    obtain ⟨hlo, hin⟩ : fieldKey R.MX_STATUS_DEF_POS 4 t 0 < slotHi t ∧ _ := defPosKey_place t
    have hplace : ∀ y ∈ [fieldKey R.MX_STATUS_DEF_POS 4 t 0], y < slotHi t := fun y hy => List.mem_singleton.1 hy ▸ hlo
    have hbound := hrebound.bound.of_regsKept hu.regs hplace hi
    have htable : ptValid u t (mbindIndex e.cmd) = true ↔ ∀ side, side < 2 →
        cbValid u t side (mbindIndex e.cmd) = true ∧ cbFmt u t side (mbindIndex e.cmd) = 4 := by
      rw [← ptOk_iff, ptOk_of_regsKept hi hu.regs hplace, ← hrebound.table, ptValid, ptValid, hu.regs.rd]
      exact fun hk => hin.2.2 (List.mem_singleton.1 hk).symm
    have hentries : mapGet [] (tile u t).k12 (4 * mbindSide e.cmd + mbindIndex e.cmd) = k := by
      rw [hu.tile, startCmd, tile_setQueue_same]
      exact hrebound.entries
    refine ⟨u, r, hx, hu.started hm.1.1 (fun q => ?_) hcmd, fun t' hne => ?_, ?_, ?_, fun f i l hok => ?_, fun f herr => ?_⟩
    · rw [queue, hrebound.queues, queue]
    · exact (hu.tile t').trans ((tile_setTile_ne s' _ (Ne.symm hne)).trans (hrebound.others t' hne))
    · rw [hu.kept, hrebound.frame]
    · exact regsKeptBut_trans hrebound.regs
        (regsKeptBut_absorb hu.regs (fun y hy => List.mem_singleton.1 hy ▸ ⟨hin.1, hin.2.1⟩) [])
    · obtain ⟨hdone, rfl, rfl, rfl, rfl, rfl⟩ := hgood f i l hok
      exact ⟨hdone, hbound.valid, hbound.fmt, hbound.off, hbound.ident, htable, hentries⟩
    · obtain ⟨hstatus, hfault, rfl⟩ := hbad f herr
      exact ⟨hstatus, hfault, hbound.valid⟩
  case slot =>
    intro hm hfirst hcount hlast hop htail hslots
    have hbody := startMslot_good hfirst hcount hlast hop htail hslots
    have hframe := mslotDone_frame s t (cb e.cmd 8) (cb e.cmd 9) (cb e.cmd 10)
    have hregs := regsKeptBut_mslotDone s t (cb e.cmd 8) (cb e.cmd 10) hlast
    have hrec := slotRec_mslotDone s t (cb e.cmd 8) (cb e.cmd 9) (cb e.cmd 10)
    generalize mslotDone s t (cb e.cmd 8) (cb e.cmd 9) (cb e.cmd 10) = s' at *
    have htiles : s'.tiles = s.tiles := by rw [hframe]
    have hparts := partsKept_of_regsKeptBut (by rw [hframe]) hregs (le_slotLo t) fun _ hk => absurd hk List.not_mem_nil
    obtain ⟨u, hrow, hu⟩ := mxRow_starts hm (by decide) (fun h => absurd h (by decide)) hbody hparts (touch := fun _ _ => [])
    refine ⟨u, okCmd e, (exec_mslot ..).trans (congrArg _ hrow), hu.started hm.1.1 (fun q => by rw [queue, tile, htiles, queue, tile]) rfl,
      ⟨rfl, rfl, rfl⟩, hu.queuesOnly htiles, ?_, regsKeptBut_mxStarts hu hregs, fun k _ => ?_⟩
    · rw [hu.kept, hframe]
    · rw [slotRec_of_mxStarts hu, hrec, mslotRec]
      split
      · split
        · rfl
        · rfl
      · rfl

end Sys2Proof.Machine
end

section
/-! SUPPORT. Debug through BAR4 and BAR0 and through the TAP (R220, R250, R494 to R500): what one access does. -/

open Sys2Proof Sys2Proof.Machine Sys2Proof.Claims

namespace Sys2Proof.Machine

/-! ### General registers in BAR4 (R495) -/

theorem exec_dbgWindowAccess (port : HPort) (write : Bool) (off : Nat) (v : Word) (s : State) : exec (.dbgWindowAccess port write off v) s
    = .next (if bar4Open s port then returnWord write (bar4Access s (portPart s port) false write off v)
        else returnWord write (bar4Note s port, allOnes)) := rfl

/-- The places of the general registers in BAR4: the window of a tile, below its other registers. -/
theorem gprOff_place (t : Tile) (r : BitVec 5) : gprOff t r % 8 = 0 ∧ 0x1000000 ≤ gprOff t r ∧ gprOff t r < 0x2000000
    ∧ (gprOff t r - 0x1000000) / 0x10000 = t.val ∧ gprOff t r % 0x10000 = 8 * r.toNat ∧ 8 * r.toNat < 0x100 := by
  have := t.isLt
  have := r.isLt
  simp only [gprOff]
  omega

/-- A general register of an open tile is read and written. -/
theorem tileWindow_gpr {s : State} {t : Nat} {tap : Bool} (hpresent : tilePresent s t = true) (hopen : tileOpen s t tap = true) (write : Bool)
    (r : BitVec 5) (v : Word) : tileWindow s t tap write (8 * r.toNat) v = (if write then setG s t r v else s, getG s t r) := by
  have hr : BitVec.ofNat 5 (8 * r.toNat / 8) = r := by
    rw [Nat.mul_div_cancel_left _ (by decide), BitVec.ofNat_toNat, BitVec.setWidth_eq]
  have hlow : 8 * r.toNat < 0x100 := by
    have := r.isLt
    omega
  simp only [tileWindow, hpresent, hopen, hr, hlow, Bool.not_true, Bool.false_eq_true, if_false, if_true]

theorem bar4Access_gpr {s : State} {t : Tile} {p : Nat} {tap : Bool} (hpart : partOfTile s t = p) (hpresent : tilePresent s t = true)
    (hopen : tileOpen s t tap = true) (write : Bool) (r : BitVec 5) (v : Word) :
    bar4Access s p tap write (gprOff t r) v = (if write then setG s t r v else s, getG s t r) := by
  obtain ⟨halign, hlo, hhi, htile, hreg, -⟩ := gprOff_place t r
  rw [bar4Access, if_pos halign]
  dsimp only [bar4Word]
  rw [if_neg (by omega), if_neg (by omega), if_neg (by omega), if_neg (by omega), if_neg (by omega), if_neg (by omega), if_pos ⟨hlo, hhi⟩,
    htile, if_pos hpart, hreg]
  exact tileWindow_gpr hpresent hopen write r v

theorem tilesKept_setG (s : State) (t : Nat) (r : BitVec 5) (v : Word) : TilesKept s (setG s t r v) t := fun t' hne => by
  unfold setG
  split
  · rfl
  · exact tile_setTile_ne _ _ (Ne.symm hne)

theorem setG_frame (s : State) (t : Nat) (r : BitVec 5) (v : Word) : setG s t r v = { s with tiles := (setG s t r v).tiles } := by
  unfold setG
  split <;> rfl

/-! ### Locked BAR4 (R366, R494) -/

theorem ideNote_sram (s : State) (h : Nat) : (ideNote s h).sram = s.sram := by
  unfold ideNote
  split
  · rw [raise_eq_sendFault _ _ (by decide)]
    rfl
  · rfl

theorem bar4Note_sram (s : State) (h : Nat) : (bar4Note s h).sram = s.sram := by
  unfold bar4Note
  dsimp only
  split
  · rfl
  · split
    · exact ideNote_sram s h
    · split
      · rfl
      · rw [raise_eq_sendFault _ _ (by decide)]
        rfl

/-! ### The memories of the engines (R220, R250) -/

theorem exec_accDbgAccess (port : HPort) (t : Tile) (write : Bool) (v : Word) (half : Option Bool) (s : State) :
    exec (.accDbgAccess port t write v half) s = .next (engineDebug s port t write (accOpen s t) K.ACC_DEBUG_BUSY 7 half
      fun s => halfAccess s R.ACC_DBG_ADDR_WORD t (accKey t) write v half) := rfl

theorem exec_sideDbgAccess (port : HPort) (t : Tile) (write : Bool) (v : Word) (half : Option Bool) (s : State) :
    exec (.sideDbgAccess port t write v half) s = .next (engineDebug s port t write (sideOpen s t) K.SIDE_DEBUG_BUSY 8 half
      fun s => halfAccess s R.SIDE_DBG_ADDR_WORD t (sideKey t) write v half) := rfl

section
variable {s : State} {port t : Nat} (haccess : tileAccess s port t = true) (hauth : dbgAuth s (partOfTile s t) = true)
include haccess hauth

theorem engineDebug_open (write : Bool) (busy : Kind) (sub : Nat) (half : Option Bool) (acc : State → State × Word) :
    engineDebug s port t write true busy sub half acc = returnWord write (acc s) := by
  simp only [engineDebug, haccess, hauth, Bool.not_true, Bool.false_eq_true, if_false, if_true]

/-- An access to a busy engine is noted, and a read of the whole word returns all ones. -/
theorem engineDebug_busy (write : Bool) {busy : Kind} (hbusy : busy.cls < 2) (sub : Nat) (acc : State → State × Word) :
    ∃ u, engineDebug s port t write false busy sub none acc = u ∧ u.sram = s.sram ∧ Noted u (srcTile t sub) busy (partOfTile s t)
      ∧ (write = false → u.readOut = BitVec.allOnes 64) := by
  refine ⟨_, rfl, ?_⟩
  simp only [engineDebug, haccess, hauth, Bool.not_true, Bool.false_eq_true, if_false, raise_eq_sendFault _ _ hbusy]
  have hnoted : Noted (sendFault s (mkFault (srcTile t sub) busy (partOfTile s t) 0 0)) (srcTile t sub) busy (partOfTile s t) :=
    ⟨0, 0, _, List.mem_append_right _ (List.mem_singleton.2 rfl)⟩
  cases write with
  | true => exact ⟨rfl, hnoted, fun h => nomatch h⟩
  | false => exact ⟨rfl, hnoted, fun _ => rfl⟩

end

section
variable (s : State) {addr : Reg} (i : Nat) (key : Nat → Nat) (v : Word)

/-- A read of the whole word returns it and steps the address register. -/
theorem returnWord_wholeRead : returnWord false (halfAccess s addr i key false v none)
    = { wrAdd s 4 addr 1 i with readOut := memWord s (key (8 * rd s 4 addr i)) } := rfl

theorem rd_wrAdd_readOut (w : Word) : rd { wrAdd s 4 addr 1 i with readOut := w } 4 addr i = (rd s 4 addr i + 1) % 2 ^ addr.width := by
  have hregs : rd { wrAdd s 4 addr 1 i with readOut := w } 4 addr i = rd (wrAdd s 4 addr 1 i) 4 addr i := rfl
  rw [hregs, wrAdd_eq, rd_wr_same]

/-- A read returns the word at the address register and advances it. -/
theorem returnWord_memAccess_read : ∃ u, returnWord false (halfAccess s addr i key false v none) = u
    ∧ u.readOut = BitVec.ofNat 64 (leNat (sramRead s (key (8 * rd s 4 addr i)) 8)) ∧ u.sram = s.sram
    ∧ rd u 4 addr i = (rd s 4 addr i + 1) % 2 ^ addr.width :=
  ⟨_, returnWord_wholeRead s i key v, rfl, rfl, rd_wrAdd_readOut s i _⟩

/-- A read of a half of the word. -/
theorem returnWord_halfAccess_read (hi : Bool) : ∃ u, returnWord false (halfAccess s addr i key false v (some hi)) = u ∧ u.sram = s.sram
    ∧ u.readOut = BitVec.ofNat 64 (if hi then (memWord s (key (8 * rd s 4 addr i))).toNat / 2 ^ 32
        else (memWord s (key (8 * rd s 4 addr i))).toNat % 2 ^ 32) := ⟨_, rfl, rfl, rfl⟩

/-- A write stores the word at the address register. -/
theorem returnWord_memAccess_write (hwf : Memory.wf s.sram = true) : ∃ u, returnWord true (halfAccess s addr i key true v none) = u
    ∧ sramRead u (key (8 * rd s 4 addr i)) 8 = leBytes 8 v.toNat ∧ SramKept s u (key (8 * rd s 4 addr i)) 8 ∧ u.tiles = s.tiles := by
  have hread := sramRead_sramWrite_same hwf (key (8 * rd s 4 addr i)) (leBytes 8 v.toNat)
  have hkept := sramKept_sramWrite s (key (8 * rd s 4 addr i)) (leBytes 8 v.toNat)
  rw [length_leBytes] at hread hkept
  exact ⟨_, rfl, hread, hkept, rfl⟩

end

/-! ### One access through the TAP (R499, R500) -/

theorem tapOwner_gprOff (s : State) (t : Tile) (r : BitVec 5) : tapOwner s (gprOff t r) = some (partOfTile s t) := by
  obtain ⟨-, hlo, hhi, htile, -⟩ := gprOff_place t r
  rw [tapOwner, if_neg (by omega), if_pos ⟨hlo, hhi⟩, htile]

/-- The scan of an access that reached state s' and returned the word w. -/
def tapScanned (s s' : State) (write : Bool) (w : Word) : State :=
  { tapSelect s' 0x10 false (tapCapture s) with
    tapErr := !tapMay s s.tapAddr.toNat, tapAddr := s.tapAddr + 8, tapData := if write then s'.tapData else w }

theorem tapAccess_eq (s : State) (write : Bool) (v : Word) : tapAccess s write v
    = tapScanned s (if tapMay s s.tapAddr.toNat then bar4Access s ((tapOwner s s.tapAddr.toNat).getD 0) true write s.tapAddr.toNat v
        else (s, allOnes)).1 write
        (if tapMay s s.tapAddr.toNat then bar4Access s ((tapOwner s s.tapAddr.toNat).getD 0) true write s.tapAddr.toNat v
          else (s, allOnes)).2 := by
  cases write <;> rfl

theorem tapAccess_refused {s : State} (h : tapMay s s.tapAddr.toNat = false) (write : Bool) (v : Word) :
    tapAccess s write v = tapScanned s s write allOnes := by
  rw [tapAccess_eq, h]
  rfl

/-- A general register of an open tile, reached by an authorised access. -/
theorem tapAccess_gpr {s : State} {t : Tile} {r : BitVec 5} (haddr : s.tapAddr.toNat = gprOff t r)
    (hauth : dbgAuth s (partOfTile s t) = true) (hsafe : s.safe = true → s.safeKind ≠ K.VORDAUST_FAULT.code)
    (hpresent : tilePresent s t = true) (hopen : tileOpen s t true = true) (write : Bool) (v : Word) :
    tapMay s s.tapAddr.toNat = true ∧ tapAccess s write v = tapScanned s (if write then setG s t r v else s) write (getG s t r) := by
  have hkind : (s.safe && s.safeKind == K.VORDAUST_FAULT.code) = false := by
    cases h : s.safe with
    | false => rfl
    | true => simpa using hsafe h
  have howner := tapOwner_gprOff s t r
  have hmay : tapMay s s.tapAddr.toNat = true := by simp only [tapMay, hkind, haddr, howner, hauth, Bool.not_false, Bool.and_self]
  refine ⟨hmay, ?_⟩
  rw [tapAccess_eq, hmay, haddr, howner]
  simp only [if_true, Option.getD_some, bar4Access_gpr rfl hpresent hopen]

end Sys2Proof.Machine
end

section
/-! SUPPORT. A debug token (R434, R435): what opening debug leaves of a partition's secrets, and what a refused token changes. -/

open Sys2Proof Sys2Proof.Machine Sys2Proof.Claims

namespace Sys2Proof.Machine

/-! ### Job secrets, nonces and the HBM key -/

/-- Job secrets, debug nonces and the state of the HBM key of partition p are as before. -/
structure SecretsKept (p : Nat) (s u : State) : Prop where
  jobs    : u.jobs = s.jobs
  dbgChal : u.dbgChal = s.dbgChal
  hbmKey  : rd u p R.HBM_KEY_STATE_STATE = rd s p R.HBM_KEY_STATE_STATE

namespace SecretsKept
variable {p : Nat} {s u v : State}

theorem refl (p : Nat) (s : State) : SecretsKept p s s := ⟨rfl, rfl, rfl⟩

theorem trans (h : SecretsKept p s u) (h' : SecretsKept p u v) : SecretsKept p s v :=
  ⟨h'.jobs.trans h.jobs, h'.dbgChal.trans h.dbgChal, h'.hbmKey.trans h.hbmKey⟩

theorem foldl {α : Type} {k : State → α → State} (h : ∀ s x, SecretsKept p s (k s x)) (l : List α) (s : State) :
    SecretsKept p s (l.foldl k s) := by
  induction l generalizing s with
  | nil => exact refl p s
  | cons x l ih => exact (h s x).trans (ih _)

/-- The transport writes no secret. -/
theorem of_routed (h : Routed s u) (hp : p < 4) : SecretsKept p s u :=
  ⟨by rw [h.frame], by rw [h.frame], h.rd_part hp rfl (by decide)⟩

/-- Of the registers one field that is not the key's state is written. -/
theorem of_write {q n i j : Nat} {f : Reg} (hne : fieldKey f q i j ≠ fieldKey R.HBM_KEY_STATE_STATE p 0 0) (hjobs : u.jobs = s.jobs)
    (hchal : u.dbgChal = s.dbgChal) (hregs : u.regs = (wr s q f n i j).regs) : SecretsKept p s u :=
  ⟨hjobs, hchal, (rd_of_regs hregs ..).trans (rd_wr_ne s n hne)⟩

end SecretsKept

section
variable {p : Nat} (hp : p < 4)
include hp

/-- A package-wide field is no partition's HBM key state. -/
theorem fieldKey_pkg_ne_hbmKey {f : Reg} (hf : f.pkg = true) (q i j : Nat) : fieldKey f q i j ≠ fieldKey R.HBM_KEY_STATE_STATE p 0 0 := by
  simp only [fieldKey, hf, R.HBM_KEY_STATE_STATE, if_true, Bool.false_eq_true, if_false]
  omega

theorem secretsKept_csAppend (s : State) (r : CsRec) : SecretsKept p s (csAppend s r) := by
  unfold csAppend setBank
  dsimp only
  split <;> exact .of_write (fieldKey_pkg_ne_hbmKey hp (f := R.CS_STATUS_FILL_PCT) rfl 4 0 0) rfl rfl rfl

theorem secretsKept_unsealNow (s : State) : SecretsKept p s (unsealNow s p) := by
  unfold unsealNow
  dsimp only
  split
  · have happend := secretsKept_csAppend hp
      { s with csWants := s.csWants.filter fun x => !(x.1.typ == 7 && x.1.key == partKey s p) } ⟨8, partKey s p, []⟩
    exact ⟨happend.jobs, happend.dbgChal, happend.hbmKey⟩
  · exact ⟨rfl, rfl, rfl⟩

theorem secretsKept_closePart (s : State) (q : Nat) : SecretsKept p s (closePart s q) :=
  .of_routed (.foldl (fun _ _ => .foldl (fun s k => (routed_shutSess s k).trans (routed_drainWait ..)) _ _) _ s) hp

theorem secretsKept_dropStream (s : State) (h : Nat) (selective : Bool) : SecretsKept p s (dropStream s h selective) := by
  have hset : SecretsKept p s (setIdeStream s h selective default) :=
    .of_write (fieldKey_pkg_ne_hbmKey hp (f := R.HP_STATUS_IDE_ACTIVE) rfl 4 h 0) rfl rfl rfl
  unfold dropStream
  dsimp only
  split
  · exact hset
  · exact hset.trans ⟨rfl, rfl, rfl⟩

theorem secretsKept_dropIde (s : State) (h : Nat) : SecretsKept p s (dropIde s h) :=
  (secretsKept_dropStream hp s h false).trans (secretsKept_dropStream hp _ h true)

end

/-- A LOADED key is revoked. -/
theorem rd_revokeHbm_ne (s : State) (p : Nat) : rd (revokeHbm s p) p R.HBM_KEY_STATE_STATE ≠ 1 := by
  unfold revokeHbm
  split
  · rw [rd_wr_same]
    decide
  · assumption

theorem revokeHbm_secrets (s : State) (p : Nat) : (revokeHbm s p).jobs = s.jobs ∧ (revokeHbm s p).dbgChal = s.dbgChal := by
  unfold revokeHbm
  split <;> exact ⟨rfl, rfl⟩

/-! ### Opening debug (R435) -/

/-- A partition's secrets are gone when its debug opens: what openDebug does before it sets DBG_AUTH. -/
def secretsErased (s : State) (p : Nat) : State :=
  (portsOfPart (closePart (revokeHbm (unsealNow (zeroJob s p) p) p) p) p).foldl dropIde (closePart (revokeHbm (unsealNow (zeroJob s p) p) p) p)

theorem openDebug_eq (s : State) (p : Nat) : openDebug s p
    = sendFault (wrSat (wrb (secretsErased s p) p R.SEC_STATUS_DBG_AUTH true) 4 R.SEC_STATUS_DBG_COUNT 1)
        (mkFault srcVordaust K.DEBUG_AUTHORISED p 0 0) := raise_eq_sendFault _ srcVordaust (k := K.DEBUG_AUTHORISED) (by decide) p 0 0

theorem secretsErased_eq {p : Nat} (hp : p < 4) (s : State) : (secretsErased s p).jobs = mapErase s.jobs p
    ∧ (secretsErased s p).dbgChal = s.dbgChal ∧ rd (secretsErased s p) p R.HBM_KEY_STATE_STATE ≠ 1 := by
  have hseal := secretsKept_unsealNow hp (zeroJob s p)
  obtain ⟨hjobs, hchal⟩ := revokeHbm_secrets (unsealNow (zeroJob s p) p) p
  have hrest := (secretsKept_closePart hp (revokeHbm (unsealNow (zeroJob s p) p) p) p).trans
    (.foldl (secretsKept_dropIde hp) (portsOfPart (closePart (revokeHbm (unsealNow (zeroJob s p) p) p) p) p) _)
  refine ⟨?_, ?_, ?_⟩
  · exact hrest.jobs.trans (hjobs.trans hseal.jobs)
  · exact hrest.dbgChal.trans (hchal.trans hseal.dbgChal)
  · exact fun h => rd_revokeHbm_ne _ p (hrest.hbmKey.symm.trans h)

/-- DBG_AUTH is set and DBG_COUNT counts: two fields that are no key's state. -/
theorem authorised_of_write {p : Nat} (hp : p < 4) (s : State) :
    dbgAuth (wrSat (wrb s p R.SEC_STATUS_DBG_AUTH true) 4 R.SEC_STATUS_DBG_COUNT 1) p = true
    ∧ SecretsKept p s (wrSat (wrb s p R.SEC_STATUS_DBG_AUTH true) 4 R.SEC_STATUS_DBG_COUNT 1) := by
  have hauthKey : fieldKey R.SEC_STATUS_DBG_AUTH p 0 0 ≠ fieldKey R.HBM_KEY_STATE_STATE p 0 0 := by
    simp only [fieldKey, R.SEC_STATUS_DBG_AUTH, R.HBM_KEY_STATE_STATE, Bool.false_eq_true, if_false]
    omega
  have hcountKey : fieldKey R.SEC_STATUS_DBG_COUNT 4 0 0 ≠ fieldKey R.SEC_STATUS_DBG_AUTH p 0 0 := by
    simp only [fieldKey, R.SEC_STATUS_DBG_AUTH, R.SEC_STATUS_DBG_COUNT, Bool.false_eq_true, if_false, if_true]
    omega
  have hauth : SecretsKept p s (wrb s p R.SEC_STATUS_DBG_AUTH true) := .of_write hauthKey rfl rfl rfl
  have hset : rd (wrb s p R.SEC_STATUS_DBG_AUTH true) p R.SEC_STATUS_DBG_AUTH = 1 := rd_wr_same ..
  generalize wrb s p R.SEC_STATUS_DBG_AUTH true = u at hauth hset
  rw [wrSat_eq]
  exact ⟨beq_iff_eq.2 ((rd_wr_ne u _ hcountKey).trans hset),
    hauth.trans (.of_write (fieldKey_pkg_ne_hbmKey hp (f := R.SEC_STATUS_DBG_COUNT) rfl 4 0 0) rfl rfl rfl)⟩

theorem openDebug_secrets {p : Nat} (hp : p < 4) (s : State) : dbgAuth (openDebug s p) p = true ∧ mapFind (openDebug s p).jobs p = none
    ∧ keyLoaded (openDebug s p) p = false ∧ (openDebug s p).dbgChal = s.dbgChal
    ∧ Noted (openDebug s p) srcVordaust K.DEBUG_AUTHORISED p := by
  obtain ⟨hjobs, hchal, hkey⟩ := secretsErased_eq hp s
  obtain ⟨hauth, hkept⟩ := authorised_of_write hp (secretsErased s p)
  rw [openDebug_eq]
  generalize wrSat (wrb (secretsErased s p) p R.SEC_STATUS_DBG_AUTH true) 4 R.SEC_STATUS_DBG_COUNT 1 = u at hauth hkept
  generalize secretsErased s p = s' at hjobs hchal hkey hkept
  refine ⟨hauth, ?_, ?_, hkept.dbgChal.trans hchal, 0, 0, _, List.mem_append_right _ (List.mem_singleton.2 rfl)⟩
  · exact (congrArg (mapFind · p) (hkept.jobs.trans hjobs)).trans (mapFind_mapErase_same s.jobs p)
  · exact beq_eq_false_iff_ne.2 fun h => hkey (hkept.hbmKey.symm.trans h)

/-! ### The token (R434) -/

theorem unlock_malformed {b : List Byte} (h : b.length ≠ 256 ∨ 16 ≤ leNat (sub b 80 1)) (s : State) (who : Nat) (may : Nat → Bool) :
    unlock s who may b = (s, St.BAD_DESC) := by
  have hbad : b.length ≠ 256 ∨ 16 ≤ leNat (sub b 80 1) ∨ (!zeroAt b 81 79) = true := h.imp_right .inl
  exact if_pos hbad

/-- The partitions that a SCOPE of one bit names. -/
theorem filter_bitAt_two_pow {p : Nat} (hp : p < 4) : (List.range 4).filter (fun q => bitAt (2 ^ p) q) = [p] := by
  match p, hp with
  | 0, _ | 1, _ | 2, _ | 3, _ => decide

/-- A good token for partition p opens its debug, and spends the nonce. -/
theorem unlock_good {s : State} {p who : Nat} {b : List Byte} (hp : p < 4) (hlen : b.length = 256) (hscope : leNat (sub b 80 1) = 2 ^ p)
    (hzero : zeroAt b 81 79 = true) (hheld : held s p = true) (hpart : p < partCount s.mode)
    (hnonce : mapFind s.dbgChal who = some (leNat (b.take 32))) (hdev : leNat (sub b 32 48) = Config.deviceId)
    (hsig : Config.ecdsaOk (s.ownerBoot.getD Config.flezelDebug) (b.take 160) (sub b 160 96) = true) :
    unlock s who (fun _ => true) b = (openDebug { s with dbgChal := mapErase s.dbgChal who } p, St.OK) := by
  have hlt : 2 ^ p < 16 := (Nat.pow_lt_pow_right (by decide) hp : 2 ^ p < 2 ^ 4)
  have hform : ¬ (b.length ≠ 256 ∨ 16 ≤ 2 ^ p ∨ (!zeroAt b 81 79) = true) := by
    rw [hzero]
    simp only [hlen, Bool.not_true, Bool.false_eq_true, or_false, ne_eq, not_true, false_or]
    omega
  unfold unlock
  dsimp only
  rw [hscope, filter_bitAt_two_pow hp, if_neg hform]
  simp [hpart, hheld, hnonce, hdev, hsig]

end Sys2Proof.Machine
end

section
/-! PROOF of O54 (R220, R250, R434, R454, R494 to R500, R517), one lemma for a part of its statement. -/

open Sys2Proof Sys2Proof.Machine Sys2Proof.Claims

namespace Sys2Proof.Machine

/-! ### Through a host port -/

theorem window_gpr_results {port : HPort} {t : Tile} {s : State} (hopen : bar4Open s port = true) (hpart : partOfTile s t = portPart s port)
    (hpresent : tilePresent s t = true) (htile : tileOpen s t false = true) (r : BitVec 5) (v : Word) :
    (∃ u, exec (.dbgWindowAccess port false (gprOff t r) v) s = .next u ∧ u.readOut = getG s t r ∧ u = { s with readOut := u.readOut })
    ∧ (∃ u, exec (.dbgWindowAccess port true (gprOff t r) v) s = .next u ∧ getG u t r = (if r = 0 then 0 else v) ∧ TilesKept s u t
      ∧ u = { s with tiles := u.tiles } ∧ ∀ r', r' ≠ r → getG u t r' = getG s t r') := by
  simp only [exec_dbgWindowAccess, hopen, if_true, bar4Access_gpr hpart hpresent htile]
  exact ⟨⟨_, rfl, rfl, rfl⟩,
    ⟨setG s t r v, rfl, getG_setG_same .., tilesKept_setG s t r v, setG_frame .., fun _ hne => getG_setG_ne _ _ _ hne.symm⟩⟩

theorem window_locked_results {port : HPort} {s : State} (hlocked : bar4Open s port = false) (off : Nat) (v : Word) :
    ∃ u, exec (.dbgWindowAccess port false off v) s = .next u ∧ u.readOut = BitVec.allOnes 64 ∧ u.sram = s.sram
      ∧ ∀ w, ∃ u', exec (.dbgWindowAccess port true off w) s = .next u' ∧ u'.sram = s.sram := by
  simp only [exec_dbgWindowAccess, hlocked, Bool.false_eq_true, if_false]
  exact ⟨_, rfl, rfl, bar4Note_sram s port, fun _ => ⟨_, rfl, bar4Note_sram s port⟩⟩

section
variable {s : State} {port : HPort} {t : Tile} (haccess : tileAccess s port t = true) (hauth : dbgAuth s (partOfTile s t) = true) (v : Word)
include haccess hauth

theorem accDbg_open_results (hopen : accOpen s t = true) :
    (∃ u, exec (.accDbgAccess port t false v) s = .next u
      ∧ u.readOut = BitVec.ofNat 64 (leNat (sramRead s (accKey t (8 * rd s 4 R.ACC_DBG_ADDR_WORD t)) 8)) ∧ u.sram = s.sram
      ∧ rd u 4 R.ACC_DBG_ADDR_WORD t = (rd s 4 R.ACC_DBG_ADDR_WORD t + 1) % 2 ^ 15)
    ∧ (∀ hi, ∃ u, exec (.accDbgAccess port t false v (some hi)) s = .next u ∧ u.sram = s.sram
      ∧ u.readOut = BitVec.ofNat 64 (if hi then (memWord s (accKey t (8 * rd s 4 R.ACC_DBG_ADDR_WORD t))).toNat / 2 ^ 32
          else (memWord s (accKey t (8 * rd s 4 R.ACC_DBG_ADDR_WORD t))).toNat % 2 ^ 32))
    ∧ (Memory.wf s.sram = true → ∃ u, exec (.accDbgAccess port t true v) s = .next u
      ∧ sramRead u (accKey t (8 * rd s 4 R.ACC_DBG_ADDR_WORD t)) 8 = leBytes 8 v.toNat
      ∧ SramKept s u (accKey t (8 * rd s 4 R.ACC_DBG_ADDR_WORD t)) 8 ∧ u.tiles = s.tiles) := by
  simp only [exec_accDbgAccess, hopen, engineDebug_open haccess hauth]
  refine ⟨?_, fun hi => ?_, fun hwf => ?_⟩
  · obtain ⟨u, hu, hread⟩ := returnWord_memAccess_read s t (addr := R.ACC_DBG_ADDR_WORD) (accKey t) v
    exact ⟨u, congrArg _ hu, hread⟩
  · obtain ⟨u, hu, hread⟩ := returnWord_halfAccess_read s t (addr := R.ACC_DBG_ADDR_WORD) (accKey t) v hi
    exact ⟨u, congrArg _ hu, hread⟩
  · obtain ⟨u, hu, hwrite⟩ := returnWord_memAccess_write s t (addr := R.ACC_DBG_ADDR_WORD) (accKey t) v hwf
    exact ⟨u, congrArg _ hu, hwrite⟩

theorem accDbg_busy_results (hbusy : accOpen s t = false) (w : Bool) : ∃ u, exec (.accDbgAccess port t w v) s = .next u ∧ u.sram = s.sram
    ∧ Noted u (srcTile t 7) K.ACC_DEBUG_BUSY (partOfTile s t) ∧ (w = false → u.readOut = BitVec.allOnes 64) := by
  obtain ⟨u, hu, hnoted⟩ := engineDebug_busy haccess hauth w (busy := K.ACC_DEBUG_BUSY) (by decide) 7
    (fun s => halfAccess s R.ACC_DBG_ADDR_WORD t (accKey t) w v none)
  exact ⟨u, by rw [exec_accDbgAccess, hbusy, hu], hnoted⟩

theorem sideDbg_open_results (hopen : sideOpen s t = true) :
    (∃ u, exec (.sideDbgAccess port t false v) s = .next u
      ∧ u.readOut = BitVec.ofNat 64 (leNat (sramRead s (sideKey t (8 * rd s 4 R.SIDE_DBG_ADDR_WORD t)) 8)) ∧ u.sram = s.sram
      ∧ rd u 4 R.SIDE_DBG_ADDR_WORD t = (rd s 4 R.SIDE_DBG_ADDR_WORD t + 1) % 2 ^ 15)
    ∧ (Memory.wf s.sram = true → ∃ u, exec (.sideDbgAccess port t true v) s = .next u
      ∧ sramRead u (sideKey t (8 * rd s 4 R.SIDE_DBG_ADDR_WORD t)) 8 = leBytes 8 v.toNat
      ∧ SramKept s u (sideKey t (8 * rd s 4 R.SIDE_DBG_ADDR_WORD t)) 8 ∧ u.tiles = s.tiles) := by
  simp only [exec_sideDbgAccess, hopen, engineDebug_open haccess hauth]
  refine ⟨?_, fun hwf => ?_⟩
  · obtain ⟨u, hu, hread⟩ := returnWord_memAccess_read s t (addr := R.SIDE_DBG_ADDR_WORD) (sideKey t) v
    exact ⟨u, congrArg _ hu, hread⟩
  · obtain ⟨u, hu, hwrite⟩ := returnWord_memAccess_write s t (addr := R.SIDE_DBG_ADDR_WORD) (sideKey t) v hwf
    exact ⟨u, congrArg _ hu, hwrite⟩

theorem sideDbg_busy_results (hbusy : sideOpen s t = false) (w : Bool) : ∃ u, exec (.sideDbgAccess port t w v) s = .next u ∧ u.sram = s.sram
    ∧ Noted u (srcTile t 8) K.SIDE_DEBUG_BUSY (partOfTile s t) := by
  obtain ⟨u, hu, hsram, hnoted, -⟩ := engineDebug_busy haccess hauth w (busy := K.SIDE_DEBUG_BUSY) (by decide) 8
    (fun s => halfAccess s R.SIDE_DBG_ADDR_WORD t (sideKey t) w v none)
  exact ⟨u, by rw [exec_sideDbgAccess, hbusy, hu], hsram, hnoted⟩

end

/-! ### The scans of the TAP -/

theorem fltPins_unpowered {s : State} (hvao : s.vao = false) : fltPins s = (false, false) := by
  simp only [fltPins, hvao, Bool.not_false, if_true]

theorem fltPins_driven {s : State} (hvao : s.vao = true) (hon : s.bscanDrive = true) (hdrive : tapMayDrive s = true) :
    fltPins s = (s.bscan.getLsbD 12, s.bscan.getLsbD 13) := by
  simp only [fltPins, hvao, hon, hdrive, Bool.not_true, Bool.and_self, Bool.false_eq_true, if_false, if_true]

theorem fltPins_undriven {s : State} (hvao : s.vao = true) (hoff : s.bscanDrive = false) : fltPins s = (fltFault s, !fltFault s) := by
  simp only [fltPins, hvao, hoff, Bool.not_true, Bool.false_and, Bool.false_eq_true, if_false]

theorem extest_driven_results {s : State} (hdrive : tapMayDrive s = true) (cells : BitVec 61) : ∃ u, exec (.extest cells) s = .next u
    ∧ u.bscan = cells ∧ u.bscanDrive = true ∧ u.tapIr = 0
    ∧ (s.vao = true → fltPins u = (cells.getLsbD 12, cells.getLsbD 13)) ∧ u.regs = s.regs := by
  have hstep : exec (.extest cells) s = .next { tapSelect s 0 true s.tapOut with bscan := cells } := congrArg _ (if_pos hdrive)
  exact ⟨_, hstep, rfl, rfl, rfl, fun hvao => fltPins_driven hvao rfl hdrive, rfl⟩

theorem extest_undriven_results {s : State} (hdrive : tapMayDrive s = false) (cells : BitVec 61) : ∃ u, exec (.extest cells) s = .next u
    ∧ u.bscan = s.bscan ∧ u.bscanDrive = false ∧ u.regs = s.regs ∧ (s.vao = true → fltPins u = (fltFault s, !fltFault s)) := by
  have hstep : exec (.extest cells) s = .next (tapBypassScan s 0 false false) :=
    congrArg _ (if_neg (Bool.eq_false_iff.1 hdrive))
  exact ⟨_, hstep, rfl, rfl, rfl, fun hvao => fltPins_undriven hvao rfl⟩

theorem exec_idcode (s : State) : exec .idcode s
    = .next (tapSelect s 1 false (Config.fuseId 1 % 16 * 2 ^ 28 + 0x00C4 * 2 ^ 12 + Config.fuseId 3 % 2 ^ 11 * 2 + 1)) := by
  have hunfold : exec .idcode s = execIdcode s := rfl
  rw [hunfold, execIdcode]

/-- The word read out has the marker bit and the part number, whatever the fuses hold. -/
theorem idcode_results (s : State) : ∃ u, exec .idcode s = .next u ∧ u.tapIr = 1 ∧ u.tapOut % 2 = 1 ∧ u.tapOut / 2 ^ 12 % 2 ^ 16 = 0x00C4
    ∧ u.bscanDrive = false := by
  obtain ⟨n, hstep, hmarker, hpart⟩ : ∃ n, exec .idcode s = .next (tapSelect s 1 false n) ∧ n % 2 = 1 ∧ n / 2 ^ 12 % 2 ^ 16 = 0x00C4 := by
    refine ⟨_, exec_idcode s, ?_⟩
    omega
  exact ⟨_, hstep, rfl, hmarker, hpart, rfl⟩

theorem bypass_results (tdi : Bool) (s : State) : ∃ u, exec (.bypass tdi) s = .next u ∧ u.tapBypass = tdi ∧ u.bscanDrive = false
    ∧ u.tapOut = (if s.tapIr = 0xFF then s.tapBypass.toNat else 0) := ⟨_, rfl, rfl, rfl, rfl⟩

/-! ### The access register of the TAP -/

theorem exec_dbgAccessRead (s : State) : exec .dbgAccessRead s = .next (tapAccess s false 0) := rfl
theorem exec_dbgAccessWrite (v : Word) (s : State) : exec (.dbgAccessWrite v) s = .next (tapAccess s true v) := rfl

theorem tile_tapScanned (s s' : State) (write : Bool) (w : Word) (t : Nat) : tile (tapScanned s s' write w) t = tile s' t := rfl

theorem getG_tapScanned (s s' : State) (write : Bool) (w : Word) (t : Nat) (r : BitVec 5) :
    getG (tapScanned s s' write w) t r = getG s' t r := by
  unfold getG
  rw [tile_tapScanned]

theorem tap_gpr_results {s : State} {t : Tile} {r : BitVec 5} (haddr : s.tapAddr.toNat = gprOff t r)
    (hauth : dbgAuth s (partOfTile s t) = true) (hsafe : s.safe = true → s.safeKind ≠ K.VORDAUST_FAULT.code)
    (hpresent : tilePresent s t = true) (hopen : tileOpen s t true = true) (v : Word) :
    (∃ u, exec .dbgAccessRead s = .next u ∧ u.tapData = getG s t r ∧ u.tapOut = tapCapture s ∧ u.tapErr = false ∧ u.tapAddr = s.tapAddr + 8
      ∧ u.tiles = s.tiles ∧ u.regs = s.regs)
    ∧ (∃ u, exec (.dbgAccessWrite v) s = .next u ∧ getG u t r = (if r = 0 then 0 else v) ∧ u.tapErr = false ∧ TilesKept s u t) := by
  obtain ⟨hmay, hread⟩ := tapAccess_gpr haddr hauth hsafe hpresent hopen false 0
  obtain ⟨-, hwrite⟩ := tapAccess_gpr haddr hauth hsafe hpresent hopen true v
  have herr : (!tapMay s s.tapAddr.toNat) = false := by rw [hmay, Bool.not_true]
  rw [exec_dbgAccessRead, exec_dbgAccessWrite, hread, hwrite]
  refine ⟨⟨_, rfl, rfl, rfl, herr, rfl, rfl, rfl⟩, ⟨_, rfl, ?_, herr, fun t' hne => ?_⟩⟩
  · exact (getG_tapScanned ..).trans (getG_setG_same s t r v)
  · exact (tile_tapScanned ..).trans (tilesKept_setG s t r v t' hne)

theorem tap_refused_results {s : State} (hmay : tapMay s s.tapAddr.toNat = false) (v : Word) :
    (∃ u, exec .dbgAccessRead s = .next u ∧ u.tapData = BitVec.allOnes 64 ∧ u.tapErr = true ∧ u.tapAddr = s.tapAddr + 8 ∧ u.regs = s.regs
      ∧ u.sram = s.sram ∧ u.tiles = s.tiles)
    ∧ (∃ u, exec (.dbgAccessWrite v) s = .next u ∧ u.tapErr = true ∧ u.regs = s.regs ∧ u.sram = s.sram ∧ u.tiles = s.tiles) := by
  have herr : (!tapMay s s.tapAddr.toNat) = true := by rw [hmay, Bool.not_false]
  rw [exec_dbgAccessRead, exec_dbgAccessWrite, tapAccess_refused hmay, tapAccess_refused hmay]
  exact ⟨⟨_, rfl, rfl, herr, rfl, rfl, rfl, rfl⟩, ⟨_, rfl, herr, rfl, rfl, rfl⟩⟩

/-- The TAP's challenge is a nonce of its own, and is what the scan captures. -/
theorem dbgChal_results (s : State) : ∃ u, exec .dbgChal s = .next u ∧ ∃ n, mapFind u.dbgChal 4 = some n ∧ u.tapOut = n := by
  have hnonce : mapFind (challenge s 4).dbgChal 4 = some (freshNat s % 2 ^ 256) := mapFind_mapSet_same ..
  exact ⟨_, rfl, _, hnonce, congrArg (Option.getD · 0) hnonce⟩

/-! ### A token through the TAP -/

theorem partCount_le_four (m : PMode) : partCount m ≤ 4 := by
  cases m <;> decide

theorem dbgAuth_good_results {b : List Byte} {p : Nat} {s : State} (hlen : b.length = 256) (hscope : leNat (sub b 80 1) = 2 ^ p)
    (hzero : zeroAt b 81 79 = true) (hheld : held s p = true) (hpart : p < partCount s.mode)
    (hnonce : mapFind s.dbgChal 4 = some (leNat (b.take 32))) (hdev : leNat (sub b 32 48) = Config.deviceId)
    (hsig : Config.ecdsaOk (s.ownerBoot.getD Config.flezelDebug) (b.take 160) (sub b 160 96) = true) :
    ∃ u, exec (.dbgAuth b) s = .next u ∧ dbgAuth u p = true ∧ u.tapResult = 0 ∧ u.tapOut = s.tapResult ∧ mapFind u.dbgChal 4 = none
      ∧ mapFind u.jobs p = none ∧ keyLoaded u p = false ∧ Noted u srcVordaust K.DEBUG_AUTHORISED p := by
  have hp : p < 4 := Nat.lt_of_lt_of_le hpart (partCount_le_four s.mode)
  have hunlock := unlock_good hp hlen hscope hzero hheld hpart hnonce hdev hsig
  obtain ⟨hauth, hjobs, hkey, hchal, hnoted⟩ := openDebug_secrets hp { s with dbgChal := mapErase s.dbgChal 4 }
  have hstep : exec (.dbgAuth b) s = .next
      { tapSelect (openDebug { s with dbgChal := mapErase s.dbgChal 4 } p) 0x11 false s.tapResult with tapResult := St.OK } := by
    change execDbgAuth b s = _
    simp only [execDbgAuth, hunlock, if_true]
  generalize openDebug { s with dbgChal := mapErase s.dbgChal 4 } p = u at hauth hjobs hkey hchal hnoted hstep
  exact ⟨_, hstep, hauth, rfl, rfl, (congrArg (mapFind · 4) hchal).trans (mapFind_mapErase_same ..), hjobs, hkey, hnoted⟩

theorem dbgAuth_malformed_results {b : List Byte} (h : b.length ≠ 256 ∨ 16 ≤ leNat (sub b 80 1)) (s : State) :
    ∃ u, exec (.dbgAuth b) s = .next u ∧ u.tapResult = St.BAD_DESC ∧ NotedPkg u srcVordaust K.DEBUG_AUTH_FAIL ∧ u.regs = s.regs := by
  have hstep : exec (.dbgAuth b) s = .next (sendFault { tapSelect s 0x11 false s.tapResult with tapResult := St.BAD_DESC }
      { mkFault srcVordaust K.DEBUG_AUTH_FAIL 0 0 St.BAD_DESC with part := none }) := by
    change execDbgAuth b s = _
    simp only [execDbgAuth, unlock_malformed h]
    rfl
  exact ⟨_, hstep, rfl, ⟨0, St.BAD_DESC, _, List.mem_append_right _ (List.mem_singleton.2 rfl)⟩, rfl⟩

/-- Settles O54, part by part: the lemmas above say what each access, scan and token does. -/
theorem debugResults : Obligations.debug_results := by
  unfold Obligations.debug_results
  refine ⟨fun port t r v s => ⟨fun hopen hpart hpresent htile => window_gpr_results hopen hpart hpresent htile r v,
      fun hlocked off => window_locked_results hlocked off v⟩,
    fun port t v s haccess hauth => ⟨fun hopen _ => accDbg_open_results haccess hauth v hopen,
      accDbg_busy_results haccess hauth v, fun hopen _ => sideDbg_open_results haccess hauth v hopen, sideDbg_busy_results haccess hauth v⟩,
    fun cells pins load tdi s => ⟨fun hdrive => extest_driven_results hdrive cells, fun hdrive => extest_undriven_results hdrive cells,
      fltPins_unpowered, idcode_results s, ?_, ?_, bypass_results tdi s⟩,
    fun t r v s haddr hauth hsafe hpresent hopen => tap_gpr_results haddr hauth hsafe hpresent hopen v,
    fun v s => ⟨fun hmay => tap_refused_results hmay v, ?_, dbgChal_results s⟩,
    fun b p s => ⟨dbgAuth_good_results, fun h => dbgAuth_malformed_results h s⟩⟩
  · exact ⟨_, rfl, rfl, rfl, rfl⟩
  · exact ⟨_, rfl, rfl, rfl, rfl⟩
  · exact ⟨_, rfl, rfl, rfl, rfl, rfl⟩

end Sys2Proof.Machine
end
